-- ==== Sys2Proof/Word.lean ====
section
/-! DEFINITION. The words Caryx computes with: bytes, registers, queue words. -/

namespace Sys2Proof

/-- One byte of memory, of a frame or of a flash area. -/
abbrev Byte := BitVec 8

/-- A register of control space, a general register of a core, an address. -/
abbrev Word := BitVec 32

/-- A queue word, an accumulator, a serial. -/
abbrev Dword := BitVec 64

end Sys2Proof
end

