-- ==== Sys2Proof/Syntax.lean ====
section
/-! DEFINITION. The commands the block takes, one constructor for each row of the opcode table, and the operands
they carry. -/

namespace Sys2Proof

/-- A general register number, a five-bit field of an instruction (R320). -/
abbrev Reg := BitVec 5

/-- The twelve kinds of block window of control space (R38). -/
inductive Blk where
  | heath | hedge | qeng | qdr | lane | life | mantle | upl | stat | meadow | seam | pad
  deriving DecidableEq, Repr

/-- An order descriptor without its opcode, which the command's own name gives (R17, R18), with its submitter. -/
structure Desc where
  /-- Requester number of R42. -/
  req : Nat
  /-- Byte 1 bit 0: power up the target's domain if it is off. -/
  wake : Bool := false
  /-- Byte 1 bits [7:1], which must be 0. -/
  rsv : BitVec 7 := 0
  tag : BitVec 16 := 0
  target : Word := 0
  /-- Bytes 8 to 15, byte 8 in bits [7:0]. -/
  arg : Dword := 0
  deriving DecidableEq, Repr

/-- An upstream Sward frame as the line delivers it (R63, R64). -/
structure RxFrame where
  /-- The PCS reported a coding error. -/
  codingErr : Bool := false
  /-- The eight header bytes, byte 0 in bits [7:0]. -/
  hdr : Dword
  payload : List Byte
  /-- The CRC-32 received. -/
  fcs : Word
  /-- Entries the reader of the receive FIFO had not yet taken when the frame's last came (R467, R468). -/
  behind : Nat := 0
  deriving DecidableEq, Repr

/-- An Ethernet frame from the destination MAC to the last byte before the frame check sequence (R541). -/
structure EthFrame where
  bytes : List Byte
  fcs : Word
  /-- Entries the reader of the receive FIFO had not yet taken when the frame's last came (R467, R468). -/
  behind : Nat := 0
  deriving DecidableEq, Repr

/-- A UDP datagram that reached the own address: source IPv6 address, source port and payload (R550, R552). -/
structure Datagram where
  srcAddr : BitVec 128
  srcPort : BitVec 16
  payload : List Byte
  deriving DecidableEq, Repr

/-- A debug instruction of requester 411 (R523). -/
inductive DebugOp where
  | halt (r : Nat)
  | resume (r : Nat)
  | readReg (r : Nat) (g : Reg)
  | writeReg (r : Nat) (g : Reg) (v : Word)
  | readLocal (r : Nat) (addr : Nat)
  | writeLocal (r : Nat) (addr : Nat) (v : Word)
  | readMem (addr : Nat)
  | writeMem (addr : Nat) (v : Word)
  | popCompletion
  deriving DecidableEq, Repr

/-- A bit of a 72-bit word of a memory flips: memory 0 to 3 a channel's, 16 + m the SRAM of meadow m, 256 + r the local SRAM of core r;
the word by its offset divided by 8; data bits 0 to 63, check bits 64 to 71 (R157, R359, R390). -/
structure Upset where
  mem : Nat
  word : Nat
  bit : Nat
  deriving DecidableEq, Repr

/-- A life record as a loss of power during its write left it: an open record by its position's index, or a retired one by its slot,
its 96 bytes, and whether one of its words is uncorrectable (R267, R268). -/
structure TornRec where
  retired : Bool
  slot : Nat
  bytes : List Byte
  bad : Bool
  deriving DecidableEq, Repr

/-- What the energy detector of a lane saw: a differential signal above `mv` mVpp for `ns` nanoseconds (R92). -/
structure LaneEnergy where
  lane : Nat
  mv : Nat := 0
  ns : Nat := 0
  deriving DecidableEq, Repr

/-- The 64 latest symbols on a lane: bit i of `plus` is set where symbol i + 1 is +1, of `minus` where it is -1 (R92). -/
structure LaneSymbols where
  lane : Nat
  plus : BitVec 64 := 0
  minus : BitVec 64 := 0
  deriving DecidableEq, Repr

/-- A scrubbing pass over a channel, and the bits of memories that flip from then on. -/
structure ScrubRun where
  ch : Nat
  upsets : List Upset := []
  deriving DecidableEq, Repr

/-- A seam whose watchdog bites, with the entries of its receive and transmit FIFOs not yet taken (R467, R469). -/
structure SeamSeen where
  sm : Nat
  rx : Nat := 0
  tx : Nat := 0
  deriving DecidableEq, Repr

/-- A power-on reset: whether it came by the loss of the supply, and the life records whose write that tore. -/
structure PowerLoss where
  supply : Bool := false
  torn : List TornRec := []
  deriving DecidableEq, Repr

/-- The commands of the block, in the order of the opcode table. `t` is the instant of the command in nanoseconds of
the block's own uptime, `req` a requester of R42, `r` a core's requester number, `d` an order descriptor. -/
inductive Instr where
  /-- REGISTER_WRITE, R6. -/
  | registerWrite (req : Nat) (addr : Nat) (v : Word)
  /-- CLAMP_LOG_CLEAR, R13. -/
  | clampLogClear (req : Nat) (blk : Blk) (inst : Nat)
  /-- COMPLETION_COMMIT, R24. -/
  | completionCommit (req : Nat)
  /-- HELD_ORDER_RECHECK, R22. -/
  | heldOrderRecheck (req : Nat)
  /-- PACE_WINDOW_END, R49. -/
  | paceWindowEnd (t : Nat) (m : Nat) (rate : Nat) (running : Nat) (waiting : Nat)
  /-- PACE_MIN_CLEAR, R50. -/
  | paceMinClear (req : Nat) (m : Nat)
  /-- DATA_RX, R66. -/
  | dataRx (t : Nat) (lane : Nat) (f : RxFrame)
  /-- DET_RX, R192. -/
  | detRx (t : Nat) (lane : Nat) (f : RxFrame)
  /-- FLT_RX, R284. -/
  | fltRx (t : Nat) (lane : Nat) (f : RxFrame)
  /-- RSP_RX, R81. -/
  | rspRx (t : Nat) (lane : Nat) (f : RxFrame)
  /-- ID_RX, R254. -/
  | idRx (t : Nat) (lane : Nat) (f : RxFrame)
  /-- ENERGY_RX, R254. -/
  | energyRx (t : Nat) (lane : Nat) (f : RxFrame)
  /-- STATUS_RX, R184. -/
  | statusRx (t : Nat) (lane : Nat) (f : RxFrame)
  /-- ENUM_REPORT_RX, R72. -/
  | enumReportRx (t : Nat) (lane : Nat) (f : RxFrame)
  /-- ENUM_ACK_RX, R74. -/
  | enumAckRx (t : Nat) (lane : Nat) (f : RxFrame)
  /-- DELAY_ACK_RX, R71. -/
  | delayAckRx (t : Nat) (lane : Nat) (f : RxFrame)
  /-- BULK_FILE_RELEASE, R85. -/
  | bulkFileRelease (t : Nat) (lane : Nat)
  /-- CREDIT_STALL_TIMER, R85. -/
  | creditStallTimer (t : Nat) (lane : Nat)
  /-- CREDIT_SEND, R84. -/
  | creditSend (t : Nat) (lane : Nat)
  /-- SYNC_SEND, R91. -/
  | syncSend (t : Nat) (lane : Nat)
  /-- SYNC_NOW, R91. -/
  | syncNow (t : Nat) (lane : Nat)
  /-- ENUM_WINDOW_CLOSE, R72. -/
  | enumWindowClose (t : Nat) (lane : Nat)
  /-- SWEEP_TIMER, R75. -/
  | sweepTimer (t : Nat) (lane : Nat)
  /-- SWEEP_NOW, R75. -/
  | sweepNow (t : Nat) (lane : Nat)
  /-- CMD_SEND, R79. -/
  | cmdSend (t : Nat) (lane : Nat)
  /-- CMD_TIMEOUT, R80. -/
  | cmdTimeout (t : Nat) (lane : Nat) (tag : Nat)
  /-- TAG_QUARANTINE_END, R80. -/
  | tagQuarantineEnd (t : Nat) (lane : Nat) (tag : Nat)
  /-- RELEASE_REPORT_TIMEOUT, R95. -/
  | releaseReportTimeout (t : Nat) (lane : Nat) (n : Nat)
  /-- LINK_UP, R94. -/
  | linkUp (t : Nat) (lane : Nat) (has24 : Bool) (has10 : Bool)
  /-- LINK_DOWN, R94. -/
  | linkDown (t : Nat) (lane : Nat)
  /-- LINK_ATTEMPT_TIMEOUT, R94. -/
  | linkAttemptTimeout (t : Nat) (lane : Nat)
  /-- LANE_START, R95. -/
  | laneStart (lane : Nat) (d : Desc)
  /-- LANE_STOP, R95. -/
  | laneStop (lane : Nat) (d : Desc)
  /-- LANE_ENUMERATE, R95. -/
  | laneEnumerate (lane : Nat) (d : Desc)
  /-- SEND_CMD, R95. -/
  | sendCmd (lane : Nat) (d : Desc)
  /-- SET_STREAM, R89. -/
  | setStream (lane : Nat) (d : Desc)
  /-- RELEASE_NODE, R95. -/
  | releaseNode (lane : Nat) (d : Desc)
  /-- LINE_TDR, R283. -/
  | lineTdr (lane : Nat) (d : Desc) (result : Word)
  /-- LANE_COUNTERS_CLEAR, R106. -/
  | laneCountersClear (lane : Nat) (d : Desc)
  /-- LANE_ENERGY_DETECT, R92. -/
  | laneEnergyDetect (t : Nat) (seen : LaneEnergy)
  /-- LANE_WAKE_PATTERN, R92. -/
  | laneWakePattern (t : Nat) (seen : LaneSymbols)
  /-- RAISE_FRAME_SEND, R178. -/
  | raiseFrameSend (t : Nat) (lane : Nat)
  /-- GATHER_WINDOW_CLOSE, R179. -/
  | gatherWindowClose (t : Nat) (lane : Nat)
  /-- GATHER_CAP_RELEASE, R180. -/
  | gatherCapRelease (t : Nat) (lane : Nat)
  /-- CATCHUP_FRAME_SEND, R31. -/
  | catchupFrameSend (t : Nat) (lane : Nat)
  /-- HOLD_EXPIRY, R194. -/
  | holdExpiry (t : Nat) (lane : Nat)
  /-- FADE_END, R194. -/
  | fadeEnd (t : Nat) (lane : Nat)
  /-- ENTRY, R196. -/
  | entry (t : Nat) (lane : Nat) (k : Nat)
  /-- OVERRIDE_END, R205. -/
  | overrideEnd (t : Nat) (lane : Nat)
  /-- CALENDAR_OCCURRENCE, R188. -/
  | calendarOccurrence (t : Nat) (lane : Nat)
  /-- SUN_COMPUTE, R187. -/
  | sunCompute (t : Nat) (lane : Nat)
  /-- SW_PARAM_WRITE, R203. -/
  | swParamWrite (req : Nat) (lane : Nat) (second : Bool) (v : Word)
  /-- SW_LIMIT_WRITE, R203. -/
  | swLimitWrite (req : Nat) (lane : Nat) (v : Word)
  /-- OVERRIDE_WRITE, R204. -/
  | overrideWrite (req : Nat) (lane : Nat) (node : Nat) (isEnd : Bool) (v : Word)
  /-- PRODUCER_FIRE, R215. -/
  | producerFire (events : List (Nat × Nat))
  /-- TASK_END, R229. -/
  | taskEnd (t : Nat) (ti : Nat)
  /-- REFRACTORY_END, R229. -/
  | refractoryEnd (t : Nat) (ti : Nat)
  /-- HEDGE_DELAY_IN, R239. -/
  | hedgeDelayIn (t : Nat) (k : Nat)
  /-- HEDGE_DELAY_EXPIRY, R239. -/
  | hedgeDelayExpiry (t : Nat) (k : Nat)
  /-- HEDGE_SW_FIRE, R227. -/
  | hedgeSwFire (req : Nat) (v : Word)
  /-- SELECTOR_WRITE, R222. -/
  | selectorWrite (req : Nat) (task : Bool) (i : Nat) (v : Word)
  /-- CHANNEL_WRITE, R223. -/
  | channelWrite (req : Nat) (c : Nat) (v : Word)
  /-- HC2_REPORT, R235. -/
  | hc2Report (t : Nat)
  /-- CLEAR_PENDING, R232. -/
  | clearPending (d : Desc)
  /-- HEDGE_COUNTERS_CLEAR, R244. -/
  | hedgeCountersClear (d : Desc)
  /-- JOURNAL_MARK_INPUT, R219. -/
  | journalMarkInput (t : Nat) (k : Nat)
  /-- QSEL, R128. -/
  | qsel (r : Nat) (ra : Reg)
  /-- QPUT, R128. -/
  | qput (r : Nat) (ra : Reg)
  /-- QEND, R128. -/
  | qend (r : Nat) (rd : Reg)
  /-- QRWD, R128. -/
  | qrwd (r : Nat)
  /-- QGET, R126. -/
  | qget (r : Nat) (rd : Reg)
  /-- QCNT, R131. -/
  | qcnt (r : Nat) (rd : Reg)
  /-- QCNTW, R131. -/
  | qcntw (r : Nat) (rd : Reg)
  /-- QFL, R132. -/
  | qfl (r : Nat)
  /-- PUSH_RELEASE, R118. -/
  | pushRelease (r : Nat)
  /-- HW_PACKET_COMMIT, R125. -/
  | hwPacketCommit (req : Nat) (q : Nat) (words : List Dword)
  /-- FLUSH, R143. -/
  | flush (d : Desc)
  /-- QUEUE_STATUS, R143. -/
  | queueStatus (d : Desc)
  /-- QUEUE_RESET, R143. -/
  | queueReset (d : Desc)
  /-- POOL_AUDIT, R143. -/
  | poolAudit (d : Desc)
  /-- QENG_COUNTERS_CLEAR, R149. -/
  | qengCountersClear (d : Desc)
  /-- SCRUB_PASS, R140. -/
  | scrubPass (t : Nat) (run : ScrubRun)
  /-- RECAL_TIMER, R167. -/
  | recalTimer (t : Nat) (ch : Nat) (eye : Nat) (group : Nat)
  /-- RECALIBRATE, R167. -/
  | recalibrate (ch : Nat) (d : Desc) (eye : Nat) (group : Nat)
  /-- FILL, R171. -/
  | fill (ch : Nat) (d : Desc)
  /-- QDR_COUNTERS_CLEAR, R175. -/
  | qdrCountersClear (ch : Nat) (d : Desc)
  /-- BULK_SCRUB_PASS, R164. -/
  | bulkScrubPass (t : Nat) (run : ScrubRun)
  /-- LIFE_ID_APPLY, R247. -/
  | lifeIdApply (t : Nat)
  /-- LIFE_ENERGY_APPLY, R255. -/
  | lifeEnergyApply (t : Nat)
  /-- LIFE_NOTICE_COMMIT, R263. -/
  | lifeNoticeCommit (t : Nat)
  /-- LIFE_EXPORT, R263. -/
  | lifeExport (t : Nat)
  /-- LIFE_MODEL_RECOMPUTE, R266. -/
  | lifeModelRecompute (t : Nat)
  /-- CAP_REFRESH, R258. -/
  | capRefresh (t : Nat)
  /-- READ_RECORD, R270. -/
  | readRecord (d : Desc)
  /-- READ_RETIRED, R270. -/
  | readRetired (d : Desc)
  /-- REGISTER_MODULE, R270. -/
  | registerModule (d : Desc)
  /-- CLOSE_RECORD, R270. -/
  | closeRecord (d : Desc)
  /-- EXPORT_ALL, R270. -/
  | exportAll (d : Desc)
  /-- LIFE_COUNTERS_CLEAR, R273. -/
  | lifeCountersClear (d : Desc)
  /-- WINDOW_SUMMARY, R275. -/
  | windowSummary (t : Nat) (lane : Nat) (n : Nat)
  /-- CYCLING_CLEAR, R279. -/
  | cyclingClear (t : Nat) (lane : Nat) (n : Nat)
  /-- NODE_MISSING_TIMEOUT, R281. -/
  | nodeMissingTimeout (t : Nat) (lane : Nat)
  /-- LINKING_BREAK_TIMEOUT, R282. -/
  | linkingBreakTimeout (t : Nat) (lane : Nat)
  /-- FAULT_PACKET_COMMIT, R291. -/
  | faultPacketCommit (t : Nat)
  /-- ACK_FAULT, R293. -/
  | ackFault (d : Desc)
  /-- READ_FAULT, R293. -/
  | readFault (d : Desc)
  /-- SNAPSHOT, R293. -/
  | snapshot (d : Desc)
  /-- FORCE_CLEAR, R293. -/
  | forceClear (d : Desc)
  /-- FLT_COUNTERS_CLEAR, R298. -/
  | fltCountersClear (d : Desc)
  /-- PERIOD_BOUNDARY, R303. -/
  | periodBoundary (t : Nat)
  /-- SET_PERIOD, R300. -/
  | setPeriod (d : Desc)
  /-- REDIGEST, R312. -/
  | redigest (d : Desc)
  /-- USER_COUNT, R310. -/
  | userCount (t : Nat) (k : Nat)
  /-- ADD, R324. -/
  | add (r : Nat) (rd : Reg) (ra : Reg) (rb : Reg)
  /-- SUB, R324. -/
  | sub (r : Nat) (rd : Reg) (ra : Reg) (rb : Reg)
  /-- AND, R324. -/
  | and (r : Nat) (rd : Reg) (ra : Reg) (rb : Reg)
  /-- OR, R324. -/
  | or (r : Nat) (rd : Reg) (ra : Reg) (rb : Reg)
  /-- XOR, R324. -/
  | xor (r : Nat) (rd : Reg) (ra : Reg) (rb : Reg)
  /-- NOR, R324. -/
  | nor (r : Nat) (rd : Reg) (ra : Reg) (rb : Reg)
  /-- SLT, R324. -/
  | slt (r : Nat) (rd : Reg) (ra : Reg) (rb : Reg)
  /-- SLTU, R324. -/
  | sltu (r : Nat) (rd : Reg) (ra : Reg) (rb : Reg)
  /-- SLL, R324. -/
  | sll (r : Nat) (rd : Reg) (ra : Reg) (rb : Reg)
  /-- SRL, R324. -/
  | srl (r : Nat) (rd : Reg) (ra : Reg) (rb : Reg)
  /-- SRA, R324. -/
  | sra (r : Nat) (rd : Reg) (ra : Reg) (rb : Reg)
  /-- SLLI, R324. -/
  | slli (r : Nat) (rd : Reg) (ra : Reg) (sh : BitVec 5)
  /-- SRLI, R324. -/
  | srli (r : Nat) (rd : Reg) (ra : Reg) (sh : BitVec 5)
  /-- SRAI, R324. -/
  | srai (r : Nat) (rd : Reg) (ra : Reg) (sh : BitVec 5)
  /-- MUL, R324. -/
  | mul (r : Nat) (rd : Reg) (ra : Reg) (rb : Reg)
  /-- MULH, R324. -/
  | mulh (r : Nat) (rd : Reg) (ra : Reg) (rb : Reg)
  /-- MULHU, R324. -/
  | mulhu (r : Nat) (rd : Reg) (ra : Reg) (rb : Reg)
  /-- DIV, R325. -/
  | div (r : Nat) (rd : Reg) (ra : Reg) (rb : Reg)
  /-- DIVU, R325. -/
  | divu (r : Nat) (rd : Reg) (ra : Reg) (rb : Reg)
  /-- REM, R325. -/
  | rem (r : Nat) (rd : Reg) (ra : Reg) (rb : Reg)
  /-- REMU, R325. -/
  | remu (r : Nat) (rd : Reg) (ra : Reg) (rb : Reg)
  /-- MIN, R324. -/
  | min (r : Nat) (rd : Reg) (ra : Reg) (rb : Reg)
  /-- MAX, R324. -/
  | max (r : Nat) (rd : Reg) (ra : Reg) (rb : Reg)
  /-- MINU, R324. -/
  | minu (r : Nat) (rd : Reg) (ra : Reg) (rb : Reg)
  /-- MAXU, R324. -/
  | maxu (r : Nat) (rd : Reg) (ra : Reg) (rb : Reg)
  /-- CLZ, R324. -/
  | clz (r : Nat) (rd : Reg) (ra : Reg)
  /-- SEXTB, R324. -/
  | sextb (r : Nat) (rd : Reg) (ra : Reg)
  /-- SEXTH, R324. -/
  | sexth (r : Nat) (rd : Reg) (ra : Reg)
  /-- ADDI, R326. -/
  | addi (r : Nat) (rd : Reg) (ra : Reg) (imm : BitVec 16)
  /-- ANDI, R326. -/
  | andi (r : Nat) (rd : Reg) (ra : Reg) (imm : BitVec 16)
  /-- ORI, R326. -/
  | ori (r : Nat) (rd : Reg) (ra : Reg) (imm : BitVec 16)
  /-- XORI, R326. -/
  | xori (r : Nat) (rd : Reg) (ra : Reg) (imm : BitVec 16)
  /-- SLTI, R326. -/
  | slti (r : Nat) (rd : Reg) (ra : Reg) (imm : BitVec 16)
  /-- SLTIU, R326. -/
  | sltiu (r : Nat) (rd : Reg) (ra : Reg) (imm : BitVec 16)
  /-- LUI, R326. -/
  | lui (r : Nat) (rd : Reg) (imm : BitVec 16)
  /-- LB, R330. -/
  | lb (r : Nat) (rd : Reg) (ra : Reg) (imm : BitVec 16)
  /-- LBU, R330. -/
  | lbu (r : Nat) (rd : Reg) (ra : Reg) (imm : BitVec 16)
  /-- LH, R330. -/
  | lh (r : Nat) (rd : Reg) (ra : Reg) (imm : BitVec 16)
  /-- LHU, R330. -/
  | lhu (r : Nat) (rd : Reg) (ra : Reg) (imm : BitVec 16)
  /-- LW, R330. -/
  | lw (r : Nat) (rd : Reg) (ra : Reg) (imm : BitVec 16)
  /-- LBU_P, R330. -/
  | lbuP (r : Nat) (rd : Reg) (ra : Reg) (imm : BitVec 16)
  /-- LHU_P, R330. -/
  | lhuP (r : Nat) (rd : Reg) (ra : Reg) (imm : BitVec 16)
  /-- LW_P, R330. -/
  | lwP (r : Nat) (rd : Reg) (ra : Reg) (imm : BitVec 16)
  /-- SB, R330. -/
  | sb (r : Nat) (rd : Reg) (ra : Reg) (imm : BitVec 16)
  /-- SH, R330. -/
  | sh (r : Nat) (rd : Reg) (ra : Reg) (imm : BitVec 16)
  /-- SW, R330. -/
  | sw (r : Nat) (rd : Reg) (ra : Reg) (imm : BitVec 16)
  /-- SB_P, R330. -/
  | sbP (r : Nat) (rd : Reg) (ra : Reg) (imm : BitVec 16)
  /-- SH_P, R330. -/
  | shP (r : Nat) (rd : Reg) (ra : Reg) (imm : BitVec 16)
  /-- SW_P, R330. -/
  | swP (r : Nat) (rd : Reg) (ra : Reg) (imm : BitVec 16)
  /-- BEQ, R332. -/
  | beq (r : Nat) (ra : Reg) (rb : Reg) (off : BitVec 16)
  /-- BNE, R332. -/
  | bne (r : Nat) (ra : Reg) (rb : Reg) (off : BitVec 16)
  /-- BLT, R332. -/
  | blt (r : Nat) (ra : Reg) (rb : Reg) (off : BitVec 16)
  /-- BGE, R332. -/
  | bge (r : Nat) (ra : Reg) (rb : Reg) (off : BitVec 16)
  /-- BLTU, R332. -/
  | bltu (r : Nat) (ra : Reg) (rb : Reg) (off : BitVec 16)
  /-- BGEU, R332. -/
  | bgeu (r : Nat) (ra : Reg) (rb : Reg) (off : BitVec 16)
  /-- J, R332. -/
  | j (r : Nat) (off : BitVec 26)
  /-- JAL, R332. -/
  | jal (r : Nat) (off : BitVec 26)
  /-- JR, R333. -/
  | jr (r : Nat) (ra : Reg)
  /-- JALR, R333. -/
  | jalr (r : Nat) (rd : Reg) (ra : Reg)
  /-- CALL, R334. -/
  | call (r : Nat) (mask : BitVec 8) (off : BitVec 18)
  /-- RET, R335. -/
  | ret (r : Nat) (mask : BitVec 8)
  /-- MACS, R327. -/
  | macs (r : Nat) (ac : Bool) (ra : Reg) (rb : Reg)
  /-- MACU, R327. -/
  | macu (r : Nat) (ac : Bool) (ra : Reg) (rb : Reg)
  /-- MSUS, R327. -/
  | msus (r : Nat) (ac : Bool) (ra : Reg) (rb : Reg)
  /-- MULS, R327. -/
  | muls (r : Nat) (ac : Bool) (ra : Reg) (rb : Reg)
  /-- MACX, R327. -/
  | macx (r : Nat) (ac : Bool) (ra : Reg) (rb : Reg)
  /-- MACM, R328. -/
  | macm (r : Nat) (ac : Bool) (ra : Reg) (rb : Reg)
  /-- MSUM, R328. -/
  | msum (r : Nat) (ac : Bool) (ra : Reg) (rb : Reg)
  /-- MTAC, R327. -/
  | mtac (r : Nat) (ac : Bool) (ra : Reg) (rb : Reg)
  /-- MFACL, R327. -/
  | mfacl (r : Nat) (ac : Bool) (rd : Reg)
  /-- MFACH, R327. -/
  | mfach (r : Nat) (ac : Bool) (rd : Reg)
  /-- MFACS, R327. -/
  | mfacs (r : Nat) (ac : Bool) (rd : Reg) (sh : BitVec 5)
  /-- ACCLR, R327. -/
  | acclr (r : Nat) (ac : Bool)
  /-- TAS, R336. -/
  | tas (r : Nat) (rd : Reg) (ra : Reg)
  /-- LR_W, R336. -/
  | lrW (r : Nat) (rd : Reg) (ra : Reg)
  /-- SC_W, R393. -/
  | scW (r : Nat) (rd : Reg) (ra : Reg) (rb : Reg)
  /-- NOP, R340. -/
  | nop (r : Nat)
  /-- WAIT, R341. -/
  | wait (r : Nat)
  /-- WAIT_WAKE, R341. -/
  | waitWake (t : Nat) (r : Nat)
  /-- SVC, R348. -/
  | svc (r : Nat) (code : BitVec 10)
  /-- BRK, R348. -/
  | brk (r : Nat) (code : BitVec 10)
  /-- RETT, R347. -/
  | rett (r : Nat)
  /-- MFSR, R340. -/
  | mfsr (r : Nat) (rd : Reg) (sr : BitVec 5)
  /-- MTSR, R319. -/
  | mtsr (r : Nat) (sr : BitVec 5) (ra : Reg)
  /-- SYNC, R340. -/
  | sync (r : Nat)
  /-- EVACK, R342. -/
  | evack (r : Nat) (j : BitVec 2)
  /-- REP, R343. -/
  | rep (r : Nat) (m : Bool) (ra : Reg) (cnt : BitVec 10)
  /-- ILLEGAL_INSTRUCTION, R323. -/
  | illegalInstruction (r : Nat) (w : Word)
  /-- HEDGEROW_EVENT_INPUT_TRAP, R350. -/
  | hedgerowEventInputTrap (r : Nat)
  /-- MEADOW_MAILBOX_TRAP, R350. -/
  | meadowMailboxTrap (r : Nat)
  /-- STORE_BUFFER_DRAIN, R362. -/
  | storeBufferDrain (r : Nat)
  /-- CORE_CNT_CLEAR, R382. -/
  | coreCntClear (r : Nat)
  /-- SENTINEL_FIRE, R400. -/
  | sentinelFire (t : Nat) (r : Nat)
  /-- RELOAD_CORE, R398. -/
  | reloadCore (m : Nat) (d : Desc)
  /-- MEADOW_COUNTERS_CLEAR, R407. -/
  | meadowCountersClear (m : Nat) (d : Desc)
  /-- DOMAIN_SWITCH_ON, R422. -/
  | domainSwitchOn (req : Nat) (dom : Nat)
  /-- DOMAIN_SWITCH_OFF, R419. -/
  | domainSwitchOff (req : Nat) (dom : Nat)
  /-- POWER_DOWN_DRAINED, R419. -/
  | powerDownDrained (t : Nat) (dom : Nat)
  /-- POWER_GOOD, R420. -/
  | powerGood (t : Nat) (dom : Nat)
  /-- POWER_GOOD_TIMEOUT, R448. -/
  | powerGoodTimeout (t : Nat) (dom : Nat)
  /-- XREF_READY, R448. -/
  | xrefReady (t : Nat)
  /-- XREF_TIMEOUT, R448. -/
  | xrefTimeout (t : Nat)
  /-- PLL_LOCK, R448. -/
  | pllLock (t : Nat) (dom : Nat)
  /-- PLL_LOCK_TIMEOUT, R448. -/
  | pllLockTimeout (t : Nat) (dom : Nat)
  /-- OWN_START_DONE, R420. -/
  | ownStartDone (t : Nat) (dom : Nat) (failed : Nat) (eye : Nat) (group : Nat)
  /-- OWN_START_TIMEOUT, R448. -/
  | ownStartTimeout (t : Nat) (dom : Nat)
  /-- RETRY_RESTART, R450. -/
  | retryRestart (t : Nat) (dom : Nat)
  /-- DEV_MODE_WRITE, R424. -/
  | devModeWrite (req : Nat) (v : Word)
  /-- DESCENT_COMPLETE, R425. -/
  | descentComplete (t : Nat)
  /-- LEVEL_CHANGE_DONE, R412. -/
  | levelChangeDone (t : Nat) (m : Nat)
  /-- LAT_HOLD_EXPIRY, R413. -/
  | latHoldExpiry (t : Nat) (m : Nat)
  /-- PACE_EVENT, R415. -/
  | paceEvent (t : Nat) (m : Nat)
  /-- GOV_WRITE, R414. -/
  | govWrite (req : Nat) (m : Nat) (v : Word)
  /-- RETRY_DOMAIN, R434. -/
  | retryDomain (d : Desc)
  /-- HEATH_COUNTERS_CLEAR, R434. -/
  | heathCountersClear (d : Desc)
  /-- MEADOW_START, R435. -/
  | meadowStart (m : Nat) (d : Desc)
  /-- MEADOW_STOP, R435. -/
  | meadowStop (m : Nat) (d : Desc)
  /-- PAD_GROUP_RELEASE, R432. -/
  | padGroupRelease (req : Nat) (k : Nat)
  /-- GPIO_EDGE, R433. -/
  | gpioEdge (t : Nat) (g : Nat) (level : Bool)
  /-- GPIO_ACTION, R433. -/
  | gpioAction (t : Nat) (g : Nat)
  /-- GPIO_PULSE_END, R433. -/
  | gpioPulseEnd (t : Nat) (g : Nat)
  /-- UPLINK_ENERGY, R443. -/
  | uplinkEnergy (t : Nat) (n : Nat)
  /-- WAKE_PIN, R443. -/
  | wakePin (t : Nat)
  /-- WAKE_INPUT, R446. -/
  | wakeInput (t : Nat) (k : Nat)
  /-- XREF_STOP, R453. -/
  | xrefStop (t : Nat) (restarted : Bool)
  /-- SAMPLER_PASS, R456. -/
  | samplerPass (t : Nat) (volts : List Nat)
  /-- RUN_NOW, R457. -/
  | runNow (t : Nat) (volts : List Nat)
  /-- SAMPLER_HOLD, R457. -/
  | samplerHold (t : Nat)
  /-- SAMPLER_RELEASE, R457. -/
  | samplerRelease (t : Nat)
  /-- CLEAR_COUNTS, R457. -/
  | clearCounts (t : Nat)
  /-- SAMPLE, R458. -/
  | sample (d : Desc) (uv : Nat)
  /-- WAKE_COUNTERS_CLEAR, R458. -/
  | wakeCountersClear (d : Desc)
  /-- SEAM_WATCHDOG, R475. -/
  | seamWatchdog (t : Nat) (seen : SeamSeen)
  /-- ISLAND_RELEASE, R475. -/
  | islandRelease (t : Nat) (sm : Nat)
  /-- SEAM_REALIGN, R473. -/
  | seamRealign (t : Nat) (sm : Nat)
  /-- ISLAND_CLOCK_STOP, R470. -/
  | islandClockStop (t : Nat) (sm : Nat)
  /-- ISLAND_CLOCK_RETURN, R470. -/
  | islandClockReturn (t : Nat) (sm : Nat)
  /-- SEAM_ACCESS_TIMEOUT, R470. -/
  | seamAccessTimeout (t : Nat) (req : Nat)
  /-- SEAM_COUNTERS_CLEAR, R479. -/
  | seamCountersClear (d : Desc)
  /-- STAGE_COPY, R498. -/
  | stageCopy (d : Desc)
  /-- APPLY, R495. -/
  | apply (d : Desc)
  /-- MANTLE_COUNTERS_CLEAR, R510. -/
  | mantleCountersClear (d : Desc)
  /-- CLAIM, R520. -/
  | claim (d : Desc)
  /-- ATTEST, R526. -/
  | attest (d : Desc)
  /-- DEVICE_CERT, R527. -/
  | deviceCert (d : Desc)
  /-- DEBUG_CHALLENGE, R536. -/
  | debugChallenge (d : Desc)
  /-- DEBUG_UNLOCK, R524. -/
  | debugUnlock (d : Desc)
  /-- DEBUG_LOCK, R524. -/
  | debugLock (d : Desc)
  /-- DEBUG_EXPIRY, R524. -/
  | debugExpiry (t : Nat)
  /-- JOURNAL_MARK, R536. -/
  | journalMark (d : Desc)
  /-- JOURNAL_READ, R536. -/
  | journalRead (d : Desc)
  /-- REVOKE_MAKER_SLOT, R518. -/
  | revokeMakerSlot (d : Desc)
  /-- ROOT_STEP, R522. -/
  | rootStep (d : Desc)
  /-- QUIESCE_ALL, R536. -/
  | quiesceAll (d : Desc)
  /-- MAKER_DIAG, R536. -/
  | makerDiag (d : Desc)
  /-- JOURNAL_EXPORT, R532. -/
  | journalExport (t : Nat)
  /-- JOURNAL_HELD_FLUSH, R533. -/
  | journalHeldFlush (t : Nat)
  /-- UPLINK_FRAME_RX, R541. -/
  | uplinkFrameRx (t : Nat) (n : Nat) (f : EthFrame)
  /-- PTP_MESSAGE_RX, R546. -/
  | ptpMessageRx (t : Nat) (n : Nat) (named : Bool) (complete : Bool) (offset : Int)
  /-- PTP_HOLDOVER, R546. -/
  | ptpHoldover (t : Nat)
  /-- HANDOFF_RX, R552. -/
  | handoffRx (t : Nat) (n : Nat) (f : Datagram)
  /-- HANDOFF_OUT, R551. -/
  | handoffOut (t : Nat) (n : Nat) (k : Nat)
  /-- EXPORT_SEND, R544. -/
  | exportSend (t : Nat) (n : Nat) (j : Nat)
  /-- WRITE_STAGING, R554. -/
  | writeStaging (n : Nat) (off : Nat) (bytes : List Byte)
  /-- SUBMIT, R556. -/
  | submit (t : Nat) (port : Nat) (off : Nat) (len : Nat)
  /-- READ, R554. -/
  | read (t : Nat) (n : Nat) (addr : Nat) (count : Nat)
  /-- UPLINK_LINK_CHANGE, R560. -/
  | uplinkLinkChange (t : Nat) (n : Nat) (up : Bool) (an : Bool)
  /-- UPLINK_COUNTERS_CLEAR, R561. -/
  | uplinkCountersClear (n : Nat) (d : Desc)
  /-- TIME_SET, R561. -/
  | timeSet (d : Desc)
  /-- TB_COUNTERS_CLEAR, R561. -/
  | tbCountersClear (d : Desc)
  /-- ALARM, R548. -/
  | alarm (t : Nat) (k : Nat)
  /-- PPS, R548. -/
  | pps (t : Nat)
  /-- CAPTURE, R548. -/
  | capture (t : Nat) (k : Nat)
  /-- TB_RATE_WRITE, R546. -/
  | tbRateWrite (req : Nat) (v : Word)
  /-- TB_SEC_LO_READ, R565. -/
  | tbSecLoRead (t : Nat) (req : Nat)
  /-- I2C_ADDRESS_MATCH, R558. -/
  | i2cAddressMatch (t : Nat)
  /-- RD_ADDR_WRITE, R559. -/
  | rdAddrWrite (addr : Word)
  /-- STG_DATA_WRITE, R559. -/
  | stgDataWrite (off : Option (BitVec 24)) (bytes : List Byte)
  /-- SUB_LEN_WRITE, R559. -/
  | subLenWrite (t : Nat) (off : BitVec 24) (len : Word)
  /-- POWER_ON_RESET, R568. -/
  | powerOnReset (t : Nat) (loss : PowerLoss)
  /-- RESET_N, R569. -/
  | resetN (t : Nat)
  /-- DEVICE_RESET, R572. -/
  | deviceReset (d : Desc)
  /-- DEVICE_RESET_TIMER, R572. -/
  | deviceResetTimer (t : Nat)
  /-- MANTLE_ROM_VERIFY, R578. -/
  | mantleRomVerify (t : Nat)
  /-- BOOT_STAGE1, R578. -/
  | bootStage1 (t : Nat)
  /-- BOOT_STAGE2, R578. -/
  | bootStage2 (t : Nat)
  /-- BOOT_FALLBACK, R576. -/
  | bootFallback (t : Nat)
  /-- SLOT_WRITE, R581. -/
  | slotWrite (d : Desc)
  /-- SLOT_SEAL, R581. -/
  | slotSeal (d : Desc)
  /-- ENUM_ACK_TIMEOUT, R71. -/
  | enumAckTimeout (t : Nat) (lane : Nat) (n : Nat)
  /-- DEBUG_ACCESS, R523. -/
  | debugAccess (t : Nat) (op : DebugOp)
  /-- FRAME_LEFT, R95. -/
  | frameLeft (t : Nat) (lane : Nat)
  /-- IMAGE_RELOAD_PATH_READY, R421. -/
  | imageReloadPathReady (t : Nat)
  /-- RESET_RELEASE, R586. -/
  | resetRelease (t : Nat) (bootsel : BitVec 2) (maddr : BitVec 3) (install : Bool)
  deriving DecidableEq, Repr

end Sys2Proof
end

