-- ==== Sys2Proof/Config.lean ====
section
/-! DEFINITION. What one device fixes and the spec leaves open: values of other standards, of manufacture and of the
analogue world, and the free values. Every constant here has no body, so no proof can see a value. -/

namespace Sys2Proof

/-- Free values: what the spec leaves undefined or does not state, one for each draw (log entry 7). -/
opaque Config.free : Nat → BitVec 128

/-- The ordering code is TQ-CX144-XB (R1, R411). -/
opaque Config.xb : Bool

/-- SHA-384 of a byte string, 48 bytes (log entry 8). -/
opaque Config.sha384 : List Byte → List Byte

/-- RSASSA-PSS verification of R489: exponent, modulus, message, signature (log entry 8). -/
opaque Config.rsaVerify : Word → List Byte → List Byte → List Byte → Bool

/-- SLH-DSA-SHA2-192s verification of R489: public key, message, signature (log entry 8). -/
opaque Config.slhVerify : List Byte → List Byte → List Byte → Bool

/-- The signature block the device's own keys make over a message and bytes 0 to 15 of the block (R526). -/
opaque Config.deviceSign : List Byte → List Byte

/-- Bytes 0 to 15 of HMAC-SHA-256 under a link key (R550, log entry 8). -/
opaque Config.hmac : BitVec 256 → List Byte → List Byte

/-- The device serial in OTP (R522). -/
opaque Config.serial : Dword

/-- The fingerprint of a maker slot in OTP, 48 bytes (R522). -/
opaque Config.otpFpr : Nat → List Byte

/-- The key entry of a maker slot as manufactured: exponent, modulus, SLH-DSA key (R515, R525). -/
opaque Config.makerKey : Nat → Word × List Byte × List Byte

/-- Issue time, RSA modulus and SLH-DSA key of the device certificate, and its signature block (R525). -/
opaque Config.deviceCert : BitVec 48 × List Byte × List Byte × List Byte

/-- Entry `k` of the peer table a BLOB holds, whose byte layout the spec does not give (R549, log entry 31): VALID, IPv6
address, MAC, port, serial, peer, collector, link key. -/
opaque Config.peerEntry : List Byte → Nat →
  Bool × BitVec 128 × BitVec 48 × BitVec 16 × Dword × Bool × Bool × BitVec 256

/-- Whether the flash takes and reads back a program operation, by the number of free values drawn before it (R500, R581,
log entry 32). -/
opaque Config.flashOk : Nat → Bool

/-- Whether the records of an image pass their hash check as they are read, by the number of free values drawn before it (R421, log
entry 32). -/
opaque Config.imageOk : Nat → Bool

/-- By how many seconds a lane's crossing of a kind is off the true one, given latitude, longitude and solar day; the lane keeps it
within the tolerance of R187 (log entry 18). -/
opaque Config.sunError : (kind : Nat) → (lat lon day : Int) → Int

/-- Hh of a window whose fundamental is 0, which R275 does not state (log entry 19). -/
opaque Config.noFund : Nat → Nat

/-- What a field of a summary shows of a figure too wide for it (R275, R276, log entry 19). -/
opaque Config.tooWide : Nat → Nat

/-- Column of data bit `j` of the (72,64) Hsiao code, which the spec does not list (R157, log entry 144). -/
opaque Config.hsiaoColumn : Nat → BitVec 8

/-- HEAD_BLOCK and HEAD_WORD, or TAIL_BLOCK and TAIL_WORD, of a queue with no such word, which the spec does not state (R117, log
entry 11). -/
opaque Config.noPlace : Nat → Bool → BitVec 25

/-- How a quotient or a root that is no whole number is rounded, given its terms: up, or down (log entry 19). -/
opaque Config.roundUp : Nat → Nat → Bool

/-- Rate correction the PTP servo takes from its offsets, in units of 2^-16 ppm (R546, log entry 20). -/
opaque Config.servoRate : Int → Int → Int

end Sys2Proof
end

