-- ==== Sys2Proof/Machine/State.lean ====
section
/-! DEFINITION. The state of the block as plain data, the reasons a step can stop, and the state after reset. -/

namespace Sys2Proof.Machine

/-- A sparse store: keys strictly rising, no entry equal to what an unlisted key reads as (Ops.lean). Memories,
registers, lanes, nodes, cores and queues are held this way, so that equal contents are equal data. -/
abbrev Table (α : Type) := List (Nat × α)

/-- Why a command stops the block. No command of this spec does (NOTES.md, Stops), so nothing raises it. -/
inductive Fault where
  /-- Reserved: raised by no meaning; safe. -/
  | stuck
  deriving DecidableEq, Repr

/-- Why a command has no meaning. -/
inductive Refusal where
  /-- Raised by an arm of `exec` whose command is not modelled; safe. -/
  | notModelled (mnemonic : String)
  deriving DecidableEq, Repr

/-! Queues and orders -/

/-- A word of a queue as it was written, and where what the memory holds differs from its code word: data bits 63 to 0, check
bits 71 to 64 (R137, R157). -/
structure QWord where
  w : Dword
  err : BitVec 72 := 0
  deriving DecidableEq, Repr

/-- A block of the data pool held for a queue: its place in the queue's stream of words, 31 to a block, its index in the pool, and
the errors of its link word (R116, R117). -/
structure Block where
  at_ : Nat
  idx : Nat
  link : BitVec 72 := 0
  deriving DecidableEq, Repr

/-- A packet, header first (R120), or the single item of a raw-word class (R127). -/
abbrev Packet := List QWord

/-- The queue's own part of its descriptor (R117) with the errors of its four words, its committed packets, oldest first, the
place in the stream of the first committed word, and the blocks that hold committed and claimed words. -/
structure Queue where
  pkts : List Packet := []
  base : Nat := 0
  blocks : List Block := []
  desc : Table (BitVec 72) := []
  epoch : BitVec 8 := 0
  drops : Word := 0
  corrected : Word := 0
  broken : Bool := false
  deriving DecidableEq, Repr

/-- Class and enable of a device queue (R110, R113). -/
structure QCfg where
  cls : Nat
  en : Bool
  deriving DecidableEq, Repr

/-- A QRANGE record of the queue map in force (R492). -/
structure QRange where
  first : Nat
  count : Nat
  cfg : QCfg
  deriving DecidableEq, Repr

/-- How the pushes of an open packet end once the packet is gone (R132, R134, R135). -/
inductive Swallow where
  | none
  /-- A flush took it: QEND returns 1. -/
  | flushed
  /-- A change of epoch, a reset: QEND returns 2, and each push counts in EPOCH_DROP. -/
  | epoch
  /-- Loss of the channel, refusal or overlength: QEND returns 2. -/
  | rewound
  deriving DecidableEq, Repr

/-- A requester's producer context with the blocks of its open packet (R124). -/
structure ProdCtx where
  q : Nat
  words : List QWord := []
  swallow : Swallow := .none
  blocks : List Block := []
  deriving DecidableEq, Repr

/-- A requester's consumer context (R126): the unread words of the claimed packet, the index of the next in the packet, and its
place in the queue's stream. -/
structure ConsCtx where
  q : Nat
  rest : List QWord
  idx : Nat
  at_ : Nat := 0
  deriving DecidableEq, Repr

/-- A queue-engine slice with its memory channel (R136, R147, R162, R168). -/
structure Chan where
  /-- QENG_CHAN.STATE: 0 off, 1 FAULTED, 2 starting, 3 available. -/
  st : Nat := 0
  retained : Bool := false
  gen : BitVec 8 := 0
  /-- Blocks no queue reaches until POOL_AUDIT (R139). -/
  leaked : List Nat := []
  /-- A correct retention stamp stands in the memory (R136). -/
  stamp : Bool := false
  qpwr : Bool := false
  /-- Geometry and pool taken at the latest start; the reset geometry before one (R156, R162). -/
  geom : Word := 6
  pool : Nat := 0
  poolSet : Bool := false
  /-- QDR_CFG as the present start took it, for KFREQ, RL and SUPPLY_MS (R173), and whether this start waits SUPPLY_MS (R165). -/
  cfg : Word := 0x23C28
  settles : Bool := false
  /-- Bytes of bulk parts by channel offset, and the errors of their words by word of the channel (R157, R159). -/
  bulk : Table Byte := []
  bulkErr : Table (BitVec 72) := []
  /-- Uptime of the latest timed recalibration, patrol pass and bulk pass, or of the channel's start (R140, R164, R167). -/
  recalAt : Nat := 0
  scrubAt : Nat := 0
  bulkAt : Nat := 0
  /-- Requests held while the controller's clock or PLL is away (R453, R475). -/
  paused : Bool := false
  deriving DecidableEq, Repr

/-- An order under way or held: where it was submitted, by whom, and its descriptor. -/
structure OrderRef where
  blk : Blk
  inst : Nat
  op : Nat
  d : Desc
  deriving DecidableEq, Repr

/-- A completion held because the requester's queue does not accept it (R24). -/
structure HeldCompletion where
  blk : Blk
  inst : Nat
  req : Nat
  words : List Dword
  /-- It has waited at the queue and been counted so (R149). -/
  counted : Bool := false
  deriving DecidableEq, Repr

/-- A stamp of the journal's denial limit (R4). -/
structure Denials where
  /-- Town second and nanoseconds (in units of 2^-16 ns) of the latest denial entry. -/
  last : Option Nat := none
  quiet : Nat := 0
  deriving DecidableEq, Repr

/-! Lanes -/

/-- The state of a lane port (R93). -/
inductive LaneSt where
  | off | faulted | stopped | linking | enumerating | operating
  deriving DecidableEq, Repr

/-- A stream setting in the codes of R87. -/
structure Stream where
  mode : BitVec 2
  fm : BitVec 2
  fc : BitVec 3
  t : BitVec 2
  thresh : Byte
  deriving DecidableEq, Repr

/-- One LEVEL entry (R67). -/
structure LevelEntry where
  node : Nat
  level : Nat
  ramp : Nat
  deriving DecidableEq, Repr

/-- Phase of a node's hold (R194). -/
inductive HoldPhase where
  | idle | held | fading
  deriving DecidableEq, Repr

/-- Why a node's level changes, which decides the entry's RAMP (R182). -/
inductive Cause where
  | none
  | refresh
  | override (ramp : Nat)
  | fade (ramp : Nat)
  | base (ramp : Nat)
  | other
  deriving DecidableEq, Repr

/-- What a node is waiting for in steps 4 to 8 of enumeration (R71). -/
inductive EnumStep where
  | none
  | assign
  | ack (until_ : Nat) (sent : Nat)
  | delay
  | delayAck (until_ : Nat)
  | stream
  deriving DecidableEq, Repr

/-- A node of a lane: link engine, swath engine and summariser records. -/
structure Node where
  /-- 0 vacant or absent by listing, 2 assigned (R107). -/
  assigned : Bool := false
  serial : Dword := 0
  inc : BitVec 4 := 0
  pos : Nat := 0
  delayNs : Word := 0
  rtt : Word := 0
  grant : Option Stream := none
  /-- Assigned while the lane domain has stayed on (R72). -/
  sinceOn : Bool := false
  lastSeq : Option (BitVec 16) := none
  enumStep : EnumStep := .none
  /-- Lane silence clock at the latest assignment, confirmation or accepted STATUS (R107). -/
  silentFrom : Nat := 0
  /-- Uptime and town second of the latest accepted STATUS (R282, R290). -/
  lastStatus : Option (Nat × Nat) := none
  /-- The latest enumeration or sweep found no REPORT for it (R281). -/
  unanswered : Bool := false
  /-- It met the missing condition, and no STATUS has been accepted from it since (R281). -/
  missing : Bool := false
  phase : HoldPhase := .idle
  holdEnd : Nat := 0
  fadeEnd : Nat := 0
  swath : Nat := 0
  dir : Nat := 0
  /-- last(n): town time in microseconds (R192) and whether matched. -/
  lastDet : Option (Nat × Bool) := none
  /-- Level and RAMP last sent and when (R177, R184). -/
  sent : Option (Nat × Nat × Nat) := none
  cause : Cause := .none
  raiseDue : Bool := false
  refreshDue : Bool := false
  capHeld : Bool := false
  /-- Changes of L, oldest first: uptime and the new L (R276, R277). -/
  lHist : List (Nat × Nat) := []
  /-- Ramps sent, oldest first: start and end (R277). -/
  ramps : List (Nat × Nat) := []
  /-- L as it last stood, to see it change. -/
  lSeen : Nat := 1000
  deriving DecidableEq, Repr

/-- The summariser's record of one node (R275 to R283, R295). -/
structure NodeWave where
  /-- Start of the window being collected, town microseconds. -/
  winStart : Option Nat := none
  /-- Samples not yet summarised: town microseconds and code. -/
  samples : List (Nat × Nat) := []
  /-- STATUS frames accepted of late: town microseconds, SUPPLY and FAILSAFE. -/
  statuses : List (Nat × Nat × Bool) := []
  /-- Steps below I_OFF at the end of the window latest summarised (R279). -/
  run : Nat := 0
  /-- Debounce counts, seen and unseen, of classes 0x01, 0x02, 0x03. -/
  seen : List Nat := [0, 0, 0]
  unseen : List Nat := [0, 0, 0]
  /-- Town seconds at which dropouts began, and from which they are watched (R279). -/
  dropouts : List Nat := []
  watched : Option Nat := none
  /-- Figures of the latest summary, for fault DETAIL. -/
  rms : Nat := 0
  crest : Nat := 0
  thd : Nat := 0
  deriving DecidableEq, Repr

/-- A REPORT of a collection window (R72). -/
structure Report where
  addr : Nat
  inc : BitVec 4
  pos : Nat
  serial : Dword
  deriving DecidableEq, Repr

/-- An enumeration or sweep in progress (R71, R75). -/
structure EnumRun where
  sweep : Bool
  forced : Bool
  windowEnd : Nat
  closed : Bool := false
  reports : List Report := []
  order : Option Desc := none
  /-- The DISCOVER has left. -/
  discovered : Bool := false
  /-- Hop count of the SWEEP_NOW event that started it (R218). -/
  hop : Option Nat := none
  /-- Addresses and positions still to be assigned. -/
  todo : List (Nat × Nat) := []
  /-- What the window saw: one serial at two positions, and unknown serials; shown at the end of the run (R103). -/
  dup : Bool := false
  unknown : Nat := 0
  deriving DecidableEq, Repr

/-- Who waits for a node command's outcome. -/
inductive CmdFor where
  /-- A SEND_CMD order. -/
  | order (d : Desc)
  /-- The SET_STREAM collection with this key. -/
  | stream (key : Nat)
  /-- Step 8 of enumeration. -/
  | enum
  /-- AUTO_TDR of R282. -/
  | tdr
  deriving DecidableEq, Repr

/-- A node command (R78). -/
structure Cmd where
  addr : Nat
  inc : BitVec 4
  code : Nat
  args : List Byte
  for_ : CmdFor
  deriving DecidableEq, Repr

/-- A command tag (R79 to R81). -/
inductive TagSt where
  | free
  /-- The frame is leaving or has left; `deadline` is none until it has left. -/
  | outstanding (c : Cmd) (deadline : Option Nat)
  | quarantined (until_ : Nat)
  deriving DecidableEq, Repr

structure Tag where
  st : TagSt := .free
  gen : BitVec 4 := 0
  deriving DecidableEq, Repr

/-- A SET_STREAM order collecting its nodes' answers (R89, R95). -/
structure StreamOrder where
  key : Nat
  d : Desc
  set : Stream
  clamped : Bool
  left : List Nat
  missed : Nat := 0
  mismatch : Bool := false
  deriving DecidableEq, Repr

/-- A RELEASE_NODE waiting for its REPORT (R95). -/
structure ReleaseWait where
  d : Desc
  node : Nat
  pos : Nat
  until_ : Nat
  sent : Bool := false
  deriving DecidableEq, Repr

/-- A downstream frame (R64, R67). -/
inductive DownFrame where
  | sync
  | credit
  | discover (unassignedOnly : Bool)
  | assign (node pos : Nat)
  | delay (node : Nat)
  | release (node : Nat)
  | cmd (tag : Nat)
  | level (gathered : Bool) (entries : List LevelEntry)
  deriving DecidableEq, Repr

/-- An upstream frame waiting to be filed (R85): its type, header, arrival as T48 and payload. -/
structure HeldFrame where
  type : Nat
  hdr : Dword
  arrived : Nat
  payload : List Byte
  /-- The life engine or the summariser has already taken it. -/
  taken : Bool := false
  deriving DecidableEq, Repr

/-- A lane port with its engines. -/
structure Lane where
  st : LaneSt := .off
  applyActive : Bool := false
  linkUp : Bool := false
  ampRes : Nat := 0
  /-- LANE_CFG.AMP and LPI_EN as the lane last entered LINKING (R62, R76), and low-power idle on the present link (R61). -/
  ampAsk : Nat := 0
  lpiAsk : Bool := false
  lpi : Bool := false
  anAttempts : Nat := 0
  /-- Uptime at which the present LINKING attempt began. -/
  attemptFrom : Nat := 0
  /-- Uptime at which the lane entered LINKING after being OPERATING (R282). -/
  linkingFrom : Option Nat := none
  nodes : Table Node := []
  waves : Table NodeWave := []
  tags : Table Tag := []
  lastTag : Nat := 4095
  /-- The command queue, and the commands of one order or of enumeration that do not fit into it yet (R79). -/
  cmdq : List Cmd := []
  cmdWait : List Cmd := []
  streams : List StreamOrder := []
  streamKey : Nat := 0
  releases : List ReleaseWait := []
  enum : Option EnumRun := none
  unknownSerial : Dword := 0
  unknownPos : Nat := 0
  unknownCount : Nat := 0
  orderMismatch : Bool := false
  dupSeen : Bool := false
  tx : Option DownFrame := none
  /-- The frame now leaving, or the latest one, from its lead-in to its CRC-32 (R63). -/
  line : List Byte := []
  txq : List DownFrame := []
  seq : BitVec 16 := 0
  /-- Town time inserted in the latest SYNC, units of 2^-16 ns (R91). -/
  syncTime : Nat := 0
  /-- When the latest SYNC started since the link came up (R91). -/
  lastSync : Option Nat := none
  /-- Uptime from which SWEEP_S runs (R75). -/
  sweepAt : Nat := 0
  lastTx : Nat := 0
  syncPending : Bool := false
  bulkUsed : Nat := 0
  detUsed : Nat := 0
  bulkLimit : Word := 0
  detLimit : Word := 0
  creditSent : Word × Word := (0, 0)
  creditAt : Nat := 0
  creditDirty : Option Nat := none
  held : List HeldFrame := []
  detHold : List HeldFrame := []
  stalledFrom : Option Nat := none
  stalled : Bool := false
  stallMs : Nat := 0
  /-- Time in ns during which STALLED stood still (R85): the silence clock is uptime less this. -/
  stalledTotal : Nat := 0
  /-- Present base and RAMP of each profile (R188, R189); DEFAULT where not listed. -/
  bases : Table (Nat × Nat) := []
  calLoaded : Bool := false
  /-- Town seconds up to which calendar occurrences have been served. -/
  calSeen : Option Nat := none
  exits : Table Nat := []
  entryLast : Table Nat := []
  raisePending : Bool := false
  catchup : List Nat := []
  gatherEnd : Option Nat := none
  gatherHeld : Bool := false
  gatherStarts : List Nat := []
  levelStarts : List Nat := []
  breakTdr : Option Word := none
  feederSeen : List Nat := [0, 0, 0]
  feederUnseen : List Nat := [0, 0, 0]
  /-- The latest window judged, and the flags of it and of windows before it (R285). -/
  feederWin : Option Nat := none
  feederHist : List (Nat × List Bool) := []
  /-- Flags and judged nodes of the latest window (R295). -/
  feederFlags : List Bool := [false, false, false]
  feederJudged : Nat := 0
  windows : Nat := 0
  /-- Summaries that wait for their queue: queue and packet (R125). -/
  sumsHeld : List (Nat × List Dword) := []
  deriving DecidableEq, Repr

/-! Hedgerow -/

/-- Phase of a task input (R229). -/
inductive Phase where
  | idle | busy | refractory
  deriving DecidableEq, Repr

/-- A task input (R229, R242). -/
structure TaskIn where
  phase : Phase := .idle
  latch : Option Nat := none
  lastHop : Nat := 0
  merged : Nat := 0
  /-- End of the refractory interval on Hedgerow's own clock. -/
  refrEnd : Nat := 0
  /-- Delivered and not yet taken by the block that owns the input. -/
  due : Bool := false
  /-- T48 of the latest delivery (R219). -/
  at48 : Nat := 0
  deriving DecidableEq, Repr

/-! Life store -/

/-- A life record of R250, its RCRC as stored. -/
structure LifeRec where
  serial : Dword
  type : BitVec 16
  rated : BitVec 16
  drive : Byte
  thermal : Byte
  check : BitVec 16
  install : BitVec 48
  lane : Byte
  node : Byte
  burn : List Word := [0, 0, 0, 0, 0, 0, 0, 0]
  stress : BitVec 48 := 0
  switches : Word := 0
  otMin : Word := 0
  otRes : Nat := 0
  model : Nat := 16
  drvFaults : BitVec 16 := 0
  remain : Nat := 1000
  opened : Bool := true
  warned : Bool := false
  eol : Bool := false
  derated : Bool := false
  defModel : Bool := false
  reattached : Bool := false
  manual : Bool := false
  registered : Bool := false
  corrupt : Bool := false
  exported : Bool := false
  eligible : Bool := false
  reason : Nat := 0
  last : BitVec 48 := 0
  energy : Word := 0
  closed : BitVec 48 := 0
  rcrc : BitVec 16 := 0
  /-- One of its MRAM words is uncorrectable (R267). -/
  bad : Bool := false
  deriving DecidableEq, Repr

/-- An ID or ENERGY frame in the life engine's intake (R254). -/
structure Intake where
  lane : Nat
  node : Nat
  isId : Bool
  /-- Town second of arrival. -/
  at_ : Nat
  payload : List Byte
  deriving DecidableEq, Repr

/-- A notice of R257 waiting for its commit. -/
structure Notice where
  eol : Bool
  words : List Dword
  deriving DecidableEq, Repr

structure Life where
  /-- Codes of R269. -/
  st : Nat := 0
  modelled : Bool := false
  open_ : Table (Option LifeRec) := []
  retired : Table (Option LifeRec) := []
  next : Nat := 0
  intake : List Intake := []
  notices : List Notice := []
  /-- The export queue refused; offered again once enabled or reset (R263). -/
  exportRefused : Bool := false
  recomputeDue : Bool := false
  /-- Lane groups whose caps are due (R258). -/
  capDue : List Nat := []
  /-- EXPORT_ALL orders in progress: positions left and snapshots committed. -/
  exportAll : List (Desc × List Nat × Nat) := []
  deriving DecidableEq, Repr

/-! Faults and statistics -/

/-- State of a fault entry (R288). -/
inductive FState where
  | free | raised | acked
  deriving DecidableEq, Repr

structure FaultEntry where
  st : FState := .free
  fclass : Nat := 0
  subject : Nat := 0
  gen : BitVec 4 := 0
  cond : Bool := false
  /-- Town microseconds of the raise and of the latest event. -/
  raiseT : Nat := 0
  lastT : Nat := 0
  rep : Nat := 0
  detail : Dword := 0
  /-- Uptime of the latest repeat packet. -/
  repAt : Option Nat := none
  deriving DecidableEq, Repr

/-- A fault packet in the hold of 256 (R291): where it goes and whether HC0 follows. -/
structure FaultPkt where
  q : Option Nat
  words : List Dword
  hc0 : Bool
  /-- A packet of a SNAPSHOT order (R293). -/
  snap : Bool := false
  deriving DecidableEq, Repr

/-- A SNAPSHOT order in progress: entries left, its packets in the hold and those committed (R293). -/
structure Snap where
  d : Desc
  left : List Nat
  held : Nat := 0
  count : Nat := 0
  deriving DecidableEq, Repr

/-- One statistics bank (R303 to R308): live and latched counters by their place in the digest. -/
structure Bank where
  live : Table Nat := []
  latched : Table Nat := []
  latchedPeriod : Word := 0
  latchedStart : Nat := 0
  latchedEnd : Nat := 0
  latchedPartial : Bool := false
  deriving DecidableEq, Repr

/-- The statistics record of one domain (R305). -/
structure DomStat where
  live : Bool := false
  stale : Bool := false
  partial_ : Bool := false
  startT : Nat := 0
  /-- A part of the period in progress was digested at an orderly power-down. -/
  digested : Bool := false
  deriving DecidableEq, Repr

structure Stats where
  /-- Town microseconds at which the period in progress, and the one before it, began; the former's start as a UTC second. -/
  startT : Nat := 0
  startUtc : Nat := 0
  prevStart : Nat := 0
  /-- UTC second of the next boundary; 0 before the time is set. -/
  nextUtc : Nat := 0
  /-- Minutes of the length in force when the period began. -/
  fullMin : Nat := 15
  /-- SHORT of the period latest ended. -/
  lastShort : Bool := false
  banks : Table Bank := []
  doms : Table DomStat := []
  deriving DecidableEq, Repr

/-! Cores and meadows -/

/-- The state of a core (R397). -/
inductive CoreSt where
  | running | waiting | held | vectorStop | lockstepStop | debugHalt | down
  deriving DecidableEq, Repr

/-- A register result on its way to writeback (R352). -/
inductive RegWrite where
  | g (n : Reg) (v : Word)
  | sr (n : BitVec 5) (v : Word)
  deriving DecidableEq, Repr

/-- One entry of the store buffer: an aligned 8-byte word and its valid bytes (R361). -/
structure SbEntry where
  word : Nat
  bytes : List (Option Byte)
  deriving DecidableEq, Repr

/-- A repeat in progress (R343 to R346). -/
structure RepSt where
  left : Nat
  prefixPc : Word
  /-- The repeated word, none until its first iteration. -/
  body : Option Word
  /-- Bases the repeat carries from one iteration to the next. -/
  carried : List (Reg × Word)
  deriving DecidableEq, Repr

/-- An access that waits in Memory (R399): the value TVAL takes, and what completes it. -/
inductive Hang where
  /-- A push of the word to the queue. -/
  | push (q : Nat) (w : Dword)
  | flush (q : Nat)
  | pop (q : Nat)
  | ctlWrite (addr : Nat) (v : Word)
  | ctlRead (addr : Nat)
  | mem (addr : Nat) (store : Bool)
  deriving DecidableEq, Repr

structure HangSt where
  what : Hang
  /-- The instruction word whose access hangs. -/
  instr : Word
  since : Nat
  deriving DecidableEq, Repr

structure CoreState where
  st : CoreSt := .down
  g : Table Word := []
  ac0 : Dword := 0
  ac1 : Dword := 0
  pc : Word := 0
  /-- CST without EVP and MBP, which are computed (R318). -/
  cst : Word := 0
  tvec : Word := 0
  tpc : Word := 0
  tcause : Word := 0
  tval : Word := 0
  trep : Word := 0
  qid : Word := 0
  icount : Word := 0
  /-- Results of the latest instruction and of the one before it. -/
  w1 : List RegWrite := []
  w2 : List RegWrite := []
  /-- CST as the boundary after the latest instruction is judged under (R356). -/
  gov : Word := 0
  rep : Option RepSt := none
  resume : Nat := 0
  rsv : Option Nat := none
  sb : List SbEntry := []
  sram : Table Byte := []
  /-- Errors of its 64-bit words, by word (R157, R359, R390). -/
  sramErr : Table (BitVec 72) := []
  hang : Option HangSt := none
  /-- A WAIT was sampled with no wake pending and the core sleeps since (R341). -/
  waitFrom : Nat := 0
  role : Nat := 0
  upper : Bool := false
  lockstep : Bool := false
  deriving DecidableEq, Repr

/-- A reservation of a meadow's table (R392). -/
structure Rsv where
  req : Nat
  granule : Nat
  deriving DecidableEq, Repr

/-- The state of a meadow (R402). -/
inductive MeadowSt where
  | off | faulted | starting | active | rest | applying | stopping
  deriving DecidableEq, Repr

structure Meadow where
  st : MeadowSt := .off
  sram : Table Byte := []
  /-- Errors of its 64-bit words, by word (R157, R359, R390). -/
  sramErr : Table (BitVec 72) := []
  rsv : List Rsv := []
  level : Nat := 0
  goal : Nat := 0
  changing : Bool := false
  up : Nat := 0
  down : Nat := 0
  busy : Nat := 0
  lastEvent : Option Nat := none
  /-- The running window touched Rest, Off, FAULTED or a change of level (R49). -/
  touched : Bool := true
  restFrom : Nat := 0
  /-- Uptime of the latest entry to Rest (R454). -/
  restAt : Nat := 0
  /-- Going Off through SLEEP 2, not yet past step 2 of R419 (R454). -/
  sleepOff : Bool := false
  deriving DecidableEq, Repr

/-! Power, wake, seams -/

/-- The state of a switched domain (R437). -/
inductive DomSt where
  | off | starting | on | stopping | faulted
  deriving DecidableEq, Repr

structure Domain where
  st : DomSt := .off
  /-- Step of R448 in hand, 0 while none. -/
  step : Nat := 0
  retry : Bool := false
  failed : Nat := 0
  /-- Instant of the regulator's enable, or of its disable before a retry. -/
  since : Nat := 0
  /-- A power-down is wanted as soon as the start ends (R422). -/
  offWanted : Bool := false
  /-- A start is wanted as soon as D49 has reported power-good (R35, R421). -/
  onWanted : Bool := false
  /-- RETRY_DOMAIN, MEADOW_START or MEADOW_STOP waiting for the outcome. -/
  orders : List OrderRef := []
  deriving DecidableEq, Repr

/-- The state of the device (R423). -/
inductive DevSt where
  | run | doze | descending | dormant | shelf | waking
  deriving DecidableEq, Repr

/-- An open wake (R446, R447). -/
structure Wake where
  meadows : List Nat := []
  inputs : List Nat := []
  hop : Option Nat := none
  /-- Domains concerned, and the group of R447 reached: 0 oscillator, 1 D49, 2 D44–47, 3 D48, 4 D32–43, 5 meadows. -/
  doms : List Nat := []
  group : Nat := 0
  deriving DecidableEq, Repr

/-- The XREF oscillator (R448, R453): 0 running, 1 starting, 2 stopped in Shelf, 3 failed. -/
structure Xref where
  st : Nat := 0
  retry : Bool := false
  since : Nat := 0
  deriving DecidableEq, Repr

/-- The state of a seam (R471, R481). -/
inductive SeamSt where
  | live | severed | down | stopped | realigning
  deriving DecidableEq, Repr

structure Seam where
  st : SeamSt
  cause : Nat
  /-- When it was severed. -/
  since : Nat := 0
  deriving DecidableEq, Repr

/-- A pulse crossing (R465): the sender's toggle, the end of its acknowledge phase in uptime, and the hop count of the pending
merged pulse. -/
structure Pulse where
  toggle : Bool := false
  ackEnd : Option Nat := none
  pending : Option Nat := none
  deriving DecidableEq, Repr

/-- A value crossing (R466): its take flag, when the flag's acknowledge returns, and whether a later value waits to cross. -/
structure Crossing where
  seam : Nat := 0
  take : Bool := false
  ackEnd : Option Nat := none
  waiting : Bool := false
  deriving DecidableEq, Repr

/-! Mantle -/

/-- A parsed panel (R486, R487): header and payload bytes, and its two signature bytes. -/
structure Panel where
  type : Nat
  region : Nat
  mask : Nat
  version : Word
  rollback : Word
  role : Nat
  header : List Byte
  payload : List Byte
  deriving DecidableEq, Repr

/-- The panel in force for an index of R490, with MANTLE_IF_INFO.SOURCE. -/
structure InForce where
  panel : Panel
  source : Nat
  pending : Bool := false
  deriving DecidableEq, Repr

/-- A kept copy of the flash (R500, R577). -/
structure Kept where
  slot : Nat
  bytes : List Byte
  deriving DecidableEq, Repr

/-- A key slot (R515). -/
structure KeySlot where
  st : Nat := 0
  rsaE : Word := 0
  rsaN : List Byte := []
  slhPk : List Byte := []
  deriving DecidableEq, Repr

/-- A journal entry without CHAIN (R529): its 48 bytes as six words, and its CHAIN. -/
structure JEntry where
  seq : Nat
  words : List Dword
  chain : BitVec 128
  deriving DecidableEq, Repr

/-- An act to be journaled. -/
structure JAct where
  who : Nat := 0
  form : Nat := 0
  req : Nat := 0
  action : Nat
  target : Word := 0
  old : Dword := 0
  new : Dword := 0
  result : Nat := 0
  block : Nat := 0
  timeUs : Nat := 0
  deriving DecidableEq, Repr

/-- A debug token in force (R524). -/
structure Token where
  until_ : Nat
  role : Nat
  cores : Bool
  mem : Bool
  deriving DecidableEq, Repr

/-- What the pattern loader has in hand: a STAGE_COPY, or an APPLY that has passed row 5 of R495. -/
structure Job where
  d : Desc
  /-- MANTLE_PL_STATUS.PHASE: 1 copying, 2 verifying, 3 writing the kept copy, 4 committing. -/
  phase : Nat
  bytes : List Byte := []
  /-- Domains held on until completion (R504). -/
  held : List Nat := []
  /-- Panels not yet committed, by their index, the one in hand first. -/
  todo : List Nat := []
  clamped : Bool := false
  /-- When what is in hand ends. -/
  ends : Nat
  deriving DecidableEq, Repr

structure Mantle where
  /-- Codes of R535. -/
  st : Nat := 0
  staging : Table Byte := []
  inForce : Table (Option InForce) := []
  /-- What the loader has in hand, and the bulk range it holds, as base and size. -/
  job : Option Job := none
  holdBase : Nat := 0
  holdSize : Nat := 0
  plLast : Word := 0
  waiting : List OrderRef := []
  slotA : Table Byte := []
  slotB : Table Byte := []
  kept : List Kept := []
  keptHalf : Bool := false
  sealedA : Bool := false
  sealedB : Bool := false
  preferB : Bool := false
  rights : Option (List Dword) := none
  ceiling : Option (List Dword) := none
  /-- Maker ceiling table of the firmware written to MRAM, in force from D49's next start (R503, R513). -/
  fwCeiling : Option (List Dword) := none
  keys : Table KeySlot := []
  rseq : Table Nat := []
  rb : Table Word := []
  fuses : BitVec 8 := 0
  rootSteps : Nat := 0
  challenge : Option (BitVec 128) := none
  token : Option Token := none
  ring : List JEntry := []
  seq : Nat := 0
  exp : Nat := 0
  chain : BitVec 128 := 0
  lostNoted : Nat := 0
  exportRefused : Bool := false
  heldEntries : List JAct := []
  denials : Table Denials := []
  /-- Attestation or certificate fragments waiting for room (R527), with the order to complete. -/
  fragments : List (List Dword) := []
  fragOrder : Option (OrderRef × Nat) := none
  exportFiredAt : Option Nat := none
  exportDue : Bool := false
  reloadReady : Bool := false
  deriving DecidableEq, Repr

/-! Uplinks, time, management, boot -/

/-- A peer entry of an uplink (R549) with its hand-off records (R550, R552). -/
structure Peer where
  valid : Bool := false
  addr : BitVec 128 := 0
  mac : BitVec 48 := 0
  port : BitVec 16 := 0
  serial : Dword := 0
  peer : Bool := false
  collector : Bool := false
  key : BitVec 256 := 0
  /-- Latest EPOCH and SEQ accepted; none when no record is kept. -/
  seen : Option (BitVec 16 × Word) := none
  sentSeq : Word := 0
  deriving DecidableEq, Repr

structure Uplink where
  /-- Codes of R560. -/
  st : Nat := 0
  an : Bool := false
  flaps : Nat := 0
  speed10 : Bool := true
  peers : Table Peer := []
  expSeq : Table Word := []
  expNext : Table Nat := []
  /-- Received frames waiting for their queue (R542): queue and packet words. -/
  rxHeld : List (Nat × List Dword × Nat) := []
  rxBytes : Nat := 0
  /-- Uptime second and READs served in it (R554). -/
  readSec : Nat := 0
  readCount : Nat := 0
  /-- The latest datagram or frame sent, as bytes. -/
  lastSent : List Byte := []
  deriving DecidableEq, Repr

/-- The I2C target (R558, R559): the bytes of its file that are not computed, and the byte buffer of STG_DATA. -/
structure I2c where
  file : Table Byte := []
  woke : Bool := false
  buf : List Byte := []
  busy : Bool := false
  resultValid : Bool := false
  deriving DecidableEq, Repr

/-- The timebase (R545 to R548). Times are in units of 2^-16 ns since the PTP epoch. -/
structure Timebase where
  now : Nat := 0
  /-- What the timebase has counted since power-on at its rate, its settings apart, in units of 2^-16 ns (R229). -/
  run : Nat := 0
  /-- 0 UNSET, 1 FREE, 2 LOCKED, 3 HOLDOVER. -/
  st : Nat := 0
  x32 : Bool := false
  good : Nat := 0
  lastExchange : Nat := 0
  lastRate : Option Nat := none
  /-- Rate in force, in units of 2^-16 ppm. -/
  rate : Int := 0
  latchHi : Nat := 0
  latchNs : Nat := 0
  latchFrac : Nat := 0
  /-- The latest second PPS fired at, or was stepped to. -/
  ppsAt : Nat := 0
  /-- Town nanoseconds at which each armed alarm fires (R548). -/
  alarms : Table (Option Nat) := []
  /-- UTC offset in force before town second `utcAt`, from which the register's holds (R545). -/
  utcOld : Nat := 0x25
  utcAt : Option Nat := none
  deriving DecidableEq, Repr

/-- Reset and boot (R567 to R582). -/
structure Boot where
  /-- In reset since a reset source acted and until RESET_RELEASE. -/
  inReset : Bool := true
  /-- Step of R578: 1, 2, 4 (stage 1 due), 5 (stage 1 has failed), 7 (stage 2 due), 9 (stage 2 has failed), 8 done, 0
  stopped in RECOVERY or by R607. -/
  step : Nat := 1
  /-- Panels of stage 2 that passed stage 1's judgement, by in-force index, and the CHECK at which they failed. -/
  plan : List (Nat × InForce) := []
  planCheck : Nat := 0
  slot : Nat := 0
  fallback : Bool := false
  recovery : Bool := false
  stage : Nat := 0
  aCheck : Nat := 0
  bCheck : Nat := 0
  keptUsed : Nat := 0
  keptDropped : Nat := 0
  stage1Ms : Nat := 0
  doneMs : Nat := 0
  releasedAt : Nat := 0
  tried : List Nat := []
  /-- Slots left out after a fall-back reset (R576). -/
  skip : List Nat := []
  cause : BitVec 5 := 1
  count : Nat := 0
  resetAt : Option Nat := none
  bootsel : BitVec 2 := 0
  maddr : BitVec 3 := 0
  installEn : Bool := false
  pwrEn : Bool := false
  /-- FAULT_N is still asserted because stage 1 has not completed without a FAULTED domain (R574). -/
  faultHold : Bool := true
  deriving DecidableEq, Repr

/-- A pass of the sampler in progress: whether it is periodic, the hop count of the RUN_NOW event that runs it, the µV at AIN0 to AIN15,
the step that converts, and when its conversion ends (R455, R456). -/
structure SmpPass where
  periodic : Bool
  hop : Option Nat
  volts : List Nat
  step : Nat
  ends : Nat
  deriving DecidableEq, Repr

/-- The sampler's running state beside its registers (R456). -/
structure Sampler where
  p : Nat := 0
  nextAt : Option Nat := none
  pass : Option SmpPass := none
  deriving DecidableEq, Repr

/-- An access of a requester 256 or above waiting at a stopped seam (R470), or at a port that takes no order (R19): the seam, its
address, and the value of a write. -/
structure SeamWait where
  seam : Option Nat
  req : Nat
  since : Nat
  addr : Nat
  v : Option Word
  deriving DecidableEq, Repr

/-- How such an access ended: its completion code and the value read. -/
structure SeamEnd where
  req : Nat
  code : Nat
  v : Word
  deriving DecidableEq, Repr

/-! Signed requests (R555, R556) -/

/-- An action of a signed request: its kind, address, and bytes 8 to 23. -/
structure ReqAct where
  kind : Nat
  addr : Nat
  args : List Byte
  deriving DecidableEq, Repr

/-- What the running action waits for. -/
inductive ReqWait where
  | none | order | access
  deriving DecidableEq, Repr

/-- A signed request being run: the requester of its port, the actions left with the running one first, and the code and word
of each action that has ended. -/
structure ReqRun where
  port : Nat
  left : List ReqAct
  outs : List (Nat × Dword) := []
  wait : ReqWait := .none
  deriving DecidableEq, Repr

/-- A SUBMIT that waits: its requester, the request's place in staging, and when it came. -/
structure ReqWaiting where
  port : Nat
  off : Nat
  len : Nat
  since : Nat
  deriving DecidableEq, Repr

/-- The whole block. Tables list what differs from reset. -/
structure State where
  /-- Commands waiting, first in first out. -/
  pending : List Instr := []
  /-- Nanoseconds since power-on, the clock of every command that carries an instant. -/
  uptime : Nat := 0
  /-- Registers of control space that hold a value, by address (RegMap.lean gives what an unlisted one reads as). -/
  regs : Table Word := []
  /-- Staging descriptors by block port and requester (R17): key ((port × 512) + requester) × 4 + word. -/
  staging : Table Word := []
  /-- Core-private registers by requester (R381): key requester × 0x1000 + offset. -/
  priv : Table Word := []
  tb : Timebase := {}
  queues : Table Queue := []
  /-- Device queues whose class or enable the map in force names, latest first. -/
  qranges : List QRange := []
  qmapped : Bool := false
  qapplying : Bool := false
  prods : Table (Option ProdCtx) := []
  conss : Table (Option ConsCtx) := []
  chans : Table Chan := []
  /-- Latest STARVED flags by channel, to see a change. -/
  starved : Table Bool := []
  lanes : Table Lane := []
  tis : Table TaskIn := []
  delays : Table (Option (Nat × Nat)) := []
  hmapped : Bool := false
  happlying : Bool := false
  hc2At : Option Nat := none
  hc2Due : Bool := false
  /-- Hedgerow's clock is the timebase's count less this, what it counted in Shelf (R229, R234). -/
  shelfTotal : Nat := 0
  shelfFrom : Option Nat := none
  life : Life := {}
  faults : Table FaultEntry := []
  faultHold : List FaultPkt := []
  /-- Class, subject and DETAIL of conditions present for which NO_ENTRY has been sent (R287). -/
  faultWait : List (Nat × Nat × Dword) := []
  /-- Class and subject of the conditions that are present (R287, R288). -/
  conds : List (Nat × Nat) := []
  /-- Momentary device faults found and not yet raised: class, subject, DETAIL (R286). -/
  faultDue : List (Nat × Nat × Dword) := []
  /-- Momentary conditions present in this round, which go in the next (R286). -/
  going : List (Nat × Nat) := []
  /-- Entries freed at the end of this round (R289). -/
  freeing : List Nat := []
  snaps : List Snap := []
  stats : Stats := {}
  cores : Table CoreState := []
  meadows : Table Meadow := []
  doms : Table Domain := []
  dev : DevSt := .run
  descent : Nat := 0
  restAtDescent : List Nat := []
  wake : Option Wake := none
  xref : Xref := {}
  padHeld : Table Bool := []
  gpioIn : Table Bool := []
  gpioPulse : Table (Option (Nat × Bool)) := []
  sampler : Sampler := {}
  seams : Table Seam := []
  /-- Pulse crossings by producer, value crossings by control address, and the entries that stand in the FIFOs of R467, by 8 × seam
  + kind (R465 to R467). -/
  pulses : Table Pulse := []
  crossings : Table Crossing := []
  fifos : Table (List Nat) := []
  seamWaits : List SeamWait := []
  /-- Accesses of a requester 256 or above that have ended and whose requester has not yet taken the answer. -/
  seamEnds : List SeamEnd := []
  /-- Orders begun and not completed, those that wait behind one of their requester at the same block, oldest first, and those
  begun that are held while a domain starts (R22, R23). -/
  orders : List OrderRef := []
  orderQ : List OrderRef := []
  heldOrders : List OrderRef := []
  heldComps : List HeldCompletion := []
  /-- Hardware producers whose push waits for room and has been counted so: the producer (0 journal, 1 attestation, 2 closed life
  records, 3 their snapshots, 4 notices, 5 fault records, 16 + r the hardware block with requester number r), the queue and the
  words. -/
  hwHeld : List (Nat × Nat × Nat) := []
  mantle : Mantle := {}
  upls : Table Uplink := []
  fedEpoch : BitVec 16 := 0
  i2c : I2c := {}
  boot : Boot := {}
  /-- The signed request being run, and those that wait behind it (R556). -/
  request : Option ReqRun := none
  requests : List ReqWaiting := []
  /-- Role of the signed request in hand, 0 while none (R3). -/
  signedRole : Nat := 0
  /-- Its RSA key slot, for the journal's WHO (R529). -/
  signedSlot : Nat := 0
  /-- What the latest debug instruction captured: its 34-bit status, and a 64-bit word it popped (R523, R575). -/
  debugOut : BitVec 34 := 0
  debugWord : Dword := 0
  /-- The model's own: free values drawn so far. -/
  free : Nat := 0
  deriving DecidableEq, Repr

/-- The block as power-on reset leaves it, held in reset until RESET_RELEASE (R568, R586). -/
def State.reset : State := {}

end Sys2Proof.Machine
end

