-- ==== Sys2Proof/Machine/RegMap.lean ====
section
/-! DEFINITION. The register map of control space and of the core-private window: for every register of the manual
its place, access, writers, reset value, fields and clamp targets, as the register tables of the chapters give them. -/

namespace Sys2Proof.Machine

/-- Access code of a field or register (R6 and the access code table). -/
inductive Acc where
  | rw | ro | wo
  deriving DecidableEq, Repr

/-- Clamp target of a field (R6, R7). -/
inductive Clamp where
  | any
  /-- Numeric range; the nearest legal value is stored. -/
  | range (lo hi : Nat)
  /-- Legal codes and the target for reserved ones. -/
  | enum (legal : List Nat) (target : Nat)
  deriving DecidableEq, Repr

structure Fld where
  hi : Nat
  lo : Nat
  acc : Acc
  clamp : Clamp
  deriving DecidableEq, Repr

/-- What a read or write of the register does beyond the common rules; the owning chapter's module says it. -/
inductive Hook where
  | plain
  | backup
  | clampLog
  | coreClear
  | devMode
  | domOn
  | feeder
  | gov
  | gpio
  | hchan
  | hedgeCfg
  | lifeCfg
  | makerMeadow
  | order
  | ovr
  | paceMin
  | padGrp
  | psel
  | route
  | sentinel
  | smpCfg
  | swFire
  | swLimit
  | swParam
  | tbDisc
  | tbMaster
  | tbRate
  | tbUtc
  | tsel
  | uplCfg
  | view
  deriving DecidableEq, Repr

/-- A register, or an array of `count` registers `stride` bytes apart, of a block window. `roles` has bit k set when
role k (1 operator, 2 installer, 3 maker) may write. -/
structure RegDesc where
  off : Nat
  count : Nat
  stride : Nat
  acc : Acc
  roles : Nat
  reset : Word
  flds : List Fld
  hook : Hook
  deriving DecidableEq, Repr

/-! Offsets of the registers in their windows, by the manual's names. -/

abbrev BLOCK_ID : Nat := 0x0
abbrev BLOCK_STATE : Nat := 0x4
abbrev BLOCK_ORDER0 : Nat := 0x10
abbrev BLOCK_CLAMP_LOG : Nat := 0xF0
abbrev BLOCK_CLAMP_LOG_OFFSET : Nat := 0xF4
abbrev MEADOW_PACE : Nat := 0x100
abbrev MEADOW_PACE_MIN : Nat := 0x104
abbrev LANE_CFG : Nat := 0x100
abbrev LANE_TIMING : Nat := 0x104
abbrev LANE_DEFAULT_STREAM : Nat := 0x108
abbrev LANE_LINK : Nat := 0x10C
abbrev LANE_RTT : Nat := 0x110
abbrev LANE_NODES : Nat := 0x114
abbrev LANE_BUDGET : Nat := 0x118
abbrev LANE_CREDIT : Nat := 0x11C
abbrev LANE_TAGS : Nat := 0x120
abbrev LANE_UNKNOWN_LO : Nat := 0x130
abbrev LANE_UNKNOWN_HI : Nat := 0x134
abbrev LANE_UNKNOWN_POS : Nat := 0x138
abbrev LANE_CNT_CRC : Nat := 0x200
abbrev LANE_CNT_BAD_TYPE : Nat := 0x204
abbrev LANE_CNT_BAD_ADDR : Nat := 0x208
abbrev LANE_CNT_STALE_INC : Nat := 0x20C
abbrev LANE_CNT_OVERRUN : Nat := 0x210
abbrev LANE_CNT_POS_MISMATCH : Nat := 0x214
abbrev LANE_CNT_SEQ_GAP : Nat := 0x218
abbrev LANE_CNT_LATE_RSP : Nat := 0x21C
abbrev LANE_CNT_GEN_MISMATCH : Nat := 0x220
abbrev LANE_CNT_STRAY_RSP : Nat := 0x224
abbrev LANE_CNT_CMD_TIMEOUT : Nat := 0x228
abbrev LANE_CNT_UNKNOWN_SERIAL : Nat := 0x22C
abbrev LANE_CNT_DUP_SERIAL : Nat := 0x230
abbrev LANE_CNT_DET_UNFILED : Nat := 0x234
abbrev LANE_CNT_STALL_MS : Nat := 0x238
abbrev LANE_CNT_LINK_FAIL : Nat := 0x23C
abbrev LANE_CNT_BUDGET_CLAMP : Nat := 0x240
abbrev LANE_CNT_FRAMES_RX : Nat := 0x244
abbrev LANE_CNT_FRAMES_TX : Nat := 0x248
abbrev LANE_NODE_STATE : Nat := 0x1000
abbrev LANE_NODE_DELAY : Nat := 0x1004
abbrev LANE_NODE_ALLOW : Nat := 0x1008
abbrev LANE_NODE_SILENCE : Nat := 0x100C
abbrev QENG_CFG : Nat := 0x100
abbrev QENG_CHAN : Nat := 0x104
abbrev QENG_CHAN_GEN : Nat := 0x108
abbrev QENG_POOL_FREE : Nat := 0x110
abbrev QENG_POOL_SIZE : Nat := 0x120
abbrev QENG_POOL_RSV : Nat := 0x130
abbrev QENG_CNT_ECC_CORR : Nat := 0x200
abbrev QENG_CNT_ECC_UNCORR : Nat := 0x210
abbrev QENG_CNT_SCRUB_PASS : Nat := 0x220
abbrev QENG_CNT_EPOCH_DROP : Nat := 0x230
abbrev QENG_CNT_FLUSH_PKT : Nat := 0x234
abbrev QENG_CNT_FLUSH_WORDS : Nat := 0x238
abbrev QENG_CNT_REWIND : Nat := 0x23C
abbrev QENG_CNT_OVERLENGTH : Nat := 0x240
abbrev QENG_CNT_TYPE_CLAMP : Nat := 0x244
abbrev QENG_CNT_REFUSED : Nat := 0x248
abbrev QENG_CNT_ABSENT : Nat := 0x24C
abbrev QENG_CNT_CRC_REWIND : Nat := 0x250
abbrev QENG_CNT_BROKEN : Nat := 0x254
abbrev QENG_CNT_BACKPRESSURE : Nat := 0x258
abbrev QENG_CNT_POISON_POPS : Nat := 0x25C
abbrev QENG_WATCH : Nat := 0x300
abbrev QENG_ORPHAN : Nat := 0x400
abbrev QENG_CLASS_A : Nat := 0x1000
abbrev QENG_CLASS_B : Nat := 0x1004
abbrev QENG_CLASS_IDLE_LO : Nat := 0x1008
abbrev QENG_CLASS_IDLE_HI : Nat := 0x100C
abbrev QENG_SLOTMAP : Nat := 0x2000
abbrev QDR_CFG : Nat := 0x100
abbrev QDR_GEOM : Nat := 0x104
abbrev QDR_BULK_BASE : Nat := 0x108
abbrev QDR_BULK_SIZE : Nat := 0x10C
abbrev QDR_CAL : Nat := 0x110
abbrev QDR_ERR_ADDR : Nat := 0x114
abbrev QDR_ERR_INFO : Nat := 0x118
abbrev QDR_CNT_CORR_BULK : Nat := 0x200
abbrev QDR_CNT_UNCORR_BULK : Nat := 0x204
abbrev QDR_CNT_SCRUB_PASS_BULK : Nat := 0x208
abbrev QDR_CNT_POISON_STORE : Nat := 0x20C
abbrev QDR_CNT_BULK_FAULT : Nat := 0x210
abbrev QDR_CNT_RECAL : Nat := 0x214
abbrev QDR_CNT_CAL_FAIL : Nat := 0x218
abbrev LANE_SW_CFG : Nat := 0x400
abbrev LANE_SW_PARAM : Nat := 0x404
abbrev LANE_SW_PARAM2 : Nat := 0x408
abbrev LANE_SW_LIMIT : Nat := 0x40C
abbrev LANE_OVR : Nat := 0x410
abbrev LANE_OVR_END : Nat := 0x414
abbrev LANE_CAL_CFG : Nat := 0x418
abbrev LANE_CAL_LAT : Nat := 0x41C
abbrev LANE_CAL_LON : Nat := 0x420
abbrev LANE_CAL_BASE : Nat := 0x424
abbrev LANE_CAL_SUN : Nat := 0x434
abbrev LANE_SW_STATE : Nat := 0x438
abbrev LANE_SW_CNT_DET : Nat := 0x480
abbrev LANE_SW_CNT_DIR_KNOWN : Nat := 0x484
abbrev LANE_SW_CNT_DIR_UNKNOWN : Nat := 0x488
abbrev LANE_SW_CNT_IMPLAUSIBLE : Nat := 0x48C
abbrev LANE_SW_CNT_OUT_OF_ORDER : Nat := 0x490
abbrev LANE_SW_CNT_RAISE : Nat := 0x494
abbrev LANE_SW_CNT_EXIT_FIRED : Nat := 0x498
abbrev LANE_SW_CNT_EXIT_HELD : Nat := 0x49C
abbrev LANE_SW_CNT_ENTRY_RUN : Nat := 0x4A0
abbrev LANE_SW_CNT_ENTRY_IDLE : Nat := 0x4A4
abbrev LANE_SW_CNT_LEVEL_FRAMES : Nat := 0x4A8
abbrev LANE_SW_CNT_CAP_HELD : Nat := 0x4AC
abbrev LANE_SW_CNT_REFRESH : Nat := 0x4B0
abbrev LANE_ENTRY_CFG : Nat := 0x500
abbrev LANE_ENTRY_LIST_LO : Nat := 0x504
abbrev LANE_ENTRY_LIST_HI : Nat := 0x508
abbrev LANE_ENTRY_LAST : Nat := 0x50C
abbrev LANE_CAL_TZ_LO : Nat := 0x580
abbrev LANE_CAL_TZ_HI : Nat := 0x584
abbrev LANE_SPEED_EDGE_0 : Nat := 0x5C0
abbrev LANE_SPEED_EDGE_1 : Nat := 0x5C4
abbrev LANE_SPEED_EDGE_2 : Nat := 0x5C8
abbrev LANE_SPEED_EDGE_3 : Nat := 0x5CC
abbrev LANE_CAL_EV_A : Nat := 0x600
abbrev LANE_CAL_EV_B : Nat := 0x604
abbrev LANE_CAL_EV_C : Nat := 0x608
abbrev LANE_SW_NODE_CFG : Nat := 0x2000
abbrev LANE_SW_NODE_SPACING : Nat := 0x2004
abbrev LANE_SW_NODE_AHEAD_A_LO : Nat := 0x2008
abbrev LANE_SW_NODE_AHEAD_A_HI : Nat := 0x200C
abbrev LANE_SW_NODE_AHEAD_B_LO : Nat := 0x2010
abbrev LANE_SW_NODE_AHEAD_B_HI : Nat := 0x2014
abbrev LANE_SW_NODE_OVR : Nat := 0x2018
abbrev LANE_SW_NODE_OVR_END : Nat := 0x201C
abbrev LANE_SW_NODE_STATE : Nat := 0x2020
abbrev LANE_SW_NODE_CAP : Nat := 0x2024
abbrev LANE_SW_NODE_HOLD : Nat := 0x2028
abbrev LANE_SW_NODE_LASTDET : Nat := 0x202C
abbrev HEDGE_CFG : Nat := 0x100
abbrev HEDGE_CNT_EVENTS : Nat := 0x140
abbrev HEDGE_CNT_MERGED : Nat := 0x144
abbrev HEDGE_CNT_SUPPRESSED : Nat := 0x148
abbrev HEDGE_CNT_LOST : Nat := 0x14C
abbrev HEDGE_CNT_LATCH_MERGED : Nat := 0x150
abbrev HEDGE_CNT_CLAIM_CLAMP : Nat := 0x154
abbrev HEDGE_CNT_GUARD_CLAMP : Nat := 0x158
abbrev HEDGE_CNT_REPORTS : Nat := 0x15C
abbrev HEDGE_SW_FIRE : Nat := 0x180
abbrev HEDGE_DELAY : Nat := 0x200
abbrev HEDGE_CHAN : Nat := 0x1000
abbrev HEDGE_PSEL : Nat := 0x4000
abbrev HEDGE_TSEL : Nat := 0x8000
abbrev HEDGE_TI_STATE : Nat := 0xC000
abbrev HEDGE_CH_EVT : Nat := 0x10000
abbrev HEDGE_CH_MRG : Nat := 0x10004
abbrev HEDGE_CH_DROP : Nat := 0x14000
abbrev LIFE_CFG : Nat := 0x100
abbrev LIFE_STATUS : Nat := 0x104
abbrev LIFE_RING : Nat := 0x108
abbrev LIFE_CNT_ENERGY : Nat := 0x200
abbrev LIFE_CNT_ID : Nat := 0x204
abbrev LIFE_CNT_STALE : Nat := 0x208
abbrev LIFE_CNT_NO_RECORD : Nat := 0x20C
abbrev LIFE_CNT_ID_BAD : Nat := 0x210
abbrev LIFE_CNT_ID_CONFLICT : Nat := 0x214
abbrev LIFE_CNT_OPENED : Nat := 0x218
abbrev LIFE_CNT_CLOSED : Nat := 0x21C
abbrev LIFE_CNT_REATTACHED : Nat := 0x220
abbrev LIFE_CNT_MOVED : Nat := 0x224
abbrev LIFE_CNT_DEFAULT_MODEL : Nat := 0x228
abbrev LIFE_CNT_EXPORT_LOST : Nat := 0x22C
abbrev LIFE_CNT_NOTICE_LOST : Nat := 0x230
abbrev LIFE_CNT_CORRUPT : Nat := 0x234
abbrev LIFE_CNT_BAD_REPORT : Nat := 0x238
abbrev LIFE_MODEL_DW_LO : Nat := 0x1000
abbrev LIFE_MODEL_DW_LO_16 : Nat := 0x1200
abbrev LIFE_MODEL_DW_HI : Nat := 0x1004
abbrev LIFE_MODEL_DW_HI_16 : Nat := 0x1204
abbrev LIFE_MODEL_AF_0 : Nat := 0x1008
abbrev LIFE_MODEL_AF_0_16 : Nat := 0x1208
abbrev LIFE_MODEL_AF_1 : Nat := 0x100C
abbrev LIFE_MODEL_AF_1_16 : Nat := 0x120C
abbrev LIFE_MODEL_AF_2 : Nat := 0x1010
abbrev LIFE_MODEL_AF_2_16 : Nat := 0x1210
abbrev LIFE_MODEL_AF_3 : Nat := 0x1014
abbrev LIFE_MODEL_AF_3_16 : Nat := 0x1214
abbrev LIFE_MODEL_LIM : Nat := 0x1018
abbrev LIFE_MODEL_LIM_16 : Nat := 0x1218
abbrev LIFE_MODEL_CAP : Nat := 0x101C
abbrev LIFE_MODEL_CAP_16 : Nat := 0x121C
abbrev LIFE_TYPE : Nat := 0x2000
abbrev LANE_WS_CFG : Nat := 0x800
abbrev LANE_WS_FEEDER : Nat := 0x804
abbrev LANE_WS_CYCLE : Nat := 0x808
abbrev LANE_WS_STATUS : Nat := 0x80C
abbrev LANE_WS_CNT_WINDOWS : Nat := 0x880
abbrev LANE_WS_CNT_UNSETTLED : Nat := 0x884
abbrev LANE_WS_CNT_NOSTREAM : Nat := 0x888
abbrev LANE_WS_CNT_TDR : Nat := 0x88C
abbrev LANE_WS_CLASS_A : Nat := 0x900
abbrev LANE_WS_CLASS_B : Nat := 0x904
abbrev LANE_FLT_NODE : Nat := 0xA00
abbrev LANE_WS_NODE_CFG : Nat := 0x4000
abbrev FLT_CFG : Nat := 0x8000
abbrev FLT_STATUS : Nat := 0x8004
abbrev FLT_CNT_RAISED : Nat := 0x8080
abbrev FLT_CNT_ACKED : Nat := 0x8084
abbrev FLT_CNT_CLEARED : Nat := 0x8088
abbrev FLT_CNT_REPEAT : Nat := 0x808C
abbrev FLT_CNT_TABLE_FULL : Nat := 0x8090
abbrev FLT_CNT_PKT_LOST : Nat := 0x8094
abbrev FLT_CNT_MISMATCH : Nat := 0x8098
abbrev FLT_CNT_HC0 : Nat := 0x809C
abbrev FLT_ENTRY_A : Nat := 0x10000
abbrev FLT_ENTRY_RAISE : Nat := 0x10004
abbrev FLT_ENTRY_LAST : Nat := 0x10008
abbrev FLT_ENTRY_REPEAT : Nat := 0x1000C
abbrev STAT_PERIOD_CFG : Nat := 0x100
abbrev STAT_PERIOD : Nat := 0x104
abbrev STAT_PERIOD_START : Nat := 0x108
abbrev STAT_PERIOD_NEXT : Nat := 0x10C
abbrev STAT_BANK_SEEN : Nat := 0x200
abbrev STAT_BANK_FLAGS : Nat := 0x204
abbrev STAT_CNT_BOUNDARIES : Nat := 0x400
abbrev STAT_CNT_DIGEST_LOST : Nat := 0x404
abbrev STAT_CNT_SHORT : Nat := 0x408
abbrev STAT_CNT_STALE : Nat := 0x40C
abbrev STAT_USER_LIVE : Nat := 0x480
abbrev STAT_USER_LATCHED : Nat := 0x4A0
abbrev LANE_ST_PERIOD : Nat := 0xC00
abbrev LANE_ST_FLOW_A : Nat := 0xC04
abbrev LANE_ST_FLOW_B : Nat := 0xC08
abbrev LANE_ST_FLOW_U : Nat := 0xC0C
abbrev LANE_ST_RAISES : Nat := 0xC10
abbrev LANE_ST_HIST : Nat := 0xC40
abbrev LANE_ST_CLASS : Nat := 0xC80
abbrev QENG_ST_SLICE : Nat := 0xC00
abbrev CORE_CNT_KILLED : Nat := 0x100
abbrev CORE_CNT_SB_FULL : Nat := 0x104
abbrev CORE_CNT_SB_WAIT : Nat := 0x108
abbrev CORE_CNT_FWD : Nat := 0x10C
abbrev CORE_CNT_SMC : Nat := 0x110
abbrev CORE_CNT_FETCH_LOST : Nat := 0x114
abbrev CORE_CNT_SRAM_CORR : Nat := 0x118
abbrev CORE_CNT_SRAM_POISON : Nat := 0x11C
abbrev CORE_CNT_SC_FAIL : Nat := 0x120
abbrev CORE_CNT_TRAPS : Nat := 0x124
abbrev CORE_SRAM_ERR_ADDR : Nat := 0x128
abbrev CORE_LOCKSTEP : Nat := 0x12C
abbrev CORE_LOCKSTEP_TPC : Nat := 0x130
abbrev CORE_CNT_CLEAR : Nat := 0x13C
abbrev MEADOW_CFG : Nat := 0x110
abbrev MEADOW_MBX : Nat := 0x114
abbrev MEADOW_CORE : Nat := 0x120
abbrev MEADOW_SRAM_ERR : Nat := 0x140
abbrev MEADOW_CNT_CORR : Nat := 0x180
abbrev MEADOW_CNT_UNCORR : Nat := 0x184
abbrev MEADOW_CNT_RSV_EVICT : Nat := 0x188
abbrev MEADOW_CNT_ABSENT : Nat := 0x18C
abbrev MEADOW_CNT_REFUSED : Nat := 0x190
abbrev MEADOW_CNT_SENTINEL : Nat := 0x194
abbrev MEADOW_RSV : Nat := 0x300
abbrev HEATH_SENTINEL : Nat := 0x5000
abbrev HEATH_SENTINEL_CNT : Nat := 0x5400
abbrev HEATH_DOM_ON_LO : Nat := 0x1000
abbrev HEATH_DOM_ON_HI : Nat := 0x1004
abbrev HEATH_DEV_MODE : Nat := 0x1010
abbrev HEATH_DEV_STATE : Nat := 0x1014
abbrev HEATH_DOM_SAVED_LO : Nat := 0x1018
abbrev HEATH_DOM_SAVED_HI : Nat := 0x101C
abbrev HEATH_DOM_STATE : Nat := 0x1100
abbrev HEATH_PWR_CNT_STARTS : Nat := 0x1200
abbrev HEATH_PWR_CNT_STOPS : Nat := 0x1204
abbrev HEATH_PWR_CNT_ABORT : Nat := 0x1208
abbrev HEATH_PWR_CNT_DORMANT : Nat := 0x120C
abbrev MEADOW_MODE : Nat := 0x200
abbrev MEADOW_GOV : Nat := 0x204
abbrev MEADOW_GOV2 : Nat := 0x208
abbrev MEADOW_POWER : Nat := 0x20C
abbrev MEADOW_PWR_CNT_LEVEL : Nat := 0x280
abbrev MEADOW_PWR_CNT_REST : Nat := 0x284
abbrev MEADOW_PWR_CNT_OFF : Nat := 0x288
abbrev MEADOW_PWR_CNT_REST_US : Nat := 0x28C
abbrev MEADOW_PWR_CNT_PACE_IGNORED : Nat := 0x290
abbrev PAD_GRP : Nat := 0x100
abbrev PAD_GPIO : Nat := 0x200
abbrev HEATH_WAKE_EN : Nat := 0x3000
abbrev HEATH_WAKE_ROUTES : Nat := 0x3004
abbrev HEATH_WAKE_TMO : Nat := 0x3008
abbrev HEATH_WAKE_CAUSE : Nat := 0x3010
abbrev HEATH_WAKE_CAUSE2 : Nat := 0x3014
abbrev HEATH_WAKE_STATUS : Nat := 0x3018
abbrev HEATH_WAKE_LANE : Nat := 0x3100
abbrev HEATH_WAKE_ROUTE : Nat := 0x3300
abbrev HEATH_BACKUP : Nat := 0x3380
abbrev HEATH_WAKE_CNT_WAKES : Nat := 0x3400
abbrev HEATH_WAKE_CNT_UNNEEDED : Nat := 0x3404
abbrev HEATH_WAKE_CNT_RETRIES : Nat := 0x3408
abbrev HEATH_WAKE_CNT_FAILURES : Nat := 0x340C
abbrev HEATH_WAKE_CNT_REDIRECTS : Nat := 0x3410
abbrev HEATH_WAKE_CNT_UNDELIVERED : Nat := 0x3414
abbrev HEATH_WAKE_CNT_COINCIDENT : Nat := 0x3418
abbrev HEATH_WAKE_CNT_CUT : Nat := 0x341C
abbrev HEATH_SMP_CFG : Nat := 0x4000
abbrev HEATH_SMP_STATUS : Nat := 0x4004
abbrev HEATH_SMP_CNT_PASSES : Nat := 0x4080
abbrev HEATH_SMP_CNT_MERGED : Nat := 0x4084
abbrev HEATH_SMP_A : Nat := 0x4100
abbrev HEATH_SMP_B : Nat := 0x4104
abbrev HEATH_SMP_C : Nat := 0x4108
abbrev HEATH_SMP_D : Nat := 0x410C
abbrev SEAM_CFG : Nat := 0x100
abbrev SEAM_STATUS : Nat := 0x104
abbrev SEAM_CNT_SEVERINGS : Nat := 0x140
abbrev SEAM_CNT_UNEXPECTED : Nat := 0x144
abbrev SEAM_CNT_LOST : Nat := 0x148
abbrev SEAM_CNT_MERGED : Nat := 0x14C
abbrev SEAM_CNT_ABSENT : Nat := 0x150
abbrev SEAM_CNT_HANGS : Nat := 0x154
abbrev SEAM_CNT_TIMEOUT : Nat := 0x158
abbrev SEAM_CNT_OVERFLOW : Nat := 0x15C
abbrev SEAM_CNT_SUPERSEDED : Nat := 0x160
abbrev SEAM_CNT_ISLAND_RESETS : Nat := 0x164
abbrev SEAM_STATE : Nat := 0x1000
abbrev SEAM_CNT : Nat := 0x2000
abbrev MANTLE_PL_STATUS : Nat := 0x1000
abbrev MANTLE_PL_LAST : Nat := 0x1004
abbrev MANTLE_PL_HOLD_BASE : Nat := 0x1008
abbrev MANTLE_PL_HOLD_SIZE : Nat := 0x100C
abbrev MANTLE_PL_BOOT_ID : Nat := 0x1010
abbrev MANTLE_PL_CNT_APPLIES : Nat := 0x1080
abbrev MANTLE_PL_CNT_COMMITTED : Nat := 0x1084
abbrev MANTLE_PL_CNT_DRY_RUNS : Nat := 0x1088
abbrev MANTLE_PL_CNT_BAD_SIGNATURE : Nat := 0x108C
abbrev MANTLE_PL_CNT_ROLLBACK : Nat := 0x1090
abbrev MANTLE_PL_CNT_MISMATCH : Nat := 0x1094
abbrev MANTLE_PL_CNT_BAD_FORMAT : Nat := 0x1098
abbrev MANTLE_PL_CNT_DENIED : Nat := 0x109C
abbrev MANTLE_PL_CNT_PANELS : Nat := 0x10A0
abbrev MANTLE_PL_CNT_HOLD_FAULTS : Nat := 0x10A4
abbrev MANTLE_IF_VER : Nat := 0x2000
abbrev MANTLE_IF_INFO : Nat := 0x2004
abbrev MANTLE_SEC_STATUS : Nat := 0x100
abbrev MANTLE_DEBUG_UNTIL : Nat := 0x104
abbrev MANTLE_DEV_SERIAL_LO : Nat := 0x108
abbrev MANTLE_DEV_SERIAL_HI : Nat := 0x10C
abbrev MANTLE_RIGHTS : Nat := 0x110
abbrev MANTLE_DEV_FPR : Nat := 0x120
abbrev MANTLE_JR_STATUS : Nat := 0x3000
abbrev MANTLE_JR_SEQ_LO : Nat := 0x3004
abbrev MANTLE_JR_SEQ_HI : Nat := 0x3008
abbrev MANTLE_JR_EXP_LO : Nat := 0x300C
abbrev MANTLE_JR_EXP_HI : Nat := 0x3010
abbrev MANTLE_JR_CHAIN : Nat := 0x3020
abbrev MANTLE_JR_CNT_ENTRIES : Nat := 0x3080
abbrev MANTLE_JR_CNT_EXPORTED : Nat := 0x3084
abbrev MANTLE_JR_CNT_FULL : Nat := 0x3088
abbrev MANTLE_JR_CNT_LOST : Nat := 0x308C
abbrev MANTLE_JR_CNT_DENIALS : Nat := 0x3090
abbrev MANTLE_JR_CNT_DENIALS_QUIET : Nat := 0x3094
abbrev MANTLE_SEC_CNT_CLAIM_FAIL : Nat := 0x3098
abbrev MANTLE_SEC_CNT_DEBUG_FAIL : Nat := 0x309C
abbrev MANTLE_SEC_CNT_ATTEST : Nat := 0x30A0
abbrev MANTLE_SEC_CNT_MAKER_KEY_BAD : Nat := 0x30A4
abbrev MANTLE_KEY_STATE : Nat := 0x3100
abbrev MANTLE_KEY_USES : Nat := 0x3104
abbrev MANTLE_KEY_FPR : Nat := 0x3110
abbrev MANTLE_RB : Nat := 0x3400
abbrev UPL_CFG : Nat := 0x100
abbrev UPL_MAC_LO : Nat := 0x104
abbrev UPL_MAC_HI : Nat := 0x108
abbrev UPL_IP6 : Nat := 0x110
abbrev UPL_PORTS : Nat := 0x120
abbrev UPL_MGMT : Nat := 0x124
abbrev UPL_LINK : Nat := 0x128
abbrev UPL_TXTS_NS : Nat := 0x130
abbrev UPL_TXTS_SEC : Nat := 0x134
abbrev UPL_CNT_RX_FRAMES : Nat := 0x200
abbrev UPL_CNT_TX_FRAMES : Nat := 0x204
abbrev UPL_CNT_RX_DROP : Nat := 0x208
abbrev UPL_CNT_MAC_CTRL : Nat := 0x20C
abbrev UPL_CNT_HO_SENT : Nat := 0x210
abbrev UPL_CNT_HO_RECEIVED : Nat := 0x214
abbrev UPL_CNT_HO_AUTH : Nat := 0x218
abbrev UPL_CNT_HO_DUP : Nat := 0x21C
abbrev UPL_CNT_HO_STALE : Nat := 0x220
abbrev UPL_CNT_HO_GAP : Nat := 0x224
abbrev UPL_CNT_HO_UNFILED : Nat := 0x228
abbrev UPL_CNT_LOG_LOST : Nat := 0x22C
abbrev UPL_CNT_EXP_DISCARD : Nat := 0x230
abbrev UPL_CNT_MGMT_REQ : Nat := 0x234
abbrev UPL_CNT_MGMT_DENIED : Nat := 0x238
abbrev UPL_RULE_A : Nat := 0x300
abbrev UPL_RULE_B : Nat := 0x304
abbrev UPL_HO_OUT : Nat := 0x500
abbrev UPL_HO_Q : Nat := 0x600
abbrev UPL_HO_IN : Nat := 0x700
abbrev UPL_EXP_A : Nat := 0x800
abbrev UPL_EXP_B : Nat := 0x804
abbrev UPL_PEER : Nat := 0x900
abbrev UPL_PEER_SEQ : Nat := 0x904
abbrev HEATH_TB_SEC_LO : Nat := 0x2000
abbrev HEATH_TB_SEC_HI : Nat := 0x2004
abbrev HEATH_TB_NS : Nat := 0x2008
abbrev HEATH_TB_FRAC : Nat := 0x200C
abbrev HEATH_TB_STATUS : Nat := 0x2010
abbrev HEATH_TB_DISC : Nat := 0x2014
abbrev HEATH_TB_RATE : Nat := 0x2018
abbrev HEATH_TB_OFFSET : Nat := 0x201C
abbrev HEATH_TB_UTC : Nat := 0x2020
abbrev HEATH_TB_MASTER : Nat := 0x2030
abbrev HEATH_TB_ALARM_A : Nat := 0x2040
abbrev HEATH_TB_ALARM_B : Nat := 0x2044
abbrev HEATH_TB_ALARM_C : Nat := 0x2048
abbrev HEATH_TB_CAP_LO : Nat := 0x2100
abbrev HEATH_TB_CAP_HI : Nat := 0x2104
abbrev HEATH_TB_CNT_STEPS : Nat := 0x2200
abbrev HEATH_TB_CNT_SAMPLES : Nat := 0x2204
abbrev HEATH_TB_CNT_HOLDOVERS : Nat := 0x2208
abbrev HEATH_TB_CNT_REJECTED : Nat := 0x220C
abbrev HEATH_TGT : Nat := 0x6000
abbrev PAD_STRAPS : Nat := 0x300
abbrev PAD_RESET : Nat := 0x304
abbrev MANTLE_BOOT_STATUS : Nat := 0x4000
abbrev MANTLE_BOOT_RECORD : Nat := 0x4004
abbrev MANTLE_BOOT_TIME : Nat := 0x4008
abbrev MANTLE_KEPT : Nat := 0x400C

def heathRegs0 : List RegDesc :=
  [⟨0x0, 1, 4, .ro, 0, 0x0, [], .view⟩,
   ⟨0x4, 1, 4, .ro, 0, 0x0, [], .view⟩,
   ⟨0x10, 4, 4, .wo, 14, 0x0, [], .order⟩,
   ⟨0xF0, 1, 4, .rw, 12, 0x0, [⟨31, 31, .wo, .any⟩], .clampLog⟩,
   ⟨0xF4, 1, 4, .ro, 0, 0x0, [], .plain⟩,
   ⟨0x5000, 256, 4, .rw, 12, 0x7D0, [⟨16, 0, .rw, (.range 1 100000)⟩, ⟨17, 17, .rw, .any⟩], .sentinel⟩,
   ⟨0x5400, 256, 4, .ro, 0, 0x0, [], .plain⟩,
   ⟨0x1000, 1, 4, .rw, 12, 0x0, [⟨31, 0, .rw, .any⟩], .domOn⟩,
   ⟨0x1004, 1, 4, .rw, 12, 0x0, [⟨17, 0, .rw, .any⟩], .domOn⟩,
   ⟨0x1010, 1, 4, .rw, 12, 0x0, [⟨1, 0, .rw, .any⟩], .devMode⟩,
   ⟨0x1014, 1, 4, .ro, 0, 0x0, [], .view⟩,
   ⟨0x1018, 1, 4, .ro, 0, 0x0, [], .plain⟩,
   ⟨0x101C, 1, 4, .ro, 0, 0x0, [], .plain⟩,
   ⟨0x1100, 50, 4, .ro, 0, 0x0, [], .view⟩,
   ⟨0x1200, 1, 4, .ro, 0, 0x0, [], .plain⟩,
   ⟨0x1204, 1, 4, .ro, 0, 0x0, [], .plain⟩,
   ⟨0x1208, 1, 4, .ro, 0, 0x0, [], .plain⟩,
   ⟨0x120C, 1, 4, .ro, 0, 0x0, [], .plain⟩,
   ⟨0x3000, 1, 4, .rw, 12, 0x3, [⟨0, 0, .ro, .any⟩, ⟨1, 1, .rw, .any⟩, ⟨5, 2, .rw, .any⟩, ⟨13, 6, .rw, .any⟩, ⟨14, 14, .rw, .any⟩, ⟨31, 16, .rw, .any⟩], .plain⟩,
   ⟨0x3004, 1, 4, .rw, 12, 0x0, [⟨3, 0, .rw, .any⟩, ⟨7, 4, .rw, .any⟩, ⟨11, 8, .rw, .any⟩, ⟨15, 12, .rw, .any⟩], .plain⟩]

def heathRegs1 : List RegDesc :=
  [⟨0x3008, 1, 4, .rw, 12, 0x190, [⟨10, 0, .rw, (.range 100 2000)⟩], .plain⟩,
   ⟨0x3010, 1, 4, .ro, 0, 0x0, [], .plain⟩,
   ⟨0x3014, 1, 4, .ro, 0, 0x0, [], .plain⟩,
   ⟨0x3018, 1, 4, .ro, 0, 0x0, [], .plain⟩,
   ⟨0x3100, 128, 4, .rw, 12, 0x2, [⟨0, 0, .rw, .any⟩, ⟨1, 1, .rw, .any⟩, ⟨5, 2, .rw, .any⟩], .plain⟩,
   ⟨0x3300, 16, 4, .rw, 12, 0x0, [⟨4, 0, .rw, .any⟩, ⟨5, 5, .rw, .any⟩], .route⟩,
   ⟨0x3380, 32, 4, .rw, 12, 0x0, [⟨4, 0, .rw, .any⟩, ⟨5, 5, .rw, .any⟩], .backup⟩,
   ⟨0x3400, 1, 4, .ro, 0, 0x0, [], .plain⟩,
   ⟨0x3404, 1, 4, .ro, 0, 0x0, [], .plain⟩,
   ⟨0x3408, 1, 4, .ro, 0, 0x0, [], .plain⟩,
   ⟨0x340C, 1, 4, .ro, 0, 0x0, [], .plain⟩,
   ⟨0x3410, 1, 4, .ro, 0, 0x0, [], .plain⟩,
   ⟨0x3414, 1, 4, .ro, 0, 0x0, [], .plain⟩,
   ⟨0x3418, 1, 4, .ro, 0, 0x0, [], .plain⟩,
   ⟨0x341C, 1, 4, .ro, 0, 0x0, [], .plain⟩,
   ⟨0x4000, 1, 4, .rw, 12, 0x3E800, [⟨0, 0, .rw, .any⟩, ⟨1, 1, .ro, .any⟩, ⟨23, 8, .rw, (.range 1 65535)⟩, ⟨28, 24, .ro, .any⟩], .smpCfg⟩,
   ⟨0x4004, 1, 4, .ro, 0, 0x0, [], .view⟩,
   ⟨0x4080, 1, 4, .ro, 0, 0x0, [], .plain⟩,
   ⟨0x4084, 1, 4, .ro, 0, 0x0, [], .plain⟩,
   ⟨0x4100, 32, 16, .ro, 0, 0x0, [], .plain⟩]

def heathRegs2 : List RegDesc :=
  [⟨0x4104, 32, 16, .ro, 0, 0x0, [], .plain⟩,
   ⟨0x4108, 32, 16, .ro, 0, 0x0, [], .plain⟩,
   ⟨0x410C, 32, 16, .ro, 0, 0x0, [], .plain⟩,
   ⟨0x2000, 1, 4, .ro, 0, 0x0, [], .view⟩,
   ⟨0x2004, 1, 4, .ro, 0, 0x0, [], .view⟩,
   ⟨0x2008, 1, 4, .ro, 0, 0x0, [], .view⟩,
   ⟨0x200C, 1, 4, .ro, 0, 0x0, [], .view⟩,
   ⟨0x2010, 1, 4, .ro, 0, 0x0, [], .view⟩,
   ⟨0x2014, 1, 4, .rw, 12, 0x3E80001, [⟨1, 0, .rw, (.enum [0, 1, 2] 0)⟩, ⟨3, 2, .rw, .any⟩, ⟨11, 4, .rw, .any⟩, ⟨27, 16, .rw, (.range 1 4000)⟩], .tbDisc⟩,
   ⟨0x2018, 1, 4, .rw, 12, 0x0, [⟨31, 0, .rw, .any⟩], .tbRate⟩,
   ⟨0x201C, 1, 4, .ro, 0, 0x0, [], .plain⟩,
   ⟨0x2020, 1, 4, .rw, 12, 0x25, [⟨15, 0, .rw, .any⟩], .tbUtc⟩,
   ⟨0x2030, 3, 4, .rw, 12, 0x0, [⟨31, 0, .rw, .any⟩], .tbMaster⟩,
   ⟨0x2040, 8, 16, .rw, 12, 0x0, [⟨31, 0, .rw, .any⟩], .plain⟩,
   ⟨0x2044, 8, 16, .rw, 12, 0x0, [⟨29, 0, .rw, (.range 0 999999999)⟩, ⟨30, 30, .rw, .any⟩], .plain⟩,
   ⟨0x2048, 8, 16, .rw, 12, 0x0, [⟨23, 0, .rw, .any⟩], .plain⟩,
   ⟨0x2100, 16, 8, .ro, 0, 0x0, [], .plain⟩,
   ⟨0x2104, 16, 8, .ro, 0, 0x0, [], .plain⟩,
   ⟨0x2200, 1, 4, .ro, 0, 0x0, [], .plain⟩,
   ⟨0x2204, 1, 4, .ro, 0, 0x0, [], .plain⟩]

def heathRegs3 : List RegDesc :=
  [⟨0x2208, 1, 4, .ro, 0, 0x0, [], .plain⟩,
   ⟨0x220C, 1, 4, .ro, 0, 0x0, [], .plain⟩,
   ⟨0x6000, 256, 4, .ro, 0, 0x0, [], .view⟩]

/-- The registers of the window. -/
def heathRegs : List RegDesc := heathRegs0 ++ heathRegs1 ++ heathRegs2 ++ heathRegs3

def hedgeRegs0 : List RegDesc :=
  [⟨0x0, 1, 4, .ro, 0, 0x0, [], .view⟩,
   ⟨0x4, 1, 4, .ro, 0, 0x0, [], .view⟩,
   ⟨0x10, 4, 4, .wo, 14, 0x0, [], .order⟩,
   ⟨0xF0, 1, 4, .rw, 12, 0x0, [⟨31, 31, .wo, .any⟩], .clampLog⟩,
   ⟨0xF4, 1, 4, .ro, 0, 0x0, [], .plain⟩,
   ⟨0x100, 1, 4, .rw, 12, 0x4, [⟨2, 0, .rw, (.range 1 7)⟩, ⟨3, 3, .rw, .any⟩, ⟨4, 4, .rw, .any⟩], .plain⟩,
   ⟨0x140, 1, 4, .ro, 0, 0x0, [], .plain⟩,
   ⟨0x144, 1, 4, .ro, 0, 0x0, [], .plain⟩,
   ⟨0x148, 1, 4, .ro, 0, 0x0, [], .plain⟩,
   ⟨0x14C, 1, 4, .ro, 0, 0x0, [], .plain⟩,
   ⟨0x150, 1, 4, .ro, 0, 0x0, [], .plain⟩,
   ⟨0x154, 1, 4, .ro, 0, 0x0, [], .plain⟩,
   ⟨0x158, 1, 4, .ro, 0, 0x0, [], .plain⟩,
   ⟨0x15C, 1, 4, .ro, 0, 0x0, [], .plain⟩,
   ⟨0x180, 1, 4, .wo, 12, 0x0, [⟨15, 0, .wo, .any⟩, ⟨18, 16, .wo, .any⟩], .swFire⟩,
   ⟨0x200, 16, 4, .rw, 12, 0x3E8, [⟨23, 0, .rw, (.range 1 16777215)⟩], .hedgeCfg⟩,
   ⟨0x1000, 2048, 4, .rw, 12, 0x0, [⟨0, 0, .rw, .any⟩, ⟨1, 1, .rw, .any⟩], .hchan⟩,
   ⟨0x4000, 2352, 4, .rw, 12, 0x0, [⟨10, 0, .rw, .any⟩, ⟨11, 11, .rw, .any⟩, ⟨18, 17, .ro, .any⟩], .psel⟩,
   ⟨0x8000, 2880, 4, .rw, 12, 0x0, [⟨10, 0, .rw, .any⟩, ⟨11, 11, .rw, .any⟩, ⟨16, 12, .rw, (.range 0 21)⟩, ⟨18, 17, .ro, .any⟩], .tsel⟩,
   ⟨0xC000, 2880, 4, .ro, 0, 0x0, [], .view⟩]

def hedgeRegs1 : List RegDesc :=
  [⟨0x10000, 2048, 8, .ro, 0, 0x0, [], .plain⟩,
   ⟨0x10004, 2048, 8, .ro, 0, 0x0, [], .plain⟩,
   ⟨0x14000, 2048, 4, .ro, 0, 0x0, [], .plain⟩]

/-- The registers of the window. -/
def hedgeRegs : List RegDesc := hedgeRegs0 ++ hedgeRegs1

def qengRegs0 : List RegDesc :=
  [⟨0x0, 1, 4, .ro, 0, 0x0, [], .view⟩,
   ⟨0x4, 1, 4, .ro, 0, 0x0, [], .view⟩,
   ⟨0x10, 4, 4, .wo, 14, 0x0, [], .order⟩,
   ⟨0xF0, 1, 4, .rw, 12, 0x0, [⟨31, 31, .wo, .any⟩], .clampLog⟩,
   ⟨0xF4, 1, 4, .ro, 0, 0x0, [], .plain⟩,
   ⟨0x100, 1, 4, .rw, 12, 0x18, [⟨7, 0, .rw, (.range 1 168)⟩], .plain⟩,
   ⟨0x104, 1, 4, .ro, 0, 0x0, [], .view⟩,
   ⟨0x108, 1, 4, .ro, 0, 0x0, [], .view⟩,
   ⟨0x110, 4, 4, .ro, 0, 0x0, [], .view⟩,
   ⟨0x120, 4, 4, .ro, 0, 0x0, [], .plain⟩,
   ⟨0x130, 4, 4, .ro, 0, 0x0, [], .view⟩,
   ⟨0x200, 4, 4, .ro, 0, 0x0, [], .plain⟩,
   ⟨0x210, 4, 4, .ro, 0, 0x0, [], .plain⟩,
   ⟨0x220, 4, 4, .ro, 0, 0x0, [], .plain⟩,
   ⟨0x230, 1, 4, .ro, 0, 0x0, [], .plain⟩,
   ⟨0x234, 1, 4, .ro, 0, 0x0, [], .plain⟩,
   ⟨0x238, 1, 4, .ro, 0, 0x0, [], .plain⟩,
   ⟨0x23C, 1, 4, .ro, 0, 0x0, [], .plain⟩,
   ⟨0x240, 1, 4, .ro, 0, 0x0, [], .plain⟩,
   ⟨0x244, 1, 4, .ro, 0, 0x0, [], .plain⟩]

def qengRegs1 : List RegDesc :=
  [⟨0x248, 1, 4, .ro, 0, 0x0, [], .plain⟩,
   ⟨0x24C, 1, 4, .ro, 0, 0x0, [], .plain⟩,
   ⟨0x250, 1, 4, .ro, 0, 0x0, [], .plain⟩,
   ⟨0x254, 1, 4, .ro, 0, 0x0, [], .plain⟩,
   ⟨0x258, 1, 4, .ro, 0, 0x0, [], .plain⟩,
   ⟨0x25C, 1, 4, .ro, 0, 0x0, [], .plain⟩,
   ⟨0x300, 16, 4, .rw, 12, 0x0, [⟨19, 0, .rw, .any⟩, ⟨20, 20, .rw, .any⟩], .plain⟩,
   ⟨0x400, 256, 4, .ro, 0, 0x0, [], .plain⟩,
   ⟨0x1000, 64, 16, .ro, 0, 0x0, [], .plain⟩,
   ⟨0x1004, 64, 16, .ro, 0, 0x0, [], .plain⟩,
   ⟨0x1008, 64, 16, .ro, 0, 0x0, [], .plain⟩,
   ⟨0x100C, 64, 16, .ro, 0, 0x0, [], .plain⟩,
   ⟨0x2000, 192, 4, .ro, 0, 0x0, [], .plain⟩,
   ⟨0xC00, 8, 4, .ro, 0, 0x0, [], .view⟩,
   ⟨0xD00, 8, 4, .ro, 0, 0x0, [], .view⟩,
   ⟨0xE00, 8, 4, .ro, 0, 0x0, [], .view⟩,
   ⟨0xF00, 8, 4, .ro, 0, 0x0, [], .view⟩]

/-- The registers of the window. -/
def qengRegs : List RegDesc := qengRegs0 ++ qengRegs1

def qdrRegs0 : List RegDesc :=
  [⟨0x0, 1, 4, .ro, 0, 0x0, [], .view⟩,
   ⟨0x4, 1, 4, .ro, 0, 0x0, [], .view⟩,
   ⟨0x10, 4, 4, .wo, 14, 0x0, [], .order⟩,
   ⟨0xF0, 1, 4, .rw, 12, 0x0, [⟨31, 31, .wo, .any⟩], .clampLog⟩,
   ⟨0xF4, 1, 4, .ro, 0, 0x0, [], .plain⟩,
   ⟨0x100, 1, 4, .rw, 12, 0x23C28, [⟨2, 0, .rw, (.enum [0, 1, 2, 3, 4] 4)⟩, ⟨3, 3, .rw, .any⟩, ⟨4, 4, .rw, .any⟩, ⟨5, 5, .rw, .any⟩, ⟨15, 8, .rw, .any⟩, ⟨23, 16, .rw, (.range 1 50)⟩], .plain⟩,
   ⟨0x104, 1, 4, .ro, 0, 0x6, [], .plain⟩,
   ⟨0x108, 1, 4, .ro, 0, 0x0, [], .view⟩,
   ⟨0x10C, 1, 4, .ro, 0, 0x0, [], .view⟩,
   ⟨0x110, 1, 4, .ro, 0, 0x0, [], .plain⟩,
   ⟨0x114, 1, 4, .ro, 0, 0x0, [], .plain⟩,
   ⟨0x118, 1, 4, .ro, 0, 0x0, [], .plain⟩,
   ⟨0x200, 1, 4, .ro, 0, 0x0, [], .plain⟩,
   ⟨0x204, 1, 4, .ro, 0, 0x0, [], .plain⟩,
   ⟨0x208, 1, 4, .ro, 0, 0x0, [], .plain⟩,
   ⟨0x20C, 1, 4, .ro, 0, 0x0, [], .plain⟩,
   ⟨0x210, 1, 4, .ro, 0, 0x0, [], .plain⟩,
   ⟨0x214, 1, 4, .ro, 0, 0x0, [], .plain⟩,
   ⟨0x218, 1, 4, .ro, 0, 0x0, [], .plain⟩]

/-- The registers of the window. -/
def qdrRegs : List RegDesc := qdrRegs0

def laneRegs0 : List RegDesc :=
  [⟨0x0, 1, 4, .ro, 0, 0x0, [], .view⟩,
   ⟨0x4, 1, 4, .ro, 0, 0x0, [], .view⟩,
   ⟨0x10, 4, 4, .wo, 14, 0x0, [], .order⟩,
   ⟨0xF0, 1, 4, .rw, 12, 0x0, [⟨31, 31, .wo, .any⟩], .clampLog⟩,
   ⟨0xF4, 1, 4, .ro, 0, 0x0, [], .plain⟩,
   ⟨0x100, 1, 4, .rw, 12, 0xC80A0C, [⟨1, 0, .rw, (.enum [0, 1, 2] 0)⟩, ⟨2, 2, .rw, .any⟩, ⟨3, 3, .rw, .any⟩, ⟨15, 8, .rw, .any⟩, ⟨25, 16, .rw, (.range 10 1000)⟩], .plain⟩,
   ⟨0x104, 1, 4, .rw, 12, 0x3200FA, [⟨9, 0, .rw, (.range 100 1000)⟩, ⟨27, 16, .rw, (.range 1 4000)⟩], .plain⟩,
   ⟨0x108, 1, 4, .rw, 12, 0x140148, [⟨1, 0, .rw, (.enum [0, 1] 0)⟩, ⟨3, 2, .rw, .any⟩, ⟨6, 4, .rw, (.enum [0, 1, 2, 3, 4, 5] 5)⟩, ⟨8, 7, .rw, (.enum [0, 1, 2] 2)⟩, ⟨23, 16, .rw, (.range 1 255)⟩], .plain⟩,
   ⟨0x10C, 1, 4, .ro, 0, 0x0, [], .view⟩,
   ⟨0x110, 1, 4, .ro, 0, 0x0, [], .view⟩,
   ⟨0x114, 1, 4, .ro, 0, 0x0, [], .view⟩,
   ⟨0x118, 1, 4, .ro, 0, 0x0, [], .view⟩,
   ⟨0x11C, 1, 4, .ro, 0, 0x21E0, [], .view⟩,
   ⟨0x120, 1, 4, .ro, 0, 0x0, [], .view⟩,
   ⟨0x130, 1, 4, .ro, 0, 0x0, [], .view⟩,
   ⟨0x134, 1, 4, .ro, 0, 0x0, [], .view⟩,
   ⟨0x138, 1, 4, .ro, 0, 0x0, [], .view⟩,
   ⟨0x200, 1, 4, .ro, 0, 0x0, [], .plain⟩,
   ⟨0x204, 1, 4, .ro, 0, 0x0, [], .plain⟩,
   ⟨0x208, 1, 4, .ro, 0, 0x0, [], .plain⟩]

def laneRegs1 : List RegDesc :=
  [⟨0x20C, 1, 4, .ro, 0, 0x0, [], .plain⟩,
   ⟨0x210, 1, 4, .ro, 0, 0x0, [], .plain⟩,
   ⟨0x214, 1, 4, .ro, 0, 0x0, [], .plain⟩,
   ⟨0x218, 1, 4, .ro, 0, 0x0, [], .plain⟩,
   ⟨0x21C, 1, 4, .ro, 0, 0x0, [], .plain⟩,
   ⟨0x220, 1, 4, .ro, 0, 0x0, [], .plain⟩,
   ⟨0x224, 1, 4, .ro, 0, 0x0, [], .plain⟩,
   ⟨0x228, 1, 4, .ro, 0, 0x0, [], .plain⟩,
   ⟨0x22C, 1, 4, .ro, 0, 0x0, [], .plain⟩,
   ⟨0x230, 1, 4, .ro, 0, 0x0, [], .plain⟩,
   ⟨0x234, 1, 4, .ro, 0, 0x0, [], .plain⟩,
   ⟨0x238, 1, 4, .ro, 0, 0x0, [], .plain⟩,
   ⟨0x23C, 1, 4, .ro, 0, 0x0, [], .plain⟩,
   ⟨0x240, 1, 4, .ro, 0, 0x0, [], .plain⟩,
   ⟨0x244, 1, 4, .ro, 0, 0x0, [], .plain⟩,
   ⟨0x248, 1, 4, .ro, 0, 0x0, [], .plain⟩,
   ⟨0x1000, 128, 16, .ro, 0, 0x0, [], .view⟩,
   ⟨0x1004, 128, 16, .ro, 0, 0x0, [], .view⟩,
   ⟨0x1008, 128, 16, .ro, 0, 0x0, [], .view⟩,
   ⟨0x100C, 128, 16, .ro, 0, 0x0, [], .view⟩]

def laneRegs2 : List RegDesc :=
  [⟨0x400, 1, 4, .rw, 12, 0x101, [⟨0, 0, .rw, .any⟩, ⟨1, 1, .rw, .any⟩, ⟨15, 8, .rw, (.range 0 128)⟩], .plain⟩,
   ⟨0x404, 1, 4, .rw, 14, 0xF093E8, [⟨9, 0, .rw, (.range 0 1000)⟩, ⟨13, 10, .rw, (.range 1 8)⟩, ⟨17, 14, .rw, (.range 0 8)⟩, ⟨27, 18, .rw, (.range 1 600)⟩], .swParam⟩,
   ⟨0x408, 1, 4, .rw, 14, 0x501E, [⟨6, 0, .rw, (.range 1 100)⟩, ⟨17, 8, .rw, (.range 5 300)⟩], .swParam⟩,
   ⟨0x40C, 1, 4, .rw, 12, 0x9623E8, [⟨9, 0, .rw, (.range 0 1000)⟩, ⟨13, 10, .rw, (.range 1 8)⟩, ⟨23, 14, .rw, (.range 1 600)⟩], .swLimit⟩,
   ⟨0x410, 1, 4, .rw, 14, 0x0, [⟨9, 0, .rw, (.range 0 1000)⟩, ⟨10, 10, .rw, .any⟩, ⟨17, 11, .rw, (.range 0 100)⟩], .ovr⟩,
   ⟨0x414, 1, 4, .rw, 14, 0x0, [⟨31, 0, .rw, .any⟩], .ovr⟩,
   ⟨0x418, 1, 4, .ro, 0, 0x3E8, [], .view⟩,
   ⟨0x41C, 1, 4, .ro, 0, 0x0, [], .plain⟩,
   ⟨0x420, 1, 4, .ro, 0, 0x0, [], .plain⟩,
   ⟨0x424, 4, 4, .ro, 0, 0x3E803E8, [], .view⟩,
   ⟨0x434, 1, 4, .ro, 0, 0x0, [], .plain⟩,
   ⟨0x438, 1, 4, .ro, 0, 0x0, [], .view⟩,
   ⟨0x480, 1, 4, .ro, 0, 0x0, [], .plain⟩,
   ⟨0x484, 1, 4, .ro, 0, 0x0, [], .plain⟩,
   ⟨0x488, 1, 4, .ro, 0, 0x0, [], .plain⟩,
   ⟨0x48C, 1, 4, .ro, 0, 0x0, [], .plain⟩,
   ⟨0x490, 1, 4, .ro, 0, 0x0, [], .plain⟩,
   ⟨0x494, 1, 4, .ro, 0, 0x0, [], .plain⟩,
   ⟨0x498, 1, 4, .ro, 0, 0x0, [], .plain⟩,
   ⟨0x49C, 1, 4, .ro, 0, 0x0, [], .plain⟩]

def laneRegs3 : List RegDesc :=
  [⟨0x4A0, 1, 4, .ro, 0, 0x0, [], .plain⟩,
   ⟨0x4A4, 1, 4, .ro, 0, 0x0, [], .plain⟩,
   ⟨0x4A8, 1, 4, .ro, 0, 0x0, [], .plain⟩,
   ⟨0x4AC, 1, 4, .ro, 0, 0x0, [], .plain⟩,
   ⟨0x4B0, 1, 4, .ro, 0, 0x0, [], .plain⟩,
   ⟨0x500, 8, 16, .ro, 0, 0x0, [], .plain⟩,
   ⟨0x504, 8, 16, .ro, 0, 0x0, [], .plain⟩,
   ⟨0x508, 8, 16, .ro, 0, 0x0, [], .plain⟩,
   ⟨0x50C, 8, 16, .ro, 0, 0x0, [], .view⟩,
   ⟨0x580, 8, 8, .ro, 0, 0x0, [], .plain⟩,
   ⟨0x584, 8, 8, .ro, 0, 0x0, [], .plain⟩,
   ⟨0x5C0, 1, 4, .ro, 0, 0x281E140A, [], .plain⟩,
   ⟨0x5C4, 1, 4, .ro, 0, 0x50463C32, [], .plain⟩,
   ⟨0x5C8, 1, 4, .ro, 0, 0x786E645A, [], .plain⟩,
   ⟨0x5CC, 1, 4, .ro, 0, 0xC8A08C, [], .plain⟩,
   ⟨0x600, 32, 16, .ro, 0, 0x0, [], .plain⟩,
   ⟨0x604, 32, 16, .ro, 0, 0x0, [], .plain⟩,
   ⟨0x608, 32, 16, .ro, 0, 0x0, [], .plain⟩,
   ⟨0x2000, 128, 64, .ro, 0, 0x0, [], .plain⟩,
   ⟨0x2004, 128, 64, .ro, 0, 0x0, [], .plain⟩]

def laneRegs4 : List RegDesc :=
  [⟨0x2008, 128, 64, .ro, 0, 0x0, [], .plain⟩,
   ⟨0x200C, 128, 64, .ro, 0, 0x0, [], .plain⟩,
   ⟨0x2010, 128, 64, .ro, 0, 0x0, [], .plain⟩,
   ⟨0x2014, 128, 64, .ro, 0, 0x0, [], .plain⟩,
   ⟨0x2018, 128, 64, .rw, 14, 0x0, [⟨9, 0, .rw, (.range 0 1000)⟩, ⟨10, 10, .rw, .any⟩, ⟨17, 11, .rw, (.range 0 100)⟩], .ovr⟩,
   ⟨0x201C, 128, 64, .rw, 14, 0x0, [⟨31, 0, .rw, .any⟩], .ovr⟩,
   ⟨0x2020, 128, 64, .ro, 0, 0xFA3E8, [], .view⟩,
   ⟨0x2024, 128, 64, .ro, 0, 0x3E8, [], .plain⟩,
   ⟨0x2028, 128, 64, .ro, 0, 0x0, [], .view⟩,
   ⟨0x202C, 128, 64, .ro, 0, 0x0, [], .view⟩,
   ⟨0x800, 1, 4, .rw, 12, 0x119338A, [⟨5, 0, .rw, (.range 1 60)⟩, ⟨6, 6, .rw, .any⟩, ⟨7, 7, .rw, .any⟩, ⟨11, 8, .rw, (.range 1 15)⟩, ⟨15, 12, .rw, (.range 1 15)⟩, ⟨23, 16, .rw, (.range 1 100)⟩, ⟨24, 24, .rw, .any⟩], .plain⟩,
   ⟨0x804, 1, 4, .rw, 12, 0x9E20816, [⟨11, 0, .rw, .any⟩, ⟨27, 16, .rw, .any⟩], .feeder⟩,
   ⟨0x808, 1, 4, .rw, 12, 0x320F03, [⟨3, 0, .rw, (.range 2 15)⟩, ⟨13, 8, .rw, (.range 1 60)⟩, ⟨25, 16, .rw, (.range 1 1000)⟩], .plain⟩,
   ⟨0x80C, 1, 4, .ro, 0, 0x0, [], .view⟩,
   ⟨0x880, 1, 4, .ro, 0, 0x0, [], .plain⟩,
   ⟨0x884, 1, 4, .ro, 0, 0x0, [], .plain⟩,
   ⟨0x888, 1, 4, .ro, 0, 0x0, [], .plain⟩,
   ⟨0x88C, 1, 4, .ro, 0, 0x0, [], .plain⟩,
   ⟨0x900, 16, 16, .ro, 0, 0x14140000, [], .plain⟩,
   ⟨0x904, 16, 16, .ro, 0, 0xC807D0, [], .plain⟩]

def laneRegs5 : List RegDesc :=
  [⟨0xA00, 128, 4, .ro, 0, 0x0, [], .view⟩,
   ⟨0x4000, 128, 32, .ro, 0, 0x0, [], .plain⟩,
   ⟨0xC00, 1, 4, .ro, 0, 0x0, [], .view⟩,
   ⟨0xC04, 1, 4, .ro, 0, 0x0, [], .view⟩,
   ⟨0xC08, 1, 4, .ro, 0, 0x0, [], .view⟩,
   ⟨0xC0C, 1, 4, .ro, 0, 0x0, [], .view⟩,
   ⟨0xC10, 1, 4, .ro, 0, 0x0, [], .view⟩,
   ⟨0xC40, 16, 4, .ro, 0, 0x0, [], .view⟩,
   ⟨0xC80, 4, 4, .ro, 0, 0x0, [], .view⟩]

/-- The registers of the window. -/
def laneRegs : List RegDesc := laneRegs0 ++ laneRegs1 ++ laneRegs2 ++ laneRegs3 ++ laneRegs4 ++ laneRegs5

def lifeRegs0 : List RegDesc :=
  [⟨0x0, 1, 4, .ro, 0, 0x0, [], .view⟩,
   ⟨0x4, 1, 4, .ro, 0, 0x0, [], .view⟩,
   ⟨0x10, 4, 4, .wo, 14, 0x0, [], .order⟩,
   ⟨0xF0, 1, 4, .rw, 12, 0x0, [⟨31, 31, .wo, .any⟩], .clampLog⟩,
   ⟨0xF4, 1, 4, .ro, 0, 0x0, [], .plain⟩,
   ⟨0x100, 1, 4, .rw, 12, 0x64, [⟨9, 0, .rw, (.range 1 999)⟩, ⟨10, 10, .rw, .any⟩], .lifeCfg⟩,
   ⟨0x104, 1, 4, .ro, 0, 0x0, [], .view⟩,
   ⟨0x108, 1, 4, .ro, 0, 0x0, [], .view⟩,
   ⟨0x200, 1, 4, .ro, 0, 0x0, [], .plain⟩,
   ⟨0x204, 1, 4, .ro, 0, 0x0, [], .plain⟩,
   ⟨0x208, 1, 4, .ro, 0, 0x0, [], .plain⟩,
   ⟨0x20C, 1, 4, .ro, 0, 0x0, [], .plain⟩,
   ⟨0x210, 1, 4, .ro, 0, 0x0, [], .plain⟩,
   ⟨0x214, 1, 4, .ro, 0, 0x0, [], .plain⟩,
   ⟨0x218, 1, 4, .ro, 0, 0x0, [], .plain⟩,
   ⟨0x21C, 1, 4, .ro, 0, 0x0, [], .plain⟩,
   ⟨0x220, 1, 4, .ro, 0, 0x0, [], .plain⟩,
   ⟨0x224, 1, 4, .ro, 0, 0x0, [], .plain⟩,
   ⟨0x228, 1, 4, .ro, 0, 0x0, [], .plain⟩,
   ⟨0x22C, 1, 4, .ro, 0, 0x0, [], .plain⟩]

def lifeRegs1 : List RegDesc :=
  [⟨0x230, 1, 4, .ro, 0, 0x0, [], .plain⟩,
   ⟨0x234, 1, 4, .ro, 0, 0x0, [], .plain⟩,
   ⟨0x238, 1, 4, .ro, 0, 0x0, [], .plain⟩,
   ⟨0x1000, 16, 32, .ro, 0, 0x0, [], .plain⟩,
   ⟨0x1200, 1, 4, .ro, 0, 0x10101010, [], .plain⟩,
   ⟨0x1004, 16, 32, .ro, 0, 0x0, [], .plain⟩,
   ⟨0x1204, 1, 4, .ro, 0, 0x18161412, [], .plain⟩,
   ⟨0x1008, 16, 32, .ro, 0, 0x0, [], .plain⟩,
   ⟨0x1208, 1, 4, .ro, 0, 0x10101010, [], .plain⟩,
   ⟨0x100C, 16, 32, .ro, 0, 0x0, [], .plain⟩,
   ⟨0x120C, 1, 4, .ro, 0, 0x10101010, [], .plain⟩,
   ⟨0x1010, 16, 32, .ro, 0, 0x0, [], .plain⟩,
   ⟨0x1210, 1, 4, .ro, 0, 0x2C201814, [], .plain⟩,
   ⟨0x1014, 16, 32, .ro, 0, 0x0, [], .plain⟩,
   ⟨0x1214, 1, 4, .ro, 0, 0xC0806040, [], .plain⟩,
   ⟨0x1018, 16, 32, .ro, 0, 0x0, [], .plain⟩,
   ⟨0x1218, 1, 4, .ro, 0, 0xC80352, [], .plain⟩,
   ⟨0x101C, 16, 32, .ro, 0, 0x0, [], .plain⟩,
   ⟨0x121C, 1, 4, .ro, 0, 0x13880658, [], .plain⟩,
   ⟨0x2000, 256, 4, .ro, 0, 0x0, [], .plain⟩]

/-- The registers of the window. -/
def lifeRegs : List RegDesc := lifeRegs0 ++ lifeRegs1

def mantleRegs0 : List RegDesc :=
  [⟨0x0, 1, 4, .ro, 0, 0x0, [], .view⟩,
   ⟨0x4, 1, 4, .ro, 0, 0x0, [], .view⟩,
   ⟨0x10, 4, 4, .wo, 14, 0x0, [], .order⟩,
   ⟨0xF0, 1, 4, .rw, 12, 0x0, [⟨31, 31, .wo, .any⟩], .clampLog⟩,
   ⟨0xF4, 1, 4, .ro, 0, 0x0, [], .plain⟩,
   ⟨0x1000, 1, 4, .ro, 0, 0x0, [], .view⟩,
   ⟨0x1004, 1, 4, .ro, 0, 0x0, [], .plain⟩,
   ⟨0x1008, 1, 4, .ro, 0, 0x0, [], .view⟩,
   ⟨0x100C, 1, 4, .ro, 0, 0x0, [], .view⟩,
   ⟨0x1010, 4, 4, .ro, 0, 0x0, [], .plain⟩,
   ⟨0x1080, 1, 4, .ro, 0, 0x0, [], .plain⟩,
   ⟨0x1084, 1, 4, .ro, 0, 0x0, [], .plain⟩,
   ⟨0x1088, 1, 4, .ro, 0, 0x0, [], .plain⟩,
   ⟨0x108C, 1, 4, .ro, 0, 0x0, [], .plain⟩,
   ⟨0x1090, 1, 4, .ro, 0, 0x0, [], .plain⟩,
   ⟨0x1094, 1, 4, .ro, 0, 0x0, [], .plain⟩,
   ⟨0x1098, 1, 4, .ro, 0, 0x0, [], .plain⟩,
   ⟨0x109C, 1, 4, .ro, 0, 0x0, [], .plain⟩,
   ⟨0x10A0, 1, 4, .ro, 0, 0x0, [], .plain⟩,
   ⟨0x10A4, 1, 4, .ro, 0, 0x0, [], .plain⟩]

def mantleRegs1 : List RegDesc :=
  [⟨0x2000, 321, 8, .ro, 0, 0x0, [], .view⟩,
   ⟨0x2004, 321, 8, .ro, 0, 0x0, [], .view⟩,
   ⟨0x100, 1, 4, .ro, 0, 0x0, [], .view⟩,
   ⟨0x104, 1, 4, .ro, 0, 0x0, [], .view⟩,
   ⟨0x108, 1, 4, .ro, 0, 0x0, [], .view⟩,
   ⟨0x10C, 1, 4, .ro, 0, 0x0, [], .view⟩,
   ⟨0x110, 1, 4, .ro, 0, 0x0, [], .view⟩,
   ⟨0x120, 4, 4, .ro, 0, 0x0, [], .view⟩,
   ⟨0x3000, 1, 4, .ro, 0, 0x0, [], .view⟩,
   ⟨0x3004, 1, 4, .ro, 0, 0x0, [], .view⟩,
   ⟨0x3008, 1, 4, .ro, 0, 0x0, [], .view⟩,
   ⟨0x300C, 1, 4, .ro, 0, 0x0, [], .view⟩,
   ⟨0x3010, 1, 4, .ro, 0, 0x0, [], .view⟩,
   ⟨0x3020, 4, 4, .ro, 0, 0x0, [], .view⟩,
   ⟨0x3080, 1, 4, .ro, 0, 0x0, [], .plain⟩,
   ⟨0x3084, 1, 4, .ro, 0, 0x0, [], .plain⟩,
   ⟨0x3088, 1, 4, .ro, 0, 0x0, [], .plain⟩,
   ⟨0x308C, 1, 4, .ro, 0, 0x0, [], .plain⟩,
   ⟨0x3090, 1, 4, .ro, 0, 0x0, [], .plain⟩,
   ⟨0x3094, 1, 4, .ro, 0, 0x0, [], .plain⟩]

def mantleRegs2 : List RegDesc :=
  [⟨0x3098, 1, 4, .ro, 0, 0x0, [], .plain⟩,
   ⟨0x309C, 1, 4, .ro, 0, 0x0, [], .plain⟩,
   ⟨0x30A0, 1, 4, .ro, 0, 0x0, [], .plain⟩,
   ⟨0x30A4, 1, 4, .ro, 0, 0x0, [], .plain⟩,
   ⟨0x3100, 16, 32, .ro, 0, 0x0, [], .view⟩,
   ⟨0x3104, 16, 32, .ro, 0, 0x0, [], .plain⟩,
   ⟨0x3110, 4, 4, .ro, 0, 0x0, [], .view⟩,
   ⟨0x3130, 4, 4, .ro, 0, 0x0, [], .view⟩,
   ⟨0x3150, 4, 4, .ro, 0, 0x0, [], .view⟩,
   ⟨0x3170, 4, 4, .ro, 0, 0x0, [], .view⟩,
   ⟨0x3190, 4, 4, .ro, 0, 0x0, [], .view⟩,
   ⟨0x31B0, 4, 4, .ro, 0, 0x0, [], .view⟩,
   ⟨0x31D0, 4, 4, .ro, 0, 0x0, [], .view⟩,
   ⟨0x31F0, 4, 4, .ro, 0, 0x0, [], .view⟩,
   ⟨0x3210, 4, 4, .ro, 0, 0x0, [], .view⟩,
   ⟨0x3230, 4, 4, .ro, 0, 0x0, [], .view⟩,
   ⟨0x3250, 4, 4, .ro, 0, 0x0, [], .view⟩,
   ⟨0x3270, 4, 4, .ro, 0, 0x0, [], .view⟩,
   ⟨0x3290, 4, 4, .ro, 0, 0x0, [], .view⟩,
   ⟨0x32B0, 4, 4, .ro, 0, 0x0, [], .view⟩]

def mantleRegs3 : List RegDesc :=
  [⟨0x32D0, 4, 4, .ro, 0, 0x0, [], .view⟩,
   ⟨0x32F0, 4, 4, .ro, 0, 0x0, [], .view⟩,
   ⟨0x3400, 97, 4, .ro, 0, 0x0, [], .plain⟩,
   ⟨0x4000, 1, 4, .ro, 0, 0x0, [], .view⟩,
   ⟨0x4004, 1, 4, .ro, 0, 0x0, [], .view⟩,
   ⟨0x4008, 1, 4, .ro, 0, 0x0, [], .view⟩,
   ⟨0x400C, 1, 4, .ro, 0, 0x0, [], .view⟩]

/-- The registers of the window. -/
def mantleRegs : List RegDesc := mantleRegs0 ++ mantleRegs1 ++ mantleRegs2 ++ mantleRegs3

def uplRegs0 : List RegDesc :=
  [⟨0x0, 1, 4, .ro, 0, 0x0, [], .view⟩,
   ⟨0x4, 1, 4, .ro, 0, 0x0, [], .view⟩,
   ⟨0x10, 4, 4, .wo, 14, 0x0, [], .order⟩,
   ⟨0xF0, 1, 4, .rw, 12, 0x0, [⟨31, 31, .wo, .any⟩], .clampLog⟩,
   ⟨0xF4, 1, 4, .ro, 0, 0x0, [], .plain⟩,
   ⟨0x100, 1, 4, .rw, 12, 0x7, [⟨0, 0, .rw, .any⟩, ⟨1, 1, .rw, .any⟩, ⟨2, 2, .rw, .any⟩, ⟨3, 3, .rw, .any⟩, ⟨15, 4, .rw, (.range 1 4094)⟩, ⟨18, 16, .rw, .any⟩, ⟨19, 19, .rw, .any⟩], .uplCfg⟩,
   ⟨0x104, 1, 4, .rw, 12, 0x0, [⟨31, 0, .rw, .any⟩], .plain⟩,
   ⟨0x108, 1, 4, .rw, 12, 0x0, [⟨15, 0, .rw, .any⟩], .plain⟩,
   ⟨0x110, 4, 4, .rw, 12, 0x0, [⟨31, 0, .rw, .any⟩], .plain⟩,
   ⟨0x120, 1, 4, .rw, 12, 0x0, [⟨15, 0, .rw, .any⟩, ⟨31, 16, .rw, .any⟩], .plain⟩,
   ⟨0x124, 1, 4, .rw, 12, 0x6403, [⟨0, 0, .rw, .any⟩, ⟨1, 1, .rw, .any⟩, ⟨15, 8, .rw, (.range 1 255)⟩], .plain⟩,
   ⟨0x128, 1, 4, .ro, 0, 0x0, [], .view⟩,
   ⟨0x130, 1, 4, .ro, 0, 0x0, [], .plain⟩,
   ⟨0x134, 1, 4, .ro, 0, 0x0, [], .plain⟩,
   ⟨0x200, 1, 4, .ro, 0, 0x0, [], .plain⟩,
   ⟨0x204, 1, 4, .ro, 0, 0x0, [], .plain⟩,
   ⟨0x208, 1, 4, .ro, 0, 0x0, [], .plain⟩,
   ⟨0x20C, 1, 4, .ro, 0, 0x0, [], .plain⟩,
   ⟨0x210, 1, 4, .ro, 0, 0x0, [], .plain⟩,
   ⟨0x214, 1, 4, .ro, 0, 0x0, [], .plain⟩]

def uplRegs1 : List RegDesc :=
  [⟨0x218, 1, 4, .ro, 0, 0x0, [], .plain⟩,
   ⟨0x21C, 1, 4, .ro, 0, 0x0, [], .plain⟩,
   ⟨0x220, 1, 4, .ro, 0, 0x0, [], .plain⟩,
   ⟨0x224, 1, 4, .ro, 0, 0x0, [], .plain⟩,
   ⟨0x228, 1, 4, .ro, 0, 0x0, [], .plain⟩,
   ⟨0x22C, 1, 4, .ro, 0, 0x0, [], .plain⟩,
   ⟨0x230, 1, 4, .ro, 0, 0x0, [], .plain⟩,
   ⟨0x234, 1, 4, .ro, 0, 0x0, [], .plain⟩,
   ⟨0x238, 1, 4, .ro, 0, 0x0, [], .plain⟩,
   ⟨0x300, 64, 8, .ro, 0, 0x0, [], .plain⟩,
   ⟨0x304, 64, 8, .ro, 0, 0x0, [], .plain⟩,
   ⟨0x500, 64, 4, .ro, 0, 0x0, [], .plain⟩,
   ⟨0x600, 64, 4, .ro, 0, 0x0, [], .plain⟩,
   ⟨0x700, 64, 4, .ro, 0, 0x0, [], .plain⟩,
   ⟨0x800, 16, 8, .ro, 0, 0x0, [], .plain⟩,
   ⟨0x804, 16, 8, .ro, 0, 0x0, [], .plain⟩,
   ⟨0x900, 16, 8, .ro, 0, 0x0, [], .view⟩,
   ⟨0x904, 16, 8, .ro, 0, 0x0, [], .view⟩]

/-- The registers of the window. -/
def uplRegs : List RegDesc := uplRegs0 ++ uplRegs1

def statRegs0 : List RegDesc :=
  [⟨0x0, 1, 4, .ro, 0, 0x0, [], .view⟩,
   ⟨0x4, 1, 4, .ro, 0, 0x0, [], .view⟩,
   ⟨0x10, 4, 4, .wo, 14, 0x0, [], .order⟩,
   ⟨0xF0, 1, 4, .rw, 12, 0x0, [⟨31, 31, .wo, .any⟩], .clampLog⟩,
   ⟨0xF4, 1, 4, .ro, 0, 0x0, [], .plain⟩,
   ⟨0x8000, 1, 4, .rw, 12, 0xFFF0FFF, [⟨11, 0, .rw, .any⟩, ⟨12, 12, .rw, .any⟩, ⟨27, 16, .rw, .any⟩, ⟨28, 28, .rw, .any⟩], .plain⟩,
   ⟨0x8004, 1, 4, .ro, 0, 0x0, [], .view⟩,
   ⟨0x8080, 1, 4, .ro, 0, 0x0, [], .plain⟩,
   ⟨0x8084, 1, 4, .ro, 0, 0x0, [], .plain⟩,
   ⟨0x8088, 1, 4, .ro, 0, 0x0, [], .plain⟩,
   ⟨0x808C, 1, 4, .ro, 0, 0x0, [], .plain⟩,
   ⟨0x8090, 1, 4, .ro, 0, 0x0, [], .plain⟩,
   ⟨0x8094, 1, 4, .ro, 0, 0x0, [], .plain⟩,
   ⟨0x8098, 1, 4, .ro, 0, 0x0, [], .plain⟩,
   ⟨0x809C, 1, 4, .ro, 0, 0x0, [], .plain⟩,
   ⟨0x10000, 4096, 16, .ro, 0, 0x0, [], .view⟩,
   ⟨0x10004, 4096, 16, .ro, 0, 0x0, [], .view⟩,
   ⟨0x10008, 4096, 16, .ro, 0, 0x0, [], .view⟩,
   ⟨0x1000C, 4096, 16, .ro, 0, 0x0, [], .view⟩,
   ⟨0x100, 1, 4, .ro, 0, 0x4, [], .plain⟩]

def statRegs1 : List RegDesc :=
  [⟨0x104, 1, 4, .ro, 0, 0x0, [], .plain⟩,
   ⟨0x108, 1, 4, .ro, 0, 0x0, [], .view⟩,
   ⟨0x10C, 1, 4, .ro, 0, 0x0, [], .view⟩,
   ⟨0x200, 50, 8, .ro, 0, 0x0, [], .view⟩,
   ⟨0x204, 50, 8, .ro, 0, 0x0, [], .view⟩,
   ⟨0x400, 1, 4, .ro, 0, 0x0, [], .plain⟩,
   ⟨0x404, 1, 4, .ro, 0, 0x0, [], .plain⟩,
   ⟨0x408, 1, 4, .ro, 0, 0x0, [], .plain⟩,
   ⟨0x40C, 1, 4, .ro, 0, 0x0, [], .plain⟩,
   ⟨0x480, 8, 4, .ro, 0, 0x0, [], .view⟩,
   ⟨0x4A0, 8, 4, .ro, 0, 0x0, [], .view⟩]

/-- The registers of the window. -/
def statRegs : List RegDesc := statRegs0 ++ statRegs1

def meadowRegs0 : List RegDesc :=
  [⟨0x0, 1, 4, .ro, 0, 0x0, [], .view⟩,
   ⟨0x4, 1, 4, .ro, 0, 0x0, [], .view⟩,
   ⟨0x10, 4, 4, .wo, 14, 0x0, [], .order⟩,
   ⟨0xF0, 1, 4, .rw, 12, 0x0, [⟨31, 31, .wo, .any⟩], .clampLog⟩,
   ⟨0xF4, 1, 4, .ro, 0, 0x0, [], .plain⟩,
   ⟨0x100, 1, 4, .ro, 0, 0x0, [], .view⟩,
   ⟨0x104, 1, 4, .rw, 12, 0xFFFF, [⟨31, 31, .wo, .any⟩], .paceMin⟩,
   ⟨0x110, 1, 4, .ro, 0, 0x0, [], .plain⟩,
   ⟨0x114, 1, 4, .rw, 12, 0x1, [⟨7, 0, .rw, .any⟩], .plain⟩,
   ⟨0x120, 8, 4, .ro, 0, 0x6, [], .view⟩,
   ⟨0x140, 1, 4, .ro, 0, 0x0, [], .plain⟩,
   ⟨0x180, 1, 4, .ro, 0, 0x0, [], .plain⟩,
   ⟨0x184, 1, 4, .ro, 0, 0x0, [], .plain⟩,
   ⟨0x188, 1, 4, .ro, 0, 0x0, [], .plain⟩,
   ⟨0x18C, 1, 4, .ro, 0, 0x0, [], .plain⟩,
   ⟨0x190, 1, 4, .ro, 0, 0x0, [], .plain⟩,
   ⟨0x194, 1, 4, .ro, 0, 0x0, [], .plain⟩,
   ⟨0x300, 16, 4, .ro, 0, 0x0, [], .view⟩,
   ⟨0x200, 1, 4, .rw, 12, 0x0, [⟨1, 0, .rw, (.enum [0, 1, 2] 0)⟩], .makerMeadow⟩,
   ⟨0x204, 1, 4, .rw, 12, 0x2850701, [⟨1, 0, .rw, (.enum [0, 1, 2] 1)⟩, ⟨6, 4, .rw, .any⟩, ⟨10, 8, .rw, .any⟩, ⟨19, 12, .rw, (.range 1 100)⟩, ⟨27, 20, .rw, (.range 0 99)⟩], .gov⟩]

def meadowRegs1 : List RegDesc :=
  [⟨0x208, 1, 4, .rw, 12, 0x202710, [⟨19, 0, .rw, (.range 1 1000000)⟩, ⟨23, 20, .rw, (.range 1 15)⟩], .makerMeadow⟩,
   ⟨0x20C, 1, 4, .ro, 0, 0x700, [], .view⟩,
   ⟨0x280, 1, 4, .ro, 0, 0x0, [], .plain⟩,
   ⟨0x284, 1, 4, .ro, 0, 0x0, [], .plain⟩,
   ⟨0x288, 1, 4, .ro, 0, 0x0, [], .plain⟩,
   ⟨0x28C, 1, 4, .ro, 0, 0x0, [], .plain⟩,
   ⟨0x290, 1, 4, .ro, 0, 0x0, [], .plain⟩]

/-- The registers of the window. -/
def meadowRegs : List RegDesc := meadowRegs0 ++ meadowRegs1

def seamRegs0 : List RegDesc :=
  [⟨0x0, 1, 4, .ro, 0, 0x0, [], .view⟩,
   ⟨0x4, 1, 4, .ro, 0, 0x0, [], .view⟩,
   ⟨0x10, 4, 4, .wo, 14, 0x0, [], .order⟩,
   ⟨0xF0, 1, 4, .rw, 12, 0x0, [⟨31, 31, .wo, .any⟩], .clampLog⟩,
   ⟨0xF4, 1, 4, .ro, 0, 0x0, [], .plain⟩,
   ⟨0x100, 1, 4, .rw, 12, 0x464, [⟨9, 0, .rw, (.range 1 1000)⟩, ⟨10, 10, .rw, .any⟩], .plain⟩,
   ⟨0x104, 1, 4, .ro, 0, 0x980032, [], .view⟩,
   ⟨0x140, 1, 4, .ro, 0, 0x0, [], .plain⟩,
   ⟨0x144, 1, 4, .ro, 0, 0x0, [], .plain⟩,
   ⟨0x148, 1, 4, .ro, 0, 0x0, [], .plain⟩,
   ⟨0x14C, 1, 4, .ro, 0, 0x0, [], .plain⟩,
   ⟨0x150, 1, 4, .ro, 0, 0x0, [], .plain⟩,
   ⟨0x154, 1, 4, .ro, 0, 0x0, [], .plain⟩,
   ⟨0x158, 1, 4, .ro, 0, 0x0, [], .plain⟩,
   ⟨0x15C, 1, 4, .ro, 0, 0x0, [], .plain⟩,
   ⟨0x160, 1, 4, .ro, 0, 0x0, [], .plain⟩,
   ⟨0x164, 1, 4, .ro, 0, 0x0, [], .plain⟩,
   ⟨0x1000, 203, 4, .ro, 0, 0x0, [], .view⟩,
   ⟨0x2000, 203, 4, .ro, 0, 0x0, [], .plain⟩]

/-- The registers of the window. -/
def seamRegs : List RegDesc := seamRegs0

def padRegs0 : List RegDesc :=
  [⟨0x0, 1, 4, .ro, 0, 0x0, [], .view⟩,
   ⟨0x4, 1, 4, .ro, 0, 0x0, [], .view⟩,
   ⟨0x10, 4, 4, .wo, 14, 0x0, [], .order⟩,
   ⟨0xF0, 1, 4, .rw, 12, 0x0, [⟨31, 31, .wo, .any⟩], .clampLog⟩,
   ⟨0xF4, 1, 4, .ro, 0, 0x0, [], .plain⟩,
   ⟨0x100, 18, 4, .rw, 12, 0x3, [⟨0, 0, .rw, .any⟩, ⟨1, 1, .rw, .any⟩, ⟨2, 2, .ro, .any⟩, ⟨3, 3, .wo, .any⟩], .padGrp⟩,
   ⟨0x200, 64, 4, .rw, 12, 0x0, [⟨0, 0, .rw, .any⟩, ⟨1, 1, .rw, .any⟩, ⟨3, 2, .rw, .any⟩, ⟨6, 4, .rw, (.enum [0, 1, 2, 3, 4] 0)⟩, ⟨8, 7, .rw, (.enum [0, 1, 2] 0)⟩, ⟨9, 9, .ro, .any⟩], .gpio⟩,
   ⟨0x300, 1, 4, .ro, 0, 0x0, [], .view⟩,
   ⟨0x304, 1, 4, .ro, 0, 0x0, [], .view⟩]

/-- The registers of the window. -/
def padRegs : List RegDesc := padRegs0

def coreRegs0 : List RegDesc :=
  [⟨0x100, 1, 4, .ro, 0, 0x0, [], .plain⟩,
   ⟨0x104, 1, 4, .ro, 0, 0x0, [], .plain⟩,
   ⟨0x108, 1, 4, .ro, 0, 0x0, [], .plain⟩,
   ⟨0x10C, 1, 4, .ro, 0, 0x0, [], .plain⟩,
   ⟨0x110, 1, 4, .ro, 0, 0x0, [], .plain⟩,
   ⟨0x114, 1, 4, .ro, 0, 0x0, [], .plain⟩,
   ⟨0x118, 1, 4, .ro, 0, 0x0, [], .plain⟩,
   ⟨0x11C, 1, 4, .ro, 0, 0x0, [], .plain⟩,
   ⟨0x120, 1, 4, .ro, 0, 0x0, [], .plain⟩,
   ⟨0x124, 1, 4, .ro, 0, 0x0, [], .plain⟩,
   ⟨0x128, 1, 4, .ro, 0, 0x0, [], .plain⟩,
   ⟨0x12C, 1, 4, .ro, 0, 0x0, [], .plain⟩,
   ⟨0x130, 1, 4, .ro, 0, 0x0, [], .plain⟩,
   ⟨0x13C, 1, 4, .wo, 12, 0x0, [⟨0, 0, .wo, .any⟩], .coreClear⟩]

/-- The registers of the window. -/
def coreRegs : List RegDesc := coreRegs0

/-- The registers of a kind of block. -/
def blkRegs : Blk → List RegDesc
  | .heath => heathRegs
  | .hedge => hedgeRegs
  | .qeng => qengRegs
  | .qdr => qdrRegs
  | .lane => laneRegs
  | .life => lifeRegs
  | .mantle => mantleRegs
  | .upl => uplRegs
  | .stat => statRegs
  | .meadow => meadowRegs
  | .seam => seamRegs
  | .pad => padRegs

/-- Base, window size and instances of a kind of block (R38). -/
def blkWindow : Blk → Nat × Nat × Nat
  | .heath => (0xE0000000, 0x100000, 1)
  | .hedge => (0xE1000000, 0x100000, 1)
  | .qeng => (0xE2000000, 0x100000, 1)
  | .qdr => (0xE3000000, 0x10000, 4)
  | .lane => (0xE4000000, 0x10000, 144)
  | .life => (0xE6000000, 0x100000, 1)
  | .mantle => (0xE7000000, 0x100000, 1)
  | .upl => (0xE8000000, 0x10000, 4)
  | .stat => (0xE9000000, 0x100000, 1)
  | .meadow => (0xEA000000, 0x10000, 32)
  | .seam => (0xEB000000, 0x10000, 1)
  | .pad => (0xEC000000, 0x10000, 1)

/-- BLOCK_ID.TYPE (R38). -/
def blkType : Blk → Nat
  | .heath => 0x0101 | .hedge => 0x0102 | .qeng => 0x0103 | .qdr => 0x0104 | .lane => 0x0105 | .life => 0x0106
  | .mantle => 0x0107 | .upl => 0x0108 | .stat => 0x0109 | .meadow => 0x010A | .seam => 0x010B | .pad => 0x010C

def allBlks : List Blk := [.heath, .hedge, .qeng, .qdr, .lane, .life, .mantle, .upl, .stat, .meadow, .seam, .pad]

/-- Control address of offset `off` in the window of instance `inst`. -/
def regAddr (b : Blk) (inst off : Nat) : Nat := (blkWindow b).1 + inst * (blkWindow b).2.1 + off

/-- The window a control address lies in: block, instance and offset (R38, R40). -/
def blkOf (addr : Nat) : Option (Blk × Nat × Nat) :=
  allBlks.findSome? fun b =>
    let (base, size, n) := blkWindow b
    if base ≤ addr ∧ addr < base + size * n then some (b, (addr - base) / size, (addr - base) % size) else none

/-- The register of a list that covers an offset, and its index in its array. -/
def findReg (rs : List RegDesc) (off : Nat) : Option (RegDesc × Nat) :=
  rs.findSome? fun d =>
    if d.off ≤ off ∧ (off - d.off) % d.stride = 0 ∧ (off - d.off) / d.stride < d.count then
      some (d, (off - d.off) / d.stride) else none

/-- Reset value of HEDGE_CHAN, HEDGE_PSEL and every other register whose array does not reset alike (R220, R238). -/
def resetException (b : Blk) (d : RegDesc) (k : Nat) : Option Word :=
  match b with
  | .hedge =>
    if d.off = HEDGE_CHAN then
      if k = 1 ∨ k = 7 then some 3 else if k < 8 then some 2 else none
    else if d.off = HEDGE_PSEL then
      if k < 8 then some (BitVec.ofNat 32 (0x60800 + k)) else none
    else none
  | _ => none

/-- What an unlisted register reads as: its reset value (R12 and the register tables). -/
def regReset (addr : Nat) : Word :=
  match blkOf addr with
  | none => 0
  | some (b, _, off) =>
    match findReg (blkRegs b) off with
    | none => 0
    | some (d, k) => (resetException b d k).getD d.reset

end Sys2Proof.Machine
end

