-- ==== Sys2Proof/Machine/Ops.lean ====
section
/-! DEFINITION. The named operations over the state that every family shares: sparse tables, bit fields, registers and
counters, the clock, the parts of the state by number, roles and the clamp log. -/

namespace Sys2Proof.Machine

/-! Sparse tables -/

/-- What a table lists for a key. -/
def tfind {α : Type} : Table α → Nat → Option α
  | [], _ => none
  | (j, v) :: m, k => if k = j then some v else if k < j then none else tfind m k

/-- What a table holds for a key: an unlisted key holds `d`. -/
def tget {α : Type} (d : α) (m : Table α) (k : Nat) : α := (tfind m k).getD d

/-- Insert, replace or remove one entry, keys staying in rising order. -/
def tput {α : Type} (k : Nat) (o : Option α) : Table α → Table α
  | [] => (o.map fun v => (k, v)).toList
  | (j, w) :: m =>
    if k < j then (o.map fun v => (k, v)).toList ++ (j, w) :: m
    else if k = j then (o.map fun v => (k, v)).toList ++ m
    else (j, w) :: tput k o m

/-- Store a value; storing what an unlisted key holds removes the entry. -/
def tset {α : Type} [DecidableEq α] (d : α) (m : Table α) (k : Nat) (v : α) : Table α :=
  tput k (if v = d then none else some v) m

/-- Every entry changed alike; what comes to the default is no entry. -/
def tmap {α : Type} [DecidableEq α] (d : α) (f : α → α) (m : Table α) : Table α :=
  m.filterMap fun p => if f p.2 = d then none else some (p.1, f p.2)

/-- Every key is above `lo`, keys rise strictly, and no entry equals what its key holds unlisted. -/
def twfFrom {α : Type} [DecidableEq α] (d : Nat → α) : Option Nat → Table α → Bool
  | _, [] => true
  | lo, (j, w) :: m => (lo.all fun i => decide (i < j)) && decide (w ≠ d j) && twfFrom d (some j) m

/-- The canonical form of a table whose unlisted keys hold `d key`. -/
def twf {α : Type} [DecidableEq α] (d : Nat → α) (m : Table α) : Bool := twfFrom d none m

/-- The canonical form of a byte memory: unlisted bytes read 0 (log entry 12). -/
def Memory.wf (m : Table Byte) : Bool := twf (fun _ => 0) m

/-- Fold over the numbers below `n`. -/
def foldTo {α : Type} (n : Nat) (f : α → Nat → α) (a : α) : α := (List.range n).foldl f a

/-! Numbers and bit fields -/

abbrev w32 (n : Nat) : Word := BitVec.ofNat 32 n
abbrev d64 (n : Nat) : Dword := BitVec.ofNat 64 n
abbrev b8 (n : Nat) : Byte := BitVec.ofNat 8 n

/-- Field [hi:lo] of a word, as a number. -/
def bits {n : Nat} (w : BitVec n) (hi lo : Nat) : Nat := w.toNat / 2 ^ lo % 2 ^ (hi + 1 - lo)

/-- One bit of a word. -/
def bit {n : Nat} (w : BitVec n) (i : Nat) : Bool := w.getLsbD i

/-- A word with field [hi:lo] replaced. -/
def setBits {n : Nat} (w : BitVec n) (hi lo v : Nat) : BitVec n :=
  BitVec.ofNat n (w.toNat - bits w hi lo * 2 ^ lo + v % 2 ^ (hi + 1 - lo) * 2 ^ lo)

/-- 1 for true. -/
abbrev bnat (b : Bool) : Nat := if b then 1 else 0

/-- The value of an n-bit two's-complement field. -/
def sint (n v : Nat) : Int := if v < 2 ^ (n - 1) then v else (v : Int) - 2 ^ n

/-- Little-endian bytes of a number. -/
def leBytes : (n : Nat) → Nat → List Byte
  | 0, _ => []
  | n + 1, v => b8 v :: leBytes n (v / 256)

/-- The number little-endian bytes spell. -/
def leNat : List Byte → Nat
  | [] => 0
  | b :: bs => b.toNat + 256 * leNat bs

/-- Bytes [off, off + n) of a byte string, short reads padded with 0. -/
def slice (bs : List Byte) (off n : Nat) : List Byte :=
  let r := (bs.drop off).take n
  r ++ List.replicate (n - r.length) 0

/-- The little-endian number in bytes [off, off + n). -/
def leAt (bs : List Byte) (off n : Nat) : Nat := leNat (slice bs off n)

/-- A byte string as 64-bit words, the last padded with 0 (R122). -/
def packWords (bs : List Byte) : List Dword :=
  (List.range ((bs.length + 7) / 8)).map fun i => d64 (leAt bs (8 * i) 8)

/-- Saturation at `hi`. -/
abbrev satTo (hi n : Nat) : Nat := if n < hi then n else hi

/-- Remove the first occurrence of a number. -/
def dropNat (x : Nat) (l : List Nat) : List Nat := l.filter fun y => decide (y ≠ x)

/-- Insert into a rising list without repeats. -/
def insNat (x : Nat) : List Nat → List Nat
  | [] => [x]
  | y :: l => if x < y then x :: y :: l else if x = y then y :: l else y :: insNat x l

/-! Registers and counters -/

/-- What an unlisted register reads as: its reset value, with the grade's ceiling in MEADOW_GOV and MEADOW_POWER (R1, R411). -/
def resetWord (addr : Nat) : Word :=
  let v := regReset addr
  match blkOf addr with
  | some (.meadow, _, off) =>
    if off = MEADOW_GOV ∨ off = MEADOW_POWER then (if Config.xb then setBits v 10 8 6 else v) else v
  | _ => v

/-- The stored register at a control address. -/
def State.regAt (s : State) (addr : Nat) : Word := (tfind s.regs addr).getD (resetWord addr)

def State.setRegAt (s : State) (addr : Nat) (v : Word) : State :=
  { s with regs := tset (resetWord addr) s.regs addr v }

/-- The stored register of a block instance. -/
abbrev State.reg (s : State) (b : Blk) (i off : Nat) : Word := s.regAt (regAddr b i off)

abbrev State.setReg (s : State) (b : Blk) (i off : Nat) (v : Word) : State := s.setRegAt (regAddr b i off) v

/-- Field [hi:lo] of a register. -/
abbrev State.fld (s : State) (b : Blk) (i off hi lo : Nat) : Nat := bits (s.reg b i off) hi lo

abbrev State.setFld (s : State) (b : Blk) (i off hi lo v : Nat) : State :=
  s.setReg b i off (setBits (s.reg b i off) hi lo v)

/-- A register bit. -/
abbrev State.rbit (s : State) (b : Blk) (i off k : Nat) : Bool := bit (s.reg b i off) k

/-- A counter rises by `n` and saturates at 0xFFFF_FFFF. -/
def State.bumpBy (s : State) (b : Blk) (i off n : Nat) : State :=
  s.setReg b i off (w32 (satTo 0xFFFFFFFF ((s.reg b i off).toNat + n)))

abbrev State.bump (s : State) (b : Blk) (i off : Nat) : State := s.bumpBy b i off 1

/-- Counters of a block read 0 again (the CLEAR_COUNTERS orders). -/
def State.clearRegs (s : State) (b : Blk) (i : Nat) (offs : List Nat) : State :=
  offs.foldl (fun s off => s.setReg b i off 0) s

/-- The offsets of `n` registers `stride` bytes apart. -/
def offsFrom (off stride n : Nat) : List Nat := (List.range n).map fun k => off + stride * k

/-- Block, requester and offset of a core-private register (R381). -/
def State.priv' (s : State) (r off : Nat) : Word := tget 0 s.priv (r * 0x1000 + off)

def State.setPriv (s : State) (r off : Nat) (v : Word) : State :=
  { s with priv := tset 0 s.priv (r * 0x1000 + off) v }

def State.bumpPriv (s : State) (r off : Nat) : State :=
  s.setPriv r off (w32 (satTo 0xFFFFFFFF ((s.priv' r off).toNat + 1)))

/-- Every register with an address in [lo, hi) reads its reset value again. -/
def State.clearRange (s : State) (lo hi : Nat) : State :=
  { s with regs := s.regs.filter fun p => decide (p.1 < lo ∨ hi ≤ p.1) }

/-- The registers of a window with offsets in [lo, hi) read their reset values again. -/
abbrev State.clearWin (s : State) (b : Blk) (i lo hi : Nat) : State := s.clearRange (regAddr b i lo) (regAddr b i hi)

/-! Time -/

/-- Town time in nanoseconds, microseconds and whole seconds since the PTP epoch (R545). -/
def State.townNs (s : State) : Nat := s.tb.now / 65536
def State.townUs (s : State) : Nat := s.townNs / 1000
def State.townSec (s : State) : Nat := s.townNs / 1000000000

/-- Town time as T48 (R68). -/
def State.t48 (s : State) : Nat := s.townUs % 2 ^ 48

/-- A T48 value as full microseconds, the value nearest town time `us` (R68). -/
def t48Full (us v : Nat) : Nat :=
  let m := 2 ^ 48
  let base := us / m * m + v % m
  if base + m / 2 < us then base + m
  else if us + m / 2 < base ∧ m ≤ base then base - m
  else base

def State.expandT48 (s : State) (v : Nat) : Nat := t48Full s.townUs v

/-- Town seconds less UTC seconds: HEATH_TB_UTC.OFFSET, a new one from the next whole second (R545). -/
def State.utcOff (s : State) : Int :=
  match s.tb.utcAt with
  | some a => if s.townSec < a then sint 16 s.tb.utcOld else sint 16 (s.fld .heath 0 HEATH_TB_UTC 15 0)
  | none => sint 16 (s.fld .heath 0 HEATH_TB_UTC 15 0)

/-- UTC seconds (R545). -/
def State.utcSec (s : State) : Nat := ((s.townSec : Int) - s.utcOff).toNat

/-- The timebase has been set (R546). -/
def State.timeSet (s : State) : Bool := decide (s.tb.st ≠ 0)

/-- HEATH_TB_STATUS.STATE (R546): 0 UNSET, 1 FREE, 2 LOCKED, 3 HOLDOVER; mode 2 counts as LOCKED for 8 s after a write of
the rate. -/
def State.tbState (s : State) : Nat :=
  if s.tb.st = 0 then 0
  else
    match s.fld .heath 0 HEATH_TB_DISC 1 0 with
    | 1 => s.tb.st
    | 2 => if s.tb.lastRate.any fun a => decide (s.uptime < a + 8000000000) then 2 else 1
    | _ => 1

/-- Engine time reaches `t` nanoseconds of uptime, and the timebase counts the interval at its rate (R545, R546). -/
def State.advance (s : State) (t : Nat) : State :=
  if t ≤ s.uptime then s
  else
    let dt := t - s.uptime
    let d : Int := dt * 65536 + dt * s.tb.rate / 1000000
    { s with uptime := t, tb := { s.tb with now := s.tb.now + d.toNat, run := s.tb.run + d.toNat } }

/-- The timebase's count in whole nanoseconds: what the blocks time by it (R456). -/
def State.tbNs (s : State) : Nat := s.tb.run / 65536

/-- Hedgerow's own clock in ns: whole microseconds of the timebase's count, which stand still in Shelf (R229, R234). -/
def State.hclock (s : State) : Nat := ((s.shelfFrom.getD s.tb.run) - s.shelfTotal) / 65536000 * 1000

/-! Free values -/

/-- Draw the next free value (log entry 7). -/
def State.drawn (s : State) : BitVec 128 := Config.free s.free

def State.draw (s : State) : State := { s with free := s.free + 1 }

/-! Parts of the state by number -/

def State.lane (s : State) (l : Nat) : Lane := tget {} s.lanes l
def State.setLane (s : State) (l : Nat) (x : Lane) : State := { s with lanes := tset {} s.lanes l x }
abbrev State.modLane (s : State) (l : Nat) (f : Lane → Lane) : State := s.setLane l (f (s.lane l))

def State.pulse (s : State) (p : Nat) : Pulse := tget {} s.pulses p
def State.setPulse (s : State) (p : Nat) (x : Pulse) : State := { s with pulses := tset {} s.pulses p x }
def State.crossing (s : State) (a : Nat) : Crossing := tget {} s.crossings a
def State.setCrossing (s : State) (a : Nat) (x : Crossing) : State := { s with crossings := tset {} s.crossings a x }
def State.fifo (s : State) (k : Nat) : List Nat := tget [] s.fifos k
def State.setFifo (s : State) (k : Nat) (x : List Nat) : State := { s with fifos := tset [] s.fifos k x }

def Lane.node (x : Lane) (n : Nat) : Node := tget {} x.nodes n
def Lane.setNode (x : Lane) (n : Nat) (y : Node) : Lane := { x with nodes := tset {} x.nodes n y }
abbrev Lane.modNode (x : Lane) (n : Nat) (f : Node → Node) : Lane := x.setNode n (f (x.node n))
def Lane.wave (x : Lane) (n : Nat) : NodeWave := tget {} x.waves n
def Lane.setWave (x : Lane) (n : Nat) (y : NodeWave) : Lane := { x with waves := tset {} x.waves n y }
def Lane.tag (x : Lane) (k : Nat) : Tag := tget {} x.tags k
def Lane.setTag (x : Lane) (k : Nat) (y : Tag) : Lane := { x with tags := tset {} x.tags k y }

abbrev State.node (s : State) (l n : Nat) : Node := (s.lane l).node n
abbrev State.modNode (s : State) (l n : Nat) (f : Node → Node) : State := s.modLane l fun x => x.modNode n f
abbrev State.wave (s : State) (l n : Nat) : NodeWave := (s.lane l).wave n
abbrev State.setWave (s : State) (l n : Nat) (y : NodeWave) : State := s.modLane l fun x => x.setWave n y

def State.queue (s : State) (q : Nat) : Queue := tget {} s.queues q
def State.setQueue (s : State) (q : Nat) (x : Queue) : State := { s with queues := tset {} s.queues q x }
abbrev State.modQueue (s : State) (q : Nat) (f : Queue → Queue) : State := s.setQueue q (f (s.queue q))

def State.chan (s : State) (c : Nat) : Chan := tget {} s.chans c
def State.setChan (s : State) (c : Nat) (x : Chan) : State := { s with chans := tset {} s.chans c x }
abbrev State.modChan (s : State) (c : Nat) (f : Chan → Chan) : State := s.setChan c (f (s.chan c))

def State.ti (s : State) (k : Nat) : TaskIn := tget {} s.tis k
def State.setTi (s : State) (k : Nat) (x : TaskIn) : State := { s with tis := tset {} s.tis k x }
abbrev State.modTi (s : State) (k : Nat) (f : TaskIn → TaskIn) : State := s.setTi k (f (s.ti k))

def State.core (s : State) (r : Nat) : CoreState := tget {} s.cores r
def State.setCore (s : State) (r : Nat) (x : CoreState) : State := { s with cores := tset {} s.cores r x }
abbrev State.modCore (s : State) (r : Nat) (f : CoreState → CoreState) : State := s.setCore r (f (s.core r))

def State.meadow (s : State) (m : Nat) : Meadow := tget {} s.meadows m
def State.setMeadow (s : State) (m : Nat) (x : Meadow) : State := { s with meadows := tset {} s.meadows m x }
abbrev State.modMeadow (s : State) (m : Nat) (f : Meadow → Meadow) : State := s.setMeadow m (f (s.meadow m))

def State.dom (s : State) (d : Nat) : Domain := tget {} s.doms d
def State.setDom (s : State) (d : Nat) (x : Domain) : State := { s with doms := tset {} s.doms d x }
abbrev State.modDom (s : State) (d : Nat) (f : Domain → Domain) : State := s.setDom d (f (s.dom d))

def State.upl (s : State) (n : Nat) : Uplink := tget {} s.upls n
def State.setUpl (s : State) (n : Nat) (x : Uplink) : State := { s with upls := tset {} s.upls n x }
abbrev State.modUpl (s : State) (n : Nat) (f : Uplink → Uplink) : State := s.setUpl n (f (s.upl n))

def State.fault (s : State) (e : Nat) : FaultEntry := tget {} s.faults e
def State.setFault (s : State) (e : Nat) (x : FaultEntry) : State := { s with faults := tset {} s.faults e x }

abbrev State.modLife (s : State) (f : Life → Life) : State := { s with life := f s.life }
abbrev State.modMantle (s : State) (f : Mantle → Mantle) : State := { s with mantle := f s.mantle }
abbrev State.modBoot (s : State) (f : Boot → Boot) : State := { s with boot := f s.boot }
abbrev State.modTb (s : State) (f : Timebase → Timebase) : State := { s with tb := f s.tb }
abbrev State.modStats (s : State) (f : Stats → Stats) : State := { s with stats := f s.stats }

/-! Statistics banks: 0 to 143 lanes, 144 to 147 channels, 148 to 179 meadows, 180 the uplinks, 181 the Heath, 182 D49 -/

def State.bank (s : State) (k : Nat) : Bank := tget {} s.stats.banks k
def State.setBank (s : State) (k : Nat) (x : Bank) : State :=
  s.modStats fun y => { y with banks := tset {} y.banks k x }

/-- Live counter `i` of bank `k`, in the order of its digest (R308); saturation is applied where it is read. -/
def State.bankAdd (s : State) (k i n : Nat) : State :=
  let x := s.bank k
  s.setBank k { x with live := tset 0 x.live i (tget 0 x.live i + n) }

/-- A live counter that holds a maximum. -/
def State.bankMax (s : State) (k i n : Nat) : State :=
  let x := s.bank k
  s.setBank k { x with live := tset 0 x.live i (max (tget 0 x.live i) n) }

abbrev bankChan (c : Nat) : Nat := 144 + c
abbrev bankMeadow (m : Nat) : Nat := 148 + m
abbrev bankUpl : Nat := 180
abbrev bankHeath : Nat := 181
abbrev bankD49 : Nat := 182

/-! Domains -/

/-- Domain d is on. -/
abbrev State.domOn (s : State) (d : Nat) : Bool := decide ((s.dom d).st = .on)

/-- The lane-group domain of a lane and its number (R34). -/
abbrev laneDom (l : Nat) : Nat := 32 + l / 12

/-- The switched domain a block window's registers live in; none for a block wholly in the Heath (R34, R41). -/
def blkDom : Blk → Nat → Option Nat
  | .lane, l => some (laneDom l)
  | .qdr, n => some (44 + n)
  | .life, _ => some 49
  | .mantle, _ => some 49
  | .upl, _ => some 48
  | _, _ => none

/-- HEATH_DOM_STATE code of a domain (R437). -/
def DomSt.code : DomSt → Nat
  | .off => 0 | .starting => 1 | .on => 2 | .stopping => 3 | .faulted => 4

def LaneSt.code : LaneSt → Nat
  | .off => 0 | .faulted => 1 | .stopped => 2 | .linking => 3 | .enumerating => 4 | .operating => 5

def MeadowSt.code : MeadowSt → Nat
  | .off => 0 | .faulted => 1 | .starting => 2 | .active => 3 | .rest => 4 | .applying => 5 | .stopping => 6

/-- Every meadow is in Rest or Off; a FAULTED domain counts as off (R424). -/
def State.allResting (s : State) : Bool :=
  (List.range 32).all fun m => decide ((s.meadow m).st = .rest ∨ (s.meadow m).st = .off ∨ (s.meadow m).st = .faulted)

/-- HEATH_DEV_STATE.STATE (R423). -/
def State.devCode (s : State) : Nat :=
  match s.dev with
  | .run => 0
  | .doze => 1
  | .descending => 2
  | .dormant => 3
  | .shelf => 4
  | .waking => 5

/-- A channel is available to the queue engine (R142, R170). -/
abbrev State.chanAvail (s : State) (c : Nat) : Bool := decide ((s.chan c).st = 3)

/-- BLOCK_STATE.STATE of a block (R39, R93, R142, R170, R236, R269, R311, R402, R478, R535, R560). -/
def State.blkState (s : State) : Blk → Nat → Nat
  | .heath, _ => s.devCode
  | .hedge, _ => if s.happlying then 2 else if s.hmapped then 1 else 0
  | .qeng, _ => if s.qapplying then 2 else if s.qmapped then 1 else 0
  | .qdr, n => (s.chan n).st
  | .lane, l => (s.lane l).st.code
  | .life, _ => s.life.st
  | .mantle, _ => s.mantle.st
  | .upl, n => (s.upl n).st
  | .stat, _ => if s.timeSet then 1 else 0
  | .meadow, m => (s.meadow m).st.code
  | .seam, _ => bnat (s.seams.any fun p => decide (p.2.st = .severed ∧ p.2.cause = 5))
  | .pad, _ => 0

/-! Roles and the clamp log -/

/-- The device is claimed: some installer slot is active (R519, R538). -/
def State.claimed (s : State) : Bool :=
  (List.range 4).any fun k => decide ((tget {} s.mantle.keys (4 + k)).st = 1)

/-- The debug token in force: none from its NOT_AFTER on (R524). -/
def State.liveToken (s : State) : Option Token := s.mantle.token.filter fun t => decide (s.townSec < t.until_)

/-- The role a requester acts with: 0 none, 1 operator, 2 installer, 3 maker (R2, R3, R512). -/
def State.roleOf (s : State) (req : Nat) : Nat :=
  if req < 256 then (s.core req).role
  else if 400 ≤ req ∧ req ≤ 403 ∨ req = 410 then s.signedRole
  else if req = 404 ∨ req = 405 then 3
  else if req = 411 then
    if s.claimed then (match s.liveToken with | some t => t.role | none => 0) else 2
  else if req = 412 then 2
  else 0

/-- A role is in a set of roles written as a mask (bit 1 operator, bit 2 installer, bit 3 maker). -/
abbrev roleIn (role mask : Nat) : Bool := decide (role ≠ 0) && mask.testBit role

/-- Count an event in a block's CLAMP_LOG (R10, R13, R14). -/
def State.logClamp (s : State) (b : Blk) (i reason off role : Nat) : State :=
  let w := s.reg b i BLOCK_CLAMP_LOG
  let s := s.setReg b i BLOCK_CLAMP_LOG (w32 (satTo 0xFFFF (bits w 15 0 + 1) + 0x10000 * reason))
  s.setReg b i BLOCK_CLAMP_LOG_OFFSET (w32 (off % 0x1000000 + 0x1000000 * role))

end Sys2Proof.Machine
end

