-- ==== Sys2Proof/Machine/Flags.lean ====
section
/-! DEFINITION. Completion codes, checks and the computations that flags and codes rest on: CRCs, square roots, civil
dates. -/

namespace Sys2Proof.Machine

/-! Completion codes (R25) -/

abbrev cDone : Nat := 0x00
abbrev cClamped : Nat := 0x01
abbrev cDenied : Nat := 0x02
abbrev cNotNow : Nat := 0x03
abbrev cBadSignature : Nat := 0x04
abbrev cRollback : Nat := 0x05
abbrev cMismatch : Nat := 0x06
abbrev cJournalFull : Nat := 0x07
abbrev cTimeout : Nat := 0x08
abbrev cAbsent : Nat := 0x09
abbrev cNoNode : Nat := 0x0A
abbrev cPoisoned : Nat := 0x0B
abbrev cFaulted : Nat := 0x0C
abbrev cBadFormat : Nat := 0x0D

/-- DONE, or CLAMPED where a field was corrected (R21). -/
abbrev doneOr (clamped : Bool) : Nat := if clamped then cClamped else cDone

/-! Check codes -/

/-- One step of the reflected CRC-32 of polynomial 0x04C1_1DB7. -/
def crc32Bit (c : Word) : Word := if c.getLsbD 0 then (c >>> 1) ^^^ 0xEDB88320#32 else c >>> 1

def crc32Byte (c : Word) (b : Byte) : Word :=
  let c := c ^^^ b.setWidth 32
  crc32Bit (crc32Bit (crc32Bit (crc32Bit (crc32Bit (crc32Bit (crc32Bit (crc32Bit c)))))))

/-- The IEEE 802.3 frame check sequence of a byte string (R63). -/
def crc32 (bs : List Byte) : Word := ~~~(bs.foldl crc32Byte 0xFFFFFFFF#32)

def crc16Bit (c : BitVec 16) : BitVec 16 := if c.getLsbD 15 then (c <<< 1) ^^^ 0x1021#16 else c <<< 1

def crc16Byte (c : BitVec 16) (b : Byte) : BitVec 16 :=
  let c := c ^^^ (b.setWidth 16 <<< 8)
  crc16Bit (crc16Bit (crc16Bit (crc16Bit (crc16Bit (crc16Bit (crc16Bit (crc16Bit c)))))))

/-- The check code of a module identity: polynomial 0x1021, initial value 0xFFFF, most significant bit first (R246). -/
def crc16 (bs : List Byte) : BitVec 16 := bs.foldl crc16Byte 0xFFFF#16

/-! Numbers -/

/-- Digit by digit square root: `n` digits are left to find. -/
def sqrtFrom : (n r x : Nat) → Nat
  | 0, r, _ => r
  | n + 1, r, x => if (r + 2 ^ n) * (r + 2 ^ n) ≤ x then sqrtFrom n (r + 2 ^ n) x else sqrtFrom n r x

/-- The integer square root of a number below 2^64. -/
def isqrt (x : Nat) : Nat := sqrtFrom 32 0 x

/-- The nearest number of [lo, hi]. -/
abbrev clampTo (lo hi v : Nat) : Nat := if v < lo then lo else if hi < v then hi else v

/-! Civil dates of days since 1970-01-01, a Thursday -/

/-- Monday is 0 (R209). -/
def weekday (day : Int) : Nat := ((day + 3) % 7).toNat

/-- Month of a day, January 0. -/
def monthOf (day : Int) : Nat :=
  let z := (day + 719468).toNat
  let doe := z % 146097
  let yoe := (doe - doe / 1460 + doe / 36524 - doe / 146096) / 365
  let doy := doe - (365 * yoe + yoe / 4 - yoe / 100)
  let mp := (5 * doy + 2) / 153
  if mp < 10 then mp + 2 else mp - 10

end Sys2Proof.Machine
end

