-- ==== Sys2Proof/Machine/Ecc.lean ====
section
/-! DEFINITION. The (72,64) SECDED code of the memories: check bits, syndromes, the poison mark, and words read from a memory that
may hold errors. -/

namespace Sys2Proof.Machine

/-! The code (R157) -/

/-- The column of a bit of a word: a check bit's own, a data bit's by the device's matrix (log entry 144). -/
def eccColumn (j : Nat) : BitVec 8 := if j < 64 then Config.hsiaoColumn j else BitVec.ofNat 8 (2 ^ (j - 64))

/-- The sum of the columns of the bits that are set: 0 for a code word, and for an error pattern what a check of the word finds,
since the code is linear. -/
def syndrome (x : BitVec 72) : BitVec 8 := (List.range 72).foldl (fun a j => if bit x j then a ^^^ eccColumn j else a) 0

/-- The check bits of a data word. -/
def checkBits (w : Dword) : BitVec 8 := syndrome (BitVec.setWidth 72 w)

/-- A data word with its check bits as the memory stores it. -/
def codeWord (w : Dword) : BitVec 72 := BitVec.ofNat 72 (w.toNat + 2 ^ 64 * (checkBits w).toNat)

/-- How many bits are set. -/
def weight (x : BitVec 72) : Nat := ((List.range 72).filter fun j => bit x j).length

/-- The mark of a poisoned word: its correct check bits XOR 0x03 (R158). -/
def eccMark : BitVec 72 := BitVec.ofNat 72 (3 * 2 ^ 64)

/-- What the check of a word finds. -/
inductive Found where
  | good | fixed | bad
  deriving DecidableEq, Repr

/-- The check of a word with error pattern `e`: what it finds, and the errors left in the data it takes for correct. One or two
wrong bits are told apart by every code of odd-weight columns; more are judged by the syndrome. -/
def eccJudge (e : BitVec 72) : Found × BitVec 72 :=
  if e = 0 then (.good, 0)
  else if weight e = 1 then (.fixed, 0)
  else if weight e = 2 then (.bad, e)
  else if syndrome e = 0 then (.good, e)
  else match (List.range 72).find? fun j => decide (eccColumn j = syndrome e) with
    | some j => (.fixed, e ^^^ BitVec.ofNat 72 (2 ^ j))
    | none => (.bad, e)

/-- A word that a read finds uncorrectable, or poisoned. -/
abbrev eccBad (e : BitVec 72) : Bool := decide ((eccJudge e).1 = .bad)

/-- A read of a word: what its check finds, its data after, and the errors it is written back with. A word found uncorrectable is
marked (R137, R158). -/
def eccRead (w : Dword) (e : BitVec 72) : Found × Dword × BitVec 72 :=
  let x := eccJudge e
  (x.1, w ^^^ x.2.setWidth 64, if x.1 = .bad then eccMark else 0)

/-- The word is found uncorrectable now, and was not marked before. -/
abbrev eccFresh (e : BitVec 72) : Bool := eccBad e && decide (e ≠ eccMark)

/-! Memories of bytes with errors by word -/

/-- Bytes of a table memory; an unlisted byte reads 0 (log entry 12). -/
def memBytes (m : Table Byte) (a n : Nat) : List Byte := (List.range n).map fun k => tget 0 m (a + k)

def memWrite (m : Table Byte) (a : Nat) : List Byte → Table Byte
  | [] => m
  | b :: bs => memWrite (tset 0 m a b) (a + 1) bs

/-- Entries with keys in [a, a + n) go: bytes become 0, errors are cleared. -/
def memZero {α : Type} (m : Table α) (a n : Nat) : Table α := m.filter fun p => decide (p.1 < a ∨ a + n ≤ p.1)

/-- A memory after one of its words has been read. -/
structure Checked where
  mem : Table Byte
  errs : Table (BitVec 72)
  found : Found
  fresh : Bool

/-- Word `k`, bytes 8k to 8k + 7, is read: a correction or a mark is written back. -/
def checkWord (m : Table Byte) (errs : Table (BitVec 72)) (k : Nat) : Checked :=
  let e := tget 0 errs k
  if e = 0 then ⟨m, errs, .good, false⟩
  else
    let x := eccRead (d64 (leNat (memBytes m (8 * k) 8))) e
    ⟨memWrite m (8 * k) (leBytes 8 x.2.1.toNat), tset 0 errs k x.2.2, x.1, eccFresh e⟩

/-- A store into word `k` that does not write the whole word: the word is read and its bytes merged, and a word that was
uncorrectable keeps the mark (R158, R362, R390). -/
def mergeWord (m : Table Byte) (errs : Table (BitVec 72)) (a : Nat) (bs : List Byte) : Checked :=
  let x := checkWord m errs (a / 8)
  { x with mem := memWrite x.mem a bs }

/-- One bit of a word flips. -/
def flipBit (errs : Table (BitVec 72)) (k j : Nat) : Table (BitVec 72) :=
  tset 0 errs k (tget 0 errs k ^^^ BitVec.ofNat 72 (2 ^ j))

end Sys2Proof.Machine
end

