-- ==== Sys2Proof/Machine/Hedge.lean ====
section
/-! DEFINITION. Hedgerow: firing producers, merging on channels, delivery to task inputs, phases, latches, selectors,
channel registers and delays; with the governor's latency event, which a delivery to a core's input is. -/

namespace Sys2Proof.Machine

/-! The pace governor's part of a delivery -/

/-- The governor moves to a level: a change under R412 begins unless the level is already there. -/
def State.goLevel (s : State) (m g : Nat) : State :=
  s.modMeadow m fun x =>
    if x.level = g ∧ x.changing = false then { x with goal := g, up := 0, down := 0 }
    else { x with goal := g, changing := true, touched := true, up := 0, down := 0 }

/-- A latency-mode event at a meadow (R413). -/
def State.govEvent (s : State) (m : Nat) : State :=
  if s.fld .meadow m MEADOW_GOV 1 0 = 2 ∧ ((s.meadow m).st = .active ∨ (s.meadow m).st = .rest) then
    let s := s.modMeadow m fun x => { x with lastEvent := some s.uptime }
    s.goLevel m (s.fld .meadow m MEADOW_GOV 10 8)
  else s

/-! Numbers of producers and task inputs (R218, R219) -/

abbrev prodLane (l i : Nat) : Nat := 8 + 13 * l + i
abbrev prodQeng (i : Nat) : Nat := 1880 + i
abbrev prodUpl (n i : Nat) : Nat := 1908 + 66 * n + i
abbrev prodGpio (g : Nat) : Nat := 2172 + g
abbrev prodStep (k : Nat) : Nat := 2236 + k
abbrev prodAlarm (k : Nat) : Nat := 2268 + k
abbrev prodPps : Nat := 2276
abbrev prodMeadow (m : Nat) : Nat := 2277 + m
abbrev prodMantle (i : Nat) : Nat := 2309 + i
abbrev prodLife (i : Nat) : Nat := 2313 + i
abbrev prodBoundary : Nat := 2315
abbrev prodSeq (i : Nat) : Nat := 2316 + i
abbrev prodSw (k : Nat) : Nat := 2320 + k
abbrev prodDelay (k : Nat) : Nat := 2336 + k

abbrev tiCore (r j : Nat) : Nat := 4 * r + j
abbrev tiLane (l i : Nat) : Nat := 1024 + 10 * l + i
abbrev tiWake (k : Nat) : Nat := 2464 + k
abbrev tiHandoff (n i : Nat) : Nat := 2480 + 64 * n + i
abbrev tiGpio (g : Nat) : Nat := 2736 + g
abbrev tiCapture (k : Nat) : Nat := 2800 + k
abbrev tiSampler (i : Nat) : Nat := 2816 + i
abbrev tiPace (m : Nat) : Nat := 2820 + m
abbrev tiMark (k : Nat) : Nat := 2852 + k
abbrev tiUser (k : Nat) : Nat := 2856 + k
abbrev tiDelay (k : Nat) : Nat := 2864 + k

/-- A producer exists and may fire: not in Shelf, and its switched domain is on (R233, R234). -/
def prodLive (s : State) (p : Nat) : Bool :=
  if s.dev = .shelf then false
  else if 8 ≤ p ∧ p < 1880 then s.domOn (laneDom ((p - 8) / 13))
  else if 1896 ≤ p ∧ p < 1908 then s.domOn (44 + p % 4)
  else if 1908 ≤ p ∧ p < 2172 then s.domOn 48
  else if 2309 ≤ p ∧ p < 2315 then s.domOn 49
  else decide (p < 2352)

/-- An event at input `t` would wake its core while the core's meadow goes Off through SLEEP 2, before step 3 of R419
(R454). -/
def cutShort (s : State) (t : Nat) : Bool :=
  (s.meadow (t / 32)).sleepOff && decide ((s.core (t / 4)).st = .waiting) && bit (s.core (t / 4)).cst (4 + t % 4)

/-- The block of a task input can take an event (R233, R378). -/
def tiLive (s : State) (t : Nat) : Bool :=
  if t < 1024 then
    !(s.core (t / 4)).upper &&
      (decide ((s.meadow (t / 32)).st = .active ∨ (s.meadow (t / 32)).st = .rest) || cutShort s t)
  else if t < 2464 then s.domOn (laneDom ((t - 1024) / 10))
  else if 2480 ≤ t ∧ t < 2736 then s.domOn 48
  else if 2852 ≤ t ∧ t < 2856 then s.domOn 49
  else true

abbrev hopLimit (s : State) : Nat := s.fld .hedge 0 HEDGE_CFG 2 0
abbrev psel (s : State) (p : Nat) : Word := s.reg .hedge 0 (HEDGE_PSEL + 4 * p)
abbrev tsel (s : State) (t : Nat) : Word := s.reg .hedge 0 (HEDGE_TSEL + 4 * t)
abbrev hchan (s : State) (c : Nat) : Word := s.reg .hedge 0 (HEDGE_CHAN + 4 * c)

/-- The channel a selector names, if its VALID is 1. -/
def selected (w : Word) : Option Nat := if bit w 11 then some (bits w 10 0) else none

/-- One half of HEDGE_CH_DROP rises and saturates at 0xFFFF (R243). -/
def bumpDrop (s : State) (c : Nat) (lost : Bool) : State :=
  let off := HEDGE_CH_DROP + 4 * c
  let (hi, lo) := if lost then (31, 16) else (15, 0)
  s.setFld .hedge 0 off hi lo (satTo 0xFFFF (s.fld .hedge 0 off hi lo + 1))

/-- A report on HC2 becomes due, if its enable bit of HEDGE_CFG is set (R235). -/
def hc2Report (s : State) (enable : Nat) : State :=
  if s.rbit .hedge 0 HEDGE_CFG enable then { s with hc2Due := true } else s

/-- An event is lost: counted on its channel and globally, and reported (R233, R235). -/
def lose (s : State) (c : Option Nat) : State :=
  let s := match c with | some c => bumpDrop s c true | none => s
  hc2Report ((s.bump .hedge 0 HEDGE_CNT_LOST).bankAdd bankHeath 11 1) 4

/-- An event is suppressed where it is produced (R225, R235). -/
def suppress (s : State) (p : Nat) : State :=
  let s := match selected (psel s p) with | some c => bumpDrop s c false | none => s
  hc2Report ((s.bump .hedge 0 HEDGE_CNT_SUPPRESSED).bankAdd bankHeath 10 1) 3

/-- Delivery of an event to an idle input: busy, with its refractory interval running from now (R229). -/
def deliver (s : State) (t hop : Nat) : State :=
  let refr := bits (tsel s t) 16 12
  let dur := if refr = 0 then 0 else 2 ^ (refr - 1) * 1000
  let s := s.modTi t fun x =>
    { x with phase := .busy, lastHop := hop, refrEnd := s.hclock + dur, due := true,
             at48 := s.t48 }
  if t < 1024 then s.govEvent (t / 32) else s

/-- A latched event is delivered, or the input goes idle (R229). -/
def serveLatch (s : State) (t : Nat) : State :=
  match (s.ti t).latch with
  | some hop => deliver (s.modTi t fun x => { x with latch := none }) t hop
  | none => s.modTi t fun x => { x with phase := .idle, due := false, refrEnd := 0 }

/-- The task of a busy input ends (R229). -/
def tiEnd (s : State) (t : Nat) : State :=
  if (s.ti t).phase = .busy ∧ s.dev ≠ .shelf then
    if s.hclock < (s.ti t).refrEnd then s.modTi t fun x => { x with phase := .refractory, due := false }
    else serveLatch s t
  else s

/-- The block that owns a busy input has taken its event; the task goes on (log entry 28). -/
def tiTaken (s : State) (t : Nat) : State := s.modTi t fun x => { x with due := false }

/-- An event waits at the input to be served by its block; in Shelf none is (R234). -/
def tiDue (s : State) (t : Nat) : Bool := decide ((s.ti t).phase = .busy) && (s.ti t).due && decide (s.dev ≠ .shelf)

/-- The refractory interval of an input ends (R229). -/
def tiRefractoryEnd (s : State) (t : Nat) : State :=
  if (s.ti t).phase = .refractory ∧ s.dev ≠ .shelf ∧ (s.ti t).refrEnd ≤ s.hclock then serveLatch s t else s

/-- An event of channel `c` reaches task input `t` (R229, R233). -/
def arrive (s : State) (c t hop : Nat) : State :=
  if tiLive s t = false then lose s (some c)
  else if (s.ti t).phase = .idle then deliver s t hop
  else
    match (s.ti t).latch with
    | none => s.modTi t fun x => { x with latch := some hop }
    | some h =>
      let s := s.modTi t fun x => { x with latch := some (max h hop), merged := satTo 0xFFFF (x.merged + 1) }
      s.bump .hedge 0 HEDGE_CNT_LATCH_MERGED

/-- A channel carries one event merged from `n` producer events (R215, R228, R230, R243). -/
def carry (s : State) (c n hop : Nat) : State :=
  let s := (s.bump .hedge 0 (HEDGE_CH_EVT + 8 * c)).bump .hedge 0 HEDGE_CNT_EVENTS
  let s := s.bankAdd bankHeath 9 1
  let s := (s.bumpBy .hedge 0 (HEDGE_CH_MRG + 8 * c) (n - 1)).bumpBy .hedge 0 HEDGE_CNT_MERGED (n - 1)
  let w := hchan s c
  if bit w 20 then arrive s c (bits w 19 8) hop else s

/-- What of a round's events passes where they are produced: live producers, hop counts within the limit (R225, R233). -/
def produced (s : State) (evs : List (Nat × Nat)) : List (Nat × Nat) :=
  evs.filter fun e => prodLive s e.1 && decide (e.2 ≤ hopLimit s)

/-- The events of a round that are suppressed where they are produced (R225). -/
def suppressAll (s : State) (evs : List (Nat × Nat)) : State :=
  (evs.filter fun e => prodLive s e.1 && decide (hopLimit s < e.2)).foldl (fun s e => suppress s e.1) s

/-- Coincident events reach their channels: one event for each channel, in the order in which the channels first occur
(R215, R230). -/
def carryAll (s : State) (ok : List (Nat × Nat)) : State :=
  let chs := ok.filterMap fun e => (selected (psel s e.1)).map fun c => (c, e.2)
  let cs := (chs.map fun e => e.1).eraseDups
  cs.foldl (fun s c =>
    let here := chs.filter fun e => decide (e.1 = c)
    carry s c here.length ((here.map fun e => e.2).foldl max 0)) s

/-- Coincident producer events of a round, not yet reporting on HC2: suppression first, then the events. -/
def fireRound (s : State) (evs : List (Nat × Nat)) : State := carryAll (suppressAll s evs) (produced s evs)

/-- HC2 fires when a report is due and 1 ms has passed since it last fired (R235). -/
def hc2Serve (s : State) : State :=
  if s.hc2Due ∧ s.dev ≠ .shelf ∧ (s.hc2At.all fun a => decide (a + 1000000 ≤ s.uptime)) then
    let s := { s with hc2Due := false, hc2At := some s.uptime }
    fireRound (s.bump .hedge 0 HEDGE_CNT_REPORTS) [(2, hopLimit s)]
  else s

/-! Pulse and value crossings (R465, R466) -/

/-- The seam a producer's event crosses to reach Hedgerow: its switched domain's, or the timebase's (R218, R463). -/
def prodSeam (p : Nat) : Option Nat :=
  if 8 ≤ p ∧ p < 1880 then some (laneDom ((p - 8) / 13))
  else if 1896 ≤ p ∧ p < 1908 then some (44 + p % 4)
  else if 1908 ≤ p ∧ p < 2172 then some 48
  else if 2268 ≤ p ∧ p < 2277 then some 202
  else if 2309 ≤ p ∧ p < 2315 then some 49
  else none

/-- How long a crossing's flag and its acknowledge take: the bound of R464 for the seam, in ns (log entry 29). -/
def ackNs (s : State) (k : Nat) : Nat :=
  if k < 50 then 50 else if k < 194 then 160 else if k < 202 then 90 else if s.tb.x32 then 244200 else 340

/-- A pulse is counted as merged at its seam (R465). -/
def bumpMerged (s : State) (k : Nat) : State :=
  (s.setFld .seam 0 (SEAM_CNT + 4 * k) 15 0 (satTo 0xFFFF (s.fld .seam 0 (SEAM_CNT + 4 * k) 15 0 + 1))).bump .seam 0
    SEAM_CNT_MERGED

/-- The acknowledge phase of a crossing runs. -/
abbrev phaseRuns (s : State) (e : Option Nat) : Bool := e.any fun e => decide (s.uptime < e)

/-- A pulse is offered at its seam: it flips the toggle and crosses at once, or joins the pending pulse (R465). -/
def pulseOffer (s : State) (k p hop : Nat) : State × Bool :=
  let x := s.pulse p
  match x.pending with
  | some h => (bumpMerged (s.setPulse p { x with pending := some (max h hop) }) k, false)
  | none =>
    if phaseRuns s x.ackEnd then (s.setPulse p { x with pending := some hop }, false)
    else (s.setPulse p { toggle := !x.toggle, ackEnd := some (s.uptime + ackNs s k), pending := none }, true)

/-- Events pass the seams on their way to Hedgerow: those that do not wait at one. -/
def crossAll (s : State) (evs : List (Nat × Nat)) : State × List (Nat × Nat) :=
  evs.foldl (fun x e =>
    match prodSeam e.1 with
    | none => (x.1, x.2 ++ [e])
    | some k => let y := pulseOffer x.1 k e.1 e.2; (y.1, if y.2 then x.2 ++ [e] else x.2)) (s, [])

/-- Coincident producer events, given as producer and hop count (R215, R230, R235, R465). -/
def State.fire (s : State) (evs : List (Nat × Nat)) : State :=
  let x := crossAll (suppressAll s evs) (produced s evs)
  hc2Serve (carryAll x.1 x.2)

/-- An acknowledge has returned: a pending pulse flips the toggle and crosses (R465). -/
def pulseStep (x : State × List (Nat × Nat)) (q : Nat × Pulse) : State × List (Nat × Nat) :=
  match q.2.ackEnd, q.2.pending with
  | some e, some hop =>
    if e ≤ x.1.uptime then
      (x.1.setPulse q.1 { toggle := !q.2.toggle, ackEnd := some (e + ackNs x.1 ((prodSeam q.1).getD 202)), pending := none },
        x.2 ++ [(q.1, hop)])
    else x
  | some e, none => if e ≤ x.1.uptime then (x.1.setPulse q.1 { q.2 with ackEnd := none }, x.2) else x
  | none, _ => x

/-- The clock of a seam's island stands: values toward it wait (R470). -/
def seamStopped (s : State) (k : Nat) : Bool := (tfind s.seams k).any fun x => decide (x.st = .stopped)

/-- A value crosses at an instant: the take flag is flipped, and its acknowledge returns later (R466). -/
abbrev Crossing.go (x : Crossing) (s : State) (at_ : Nat) : Crossing :=
  { x with take := !x.take, ackEnd := some (at_ + ackNs s x.seam), waiting := false }

/-- A value's acknowledge has returned: a value that waits crosses (R466). -/
def crossingStep (s : State) (q : Nat × Crossing) : State :=
  match q.2.ackEnd with
  | some e =>
    if e ≤ s.uptime then
      s.setCrossing q.1
        (if q.2.waiting ∧ seamStopped s q.2.seam = false then q.2.go s e else { q.2 with ackEnd := none })
    else s
  | none => s

/-- What crosses as acknowledges return. -/
def crossDue (s : State) : State :=
  if s.pulses.isEmpty ∧ s.crossings.isEmpty then s
  else
    let s := s.crossings.foldl crossingStep s
    let x := s.pulses.foldl pulseStep (s, [])
    if x.2.isEmpty then x.1 else hc2Serve (carryAll x.1 x.2)

/-- A value is written that crosses seam `k`: it crosses, or replaces the one that waits (R466). -/
def valueWrite (s : State) (k a : Nat) : State :=
  let x := { s.crossing a with seam := k }
  if x.waiting then s.bump .seam 0 SEAM_CNT_SUPERSEDED
  else if phaseRuns s x.ackEnd || seamStopped s k then s.setCrossing a { x with waiting := true }
  else s.setCrossing a (x.go s s.uptime)

/-- A stopped clock has returned: the values that waited cross (R466, R470). -/
def valuesGo (s : State) (k : Nat) : State :=
  s.crossings.foldl (fun s p => if p.2.seam = k ∧ p.2.waiting = true then s.setCrossing p.1 (p.2.go s s.uptime) else s) s

/-- The values of a severed seam are marked invalid: what was crossing, or waited, crosses no more (R472). -/
def valuesDrop (s : State) (k : Nat) : State :=
  s.crossings.foldl (fun s p => if p.2.seam = k then s.setCrossing p.1 {} else s) s

/-- One original event (R225). -/
abbrev State.fire1 (s : State) (p : Nat) : State := s.fire [(p, 0)]

/-- The island seams of lane l, channel n and uplink n, and the timebase's (R463). -/
abbrev seamLane (l : Nat) : Nat := 50 + l
abbrev seamChan (n : Nat) : Nat := 194 + n
abbrev seamUpl (n : Nat) : Nat := 198 + n

/-- Items discarded at a severed seam (R472). -/
def lostItems (s : State) (k n : Nat) : State :=
  let s := s.setFld .seam 0 (SEAM_CNT + 4 * k) 31 16 (satTo 0xFFFF (s.fld .seam 0 (SEAM_CNT + 4 * k) 31 16 + n))
  s.bumpBy .seam 0 SEAM_CNT_LOST n

/-! FIFOs (R467) -/

/-- The FIFOs of a seam: receive and transmit of a lane, requests and read data of a channel, receive and transmit of an uplink,
and a domain's streams each way. -/
inductive FifoKind where
  | rx | tx | requests | readData | toDomain | toHeath
  deriving DecidableEq, Repr

def FifoKind.code : FifoKind → Nat
  | .rx => 0 | .tx => 1 | .requests => 2 | .readData => 3 | .toDomain => 4 | .toHeath => 5

/-- The depth of a FIFO of seam `k`, in entries. -/
def fifoDepth (k : Nat) : FifoKind → Nat
  | .rx | .tx => if k < 194 then 32 else 512
  | .requests => 16
  | .readData => 32
  | .toDomain | .toHeath => 8

abbrev fifoKey (k : Nat) (f : FifoKind) : Nat := 8 * k + f.code

/-- The entries that stand in a FIFO, oldest first. -/
def fifoHas (s : State) (k : Nat) (f : FifoKind) : List Nat := s.fifo (fifoKey k f)

/-- The flags of its two sides. -/
def fifoFull (s : State) (k : Nat) (f : FifoKind) : Bool := decide (fifoDepth k f ≤ (fifoHas s k f).length)
def fifoEmpty (s : State) (k : Nat) (f : FifoKind) : Bool := (fifoHas s k f).isEmpty

/-- A handshake-side writer puts one entry, or waits at a full FIFO (R468). -/
def fifoPut (s : State) (k : Nat) (f : FifoKind) (e : Nat) : Option State :=
  if fifoFull s k f then none else some (s.setFifo (fifoKey k f) (fifoHas s k f ++ [e]))

/-- The reader takes what stands. -/
def fifoDrain (s : State) (k : Nat) (f : FifoKind) : State := s.setFifo (fifoKey k f) []

/-- An island writer puts the entries of a frame, of which the reader leaves the last `behind` unread: at a full FIFO the rest of
the frame is discarded and its end marked as a coding error (R468). The mark says whether it was. -/
def fifoPour (s : State) (k : Nat) (f : FifoKind) (behind : Nat) : State × Bool :=
  if fifoDepth k f < (fifoHas s k f).length + behind then (s.bump .seam 0 SEAM_CNT_OVERFLOW, true) else (s, false)

/-! Task inputs, selectors and channels -/

/-- A task input's block loses its domain: the latch is lost and a running task ends, into its refractory interval where that runs
on (R229, R233). -/
def tiLost (s : State) (t : Nat) : State :=
  let x := s.ti t
  let runs := decide (x.phase ≠ .idle ∧ s.hclock < x.refrEnd)
  let s := s.setTi t
    { x with phase := if runs then .refractory else .idle, latch := none, due := false, refrEnd := if runs then x.refrEnd else 0 }
  match x.latch with
  | some _ => hc2Serve (lose s (selected (tsel s t)))
  | none => s

/-- CLEAR_PENDING: the latch is emptied without being counted lost (R232). -/
def clearLatch (s : State) (t : Nat) : State := s.modTi t fun x => { x with latch := none }

/-- COUNTERS_CLEAR of Hedgerow (R244). -/
def hedgeClear (s : State) : State :=
  let s := (s.clearWin .hedge 0 0x140 0x160).clearWin .hedge 0 0x10000 0x16000
  (s.tis.map fun p => p.1).foldl (fun s t => s.modTi t fun x => { x with merged := 0 }) s

/-! Selectors and channels -/

/-- A selection of channel `c` by a role below the owner of a guarded channel (R221). -/
def guarded (s : State) (c role : Nat) : Bool :=
  bit (hchan s c) 0 && decide (role < (if bit (hchan s c) 1 then 3 else 2))

/-- Every task input releases the channel it claims by this selector (R216). -/
def unclaim (s : State) (t : Nat) : State :=
  match selected (tsel s t) with
  | some c =>
    if bit (hchan s c) 20 ∧ bits (hchan s c) 19 8 = t then
      s.setReg .hedge 0 (HEDGE_CHAN + 4 * c) (setBits (hchan s c) 20 8 0)
    else s
  | none => s

/-- Task input `t` claims channel `c` (R216). -/
def claimChan (s : State) (t c : Nat) : State :=
  s.setReg .hedge 0 (HEDGE_CHAN + 4 * c) (setBits (hchan s c) 20 8 (0x1000 + t))

/-- A write of a producer selector by a role: the state after it and the reason of its correction, 0 for none
(R220, R221, R241). -/
def pselSet (s : State) (p : Nat) (v : Word) (role : Nat) : State × Nat :=
  if p < 8 then (s, 0)
  else
    let c := bits v 10 0
    let low := bit v 11 && decide (c < 8)
    let gd := bit v 11 && guarded s c role
    let valid := bit v 11 && !low && !gd
    let s := if gd then s.bump .hedge 0 HEDGE_CNT_GUARD_CLAMP else s
    (s.setReg .hedge 0 (HEDGE_PSEL + 4 * p) (w32 (c + 0x800 * bnat valid + 0x20000 * role)),
      if low || gd then 1 else 0)

/-- A write of a task-input selector by a role (R221, R222, R241). -/
def tselSet (s : State) (t : Nat) (v : Word) (role : Nat) : State × Nat :=
  let c := bits v 10 0
  let refr := bits v 16 12
  let gd := bit v 11 && guarded s c role
  let s := unclaim s t
  let clash := bit v 11 && !gd && bit (hchan s c) 20
  let valid := bit v 11 && !gd && !clash
  let s := if gd then s.bump .hedge 0 HEDGE_CNT_GUARD_CLAMP else s
  let s := if clash then s.bump .hedge 0 HEDGE_CNT_CLAIM_CLAMP else s
  let s := if valid then claimChan s t c else s
  (s.setReg .hedge 0 (HEDGE_TSEL + 4 * t)
      (w32 (c + 0x800 * bnat valid + 0x1000 * (if 21 < refr then 21 else refr) + 0x20000 * role)),
    if clash then 2 else if gd || decide (21 < refr) then 1 else 0)

/-- Selections of a guarded channel by roles below its owner become none (R223). -/
def dropGuarded (s : State) (c : Nat) : State :=
  let s := (List.range 2352).foldl (fun s p =>
    if selected (psel s p) = some c ∧ 8 ≤ p ∧ guarded s c (bits (psel s p) 18 17) = true then
      (s.setReg .hedge 0 (HEDGE_PSEL + 4 * p) (setBits (psel s p) 11 11 0)).bump .hedge 0 HEDGE_CNT_GUARD_CLAMP
    else s) s
  (List.range 2880).foldl (fun s t =>
    if selected (tsel s t) = some c ∧ guarded s c (bits (tsel s t) 18 17) = true then
      ((unclaim s t).setReg .hedge 0 (HEDGE_TSEL + 4 * t) (setBits (tsel s t) 11 11 0)).bump .hedge 0
        HEDGE_CNT_GUARD_CLAMP
    else s) s

/-- A write of a channel register by a role at or above its owner (R223, R240). HC0 to HC7 are read only. -/
def chanSet (s : State) (c : Nat) (v : Word) (role : Nat) : State × Nat :=
  if c < 8 then (s, 0)
  else
    let old := hchan s c
    let raise := bit v 1 && decide (role < 3)
    let owner := bit v 1 && !raise
    let s := s.setReg .hedge 0 (HEDGE_CHAN + 4 * c) (setBits old 1 0 (bnat (bit v 0) + 2 * bnat owner))
    let s := if bit v 0 && (!bit old 0 || (owner && !bit old 1)) then dropGuarded s c else s
    (s, if raise then 1 else 0)

/-- A write of HEDGE_SW_FIRE fires every producer of MASK with the hop count in HOP (R227, R239). -/
def swFire (s : State) (v : Word) : State :=
  s.fire (((List.range 16).filter fun k => bit v k).map fun k => (prodSw k, bits v 18 16))

/-! Delays -/

/-- DELAY_INk starts its delay, whose length is read now (R219, R239). -/
def delayStart (s : State) (k : Nat) : State :=
  if tiDue s (tiDelay k) then
    let d := s.fld .hedge 0 (HEDGE_DELAY + 4 * k) 23 0
    let s := { s with delays := tset none s.delays k (some (s.hclock + d * 1000, (s.ti (tiDelay k)).lastHop)) }
    tiTaken s (tiDelay k)
  else s

/-- DELAY_OUTk fires, derived, once its delay is over; the input's task ends in the same round, before the delivery
(R225, R231). -/
def delayEnd (s : State) (k : Nat) : State :=
  match tget none s.delays k with
  | some (e, hop) =>
    if e ≤ s.hclock ∧ s.dev ≠ .shelf then
      let s := { s with delays := tset none s.delays k none }
      (tiEnd s (tiDelay k)).fire [(prodDelay k, hop + 1)]
    else s
  | none => s

end Sys2Proof.Machine
end

