-- ==== Sys2Proof/Machine/Queue.lean ====
section
/-! DEFINITION. The queue engine: classes, storage, pushing, committing, popping, flushing, epochs, the loss of a channel,
completions; and the bulk window of the channels. -/

namespace Sys2Proof.Machine

/-! Numbers, classes and rights -/

/-- The channel a queue resides on (R36). -/
def chanOf (q : Nat) : Nat := if q < 0xD8000 then q / 6144 / 36 else q % 4

/-- The queue of slot `slot` of node `n` on lane `l` (R109). -/
def lanternQ (l n slot : Nat) : Nat := l * 6144 + (n - 1) * 48 + slot

/-- The completion queue of a requester (R19). -/
def compQ (req : Nat) : Nat := 0xD8000 + req

/-- Class and enable of a device queue that the map in force does not name (R110, R113). 0xD_84B7-0xD_84BF are reserved
(R308) and so disabled like the numbers R110 does not list. DEDUCED (log entry 45). -/
def defaultDev (q : Nat) : QCfg :=
  if 0xD8000 ≤ q ∧ q < 0xD8200 then ⟨3, true⟩
  else if 0xD8200 ≤ q ∧ q < 0xD8320 then ⟨4, true⟩
  else if 0xD8400 ≤ q ∧ q < 0xD84B7 then ⟨5, true⟩
  else if q = 0xD8500 ∨ q = 0xD8501 then ⟨6, true⟩
  else if q = 0xD8510 ∨ q = 0xD8511 ∨ q = 0xD8520 then ⟨7, true⟩
  else if 0xD8600 ≤ q ∧ q < 0xD8608 then ⟨8, true⟩
  else if 0xD9000 ≤ q ∧ q < 0xDA000 then ⟨9, true⟩
  else if 0xE0000 ≤ q ∧ q < 0x100000 then ⟨10, false⟩
  else ⟨0, false⟩

/-- The device queue has a use in R110; every other number is always disabled. -/
def listedDev (q : Nat) : Bool := (defaultDev q).en || decide (0xE0000 ≤ q ∧ q < 0x100000)

/-- One byte of the slot map of a lane group (R153). -/
def slotByte (s : State) (g i : Nat) : Nat :=
  bits (s.reg .qeng 0 (QENG_SLOTMAP + 0x40 * g + 4 * (i / 4))) (8 * (i % 4) + 7) (8 * (i % 4))

/-- Class and enable of a queue under the map in force (R110, R113, R142). -/
def qcfgOf (s : State) (q : Nat) : QCfg :=
  if s.qmapped = false ∨ 0x100000 ≤ q then ⟨0, false⟩
  else if q < 0xD8000 then
    let b := slotByte s (q / 6144 / 12) (q % 48)
    ⟨b % 64, b.testBit 6⟩
  else if listedDev q then
    match s.qranges.find? fun r => decide (r.first ≤ q ∧ q < r.first + r.count) with
    | some r => r.cfg
    | none => defaultDev q
  else ⟨0, false⟩

/-- The slot a lane group's map names for a filing source, if any (R114, R153). -/
def slotFor (s : State) (g src : Nat) : Option Nat :=
  let v := slotByte s g (48 + src) % 64
  if v < 48 then some v else none

abbrev clsA (s : State) (c : Nat) : Word := s.reg .qeng 0 (QENG_CLASS_A + 16 * c)
abbrev clsB (s : State) (c : Nat) : Word := s.reg .qeng 0 (QENG_CLASS_B + 16 * c)

def maxDepth (s : State) (q : Nat) : Nat := bits (clsA s (qcfgOf s q).cls) 15 0
def quota (s : State) (q : Nat) : Nat := bits (clsA s (qcfgOf s q).cls) 23 16
def borrow (s : State) (q : Nat) : Nat := bits (clsB s (qcfgOf s q).cls) 19 0
def isRaw (s : State) (q : Nat) : Bool := decide (bits (clsA s (qcfgOf s q).cls) 25 24 = 1)

/-- The idle item of a queue (R122, R127). -/
def idleItem (s : State) (q : Nat) : Dword :=
  if isRaw s q then
    let c := (qcfgOf s q).cls
    d64 ((s.reg .qeng 0 (QENG_CLASS_IDLE_LO + 16 * c)).toNat + 2 ^ 32 * (s.reg .qeng 0 (QENG_CLASS_IDLE_HI + 16 * c)).toNat)
  else 0

/-- A core of this role may push (`push`) or pop and flush under the class of the queue (R111, R152). -/
def mayUse (s : State) (q role : Nat) (push : Bool) : Bool :=
  let b := clsB s (qcfgOf s q).cls
  if role = 2 then bit b (if push then 20 else 21)
  else if role = 3 then bit b (if push then 22 else 23)
  else false

/-- The queue accepts no operation: disabled or BROKEN (R111). -/
def qShut (s : State) (q : Nat) : Bool := !(qcfgOf s q).en || (s.queue q).broken

/-- A core operation is refused (R111). -/
def qRefused (s : State) (req q : Nat) (push : Bool) : Bool :=
  qShut s q || (decide (req < 256) && !mayUse s q (s.roleOf req) push)

/-- The queue's channel is available (R135). -/
abbrev qAvail (s : State) (q : Nat) : Bool := s.chanAvail (chanOf q)

/-! Storage -/

/-- The producer and consumer contexts of a requester (R124, R126). -/
def State.prod (s : State) (r : Nat) : Option ProdCtx := tget none s.prods r
def State.setProd (s : State) (r : Nat) (x : Option ProdCtx) : State := { s with prods := tset none s.prods r x }
def State.cons (s : State) (r : Nat) : Option ConsCtx := tget none s.conss r
def State.setCons (s : State) (r : Nat) (x : Option ConsCtx) : State := { s with conss := tset none s.conss r x }

/-- Packets open to a queue, as the words each holds (R117). -/
def openPkts (s : State) (q : Nat) : List (List QWord) :=
  s.prods.filterMap fun p =>
    match p.2 with
    | some x => if x.q = q ∧ x.swallow = .none then some x.words else none
    | none => none

/-- Words of a queue claimed but unread. -/
def claimedWords (s : State) (q : Nat) : Nat :=
  (s.conss.map fun p => match p.2 with | some x => if x.q = q then x.rest.length else 0 | none => 0).sum

def committedWords (s : State) (q : Nat) : Nat := ((s.queue q).pkts.map List.length).sum

/-- The producer-side word count (R131). -/
def heldWords (s : State) (q : Nat) : Nat :=
  committedWords s q + claimedWords s q + ((openPkts s q).map List.length).sum

/-! The stream of a queue: its stored words in one chain of blocks, 31 words to a block, each open packet in blocks of its own
(R115, R116, log entry 10) -/

/-- The place after the last committed word. -/
def Queue.endAt (x : Queue) : Nat := x.base + (x.pkts.map List.length).sum

/-- The queue holds block `k` of its stream. -/
def Queue.hasBlock (x : Queue) (k : Nat) : Bool := x.blocks.any fun b => decide (b.at_ = k)

/-- The place of the next committed word: after the last one, or in a new block where the last one's has been freed. -/
def Queue.nextAt (x : Queue) : Nat :=
  if x.endAt % 31 = 0 ∨ x.hasBlock (x.endAt / 31) = true then x.endAt else (x.endAt / 31 + 1) * 31

/-- Blocks that `n` words from place `a` on take beyond the one `a` lies in. -/
abbrev newBlocks (a n : Nat) : Nat := (a + n + 30) / 31 - (a + 30) / 31

/-- Blocks of the packets open to a queue. -/
def openBlocks (s : State) (q : Nat) : List Block :=
  s.prods.flatMap fun p => match p.2 with | some x => if x.q = q then x.blocks else [] | none => []

/-- Blocks a queue holds (R117, R118). -/
def heldBlocks (s : State) (q : Nat) : Nat := (s.queue q).blocks.length + (openBlocks s q).length

/-- What the index of a block is in the link word before it: 0xF_FFFF for none (R116). -/
def Queue.idxOf (x : Queue) (k : Nat) : Nat := ((x.blocks.find? fun b => decide (b.at_ = k)).map fun b => b.idx).getD 0xFFFFF

/-- The places at which committed packets begin. -/
def startsFrom (a : Nat) : List Packet → List Nat
  | [] => []
  | p :: ps => a :: startsFrom (a + p.length) ps

/-- The link word of a block of a queue: NEXT, and STARTS for the committed packets (R116). -/
def linkWord (x : Queue) (b : Block) : Dword :=
  d64 (x.idxOf (b.at_ + 1) + (((startsFrom x.base x.pkts).filter fun a => decide (a / 31 = b.at_)).map fun a => 2 ^ (20 + a % 31)).sum)

/-- Requesters with a claim on a queue. -/
def consOf (s : State) (q : Nat) : List Nat :=
  s.conss.filterMap fun p => match p.2 with | some x => if x.q = q then some p.1 else none | none => none

/-- Requesters with a packet open to a queue. -/
def prodsOf (s : State) (q : Nat) : List Nat :=
  s.prods.filterMap fun p =>
    match p.2 with | some x => if x.q = q ∧ x.swallow = .none then some p.1 else none | none => none

/-- Block `k` of a queue's stream holds one of the `n` words from place `a` on. -/
abbrev meets (k a n : Nat) : Bool := decide (0 < n ∧ a < 31 * k + 31 ∧ 31 * k < a + n)

/-- Block `k` of a queue's stream holds a word that has not been read. -/
def liveBlock (s : State) (q k : Nat) : Bool :=
  meets k (s.queue q).base (committedWords s q) ||
    s.conss.any fun p => match p.2 with | some y => decide (y.q = q) && meets k y.at_ y.rest.length | none => false

/-- Blocks of which every word has been read, flushed or rewound return to the free list (R118). -/
def freeBlocks (s : State) (q : Nat) : State :=
  if (s.queue q).pkts = [] ∧ consOf s q = [] then s.modQueue q fun x => { x with base := 0, blocks := [] }
  else
    let kept := (s.queue q).blocks.filter fun b => liveBlock s q b.at_
    s.modQueue q fun x => { x with blocks := kept }

/-- The queues of a channel that hold words. -/
def busyQueues (s : State) (c : Nat) : List Nat :=
  let qs := s.queues.map (fun p => p.1) ++
    s.prods.filterMap (fun p => p.2.map fun x => x.q) ++ s.conss.filterMap (fun p => p.2.map fun x => x.q)
  (qs.filter fun q => decide (chanOf q = c)).eraseDups

/-- Blocks in use on a channel, those no queue reaches included (R118, R139). -/
def usedBlocks (s : State) (c : Nat) : Nat := ((busyQueues s c).map (heldBlocks s)).sum + (s.chan c).leaked.length

/-- Their indices in the pool. -/
def usedIdx (s : State) (c : Nat) : List Nat :=
  (s.queues.flatMap fun p => if chanOf p.1 = c then p.2.blocks.map fun b => b.idx else []) ++
    (s.prods.flatMap fun p => match p.2 with
      | some x => if chanOf x.q = c then x.blocks.map fun b => b.idx else []
      | none => []) ++ (s.chan c).leaked

/-- A free block of a channel's pool beside those in `taken`; which one the allocator takes is not stated (log entry 11). -/
def freeIdx (s : State) (c : Nat) (taken : List Nat) : Nat :=
  let used := usedIdx s c ++ taken
  let n := max 1 (s.chan c).pool
  let from_ := s.drawn.toNat % n
  (((List.range (used.length + 1)).map fun k => (from_ + k) % n).find? fun i => decide (i ∉ used)).getD from_

/-- `n` more blocks are allocated, for blocks `k` on of a stream, after `acc`. They are written whole (R140). -/
def takeBlocks : Nat → State → (c k : Nat) → List Block → State × List Block
  | 0, s, _, _, acc => (s, acc)
  | n + 1, s, c, k, acc => takeBlocks n s.draw c (k + 1) (acc ++ [⟨k, freeIdx s c (acc.map fun b => b.idx), 0⟩])

/-- Blocks of the shared pool that are free (R118). -/
def sharedFree (s : State) (c : Nat) : Nat :=
  (s.chan c).pool - (s.reg .qeng 0 (QENG_POOL_RSV + 4 * c)).toNat
    - ((busyQueues s c).map fun q => heldBlocks s q - quota s q).sum - (s.chan c).leaked.length

/-- Whether a push that takes a queue to `new` blocks is starved (R118). -/
def starvedFor (s : State) (q new : Nat) : Bool :=
  let old := heldBlocks s q
  if new ≤ old ∨ new ≤ quota s q then false
  else if quota s q + borrow s q < new then true
  else decide (sharedFree s (chanOf q) < (new - quota s q) - (old - quota s q))

/-- What a push or commit meets (R111, R118, R135). -/
inductive Room where
  | ok | refused | unavail | full | starved
  deriving DecidableEq, Repr

/-- Packets committed and open to the queue; words for a raw-word class (R118, R127). -/
def depth (s : State) (q : Nat) : Nat :=
  (s.queue q).pkts.length + (if isRaw s q then 0 else (openPkts s q).length)

/-- Most blocks in use at once, for the channel's bank (R308). -/
def noteBlocks (s : State) (c : Nat) : State := s.bankMax (bankChan c) 6 (usedBlocks s c)

/-! Held pushes and STARVED -/

/-- The queue an accepted lane frame is filed in (R114, R123): its header's address and the source's slot. -/
def frameQueue (s : State) (l : Nat) (f : HeldFrame) : Option Nat :=
  let src := match f.type with
    | 1 => some (leAt f.payload 0 1 % 2)
    | 2 => some 2 | 3 => some 3 | 5 => some 4 | 6 => some 5 | 7 => some 6 | 8 => some 7
    | _ => none
  match src with
  | none => none
  | some k => (slotFor s (l / 12) k).map fun slot => lanternQ l (bits f.hdr 15 8) slot

/-- Room for a core's push of one word of the packet it builds in queue `q`. -/
def pushRoom (s : State) (req q : Nat) : Room :=
  if qRefused s req q true then .refused
  else if qAvail s q = false then .unavail
  else if (s.chan (chanOf q)).paused then .full
  else if isRaw s q then
    if maxDepth s q ≤ depth s q then .full
    else if starvedFor s q (heldBlocks s q + newBlocks (s.queue q).nextAt 1) then .starved
    else .ok
  else
    match s.prod req with
    | some x =>
      if starvedFor s q (heldBlocks s q + newBlocks x.words.length 1) then .starved else .ok
    | none =>
      if maxDepth s q ≤ depth s q then .full
      else if starvedFor s q (heldBlocks s q + 1) then .starved
      else .ok

/-- Room for a hardware producer's whole packet of `n` words. -/
def hwRoom (s : State) (q n : Nat) : Room :=
  if qShut s q then .refused
  else if qAvail s q = false then .unavail
  else if (s.chan (chanOf q)).paused then .full
  else if maxDepth s q < depth s q + (if isRaw s q then n else 1) then .full
  else if starvedFor s q (heldBlocks s q + newBlocks (s.queue q).nextAt n) then .starved
  else .ok

/-- A push on the channel is held by starvation (R147): a stalled core, a held completion, or the frame at the head of a lane's
receive buffer. -/
def starvedNow (s : State) (c : Nat) : Bool :=
  (s.cores.any fun p => match p.2.hang with
    | some ⟨.push q _, _, _⟩ => decide (chanOf q = c) && decide (pushRoom s p.1 q = .starved)
    | _ => false)
  || (s.heldComps.any fun h => decide (chanOf (compQ h.req) = c) && decide (hwRoom s (compQ h.req) h.words.length = .starved))
  || (s.lanes.any fun p => match p.2.held.head? with
    | some f => (match frameQueue s p.1 f with
      | some q => decide (chanOf q = c) && decide (hwRoom s q (3 + (f.payload.length + 7) / 8) = .starved)
      | none => false)
    | none => false)
  || (s.lanes.any fun p => p.2.sumsHeld.head?.any fun h => decide (chanOf h.1 = c) && decide (hwRoom s h.1 h.2.length = .starved))
  || (s.upls.any fun p => p.2.rxHeld.any fun h => decide (chanOf h.1 = c) && decide (hwRoom s h.1 h.2.1.length = .starved))
  || s.hwHeld.any fun h => decide (chanOf h.2.1 = c) && decide (hwRoom s h.2.1 h.2.2 = .starved)

/-- STARVED of each channel is looked at again; a change from 0 to 1 fires STARVEDn (R147, R154). -/
def noteStarved (s : State) : State :=
  (List.range 4).foldl (fun s c =>
    let now := starvedNow s c
    let s' := { s with starved := tset false s.starved c now }
    if now && !(tget false s.starved c) && s.domOn (44 + c) then s'.fire1 (prodQeng (24 + c)) else s') s

/-- A push waits for room: counted once (R149, R308). -/
def countWait (s : State) (q : Nat) : State :=
  noteStarved ((s.bump .qeng 0 QENG_CNT_BACKPRESSURE).bankAdd (bankChan (chanOf q)) 3 1)

/-! Committing -/

/-- Enabled watches of a queue fire together (R151, R154). -/
def fireWatches (s : State) (q : Nat) : State :=
  let ks := (List.range 16).filter fun k =>
    s.rbit .qeng 0 (QENG_WATCH + 4 * k) 20 && decide (s.fld .qeng 0 (QENG_WATCH + 4 * k) 19 0 = q)
  if ks.isEmpty then s else s.fire (ks.map fun k => (prodQeng k, 0))

/-- The words of a packet follow those of the queue's stream, in blocks of `own` first and then in new ones (R116). -/
def streamIn (s : State) (q : Nat) (p : Packet) (own : List Block) : State :=
  let a := (s.queue q).nextAt
  let n := newBlocks a p.length
  let kept := ((own.take n).zipIdx ((a + 30) / 31)).map fun b => { b.1 with at_ := b.2 }
  let y := takeBlocks (n - kept.length) s (chanOf q) ((a + 30) / 31 + kept.length) kept
  y.1.modQueue q fun x =>
    { x with base := if x.pkts = [] then a else x.base, pkts := x.pkts ++ [p], blocks := x.blocks ++ y.2 }

/-- A packet, or a raw item, becomes visible (R125). -/
def commitPkt (s : State) (q : Nat) (p : Packet) (own : List Block := []) : State :=
  let s := streamIn s q p own
  let s := noteBlocks (s.bankAdd (bankChan (chanOf q)) 2 1) (chanOf q)
  fireWatches s q

/-- A header word (R120): TYPE, LEN, FLAGS, SOURCE and AUX. -/
def mkHeader (type len flags source aux : Nat) : Dword :=
  d64 (type % 256 + len % 256 * 2 ^ 8 + flags % 256 * 2 ^ 16 + source % 512 * 2 ^ 24 + aux % 2 ^ 24 * 2 ^ 40)

/-- A hardware producer's packet is stored whole; in a raw-word class each word is an item. -/
def hwStore (s : State) (q : Nat) (ws : List Dword) : State :=
  let s := s.bankAdd (bankChan (chanOf q)) 0 ws.length
  if isRaw s q then ws.foldl (fun s w => commitPkt s q [⟨w, 0⟩]) s
  else commitPkt s q (ws.map fun w => ⟨w, 0⟩)

/-- A hardware producer offers a packet: stored if there is room, a refusal counted (R111, R125). -/
def hwTry (s : State) (q : Nat) (ws : List Dword) : State × Room :=
  match hwRoom s q ws.length with
  | .ok => (hwStore s q ws, .ok)
  | .refused => (s.bump .qeng 0 QENG_CNT_REFUSED, .refused)
  | r => (s, r)

/-- Producer `k` offers a packet and, where there is no room, waits with it: counted once for a packet, which the producer, the
queue and the number of words tell (R149). -/
def hwOffer (s : State) (k q : Nat) (ws : List Dword) : State × Room :=
  let others := s.hwHeld.filter fun h => decide (h.1 ≠ k)
  match hwTry s q ws with
  | (s, .ok) => ({ s with hwHeld := others }, .ok)
  | (s, .refused) => ({ s with hwHeld := others }, .refused)
  | (s, r) =>
    if s.hwHeld.any fun h => decide (h = (k, q, ws.length)) then (s, r)
    else (countWait { s with hwHeld := others ++ [(k, q, ws.length)] } q, r)

/-! Rewinding, claiming and popping -/

/-- DROPS of a queue rises and saturates (R117). -/
def addDrops (s : State) (q n : Nat) : State :=
  s.modQueue q fun x => { x with drops := w32 (satTo 0xFFFFFFFF (x.drops.toNat + n)) }

/-- A requester's open packet is rewound, and later pushes of it end as `sw` says (R134, R135, R149). -/
def rewindOpen (s : State) (req : Nat) (sw : Swallow) : State :=
  match s.prod req with
  | some x =>
    if x.swallow = .none then
      let s := s.setProd req (some { x with words := [], blocks := [], swallow := sw })
      (s.bump .qeng 0 QENG_CNT_REWIND).bankAdd (bankChan (chanOf x.q)) 4 1
    else s
  | none => s

/-- The producer context of a requester is empty again. -/
def closeProd (s : State) (req : Nat) : State := s.setProd req none

/-- A half of QENG_ORPHAN_r rises and saturates (R150). -/
def bumpOrphan (s : State) (r : Nat) (get : Bool) : State :=
  let (hi, lo) := if get then (31, 16) else (15, 0)
  s.setFld .qeng 0 (QENG_ORPHAN + 4 * r) hi lo (satTo 0xFFFF (s.fld .qeng 0 (QENG_ORPHAN + 4 * r) hi lo + 1))

/-- The rest of a requester's claimed packet is discarded (R126, R135). -/
def dropClaim (s : State) (req : Nat) : State :=
  match s.cons req with
  | some x => freeBlocks (addDrops (s.setCons req none) x.q x.rest.length) x.q
  | none => s

/-- QSEL's open packet is rewound and counted, whichever queue it is for (R128). A packet that was flushed or rewound before and whose
pushes are only being swallowed counts as open up to its QEND: DESIGN CHOICE, log entry 172. -/
def orphanOpen (s : State) (req : Nat) : State :=
  match s.prod req with
  | some _ => bumpOrphan (closeProd (rewindOpen s req .rewound) req) req false
  | none => s

/-- QSEL of queue `q`: the open packet is rewound, and a claim on another queue is abandoned, each counted (R126, R128). -/
def qSelect (s : State) (req q : Nat) : State :=
  let s := orphanOpen s req
  match s.cons req with
  | some x => if x.q = q then s else bumpOrphan (dropClaim s req) req true
  | none => s

/-- Both contexts of a requester end, as on a QSEL of a queue that is neither's. -/
def qLeave (s : State) (req : Nat) : State :=
  let s := orphanOpen s req
  match s.cons req with
  | some _ => bumpOrphan (dropClaim s req) req true
  | none => s

/-- A push that is swallowed up to its QEND (R132, R134, R143). -/
def swallowPush (s : State) (x : ProdCtx) : State :=
  let s := addDrops s x.q 1
  match x.swallow with
  | .flushed => s.bump .qeng 0 QENG_CNT_FLUSH_WORDS
  | .epoch => s.bump .qeng 0 QENG_CNT_EPOCH_DROP
  | _ => s

/-- A push of one word to queue `q`: the state after it, or none when it waits for room (R111, R118, R124, R127). -/
def qPush (s : State) (req q : Nat) (w : Dword) : Option State :=
  let store := fun (s : State) (x : ProdCtx) =>
    let y := takeBlocks (newBlocks x.words.length 1) s (chanOf q) ((x.words.length + 30) / 31) x.blocks
    let s := y.1.setProd req (some { x with words := x.words ++ [⟨w, 0⟩], blocks := y.2 })
    some (noteBlocks (s.bankAdd (bankChan (chanOf q)) 0 1) (chanOf q))
  match s.prod req with
  | some x =>
    if x.swallow ≠ .none then some (swallowPush s x)
    else
      match pushRoom s req q with
      | .refused => some (rewindOpen (s.bump .qeng 0 QENG_CNT_REFUSED) req .rewound)
      | .ok =>
        if 255 < x.words.length then
          some (addDrops (rewindOpen (s.bump .qeng 0 QENG_CNT_OVERLENGTH) req .rewound) q 1)
        else store s x
      | _ => if 255 < x.words.length then
          some (addDrops (rewindOpen (s.bump .qeng 0 QENG_CNT_OVERLENGTH) req .rewound) q 1) else none
  | none =>
    match pushRoom s req q with
    | .refused => some (s.bump .qeng 0 QENG_CNT_REFUSED)
    | .ok =>
      if isRaw s q then some (commitPkt (s.bankAdd (bankChan (chanOf q)) 0 1) q [⟨w, 0⟩])
      else store s ⟨q, [], .none, []⟩
    | _ => none

/-- The header as the engine writes it at a core's commit (R124). -/
def sealHeader (req len : Nat) (h : Dword) : Dword :=
  let t := bits h 7 0
  let t := if 0x40 ≤ t ∧ t ≤ 0xEF then t else 0x40
  mkHeader t len (bits h 23 16) req (bits h 63 40)

/-- QEND: the state and what gD receives (R124, R127, R128, R132). -/
def qEnd (s : State) (req q : Nat) : State × Nat :=
  match s.prod req with
  | none => (s, if isRaw s q then 0 else 2)
  | some x =>
    let s := closeProd s req
    match x.swallow with
    | .flushed => (s, 1)
    | .epoch => (s, 2)
    | .rewound => (s, 2)
    | .none =>
      match x.words with
      | [] => (s, 2)
      | h :: ws =>
        let t := bits h.w 7 0
        let s := if 0x40 ≤ t ∧ t ≤ 0xEF then s else s.bump .qeng 0 QENG_CNT_TYPE_CLAMP
        (commitPkt s x.q ({ h with w := sealHeader req ws.length h.w } :: ws) x.blocks, 0)

/-- QRWD: the open packet is discarded (R128, R132). -/
def qRewind (s : State) (req : Nat) : State := closeProd (rewindOpen s req .rewound) req

/-! Errors of words (R137 to R140) -/

/-- A word of queue `q` is marked poisoned now: counted and reported (R137, R154, R286). -/
def markWord (s : State) (q : Nat) : State :=
  let s := s.bump .qeng 0 (QENG_CNT_ECC_UNCORR + 4 * chanOf q)
  { s with faultDue := s.faultDue ++ [(0x30, chanOf q, d64 q)] }.fire1 (prodQeng (20 + chanOf q))

/-- A word of queue `q` with errors `e` has been read: a correction and a new mark are counted (R137). -/
def noteEcc (s : State) (q : Nat) (e : BitVec 72) : State :=
  match (eccJudge e).1 with
  | .good => s
  | .fixed =>
    let s := s.modQueue q fun x => { x with corrected := w32 (satTo 0xFFFFFFFF (x.corrected.toNat + 1)) }
    (s.bump .qeng 0 (QENG_CNT_ECC_CORR + 4 * chanOf q)).bankAdd (bankChan (chanOf q)) 5 1
  | .bad => if e = eccMark then s else markWord s q

/-- A read of the link word of block `k` of a queue's stream. What an uncorrectable one does beside its mark is not stated: the
chain goes on. DESIGN CHOICE, log entry 144. -/
def readLink (s : State) (q k : Nat) : State :=
  let es := ((s.queue q).blocks.filter fun b => decide (b.at_ = k ∧ b.link ≠ 0)).map fun b => b.link
  let s := es.foldl (fun s e => noteEcc s q e) s
  s.modQueue q fun x =>
    { x with blocks := x.blocks.map fun b => if b.at_ = k then { b with link := (eccRead 0 b.link).2.2 } else b }

/-- A queue's descriptor word was found uncorrectable: its open packets are rewound, its claimed packets discarded, and the blocks it
held are lost up to the next POOL_AUDIT (R139). -/
def breakQueue (s : State) (q : Nat) : State :=
  let lost := ((s.queue q).blocks ++ openBlocks s q).map fun b => b.idx
  let s := (prodsOf s q).foldl (fun s r => rewindOpen s r .rewound) s
  let s := (consOf s q).foldl dropClaim s
  let s := s.modQueue q fun x => { x with pkts := [], base := 0, blocks := [], broken := true }
  let s := s.modChan (chanOf q) fun x => { x with leaked := x.leaked ++ lost }
  { s.bump .qeng 0 QENG_CNT_BROKEN with faultDue := s.faultDue ++ [(0x32, chanOf q, d64 q)] }

/-- A read of the descriptor of queue `q` (R137, R139). -/
def readDesc (s : State) (q : Nat) : State :=
  let es := (s.queue q).desc
  if es = [] then s
  else
    let s := es.foldl (fun s e => noteEcc s q e.2) s
    let left := (es.filter fun e => eccBad e.2).map fun e => (e.1, eccMark)
    let s := s.modQueue q fun x => { x with desc := left }
    if left ≠ [] ∧ (s.queue q).broken = false then breakQueue s q else s

/-- The word's data as a read gives it, and whether the read finds it poisoned. -/
abbrev QWord.read (w : QWord) : Dword := (eccRead w.w w.err).2.1
abbrev QWord.poison (w : QWord) : Bool := eccBad w.err

/-- The word as a read leaves it. -/
def QWord.scrubbed (w : QWord) : QWord := let x := eccRead w.w w.err; ⟨x.2.1, x.2.2⟩

/-- What a pop gives. -/
inductive Popped where
  | item (w : Dword)
  /-- A poisoned word: the queue and the word's index in its packet (R138). -/
  | poisoned (q idx : Nat)
  deriving DecidableEq, Repr

/-- One word leaves queue `q` for a consumer, from place `at_` of its stream. The link word of a block is read with its last
word. -/
def popWord (s : State) (q : Nat) (w : QWord) (idx at_ : Nat) : State × Popped :=
  let s := noteEcc (s.bankAdd (bankChan (chanOf q)) 1 1) q w.err
  let s := freeBlocks (if at_ % 31 = 30 then readLink s q (at_ / 31) else s) q
  if w.poison then (s.bump .qeng 0 QENG_CNT_POISON_POPS, .poisoned q idx) else (s, .item w.read)

/-- A consumer keeps the unread words of its packet, if any. -/
def keepClaim (s : State) (req q : Nat) (rest : List QWord) (idx at_ : Nat) : State :=
  s.setCons req (if rest = [] then none else some ⟨q, rest, idx, at_⟩)

/-- The oldest packet of a queue leaves it for a consumer. -/
def dropHead (s : State) (q : Nat) (p : Packet) (ps : List Packet) : State :=
  s.modQueue q fun x => { x with pkts := ps, base := x.base + p.length }

/-- A pop of one word (R122, R126, R135, R138). -/
def qPop (s : State) (req q : Nat) : State × Popped :=
  if qAvail s q = false then (s.bump .qeng 0 QENG_CNT_ABSENT, .item 0xFF)
  else if qRefused s req q false then (s.bump .qeng 0 QENG_CNT_REFUSED, .item 0xFE)
  else
    let s := match s.cons req with
      | some x => if x.q = q then s else bumpOrphan (dropClaim s req) req true
      | none => s
    match s.cons req with
    | some ⟨_, w :: rest, idx, a⟩ => popWord (keepClaim s req q rest (idx + 1) (a + 1)) q w idx a
    | _ =>
      match (s.queue q).pkts with
      | [] => (s, .item (idleItem s q))
      | [] :: ps => (dropHead s q [] ps, .item (idleItem s q))
      | (h :: ws) :: ps =>
        let a := (s.queue q).base
        popWord (keepClaim (dropHead s q (h :: ws) ps) req q ws 1 (a + 1)) q h 0 a

/-- A core's pop first reads the descriptor, which may break the queue (R139). -/
def qGet (s : State) (req q : Nat) : State × Popped := qPop (if qAvail s q then readDesc s q else s) req q

/-- The consumer-side count (R131). -/
def qCount (s : State) (q : Nat) : Nat := if qShut s q || !qAvail s q then 0 else (s.queue q).pkts.length

/-- The producer-side count (R131). -/
def qCountWords (s : State) (q : Nat) : Nat := if qShut s q || !qAvail s q then 0xFFFFFFFF else heldWords s q

/-! Flushes, epochs and resets -/

/-- Committed and claimed packets are discarded and counted; the number of packets (R132). -/
def flushStored (s : State) (q : Nat) : State × Nat :=
  let cs := consOf s q
  let n := (s.queue q).pkts.length + cs.length
  let w := committedWords s q + claimedWords s q
  let s := cs.foldl (fun s r => s.setCons r none) s
  let s := s.modQueue q fun x => { x with pkts := [], base := 0, blocks := [] }
  let s := addDrops s q w
  ((s.bumpBy .qeng 0 QENG_CNT_FLUSH_PKT n).bumpBy .qeng 0 QENG_CNT_FLUSH_WORDS w, n)

/-- A flush (R132): the state and the packets discarded, open ones included. -/
def qFlush (s : State) (q : Nat) : State × Nat :=
  let ps := prodsOf s q
  let w := ((openPkts s q).map List.length).sum
  let (s, n) := flushStored s q
  let s := ps.foldl (fun s r =>
    match s.prod r with
    | some x => s.setProd r (some { x with words := [], blocks := [], swallow := .flushed })
    | none => s) s
  let s := addDrops s q w
  ((s.bumpBy .qeng 0 QENG_CNT_FLUSH_PKT ps.length).bumpBy .qeng 0 QENG_CNT_FLUSH_WORDS w, n + ps.length)

/-- A change of epoch: open packets are rewound (R134). -/
def bumpEpoch (s : State) (q : Nat) : State :=
  let s := s.modQueue q fun x => { x with epoch := x.epoch + 1 }
  (prodsOf s q).foldl (fun s r => rewindOpen s r .epoch) s

/-- QUEUE_RESET: the state and the packets discarded; the descriptor is written whole (R143). -/
def qReset (s : State) (q : Nat) : State × Nat :=
  let np := (prodsOf s q).length
  let s := bumpEpoch s q
  let (s, n) := flushStored s q
  (s.modQueue q fun x => { x with broken := false, desc := [] }, n + np)

/-- Block and word index of place `a` of a queue's stream (R117). -/
def Queue.placeOf (x : Queue) (a : Nat) : Nat := x.idxOf (a / 31) % 2 ^ 20 + a % 31 * 2 ^ 20

/-- HEAD_BLOCK and HEAD_WORD of a queue, then TAIL_BLOCK and TAIL_WORD (R117): of the oldest unclaimed word, and of the last
committed word while its block is held; no value is stated where there is none (log entry 11). -/
def headPlace (x : Queue) (q : Nat) : Nat := if x.pkts = [] then (Config.noPlace q false).toNat else x.placeOf x.base
def tailPlace (x : Queue) (q : Nat) : Nat :=
  if x.endAt = 0 ∨ x.hasBlock ((x.endAt - 1) / 31) = false then (Config.noPlace q true).toNat else x.placeOf (x.endAt - 1)

/-- Descriptor bytes 0 to 31 of a queue as four words (R117). -/
def descriptor (s : State) (q : Nat) : List Dword :=
  let x := s.queue q
  let cfg := qcfgOf s q
  let w0 := headPlace x q + 2 ^ 25 * bnat cfg.en + 2 ^ 26 * bnat x.broken + 2 ^ 32 * tailPlace x q
  let w1 := x.epoch.toNat + 2 ^ 8 * (s.chan (chanOf q)).gen.toNat + 2 ^ 16 * cfg.cls
    + 2 ^ 32 * satTo 0xFFFF x.pkts.length + 2 ^ 48 * satTo 0x1FF (openPkts s q).length
  let w2 := satTo 0xFFFFFF (heldWords s q) + 2 ^ 32 * satTo 0xFFFFF (heldBlocks s q)
  let w3 := x.drops.toNat + 2 ^ 32 * x.corrected.toNat
  [d64 w0, d64 w1, d64 w2, d64 w3]

/-! The patrol scrubber (R140) -/

/-- SCRUB of a queue's class is patrol (R112, R152). -/
def patrolled (s : State) (q : Nat) : Bool := decide (bits (clsA s (qcfgOf s q).cls) 27 26 = 1)

/-- Words a queue holds: committed, claimed but unread, open. -/
def queueWords (s : State) (q : Nat) : List QWord :=
  (s.queue q).pkts.flatten ++
    (s.conss.flatMap fun p => match p.2 with | some x => if x.q = q then x.rest else [] | none => []) ++ (openPkts s q).flatten

/-- Every word and link word a queue holds is read, corrected or marked. -/
def scrubBlocks (s : State) (q : Nat) : State :=
  let s := ((queueWords s q).map fun w => w.err).foldl (fun s e => noteEcc s q e) s
  let s := (((s.queue q).blocks ++ openBlocks s q).map fun b => b.link).foldl (fun s e => noteEcc s q e) s
  let fresh := fun (b : Block) => { b with link := (eccRead 0 b.link).2.2 }
  let s := s.modQueue q fun x => { x with pkts := x.pkts.map fun p => p.map QWord.scrubbed, blocks := x.blocks.map fresh }
  let s := (consOf s q).foldl (fun s r => s.setCons r ((s.cons r).map fun x => { x with rest := x.rest.map QWord.scrubbed })) s
  (prodsOf s q).foldl (fun s r => s.setProd r ((s.prod r).map fun x =>
    { x with words := x.words.map QWord.scrubbed, blocks := x.blocks.map fresh })) s

/-- The scrubber visits a queue: its descriptor, and its blocks where its class is patrolled. -/
def scrubQueue (s : State) (q : Nat) : State :=
  let s := readDesc s q
  if patrolled s q then scrubBlocks s q else s

/-! Channels -/

/-- A change of QENG_CHAN.STATE (R147, R154). -/
def setChanSt (s : State) (c st : Nat) : State :=
  if (s.chan c).st = st then s
  else (s.modChan c fun x => { x with st := st }).fire1 (prodQeng (16 + c))

/-- What open and claimed packets of a channel's queues meet when it becomes unavailable (R135). -/
def chanLost (s : State) (c : Nat) : State :=
  let ps := s.prods.filterMap fun p =>
    match p.2 with | some x => if chanOf x.q = c ∧ x.swallow = .none then some p.1 else none | none => none
  let cs := s.conss.filterMap fun p =>
    match p.2 with | some x => if chanOf x.q = c then some p.1 else none | none => none
  let s := ps.foldl (fun s r => rewindOpen s r .rewound) s
  let s := cs.foldl dropClaim s
  s.bumpBy .qeng 0 QENG_CNT_ABSENT (ps.length + cs.length)

/-- Every descriptor of a channel is initialised to empty, and its generation rises (R136). -/
def chanInit (s : State) (c : Nat) : State :=
  let s := { s with queues := s.queues.filter fun p => decide (chanOf p.1 ≠ c) }
  s.modChan c fun x => { x with gen := x.gen + 1, leaked := [], retained := false }

/-! Completions -/

/-- The requester number a block's order port puts in SOURCE, where it has one (R42). -/
def portSource : Blk → Nat → Nat → Option Nat
  | .lane, l, _ => some (256 + l)
  | .upl, n, _ => some (400 + n)
  | .mantle, _, op => some (if op < 0x10 then 405 else 404)
  | .life, _, _ => some 406
  | .stat, _, _ => some 407
  | .hedge, _, _ => some 412
  | .heath, _, op => if 0x10 ≤ op ∧ op < 0x20 then some 409 else if 0x30 ≤ op ∧ op < 0x40 then some 408 else none
  | _, _, _ => none

/-- A completion is committed, discarded by a queue that refuses it, or held behind those already held; CLAMPED is counted
(R20, R21, R24, log entries 9 and 30). BLOCK_STATE.STATE of the completion is the state after the order's effect, for an order that
changes it itself: DESIGN CHOICE, log entry 161. -/
def complete (s : State) (b : Blk) (i op : Nat) (d : Desc) (code result : Nat) (extra : List Dword) : State :=
  let st := s.blkState b i
  let s := { s with orders := s.orders.filter fun o => decide (¬(o.blk = b ∧ o.inst = i ∧ o.d.req = d.req)) }
  let s := if code = 1 then s.logClamp b i 1 0x1C (s.roleOf d.req) else s
  let w0 := d64 (code % 256 + 2 ^ 8 * (st % 256) + 2 ^ 16 * d.tag.toNat + 2 ^ 32 * (op % 256) + 2 ^ 40 * (result % 2 ^ 24))
  let (src, s) := match portSource b i op with
    | some n => (n, s)
    | none => (bits s.drawn 8 0, s.draw)
  let ws := mkHeader 0x10 (1 + extra.length) 0 src 0 :: w0 :: extra
  if s.heldComps.any fun h => decide (h.blk = b ∧ h.inst = i ∧ h.req = d.req) then
    { s with heldComps := s.heldComps ++ [⟨b, i, d.req, ws, false⟩] }
  else
    match hwTry s (compQ d.req) ws with
    | (s, .ok) => s
    | (s, .refused) => s
    | (s, _) => countWait { s with heldComps := s.heldComps ++ [⟨b, i, d.req, ws, true⟩] } (compQ d.req)

/-- Held completions of a requester are committed as far as its queue takes them (R24). -/
def commitHeld (s : State) (req : Nat) : State :=
  let mine := s.heldComps.filter fun h => decide (h.req = req)
  let rest := s.heldComps.filter fun h => decide (h.req ≠ req)
  let (s, left) := mine.foldl (fun (p : State × List HeldCompletion) h =>
    if p.2 = [] then
      match hwTry p.1 (compQ req) h.words with
      | (s, .ok) => (s, [])
      | (s, .refused) => (s, [])
      | (s, _) => if h.counted then (s, [h]) else (countWait s (compQ req), [{ h with counted := true }])
    else (p.1, p.2 ++ [h])) ({ s with heldComps := [] }, [])
  noteStarved { s with heldComps := rest ++ left }

/-- A completion of this block instance is held for the requester, which stalls its next order there (R24). -/
def compHeld (s : State) (b : Blk) (i req : Nat) : Bool :=
  s.heldComps.any fun h => decide (h.blk = b ∧ h.inst = i ∧ h.req = req)

/-! The bulk window -/

/-- Usable bytes of a geometry (R156). -/
def usable (geom : Word) : Nat :=
  match bits geom 1 0, bit geom 2 with
  | 1, false => 16773120 | 2, false => 33546240 | 1, true => 33550336 | 2, true => 67100672
  | _, _ => 0

/-- The largest pool of a geometry, in blocks (R156). -/
def largestPool (geom : Word) : Nat :=
  match bits geom 1 0, bit geom 2 with
  | 1, false => 32752 | 2, false => 98272 | 1, true => 98288 | 2, true => 196608
  | _, _ => 0

/-- The geometry a start would take, and whether it is fitted (R156, R162). -/
def fitted (s : State) (c : Nat) : Bool := decide (s.fld .qdr c QDR_GEOM 1 0 ≠ 0)

/-- Bytes of a channel's bulk part (R159). -/
def bulkPart (geom : Word) (pool : Nat) : Nat := usable geom - 0x800000 - pool * 256

/-- The four bases follow the four sizes (R160, R162). -/
def rebase (s : State) : State :=
  let sz := fun c => (s.reg .qdr c QDR_BULK_SIZE).toNat
  let s := s.setReg .qdr 1 QDR_BULK_BASE (w32 (sz 0))
  let s := s.setReg .qdr 2 QDR_BULK_BASE (w32 (sz 0 + sz 1))
  s.setReg .qdr 3 QDR_BULK_BASE (w32 (sz 0 + sz 1 + sz 2))

/-- Channel and offset in its part of a bulk-window offset; none beyond the window (R160). -/
def bulkLoc (s : State) (off : Nat) : Option (Nat × Nat) :=
  (List.range 4).findSome? fun c =>
    let b := (s.reg .qdr c QDR_BULK_BASE).toNat
    let z := (s.reg .qdr c QDR_BULK_SIZE).toNat
    if b ≤ off ∧ off < b + z then some (c, off - b) else none

/-- Bytes of a rank of a geometry (R156, R159). -/
def rankBytes (geom : Word) : Nat := if bit geom 2 then 0x2000000 else 0x1000000

/-- The channel offset of a usable offset: the training area at the top of rank 0 is left out (R159). -/
def chanOff (geom : Word) (u : Nat) : Nat := if u < rankBytes geom - 0x1000 then u else u + 0x1000

/-- Rank, word in the rank, burst address and word of the burst of a channel offset (R159). -/
def memPlace (geom : Word) (c : Nat) : Nat × Nat × Nat × Nat :=
  let k := c / 8
  let w := rankBytes geom / 8
  (k / w, k % w, k % w / 4, k % w % 4)

/-- The usable offset of a channel offset, none in a training area (R159). -/
def usableOf (geom : Word) (c : Nat) : Option Nat :=
  let r := rankBytes geom
  if c < r - 0x1000 then some c
  else if r ≤ c ∧ c - 0x1000 < usable geom then some (c - 0x1000)
  else none

/-- The channel offset of a place in a channel's bulk part (R159). -/
def bulkOff (x : Chan) (off : Nat) : Nat := chanOff x.geom (0x800000 + x.pool * 256 + off)

end Sys2Proof.Machine
end

