-- ==== Sys2Proof/Machine/Operands.lean ====
section
/-! DEFINITION. Operand forms: order descriptors, Sward frame headers and payload fields, panel records, stream settings. -/

namespace Sys2Proof

/-! Order descriptors (R18) -/

/-- Byte `k` of a descriptor, 8 ≤ k < 16. -/
abbrev Desc.byte (d : Desc) (k : Nat) : Nat := Machine.bits d.arg (8 * (k - 8) + 7) (8 * (k - 8))

/-- Bytes [lo, hi] of a descriptor as a little-endian number, 8 ≤ lo ≤ hi < 16. -/
abbrev Desc.bytes (d : Desc) (hi lo : Nat) : Nat := Machine.bits d.arg (8 * (hi - 8) + 7) (8 * (lo - 8))

/-- The header of a received frame with the type its command names. -/
def RxFrame.header (f : RxFrame) (type : Nat) : Dword := Machine.setBits f.hdr 3 0 type

end Sys2Proof

namespace Sys2Proof.Machine

/-- The header's TYPE (R64). -/
def rxType (f : RxFrame) : Nat := f.hdr.toNat % 16

/-- What an order that has passed steps 1 to 4 of R21 comes to. -/
structure OrderRes where
  s : State
  /-- The completion code; none while the order goes on and its block completes it later. -/
  code : Option Nat
  result : Nat := 0
  extra : List Dword := []
  /-- RESULT of its journal entry (R528). -/
  jcode : Nat := code.getD 0

/-- An order that completes now. -/
abbrev fin (s : State) (code : Nat) (result : Nat := 0) (extra : List Dword := []) : OrderRes :=
  { s := s, code := some code, result := result, extra := extra }

/-- An order that its block completes later. -/
abbrev later (s : State) (jcode : Nat := 0) : OrderRes := { s := s, code := none, jcode := jcode }

/-! Sward frames (R64) -/

abbrev hdrType (h : Dword) : Nat := bits h 3 0
abbrev hdrAddr (h : Dword) : Nat := bits h 15 8
abbrev hdrInc (h : Dword) : BitVec 4 := BitVec.ofNat 4 (bits h 19 16)
abbrev hdrHop (h : Dword) : Nat := bits h 31 24
abbrev hdrLen (h : Dword) : Nat := bits h 41 32
abbrev hdrSeq (h : Dword) : BitVec 16 := BitVec.ofNat 16 (bits h 63 48)

/-- A downstream header: TYPE, MCAST, ADDR, INC, LEN and SEQ; DIR 0, VER 0b01, HOP 0. -/
def downHdr (type : Nat) (mcast : Bool) (addr : Nat) (inc : BitVec 4) (len : Nat) (seq : BitVec 16) : Dword :=
  d64 (type + 2 ^ 5 * bnat mcast + 2 ^ 6 + 2 ^ 8 * addr + 2 ^ 16 * inc.toNat + 2 ^ 32 * len + 2 ^ 48 * seq.toNat)

/-- LEN is legal for an upstream type (R65, R70); STREAM is 0 or 1 (R67). -/
def upstreamOk (type : Nat) (p : List Byte) : Bool :=
  let n := p.length
  let b0 := leAt p 0 1
  match type with
  | 1 => decide (8 ≤ n ∧ n ≤ 512 ∧ b0 ≤ 1)
  | 2 => decide (n = 16)
  | 3 => decide (8 ≤ n ∧ n ≤ 64)
  | 5 => decide (2 ≤ n ∧ n ≤ 512)
  | 6 => decide (n = 24)
  | 7 => decide (n = 32)
  | 8 => decide (n = 16)
  | 0xB => decide (b0 = 2 ∧ n = 12 ∨ b0 = 4 ∧ n = 8 ∨ b0 = 6 ∧ n = 4)
  | _ => false

/-- Buffer units of a frame's class (R83). -/
def rxUnits (type : Nat) (p : List Byte) : Nat := if type = 2 then 1 else (12 + p.length + 63) / 64

/-! Stream settings (R87 to R89) -/

/-- The five bytes of a setting, clamped to its targets (R87). -/
def streamOf (mode fm fc t th : Nat) : Stream :=
  { mode := BitVec.ofNat 2 (if mode ≤ 1 then mode else 0), fm := BitVec.ofNat 2 (if fm ≤ 3 then fm else 3),
    fc := BitVec.ofNat 3 (if fc ≤ 5 then fc else 5), t := BitVec.ofNat 2 (if t ≤ 2 then t else 2),
    thresh := b8 (if th = 0 then 1 else th) }

def streamBytes (x : Stream) : List Byte :=
  [b8 x.mode.toNat, b8 x.fm.toNat, b8 x.fc.toNat, b8 x.t.toNat, x.thresh]

/-- Lamp-current samples in a second (R87). -/
def currentRate (fc : Nat) : Nat := if fc = 0 then 0 else 100 * 2 ^ (fc - 1)

/-- A node's allowance in bits per second (R88). -/
def allowance (x : Stream) : Nat :=
  let slice := match x.t.toNat with | 0 => 16000 | 1 => 8000 | _ => 3200
  let sm := slice + 48 * (50 * 2 ^ x.fm.toNat)
  let sc := if x.fc = 0 then 0 else slice + 12 * currentRate x.fc.toNat
  500 + sc + (if x.mode = 1 then sm else sm / 2)

/-- The next setting down, one step at a time; none after the last (R89). -/
def stepDown (x : Stream) : Option Stream :=
  if x.t.toNat < 2 then some { x with t := x.t + 1 }
  else if x.fc ≠ 0 then some { x with fc := x.fc - 1 }
  else if x.fm ≠ 0 then some { x with fm := x.fm - 1 }
  else if x.mode ≠ 0 then some { x with mode := 0 }
  else none

/-- The first setting from `x` down that fits; `n` steps are at hand. -/
def firstFit (fits : Stream → Bool) : Nat → Stream → Stream
  | 0, x => x
  | n + 1, x => if fits x then x else match stepDown x with | some y => firstFit fits n y | none => x

/-! Panel records (R492) -/

/-- A record of a payload. -/
structure PanelRec where
  kind : Nat
  count : Nat
  off : Nat
  data : List Byte
  deriving DecidableEq, Repr

/-- Data bytes of a record before padding. -/
def recLen (kind count : Nat) : Nat :=
  match kind with
  | 1 => 4 * count | 2 => count | 3 => 8 * count | 4 => 8 | 5 => count | _ => 0

/-- The records of a payload before END; none where the layout fails. `n` bounds the records. -/
def parseRecords : Nat → List Byte → Option (List PanelRec)
  | 0, _ => none
  | n + 1, bs =>
    if bs.length < 8 then none
    else
      let kind := leAt bs 0 1
      let rsv := leAt bs 1 1
      let count := leAt bs 2 2
      let off := leAt bs 4 4
      if rsv ≠ 0 ∨ 5 < kind then none
      else if kind = 0 then (if count = 0 ∧ off = 0 ∧ bs.length = 8 then some [] else none)
      else
        let len := recLen kind count
        let full := (len + 7) / 8 * 8
        let body := bs.drop 8
        if count = 0 ∨ body.length < full ∨ (body.take full).drop len ≠ List.replicate (full - len) 0 then none
        else (parseRecords n (body.drop full)).map fun rs => ⟨kind, count, off, body.take len⟩ :: rs

def Panel.records (p : Panel) : List PanelRec := (parseRecords (p.payload.length / 8 + 1) p.payload).getD []

/-- The panel in force for an index of R490. -/
def State.inForce (s : State) (i : Nat) : Option Panel := (tget none s.mantle.inForce i).map fun x => x.panel

/-- The serial a lane set's records list for address `a` of lane `l`; 0 where not listed (R492). -/
def panelSerial (rs : List PanelRec) (l a : Nat) : Nat :=
  let i := l % 12 * 128 + (a - 1)
  rs.foldl (fun v r => if r.kind = 3 ∧ r.off ≤ i ∧ i < r.off + r.count then leAt r.data (8 * (i - r.off)) 8 else v) 0

/-- The addresses a lane set lists on a lane, with their serials (R72). -/
def panelListing (p : Panel) (l : Nat) : List (Nat × Nat) :=
  ((List.range 128).map fun k => (k + 1, panelSerial p.records l (k + 1))).filter fun e => decide (e.2 ≠ 0)

/-- MANTLE_PL_STATUS.PHASE. -/
def loaderPhase (s : State) : Nat := match s.mantle.job with | some j => j.phase | none => 0

/-- A domain that an apply in progress holds on (R504). -/
def applyHolds (s : State) (d : Nat) : Bool :=
  match s.mantle.job with
  | some a => a.held.contains d
  | none => false

/-- The addresses the lane set in force lists on a lane, with their serials (R72). -/
def listing (s : State) (l : Nat) : List (Nat × Nat) :=
  match s.inForce (288 + l / 12) with
  | none => []
  | some p => panelListing p l

def listedSerial (s : State) (l a : Nat) : Option Nat :=
  ((listing s l).find? fun e => decide (e.1 = a)).map fun e => e.2

abbrev isListed (s : State) (l a : Nat) : Bool := (listedSerial s l a).isSome

end Sys2Proof.Machine
end

