-- ==== Sys2Proof/Machine/Journal.lean ====
section
/-! DEFINITION. Rights, the audit journal, denials and the export of entries. -/

namespace Sys2Proof.Machine

/-! Rights -/

/-- One entry of a narrowing table lets a role exercise a right, or says nothing of it (R514). -/
def rightEntry (kind id op role : Nat) (e : Dword) : Bool :=
  if bits e 7 0 = kind ∧ bits e 31 16 = id ∧ (kind ≠ 1 ∨ bits e 39 32 = op ∨ bits e 39 32 = 0xFF) then
    bit e (39 + role)
  else true

/-- The maker ceiling and the rights table leave a role a right: KIND, ID, opcode (R513, R514). -/
def permits (s : State) (kind id op role : Nat) : Bool :=
  (s.mantle.ceiling.getD []).all (rightEntry kind id op role) && (s.mantle.rights.getD []).all (rightEntry kind id op role)

/-- Mantle runs: RUNNING or RECOVERY (R535). -/
abbrev mantleRuns (s : State) : Bool := decide (s.mantle.st = 3 ∨ s.mantle.st = 4)

/-! The journal -/

abbrev ringSize : Nat := 16384

/-- Entries not yet exported (R532). -/
abbrev unexported (s : State) : Nat := s.mantle.seq - s.mantle.exp

/-- The journal has room for `n` more entries (R533, R534). -/
def journalRoom (s : State) (n : Nat) : Bool := mantleRuns s && decide (unexported s + n ≤ ringSize)

/-- CHAIN of the latest entry; of entry 0 it is drawn from the device serial (R531). -/
def chainNow (s : State) : BitVec 128 :=
  if s.mantle.seq = 0 then
    BitVec.ofNat 128 (leNat ((Config.sha384 ([b8 0x43, b8 0x58, b8 0x4A, b8 0x30] ++ leBytes 8 Config.serial.toNat)).take 16))
  else s.mantle.chain

/-- Bytes 0 to 47 of an entry as six words (R529). -/
def entryWords (seq : Nat) (a : JAct) : List Dword :=
  [d64 seq,
   d64 (a.timeUs % 2 ^ 48 + 2 ^ 48 * (a.who % 256) + 2 ^ 56 * (a.form % 256)),
   d64 (a.req % 512 + 2 ^ 16 * (a.action % 65536) + 2 ^ 32 * a.target.toNat),
   a.old, a.new,
   d64 (a.result % 256 + 2 ^ 8 * (a.block % 256))]

/-- One entry is written at the end of the ring; reaching 12,288 unexported entries fires HC5 (R529, R531, R532). -/
def jAppend (s : State) (a : JAct) : State :=
  let seq := s.mantle.seq + 1
  let ws := entryWords seq a
  let chain := BitVec.ofNat 128 (leNat ((Config.sha384 (leBytes 16 (chainNow s).toNat ++ ws.flatMap fun w => leBytes 8 w.toNat)).take 16))
  let s := s.modMantle fun m =>
    { m with seq := seq, chain := chain, ring := (⟨seq, ws, chain⟩ :: m.ring).take ringSize }
  let s := (s.bump .mantle 0 MANTLE_JR_CNT_ENTRIES).bankAdd bankD49 2 1
  if unexported s = 12288 then s.fire1 5 else s

/-- Entries held in the Heath, then one gap entry, go before any other (R533). -/
def jHeld : List JAct → State → State
  | [], s => s.modMantle fun m => { m with heldEntries := [] }
  | a :: as, s =>
    if journalRoom s 1 then jHeld as (jAppend s { a with form := a.form + 8 })
    else s.modMantle fun m => { m with heldEntries := a :: as }

/-- The acts counted lost since the latest gap entry. -/
def lostSince (s : State) : Nat := (s.reg .mantle 0 MANTLE_JR_CNT_LOST).toNat - s.mantle.lostNoted

/-- FORM [2]: the time is not yet set (R529). -/
def jForm (s : State) : Nat := if s.timeSet then 0 else 4

/-- Held entries and a gap entry are written as far as there is room (R533). -/
def jFlush (s : State) : State :=
  if mantleRuns s then
    let s := if s.mantle.heldEntries = [] then s else jHeld s.mantle.heldEntries s
    let n := lostSince s
    if n ≠ 0 ∧ s.mantle.heldEntries = [] ∧ journalRoom s 1 = true then
      let s := jAppend s { action := 0xF000, new := d64 n, form := jForm s, req := 404, who := 3, block := 7, timeUs := s.townUs }
      s.modMantle fun m => { m with lostNoted := (s.reg .mantle 0 MANTLE_JR_CNT_LOST).toNat }
    else s
  else s

/-- An act's WHO: its role, and the key slot of a signed request (R529). -/
def jWho (s : State) (req : Nat) : Nat :=
  if 400 ≤ req ∧ req ≤ 403 ∨ req = 410 then s.signedRole + 4 * (s.signedSlot % 16) else s.roleOf req

/-- An act as its entry records it at this moment. -/
def mkAct (s : State) (req action : Nat) (target : Word) (old new : Dword) (result block : Nat) : JAct :=
  { who := jWho s req, form := jForm s, req := req, action := action, target := target, old := old, new := new,
    result := result, block := block, timeUs := s.townUs }

/-- An act whose room has been judged is written, held entries first. -/
def journal (s : State) (a : JAct) : State := let s := jFlush s; if journalRoom s 1 then jAppend s a else s

/-- An act that cannot be refused: written if there is room, else counted lost (R533). -/
def journalOrLose (s : State) (a : JAct) : State :=
  let s := jFlush s
  if journalRoom s 1 then jAppend s a else s.bump .mantle 0 MANTLE_JR_CNT_LOST

/-- As `journalOrLose`, but held in the Heath, up to 16 entries, while Mantle writes none (R451, R533). -/
def journalOrHold (s : State) (a : JAct) : State :=
  if mantleRuns s then journalOrLose s a
  else if s.mantle.heldEntries.length < 16 then s.modMantle fun m => { m with heldEntries := m.heldEntries ++ [a] }
  else s.bump .mantle 0 MANTLE_JR_CNT_LOST

/-- Room for a journaled act, held and gap entries counted first; a lack is counted (R533, R534). -/
def journalReady (s : State) : Bool := journalRoom (jFlush s) 1

/-- An entry for a denial: action detail 0 for a write, 1 for an order, at most once a second for each requester (R4, R5). -/
def deny (s : State) (req detail : Nat) (target : Word) (b : Blk) (result : Nat) : State :=
  let x := tget {} s.mantle.denials req
  if x.last.all fun l => decide (l + 1000000000 * 65536 ≤ s.tb.now) then
    let s' := jFlush s
    if journalRoom s' 1 then
      let s := jAppend s' (mkAct s req (0x2000 + detail) target 0 (d64 x.quiet) result (blkType b % 256))
      (s.modMantle fun m => { m with denials := tset {} m.denials req { last := some s.tb.now, quiet := 0 } }).bump
        .mantle 0 MANTLE_JR_CNT_DENIALS
    else s'.bump .mantle 0 MANTLE_JR_CNT_LOST
  else
    (s.modMantle fun m => { m with denials := tset {} m.denials req { x with quiet := x.quiet + 1 } }).bump
      .mantle 0 MANTLE_JR_CNT_DENIALS_QUIET

/-- A denied register write: counted with reason 3 and journaled (R4). -/
def denyWrite (s : State) (req : Nat) (b : Blk) (i off : Nat) : State :=
  deny (s.logClamp b i 3 off (s.roleOf req)) req 0 (w32 (regAddr b i off)) b 0

/-! Export -/

/-- The packet of a ring entry (R532). -/
def entryPacket (e : JEntry) : List Dword :=
  mkHeader 0x14 8 0 404 (e.seq % 2 ^ 24)
    :: e.words ++ [d64 e.chain.toNat, d64 (e.chain.toNat / 2 ^ 64)]

/-- The oldest unexported entries are committed, at most `n` of them, until the queue takes no more (R532). -/
def exportEntries : Nat → State → State
  | 0, s => s
  | n + 1, s =>
    if unexported s = 0 ∨ s.mantle.exportRefused = true then s
    else
      match s.mantle.ring.find? fun e => decide (e.seq = s.mantle.exp + 1) with
      | none => s
      | some e =>
        match hwOffer s 0 0xD8500 (entryPacket e) with
        | (s, .ok) =>
          exportEntries n ((s.modMantle fun m => { m with exp := e.seq }).bump .mantle 0 MANTLE_JR_CNT_EXPORTED)
        | (s, .refused) => s.modMantle fun m => { m with exportRefused := true }
        | (s, _) => s

/-- JOURNAL_EXPORT: what is unexported is offered, and the producer fires at most once in 1 ms (R532). -/
def journalExport (s : State) : State :=
  if mantleRuns s then
    let before := s.mantle.exp
    let s := exportEntries (unexported s) s
    let s := if s.mantle.exp ≠ before then s.modMantle fun m => { m with exportDue := true } else s
    let s := if s.mantle.exportDue ∧ (s.mantle.exportFiredAt.all fun a => decide (a + 1000000 ≤ s.uptime)) then
        (s.modMantle fun m => { m with exportDue := false, exportFiredAt := some s.uptime }).fire1 (prodMantle 3)
      else s
    jFlush s
  else s

/-- The queue has been enabled or reset: what it refused is offered again (R263, R532). -/
def offerAgain (s : State) (q : Nat) : State :=
  let s := if q = 0xD8500 then s.modMantle fun m => { m with exportRefused := false } else s
  if q = 0xD8510 then s.modLife fun x => { x with exportRefused := false } else s

end Sys2Proof.Machine
end

