-- ==== Sys2Proof/Machine/Faults.lean ====
section
/-! DEFINITION. The fault table: conditions that become present and go, entries, record packets, HC0 and FAULT_N, and the
fault orders. -/

namespace Sys2Proof.Machine

/-- The subject of a lane class: lane in [15:8], node in [7:0] (R297). -/
abbrev subj (l n : Nat) : Nat := l * 256 + n

/-- A class whose subject names a lane and a node (R290). -/
abbrev laneClass (c : Nat) : Bool := decide (c < 0x30)

/-- The entry not free that holds a class and subject; LANE_BREAK is matched by lane alone (R282, R287). -/
def findFault (s : State) (c sub : Nat) : Option Nat :=
  (s.faults.find? fun p =>
    decide (p.2.st ≠ .free) && decide (p.2.fclass = c) &&
      (if c = 0x11 then decide (p.2.subject / 256 = sub / 256) else decide (p.2.subject = sub))).map fun p => p.1

/-- The lowest free entry (R287). -/
def freeEntry (s : State) : Option Nat := (List.range 4096).find? fun e => decide ((s.fault e).st = .free)

def FState.code : FState → Nat
  | .free => 0 | .raised => 1 | .acked => 2

/-- Where the record packets of a class and subject go: node classes through source 9, others to 0xD_8520 (R290). -/
def faultQueue (s : State) (c sub : Nat) : Option Nat :=
  if (c ≤ 4 ∨ c = 0x10 ∨ c = 0x12) ∧ sub % 256 ≠ 0 then
    (slotFor s (sub / 256 / 12) 9).map fun slot => lanternQ (sub / 256) (sub % 256) slot
  else some 0xD8520

/-- The five words of a record packet (R290): the entry as it stands after the event. -/
def faultWords (x : FaultEntry) (e event noEntry timeUs role slot : Nat) : List Dword :=
  let aux := if laneClass x.fclass then x.subject % 256 + 256 * (x.subject / 256) else x.subject
  [mkHeader 0x11 4 event 407 aux,
   d64 (x.fclass + 2 ^ 16 * e + 2 ^ 28 * x.gen.toNat + 2 ^ 32 * x.rep + 2 ^ 48 * x.st.code + 2 ^ 50 * bnat x.cond
     + 2 ^ 51 * noEntry),
   d64 (x.raiseT % 2 ^ 48),
   d64 (timeUs % 2 ^ 48 + 2 ^ 48 * role + 2 ^ 50 * slot),
   x.detail]

/-- A raise or repeat of this class fires HC0 (R292). -/
def hc0Class (s : State) (c : Nat) : Bool :=
  let w := s.reg .stat 0 FLT_CFG
  if 0x30 ≤ c then bit w (16 + (c - 0x30)) else if c = 0x11 ∨ 0x20 ≤ c then bit w 28 else false

/-- HC0 fires and is counted (R292). -/
def fireHc0 (s : State) : State := (s.bump .stat 0 FLT_CNT_HC0).fire1 0

/-- A record packet enters the hold of 256, or is lost; without a packet a due HC0 fires at once (R291, R292). -/
def holdPacket (s : State) (c sub : Nat) (ws : List Dword) (hc0 : Bool) : State :=
  match faultQueue s c sub with
  | none => if hc0 then fireHc0 s else s
  | some q =>
    if s.faultHold.length < 256 then { s with faultHold := s.faultHold ++ [{ q := some q, words := ws, hc0 := hc0 }] }
    else
      let s := s.bump .stat 0 FLT_CNT_PKT_LOST
      if hc0 then fireHc0 s else s

/-- The packet of an event at entry `e`, which holds `x` after it. -/
def emitFault (s : State) (e : Nat) (x : FaultEntry) (event : Nat) (hc0 : Bool) (role : Nat := 0) (slot : Nat := 0) :
    State :=
  holdPacket s x.fclass x.subject (faultWords x e event 0 s.townUs role slot) hc0

/-- An entry is freed: GEN rises and a cleared packet is made (R287, R288). -/
def freeFault (s : State) (e : Nat) : State :=
  let x := s.fault e
  if x.st = .free then s
  else
    let s := s.setFault e { gen := x.gen + 1 }
    emitFault (s.bump .stat 0 FLT_CNT_CLEARED) e { x with st := .free, cond := false, lastT := s.townUs } 2 false

/-- An entry will be freed once this round's orders are served (R289). -/
def freeLater (s : State) (e : Nat) : State := { s with freeing := insNat e s.freeing }

/-- A condition takes the lowest free entry; with none free a NO_ENTRY packet goes out on the first attempt (R287, R292). -/
def raiseFault (s : State) (c sub : Nat) (detail : Dword) : State :=
  let now := s.townUs
  match freeEntry s with
  | some e =>
    let x : FaultEntry :=
      { st := .raised, fclass := c, subject := sub, gen := (s.fault e).gen, cond := true, raiseT := now, lastT := now,
        detail := detail }
    let s := { s with faultWait := s.faultWait.filter fun p => decide ((p.1, p.2.1) ≠ (c, sub)) }
    emitFault ((s.setFault e x).bump .stat 0 FLT_CNT_RAISED) e x 0 (hc0Class s c)
  | none =>
    let s' := s.bump .stat 0 FLT_CNT_TABLE_FULL
    if s.faultWait.any fun p => decide ((p.1, p.2.1) = (c, sub)) then s'
    else
      let x : FaultEntry := { st := .raised, fclass := c, subject := sub, cond := true, raiseT := now, detail := detail }
      holdPacket { s' with faultWait := s'.faultWait ++ [(c, sub, detail)] } c sub (faultWords x 0 0 1 now 0 0) (hc0Class s c)

/-- A condition that is present again at a RAISED entry: a repeat, whose packet is due at most once a second (R288, R292). -/
def repeatFault (s : State) (e : Nat) (detail : Dword) : State :=
  let x := s.fault e
  let due := x.repAt.all fun a => decide (a + 1000000000 ≤ s.uptime)
  let y := { x with cond := true, rep := satTo 0xFFFF (x.rep + 1), lastT := s.townUs, detail := detail,
                    repAt := if due then some s.uptime else x.repAt }
  let s' := (s.setFault e y).bump .stat 0 FLT_CNT_REPEAT
  if due then emitFault s' e y 3 (hc0Class s x.fclass)
  else if hc0Class s x.fclass then fireHc0 s' else s'

/-- The entry of a pair, one that was to be freed having been freed. -/
def entryNow (s : State) (c sub : Nat) : State × Option Nat :=
  match findFault s c sub with
  | some e =>
    if e ∈ s.freeing then (freeFault { s with freeing := s.freeing.filter fun k => decide (k ≠ e) } e, none) else (s, some e)
  | none => (s, none)

/-- A condition is present. As it becomes so it is raised, or repeated at its entry; while it stays so an attempt that found no
entry is made again, and an entry takes the DETAIL that now holds. A fault cleared by force while its condition stands takes no
entry again before the condition has gone (DEDUCED: "becomes present"; log entry 80) (R287, R288). -/
def condPresent (s : State) (c sub : Nat) (detail : Dword) : State :=
  let was := decide ((c, sub) ∈ s.conds)
  let waits := s.faultWait.any fun p => decide ((p.1, p.2.1) = (c, sub))
  let s := if was then s else { s with conds := s.conds ++ [(c, sub)] }
  let x := entryNow s c sub
  let s := x.1
  match x.2 with
  | none => if was && !waits then s else raiseFault s c sub detail
  | some e =>
    if (s.fault e).st = .raised ∧ (s.fault e).cond = false then repeatFault s e detail
    else s.setFault e { s.fault e with detail := detail }

/-- A condition is gone; its entry takes the DETAIL that now holds, where one is given (R288). -/
def condGone (s : State) (c sub : Nat) (detail : Option Dword := none) : State :=
  let s := { s with faultWait := s.faultWait.filter fun p => decide ((p.1, p.2.1) ≠ (c, sub))
                    conds := s.conds.filter fun p => decide (p ≠ (c, sub)) }
  match findFault s c sub with
  | none => s
  | some e =>
    let x := s.fault e
    let y := { x with cond := false, lastT := s.townUs, detail := detail.getD x.detail }
    match x.st, x.cond with
    | .raised, true => s.setFault e y
    | .acked, true => freeLater (s.setFault e y) e
    | _, _ => s

/-- A momentary condition: present in this round, and gone in the next; a further event of this round is a repeat (R286). -/
def momentary (s : State) (c sub : Nat) (detail : Dword) : State :=
  let fresh := fun (s : State) => condPresent { s with conds := s.conds.filter fun p => decide (p ≠ (c, sub)) } c sub detail
  let s : State := match findFault s c sub with
    | some e => if (s.fault e).st = .raised ∧ (s.fault e).cond = true then repeatFault s e detail else fresh s
    | none => fresh s
  { s with going := if (c, sub) ∈ s.going then s.going else s.going ++ [(c, sub)] }

/-- Momentary faults that queues and memories found are raised (R286). -/
def raiseDue (s : State) : State :=
  s.faultDue.foldl (fun s p => momentary s p.1 p.2.1 p.2.2) { s with faultDue := [] }

/-- Entries are freed after the orders of a round (R289). -/
def freeAll (s : State) : State := s.freeing.foldl freeFault { s with freeing := [] }

/-- Momentary conditions of the round before go (R286). -/
def goAll (s : State) : State := s.going.foldl (fun s p => condGone s p.1 p.2) { s with going := [] }

/-- Device conditions that found no entry are judged again as entries are freed (R287; DESIGN CHOICE: the spec names no later
judgement of a device level, log entry 80). -/
def raiseAgain (s : State) : State :=
  (s.faultWait.filter fun p => decide (0x30 ≤ p.1)).foldl (fun s p => if (freeEntry s).isSome then condPresent s p.1 p.2.1 p.2.2 else s) s

/-- A round of the fault table ends and the next begins: entries are freed, momentary conditions go (R286, R289, log
entry 3). -/
def roundEnd (s : State) : State :=
  if s.freeing.isEmpty ∧ s.going.isEmpty then s else raiseAgain (freeAll (goAll (freeAll s)))

/-- Time reaches an instant: the round in progress ends, and what waited at a seam for its acknowledge crosses (R286, R465,
R466). -/
def State.upTo (s : State) (t : Nat) : State := crossDue ((if s.uptime < t then roundEnd s else s).advance t)

/-- A condition as a level. -/
abbrev condIs (s : State) (b : Bool) (c sub : Nat) (detail : Dword) : State :=
  if b then condPresent s c sub detail else condGone s c sub

/-- SNAPSHOT orders make their packets as the hold has room, one order after the other, and complete after the last is
committed (R293). -/
def snapStep : Nat → State → State
  | 0, s => s
  | n + 1, s =>
    match s.snaps with
    | [] => s
    | x :: rest =>
      match x.left with
      | [] => if x.held = 0 then snapStep n (complete { s with snaps := rest } .stat 0 0x42 x.d 0 x.count []) else s
      | e :: es =>
        let y := s.fault e
        if y.st = .free then snapStep n { s with snaps := { x with left := es } :: rest }
        else match faultQueue s y.fclass y.subject with
          | none => snapStep n { s with snaps := { x with left := es } :: rest }
          | some q =>
            if s.faultHold.length < 256 then
              snapStep n { s with snaps := { x with left := es, held := x.held + 1 } :: rest
                                  faultHold := s.faultHold ++ [{ q := some q, words := faultWords y e 4 0 s.townUs 0 0, hc0 := false, snap := true }] }
            else s

/-- Enough steps for every order in progress. -/
def snapServe (s : State) : State := snapStep (s.snaps.map fun x => x.left.length + 1).sum s

/-- A packet of the SNAPSHOT in progress has left the hold: it was committed, or its queue refused it. -/
def snapLeft (s : State) (took : Bool) : State :=
  match s.snaps with
  | x :: rest => { s with snaps := { x with held := x.held - 1, count := x.count + bnat took } :: rest }
  | [] => s

/-- FAULT_PACKET_COMMIT: the oldest held record packet is committed, and a due HC0 fires after it. A queue that refuses it
loses it (R291, R292). -/
def faultCommit (s : State) : State :=
  match s.faultHold with
  | [] => s
  | p :: rest =>
    let done := fun (s : State) (took : Bool) =>
      let s := { s with faultHold := rest }
      let s := if p.snap then snapLeft s took else s
      snapServe (if p.hc0 then fireHc0 s else s)
    match p.q with
    | none => done s false
    | some q =>
      match hwOffer s 5 q p.words with
      | (s, .ok) => done s true
      | (s, .refused) => done s false
      | (s, _) => s

/-- The entry an entry TARGET names, if it is not free and GEN agrees (R293). -/
def targetEntry (s : State) (target : Word) : Option Nat :=
  let e := bits target 11 0
  if (s.fault e).st ≠ .free ∧ (s.fault e).gen.toNat = bits target 15 12 then some e else none

/-- ACK_FAULT of an entry not free: the state, and bits [41:40] of the result (R288, R293). -/
def ackFault (s : State) (e role slot : Nat) : State × Nat :=
  let x := s.fault e
  match x.st, x.cond with
  | .raised, true =>
    let y := { x with st := .acked, lastT := s.townUs }
    (emitFault ((s.setFault e y).bump .stat 0 FLT_CNT_ACKED) e y 1 false role slot, 1)
  | .raised, false =>
    let y := { x with st := .acked, lastT := s.townUs }
    let s := emitFault ((s.setFault e y).bump .stat 0 FLT_CNT_ACKED) e y 1 false role slot
    (freeLater s e, 3)
  | _, _ => (s, 0)

/-- FAULT_N is asserted (R292, R574). -/
def faultN (s : State) : Bool :=
  let w := s.reg .stat 0 FLT_CFG
  s.boot.faultHold || (s.doms.any fun p => decide (p.2.st = .faulted)) ||
    s.faults.any fun p => decide (p.2.st = .raised) &&
      (if 0x30 ≤ p.2.fclass then bit w (p.2.fclass - 0x30)
       else if p.2.fclass = 0x11 ∨ 0x20 ≤ p.2.fclass then bit w 12 else false)

end Sys2Proof.Machine
end

