-- ==== Sys2Proof/Machine/Stats.lean ====
section
/-! DEFINITION. Periods and statistics: boundaries, latched banks, digests, and the banks of domains that go off and come
back. -/

namespace Sys2Proof.Machine

/-- Minutes of a length code (R299). -/
def periodMin : Nat → Nat
  | 0 => 1 | 1 => 2 | 2 => 5 | 3 => 10 | 4 => 15 | 5 => 30 | 6 => 60 | _ => 15

abbrev lenCode (s : State) : Nat := s.fld .stat 0 STAT_PERIOD_CFG 2 0

/-- STAT_PERIOD.NUMBER (R302). -/
abbrev periodNo (s : State) : Word := s.reg .stat 0 STAT_PERIOD

/-- The first UTC second after `u` that is a multiple of a length in minutes (R299). -/
def nextAligned (u min : Nat) : Nat := (u / (60 * min) + 1) * (60 * min)

/-- Town microseconds of a UTC second (R545). -/
def utcToUs (s : State) (u : Nat) : Nat := (((u : Int) + s.utcOff).toNat) * 1000000

/-- The domain a bank lies in; 50 for the Heath's own (R308). -/
def bankDom (k : Nat) : Nat :=
  if k < 144 then 32 + k / 12 else if k < 148 then 44 + (k - 144) else if k < 180 then k - 148
  else if k = 180 then 48 else if k = 181 then 50 else 49

/-- The banks of a domain. -/
def domBanks (d : Nat) : List Nat := (List.range 183).filter fun k => decide (bankDom k = d)

/-- KIND, instance, digest queue and number of counters of a bank (R308). -/
def bankInfo (k : Nat) : Nat × Nat × Nat × Nat :=
  if k < 144 then (0, k, 0xD8400 + k, 0)
  else if k < 148 then (1, k - 144, 0xD8490 + (k - 144), 7)
  else if k < 180 then (2, k - 148, 0xD8494 + (k - 148), 26)
  else if k = 180 then (3, 0, 0xD84B4, 20)
  else if k = 181 then (4, 0, 0xD84B5, 12)
  else (5, 0, 0xD84B6, 4)

/-- A counter as a digest carries it: units of 2^16 where R308 says so, saturating at 32 bits. -/
def counterOf (k : Nat) (t : Table Nat) (i : Nat) : Nat :=
  let v := tget 0 t i
  let v := if 144 ≤ k ∧ k < 148 ∧ i < 2 then v / 65536
    else if 148 ≤ k ∧ k < 180 ∧ i < 24 ∧ i % 3 = 0 then v / 65536 else v
  satTo 0xFFFFFFFF v

/-- Two 32-bit counters to a word (R306). -/
def pairWords : List Nat → List Dword
  | [] => []
  | [a] => [d64 a]
  | a :: b :: r => d64 (a + 2 ^ 32 * b) :: pairWords r

/-- The counters of a digest as payload words from word 3 on (R306, R307). -/
def counterWords (k : Nat) (t : Table Nat) : List Dword :=
  if k < 144 then
    pairWords ((List.range 20).map fun i => counterOf k t i) ++
      (List.range 128).map fun n =>
        d64 ((List.range 4).map fun b => satTo 0xFFFF (tget 0 t (20 + 4 * n + b)) * 2 ^ (16 * b)).sum
  else pairWords ((List.range (bankInfo k).2.2.2).map fun i => counterOf k t i)

/-- A digest packet (R306). -/
def digest (s : State) (k : Nat) (partial_ stale short : Bool) (period seen start stop : Nat) (ws : List Dword) : List Dword :=
  let (kind, inst, _, _) := bankInfo k
  mkHeader 0x13 (3 + ws.length) (kind + 16 * bnat partial_ + 32 * bnat stale + 64 * bnat short) 407 (inst + 2 ^ 16 * lenCode s)
    :: d64 (period % 2 ^ 32 + 2 ^ 32 * (seen % 2 ^ 32)) :: d64 (start % 2 ^ 48) :: d64 (stop % 2 ^ 48) :: ws

/-- A digest is committed or counted lost; the statistics block never waits (R309). -/
def commitDigest (s : State) (k : Nat) (ws : List Dword) : State × Bool :=
  match hwTry s (bankInfo k).2.2.1 ws with
  | (s, .ok) => (s, true)
  | (s, _) => (s.bump .stat 0 STAT_CNT_DIGEST_LOST, false)

def State.domStat (s : State) (d : Nat) : DomStat := tget {} s.stats.doms d
def State.setDomStat (s : State) (d : Nat) (x : DomStat) : State :=
  s.modStats fun y => { y with doms := tset {} y.doms d x }

/-- The bank of a domain is live: the domain is on, and powers neither up nor down (R303). -/
abbrev bankLive (s : State) (d : Nat) : Bool := decide (d = 50) || ((s.domStat d).live && decide ((s.dom d).st ≠ .stopping))

/-- STAT_BANK_SEEN_d (R305). -/
def lastSeen (s : State) (d : Nat) : Nat :=
  if bankLive s d then (periodNo s).toNat else (s.reg .stat 0 (STAT_BANK_SEEN + 8 * d)).toNat

/-- Time in Rest and in WAIT up to now enters the counters of a meadow (R308, R441). -/
def accrue (s : State) (m : Nat) : State :=
  let s := if (s.meadow m).st = .rest then
      let us := (s.uptime - (s.meadow m).restFrom) / 1000
      let s := s.modMeadow m fun x => { x with restFrom := x.restFrom + us * 1000 }
      (s.bumpBy .meadow m MEADOW_PWR_CNT_REST_US us).bankAdd (bankMeadow m) 24 us
    else s
  (List.range 8).foldl (fun s c =>
    let r := 8 * m + c
    if (s.core r).st = .waiting then
      let us := (s.uptime - (s.core r).waitFrom) / 1000
      (s.modCore r fun x => { x with waitFrom := x.waitFrom + us * 1000 }).bankAdd (bankMeadow m) (3 * c + 1) us
    else s) s

/-- What a bank has to count before it is handed over. -/
def settleBank (s : State) (k : Nat) : State :=
  if 144 ≤ k ∧ k < 148 then noteBlocks s (k - 144)
  else if 148 ≤ k ∧ k < 180 then accrue s (k - 148)
  else s

/-- The live bank becomes the latched bank and a zeroed one starts (R303). -/
def latchBank (s : State) (k stopT : Nat) : State :=
  let s := settleBank s k
  let d := s.domStat (bankDom k)
  let x := s.bank k
  s.setBank k
    { live := [], latched := x.live, latchedPeriod := periodNo s, latchedStart := max d.startT s.stats.startT,
      latchedEnd := stopT, latchedPartial := d.partial_ }

/-- The digest of a latched bank (R305, R306). -/
def latchedDigest (s : State) (k : Nat) : List Dword :=
  let x := s.bank k
  digest s k x.latchedPartial false s.stats.lastShort x.latchedPeriod.toNat x.latchedPeriod.toNat x.latchedStart x.latchedEnd
    (counterWords k x.latched)

/-- The digest of a bank whose domain was off through the period latest ended (R305, R312). -/
def staleDigest (s : State) (k : Nat) : List Dword :=
  digest s k false true s.stats.lastShort ((periodNo s).toNat + 2 ^ 32 - 1)
    (lastSeen s (bankDom k)) s.stats.prevStart s.stats.startT []

/-- A boundary at town microsecond `at_` (R303 to R309): every live bank swaps, NUMBER rises, digests are committed and
BOUNDARY_DONE fires. -/
def boundary (s : State) (at_ : Nat) (short : Bool) : State :=
  let live := (List.range 51).filter fun d => bankLive s d
  let banks := List.range 183
  let s := (banks.filter fun k => decide (bankDom k ∈ live)).foldl (fun s k => latchBank s k at_) s
  -- domains that were off, not those powering down, whose digest is still to come: STALE, unless their part was already digested
  let due := (List.range 50).filter fun d => !(s.domStat d).live && !(s.domStat d).digested
  let s := (List.range 50).foldl (fun s d =>
    let x := s.domStat d
    if d ∈ live then
      (s.setDomStat d { x with stale := false, partial_ := false, startT := at_, digested := false }).setReg .stat 0
        (STAT_BANK_SEEN + 8 * d) (periodNo s)
    else if x.live then s
    else s.setDomStat d { x with stale := true, digested := false }) s
  let s := s.setDomStat 50 { s.domStat 50 with partial_ := false, startT := at_ }
  let no := periodNo s + 1
  let s := s.setReg .stat 0 STAT_PERIOD no
  let s := s.modStats fun x =>
    { x with prevStart := x.startT, startT := at_, startUtc := (((at_ / 1000000 : Nat) : Int) - s.utcOff).toNat, lastShort := short, fullMin := periodMin (lenCode s) }
  let s := s.bump .stat 0 STAT_CNT_BOUNDARIES
  let s := if short then s.bump .stat 0 STAT_CNT_SHORT else s
  let s := banks.foldl (fun s k =>
    if bankDom k ∈ live then (commitDigest s k (latchedDigest s k)).1
    else if bankDom k ∈ due then (commitDigest (s.bump .stat 0 STAT_CNT_STALE) k (staleDigest s k)).1
    else s) s
  s.fire1 prodBoundary

/-- The boundary of R301, at the first setting of the time or a step of more than 1 s. -/
def stepBoundary (s : State) : State :=
  let s := boundary s s.townUs true
  s.modStats fun x => { x with nextUtc := nextAligned s.utcSec (periodMin (lenCode s)) }

/-- PERIOD_BOUNDARY: a boundary whose instant has come (R299, R300, R303). -/
def periodBoundary (s : State) : State :=
  if s.timeSet ∧ s.stats.nextUtc ≤ s.utcSec then
    let at_ := utcToUs s s.stats.nextUtc
    let short := decide (at_ < s.stats.startT + s.stats.fullMin * 60000000)
    let s := boundary s at_ short
    s.modStats fun x => { x with nextUtc := nextAligned x.nextUtc (periodMin (lenCode s)) }
  else s

/-- A new length takes effect at once (R300). -/
def setLength (s : State) (code : Nat) : State :=
  let s := s.setReg .stat 0 STAT_PERIOD_CFG (w32 code)
  if s.timeSet then s.modStats fun x => { x with nextUtc := min x.nextUtc (nextAligned s.utcSec (periodMin code)) } else s

/-- Step 3 of an orderly power-down: the live bank is committed as a partial digest and its counts end (R305, R419). -/
def bankDown (s : State) (d : Nat) (orderly : Bool) : State :=
  if (s.domStat d).live then
    let s := if orderly then
        (domBanks d).foldl (fun s k =>
          let s := settleBank s k
          let x := s.domStat d
          (commitDigest s k (digest s k true false false (periodNo s).toNat (periodNo s).toNat
            x.startT s.townUs (counterWords k (s.bank k).live))).1) s
      else s
    let s := (domBanks d).foldl (fun s k => s.setBank k { s.bank k with live := [] }) s
    let s := s.setReg .stat 0 (STAT_BANK_SEEN + 8 * d) (periodNo s)
    s.setDomStat d { s.domStat d with live := false, digested := (s.domStat d).digested || orderly }
  else s

/-- A domain is up: its bank starts at zero with PARTIAL set, and the registers of its latched bank at their reset values (R305,
R570). -/
def bankUp (s : State) (d : Nat) : State :=
  let s := (domBanks d).foldl (fun s k => s.setBank k {}) s
  s.setDomStat d { s.domStat d with live := true, partial_ := true, startT := s.townUs }

/-- REDIGEST of a bank whose domain is on, or that is STALE: whether it was committed. A bank whose domain has come up since the
latest boundary, as after the order's own wake, has no latched counts, and is STALE (R312; DEDUCED, log entry 174). -/
def redigest (s : State) (k : Nat) : State × Bool :=
  let d := bankDom k
  if d < 50 ∧ ((s.domStat d).stale = true ∨ (s.domStat d).partial_ = true) then
    let s := s.setDomStat d { s.domStat d with stale := true }
    commitDigest (s.bump .stat 0 STAT_CNT_STALE) k (staleDigest s k)
  else commitDigest s k (latchedDigest s k)

end Sys2Proof.Machine
end

