-- ==== Sys2Proof/Machine/Cores.lean ====
section
/-! DEFINITION. Cores: registers and the visibility rule, status, wake condition, store buffer and local SRAM, traps,
reservations, stopping and loading of images; the state of a meadow. -/

namespace Sys2Proof.Machine

/-! Status and wake -/

/-- The core whose inputs, mailbox, number and private registers core r sees: the lower core of its pair (R377, R378). -/
def face (s : State) (r : Nat) : Nat := if (s.core r).lockstep then r / 2 * 2 else r

/-- The cores that run as r: both of a pair, else r alone. -/
def pairOf (s : State) (r : Nat) : List Nat :=
  if (s.core r).lockstep then [r / 2 * 2, r / 2 * 2 + 1] else [r]

/-- CST.EVP bit j: the input has an event delivered and not acknowledged (R318, R342). -/
abbrev evpBit (s : State) (r j : Nat) : Bool := decide ((s.ti (tiCore (face s r) j)).phase = .busy)

/-- CST.MBP (R395). -/
def mbp (s : State) (r : Nat) : Bool :=
  let f := face s r
  decide (0 < qCount s (0xD8200 + f)) ||
    (bit (s.reg .meadow (r / 8) MEADOW_MBX) (f % 8) && decide (0 < qCount s (0xD8300 + r / 8)))

/-- CST as an MFSR reads it (R318, R354). -/
def cstNow (s : State) (r : Nat) : Word :=
  let c := s.core r
  let ev := ((List.range 4).map fun j => bnat (evpBit s r j) * 2 ^ j).sum
  let w := setBits (setBits c.cst 11 8 ev) 13 13 (bnat (mbp s r))
  setBits (setBits w 17 16 c.role) 18 18 (bnat c.lockstep)

/-- The lowest event input whose EVE bit is set in `cst` and that has an event (R349). -/
def eventCause (s : State) (r : Nat) (cst : Word) : Option Nat :=
  (List.range 4).find? fun j => bit cst (4 + j) && evpBit s r j

/-- The wake-pending condition of R341. -/
def wakeCond (s : State) (r : Nat) : Bool :=
  let w := (s.core r).cst
  (eventCause s r w).isSome || (bit w 12 && mbp s r)

/-! Registers (R316, R352) -/

/-- A special register written, with its read-only fields and reserved bits (R317 to R319). Number 31, which names no register,
stands for what RETT does to CST: IE takes bit 0, IN_TRAP is cleared (R347). -/
def CoreState.writeSr (c : CoreState) (n : Nat) (v : Word) : CoreState :=
  match n with
  | 0 => { c with cst := (v &&& 0x10FF#32) ||| (c.cst &&& 0x4000#32) }
  | 1 => { c with tvec := v &&& 0xFFFFFFFC#32 }
  | 2 => { c with tpc := v &&& 0xFFFFFFFC#32 }
  | 3 => { c with tcause := v &&& 0x1F#32 }
  | 4 => { c with tval := v }
  | 5 => { c with trep := v &&& 0xFFFF#32 }
  | 6 => { c with qid := v &&& 0xFFFFF#32 }
  | 31 => { c with cst := setBits (setBits c.cst 0 0 (bits v 0 0)) 2 2 0 }
  | _ => c

/-- A result reaches its register; g0 is never written. -/
def CoreState.commit (c : CoreState) : RegWrite → CoreState
  | .g n v => if n = 0 then c else { c with g := tset 0 c.g n.toNat v }
  | .sr n v => c.writeSr n.toNat v

/-- A general register as the next instruction reads it (R316, R352). -/
def CoreState.greg (c : CoreState) (n : Reg) : Word := if n = 0 then 0 else tget 0 c.g n.toNat

/-- Every result on its way is written, oldest first. -/
def CoreState.flush (c : CoreState) : CoreState :=
  { c.w1.foldl CoreState.commit (c.w2.foldl CoreState.commit c) with w1 := [], w2 := [] }

/-- The writes of one executed instruction enter the pipeline, and those of the one before the last are made (R352). -/
def CoreState.shift (c : CoreState) (ws : List RegWrite) : CoreState :=
  let d := c.w2.foldl CoreState.commit c
  { d with w2 := c.w1, w1 := ws, icount := c.icount + 1, gov := c.cst }

/-- The queue a queue instruction uses: QID with every earlier write in it (log entry 15). -/
def CoreState.curQid (c : CoreState) : Nat :=
  let last := (c.w2 ++ c.w1).foldl (fun (v : Word) w => match w with | .sr 6 x => x &&& 0xFFFFF#32 | _ => v) c.qid
  last.toNat

/-! Local SRAM and the store buffer (R359 to R367) -/

abbrev localSize : Nat := 0x10000

/-- The word of local SRAM at `a` is found uncorrectable, or poisoned, by a read. -/
abbrev CoreState.bad (c : CoreState) (a : Nat) : Bool := eccBad (tget 0 c.sramErr (a / 8))

/-- A read of local SRAM found the word at `a` uncorrectable (R359). -/
def notePoison (s : State) (r a : Nat) (fetch : Bool) : State :=
  (s.bumpPriv r CORE_CNT_SRAM_POISON).setPriv r CORE_SRAM_ERR_ADDR (w32 (a / 8 * 8 + 0x10000 + 0x20000 * bnat fetch))

/-- A read of the word of local SRAM at `a`: a single-bit error is corrected and counted; whether the word is poisoned (R359). -/
def localCheck (s : State) (r a : Nat) (fetch : Bool) : State × Bool :=
  let c := s.core r
  if tget 0 c.sramErr (a / 8) = 0 then (s, false)
  else
    let x := checkWord c.sram c.sramErr (a / 8)
    let s := s.setCore r { c with sram := x.mem, sramErr := x.errs }
    match x.found with
    | .good => (s, false)
    | .fixed => (s.bumpPriv r CORE_CNT_SRAM_CORR, false)
    | .bad => (notePoison s r a fetch, true)

/-- The valid bytes of an entry written over memory. -/
def sbApply (m : Table Byte) (e : SbEntry) : Table Byte :=
  (List.range 8).foldl (fun m k => match e.bytes.getD k none with | some b => tset 0 m (8 * e.word + k) b | none => m) m

/-- A repeat is under way and not in its last iteration: the core fetches nothing (R360, R370). -/
def repeats (c : CoreState) : Bool := c.rep.any fun p => p.body.isSome && decide (1 < p.left)

/-- A round of the local port served data; whether a fetch was pending is not stated, but that none is while a repeat is under way
(R360, log entry 13). -/
def fetchLost (s : State) (r : Nat) : State :=
  let n := if repeats (s.core r) then 0 else s.drawn.toNat % 2
  let s := s.draw
  s.setPriv r CORE_CNT_FETCH_LOST (w32 (satTo 0xFFFFFFFF ((s.priv' r CORE_CNT_FETCH_LOST).toNat + n)))

/-- The oldest store-buffer entry drains (R362). -/
def drainOne (s : State) (r : Nat) : State :=
  match (s.core r).sb with
  | [] => s
  | e :: rest =>
    let s := (fetchLost s r).modCore r fun c => { c with sb := rest }
    let s := if (List.range 8).all fun k => (e.bytes.getD k none).isSome then s.modCore r fun c => { c with sramErr := tset 0 c.sramErr e.word 0 }
      else (localCheck s r (8 * e.word) false).1
    s.modCore r fun c => { c with sram := sbApply c.sram e }

/-- The buffer drains completely (R364). -/
def drainAll (s : State) (r : Nat) : State := foldTo (s.core r).sb.length (fun s _ => drainOne s r) s

/-- Entries drain, oldest first, until none covers the word of address `a` (R363, R367). -/
def drainFor (s : State) (r : Nat) (hit : SbEntry → Bool) : State :=
  foldTo (s.core r).sb.length (fun s _ => if (s.core r).sb.any hit then drainOne s r else s) s

/-! Reservations (R392 to R394) -/

/-- The core's reservation goes, with its entry in a meadow's table. -/
def dropRsv (s : State) (r : Nat) : State :=
  match (s.core r).rsv with
  | none => s
  | some g =>
    let s := s.modCore r fun c => { c with rsv := none }
    if 0x10000000 ≤ g then
      s.modMeadow ((g - 0x10000000) / 0x100000) fun x => { x with rsv := x.rsv.filter fun e => decide (e.req ≠ r) }
    else s

/-- A write by `req` to offset `off` of a meadow's SRAM removes the entries of other requesters on its granule. -/
def breakRsv (s : State) (m off req : Nat) : State :=
  s.modMeadow m fun x => { x with rsv := x.rsv.filter fun e => decide (e.granule ≠ off / 16 ∨ e.req = req) }

/-- Every entry of a meadow's table is removed. -/
def clearRsvs (s : State) (m : Nat) : State := s.modMeadow m fun x => { x with rsv := [] }

/-! Traps (R346, R350, R351) -/

/-- A core takes a trap; `trep` is the count TREP takes. -/
def trapCore (s : State) (r cause : Nat) (tval tpc : Word) (trep : Nat) : State :=
  let s := dropRsv s r
  let c := (s.core r).flush
  let cst := c.cst
  let cst := setBits cst 1 1 (bnat (bit cst 0))
  let cst := setBits cst 0 0 0
  let cst := setBits cst 3 3 (bnat (bit cst 3 || bit cst 2))
  let cst := setBits cst 2 2 1
  let c := { c with cst := cst, gov := cst, tpc := tpc, tcause := w32 cause, tval := tval, trep := w32 trep, pc := c.tvec,
                    rep := none, resume := 0, hang := none }
  let s := s.setCore r c
  let v := c.tvec.toNat
  let s := drainFor s r fun e => decide (e.word = v / 8)
  let s := (s.bumpPriv r CORE_CNT_TRAPS).bankAdd (bankMeadow (r / 8)) (3 * (r % 8) + 2) 1
  if localSize ≤ v then s.modCore r fun c => { c with st := .vectorStop }
  else
    let x := localCheck s r v true
    if x.2 then x.1.modCore r fun c => { c with st := .vectorStop } else x.1

/-- The device fault a trap cause raises (R286). -/
def trapFault (s : State) (r cause : Nat) (tval tpc : Word) : State :=
  match cause with
  | 10 => momentary s 0x36 r (d64 tval.toNat)
  | 11 => momentary s 0x3A r (d64 tval.toNat)
  | 13 => momentary s 0x37 r (d64 tpc.toNat)
  | _ => s

/-- A trap of r, taken by both cores of a pair (R377). -/
def takeTrap (s : State) (r cause : Nat) (tval tpc : Word) (trep : Nat) : State :=
  trapFault ((pairOf s r).foldl (fun s k => trapCore s k cause tval tpc trep) s) r cause tval tpc

/-- A synchronous trap of the instruction at PC, under R346 if it is repeated; `less` is 1 where the iteration counts as
complete. -/
def syncTrap (s : State) (r cause : Nat) (tval : Word) (less : Nat := 0) : State :=
  let c := s.core r
  match c.rep with
  | some p => takeTrap s r cause tval p.prefixPc (p.left - less)
  | none => takeTrap s r cause tval c.pc 0

/-! Meadow states and images -/

/-- A meadow changes state, and STATE_CHANGE fires (R218, R402). -/
def setMeadowSt (s : State) (m : Nat) (st : MeadowSt) : State :=
  if (s.meadow m).st = st then s else (s.modMeadow m fun x => { x with st := st }).fire1 (prodMeadow m)

abbrev meadowCores (m : Nat) : List Nat := (List.range 8).map fun c => 8 * m + c

/-- A core's private registers take their reset values (R381). -/
def clearPriv (s : State) (r : Nat) : State :=
  { s with priv := s.priv.filter fun p => decide (p.1 / 0x1000 ≠ r) }

/-- Steps 1 to 4 of R398: the core stops at an instruction boundary, and what it held outside is ended. A hung access is
withdrawn. -/
def coreStop (s : State) (r : Nat) : State :=
  let s := drainAll (accrue s (r / 8)) r
  let s := dropRsv (qLeave s r) r
  let s := (List.range 4).foldl (fun s j => tiEnd s (tiCore r j)) s
  s.modCore r fun c => { c with st := .held, hang := none, rep := none }

/-- The memory that the MEM records of a panel write; other bytes are 0 (R494). -/
def panelMem (p : Panel) : Table Byte := p.records.foldl (fun m r => if r.kind = 2 then memWrite m r.off r.data else m) []

/-- The value a REG record of a panel gives a register, by its offset from control space. -/
def panelReg (p : Panel) (off : Nat) : Option Word :=
  p.records.foldl (fun v r =>
    if r.kind = 1 ∧ r.off ≤ off ∧ off < r.off + 4 * r.count then some (w32 (leAt r.data (off - r.off) 4)) else v) none

/-- The image in force is written and the core starts at address 0 with its registers reset (R316, R398, R494). -/
def loadCore (s : State) (r : Nat) : State :=
  let lock := s.rbit .meadow (r / 8) MEADOW_CFG 0
  let c : CoreState :=
    match s.inForce r with
    | some p => { st := .running, sram := panelMem p, role := p.role }
    | none => { st := .running }
  (clearPriv s r).setCore r { c with lockstep := lock, upper := lock && decide (r % 2 = 1) }

/-- MEADOW_CFG.IMAGE_ROLE from the panels in force (R406, R497). -/
def imageRole (s : State) (m : Nat) : Nat :=
  match s.inForce (256 + m) with
  | some p => p.role
  | none => ((meadowCores m).findSome? fun r => (s.inForce r).map fun p => p.role).getD 0

abbrev cfgRole (s : State) (m : Nat) : Nat := s.fld .meadow m MEADOW_CFG 3 2

/-- The SRAM and every core of a meadow are loaded from the panels in force (R420, R503). -/
def loadMeadow (s : State) (m : Nat) : State :=
  let s := (meadowCores m).foldl coreStop s
  let mem := match s.inForce (256 + m) with | some p => panelMem p | none => []
  let s := (clearRsvs s m).modMeadow m fun x => { x with sram := mem, sramErr := [] }
  (meadowCores m).foldl loadCore s

/-- Everything a meadow's domain held is lost (R233, R392, R416). -/
def meadowLost (s : State) (m : Nat) : State :=
  let s := (clearRsvs s m).modMeadow m fun x => { x with sram := [], sramErr := [], sleepOff := false }
  let s := (meadowCores m).foldl (fun s r => (clearPriv (dropRsv s r) r).setCore r {}) s
  (List.range 32).foldl (fun s j => tiLost s (tiCore (8 * m) j)) s

/-- A meadow's cores are asleep: every one waits or is stopped, and at least one waits (R416). -/
def asleep (s : State) (m : Nat) : Bool :=
  ((meadowCores m).all fun r =>
    match (s.core r).st with | .waiting | .held | .vectorStop | .lockstepStop => true | _ => false) &&
  ((meadowCores m).any fun r => decide ((s.core r).st = .waiting))

/-- A core of the meadow waits and its wake condition is true (R417). -/
def wakeWaiting (s : State) (m : Nat) : Bool :=
  (meadowCores m).any fun r => decide ((s.core r).st = .waiting) && wakeCond s r

/-- The device changes state, and STATE_CHANGE fires (R218, R423). -/
def setDev (s : State) (d : DevSt) : State := if s.dev = d then s else ({ s with dev := d }).fire1 (prodSeq 2)

/-- The meadow leaves Rest; a device in DOZE returns to RUN with it (R416, R424). -/
def leaveRest (s : State) (m : Nat) : State :=
  if (s.meadow m).st = .rest then
    let s := setMeadowSt (accrue s m) m .active
    if s.dev = .doze then setDev s .run else s
  else s

end Sys2Proof.Machine
end

