-- ==== Sys2Proof/Machine/Trig.lean ====
section
/-! DEFINITION. Sines in whole numbers, scaled by 2^60, for the DFT of R275 and the sun of R187; angles are millionths of a turn. -/

namespace Sys2Proof.Machine

abbrev trigOne : Int := 2 ^ 60

/-- The alternating series 1 - x²/d₁ (1 - x²/d₂ (…)). -/
def trigSeries (x2 : Int) (ds : List Int) : Int := ds.foldr (fun d acc => trigOne - x2 * acc / trigOne / d) trigOne

/-- Cosine and sine of an angle of the first quarter turn. -/
def quarterTrig (x : Int) : Int × Int :=
  let x2 := x * x / trigOne
  (trigSeries x2 [2, 12, 30, 56, 90, 132, 182, 240, 306, 380, 462],
    x * trigSeries x2 [6, 20, 42, 72, 110, 156, 210, 272, 342, 420, 506] / trigOne)

/-- Cosine and sine of `u` millionths of a turn. -/
def turnTrig (u : Nat) : Int × Int :=
  let v := u % 1000000
  let p := quarterTrig ((v % 250000 : Nat) * 1811004864519280711 / 250000)
  match v / 250000 with
  | 0 => p
  | 1 => (-p.2, p.1)
  | 2 => (-p.1, -p.2)
  | _ => (p.2, -p.1)

/-- The same for an angle of either sign. -/
def angleTrig (u : Int) : Int × Int := turnTrig (u.emod 1000000).toNat

end Sys2Proof.Machine
end

