-- ==== Sys2Proof/Machine/Swath.lean ====
section
/-! DEFINITION. Light control and traffic measurement of a lane: effective levels, changes, LEVEL frames to be built,
the calendar, detections, raise sets, holds, exits, entries and overrides. -/

namespace Sys2Proof.Machine

/-- The lane transmits frames: ENUMERATING or OPERATING (R30). -/
abbrev laneTx (s : State) (l : Nat) : Bool := decide ((s.lane l).st = .enumerating ∨ (s.lane l).st = .operating)

abbrev lreg (s : State) (l off : Nat) : Word := s.reg .lane l off
abbrev bumpLane (s : State) (l off : Nat) : State := s.bump .lane l off

/-- A register of the swath node table (R212). -/
abbrev nreg (s : State) (l n off : Nat) : Word := s.reg .lane l (off + 0x40 * (n - 1))

/-! Levels (R176) -/

abbrev calDefault (s : State) (l : Nat) : Nat := bits (lreg s l LANE_CAL_CFG) 9 0

/-- Present base and RAMP of a profile (R188, R189). -/
def baseOf (s : State) (l p : Nat) : Nat × Nat := (tfind (s.lane l).bases p).getD (calDefault s l, 0)

abbrev profileOf (s : State) (l n : Nat) : Nat := bits (nreg s l n LANE_SW_NODE_CFG) 2 0
abbrev capOf (s : State) (l n : Nat) : Nat := bits (nreg s l n LANE_SW_NODE_CAP) 9 0

/-- The override that decides a node's level, if any: its LEVEL. -/
def overrideOf (s : State) (l n : Nat) : Option Nat :=
  let o := nreg s l n LANE_SW_NODE_OVR
  let g := lreg s l LANE_OVR
  if bit o 10 then some (bits o 9 0) else if bit g 10 then some (bits g 9 0) else none

/-- The greater of base and swath. -/
def wanted (s : State) (l n : Nat) : Nat := max (baseOf s l (profileOf s l n)).1 ((s.node l n).swath)

/-- The effective level L. -/
def level (s : State) (l n : Nat) : Nat :=
  match overrideOf s l n with
  | some v => v
  | none => min (wanted s l n) (capOf s l n)

/-! Changes (R177 to R184) -/

/-- A change exists for an assigned node: L differs from what was last sent, or a refresh is due. -/
def changed (s : State) (l n : Nat) : Bool :=
  let x := s.node l n
  decide (x.assigned = true) &&
    (x.refreshDue || (match x.sent with | none => true | some (v, _, _) => decide (v ≠ level s l n)))

/-- Order of precedence of R182's rows after the raise. -/
def Cause.rank : Cause → Nat
  | .refresh => 1 | .override _ => 2 | .fade _ => 3 | .base _ => 4 | .other => 5 | .none => 6

def Cause.ramp : Cause → Nat
  | .override r => r | .fade r => r | .base r => r | _ => 0

/-- A gathered change waits: a window opens unless one is open, and a change that the cap holds is counted once
(R179, R180). -/
def gather (s : State) (l n : Nat) : State :=
  let x := s.lane l
  if x.gatherHeld then
    if (x.node n).capHeld then s
    else (s.modNode l n fun y => { y with capHeld := true }).bump .lane l LANE_SW_CNT_CAP_HELD
  else match x.gatherEnd with
    | some _ => s
    | none => s.modLane l fun x => { x with gatherEnd := some (s.uptime + 20000000) }

/-- Histories reach back 200 s and to the entry before, which covers every window (R275, R277); oldest first. -/
def recent {α : Type} (now : Nat) (h : List (Nat × α)) : List (Nat × α) :=
  let old := h.filter fun p => decide (p.1 + 200000000000 < now)
  old.drop (old.length - 1) ++ h.filter fun p => decide (now ≤ p.1 + 200000000000)

/-- Something that bears on a node's level has happened: L is computed again, and a change becomes pending. -/
def touch (s : State) (l n : Nat) (c : Cause) (raised : Bool := false) : State :=
  let v := level s l n
  let x := s.node l n
  let up := decide (x.lSeen < v)
  let x := if v = x.lSeen then x else { x with lSeen := v, lHist := recent s.uptime x.lHist ++ [(s.uptime, v)] }
  let x := if c.rank ≤ x.cause.rank then { x with cause := c } else x
  let s := s.modNode l n fun _ => x
  if changed s l n = false then s.modNode l n fun y => { y with cause := .none, raiseDue := false, capHeld := false }
  else if laneTx s l = false then s
  else if raised && up then
    (s.modNode l n fun y => { y with raiseDue := true }).modLane l fun y => { y with raisePending := true }
  else if x.raiseDue then s
  else gather s l n

/-- Every node of the lane is touched. -/
def touchAll (s : State) (l : Nat) (c : Cause) : State := foldTo 128 (fun s k => touch s l (k + 1) c) s

/-- Nodes with a pending change, in ascending address. -/
def changedNodes (s : State) (l : Nat) : List Nat :=
  ((s.lane l).nodes.map fun p => p.1).filter fun n => changed s l n

/-- The entry of a node in the frame now built (R182). -/
def entryOf (s : State) (l : Nat) (catchup : Bool) (n : Nat) : LevelEntry :=
  let x := s.node l n
  let ramp := if x.raiseDue || catchup || x.refreshDue then 0 else x.cause.ramp
  ⟨n, level s l n, ramp⟩

/-- The node's change has gone into a frame that starts now. -/
def markSent (s : State) (l : Nat) (e : LevelEntry) : State :=
  s.modNode l e.node fun x =>
    { x with sent := some (e.level, e.ramp, s.uptime), cause := .none, raiseDue := false, refreshDue := false,
             capHeld := false,
             ramps := recent s.uptime x.ramps ++ [(s.uptime, s.uptime + e.ramp * 100000000)] }

/-- Instants of the last second. -/
def lastSecond (now : Nat) (l : List Nat) : List Nat := l.filter fun a => decide (now < a + 1000000000)

/-- The counts of a LEVEL frame that starts now. -/
def levelStarted (s : State) (l : Nat) (gathered : Bool) : State :=
  let s := bumpLane s l LANE_SW_CNT_LEVEL_FRAMES
  s.modLane l fun x =>
    { x with levelStarts := lastSecond s.uptime x.levelStarts ++ [s.uptime],
             gatherStarts := if gathered then lastSecond s.uptime x.gatherStarts ++ [s.uptime] else x.gatherStarts }

/-- What a STATUS of a node says about its level (R184). -/
def statusLevel (s : State) (l n applied : Nat) (failsafe : Bool) : State :=
  let x := s.node l n
  let differs := match x.sent with
    | some (v, ramp, at_) => decide (applied ≠ v) && decide (at_ + ramp * 100000000 + 1000000000 ≤ s.uptime)
    | none => false
  if (differs || failsafe) && !x.refreshDue then
    let s := s.modNode l n fun y => { y with refreshDue := true }
    touch (bumpLane s l LANE_SW_CNT_REFRESH) l n .refresh
  else s

/-! The calendar (R185 to R189) -/

/-- Offset in force, in minutes, at a UTC second (R186). -/
def tzOffset (s : State) (l : Nat) (u : Int) : Int :=
  ((List.range 8).foldl (fun (best : Int × Int) j =>
    let hi := lreg s l (LANE_CAL_TZ_HI + 8 * j)
    let start : Int := (lreg s l (LANE_CAL_TZ_LO + 8 * j)).toNat + 2 ^ 32 * (bits hi 7 0)
    if bit hi 8 ∧ start ≤ u ∧ best.1 ≤ start then (start, sint 16 (bits hi 31 16)) else best) (-1, 0)).2

/-- Local seconds at a UTC second. -/
def localSec (s : State) (l : Nat) (u : Int) : Int := u + 60 * tzOffset s l u

abbrev localDay (s : State) (l : Nat) (u : Int) : Int := localSec s l u / 86400

/-- The first UTC second whose local time is at or after `target` (R187): one of the target less an offset, or a start. -/
def firstAt (s : State) (l : Nat) (target : Int) : Option Int :=
  let starts := (List.range 8).filterMap fun j =>
    let hi := lreg s l (LANE_CAL_TZ_HI + 8 * j)
    if bit hi 8 then some (((lreg s l (LANE_CAL_TZ_LO + 8 * j)).toNat : Int) + 2 ^ 32 * (bits hi 7 0)) else none
  let offs := (List.range 8).filterMap fun j =>
    let hi := lreg s l (LANE_CAL_TZ_HI + 8 * j)
    if bit hi 8 then some (target - 60 * sint 16 (bits hi 31 16)) else none
  let cands := (target :: offs ++ starts).filter fun u => decide (target ≤ localSec s l u)
  cands.foldl (fun b u => match b with | none => some u | some v => some (if u < v then u else v)) none

/-! The sun (R185, R187). Its place is that of the almanac's low-precision formula, which holds to 0.01 degree (PRESUMED, log
entry 18). -/

/-- An angle of `a` + `r` d in 10^-8 degree, `t` being d in seconds. -/
def almanac (a r t : Int) : Int := (a * 86400 + r * t) / 3110400000

/-- Sine of the elevation of the sun's centre at UTC second `u`, at a latitude and longitude in 10^-4 degree. -/
def sinElevation (lat lon u : Int) : Int :=
  let t := u - 946728000
  let g := almanac 35752800000 98560030 t
  let lam := almanac 28046000000 98564740 t + (53194 * (angleTrig g).2 + 556 * (angleTrig (2 * g)).2) / (10 * trigOne)
  let th := almanac 28046062000 36098564737 t + lon * 5 / 18
  let ec := turnTrig 65108
  let x := (angleTrig lam).1
  let y := ec.1 * (angleTrig lam).2 / trigOne
  let z := ec.2 * (angleTrig lam).2 / trigOne
  let phi := angleTrig (lat * 5 / 18)
  let h := angleTrig th
  (phi.2 * z + phi.1 * ((x * h.1 + y * h.2) / trigOne)) / trigOne

/-- Sine of the elevation an event of a kind stands for: -0.833 and -6 degrees. -/
def kindSine (kind : Nat) : Int := if kind < 4 then (turnTrig 997686).2 else (turnTrig 983333).2

/-- The second at which a condition begins to hold, by halving an interval at whose end it holds. -/
def bisect (p : Int → Bool) : Nat → (lo hi : Int) → Int
  | 0, _, hi => hi
  | n + 1, lo, hi =>
    let mid := (lo + hi) / 2
    if hi ≤ lo + 1 then hi else if p mid then bisect p n lo mid else bisect p n mid hi

/-- The crossing of a kind in solar day `k` at a place, in UTC seconds: in the morning the sun rises through the elevation between
midnight and noon by mean sun, in the evening it sinks through it after noon. -/
def crossingOf (kind : Nat) (lat lon k : Int) : Option Int :=
  let noon := k * 86400 + 43200 - lon * 24 / 1000
  let above := fun u => decide (kindSine kind ≤ sinElevation lat lon u)
  if kind % 2 = 0 then
    if above (noon - 43200) = false ∧ above noon = true then some (bisect above 17 (noon - 43200) noon) else none
  else if above noon = true ∧ above (noon + 43200) = false then some (bisect (fun u => !above u) 17 noon (noon + 43200))
  else none

/-- The crossing a lane computes: within a minute of the true one at latitudes up to 65 degrees, within five nearer the poles; by
how much it is off is free (log entry 18). -/
def computedCrossing (kind : Nat) (lat lon k : Int) : Option Int :=
  let tol : Int := if lat.natAbs ≤ 650000 then 60 else 300
  (crossingOf kind lat lon k).map fun u => u + max (-tol) (min tol (Config.sunError kind lat lon k))

/-- The crossing of a kind that takes place on local day `d` of a lane, in UTC seconds; none where none does. -/
def sunOn (s : State) (l kind : Nat) (d : Int) : Option Int :=
  [d - 1, d, d + 1].findSome? fun k =>
    match computedCrossing kind (sint 32 (lreg s l LANE_CAL_LAT).toNat) (sint 32 (lreg s l LANE_CAL_LON).toNat) k with
    | some u => if localDay s l u = d then some u else none
    | none => none

/-- The instant of event `i` on local day `d`, in UTC seconds (R185, R187). -/
def eventAt (s : State) (l i : Nat) (d : Int) : Option Int :=
  let a := lreg s l (LANE_CAL_EV_A + 0x10 * i)
  let b := lreg s l (LANE_CAL_EV_B + 0x10 * i)
  let c := lreg s l (LANE_CAL_EV_C + 0x10 * i)
  let kind := bits a 3 0
  if bit c (monthOf d) = false ∨ bit b (24 + weekday d) = false then none
  else if kind = 1 then firstAt s l (d * 86400 + 60 * bits a 31 16)
  else if 2 ≤ kind ∧ kind ≤ 5 then (sunOn s l kind d).map fun u => u + 60 * sint 16 (bits a 31 16)
  else none

/-- Occurrences on local days [d0, d0 + n), as instant and event. -/
def occurrences (s : State) (l : Nat) (d0 : Int) (n : Nat) : List (Int × Nat) :=
  (List.range n).flatMap fun (k : Nat) =>
    (List.range 32).filterMap fun i => (eventAt s l i (d0 + k)).map fun u => (u, i)

/-- Insert in order of instant, then of event. -/
def insOcc (x : Int × Nat) : List (Int × Nat) → List (Int × Nat)
  | [] => [x]
  | y :: r => if x.1 < y.1 ∨ x.1 = y.1 ∧ x.2 ≤ y.2 then x :: y :: r else y :: insOcc x r

/-- Event `i` sets the base of its profiles. -/
def setEvent (s : State) (l i : Nat) : State :=
  let a := lreg s l (LANE_CAL_EV_A + 0x10 * i)
  let b := lreg s l (LANE_CAL_EV_B + 0x10 * i)
  (List.range 8).foldl (fun s p =>
    if bit a (8 + p) then s.modLane l fun x => { x with bases := tput p (some (bits b 9 0, bits b 22 16)) x.bases }
    else s) s

/-- Nodes whose profile's base may have changed carry its RAMP. -/
def touchBases (old s : State) (l : Nat) : State :=
  foldTo 128 (fun s k =>
    let p := profileOf s l (k + 1)
    touch s l (k + 1) (if baseOf old l p = baseOf s l p then .other else .base (baseOf s l p).2)) s

/-- Bases are set afresh (R189). -/
def setBases (s : State) (l : Nat) : State :=
  let old := s
  let s := s.modLane l fun x => { x with bases := [], calSeen := if s.timeSet then some s.utcSec else none }
  let s := if s.timeSet then
      let u : Int := s.utcSec
      let d := localDay s l u
      let os := (occurrences s l (d - 7) 8).filter fun o => decide (o.1 ≤ u)
      (os.foldr insOcc []).foldl (fun s o => setEvent s l o.2) s
    else s
  touchBases old s l

/-- CALENDAR_OCCURRENCE: occurrences since the last look are served in order (R188). -/
def calendarServe (s : State) (l : Nat) : State :=
  match (s.lane l).calSeen, s.timeSet with
  | some seen, true =>
    let u : Int := s.utcSec
    let d0 := localDay s l seen - 1
    let n := (localDay s l u + 2 - d0).toNat
    let os := (occurrences s l d0 n).filter fun o => decide ((seen : Int) < o.1 ∧ o.1 ≤ u)
    let os := os.foldr insOcc []
    let s := s.modLane l fun x => { x with calSeen := some s.utcSec }
    if os = [] then s else touchBases s (os.foldl (fun s o => setEvent s l o.2) s) l
  | none, true => s.modLane l fun x => { x with calSeen := some s.utcSec }
  | _, false => s

/-- SUN_COMPUTE: LANE_CAL_SUN of the present local date (R187, R209). -/
def sunServe (s : State) (l : Nat) : State :=
  if s.timeSet then
    let d := localDay s l s.utcSec
    let f := fun k hi lo vb (w : Word) => match sunOn s l k d with
      | some u => setBits (setBits w hi lo ((localSec s l u - d * 86400) / 60).toNat) vb vb 1
      | none => w
    s.setReg .lane l LANE_CAL_SUN (f 3 26 16 28 (f 2 10 0 27 0))
  else s

/-! Holds, raises, exits (R193 to R196) -/

abbrev swActive (s : State) (l : Nat) : Bool := bit (lreg s l LANE_SW_CFG) 0 && laneTx s l

/-- The eight bytes of a list, ended by its first 0 (R190). -/
def listBytes (lo hi : Word) : List Nat :=
  ((List.range 8).map fun k => if k < 4 then bits lo (8 * k + 7) (8 * k) else bits hi (8 * (k - 4) + 7) (8 * (k - 4))).takeWhile
    fun b => decide (b ≠ 0)

def aheadList (s : State) (l n : Nat) (dirB : Bool) : List Nat :=
  if dirB then listBytes (nreg s l n LANE_SW_NODE_AHEAD_B_LO) (nreg s l n LANE_SW_NODE_AHEAD_B_HI)
  else listBytes (nreg s l n LANE_SW_NODE_AHEAD_A_LO) (nreg s l n LANE_SW_NODE_AHEAD_A_HI)

/-- A node is named in a raise set whose direction is `dir` (R194). -/
def nameNode (s : State) (l dir n : Nat) : State :=
  let p := lreg s l LANE_SW_PARAM
  let x := s.node l n
  let was := decide (x.phase = .held)
  let s := s.modNode l n fun x =>
    { x with phase := .held, holdEnd := max x.holdEnd (s.uptime + bits p 27 18 * 1000000000), swath := bits p 9 0,
             dir := dir }
  if was then touch s l n .other
  else touch ((bumpLane s l LANE_SW_CNT_RAISE).bankAdd l 3 1) l n .other true

/-- Exits named in a raise set: held, and those that were idle fire together with this hop count (R195). -/
def nameExits (s : State) (l hop : Nat) (ks : List Nat) : State :=
  let hold := bits (lreg s l LANE_SW_PARAM) 27 18 * 1000000000
  let idle := ks.filter fun k => (tfind (s.lane l).exits k).isNone
  let s := ks.foldl (fun s k =>
    let old := (tfind (s.lane l).exits k).getD 0
    let s := bumpLane s l (if k ∈ idle then LANE_SW_CNT_EXIT_FIRED else LANE_SW_CNT_EXIT_HELD)
    s.modLane l fun x => { x with exits := tput k (some (max old (s.uptime + hold))) x.exits }) s
  if idle = [] then s else s.fire (idle.map fun k => (prodLane l k, hop))

/-- A raise set takes effect: nodes, then exits. -/
def raiseSet (s : State) (l dir hop : Nat) (set : List Nat) : State :=
  let set := set.eraseDups
  let s := (set.filter fun b => decide (1 ≤ b ∧ b ≤ 128)).foldl (fun s n => nameNode s l dir n) s
  nameExits s l hop ((set.filter fun b => decide (0xE0 ≤ b ∧ b ≤ 0xE7)).map fun b => b - 0xE0)

/-! Detections (R192, R199 to R201) -/

/-- Edge E_i of the speed histogram, in km/h. -/
abbrev speedEdge (s : State) (l i : Nat) : Nat :=
  bits (lreg s l (LANE_SPEED_EDGE_0 + 4 * ((i - 1) / 4))) (8 * ((i - 1) % 4) + 7) (8 * ((i - 1) % 4))

/-- Bin of a transit over `sp` tenths of a metre in `dt` microseconds. -/
def speedBin (s : State) (l sp dt : Nat) : Nat :=
  ((List.range 15).filter fun k => decide (speedEdge s l (k + 1) * dt ≤ 360000 * sp)).length

abbrev predOf (s : State) (l n : Nat) (dirB : Bool) : Nat :=
  if dirB then bits (nreg s l n LANE_SW_NODE_CFG) 23 16 else bits (nreg s l n LANE_SW_NODE_CFG) 15 8

abbrev spacingOf (s : State) (l n : Nat) (dirB : Bool) : Nat :=
  if dirB then bits (nreg s l n LANE_SW_NODE_SPACING) 31 16 else bits (nreg s l n LANE_SW_NODE_SPACING) 15 0

/-- The candidate of one direction, and whether an implausible transit was seen. -/
def candOf (s : State) (l n t : Nat) (dirB : Bool) : Option Nat × Bool :=
  let p := predOf s l n dirB
  let win := bits (lreg s l LANE_SW_PARAM2) 17 8 * 100000
  if 1 ≤ p ∧ p ≤ 128 then
    match (s.node l p).lastDet with
    | some (u, false) =>
      let dt := t - u
      let sp := spacingOf s l n dirB
      if u < t ∧ dt ≤ win then
        if sp = 0 ∨ 360000 * sp ≤ 250 * dt then (some u, false) else (none, true)
      else (none, false)
    | _ => (none, false)
  else if 0xD0 ≤ p ∧ p ≤ 0xD7 then
    match tfind (s.lane l).entryLast (p - 0xD0) with
    | some e => (if e ≤ t ∧ t - e ≤ win then some e else none, false)
    | none => (none, false)
  else (none, false)

/-- Direction of a detection from its candidates: 0 A, 1 B, 2 unknown. -/
def direction : Option Nat → Option Nat → Nat
  | some _, none => 0
  | none, some _ => 1
  | some a, some b => if a < b then 1 else if b < a then 0 else 2
  | none, none => 2

/-- A known direction matches its predecessor and bins the transit (R192, R201). -/
def matchPred (s : State) (l n t dir : Nat) : State :=
  let p := predOf s l n (decide (dir = 1))
  if dir < 2 ∧ 1 ≤ p ∧ p ≤ 128 then
    match (s.node l p).lastDet with
    | some (u, _) =>
      let s := s.modNode l p fun x => { x with lastDet := some (u, true) }
      let sp := spacingOf s l n (decide (dir = 1))
      if sp ≠ 0 then s.bankAdd l (4 + speedBin s l sp (t - u)) 1 else s
    | none => s
  else s

/-- The raise set of a detection (R193). -/
def detRaise (s : State) (l n dir : Nat) : List Nat :=
  let p := lreg s l LANE_SW_PARAM
  let known := fun b => (aheadList s l n b).take (bits p 13 10)
  let unk := fun b => (aheadList s l n b).take (bits p 17 14)
  (match dir with
    | 0 => known false
    | 1 => known true
    | _ => unk false ++ unk true) ++ (if bit (lreg s l LANE_SW_CFG) 1 then [n] else [])

/-- A DET of node `n` at town microsecond `t` that passed R66, with its class bin. -/
def swathDet (s : State) (l n t cls : Nat) : State :=
  let s := bumpLane s l LANE_SW_CNT_DET
  let late := match (s.node l n).lastDet with | some (u, _) => decide (t ≤ u) | none => false
  let (s, dir) :=
    if late then (bumpLane s l LANE_SW_CNT_OUT_OF_ORDER, 2)
    else
      let (ca, ia) := candOf s l n t false
      let (cb, ib) := candOf s l n t true
      let s := s.bumpBy .lane l LANE_SW_CNT_IMPLAUSIBLE (bnat ia + bnat ib)
      let dir := direction ca cb
      ((matchPred s l n t dir).modNode l n fun x => { x with lastDet := some (t, false) }, dir)
  let s := bumpLane s l (if dir < 2 then LANE_SW_CNT_DIR_KNOWN else LANE_SW_CNT_DIR_UNKNOWN)
  let s := s.bankAdd l (20 + 4 * (n - 1) + cls) 1
  let s := if n = bits (lreg s l LANE_SW_CFG) 15 8 then s.bankAdd l dir 1 else s
  if swActive s l then raiseSet s l dir 0 (detRaise s l n dir) else s

/-- ENTRYk: served once, then the input's task ends before its exits' events are delivered (R196, R219, R231). -/
def entryServe (s : State) (l k : Nat) : State :=
  if tiDue s (tiLane l k) then
    let hop := (s.ti (tiLane l k)).lastHop
    let cfg := lreg s l (LANE_ENTRY_CFG + 0x10 * k)
    if swActive s l && bit cfg 1 then
      let s := bumpLane s l LANE_SW_CNT_ENTRY_RUN
      let s := s.modLane l fun x => { x with entryLast := tput k (some s.townUs) x.entryLast }
      let s := tiEnd s (tiLane l k)
      let list := listBytes (lreg s l (LANE_ENTRY_LIST_LO + 0x10 * k)) (lreg s l (LANE_ENTRY_LIST_HI + 0x10 * k))
      raiseSet s l (bits cfg 0 0) (hop + 1) (list.take (bits (lreg s l LANE_SW_PARAM) 13 10))
    else tiEnd (bumpLane s l LANE_SW_CNT_ENTRY_IDLE) (tiLane l k)
  else s

/-- HOLD_EXPIRY: holds that have passed (R194, R195). -/
def holdExpire (s : State) (l : Nat) : State :=
  let fade := bits (lreg s l LANE_SW_PARAM2) 6 0
  let due := (s.lane l).nodes.filterMap fun p =>
    if p.2.phase = .held ∧ p.2.holdEnd ≤ s.uptime then some p.1 else none
  let s := due.foldl (fun s n =>
    touch (s.modNode l n fun x =>
      { x with phase := .fading, swath := 0, fadeEnd := s.uptime + fade * 100000000 }) l n (.fade fade)) s
  s.modLane l fun x => { x with exits := x.exits.filter fun p => decide (s.uptime < p.2) }

/-- FADE_END: fading nodes become idle (R194). -/
def fadeEnd (s : State) (l : Nat) : State :=
  let due := (s.lane l).nodes.filterMap fun p =>
    if p.2.phase = .fading ∧ p.2.fadeEnd ≤ s.uptime then some p.1 else none
  due.foldl (fun s n => s.modNode l n fun x => { x with phase := .idle }) s

/-! Overrides and parameters (R203 to R205) -/

/-- END of an override has come at town second `now` (R205). -/
def ovrOver (e : Word) (now : Nat) : Bool :=
  let d := (e.toNat + 2 ^ 32 - now % 2 ^ 32) % 2 ^ 32
  decide (e ≠ 0) && (decide (d = 0) || decide (2 ^ 31 ≤ d))

/-- OVERRIDE_END: overrides whose END has come lose ACTIVE (R205). -/
def overrideServe (s : State) (l : Nat) : State :=
  let now := s.townSec
  let g := lreg s l LANE_OVR
  let s := if bit g 10 && ovrOver (lreg s l LANE_OVR_END) now then
      touchAll (s.setReg .lane l LANE_OVR (setBits g 10 10 0)) l (.override (bits g 17 11))
    else s
  foldTo 128 (fun s k =>
    let n := k + 1
    let o := nreg s l n LANE_SW_NODE_OVR
    if bit o 10 && ovrOver (nreg s l n LANE_SW_NODE_OVR_END) now then
      touch (s.setReg .lane l (LANE_SW_NODE_OVR + 0x40 * k) (setBits o 10 10 0)) l n (.override (bits o 17 11))
    else s) s

/-- RAMP of the override that a write begins, rewrites or ends (R182). -/
def ovrRamp (old new : Word) : Nat := if bit new 10 then bits new 17 11 else bits old 17 11

/-- What follows a write of LANE_OVR or of LANE_SW_NODE_OVR of node `n`; `n` is 0 for the lane. -/
def ovrWritten (s : State) (l n : Nat) (old new : Word) : State :=
  if bit old 10 || bit new 10 then
    if n = 0 then touchAll s l (.override (ovrRamp old new)) else touch s l n (.override (ovrRamp old new))
  else s

/-- LANE_SW_PARAM after the clamps of R207: the limits, and whether any field was lowered (R203). -/
def limitParam (lim v : Word) : Word × Bool :=
  let w := setBits v 9 0 (min (bits v 9 0) (bits lim 9 0))
  let reach := min (bits v 13 10) (bits lim 13 10)
  let w := setBits w 13 10 reach
  let w := setBits w 17 14 (min (bits v 17 14) reach)
  let w := setBits w 27 18 (min (bits v 27 18) (bits lim 23 14))
  (w, decide (w ≠ v))

/-- A new LANE_SW_LIMIT lowers what lies above it, uncounted (R203). -/
def limitWritten (s : State) (l : Nat) : State :=
  s.setReg .lane l LANE_SW_PARAM (limitParam (lreg s l LANE_SW_LIMIT) (lreg s l LANE_SW_PARAM)).1

/-- The derate cap of a node changes (R182, R258). -/
def setCap (s : State) (l n cap : Nat) : State :=
  if capOf s l n = cap then s
  else touch (s.setReg .lane l (LANE_SW_NODE_CAP + 0x40 * (n - 1)) (w32 cap)) l n .other

end Sys2Proof.Machine
end

