-- ==== Sys2Proof/Machine/Wave.lean ====
section
/-! DEFINITION. The waveform summariser of a lane: windows, summaries, lamp faults, dropouts, feeder anomalies, link faults
and TDR results. -/

namespace Sys2Proof.Machine

/-! Figures of a window (R275) -/

/-- A quotient, rounded as the device rounds (log entry 19). -/
def rdiv (a b : Nat) : Nat := if b = 0 then 0 else a / b + bnat (decide (a % b ≠ 0) && Config.roundUp a b)

/-- A square root, rounded as the device rounds. -/
def rroot (x : Nat) : Nat := let r := isqrt x; r + bnat (decide (r * r ≠ x) && Config.roundUp x 0)

/-- Current of a sample code, in mA. -/
def codeMa (c : Nat) : Int := ((c : Int) - 0x800) * 2

/-- Sum of squares of the currents, in mA². -/
def sumSq (cs : List Nat) : Nat := (cs.map fun c => (codeMa c * codeMa c).toNat).sum

structure Figures where
  used : Nat
  rms : Nat
  peak : Nat
  crest : Nat
  harm : List Nat
  thd : Nat
  fund : Nat
  deriving DecidableEq, Repr

/-- Square of the magnitude of a single bin, at `freq` Hz: samples as microseconds into the window, which holds whole mains
cycles, and mA; in units of 2^-20 mA² (R275). -/
def binPower (xs : List (Nat × Int)) (freq : Nat) : Nat :=
  let re := (xs.map fun p => p.2 * (turnTrig (freq * p.1)).1).sum / 2 ^ 50
  let im := (xs.map fun p => p.2 * (turnTrig (freq * p.1)).2).sum / 2 ^ 50
  (re * re + im * im).toNat

/-- Figures of samples given as microseconds into their window and code (R275). -/
def figures (xs : List (Nat × Nat)) (rate mains : Nat) : Figures :=
  let cs := xs.map fun p => p.2
  let is := xs.map fun p => (p.1, codeMa p.2)
  let n := xs.length
  let rms := rroot (rdiv (sumSq cs) n)
  let peak := (is.map fun p => p.2.natAbs).foldl max 0
  let p1 := binPower is mains
  let harm := (List.range 6).map fun k =>
    let h := k + 2
    if h * mains * 2 < rate then
      (if p1 = 0 then Config.noFund h else rroot (rdiv (1000000 * binPower is (h * mains)) p1))
    else 0xFFFF
  let measured := harm.zipIdx.filter fun p => decide ((p.2 + 2) * mains * 2 < rate)
  { used := n, rms := rms, peak := peak, crest := if rms = 0 then 0 else rdiv (peak * 1000) rms, harm := harm,
    thd := rroot (measured.map fun p => p.1 * p.1).sum, fund := rroot (rdiv (2 * p1) (n * n * 2 ^ 20)) }

/-- A figure in a field of `w` bits. -/
def inField (w x : Nat) : Nat := if x < 2 ^ w then x else Config.tooWide x % 2 ^ w

/-! A lane's settings -/

abbrev sumWinUs (s : State) (l : Nat) : Nat := bits (lreg s l LANE_WS_CFG) 5 0 * 1000000
abbrev onMin (s : State) (l : Nat) : Nat := bits (lreg s l LANE_WS_CYCLE) 25 16
abbrev cycleSec (s : State) (l : Nat) : Nat := bits (lreg s l LANE_WS_CYCLE) 13 8 * 60
abbrev wsNode (s : State) (l n : Nat) : Word := lreg s l (LANE_WS_NODE_CFG + 0x20 * (n - 1))

/-- Position index of R247. -/
abbrev posIdx (l n : Nat) : Nat := l * 128 + (n - 1)

/-- The open life record of a position. -/
def openRec (s : State) (i : Nat) : Option LifeRec := tget none s.life.open_ i

/-- Drive class a node is judged by (R278). -/
def driveClass (s : State) (l n : Nat) : Nat :=
  let w := wsNode s l n
  if bit w 1 then bits w 5 2
  else match openRec s (posIdx l n) with
    | some r => if r.drive.toNat < 16 then r.drive.toNat else 0
    | none => 0

abbrev classA (s : State) (l n : Nat) : Word := lreg s l (LANE_WS_CLASS_A + 0x10 * driveClass s l n)
abbrev classB (s : State) (l n : Nat) : Word := lreg s l (LANE_WS_CLASS_B + 0x10 * driveClass s l n)

/-- L as it stood at an uptime. -/
def levelAt (x : Node) (at_ : Nat) : Nat :=
  match (x.lHist.filter fun p => decide (p.1 ≤ at_)).getLast? with
  | some p => p.2
  | none => match x.lHist.head? with
    | some _ => 1000
    | none => x.lSeen

/-- The uptime of a town microsecond. -/
def upOf (s : State) (us : Nat) : Nat := (s.uptime + us * 1000) - s.townUs * 1000

/-! Dropouts (R279) -/

/-- The samples of `n` 20 ms steps from `w` on. -/
def stepsOf (w n : Nat) (xs : List (Nat × Nat)) : List (List Nat) :=
  (List.range n).map fun k =>
    xs.filterMap fun p => if w + k * 20000 ≤ p.1 ∧ p.1 < w + (k + 1) * 20000 then some p.2 else none

/-- Runs of steps that are dark, the lamp being on and the RMS below I_OFF: the run at the end, and the step index at which each
run that reached five steps here began; a run begun earlier has a negative index. -/
def dropRuns : (k run : Nat) → List Bool → Nat × List Int
  | _, run, [] => (run, [])
  | k, run, dark :: r =>
    if dark then
      let (e, l) := dropRuns (k + 1) (run + 1) r
      (e, if run + 1 = 5 then ((k : Int) - 4) :: l else l)
    else dropRuns (k + 1) 0 r

/-- The samples of a node's window. -/
def windowOf (s : State) (l n w : Nat) : List (Nat × Nat) :=
  (s.wave l n).samples.filter fun p => decide (w ≤ p.1 ∧ p.1 < w + sumWinUs s l)

/-- Granted lamp-current rate of a node, 0 for none. -/
def grantedRate (s : State) (l n : Nat) : Nat :=
  match (s.node l n).grant with
  | some g => currentRate g.fc.toNat
  | none => 0

/-- The window has at least 90 % of its samples. -/
def enough (s : State) (l n w : Nat) : Bool :=
  decide (grantedRate s l n * (sumWinUs s l / 1000000) * 9 ≤ (windowOf s l n w).length * 10)

/-- The runs of `n` steps from `w` on. A step is dark with L at least ON_MIN at its beginning (R279). -/
def darkRuns (s : State) (l n w steps : Nat) : Nat × List Int :=
  let ioff := bits (classA s l n) 31 24
  dropRuns 0 (s.wave l n).run
    ((stepsOf w steps (s.wave l n).samples).zipIdx.map fun p =>
      decide (onMin s l ≤ levelAt (s.node l n) (upOf s (w + p.2 * 20000)))
        && decide (p.1 ≠ [] ∧ sumSq p.1 < ioff * ioff * p.1.length))

def dropsOf (s : State) (l n w : Nat) : Nat × List Int := darkRuns s l n w (sumWinUs s l / 20000)

/-- A dropout begins in the window; what has come of the 100 ms after it is looked at too (R285). -/
def dips (s : State) (l n w : Nat) : Bool :=
  let steps := sumWinUs s l / 20000
  (darkRuns s l n w (steps + 4)).2.any fun i => decide (0 ≤ i ∧ i < steps)

/-! Feeder flags (R285) -/

def nodeFigures (s : State) (l n w : Nat) : Figures :=
  figures ((windowOf s l n w).map fun p => (p.1 - w, p.2)) (grantedRate s l n) (if bit (lreg s l LANE_WS_CFG) 6 then 60 else 50)

def assignedNodes (s : State) (l : Nat) : List Nat :=
  (s.lane l).nodes.filterMap fun p => if p.2.assigned then some p.1 else none

/-- Judged nodes and nodes showing a flag. -/
def feederCount (s : State) (l w k : Nat) : Nat × Nat :=
  let win := sumWinUs s l
  let sts := fun n => ((s.wave l n).statuses.filter fun p => decide (w ≤ p.1 ∧ p.1 < w + win)).map fun p => p.2.1
  let js := (assignedNodes s l).filter fun n =>
    if k = 0 then !(sts n).isEmpty else decide (grantedRate s l n ≠ 0) && enough s l n w
  let f := lreg s l LANE_WS_FEEDER
  let shows := js.filter fun n =>
    match k with
    | 0 => (sts n).any fun v => decide (v < bits f 11 0 ∨ bits f 27 16 < v)
    | 1 => dips s l n w
    | _ => decide (bits (classB s l n) 25 16 < (nodeFigures s l n w).thd)
  (js.length, shows.length)

/-- Lowest SUPPLY of the window if it is below V_LO, else the highest. -/
def supplySeen (s : State) (l w : Nat) : Nat :=
  let vs := (assignedNodes s l).flatMap fun n =>
    ((s.wave l n).statuses.filter fun p => decide (w ≤ p.1 ∧ p.1 < w + sumWinUs s l)).map fun p => p.2.1
  let lo := vs.foldl min 0xFFF
  if vs = [] then 0 else if lo < bits (lreg s l LANE_WS_FEEDER) 11 0 then lo else vs.foldl max 0

/-- Element `i` of a list replaced. -/
def setAt {α : Type} (l : List α) (i : Nat) (v : α) : List α := l.set i v

/-- The feeder flags a window was given. -/
def flagsOf (s : State) (l w : Nat) : List Bool :=
  (((s.lane l).feederHist.find? fun p => decide (p.1 = w)).map fun p => p.2).getD [false, false, false]

/-- A condition is present (R287). -/
abbrev isPresent (s : State) (c sub : Nat) : Bool := decide ((c, sub) ∈ s.conds)

/-- A condition that was, or was not, present is judged. -/
def judgeCond (s : State) (now : Bool) (c sub : Nat) (detail : Dword) : State :=
  if now then condPresent s c sub detail else if isPresent s c sub then condGone s c sub (some detail) else s

/-- The feeder flags of window `w` are judged once, before its first summary; a window before the latest one judged is not judged
any more. -/
def judgeFeeder (s : State) (l w : Nat) : State :=
  if (s.lane l).feederWin.any fun v => decide (w ≤ v) then s
  else
    let pct := bits (lreg s l LANE_WS_CFG) 23 16
    let cnt := (List.range 3).map fun k => feederCount s l w k
    let flags := cnt.map fun c => decide (4 ≤ c.1) && decide (pct * c.1 ≤ 100 * c.2)
    let judged := (cnt.getD 1 (0, 0)).1
    let supply := supplySeen s l w
    let deb := bits (lreg s l LANE_WS_CFG) 11 8
    let clr := bits (lreg s l LANE_WS_CFG) 15 12
    let s := s.modLane l fun x =>
      { x with feederWin := some w, feederFlags := flags, feederJudged := judged, windows := x.windows + 1,
               feederHist := (x.feederHist.filter fun p => decide (w ≤ p.1 + 4 * sumWinUs s l)) ++ [(w, flags)] }
    (List.range 3).foldl (fun s k =>
      let f := flags.getD k false
      let x := s.lane l
      let seen := if f then x.feederSeen.getD k 0 + 1 else 0
      let unseen := if f then 0 else x.feederUnseen.getD k 0 + 1
      let was := isPresent s (0x20 + k) (subj l 0)
      let now := if f then was || decide (deb ≤ seen) else was && decide (unseen < clr)
      let s := s.modLane l fun x =>
        { x with feederSeen := setAt x.feederSeen k seen, feederUnseen := setAt x.feederUnseen k unseen }
      let c := cnt.getD k (0, 0)
      judgeCond s now (0x20 + k) (subj l 0) (d64 (c.1 % 256 + 2 ^ 8 * (c.2 % 256) + 2 ^ 16 * (supply % 4096)))) s

/-! Lamp faults (R277, R278) -/

/-- A window is settled for a node, given that no feeder flag is set (R277). -/
def settled (s : State) (l n w : Nat) : Bool :=
  let x := s.node l n
  let a := upOf s w
  let b := upOf s (w + sumWinUs s l)
  !(x.lHist.any fun p => decide (a ≤ p.1 + 2000000000 ∧ p.1 < b))
  && !(x.ramps.any fun p => decide (p.1 < p.2 ∧ p.1 < b ∧ a < p.2 + 2000000000))
  && !((s.wave l n).statuses.any fun p => decide (w ≤ p.1 ∧ p.1 < w + sumWinUs s l) && p.2.2)
  && (openRec s (posIdx l n)).isSome
  && !bit (wsNode s l n) 0
  && !((flagsOf s l w).any fun b => b)

/-- Whether each of the three tests applies, and whether it shows (R278). -/
def lampTests (s : State) (l n lev : Nat) (f : Figures) : List (Bool × Bool) :=
  let a := classA s l n
  let b := classB s l n
  let ifull := bits a 15 0
  let ioff := bits a 31 24
  let on := decide (onMin s l ≤ lev)
  let dev := ((1000 * f.rms : Nat) : Int) - ifull * lev
  let outside := (decide (ifull ≠ 0) && decide (bits a 23 16 * (ifull * lev) < dev.natAbs * 100))
    || decide (bits b 15 0 < f.crest) || decide (bits b 25 16 < f.thd)
  [(on, decide (f.rms < ioff)), (on, decide (ioff ≤ f.rms) && outside), (decide (lev = 0), decide (ioff ≤ f.rms))]

/-- Dropouts of a node in the last CYCLE_MIN minutes. -/
def liveDropouts (s : State) (l n : Nat) : List Nat :=
  (s.wave l n).dropouts.filter fun a => decide (s.townSec < a + cycleSec s l)

/-- DETAIL of classes 0x01 to 0x04 (R290). -/
def lampDetail (s : State) (l n lev : Nat) : Dword :=
  let x := s.wave l n
  d64 (inField 16 x.rms + 2 ^ 16 * lev + 2 ^ 32 * inField 16 x.crest + 2 ^ 48 * inField 10 x.thd
    + 2 ^ 58 * satTo 63 (liveDropouts s l n).length)

/-- Classes of the conditions of a node, in the order of LANE_FLT_NODE (R295). -/
abbrev condClass (k : Nat) : Nat := if k < 4 then k + 1 else if k = 4 then 0x10 else 0x12

/-- A lamp condition is judged. -/
def judgeLamp (s : State) (l n k : Nat) (now : Bool) (lev : Nat) : State :=
  judgeCond s now (condClass k) (subj l n) (lampDetail s l n lev)

/-- A settled window is judged. -/
def judgeSettled (s : State) (l n lev : Nat) (f : Figures) : State :=
  let deb := bits (lreg s l LANE_WS_CFG) 11 8
  let clr := bits (lreg s l LANE_WS_CFG) 15 12
  let ts := lampTests s l n lev f
  (List.range 3).foldl (fun s k =>
    let (applies, shows) := ts.getD k (false, false)
    if applies = false then s
    else
      let x := s.wave l n
      let seen := if shows then x.seen.getD k 0 + 1 else 0
      let unseen := if shows then 0 else x.unseen.getD k 0 + 1
      let was := isPresent s (condClass k) (subj l n)
      let s := s.setWave l n { x with seen := setAt x.seen k seen, unseen := setAt x.unseen k unseen }
      judgeLamp s l n k (if shows then was || decide (deb ≤ seen) else was && decide (unseen < clr)) lev) s

/-- CYCLING is judged from the dropouts on record; it goes once they have been watched for CYCLE_MIN minutes without one
(R279, R288). -/
def judgeCycling (s : State) (l n lev : Nat) : State :=
  let live := liveDropouts s l n
  let s := s.setWave l n { s.wave l n with dropouts := live }
  let long := (s.wave l n).watched.any fun a => decide (a + cycleSec s l ≤ s.townSec)
  let now := if isPresent s 0x04 (subj l n) then !live.isEmpty || !long
    else decide (bits (lreg s l LANE_WS_CYCLE) 3 0 ≤ live.length)
  judgeLamp s l n 3 now lev

/-! Summaries (R275, R276) -/

/-- A summary is filed through source 8, or waits behind those that wait (R114, R125, R276). -/
def fileSummary (s : State) (l n : Nat) (ws : List Dword) : State :=
  match slotFor s (l / 12) 8 with
  | none => s
  | some slot =>
    let q := lanternQ l n slot
    let pkt := mkHeader 0x12 4 0 (256 + l) (n + 2 ^ 8 * (s.node l n).inc.toNat + 2 ^ 12 * slot) :: ws
    if (s.lane l).sumsHeld = [] then
      match hwTry s q pkt with
      | (s, .ok) => s
      | (s, .refused) => s
      | (s, _) => countWait (s.modLane l fun x => { x with sumsHeld := [(q, pkt)] }) q
    else s.modLane l fun x => { x with sumsHeld := x.sumsHeld ++ [(q, pkt)] }

/-- Waiting summaries are committed as far as their queues take them. -/
def drainSums (s : State) (l : Nat) : State :=
  (s.lane l).sumsHeld.foldl (fun (s : State) (e : Nat × List Dword) =>
    if (s.lane l).sumsHeld.head? = some e then
      match hwTry s e.1 e.2 with
      | (s, .ok) => s.modLane l fun x => { x with sumsHeld := x.sumsHeld.drop 1 }
      | (s, .refused) => s.modLane l fun x => { x with sumsHeld := x.sumsHeld.drop 1 }
      | (s, _) => s
    else s) s

/-- The second in which a dropout of window `w` begins, `i` steps of 20 ms into it. -/
def dropSec (w : Nat) (i : Int) : Nat := ((w : Int) + i * 20000).toNat / 1000000

/-- The dropouts of a window are taken, unless a feeder flag is set for it (R279). -/
def takeDropouts (s : State) (l n w : Nat) : State :=
  let y := dropsOf s l n w
  let x := s.wave l n
  let ds := if (flagsOf s l w).any fun b => b then [] else y.2.map (dropSec w)
  s.setWave l n { x with run := y.1, dropouts := x.dropouts ++ ds, watched := some (x.watched.getD (w / 1000000)) }

/-- L at the end of a window. -/
abbrev levelEnd (s : State) (l n w : Nat) : Nat := levelAt (s.node l n) (upOf s (w + sumWinUs s l))

/-- Window `w` of a node with enough samples is summarised and judged. -/
def summarise (s : State) (l n w : Nat) : State :=
  let f := nodeFigures s l n w
  let lev := levelEnd s l n w
  let ok := settled s l n w
  let flags := flagsOf s l w
  let s := s.setWave l n { s.wave l n with rms := f.rms, crest := f.crest, thd := f.thd }
  let s := bumpLane s l LANE_WS_CNT_WINDOWS
  let s := if ok then judgeSettled s l n lev f else bumpLane s l LANE_WS_CNT_UNSETTLED
  let s := judgeCycling s l n lev
  let h := fun i => inField 16 (f.harm.getD i 0)
  let fl := bnat (flags.getD 0 false) + 2 * bnat (flags.getD 1 false) + 4 * bnat (flags.getD 2 false)
  fileSummary s l n
    [d64 (w % 2 ^ 48 + 2 ^ 48 * inField 16 f.used),
     d64 (inField 16 f.rms + 2 ^ 16 * inField 16 f.peak + 2 ^ 32 * inField 16 f.crest + 2 ^ 48 * lev + 2 ^ 58 * bnat ok + 2 ^ 59 * fl),
     d64 (h 0 + 2 ^ 16 * h 1 + 2 ^ 32 * h 2 + 2 ^ 48 * h 3),
     d64 (h 4 + 2 ^ 16 * h 5 + 2 ^ 32 * inField 16 f.thd + 2 ^ 48 * inField 16 f.fund)]

/-- The summariser makes windows of a node's stream. -/
abbrev wsRuns (s : State) (l n : Nat) : Bool :=
  bit (lreg s l LANE_WS_CFG) 7 && decide (grantedRate s l n ≠ 0) && decide (sumWinUs s l ≠ 0)

/-- A node whose stream is granted has a window in progress, whether or not it has sent (R275). -/
def startWindows (s : State) (l n : Nat) : State :=
  if wsRuns s l n && (s.wave l n).winStart.isNone then
    s.setWave l n { s.wave l n with winStart := some (s.townUs / sumWinUs s l * sumWinUs s l) }
  else s

/-- The window a node is collecting ends: summarised, or counted without a stream; the next one follows. -/
def endWindow (s : State) (l n : Nat) : State :=
  match (s.wave l n).winStart with
  | none => s
  | some w =>
    let win := sumWinUs s l
    let s := if wsRuns s l n = false then s
      else
        let s := takeDropouts (judgeFeeder s l w) l n w
        if enough s l n w then summarise s l n w
        else judgeCycling (bumpLane s l LANE_WS_CNT_NOSTREAM) l n (levelEnd s l n w)
    let x := s.wave l n
    s.setWave l n
      { x with winStart := some (w + win), samples := x.samples.filter fun p => decide (w + win ≤ p.1),
               statuses := x.statuses.filter fun p => decide (w ≤ p.1) }

/-- WINDOW_SUMMARY: a window that ended 2 × SUM_WIN ago is summarised with what there is (R275). -/
def windowTimeout (s : State) (l n : Nat) : State :=
  let s := startWindows s l n
  match (s.wave l n).winStart with
  | some w => if w + 3 * sumWinUs s l ≤ s.townUs then endWindow s l n else s
  | none => s

/-- Sample codes of a current DATA payload (R67). -/
def sampleCodes (p : List Byte) : List Nat :=
  (List.range (leAt p 1 1)).map fun i =>
    let v := leAt p (8 + 3 * (i / 2)) 3
    if i % 2 = 0 then v % 4096 else v / 4096

/-- The summariser takes a current DATA frame of a node: it ends every window before the one the frame starts in, those
without a sample among them (R275). -/
def takeCurrent (s : State) (l n : Nat) (p : List Byte) : State :=
  let rate := grantedRate s l n
  let win := sumWinUs s l
  if wsRuns s l n = false then s
  else
    let t0 := s.expandT48 (leAt p 2 6)
    let cs := sampleCodes p
    let x := s.wave l n
    let s := s.setWave l n
      { x with samples := x.samples ++ (List.range cs.length).map fun i => (t0 + i * 1000000 / rate, cs.getD i 0) }
    match x.winStart with
    | none => s.setWave l n { s.wave l n with winStart := some (t0 / win * win) }
    | some w => foldTo ((t0 - w) / win) (fun s _ => endWindow s l n) s

/-- A STATUS as the summariser sees it (R277, R285). -/
def noteStatus (s : State) (l n supply : Nat) (failsafe : Bool) : State :=
  let x := s.wave l n
  s.setWave l n { x with statuses := (x.statuses.filter fun p => decide (s.townUs ≤ p.1 + 200000000)) ++ [(s.townUs, supply, failsafe)] }

/-- A new life record opened at a position: the lamp conditions are gone and their counts restart (R280). -/
def lampFresh (s : State) (l n : Nat) : State :=
  let s := (List.range 4).foldl (fun s k => condGone s (condClass k) (subj l n)) s
  s.setWave l n { s.wave l n with seen := [0, 0, 0], unseen := [0, 0, 0], dropouts := [], run := 0 }

/-- CYCLING_CLEAR: no dropout for CYCLE_MIN minutes (R279). -/
def cyclingServe (s : State) (l n : Nat) : State :=
  if isPresent s 0x04 (subj l n) then judgeCycling s l n (level s l n) else s

/-! Link faults (R281 to R283) -/

/-- The lane's silence clock, which stands still while STALLED (R85, R107). -/
def silenceClock (s : State) (l : Nat) : Nat :=
  let x := s.lane l
  (if x.stalled then x.stalledFrom.getD s.uptime + 1000000 else s.uptime) - x.stalledTotal

/-- LANE_NODE_SILENCE.SECONDS (R107). -/
def silenceSec (s : State) (l n : Nat) : Nat :=
  let x := s.node l n
  if x.assigned then satTo 0xFFFF ((silenceClock s l - x.silentFrom) / 1000000000) else 0

/-- A TDR word's kind (R283). -/
def tdrKind (v : Word) : Nat := let k := bits v 19 16; if 5 < k then 5 else k

/-- A TDR result of a hop raises or clears HOP_TDR (R274, R283). -/
def tdrResult (s : State) (l n : Nat) (v : Word) (run : Bool) : State :=
  let s := bumpLane s l LANE_WS_CNT_TDR
  let k := tdrKind v
  if k = 5 then s
  else condIs s (decide (k ≠ 0)) 0x12 (subj l n) (d64 (v.toNat + 2 ^ 32 * bnat run))

/-- A STATUS was accepted from a node in the last 30 s. -/
def heard (s : State) (x : Node) : Bool := x.lastStatus.any fun p => decide (s.uptime ≤ p.1 + 30000000000)

/-- Highest position from which a STATUS was accepted in the last 30 s (R282). -/
def liveReach (s : State) (l : Nat) : Nat :=
  ((s.lane l).nodes.map fun p => if heard s p.2 then p.2.pos else 0).foldl max 0

/-- What makes an address meet the missing condition, while it is judged (R281). -/
def missingNow (s : State) (l a : Nat) : Bool :=
  let x := s.node l a
  (x.assigned && decide (30 ≤ silenceSec s l a)) || x.unanswered

/-- The lane break's node, while LANE_BREAK is present; its lane alone identifies it (R282). -/
def breakOf (s : State) (l : Nat) : Option Nat :=
  (s.conds.find? fun p => decide (p.1 = 0x11 ∧ p.2 / 256 = l)).map fun p => p.2 % 256

/-- TDR result and its valid bit of the record of a lane break, as DETAIL [48:16] gives them. -/
def breakResult (s : State) (l : Nat) : Nat :=
  match (s.lane l).breakTdr with
  | some v => v.toNat + 2 ^ 32
  | none => match findFault s 0x11 (subj l 0) with
    | some e => bits (s.fault e).detail 48 16
    | none => 0

/-- Addresses that meet the missing condition are marked while it is judged; a STATUS accepted from an assigned node ends it
(R281). -/
def markMissing (s : State) (l : Nat) : State :=
  ((listing s l).map fun e => e.1).foldl (fun s a =>
    if missingNow s l a then s.modNode l a fun x => { x with missing := true } else s) s

/-- NODE_MISSING of one address is judged: `covered` says that it lies beyond a break. The condition stands until the address is
assigned and a STATUS is accepted from it. -/
def judgeMissing (s : State) (l a : Nat) (covered : Bool) : State :=
  let x := s.node l a
  let was := isPresent s 0x10 (subj l a)
  let now := x.missing || (was && !(x.assigned && x.lastStatus.isSome))
  let t := match x.lastStatus with | some (_, sec) => sec | none => 0
  if now && covered && (findFault s 0x10 (subj l a)).isNone then s
  else judgeCond s now 0x10 (subj l a) (d64 (t % 2 ^ 48))

/-- Commands join the command queue as far as it has room (R79). -/
def fillCmds (x : Lane) : Lane :=
  { x with cmdq := x.cmdq ++ x.cmdWait.take (256 - x.cmdq.length), cmdWait := x.cmdWait.drop (256 - x.cmdq.length) }

abbrev addCmds (x : Lane) (cs : List Cmd) : Lane := fillCmds { x with cmdWait := x.cmdWait ++ cs }

/-- NODE_MISSING and LANE_BREAK are judged (R281, R282). -/
def judgeLinks (s : State) (l : Nat) : State :=
  let judged := decide ((s.lane l).st = .operating) && !(s.lane l).stalled
  let s := if judged then markMissing s l else s
  let x := s.lane l
  let k := liveReach s l
  let ls := (listing s l).map fun e => e.1
  let miss := ls.filter fun a => (s.node l a).missing
  let lost := match x.linkingFrom with
    | some u => decide (x.st = .linking ∧ u + 30000000000 ≤ s.uptime ∧ k = 0)
    | none => false
  let brk := (judged && decide (2 ≤ miss.length) && miss.all fun a => decide (k < (s.node l a).pos)) || lost
  let healed := decide (x.st = .operating) && !(miss.any fun a => decide (k < (s.node l a).pos))
  let at_ := ((x.nodes.find? fun p => heard s p.2 && decide (p.2.pos = k ∧ k ≠ 0)).map fun p => p.1).getD 0
  let old := breakOf s l
  let present := if old.isSome then !healed else brk
  let s := if present && old.isNone then
      let s := s.modLane l fun x => { x with breakTdr := none }
      let s := condPresent s 0x11 (subj l at_) (d64 (k % 256 + 2 ^ 8 * (miss.length % 256)))
      if bit (lreg s l LANE_WS_CFG) 24 ∧ k ≠ 0 then
        s.modLane l fun x => addCmds x [{ addr := at_, inc := (x.node at_).inc, code := 0x03, args := [], for_ := .tdr }]
      else s
    else match old with
      | some n => judgeCond s present 0x11 (subj l n) (d64 (k % 256 + 2 ^ 8 * (miss.length % 256) + 2 ^ 16 * breakResult s l))
      | none => s
  let s := if present then s else s.modLane l fun x => { x with breakTdr := none }
  if judged = false then s
  else ls.foldl (fun s a => judgeMissing s l a (present && decide (k < (s.node l a).pos))) s

end Sys2Proof.Machine
end

