-- ==== Sys2Proof/Machine/Lane.lean ====
section
/-! DEFINITION. The Sward link engine of a lane: states, the transmitter, node commands and their tags, enumeration,
credits, filing, reception and the lane's orders. -/

namespace Sys2Proof.Machine

/-! Figures of the lane -/

/-- LANE_RTT: the largest RTT held for an assigned node (R74). -/
def laneRtt (s : State) (l : Nat) : Nat :=
  ((s.lane l).nodes.map fun p => if p.2.assigned then p.2.rtt.toNat else 0).foldl max 0

abbrev cmdTimeoutNs (s : State) (l : Nat) : Nat := bits (lreg s l LANE_TIMING) 27 16 * 1000000
abbrev syncNs (s : State) (l : Nat) : Nat := bits (lreg s l LANE_TIMING) 9 0 * 1000000
abbrev enumWinMs (s : State) (l : Nat) : Nat := bits (lreg s l LANE_CFG) 25 16

/-- The charge of an address (R89). -/
def charge (s : State) (l a : Nat) : Nat :=
  match (s.node l a).grant with | some g => allowance g | none => 3300

/-- The admitted load (R89). -/
def admitted (s : State) (l : Nat) : Nat := ((listing s l).map fun e => charge s l e.1).sum

/-- The first setting from `x` down that the budget lets these nodes have (R89). -/
def grantFor (s : State) (l : Nat) (ns : List Nat) (x : Stream) : Stream :=
  let rest := ((listing s l).map fun e => if e.1 ∈ ns then 0 else charge s l e.1).sum
  firstFit (fun y => decide (rest + ns.length * allowance y ≤ 8000000)) 12 x

/-- NODE_CHANGE fires; what the steps of a sweep do that SWEEP_NOW started is derived from it (R108, R218). -/
def nodeChange (s : State) (l : Nat) (sweeps : Bool) : State :=
  let hop := match (s.lane l).enum with
    | some e => (match e.hop with | some h => if sweeps then h + 1 else 0 | none => 0)
    | none => 0
  s.fire [(prodLane l 11, hop)]

/-- An address becomes absent. Its POSITION and D stay: DESIGN CHOICE, log entry 170. -/
def makeAbsent (s : State) (l n : Nat) (sweeps : Bool := false) : State :=
  if (s.node l n).assigned then nodeChange (s.modNode l n fun x => { x with assigned := false, enumStep := .none }) l sweeps
  else s.modNode l n fun x => { x with enumStep := .none }

/-! Frames -/

/-- Payload of a downstream frame as it starts to leave (R67, R70). -/
def downPayload (s : State) (l : Nat) : DownFrame → List Byte
  | .sync =>
    let ns := s.townNs
    leBytes 6 (ns / 1000000000) ++ leBytes 4 (ns % 1000000000) ++ leBytes 2 (s.tb.now % 65536)
      ++ [b8 (bnat (decide (s.tbState = 2 ∧ s.xref.st ≠ 3)) + 2 * bnat (decide (s.tbState = 3 ∨ s.xref.st = 3))), 0, 0, 0]
  | .credit => leBytes 4 (s.lane l).bulkLimit.toNat ++ leBytes 4 (s.lane l).detLimit.toNat
  | .discover u => [1, b8 (bnat u)] ++ leBytes 2 (enumWinMs s l)
  | .assign n _ =>
    [3, b8 n, b8 ((s.node l n).inc + 1).toNat, 0] ++ leBytes 8 ((listedSerial s l n).getD 0)
  | .delay n => [5, 0, 0, 0] ++ leBytes 4 (s.node l n).delayNs.toNat
  | .release _ => [7, 0, 0, 0]
  | .cmd k =>
    match ((s.lane l).tag k).st with
    | .outstanding c _ => b8 c.code :: c.args
    | _ => []
  | .level _ es =>
    let all := assignedNodes s l
    let one := match es with
      | e :: r => decide (es.length = all.length) && r.all fun x => decide (x.level = e.level ∧ x.ramp = e.ramp)
      | [] => false
    let es := if es.length ≠ 1 ∧ one = true then (es.take 1).map fun e => { e with node := 0 } else es
    es.flatMap fun e => [b8 e.node] ++ leBytes 2 e.level ++ [b8 e.ramp]

/-- Header and payload of a downstream frame (R64, R67, R182). -/
def downBytes (s : State) (l : Nat) (f : DownFrame) : List Byte :=
  let p := downPayload s l f
  let h := fun type mcast addr seq =>
    let inc := if 1 ≤ addr ∧ addr ≤ 128 then (s.node l addr).inc else 0
    downHdr type mcast addr inc p.length seq
  let seq := (s.lane l).seq
  let w := match f with
    | .sync => h 0xA false 0 seq
    | .credit => h 0xC false 0 seq
    | .discover _ => h 0xB false 0 seq
    | .assign _ _ => h 0xB false 0 seq
    | .delay n => h 0xB false n seq
    | .release n => h 0xB false n seq
    | .cmd k =>
      (match ((s.lane l).tag k).st with
        | .outstanding c _ => h 4 false c.addr (BitVec.ofNat 16 (k + 4096 * ((s.lane l).tag k).gen.toNat))
        | _ => h 4 false 0 seq)
    | .level _ es =>
      let addr := leAt p 0 1
      if p.length = 4 then h 9 false addr seq else if es = [] then h 9 false 0 seq else h 9 true 0 seq
  leBytes 8 w.toNat ++ p

/-! Tags and node commands (R79 to R82) -/

/-- A tag enters quarantine (R80). -/
def quarantine (s : State) (l k : Nat) : State :=
  let d := max (2 * laneRtt s l) 100000
  s.modLane l fun x => x.setTag k { x.tag k with st := .quarantined (s.uptime + d) }

/-- SEND_CMD clamps a wake threshold outside 15 to 300 (R78). -/
def sendClamped (d : Desc) : Bool := decide (d.byte 8 = 5 ∧ (d.bytes 10 9 < 15 ∨ 300 < d.bytes 10 9))

/-- One node's answer to a SET_STREAM is in; the order completes after the last (R95). -/
def streamAnswer (s : State) (l key n code : Nat) : State :=
  match (s.lane l).streams.find? fun o => decide (o.key = key) with
  | none => s
  | some o =>
    let o' : StreamOrder :=
      { o with left := dropNat n o.left, missed := o.missed + bnat (decide (code = cTimeout)),
               mismatch := o.mismatch || decide (code = cMismatch ∨ code = cNoNode) }
    let res := o.set.mode.toNat + 4 * o.set.fm.toNat + 16 * o.set.fc.toNat + 128 * o.set.t.toNat + 512 * satTo 255 o'.missed
    if code = cNotNow ∨ code = cFaulted then
      complete (s.modLane l fun x => { x with streams := x.streams.filter fun y => decide (y.key ≠ key) }) .lane l 5 o.d code res []
    else if o'.left = [] then
      let c := if o'.missed ≠ 0 then cTimeout else if o'.mismatch then cMismatch else doneOr o.clamped
      complete (s.modLane l fun x => { x with streams := x.streams.filter fun y => decide (y.key ≠ key) }) .lane l 5 o.d c res []
    else s.modLane l fun x => { x with streams := x.streams.map fun y => if y.key = key then o' else y }

/-- Nodes in steps 4 to 8 of enumeration (R71). -/
def enumActive (s : State) (l : Nat) : Nat := ((s.lane l).nodes.filter fun p => decide (p.2.enumStep ≠ .none)).length

/-- A change of a lane's state (R94, R108). -/
def setLaneSt (s : State) (l : Nat) (st : LaneSt) : State :=
  let old := (s.lane l).st
  if old = st then s
  else
    let s := s.modLane l fun x =>
      { x with st := st,
               linkingFrom := if st = .linking ∧ old = .operating then some s.uptime else if st = .linking then x.linkingFrom else none }
    s.fire1 (prodLane l 12)

/-- Steps 4 to 8 are over for every node: positions are judged, and the lane enters OPERATING (R71, R95, R103, R31). -/
def enumFinish (s : State) (l : Nat) (e : EnumRun) : State :=
  let pos := (s.lane l).nodes.filterMap fun p => if p.2.assigned then some p.2.pos else none
  let bad := (pos.zip (pos.drop 1)).any fun p => decide (p.2 ≤ p.1)
  let s := s.modLane l fun x => { x with enum := none, orderMismatch := bad, dupSeen := e.dup, unknownCount := e.unknown }
  if e.sweep then judgeLinks s l
  else
    let s := setLaneSt s l .operating
    let s := s.modLane l fun x => { x with catchup := assignedNodes s l, sweepAt := s.uptime }
    let s := match e.order with
      | some d =>
        complete s .lane l 3 d cDone ((assignedNodes s l).length + 2 ^ 8 * (listing s l).length + 2 ^ 16 * satTo 255 (s.lane l).unknownCount) []
      | none => s
    judgeLinks s l

/-- A frame is put in line. -/
def enqueue (s : State) (l : Nat) (f : DownFrame) : State := s.modLane l fun x => { x with txq := x.txq ++ [f] }

/-- Nodes still to be assigned go to step 4, up to 16 at once; after the last the run ends (R71). -/
def enumPump (s : State) (l : Nat) : State :=
  match (s.lane l).enum with
  | none => s
  | some e =>
    if e.closed = false then s
    else
      let room := 16 - enumActive s l
      let s := s.modLane l fun x => { x with enum := some { e with todo := e.todo.drop room } }
      let s := (e.todo.take room).foldl (fun s p =>
        enqueue (s.modNode l p.1 fun x => { x with enumStep := .assign }) l (.assign p.1 p.2)) s
      if e.todo = [] ∧ enumActive s l = 0 then enumFinish s l e else s

/-- A node's steps 4 to 8 end; any end of step 8 but DONE leaves the address absent: DESIGN CHOICE, log entry 168. -/
def enumEnd (s : State) (l n : Nat) (ok : Bool) : State :=
  let s := s.modNode l n fun x => { x with enumStep := .none }
  let s := if ok then touch s l n .other else makeAbsent s l n true
  enumPump s l

/-- A node command ends with a code; an RSP's status and length where one came (R80 to R82, R95). -/
def cmdDone (s : State) (l : Nat) (c : Cmd) (code : Nat) (rsp : List Byte) : State :=
  let st := leAt rsp 1 1
  let result := if code = cDone ∧ rsp ≠ [] then (if 3 < st then 3 else st) + 2 ^ 8 * rsp.length else 0
  match c.for_ with
  | .order d => complete s .lane l 4 d (if code = cDone ∧ sendClamped d = true then cClamped else code) result []
  | .stream key => streamAnswer s l key c.addr code
  | .enum => if (s.node l c.addr).enumStep = .stream then enumEnd s l c.addr (decide (code = cDone)) else s
  | .tdr => if code = cDone ∧ st = 0 ∧ 6 ≤ rsp.length then
      judgeLinks (s.modLane l fun x => { x with breakTdr := some (w32 (leAt rsp 2 4)) }) l
    else s

/-- Outstanding commands as tag and command. -/
def outstanding (s : State) (l : Nat) : List (Nat × Cmd) :=
  (s.lane l).tags.filterMap fun p => match p.2.st with | .outstanding c _ => some (p.1, c) | _ => none

/-- Every command of an address completes MISMATCH (R82). -/
def cmdsMismatch (s : State) (l n : Nat) : State :=
  let s := (outstanding s l).foldl (fun s p =>
    if p.2.addr = n then cmdDone (quarantine s l p.1) l p.2 cMismatch [] else s) s
  let mine := ((s.lane l).cmdq ++ (s.lane l).cmdWait).filter fun c => decide (c.addr = n)
  let s := s.modLane l fun x =>
    fillCmds { x with cmdq := x.cmdq.filter fun c => decide (c.addr ≠ n), cmdWait := x.cmdWait.filter fun c => decide (c.addr ≠ n) }
  mine.foldl (fun s c => cmdDone s l c cMismatch []) s

/-- Waiting commands complete without being sent (R605). -/
def cmdsDropped (s : State) (l code : Nat) : State :=
  let mine := (s.lane l).cmdq ++ (s.lane l).cmdWait
  mine.foldl (fun s c => cmdDone s l c code []) (s.modLane l fun x => { x with cmdq := [], cmdWait := [] })

/-! The transmitter -/

/-- What goes before each frame (R63). -/
def leadIn : List Byte := [0x55, 0x55, 0x55, 0x55, 0x55, 0x55, 0x55, 0xD5]

/-- A frame starts to leave: its bytes, its count, and what its start brings about (R63, R73, R80, R84, R91, R95). -/
def startFrame (s : State) (l : Nat) (f : DownFrame) : State :=
  let bytes := downBytes s l f
  let s := bumpLane s l LANE_CNT_FRAMES_TX
  let s := s.modLane l fun x => { x with tx := some f, line := leadIn ++ bytes ++ leBytes 4 (crc32 bytes).toNat, seq := x.seq + 1, lastTx := s.uptime }
  match f with
  | .sync =>
    let s := s.modLane l fun x => { x with syncTime := s.tb.now, lastSync := some s.uptime, syncPending := false }
    let t := tiLane l 8
    if (s.ti t).phase = .busy ∧ (s.ti t).due = false then tiEnd s t else s
  | .credit =>
    s.modLane l fun x => { x with creditSent := (x.bulkLimit, x.detLimit), creditAt := s.uptime, creditDirty := none }
  | .discover _ =>
    let s := s.modLane l fun x =>
      { x with enum := x.enum.map fun e => { e with discovered := true, windowEnd := s.uptime + enumWinMs s l * 1000000 } }
    let t := tiLane l 9
    if (s.ti t).phase = .busy ∧ (s.ti t).due = false then tiEnd s t else s
  | .assign n pos =>
    let s := s.modNode l n fun x =>
      { x with assigned := true, inc := x.inc + 1, pos := pos, serial := d64 ((listedSerial s l n).getD 0), sinceOn := true,
               lastSeq := none, silentFrom := silenceClock s l, unanswered := false, sent := none,
               enumStep := .ack (s.uptime + cmdTimeoutNs s l) s.uptime }
    nodeChange (cmdsMismatch s l n) l true
  | .delay n => s.modNode l n fun x => { x with enumStep := .delayAck (s.uptime + cmdTimeoutNs s l) }
  | .release n =>
    let s := s.modLane l fun x =>
      { x with releases := x.releases.map fun r =>
          if r.node = n ∧ r.sent = false then { r with sent := true, until_ := s.uptime + cmdTimeoutNs s l } else r }
    makeAbsent s l n
  | .cmd _ => s
  | .level g es => levelStarted (es.foldl (fun s e => markSent s l e) s) l g

/-- A CREDIT may start: none within 500 µs of the one before (R84). -/
abbrev creditGap (s : State) (l : Nat) : Bool :=
  decide ((s.lane l).creditAt = 0 ∨ (s.lane l).creditAt + 500000 ≤ s.uptime)

/-- The next frame in line starts if the transmitter is free. Raise and catch-up frames go first and start by their own
commands (R178); a SYNC that waits is next (R91). -/
def startNext (s : State) (l : Nat) : State :=
  let x := s.lane l
  if laneTx s l = false ∨ x.tx.isSome ∨ x.raisePending ∨ x.catchup ≠ [] then s
  else if x.syncPending then startFrame s l .sync
  else match x.txq with
    | [] => s
    | .credit :: r => if creditGap s l then startFrame (s.modLane l fun x => { x with txq := r }) l .credit else s
    | f :: r => startFrame (s.modLane l fun x => { x with txq := r }) l f

/-- The transmitter is free for a frame that its own command starts. -/
def txFree (s : State) (l : Nat) : Bool := laneTx s l && (s.lane l).tx.isNone

/-- FRAME_LEFT: the frame has left. A broadcast command completes, and the next frame in line starts (R80, R95). -/
def frameDone (s : State) (l : Nat) : State :=
  let s := match (s.lane l).tx with
    | some (.cmd k) =>
      let s := s.modLane l fun x => { x with tx := none }
      (match ((s.lane l).tag k).st with
        | .outstanding c none => cmdDone (quarantine s l k) l c cDone []
        | _ => s)
    | _ => s.modLane l fun x => { x with tx := none }
  startNext s l

/-- The next tag after the one last allocated that is free (R79). -/
def nextTag (s : State) (l : Nat) : Option Nat :=
  let x := s.lane l
  (List.range 4096).findSome? fun i =>
    let k := (x.lastTag + 1 + i) % 4096
    if (x.tag k).st = .free then some k else none

/-- CMD_SEND: the oldest waiting command gets a tag and starts (R79). One whose address is no longer assigned, or has a new
incarnation, is not sent. -/
def cmdStart (s : State) (l : Nat) : State :=
  let x := s.lane l
  if txFree s l = false ∨ x.raisePending ∨ x.catchup ≠ [] then s
  else match x.cmdq with
    | [] => s
    | c :: r =>
      if c.addr ≠ 0 ∧ ((s.node l c.addr).assigned = false ∨ (s.node l c.addr).inc ≠ c.inc) then
        cmdDone (s.modLane l fun x => fillCmds { x with cmdq := r }) l c cNoNode []
      else match nextTag s l with
        | none => s
        | some k =>
          let dl := if c.addr = 0 then none else some (s.uptime + cmdTimeoutNs s l)
          let s := s.modLane l fun x =>
            fillCmds { x.setTag k { st := .outstanding c dl, gen := (x.tag k).gen + 1 } with cmdq := r, lastTag := k }
          startFrame s l (.cmd k)

/-- CMD_TIMEOUT (R80). -/
def cmdExpire (s : State) (l k : Nat) : State :=
  match ((s.lane l).tag k).st with
  | .outstanding c (some dl) =>
    if dl ≤ s.uptime then
      startNext (cmdDone (quarantine (bumpLane s l LANE_CNT_CMD_TIMEOUT) l k) l c cTimeout []) l
    else s
  | _ => s

/-- TAG_QUARANTINE_END (R80). -/
def tagFree (s : State) (l k : Nat) : State :=
  match ((s.lane l).tag k).st with
  | .quarantined u => if u ≤ s.uptime then s.modLane l fun x => x.setTag k { x.tag k with st := .free } else s
  | _ => s

/-! LEVEL frames (R178 to R182) -/

/-- RAISE_FRAME_SEND: a pending raise frame starts with every pending change, and the window closes; the catch-up frame of a lane
goes before it (R31). -/
def raiseSend (s : State) (l : Nat) : State :=
  if txFree s l && (s.lane l).raisePending && (s.lane l).catchup.isEmpty then
    let es := (changedNodes s l).map (entryOf s l false)
    let s := s.modLane l fun x => { x with raisePending := false, gatherEnd := none, gatherHeld := false }
    if es = [] then startNext s l else startFrame s l (.level false es)
  else s

/-- CATCHUP_FRAME_SEND: every assigned node gets its present level (R31). -/
def catchupSend (s : State) (l : Nat) : State :=
  if txFree s l && !((s.lane l).catchup.isEmpty) then
    let es := ((s.lane l).catchup.filter fun n => (s.node l n).assigned).map (entryOf s l true)
    let s := s.modLane l fun x => { x with catchup := [] }
    if es = [] then startNext s l else startFrame s l (.level false es)
  else s

/-- Gathered frames started in the last second are below the cap (R180). -/
def capFree (s : State) (l : Nat) : Bool := decide ((lastSecond s.uptime (s.lane l).gatherStarts).length < 71)

/-- The gathered frame starts with every pending change. -/
def gatherSend (s : State) (l : Nat) : State :=
  let es := (changedNodes s l).map (entryOf s l false)
  let s := s.modLane l fun x => { x with gatherEnd := none, gatherHeld := false }
  if es = [] then s else startFrame s l (.level true es)

/-- Raise and catch-up frames go before a gathered one. -/
def gatherReady (s : State) (l : Nat) : Bool :=
  txFree s l && !(s.lane l).raisePending && (s.lane l).catchup.isEmpty

/-- GATHER_WINDOW_CLOSE (R179, R180). -/
def gatherClose (s : State) (l : Nat) : State :=
  match (s.lane l).gatherEnd with
  | some e =>
    if s.uptime < e ∨ (s.lane l).gatherHeld = true then s
    else if capFree s l then (if gatherReady s l then gatherSend s l else s)
    else
      let s := s.modLane l fun x => { x with gatherHeld := true }
      ((changedNodes s l).filter fun n => !(s.node l n).raiseDue).foldl (fun s n => gather s l n) s
  | none => s

/-- GATHER_CAP_RELEASE (R180). -/
def gatherRelease (s : State) (l : Nat) : State :=
  if (s.lane l).gatherHeld && capFree s l && gatherReady s l then gatherSend s l else s

/-! Credits and filing (R83 to R86) -/

/-- The unit counts rise, and the advance waits for a CREDIT. -/
def freeUnits (s : State) (l : Nat) (det : Bool) (n : Nat) : State :=
  s.modLane l fun x =>
    let x := { x with creditDirty := match x.creditDirty with | some a => some a | none => some s.uptime }
    if det then { x with detUsed := x.detUsed - n, detLimit := x.detLimit + w32 n }
    else { x with bulkUsed := x.bulkUsed - n, bulkLimit := x.bulkLimit + w32 n }

/-- CREDIT_SEND: due after 16 units, 1 ms after less, or once in a SYNC interval (R84). -/
def creditDue (s : State) (l : Nat) : Bool :=
  let x := s.lane l
  decide (16 ≤ (x.bulkLimit - x.creditSent.1).toNat ∨ 16 ≤ (x.detLimit - x.creditSent.2).toNat)
    || (x.creditDirty.any fun a => decide (a + 1000000 ≤ s.uptime)) || decide (x.creditAt + syncNs s l ≤ s.uptime)

def creditServe (s : State) (l : Nat) : State :=
  if laneTx s l && creditDue s l then
    startNext (if DownFrame.credit ∈ (s.lane l).txq then s else enqueue s l .credit) l
  else startNext s l

/-- The packet of a frame (R123). -/
def framePacket (l slot : Nat) (f : HeldFrame) : List Dword :=
  let pay := f.hdr :: d64 (f.arrived % 2 ^ 48) :: packWords f.payload
  mkHeader f.type pay.length 0 (256 + l) (hdrAddr f.hdr + 2 ^ 8 * (hdrInc f.hdr).toNat + 2 ^ 12 * slot) :: pay

/-- A frame is offered to its queue (R114): ok also where its source has no slot. -/
def fileFrame (s : State) (l : Nat) (f : HeldFrame) : State × Room :=
  match frameQueue s l f with
  | none => (s, .ok)
  | some q =>
    match hwTry s q (framePacket l (q - lanternQ l (hdrAddr f.hdr) 0) f) with
    | (s, .ok) =>
      (match f.type with
        | 1 => s.fire1 (prodLane l 8)
        | 2 => s.fire1 (prodLane l 9)
        | 3 => s.fire1 (prodLane l 10)
        | _ => s, .ok)
    | r => r

/-- The life engine, or the summariser, takes the frame at the head before it is filed; none while the intake is full (R254,
R275). -/
def takeHead (s : State) (l : Nat) (f : HeldFrame) : Option State :=
  if f.taken then some s
  else if f.type = 6 ∨ f.type = 7 then
    if s.domOn 49 then
      if s.life.intake.length < 1024 then
        some (s.modLife fun x =>
          { x with intake := x.intake ++ [⟨l, hdrAddr f.hdr, decide (f.type = 6), s.expandT48 f.arrived / 1000000, f.payload⟩] })
      else none
    else some (lostItems s 49 ((f.payload.length + 7) / 8))
  else if f.type = 1 ∧ leAt f.payload 0 1 = 1 then some (takeCurrent s l (hdrAddr f.hdr) f.payload)
  else some s

/-- The head of the bulk frames holds those behind it (R85). -/
def bulkHolds (s : State) (l : Nat) : State :=
  match (s.lane l).stalledFrom with
  | some _ => s
  | none => s.modLane l fun x => { x with stalledFrom := some s.uptime }

/-- A hold is over: the time for which STALLED stood does not count as silence (R85, R107). -/
def stallEnds (x : Lane) (now : Nat) : Lane :=
  { x with stalledFrom := none, stalled := false,
           stalledTotal := x.stalledTotal + (if x.stalled then now - (x.stalledFrom.getD now + 1000000) else 0) }

/-- The head has left: the hold is over. -/
def bulkMoves (s : State) (l units : Nat) : State :=
  let s := s.modLane l fun x => { stallEnds x s.uptime with held := x.held.drop 1 }
  freeUnits s l false units

/-- Bulk frames are filed in arrival order until one is held (R85). -/
def drainBulk : Nat → State → (l : Nat) → State
  | 0, s, _ => s
  | n + 1, s, l =>
    match (s.lane l).held with
    | [] => s
    | f :: r =>
      match takeHead s l f with
      | none => bulkHolds s l
      | some s =>
        let s := s.modLane l fun x => { x with held := { f with taken := true } :: r }
        match fileFrame s l f with
        | (s, .ok) => drainBulk n (bulkMoves s l (rxUnits f.type f.payload)) l
        | (s, .refused) => drainBulk n (bulkMoves s l (rxUnits f.type f.payload)) l
        | (s, _) =>
          match (s.lane l).stalledFrom, frameQueue s l f with
          | none, some q => countWait (bulkHolds s l) q
          | _, _ => s

/-- Frames of the DET filing hold are filed in order until one waits (R86). -/
def drainDet : Nat → State → (l : Nat) → State
  | 0, s, _ => s
  | n + 1, s, l =>
    match (s.lane l).detHold with
    | [] => s
    | f :: r =>
      match fileFrame s l f with
      | (s, .ok) => drainDet n (s.modLane l fun x => { x with detHold := r }) l
      | (s, .refused) => drainDet n (s.modLane l fun x => { x with detHold := r }) l
      | (s, _) => s

/-- Everything that waits for a queue is offered again. -/
def drainLane (s : State) (l : Nat) : State :=
  let s := drainDet (s.lane l).detHold.length s l
  drainSums (drainBulk (s.lane l).held.length s l) l

/-- CREDIT_STALL_TIMER: STALLED after 1 ms, then each further millisecond counts (R85). -/
def stallTimer (s : State) (l : Nat) : State :=
  let x := s.lane l
  match x.stalledFrom with
  | none => s
  | some a =>
    if s.uptime < a + 1000000 then s
    else
      let ms := (s.uptime - (a + 1000000)) / 1000000
      let done := if x.stalled then x.stallMs else 0
      let s := s.bumpBy .lane l LANE_CNT_STALL_MS (ms - done)
      s.modLane l fun x => { x with stalled := true, stallMs := ms }

/-! Enumeration (R71 to R75) -/

/-- A run begins: CREDIT, then DISCOVER (R71). -/
def enumStart (s : State) (l : Nat) (sweep forced : Bool) (order : Option Desc) (hop : Option Nat) : State :=
  let s := s.modLane l fun x =>
    { x with enum := some { sweep := sweep, forced := forced, windowEnd := 0, order := order, hop := hop } }
  let s := if DownFrame.credit ∈ (s.lane l).txq then s else enqueue s l .credit
  startNext (enqueue s l (.discover sweep)) l

/-- A run is dropped: its steps end, and a SWEEP_NOW task that waited for its DISCOVER ends. -/
def enumDrop (s : State) (l : Nat) : State :=
  let t := tiLane l 9
  let waits := match (s.lane l).enum with | some e => e.hop.isSome && !e.discovered | none => false
  let s := s.modLane l fun x =>
    { x with enum := none, nodes := tmap {} (fun y => { y with enumStep := .none }) x.nodes,
             txq := x.txq.filter fun f => match f with | .discover _ => false | .assign _ _ => false | .delay _ => false | _ => true }
  if waits then tiEnd s t else s

/-- A sweep is wanted; one under way takes it in (R75). -/
def sweepStart (s : State) (l : Nat) (hop : Option Nat) : State :=
  if (s.lane l).st = .operating ∧ (s.lane l).enum = none then enumStart s l true false none hop else s

/-- SWEEP_TIMER (R75). -/
def sweepTimer (s : State) (l : Nat) : State :=
  let p := bits (lreg s l LANE_CFG) 15 8
  if (s.lane l).st = .operating ∧ p ≠ 0 ∧ (s.lane l).sweepAt + p * 1000000000 ≤ s.uptime then
    sweepStart (s.modLane l fun x => { x with sweepAt := s.uptime }) l none
  else s

/-- SWEEP_NOW: busy until the sweep's DISCOVER starts; merged or idle events end at once (R75, R108, R219). -/
def sweepNow (s : State) (l : Nat) : State :=
  let t := tiLane l 9
  if tiDue s t then
    if (s.lane l).st = .operating ∧ (s.lane l).enum = none then sweepStart (tiTaken s t) l (some (s.ti t).lastHop)
    else tiEnd s t
  else s

/-- SYNC_NOW: busy until the SYNC starts; no effect in other states (R91, R108, R219). -/
def syncNow (s : State) (l : Nat) : State :=
  let t := tiLane l 8
  if tiDue s t then
    if laneTx s l then startNext ((tiTaken s t).modLane l fun x => { x with syncPending := true }) l
    else tiEnd s t
  else s

/-- SYNC_SEND: every SYNC_MS, and when nothing has left an OPERATING lane for 1 s (R29, R91). -/
def syncServe (s : State) (l : Nat) : State :=
  let x := s.lane l
  if laneTx s l ∧ ((x.lastSync.all fun a => decide (a + syncNs s l ≤ s.uptime)) = true ∨ x.lastTx + 1000000000 ≤ s.uptime ∨ x.syncPending = true) then
    startNext (s.modLane l fun x => { x with syncPending := true }) l
  else startNext s l

/-- The run's own record is changed. -/
abbrev modEnum (s : State) (l : Nat) (f : EnumRun → EnumRun) : State := s.modLane l fun x => { x with enum := x.enum.map f }

/-- One serial's REPORTs of a window are judged (R72); unknown serials, and the nodes seen and to be assigned, are gathered. A serial
that is not listed and was reported from two positions counts as a duplicate and not as unknown: DESIGN CHOICE, log entry 165. -/
def judgeSerial (s : State) (l : Nat) (e : EnumRun) (serial : Dword) (acc : List Nat × List (Nat × Nat)) :
    State × List Nat × List (Nat × Nat) :=
  let rs := e.reports.filter fun r => decide (r.serial = serial)
  let a? := ((listing s l).find? fun x => decide (d64 x.2 = serial)).map fun x => x.1
  match rs.getLast? with
  | none => (s, acc)
  | some r =>
    if (rs.map fun x => x.pos).eraseDups.length ≠ 1 then
      let s := modEnum (bumpLane s l LANE_CNT_DUP_SERIAL) l fun y => { y with dup := true }
      (s, (match a? with | some a => a :: acc.1 | none => acc.1), acc.2)
    else match a? with
      | none =>
        let s := modEnum ((bumpLane s l LANE_CNT_UNKNOWN_SERIAL).modLane l fun x =>
          { x with unknownSerial := serial, unknownPos := r.pos }) l fun y => { y with unknown := y.unknown + 1 }
        (s, acc)
      | some a =>
        let x := s.node l a
        if e.forced = false ∧ x.assigned = true ∧ r.addr = a ∧ r.inc = x.inc ∧ r.pos = x.pos ∧ x.sinceOn = true then
          (s.modNode l a fun x => { x with silentFrom := silenceClock s l, unanswered := false }, a :: acc.1, acc.2)
        else (s, a :: acc.1, (a, r.pos) :: acc.2)

/-- Insert by address. -/
def insPair (x : Nat × Nat) : List (Nat × Nat) → List (Nat × Nat)
  | [] => [x]
  | y :: r => if x.1 < y.1 then x :: y :: r else if x.1 = y.1 then x :: r else y :: insPair x r

/-- ENUM_WINDOW_CLOSE: REPORTs are matched with the lane set panel (R72, R103). -/
def enumClose (s : State) (l : Nat) : State :=
  match (s.lane l).enum with
  | none => s
  | some e =>
    if e.discovered = false ∨ e.closed = true ∨ s.uptime < e.windowEnd then s
    else
      let s := modEnum s l fun y => { y with dup := false, unknown := 0 }
      let serials := (e.reports.map fun r => r.serial).eraseDups
      let (s, seen, todo) := serials.foldl (fun (p : State × List Nat × List (Nat × Nat)) sn =>
        judgeSerial p.1 l e sn p.2) (s, [], [])
      let s := modEnum s l fun y => { y with closed := true, reports := [], todo := todo.foldr insPair [] }
      let s := (listing s l).foldl (fun s a =>
        let n := a.1
        if n ∈ seen then s.modNode l n fun x => { x with unanswered := false }
        else if e.sweep ∧ (s.node l n).assigned then s
        else makeAbsent (s.modNode l n fun x => { x with unanswered := true }) l n true) s
      startNext (enumPump s l) l

/-- The RELEASE_NODE orders that a test picks complete, oldest first (R95). -/
def releasesEnd (s : State) (l : Nat) (p : ReleaseWait → Bool) (code : Nat) : State :=
  ((s.lane l).releases.filter p).foldl (fun s w => complete s .lane l 6 w.d code 0 [])
    (s.modLane l fun x => { x with releases := x.releases.filter fun w => !p w })

/-- An ENUM REPORT that passed R66 (R72, R95). -/
def enumReport (s : State) (l : Nat) (hdr : Dword) (p : List Byte) : State :=
  let pos := leAt p 1 1
  let r : Report := ⟨hdrAddr hdr, hdrInc hdr, pos, d64 (leAt p 4 8)⟩
  let s := if hdrAddr hdr = 255 then releasesEnd s l (fun w => w.sent && decide (w.pos = pos)) cDone else s
  s.modLane l fun x =>
    { x with enum := x.enum.map fun e => if e.discovered && !e.closed then { e with reports := e.reports ++ [r] } else e }

/-- An ENUM ACK: RTT and D are found, and DELAY goes out (R71, R74). D is rounded down, and 0 where the turnaround exceeds RTT: DESIGN
CHOICE, log entry 166. -/
def enumAck (s : State) (l n : Nat) (p : List Byte) : State :=
  match (s.node l n).enumStep with
  | .ack _ sent =>
    let rtt := s.uptime - sent
    let s := s.modNode l n fun x =>
      { x with rtt := w32 rtt, delayNs := w32 ((rtt - leAt p 4 4) / 2), enumStep := .delay }
    startNext (enqueue s l (.delay n)) l
  | _ => s

/-- An ENUM DELAY_ACK: the node's setting is judged and sent (R71, R89). -/
def enumDelayAck (s : State) (l n : Nat) : State :=
  match (s.node l n).enumStep with
  | .delayAck _ =>
    let w := lreg s l LANE_DEFAULT_STREAM
    let base := match (s.node l n).grant with
      | some g => g
      | none => streamOf (bits w 1 0) (bits w 3 2) (bits w 6 4) (bits w 8 7) (bits w 23 16)
    let g := grantFor s l [n] base
    let s := if g = base then s else bumpLane s l LANE_CNT_BUDGET_CLAMP
    let s := startWindows (s.modNode l n fun x => { x with grant := some g, enumStep := .stream }) l n
    s.modLane l fun x =>
      addCmds x [{ addr := n, inc := (x.node n).inc, code := 1, args := streamBytes g, for_ := .enum }]
  | _ => s

/-- ENUM_ACK_TIMEOUT: step 5 or 7 has had no answer; the address is absent (R71). -/
def enumAckTimeout (s : State) (l n : Nat) : State :=
  let due := match (s.node l n).enumStep with
    | .ack u _ => decide (u ≤ s.uptime)
    | .delayAck u => decide (u ≤ s.uptime)
    | _ => false
  if due then startNext (enumEnd (bumpLane s l LANE_CNT_CMD_TIMEOUT) l n false) l else s

/-- RELEASE_REPORT_TIMEOUT (R95). -/
def releaseTimeout (s : State) (l n : Nat) : State :=
  releasesEnd s l (fun w => w.sent && decide (w.node = n ∧ w.until_ ≤ s.uptime)) cTimeout

/-! Reception (R66) -/

/-- The checks of R66 from step 2 on: the counter of the failing check. MCAST 1 fails step 3, since R64 gives it 0 upstream: DESIGN
CHOICE, log entry 162. A REPORT skips step 4, so that its ADDR may be any: DESIGN CHOICE, log entry 164. -/
def rxFails (s : State) (l type : Nat) (f : RxFrame) : Option Nat :=
  let h := f.header type
  let report := decide (type = 0xB ∧ leAt f.payload 0 1 = 2)
  let x := s.node l (hdrAddr h)
  if f.codingErr ∨ crc32 (leBytes 8 h.toNat ++ f.payload) ≠ f.fcs then some LANE_CNT_CRC
  else if bits h 7 6 ≠ 1 ∨ bit h 4 = false ∨ bit h 5 = true ∨ bits h 23 20 ≠ 0 ∨ bits h 47 42 ≠ 0
      ∨ hdrLen h ≠ f.payload.length ∨ upstreamOk type f.payload = false then some LANE_CNT_BAD_TYPE
  else if report then none
  else if hdrAddr h = 0 ∨ 128 < hdrAddr h ∨ x.assigned = false then some LANE_CNT_BAD_ADDR
  else if hdrInc h ≠ x.inc then some LANE_CNT_STALE_INC
  else none

/-- Steps 6 and 7 of R66, which only count. A REPORT counts there only where its ADDR is assigned and its INC is the one held: DESIGN
CHOICE, log entry 163. -/
def rxCounts (s : State) (l type : Nat) (h : Dword) : State :=
  let n := hdrAddr h
  let x := s.node l n
  if 1 ≤ n ∧ n ≤ 128 ∧ x.assigned = true ∧ hdrInc h = x.inc then
    let s := if hdrHop h ≠ x.pos then bumpLane s l LANE_CNT_POS_MISMATCH else s
    if type = 5 then s
    else
      let s := match x.lastSeq with
        | some q => s.bumpBy .lane l LANE_CNT_SEQ_GAP (hdrSeq h - q - 1).toNat
        | none => s
      s.modNode l n fun y => { y with lastSeq := some (hdrSeq h) }
  else s

/-- A bulk frame joins those to be filed. -/
def fileBulk (s : State) (l : Nat) (f : HeldFrame) : State :=
  drainLane (s.modLane l fun x => { x with held := x.held ++ [f] }) l

/-- A DET goes to the swath engine, its credit returns, and it moves to the filing hold (R86). -/
def rxDet (s : State) (l : Nat) (f : HeldFrame) : State :=
  let t := s.expandT48 (leAt f.payload 0 6)
  let s := swathDet s l (hdrAddr f.hdr) t (leAt f.payload 6 1 % 4)
  let s := freeUnits s l true 1
  let s := drainLane s l
  if (frameQueue s l f).isNone then s
  else if 48 ≤ (s.lane l).detHold.length then bumpLane s l LANE_CNT_DET_UNFILED
  else drainLane (s.modLane l fun x => { x with detHold := x.detHold ++ [f] }) l

/-- A STATUS restarts the node's silence timing and may mark a refresh (R107, R184, R281). -/
def rxStatus (s : State) (l : Nat) (f : HeldFrame) : State :=
  let n := hdrAddr f.hdr
  let st := leAt f.payload 6 2
  let s := s.modNode l n fun x =>
    { x with silentFrom := silenceClock s l, lastStatus := some (s.uptime, s.townSec), unanswered := false,
             missing := x.missing && !x.assigned }
  let s := noteStatus s l n (leAt f.payload 8 2) (st.testBit 10)
  let s := statusLevel s l n (st % 1024) (st.testBit 10)
  let s := judgeLinks s l
  if (frameQueue s l f).isNone then freeUnits s l false (rxUnits 8 f.payload) else fileBulk s l f

/-- An RSP is disposed of by its tag (R81); a command's RUN_TDR result is judged (R283). -/
def rxRsp (s : State) (l : Nat) (f : HeldFrame) : State :=
  let k := bits f.hdr 59 48
  let gen := BitVec.ofNat 4 (bits f.hdr 63 60)
  let t := (s.lane l).tag k
  let drop := fun (off : Nat) => freeUnits (bumpLane s l off) l false (rxUnits 5 f.payload)
  match t.st with
  | .free => drop LANE_CNT_STRAY_RSP
  | .quarantined _ => drop (if gen = t.gen then LANE_CNT_LATE_RSP else LANE_CNT_GEN_MISMATCH)
  | .outstanding c _ =>
    if gen ≠ t.gen then drop LANE_CNT_GEN_MISMATCH
    else if c.addr ≠ hdrAddr f.hdr ∨ c.inc ≠ hdrInc f.hdr then drop LANE_CNT_STRAY_RSP
    else
      let s := quarantine s l k
      let s := if c.code = 3 ∧ leAt f.payload 1 1 = 0 ∧ 6 ≤ f.payload.length then
          tdrResult s l c.addr (w32 (leAt f.payload 2 4)) true
        else s
      startNext (fileBulk (cmdDone s l c cDone f.payload) l f) l

/-- A frame's units are in use (R83). -/
def rxTake (s : State) (l type : Nat) (f : RxFrame) : State :=
  let u := rxUnits type f.payload
  s.modLane l fun x => if type = 2 then { x with detUsed := x.detUsed + u } else { x with bulkUsed := x.bulkUsed + u }

/-- A frame that the lane takes goes to its consumer. -/
def rxGo (s : State) (l type : Nat) (f : RxFrame) : State :=
  let h := f.header type
  let s := rxCounts s l type h
  let hf : HeldFrame := { type := type, hdr := h, arrived := s.t48, payload := f.payload }
  match type with
  | 2 => rxDet s l hf
  | 5 => rxRsp s l hf
  | 8 => rxStatus s l hf
  | 0xB =>
    let s := freeUnits s l false (rxUnits type f.payload)
    (match leAt f.payload 0 1 with
      | 2 => enumReport s l h f.payload
      | 4 => enumAck s l (hdrAddr h) f.payload
      | _ => enumDelayAck s l (hdrAddr h))
  | _ => fileBulk s l hf

/-- The units of the frame's class have room for it (R83). -/
def rxFits (s : State) (l type : Nat) (f : RxFrame) : Bool :=
  if type = 2 then decide ((s.lane l).detUsed + rxUnits type f.payload ≤ 8)
  else decide ((s.lane l).bulkUsed + rxUnits type f.payload ≤ 480)

/-- A frame has been counted and has passed the receive FIFO; the mark says whether it found the FIFO full (R468). -/
def rxPoured (s : State) (l : Nat) (f : RxFrame) : State × Bool :=
  fifoPour (bumpLane s l LANE_CNT_FRAMES_RX) (seamLane l) .rx f.behind

/-- The frame as the handshake side gets it: one that found the FIFO full ends with a coding error. -/
def rxOut (s : State) (l : Nat) (f : RxFrame) : RxFrame := { f with codingErr := f.codingErr || (rxPoured s l f).2 }

/-- An upstream frame is judged and goes to its consumer (R66). -/
def rxJudge (s : State) (l type : Nat) (f : RxFrame) : State :=
  if rxFits s l type f = false then bumpLane s l LANE_CNT_OVERRUN
  else
    let s := rxTake s l type f
    match rxFails s l type f with
    | some off => freeUnits (bumpLane s l off) l (decide (type = 2)) (rxUnits type f.payload)
    | none => rxGo s l type f

/-- An upstream frame arrives, while the lane receives (R66, R468). -/
def receive (s : State) (l type : Nat) (f : RxFrame) : State :=
  if laneTx s l = false then s else rxJudge (rxPoured s l f).1 l type (rxOut s l f)

/-! Lane states (R94) -/

/-- The lane stops sending: what waits for the transmitter goes, enumeration ends, and waiting commands complete (R30, R95,
R605). `code` is NOT_NOW or FAULTED. -/
def laneQuiet (s : State) (l code : Nat) : State :=
  let order := match (s.lane l).enum with | some e => e.order | none => none
  let s := enumDrop s l
  let s := s.modLane l fun x =>
    { x with tx := none, txq := [], syncPending := false, raisePending := false, catchup := [], gatherEnd := none, gatherHeld := false,
             linkUp := false, ampRes := 0 }
  let s := match order with | some d => complete s .lane l 3 d code 0 [] | none => s
  let rs := (s.lane l).releases.filter fun w => !w.sent
  let s := s.modLane l fun x => { x with releases := x.releases.filter fun w => w.sent }
  let s := rs.foldl (fun s w => complete s .lane l 6 w.d code 0 []) s
  let s := cmdsDropped s l code
  if (s.ti (tiLane l 8)).phase = .busy ∧ (s.ti (tiLane l 8)).due = false then tiEnd s (tiLane l 8) else s

/-- The lane enters LINKING, taking AMP and LPI_EN as they stand, and makes an attempt (R62, R76, R94, R101). -/
def enterLinking (s : State) (l : Nat) : State :=
  let w := lreg s l LANE_CFG
  let s := if (s.lane l).st = .linking then s else s.modLane l fun x => { x with ampAsk := bits w 1 0, lpiAsk := bit w 2 }
  let s := setLaneSt s l .linking
  s.modLane l fun x => { x with attemptFrom := s.uptime, anAttempts := satTo 255 (x.anAttempts + 1) }

/-- A broadcast command whose frame was leaving as the lane stops sending has left and completes (R30, R95, R605). -/
def castEnds (s : State) (l : Nat) : State :=
  match (s.lane l).tx with
  | some (.cmd k) =>
    (match ((s.lane l).tag k).st with
      | .outstanding c none => cmdDone (quarantine (s.modLane l fun x => { x with tx := none }) l k) l c cDone []
      | _ => s)
  | _ => s

/-- LINK_UP: the amplitude is resolved, or none is and the attempt goes on (R62, R84, R94). Bulk frames still held are discarded as the
counts start again: DESIGN CHOICE, log entry 167. -/
def linkUp (s : State) (l : Nat) (has24 has10 : Bool) : State :=
  if (s.lane l).st ≠ .linking then s
  else
    let amp := match (s.lane l).ampAsk with
      | 1 => if has10 then 1 else 0
      | 2 => if has24 then 2 else 0
      | _ => if has24 then 2 else if has10 then 1 else 0
    if amp = 0 then s
    else
      let s := s.modLane l fun x =>
        { stallEnds x s.uptime with
                 linkUp := true, ampRes := amp, lpi := x.lpiAsk, anAttempts := 0, bulkUsed := 0, detUsed := 0, bulkLimit := 480, detLimit := 8,
                 creditSent := (0, 0), creditAt := 0, creditDirty := none, lastSync := none, held := [] }
      let s := setLaneSt s l .enumerating
      enumStart s l false false none none

/-- LINK_DOWN: the PCS link has been down for 10 ms (R94, R605). -/
def linkDown (s : State) (l : Nat) : State :=
  if laneTx s l then
    let was := (s.lane l).st
    let s := bumpLane s l LANE_CNT_LINK_FAIL
    let s := enterLinking s l
    let s := if was = .operating then s else s.modLane l fun x => { x with linkingFrom := none }
    judgeLinks (laneQuiet (castEnds s l) l cNotNow) l
  else s

/-- LINK_ATTEMPT_TIMEOUT: no link within 2 s (R94). -/
def linkRetry (s : State) (l : Nat) : State :=
  if (s.lane l).st = .linking ∧ (s.lane l).attemptFrom + 2000000000 ≤ s.uptime then
    judgeLinks (enterLinking (bumpLane s l LANE_CNT_LINK_FAIL) l) l
  else s

/-- NODE_MISSING_TIMEOUT (R281). -/
def missingServe (s : State) (l : Nat) : State := if s.domOn (laneDom l) then judgeLinks s l else s

/-! Orders (R95) -/

/-- Counters of the link, the swath and the summariser (R106, R211, R295). -/
def laneCounters : List Nat := offsFrom 0x200 4 19 ++ offsFrom 0x480 4 13 ++ offsFrom 0x880 4 4

/-- Argument bytes of a node command that SEND_CMD may carry (R78); none for a reserved code. -/
def cmdArgs (code : Nat) : Option Nat :=
  if code = 5 then some 2 else if 2 ≤ code ∧ code ≤ 8 then some 0 else none

/-- Step 1 of R21 for a lane order's own bytes and TARGET (R95). -/
def laneFormat (op : Nat) (d : Desc) : Bool :=
  decide (d.bytes 15 13 = 0) &&
    match op with
    | 3 => decide (d.target = 0 ∧ d.bytes 12 8 < 2)
    | 4 => (match cmdArgs (d.byte 8) with
      | some n => decide (d.bytes 12 8 / 2 ^ (8 * (n + 1)) = 0)
      | none => false)
    | 5 => true
    | 6 => decide (d.target ≠ 0 ∧ d.bytes 12 8 = 0)
    | _ => decide (d.target = 0 ∧ d.bytes 12 8 = 0)

/-- A lane order is legal in the present state (R95). -/
def laneLegal (s : State) (l op : Nat) : Bool :=
  let st := (s.lane l).st
  match op with
  | 1 => decide (st = .stopped)
  | 2 => decide (st = .linking ∨ st = .enumerating ∨ st = .operating)
  | 7 => decide (st = .stopped)
  | 8 => decide (st ≠ .off ∧ st ≠ .faulted)
  | _ => decide (st = .operating)

/-- The command queue is full, which stalls a write of LANE_ORDER3 (R79). -/
abbrev cmdqFull (s : State) (l : Nat) : Bool := decide (256 ≤ (s.lane l).cmdq.length)

def orderStart (s : State) (l : Nat) : OrderRes := fin (enterLinking s l) cDone

def orderStop (s : State) (l : Nat) : OrderRes :=
  let s := setLaneSt s l .stopped
  fin (judgeLinks (laneQuiet (castEnds s l) l cNotNow) l) cDone

def orderEnumerate (s : State) (l : Nat) (d : Desc) : OrderRes :=
  let s := setLaneSt (enumDrop s l) l .enumerating
  later (enumStart s l false (decide (d.byte 8 % 2 = 1)) (some d) none)

def orderSendCmd (s : State) (l : Nat) (d : Desc) : OrderRes :=
  let code := d.byte 8
  let n := d.target.toNat
  if 128 < n ∨ (n = 0 ∧ code ≠ 5 ∧ code ≠ 6) ∨ (n ≠ 0 ∧ (s.node l n).assigned = false) then fin s cNoNode
  else
    let args := if code = 5 then leBytes 2 (clampTo 15 300 (d.bytes 10 9)) else []
    let inc := if n = 0 then 0 else (s.node l n).inc
    later (s.modLane l fun x => addCmds x [{ addr := n, inc := inc, code := code, args := args, for_ := .order d }])
      (doneOr (sendClamped d))

def orderSetStream (s : State) (l : Nat) (d : Desc) : OrderRes :=
  let n := d.target.toNat
  if 128 < n ∨ (n ≠ 0 ∧ (s.node l n).assigned = false) then fin s cNoNode
  else
    let raw := d.bytes 12 8
    let req := streamOf (d.byte 8) (d.byte 9) (d.byte 10) (d.byte 11) (d.byte 12)
    let ns := if n = 0 then assignedNodes s l else [n]
    let g := grantFor s l ns req
    let bad := decide (raw ≠ leNat (streamBytes req))
    let clamped := bad || decide (g ≠ req)
    let s := if g = req then s else bumpLane s l LANE_CNT_BUDGET_CLAMP
    let res := g.mode.toNat + 4 * g.fm.toNat + 16 * g.fc.toNat + 128 * g.t.toNat
    if ns = [] then fin s (doneOr clamped) res
    else
      let key := (s.lane l).streamKey
      let s := s.modLane l fun x =>
        addCmds { x with streamKey := key + 1, streams := x.streams ++ [{ key := key, d := d, set := g, clamped := clamped, left := ns }] }
          (ns.map fun a => { addr := a, inc := (x.node a).inc, code := 1, args := streamBytes g, for_ := .stream key })
      later (ns.foldl (fun s a => startWindows (s.modNode l a fun x => { x with grant := some g }) l a) s) (doneOr clamped)

def orderRelease (s : State) (l : Nat) (d : Desc) : OrderRes :=
  let n := d.target.toNat
  if 128 < n ∨ (s.node l n).assigned = false then fin s cNoNode
  else
    let s := s.modLane l fun x =>
      { x with releases := x.releases ++ [{ d := d, node := n, pos := (x.node n).pos, until_ := 0 }] }
    later (startNext (enqueue s l (.release n)) l)

/-- LINE_TDR measures the first hop; the measured word is the command's operand (R283, log entry 16). -/
def orderTdr (s : State) (l : Nat) (v : Word) : OrderRes :=
  fin (tdrResult s l 0 v false) cDone (bits v 15 0 + 2 ^ 16 * tdrKind v)

def orderLaneClear (s : State) (l : Nat) : OrderRes := fin (s.clearRegs .lane l laneCounters) cDone

/-- The body of a lane order. -/
def laneBody (l op : Nat) (d : Desc) (v : Word) (s : State) : OrderRes :=
  match op with
  | 1 => orderStart s l
  | 2 => orderStop s l
  | 3 => orderEnumerate s l d
  | 4 => orderSendCmd s l d
  | 5 => orderSetStream s l d
  | 6 => orderRelease s l d
  | 7 => orderTdr s l v
  | _ => orderLaneClear s l

/-! The domain of a lane goes and comes (R94, R198, R605) -/

/-- Every command outstanding or waiting completes through the Heath-side front (R605). -/
def cmdsLost (s : State) (l code : Nat) : State :=
  (outstanding s l).foldl (fun s p =>
    cmdDone (s.modLane l fun x => x.setTag p.1 { x.tag p.1 with st := .free }) l p.2 code []) (cmdsDropped s l code)

/-- What the Heath-side front keeps of a node: its incarnation (R73). -/
def keepInc (ns : Table Node) : Table Node := tmap {} (fun y => { inc := y.inc }) ns

/-- The lane's domain goes off (`st` .off) or FAULTED: every part but the front is lost. -/
def laneLost (s : State) (l : Nat) (st : LaneSt) : State :=
  let code := if st = .faulted then cFaulted else cNotNow
  let s := s.modLane l fun x => { x with st := st }
  let s := laneQuiet s l code
  let s := cmdsLost s l code
  let rs := (s.lane l).releases
  let s := rs.foldl (fun s w => complete s .lane l 6 w.d code 0 []) (s.modLane l fun x => { x with releases := [] })
  s.setLane l { st := st, nodes := keepInc (s.lane l).nodes }

end Sys2Proof.Machine
end

