-- ==== Sys2Proof/Machine/Life.lean ====
section
/-! DEFINITION. The life store: records and their bytes, models, ENERGY and ID reports, fitting and removing modules, notices,
exports, caps and the life orders. -/

namespace Sys2Proof.Machine

/-! Records (R250, R251) -/

abbrev satBits (n v : Nat) : Nat := satTo (2 ^ n - 1) v

def recFlags (r : LifeRec) : Nat :=
  bnat r.opened + 2 * bnat r.warned + 4 * bnat r.eol + 8 * bnat r.derated + 16 * bnat r.defModel + 32 * bnat r.reattached
    + 64 * bnat r.manual + 128 * bnat r.registered + 256 * bnat r.corrupt + 512 * bnat r.exported + 1024 * bnat r.eligible
    + 2048 * (r.reason % 8)

/-- Bytes 0 to 13 of an identity (R245). -/
def identBytes (r : LifeRec) : List Byte :=
  leBytes 8 r.serial.toNat ++ leBytes 2 r.type.toNat ++ leBytes 2 r.rated.toNat ++ [r.drive, r.thermal]

/-- Bytes 0 to 93 of a record (R250). -/
def recBody (r : LifeRec) : List Byte :=
  identBytes r ++ leBytes 2 r.check.toNat ++ leBytes 6 r.install.toNat ++ [r.lane, r.node]
    ++ ((List.range 8).flatMap fun b => leBytes 4 (r.burn.getD b 0).toNat)
    ++ leBytes 6 r.stress.toNat ++ leBytes 4 r.switches.toNat ++ leBytes 4 r.otMin.toNat ++ [b8 r.otRes, b8 r.model]
    ++ leBytes 2 r.drvFaults.toNat ++ leBytes 2 r.remain ++ leBytes 2 (recFlags r) ++ leBytes 6 r.last.toNat
    ++ leBytes 4 r.energy.toNat ++ leBytes 6 r.closed.toNat

/-- The 96 bytes of a record. -/
def recBytes (r : LifeRec) : List Byte := recBody r ++ leBytes 2 r.rcrc.toNat

/-- A record as a write leaves it: its RCRC good, its words correctable (R267). -/
def sealRec (r : LifeRec) : LifeRec := { r with rcrc := crc16 (recBody r), bad := false }

/-- The stored RCRC is that of the record's bytes (R246, R267). -/
def rcrcOk (r : LifeRec) : Bool := decide (r.rcrc = crc16 (recBody r))

/-- The record that 96 bytes hold. -/
def recFrom (b : List Byte) : LifeRec :=
  let f := leAt b 76 2
  { serial := d64 (leAt b 0 8), type := BitVec.ofNat 16 (leAt b 8 2), rated := BitVec.ofNat 16 (leAt b 10 2), drive := b8 (leAt b 12 1),
    thermal := b8 (leAt b 13 1), check := BitVec.ofNat 16 (leAt b 14 2), install := BitVec.ofNat 48 (leAt b 16 6),
    lane := b8 (leAt b 22 1), node := b8 (leAt b 23 1), burn := (List.range 8).map fun k => w32 (leAt b (24 + 4 * k) 4),
    stress := BitVec.ofNat 48 (leAt b 56 6), switches := w32 (leAt b 62 4), otMin := w32 (leAt b 66 4), otRes := leAt b 70 1,
    model := leAt b 71 1 % 32, drvFaults := BitVec.ofNat 16 (leAt b 72 2), remain := leAt b 74 2 % 1024,
    opened := f.testBit 0, warned := f.testBit 1, eol := f.testBit 2, derated := f.testBit 3, defModel := f.testBit 4,
    reattached := f.testBit 5, manual := f.testBit 6, registered := f.testBit 7, corrupt := f.testBit 8, exported := f.testBit 9,
    eligible := f.testBit 10, reason := f / 2048 % 8, last := BitVec.ofNat 48 (leAt b 78 6), energy := w32 (leAt b 84 4),
    closed := BitVec.ofNat 48 (leAt b 88 6), rcrc := BitVec.ofNat 16 (leAt b 94 2) }

abbrev recPos (r : LifeRec) : Nat := posIdx r.lane.toNat r.node.toNat

def State.openRec (s : State) (i : Nat) : Option LifeRec := Machine.openRec s i

/-- The open record of a position as MRAM holds it. -/
def putOpen (s : State) (i : Nat) (r : Option LifeRec) : State := s.modLife fun x => { x with open_ := tset none x.open_ i r }

def putRetired (s : State) (j : Nat) (r : Option LifeRec) : State := s.modLife fun x => { x with retired := tset none x.retired j r }

/-- The open record of a position is written. -/
abbrev setOpen (s : State) (i : Nat) (r : Option LifeRec) : State := putOpen s i (r.map sealRec)

abbrev setRetired (s : State) (j : Nat) (r : Option LifeRec) : State := putRetired s j (r.map sealRec)

/-- A record is torn: what its 96 bytes then hold, as fields. -/
def tornRec (x : Life) (r : TornRec) : Life :=
  let o := some { recFrom r.bytes with bad := r.bad }
  if r.retired then (if r.slot < 4096 then { x with retired := tset none x.retired r.slot o } else x)
  else if r.slot < 18432 then { x with open_ := tset none x.open_ r.slot o }
  else x

/-- One record is checked: a bad RCRC gives it CORRUPT, its fields as read, and takes ELIGIBLE from a retired one (R267). The fault's
subject is the position's index, as R250 numbers positions (DEDUCED, log entry 173). -/
def checkRec (retired : Bool) (s : State) (p : Nat × Option LifeRec) : State :=
  match p.2 with
  | none => s
  | some r =>
    if rcrcOk r then s
    else
      let r := { r with corrupt := true, eligible := r.eligible && !retired }
      let s := if retired then putRetired s p.1 (some r) else putOpen s p.1 (some r)
      momentary (s.bump .life 0 LIFE_CNT_CORRUPT) 0x39 p.1 (d64 (bnat retired))

/-- D49 powers up: the RCRC of every record is checked (R267). -/
def checkRecords (s : State) : State :=
  let s := s.life.open_.foldl (checkRec false) s
  s.life.retired.foldl (checkRec true) s

abbrev bumpLife (s : State) (off : Nat) : State := s.bump .life 0 off

/-! Models (R252, R253) -/

abbrev mreg (s : State) (k off : Nat) : Word := s.reg .life 0 (off + 0x20 * k)

/-- Parameter bytes of a model: weights DW and factors AF. -/
def modelDw (s : State) (k b : Nat) : Nat :=
  if b < 4 then bits (mreg s k LIFE_MODEL_DW_LO) (8 * b + 7) (8 * b)
  else bits (mreg s k LIFE_MODEL_DW_HI) (8 * (b - 4) + 7) (8 * (b - 4))

def modelAf (s : State) (k b : Nat) : Nat := bits (mreg s k (LIFE_MODEL_AF_0 + 4 * (b / 4))) (8 * (b % 4) + 7) (8 * (b % 4))

abbrev modelTOver (s : State) (k : Nat) : Int := sint 16 (bits (mreg s k LIFE_MODEL_LIM) 15 0)
abbrev modelDerateAt (s : State) (k : Nat) : Nat := bits (mreg s k LIFE_MODEL_LIM) 25 16
abbrev modelFloor (s : State) (k : Nat) : Nat := bits (mreg s k LIFE_MODEL_CAP) 9 0

/-- The model a record uses: its thermal class if its type is listed and the model is present, else 16 (R253). -/
def chooseModel (s : State) (r : LifeRec) : Nat :=
  let maker := r.serial.toNat % 65536
  let listed := maker ≠ 0 ∧ (List.range 256).any (fun j =>
    decide (s.reg .life 0 (LIFE_TYPE + 4 * j) = w32 (maker + 65536 * r.type.toNat))) = true
  if listed ∧ r.thermal.toNat < 16 ∧ bit (mreg s r.thermal.toNat LIFE_MODEL_CAP) 10 = true then r.thermal.toNat else 16

/-- Rated life in units of 10 h (R253). -/
def ratedLife (s : State) (r : LifeRec) : Nat :=
  if r.rated ≠ 0 ∧ r.model ≠ 16 then r.rated.toNat else bits (mreg s 16 LIFE_MODEL_CAP) 31 16

/-- REMAIN (R256). -/
def remainOf (s : State) (r : LifeRec) : Nat := 1000 - r.stress.toNat * 1000 / (ratedLife s r * 9216000)

abbrev derateEn (s : State) : Bool := s.rbit .life 0 LIFE_CFG 10

/-- The derate cap of a position (R258). -/
def capFor (s : State) (o : Option LifeRec) : Nat :=
  match o with
  | none => 1000
  | some r =>
    if derateEn s = false ∨ modelDerateAt s r.model ≤ r.remain then 1000
    else modelFloor s r.model + (1000 - modelFloor s r.model) * r.remain / modelDerateAt s r.model

/-- The cap of a position goes to its lane, if the lane's domain is on. -/
def writeCap (s : State) (i : Nat) : State :=
  if s.domOn (laneDom (i / 128)) then setCap s (i / 128) (i % 128 + 1) (capFor s (openRec s i)) else s

/-! Packets (R264) -/

def lifeHeader (kind len : Nat) (r : LifeRec) : Dword :=
  mkHeader 0x15 len kind 406 (r.node.toNat + 2 ^ 8 * r.lane.toNat + 2 ^ 16 * (if kind = 0 then r.reason else 0))

def recPacket (kind : Nat) (r : LifeRec) : List Dword := lifeHeader kind 12 r :: packWords (recBytes r)

/-- A notice enters the hold of 64, or is lost (R257, R263). -/
def notice (s : State) (r : LifeRec) (eol : Bool) : State :=
  let ws := [lifeHeader (if eol then 3 else 2) 3 r, r.serial, d64 (r.remain + 2 ^ 16 * capFor s (some r)), d64 (s.townSec % 2 ^ 48)]
  if s.life.notices.length < 64 then s.modLife fun x => { x with notices := x.notices ++ [⟨eol, ws⟩] }
  else bumpLife s LIFE_CNT_NOTICE_LOST

/-- REMAIN, flags and cap of a record are computed again and the record is written; crossings give notices, the warning
first (R256 to R258). -/
def settleRec (s : State) (i : Nat) (r : LifeRec) : State :=
  let warn := s.fld .life 0 LIFE_CFG 9 0
  let rem := remainOf s r
  let r1 := { r with remain := rem, defModel := decide (r.model = 16) }
  let r1 := { r1 with derated := decide (capFor s (some r1) < 1000) }
  let w := decide (rem ≤ warn)
  let e := decide (rem = 0)
  let r2 := { r1 with warned := w, eol := e }
  let s := setOpen s i (some r2)
  let s := if w && !r.warned then notice s r2 false else s
  let s := if e && !r.eol then notice s r2 true else s
  writeCap s i

/-! Reports (R254, R255) -/

/-- Temperature bin of R252. -/
def tempBin (t : Int) : Nat := min ((t + 200) / 100).toNat 15

/-- An ENERGY frame of a position: until a swapped panel's recomputation reaches its record, the model is chosen afresh (R255,
R266). -/
def energyApply (s : State) (f : Intake) : State :=
  let i := posIdx f.lane f.node
  let p := f.payload
  match openRec s i with
  | none => bumpLife s LIFE_CNT_NO_RECORD
  | some r =>
    let band := fun b => leAt p (8 + 2 * b) 2
    let on := ((List.range 8).map band).sum
    if leAt p 0 8 ≠ r.serial.toNat then bumpLife s LIFE_CNT_STALE
    else if 3600 < on then bumpLife s LIFE_CNT_BAD_REPORT
    else
      let m := if s.life.recomputeDue then chooseModel s r else r.model
      let s := if m = 16 ∧ r.model ≠ 16 then bumpLife s LIFE_CNT_DEFAULT_MODEL else s
      let raw := leAt p 26 2
      let noTemp := decide (raw = 0x8000)
      let t := sint 16 raw
      let k := if noTemp then tempBin (modelTOver s m) else tempBin t
      let stress := ((List.range 8).map fun b => band b * modelDw s m b * modelAf s m k).sum
      let hot := !noTemp && decide (modelTOver s m ≤ t)
      let r := { r with
        model := m
        burn := (List.range 8).map fun b => w32 (satBits 32 ((r.burn.getD b 0).toNat + band b))
        stress := BitVec.ofNat 48 (satBits 48 (r.stress.toNat + stress))
        otMin := if hot then w32 (satBits 32 (r.otMin.toNat + (r.otRes + on) / 60)) else r.otMin
        otRes := if hot then (r.otRes + on) % 60 else r.otRes
        switches := w32 (satBits 32 (r.switches.toNat + leAt p 28 1))
        drvFaults := BitVec.ofNat 16 (satBits 16 (r.drvFaults.toNat + leAt p 29 1))
        energy := w32 (satBits 32 (r.energy.toNat + leAt p 24 2))
        last := BitVec.ofNat 48 f.at_ }
      (bumpLife (settleRec s i r) LIFE_CNT_ENERGY).bankAdd bankD49 0 1

/-! Fitting, removing and replacing (R260 to R262) -/

/-- A closed record goes to the retired ring (R262). -/
def retire (s : State) (r : LifeRec) (reason : Nat) : State :=
  let r := { r with corrupt := false, opened := false, reason := reason, closed := BitVec.ofNat 48 s.townSec, exported := false, eligible := true }
  let j := s.life.next
  let s := match tget none s.life.retired j with
    | some o => if o.exported then s else bumpLife s LIFE_CNT_EXPORT_LOST
    | none => s
  let s := s.modLife fun x =>
    { x with retired := x.retired.map fun p =>
        (p.1, p.2.map fun o => if o.serial = r.serial ∧ o.eligible = true then sealRec { o with eligible := false } else o),
             next := (j + 1) % 4096 }
  setRetired s j (some r)

/-- The open record of a position is closed. -/
def closeRec (s : State) (i reason : Nat) : State :=
  match openRec s i with
  | none => s
  | some r => retire (setOpen s i none) r reason

/-- A record for the identity in `r` is opened at position `i` (R260, R261). -/
def openNew (s : State) (i : Nat) (r : LifeRec) : State :=
  let other : Option (Nat × LifeRec) := s.life.open_.findSome? fun p =>
    match p.2 with | some o => if o.serial = r.serial ∧ p.1 ≠ i then some (p.1, o) else none | none => none
  let old : Option (Nat × LifeRec) := s.life.retired.findSome? fun p =>
    match p.2 with | some o => if o.serial = r.serial ∧ o.eligible = true then some (p.1, o) else none | none => none
  let from_ : Option LifeRec := match other with
    | some p => some p.2
    | none => old.map fun (p : Nat × LifeRec) => p.2
  let s := match other, old with
    | none, some (j, o) => setRetired s j (some { o with eligible := false })
    | _, _ => s
  let s := match other with
    | some (k, _) => writeCap (bumpLife (closeRec s k 3) LIFE_CNT_MOVED) k
    | none => s
  let s := match openRec s i with
    | some _ => bumpLife (closeRec s i 1) LIFE_CNT_CLOSED
    | none => s
  let r := { r with install := BitVec.ofNat 48 s.townSec }
  let r := match from_ with
    | some o => { r with burn := o.burn, stress := o.stress, switches := o.switches, otMin := o.otMin, otRes := o.otRes,
                         drvFaults := o.drvFaults, energy := o.energy, reattached := true }
    | none => r
  let r := { r with model := chooseModel s r }
  let s := bumpLife s LIFE_CNT_OPENED
  let s := if from_.isSome then bumpLife s LIFE_CNT_REATTACHED else s
  let s := if r.model = 16 then bumpLife s LIFE_CNT_DEFAULT_MODEL else s
  lampFresh (settleRec s i r) (i / 128) (i % 128 + 1)

/-- The record an identity of 16 bytes starts. -/
def recOf (i : Nat) (p : List Byte) : LifeRec :=
  { serial := d64 (leAt p 0 8), type := BitVec.ofNat 16 (leAt p 8 2), rated := BitVec.ofNat 16 (leAt p 10 2), drive := b8 (leAt p 12 1),
    thermal := b8 (leAt p 13 1), check := BitVec.ofNat 16 (leAt p 14 2), install := 0, lane := b8 (i / 128), node := b8 (i % 128 + 1) }

/-- An identity is valid (R247). -/
def identOk (p : List Byte) : Bool :=
  let sn := leAt p 0 8
  decide (crc16 (slice p 0 14) = BitVec.ofNat 16 (leAt p 14 2)) && decide (sn ≠ 0 ∧ sn ≠ 2 ^ 64 - 1)
    && decide (sn % 65536 ≠ 0 ∧ sn % 65536 ≠ 0xFFFF)

/-- An ID frame of a position (R247). -/
def idApply (s : State) (f : Intake) : State :=
  let i := posIdx f.lane f.node
  let p := f.payload
  let s := (bumpLife s LIFE_CNT_ID).bankAdd bankD49 1 1
  match leAt p 16 1 with
  | 1 => match openRec s i with
    | some _ => writeCap (bumpLife (closeRec s i 2) LIFE_CNT_CLOSED) i
    | none => s
  | 0 =>
    if identOk p = false then bumpLife s LIFE_CNT_ID_BAD
    else match openRec s i with
      | some r =>
        if r.serial = d64 (leAt p 0 8) then
          if r.manual then
            let n := recOf i p
            let r := { r with type := n.type, rated := n.rated, drive := n.drive, thermal := n.thermal, check := n.check, manual := false }
            settleRec s i { r with model := chooseModel s r }
          else if (identBytes r).drop 8 = slice p 8 6 then s
          else bumpLife s LIFE_CNT_ID_CONFLICT
        else openNew s i (recOf i p)
      | none => openNew s i (recOf i p)
  | _ => bumpLife s LIFE_CNT_ID_BAD

/-- The engine serves reports: UNMODELLED, RUNNING or APPLYING (R269). -/
abbrev lifeRuns (s : State) : Bool := decide (s.life.st = 3 ∨ s.life.st = 4 ∨ s.life.st = 5)

/-- LIFE_ID_APPLY and LIFE_ENERGY_APPLY: the oldest frame of the intake, if it is of that kind (R265). -/
def intakeServe (s : State) (id : Bool) : State :=
  match s.life.intake with
  | [] => s
  | f :: r =>
    if f.isId = id ∧ lifeRuns s = true then
      let s := s.modLife fun x => { x with intake := r }
      if id then idApply s f else energyApply s f
    else s

/-! Notices, exports, caps (R258, R263, R266) -/

/-- LIFE_NOTICE_COMMIT (R263). -/
def noticeServe (s : State) : State :=
  if lifeRuns s then
    match s.life.notices with
    | [] => s
    | n :: r =>
      match hwOffer s 4 0xD8511 n.words with
      | (s, .ok) => (s.modLife fun x => { x with notices := r }).fire1 (prodLife (bnat n.eol))
      | (s, .refused) => bumpLife (s.modLife fun x => { x with notices := r }) LIFE_CNT_NOTICE_LOST
      | (s, _) => s
  else s

/-- The retired slots in ring order, oldest first. -/
def ringOrder (s : State) : List Nat := (List.range 4096).map fun k => (s.life.next + k) % 4096

/-- The oldest retired record awaiting export. -/
def nextExport (s : State) : Option (Nat × LifeRec) :=
  (ringOrder s).findSome? fun j =>
    match tget none s.life.retired j with
    | some r => if r.exported then none else some (j, r)
    | none => none

/-- Snapshots of EXPORT_ALL orders are committed as the queue has room; each order completes after its last (R270). -/
def exportAllStep : Nat → State → State
  | 0, s => s
  | n + 1, s =>
    match s.life.exportAll with
    | [] => s
    | (d, [], k) :: r => exportAllStep n (complete (s.modLife fun x => { x with exportAll := r }) .life 0 5 d cDone k [])
    | (d, i :: is, k) :: r =>
      match openRec s i with
      | none => exportAllStep n (s.modLife fun x => { x with exportAll := (d, is, k) :: r })
      | some o =>
        match hwOffer s 3 0xD8510 (recPacket 1 o) with
        | (s, .ok) => exportAllStep n (s.modLife fun x => { x with exportAll := (d, is, k + 1) :: r })
        | (s, .refused) => exportAllStep n (s.modLife fun x => { x with exportAll := (d, is, k) :: r })
        | (s, _) => s

def exportAllServe (s : State) : State :=
  exportAllStep (s.life.exportAll.map fun p => p.2.1.length + 1).sum s

/-- LIFE_EXPORT: the oldest unexported retired record is offered; snapshots that wait follow (R263). -/
def exportServe (s : State) : State :=
  if lifeRuns s then
    let s := match nextExport s, s.life.exportRefused with
      | some (j, r), false =>
        (match hwOffer s 2 0xD8510 (recPacket 0 r) with
          | (s, .ok) => setRetired s j (some { r with exported := true })
          | (s, .refused) => s.modLife fun x => { x with exportRefused := true }
          | (s, _) => s)
      | _, _ => s
    exportAllServe s
  else s

/-- LIFE_MODEL_RECOMPUTE (R266). -/
def recomputeServe (s : State) : State :=
  if lifeRuns s && s.life.recomputeDue then
    let is := s.life.open_.map fun p => p.1
    let s := is.foldl (fun s i =>
      match openRec s i with
      | some r =>
        let m := chooseModel s r
        let s := if m = 16 ∧ r.model ≠ 16 then bumpLife s LIFE_CNT_DEFAULT_MODEL else s
        settleRec s i { r with model := m }
      | none => s) s
    s.modLife fun x => { x with recomputeDue := false, st := if x.st = 5 then 4 else x.st }
  else s

/-- CAP_REFRESH: the caps of every position of the lane groups concerned are written (R258). -/
def capServe (s : State) : State :=
  if lifeRuns s then
    let gs := s.life.capDue
    let s := s.modLife fun x => { x with capDue := [] }
    gs.foldl (fun s g => foldTo 1536 (fun s k => writeCap s (g * 1536 + k)) s) s
  else s

/-- Caps of every lane group become due. -/
def capAll (s : State) : State := s.modLife fun x => { x with capDue := List.range 12 }

/-- DERATE_EN has changed: every open record's cap and DERATED follow (R251, R258). -/
def derateAll (s : State) : State :=
  let s := s.life.open_.foldl (fun s p =>
    match p.2 with
    | some r =>
      let b := decide (capFor s (some r) < 1000)
      if r.derated = b then s else setOpen s p.1 (some { r with derated := b })
    | none => s) s
  capAll s

/-! Orders (R270) -/

/-- A position TARGET: its index, if it names one. -/
def posTarget (t : Word) : Option Nat :=
  let n := bits t 7 0
  let l := bits t 15 8
  if bits t 31 16 = 0 ∧ 1 ≤ n ∧ n ≤ 128 ∧ l < 144 then some (posIdx l n) else none

def lifeFormat (op : Nat) (d : Desc) : Bool :=
  match op with
  | 1 => (posTarget d.target).isSome && decide (d.arg = 0)
  | 2 => decide (d.target.toNat < 4096 ∧ d.arg = 0)
  | 3 => (posTarget d.target).isSome
  | 4 => (posTarget d.target).isSome && decide (d.arg = 0)
  | _ => decide (d.target = 0 ∧ d.arg = 0)

def lifeLegal (s : State) (op : Nat) : Bool :=
  let st := s.life.st
  decide (st = 3 ∨ st = 4) || (decide (st = 5) && decide (op = 1 ∨ op = 2 ∨ op = 6))

/-- A record in a completion (R270). -/
def recResult (s : State) (o : Option LifeRec) : OrderRes :=
  match o with
  | some r => if r.bad then fin s cPoisoned else fin s cDone 1 (packWords (recBytes r))
  | none => fin s cDone 0

def orderReadRecord (s : State) (d : Desc) : OrderRes := recResult s (openRec s ((posTarget d.target).getD 0))
def orderReadRetired (s : State) (d : Desc) : OrderRes := recResult s (tget none s.life.retired d.target.toNat)

def orderRegister (s : State) (d : Desc) : OrderRes :=
  let i := (posTarget d.target).getD 0
  match openRec s i with
  | some r =>
    if r.serial = d.arg then fin (setOpen s i (some { r with registered := true })) cDone 0
    else fin s cMismatch 0
  | none =>
    let r := recOf i (leBytes 8 d.arg.toNat)
    let r := { r with check := crc16 (identBytes r), manual := true, registered := true }
    fin (openNew s i r) cDone 1

def orderClose (s : State) (d : Desc) : OrderRes :=
  let i := (posTarget d.target).getD 0
  match openRec s i with
  | some _ => fin (writeCap (bumpLife (closeRec s i 4) LIFE_CNT_CLOSED) i) cDone 1
  | none => fin s cDone 0

def orderExportAll (s : State) (d : Desc) : OrderRes :=
  let is := s.life.open_.map fun p => p.1
  later (exportAllServe (s.modLife fun x => { x with exportAll := x.exportAll ++ [(d, is, 0)] }))

def lifeCounters : List Nat := offsFrom 0x200 4 15

def orderLifeClear (s : State) : OrderRes := fin (s.clearRegs .life 0 lifeCounters) cDone

def lifeBody (op : Nat) (d : Desc) (s : State) : OrderRes :=
  match op with
  | 1 => orderReadRecord s d
  | 2 => orderReadRetired s d
  | 3 => orderRegister s d
  | 4 => orderClose s d
  | 5 => orderExportAll s d
  | _ => orderLifeClear s

end Sys2Proof.Machine
end

