-- ==== Sys2Proof/Machine/Regs.lean ====
section
/-! DEFINITION. Judging a value for a register: field clamps, the rules between fields and with the state, the guards of
the maker's registers, and the loading of registers from panels. -/

namespace Sys2Proof.Machine

/-! Field by field (R6, R7, R9, R11) -/

/-- The value a field stores. -/
def Clamp.fix : Clamp → Nat → Nat
  | .any, v => v
  | .range lo hi, v => clampTo lo hi v
  | .enum legal t, v => if v ∈ legal then v else t

/-- The word a register stores for a written word, and whether a field was corrected. Read-only fields stay, reserved bits
and write-only fields are 0. -/
def judge (fs : List Fld) (old v : Word) : Word × Bool :=
  fs.foldl (fun p f =>
    match f.acc with
    | .ro => (setBits p.1 f.hi f.lo (bits old f.hi f.lo), p.2)
    | .wo => p
    | .rw =>
      let y := f.clamp.fix (bits v f.hi f.lo)
      (setBits p.1 f.hi f.lo y, p.2 || decide (y ≠ bits v f.hi f.lo))) (0, false)

/-- The nearest signed value of an n-bit field. -/
def sclamp (n : Nat) (lo hi : Int) (v : Nat) : Nat :=
  let x := sint n v
  let y := if x < lo then lo else if hi < x then hi else x
  (y % 2 ^ n).toNat

/-- A route or backup register names a meadow whose images are the maker's (R445). -/
def namesMaker (s : State) (w : Word) : Bool := bit w 5 && decide (cfgRole s (bits w 4 0) = 3)

/-- The ceiling of pace levels (R411). -/
abbrev ceilingLevel : Nat := if Config.xb then 6 else 7

/-- MEADOW_GOV's rules between its fields (R440). -/
def govFix (w : Word) : Word :=
  let mx := min (bits w 10 8) ceilingLevel
  let mn := min (min (bits w 6 4) ceilingLevel) mx
  let dn := min (bits w 27 20) (bits w 19 12 - 1)
  setBits (setBits (setBits w 10 8 mx) 6 4 mn) 27 20 dn

/-- Rules between fields and with the state: the word stored and the reason of a correction, 0 for none. `w` has passed its
field clamps; `k` is the register's index in its array. -/
def refine (s : State) (i : Nat) (d : RegDesc) (k role : Nat) (old w : Word) : Word × Nat :=
  match d.hook with
  | .swParam =>
    if d.off = LANE_SW_PARAM then
      let x := limitParam (lreg s i LANE_SW_LIMIT) w
      (x.1, bnat x.2)
    else (w, 0)
  | .feeder =>
    if bits w 27 16 < bits w 11 0 then (setBits w 27 16 (bits w 11 0), 1) else (w, 0)
  | .gov => (govFix w, bnat (decide (govFix w ≠ w)))
  | .route => if role = 2 ∧ (namesMaker s old || namesMaker s w) = true then (old, 3) else (w, 0)
  | .backup =>
    if role = 2 ∧ (namesMaker s old || namesMaker s w) = true then (old, 3)
    else if bit w 5 ∧ bits w 4 0 = k then (setBits w 5 5 0, 1)
    else (w, 0)
  | .tbRate =>
    if s.fld .heath 0 HEATH_TB_DISC 1 0 ≠ 2 then (old, 2)
    else
      let y := w32 (sclamp 32 (-32768000) 32768000 w.toNat)
      (y, bnat (decide (y ≠ w)))
  | .tbMaster => if k = 2 then (setBits w 31 16 0, 0) else (w, 0)
  | _ => (w, 0)

/-- A write by the role is a denial because the register is a maker meadow's, a maker core's or a maker-owned channel's (R223,
R408, R439). -/
def makerGuard (s : State) (i : Nat) (d : RegDesc) (k role : Nat) : Bool :=
  match d.hook with
  | .gov => decide (cfgRole s i = 3 ∧ role < 3)
  | .makerMeadow => decide (cfgRole s i = 3 ∧ role < 3)
  | .sentinel => decide ((s.core k).role = 3 ∧ role < 3)
  | .hchan => decide (bit (s.reg .hedge 0 (d.off + d.stride * k)) 1 ∧ role < 3)
  | _ => false

/-- What a write stores, and the highest reason among its corrections (R11). -/
def fixWrite (s : State) (i : Nat) (d : RegDesc) (k role : Nat) (old v : Word) : Word × Nat :=
  let x := judge d.flds old v
  let y := refine s i d k role old x.1
  (y.1, max (bnat x.2) y.2)

/-! Loading from panels (R493) -/

/-- Fields of the registers that a panel loads and firmware cannot write, by block and offset of the array. -/
def loadFlds (b : Blk) (off : Nat) : Option (List Fld) :=
  let all : List Fld := [⟨31, 0, .rw, .any⟩]
  match b with
  | .qeng =>
    if off = QENG_POOL_SIZE then some [⟨19, 0, .rw, .any⟩]
    else if off = QENG_CLASS_A then
      some [⟨15, 0, .rw, .range 1 65535⟩, ⟨23, 16, .rw, .any⟩, ⟨25, 24, .rw, .enum [0, 1] 0⟩, ⟨27, 26, .rw, .enum [0, 1] 1⟩]
    else if off = QENG_CLASS_B then some [⟨23, 0, .rw, .any⟩]
    else if off = QENG_CLASS_IDLE_LO ∨ off = QENG_CLASS_IDLE_HI ∨ off = QENG_SLOTMAP then some all
    else none
  | .qdr => if off = QDR_GEOM then some [⟨1, 0, .rw, .enum [0, 1, 2] 2⟩, ⟨2, 2, .rw, .any⟩] else none
  | .lane =>
    if off = LANE_CAL_CFG then some [⟨9, 0, .rw, .range 0 1000⟩]
    else if off = LANE_CAL_LAT ∨ off = LANE_CAL_LON ∨ off = LANE_CAL_TZ_LO then some all
    else if off = LANE_CAL_TZ_HI then some [⟨8, 0, .rw, .any⟩, ⟨31, 16, .rw, .any⟩]
    else if off = LANE_CAL_EV_A then some [⟨3, 0, .rw, .enum [0, 1, 2, 3, 4, 5] 0⟩, ⟨31, 8, .rw, .any⟩]
    else if off = LANE_CAL_EV_B then some [⟨9, 0, .rw, .range 0 1000⟩, ⟨22, 16, .rw, .range 0 100⟩, ⟨30, 24, .rw, .any⟩]
    else if off = LANE_CAL_EV_C then some [⟨11, 0, .rw, .any⟩]
    else if off = LANE_ENTRY_CFG then some [⟨1, 0, .rw, .any⟩]
    else if off = LANE_ENTRY_LIST_LO ∨ off = LANE_ENTRY_LIST_HI then some all
    else if off = LANE_SPEED_EDGE_0 ∨ off = LANE_SPEED_EDGE_1 ∨ off = LANE_SPEED_EDGE_2 then some all
    else if off = LANE_SPEED_EDGE_3 then some [⟨23, 0, .rw, .any⟩]
    else if off = LANE_SW_NODE_CFG then some [⟨2, 0, .rw, .any⟩, ⟨23, 8, .rw, .any⟩]
    else if off = LANE_SW_NODE_SPACING ∨ off = LANE_SW_NODE_AHEAD_A_LO ∨ off = LANE_SW_NODE_AHEAD_A_HI
        ∨ off = LANE_SW_NODE_AHEAD_B_LO ∨ off = LANE_SW_NODE_AHEAD_B_HI then some all
    else if off = LANE_WS_CLASS_A then some [⟨15, 0, .rw, .any⟩, ⟨23, 16, .rw, .range 1 100⟩, ⟨31, 24, .rw, .any⟩]
    else if off = LANE_WS_CLASS_B then some [⟨15, 0, .rw, .any⟩, ⟨25, 16, .rw, .range 0 1000⟩]
    else if off = LANE_WS_NODE_CFG then some [⟨5, 0, .rw, .any⟩]
    else none
  | .meadow => if off = MEADOW_CFG then some [⟨1, 0, .rw, .any⟩, ⟨3, 2, .ro, .any⟩] else none
  | .life =>
    if off = LIFE_TYPE then some all
    else if off = LIFE_MODEL_LIM ∨ off = LIFE_MODEL_LIM_16 then some [⟨15, 0, .rw, .any⟩, ⟨25, 16, .rw, .range 0 1000⟩]
    else if off = LIFE_MODEL_CAP then some [⟨9, 0, .rw, .range 0 1000⟩, ⟨10, 10, .rw, .any⟩]
    else if off = LIFE_MODEL_CAP_16 then some [⟨9, 0, .rw, .range 0 1000⟩, ⟨31, 16, .rw, .range 1 65535⟩]
    else if 0x1000 ≤ off ∧ off < 0x2000 then some all
    else none
  | .heath =>
    if off = HEATH_SMP_CFG then
      some [⟨0, 0, .rw, .any⟩, ⟨1, 1, .ro, .any⟩, ⟨23, 8, .rw, .range 1 65535⟩, ⟨28, 24, .rw, .any⟩]
    else if off = HEATH_SMP_A then some [⟨12, 0, .rw, .any⟩, ⟨23, 16, .rw, .range 1 255⟩, ⟨31, 24, .rw, .any⟩]
    else if off = HEATH_SMP_B then some [⟨11, 0, .rw, .any⟩, ⟨27, 16, .rw, .any⟩]
    else none
  | .upl =>
    if off = UPL_RULE_A ∨ off = UPL_EXP_A then some (if off = UPL_RULE_A then all else [⟨25, 0, .rw, .any⟩])
    else if off = UPL_RULE_B then some [⟨25, 0, .rw, .any⟩]
    else if off = UPL_HO_OUT then some [⟨11, 0, .rw, .any⟩]
    else if off = UPL_HO_Q then some [⟨19, 0, .rw, .any⟩, ⟨25, 20, .rw, .range 1 32⟩]
    else if off = UPL_HO_IN then some [⟨25, 0, .rw, .any⟩]
    else if off = UPL_EXP_B then some [⟨12, 0, .rw, .range 1 6144⟩, ⟨31, 16, .rw, .any⟩]
    else none
  | _ => none

/-- The four bytes of a word, each changed by `f`. -/
def mapBytes (f : Nat → Nat) (w : Word) : Word :=
  w32 (((List.range 4).map fun b => f (bits w (8 * b + 7) (8 * b)) * 2 ^ (8 * b)).sum)

/-- A list byte and a predecessor byte after R190's clamp. -/
def listCode (c : Nat) : Nat := if c ≤ 0x80 ∨ 0xE0 ≤ c ∧ c ≤ 0xE7 then c else 0
def predCode (c : Nat) : Nat := if c ≤ 0x80 ∨ 0xD0 ≤ c ∧ c ≤ 0xD7 then c else 0

/-- The speed edges of one word: each at least the edge before plus 1, at most 250 (R210); `prev` is the edge before. -/
def edgeFix (n : Nat) (prev : Nat) (w : Word) : Word :=
  ((List.range n).foldl (fun (p : Word × Nat) b =>
    let e := min 250 (max (p.2 + 1) (bits w (8 * b + 7) (8 * b)))
    (setBits p.1 (8 * b + 7) (8 * b) e, e)) (w, prev)).1

/-- One byte of a slot map after R153's clamp. -/
def slotFix (at_ c : Nat) : Nat :=
  if at_ < 48 then c % 128
  else if at_ < 58 then (if c % 64 < 48 then c % 64 else 63)
  else 0

/-- The bits of a SLOTMAP word that are not reserved (R9, R153). -/
def slotMask (k : Nat) : Word :=
  w32 (((List.range 4).map fun j =>
    (if 4 * (k % 16) + j < 48 then 0x7F else if 4 * (k % 16) + j < 58 then 0x3F else 0) * 2 ^ (8 * j)).sum)

/-- Clamps at load that are no plain range of a field. -/
def loadSpecial (s : State) (b : Blk) (i : Nat) (d : RegDesc) (k : Nat) (w : Word) : Word :=
  match b with
  | .qeng =>
    if d.off = QENG_SLOTMAP then
      w32 (((List.range 4).map fun j =>
        slotFix (4 * (k % 16) + j) (bits w (8 * j + 7) (8 * j)) * 2 ^ (8 * j)).sum)
    else w
  | .lane =>
    if d.off = LANE_CAL_LAT then w32 (sclamp 32 (-900000) 900000 w.toNat)
    else if d.off = LANE_CAL_LON then w32 (sclamp 32 (-1800000) 1800000 w.toNat)
    else if d.off = LANE_CAL_TZ_HI then setBits w 31 16 (sclamp 16 (-840) 840 (bits w 31 16))
    else if d.off = LANE_CAL_EV_A then
      if bits w 3 0 = 1 then setBits w 31 16 (min 1439 (bits w 31 16))
      else if bits w 3 0 = 0 then w
      else setBits w 31 16 (sclamp 16 (-180) 180 (bits w 31 16))
    else if d.off = LANE_ENTRY_LIST_LO ∨ d.off = LANE_ENTRY_LIST_HI ∨ d.off = LANE_SW_NODE_AHEAD_A_LO
        ∨ d.off = LANE_SW_NODE_AHEAD_A_HI ∨ d.off = LANE_SW_NODE_AHEAD_B_LO ∨ d.off = LANE_SW_NODE_AHEAD_B_HI then
      mapBytes listCode w
    else if d.off = LANE_SW_NODE_CFG then
      setBits (setBits w 15 8 (predCode (bits w 15 8))) 23 16 (predCode (bits w 23 16))
    else if d.off = LANE_SPEED_EDGE_0 then edgeFix 4 0 w
    else if d.off = LANE_SPEED_EDGE_1 then edgeFix 4 (bits (lreg s i LANE_SPEED_EDGE_0) 31 24) w
    else if d.off = LANE_SPEED_EDGE_2 then edgeFix 4 (bits (lreg s i LANE_SPEED_EDGE_1) 31 24) w
    else if d.off = LANE_SPEED_EDGE_3 then edgeFix 3 (bits (lreg s i LANE_SPEED_EDGE_2) 31 24) w
    else w
  | .life =>
    if d.off = LIFE_MODEL_LIM ∨ d.off = LIFE_MODEL_LIM_16 then setBits w 15 0 (sclamp 16 (-400) 1500 (bits w 15 0))
    else if d.off = LIFE_MODEL_CAP_16 then setBits w 10 10 1
    else w
  | .heath =>
    if d.off = HEATH_SMP_B then setBits w 27 16 (max (bits w 27 16) (bits w 11 0)) else w
  | _ => w

/-- What a load stores, and the reason counted: 2 where the signer's role could not change the register, 1 for a clamp. -/
def fixLoad (s : State) (b : Blk) (i : Nat) (d : RegDesc) (k role : Nat) (v : Word) : Word × Nat :=
  let old := s.reg b i (d.off + d.stride * k)
  if makerGuard s i d k role then (old, 2)
  else
    match loadFlds b d.off with
    | some fs =>
      let x := judge fs old v
      let y := loadSpecial s b i d k x.1
      let kept := if b = .qeng ∧ d.off = QENG_SLOTMAP then x.1 &&& slotMask k else x.1
      (y, bnat (x.2 || decide (y ≠ kept ∧ d.off ≠ LIFE_MODEL_CAP_16)))
    | none =>
      let x := judge d.flds old v
      let y := refine s i d k role old x.1
      (y.1, if y.2 = 3 then 2 else max (bnat x.2) y.2)

/-- A register takes a panel's value; the Bool says whether a clamp is counted and has been. -/
def loadReg (count : Bool) (role : Nat) (p : State × Bool) (b : Blk) (i : Nat) (d : RegDesc) (k : Nat) (v : Word) :
    State × Bool :=
  let s := p.1
  let off := d.off + d.stride * k
  let (w, reason) := fixLoad s b i d k role v
  let s := s.setReg b i off w
  if count && decide (reason ≠ 0) then (s.logClamp b i reason off role, true) else (s, p.2)

/-- The descriptors of a block's registers at the given array offsets. -/
def descsAt (b : Blk) (offs : List Nat) : List RegDesc := (blkRegs b).filter fun d => decide (d.off ∈ offs)

/-- The registers a lane set loads into each lane of its group (R494). -/
def laneSetOffs : List Nat :=
  [LANE_CFG, LANE_TIMING, LANE_DEFAULT_STREAM, LANE_SW_CFG, LANE_SW_LIMIT, LANE_SW_PARAM, LANE_SW_PARAM2, LANE_ENTRY_CFG,
   LANE_ENTRY_LIST_LO, LANE_ENTRY_LIST_HI, LANE_SPEED_EDGE_0, LANE_SPEED_EDGE_1, LANE_SPEED_EDGE_2, LANE_SPEED_EDGE_3,
   LANE_SW_NODE_CFG, LANE_SW_NODE_SPACING, LANE_SW_NODE_AHEAD_A_LO, LANE_SW_NODE_AHEAD_A_HI, LANE_SW_NODE_AHEAD_B_LO,
   LANE_SW_NODE_AHEAD_B_HI, LANE_WS_CFG, LANE_WS_FEEDER, LANE_WS_CYCLE, LANE_WS_CLASS_A, LANE_WS_CLASS_B,
   LANE_WS_NODE_CFG]

/-- The registers a dimming calendar loads into each lane of its group (R494). -/
def calendarOffs : List Nat :=
  [LANE_CAL_CFG, LANE_CAL_LAT, LANE_CAL_LON, LANE_CAL_TZ_LO, LANE_CAL_TZ_HI, LANE_CAL_EV_A, LANE_CAL_EV_B, LANE_CAL_EV_C]

def lifeOffs : List Nat := LIFE_CFG :: LIFE_TYPE :: ((lifeRegs.map fun d => d.off).filter fun o => decide (0x1000 ≤ o ∧ o < 0x1300))

/-- The registers an uplink set loads into each uplink (R562). -/
def uplinkOffs : List Nat :=
  [UPL_CFG, UPL_MAC_LO, UPL_MAC_HI, UPL_IP6, UPL_PORTS, UPL_MGMT, UPL_RULE_A, UPL_RULE_B, UPL_HO_OUT, UPL_HO_Q, UPL_HO_IN,
   UPL_EXP_A, UPL_EXP_B]

/-- The timebase registers an uplink set loads (R565). -/
def tbOffs : List Nat := [HEATH_TB_DISC, HEATH_TB_UTC, HEATH_TB_MASTER]

/-- Every register of the given arrays of a block instance takes the panel's value, or its reset value where no record names
it. `rel` gives the record offset of a register from its offset in the window. -/
def loadBlock (count : Bool) (p : Panel) (rel : Nat → Nat) (b : Blk) (i : Nat) (offs : List Nat) (x : State × Bool) :
    State × Bool :=
  (offs.flatMap fun o => descsAt b [o]).foldl (fun x d =>
    (List.range d.count).foldl (fun x k =>
      let off := d.off + d.stride * k
      loadReg count p.role x b i d k ((panelReg p (rel off)).getD (resetWord (regAddr b i off)))) x) x

/-- Record offset of a register of a block window (R492). -/
abbrev relOf (b : Blk) (i off : Nat) : Nat := regAddr b i off - 0xE0000000

abbrev laneGroup (g : Nat) : List Nat := (List.range 12).map fun k => 12 * g + k

/-- A lane set's registers are loaded (R494); `front` keeps the parameters of the Heath-side front (R198). -/
def loadLaneSet (count front : Bool) (p : Panel) (g : Nat) (x : State × Bool) : State × Bool :=
  let offs := if front then laneSetOffs.filter fun o => decide (o ≠ LANE_SW_PARAM ∧ o ≠ LANE_SW_PARAM2) else laneSetOffs
  (laneGroup g).foldl (fun x l => loadBlock count p (relOf .lane l) .lane l offs x) x

/-- A calendar's registers are loaded alike into every lane of the group. -/
def loadCalendar (count : Bool) (p : Panel) (g : Nat) (x : State × Bool) : State × Bool :=
  (laneGroup g).foldl (fun x l =>
    let y := loadBlock count p id .lane l calendarOffs x
    (y.1.modLane l fun z => { z with calLoaded := true }, y.2)) x

def loadUplinks (count : Bool) (p : Panel) (x : State × Bool) : State × Bool :=
  (List.range 4).foldl (fun x n => loadBlock count p (relOf .upl n) .upl n uplinkOffs x) x

def loadLife (count : Bool) (p : Panel) (x : State × Bool) : State × Bool :=
  loadBlock count p (relOf .life 0) .life 0 lifeOffs x

end Sys2Proof.Machine
end

