-- ==== Sys2Proof/Machine/Seam.lean ====
section
/-! DEFINITION. Seams between domains and islands: their states, severing, stopping and realignment, what waiting accesses
meet, and the counters. -/

namespace Sys2Proof.Machine

/-- What a seam not listed is: as power-on reset leaves it (R480). -/
def seamDef (k : Nat) : Seam :=
  if k < 50 then { st := .severed, cause := 1 } else if k < 202 then { st := .down, cause := 1 } else { st := .live, cause := 0 }

def State.seam (s : State) (k : Nat) : Seam := (tfind s.seams k).getD (seamDef k)

def State.putSeam (s : State) (k : Nat) (x : Seam) : State := { s with seams := tset (seamDef k) s.seams k x }

def SeamSt.code : SeamSt → Nat
  | .live => 0 | .severed => 1 | .down => 2 | .stopped => 3 | .realigning => 4

abbrev State.bumpSeam (s : State) (off : Nat) : State := s.bump .seam 0 off

/-- The seams of the islands inside a domain (R463). -/
def islandsOf (d : Nat) : List Nat :=
  if 32 ≤ d ∧ d < 44 then (laneGroup (d - 32)).map seamLane
  else if 44 ≤ d ∧ d < 48 then [seamChan (d - 44)]
  else if d = 48 then (List.range 4).map seamUpl
  else []

/-- The domain an island lies in. -/
def islandDom (k : Nat) : Nat := if k < 194 then laneDom (k - 50) else if k < 198 then 44 + (k - 194) else 48

/-- The island seam a core address lies across: LANE_LINK, UPL_LINK and the bulk window (R463, log entry 29). -/
def islandAt (s : State) (addr : Nat) : Option Nat :=
  if 0x40000000 ≤ addr ∧ addr < 0x80000000 then (bulkLoc s (addr - 0x40000000)).map fun p => seamChan p.1
  else
    match blkOf addr with
    | some (.lane, l, off) => if off = LANE_LINK then some (seamLane l) else none
    | some (.upl, n, off) => if off = UPL_LINK then some (seamUpl n) else none
    | _ => none

/-- The address of a core's hung access, and whether it is a store. -/
def hangAddr : Hang → Option (Nat × Bool)
  | .ctlWrite a _ => some (a, true)
  | .ctlRead a => some (a, false)
  | .mem a st => some (a, st)
  | _ => none

/-- Cores whose access waits at seam `k`. -/
def hungAt (s : State) (k : Nat) : List (Nat × Nat × Bool) :=
  s.cores.filterMap fun p =>
    match p.2.hang with
    | some h =>
      match hangAddr h.what with
      | some (a, st) => if islandAt s a = some k then some (p.1, a, st) else none
      | none => none
    | none => none

/-- A waiting access of a core completes ABSENT: cause 6 or 7 (R472). -/
def hungAbsent (s : State) (r addr : Nat) (store : Bool) : State :=
  syncTrap ((s.bumpSeam SEAM_CNT_ABSENT).modCore r fun c => { c with hang := none }) r (if store then 7 else 6) (w32 addr)

/-! What stands at a seam -/

/-- Entries in every FIFO of a seam. -/
def fifoCount (s : State) (k : Nat) : Nat :=
  (s.fifos.map fun p => if p.1 / 8 = k then p.2.length else 0).sum

/-- Pulses of a seam whose toggle is in its acknowledge phase, and pending ones (R472). -/
def pulseCount (s : State) (k : Nat) : Nat :=
  (s.pulses.map fun p => if prodSeam p.1 = some k then bnat (phaseRuns s p.2.ackEnd) + bnat p.2.pending.isSome else 0).sum

/-- A severing discards what stands at the seam, counting each item (R472). -/
def seamDrop (s : State) (k : Nat) : State :=
  let n := fifoCount s k + pulseCount s k
  let s := valuesDrop s k
  let s := s.pulses.foldl (fun s p =>
    if prodSeam p.1 = some k then s.setPulse p.1 { p.2 with ackEnd := none, pending := none } else s) s
  let s := s.fifos.foldl (fun s p => if p.1 / 8 = k then s.setFifo p.1 [] else s) s
  if n = 0 then s else lostItems s k n

/-- Seams go into SEVERED together; HC6 fires for each change, and what waits there completes ABSENT (R472, R474, R476). -/
def severAll (s : State) (cause : Nat) (ks : List Nat) : State :=
  let fresh := ks.filter fun k => decide ((s.seam k).st ≠ .severed)
  let s := ks.foldl (fun s k => s.putSeam k { st := .severed, cause := cause, since := s.uptime }) s
  let s := fresh.foldl seamDrop s
  let s := s.bumpBy .seam 0 SEAM_CNT_SEVERINGS fresh.length
  let hung := fresh.flatMap fun k => hungAt s k
  let waits := s.seamWaits.filter fun w => w.seam.any fun k => decide (k ∈ fresh)
  let s := { s with seamWaits := s.seamWaits.filter fun w => !(w.seam.any fun k => decide (k ∈ fresh))
                    seamEnds := s.seamEnds ++ waits.map fun w => ⟨w.req, cAbsent, 0⟩ }
  let s := hung.foldl (fun s h => hungAbsent s h.1 h.2.1 h.2.2) s
  let s := s.bumpBy .seam 0 SEAM_CNT_ABSENT waits.length
  if fresh.isEmpty then s else s.fire (fresh.map fun _ => (6, 0))

/-- Islands whose domain is off or FAULTED are down, both sides being off (R471). -/
def downAll (s : State) (cause : Nat) (ks : List Nat) : State := ks.foldl (fun s k => s.putSeam k { st := .down, cause := cause }) s

/-- A reset side leaves reset with its clock running (R473). -/
def releaseSeam (s : State) (k : Nat) : State :=
  if (s.seam k).st = .severed then s.putSeam k { st := .realigning, cause := (s.seam k).cause } else s

/-- Realignment is complete: LIVE, and a SEVERED fault's condition is gone (R473, R476). -/
def seamLive (s : State) (k : Nat) : State :=
  if (s.seam k).st = .realigning then
    condGone (s.putSeam k { st := .live, cause := 0 }) 0x3B k
  else s

/-- A register access of a core into an island meets this (R469 to R472). -/
inductive Across where
  | open_ | absent | waits
  deriving DecidableEq, Repr

def acrossSeam (s : State) (k : Nat) : Across :=
  match (s.seam k).st with
  | .live => .open_
  | .severed => .absent
  | .down => .absent
  | .stopped => .waits
  | .realigning => .waits

/-- Bytes of the frame now leaving that its island has not taken, at 800 ns a byte, as far as its transmit FIFO holds them: what
stays there while the clock stands (R63, R467, R470). -/
def txStanding (s : State) (l : Nat) : Nat :=
  let x := s.lane l
  if x.tx.isSome then min 32 (x.line.length - (s.uptime - x.lastTx) / 800) else 0

/-- ISLAND_CLOCK_STOP (R470): nothing is lost, and FIFOs toward the island hold what they have. -/
def clockStop (s : State) (k : Nat) : State :=
  if (s.seam k).st = .live ∧ 50 ≤ k then
    let s := if k < 194 then s.setFifo (fifoKey k .tx) (List.replicate (txStanding s (k - 50)) 0) else s
    s.putSeam k { st := .stopped, cause := 0 }
  else s

/-- A request into a stopped channel island takes an entry of its request FIFO, or waits for one (R467, R468, R470). -/
def requestStands (s : State) (k addr : Nat) : State :=
  if 194 ≤ k ∧ k < 198 then (fifoPut s k .requests addr).getD s else s

/-- The requester of an ended access takes its answer: debug access, or the port whose signed request's action it was. -/
def awaited (s : State) (req : Nat) : Bool :=
  decide (req = 411) || match s.request with | some q => decide (q.port = req) && decide (q.wait = .access) | none => false

/-- SEAM_ACCESS_TIMEOUT: the wait of a requester 256 or above ends with TIMEOUT and no effect (R470). -/
def accessTimeout (s : State) (req : Nat) : State :=
  let due := fun (w : SeamWait) =>
    w.seam.isSome && decide (w.req = req) && decide (w.since + s.fld .seam 0 SEAM_CFG 9 0 * 1000000 ≤ s.uptime)
  let ended := s.seamWaits.filter due
  { s.bumpBy .seam 0 SEAM_CNT_TIMEOUT ended.length with
      seamWaits := s.seamWaits.filter fun w => !due w
      seamEnds := s.seamEnds ++ (ended.filter fun w => awaited s w.req).map fun w => ⟨w.req, cTimeout, 0⟩ }

/-- The offsets COUNTERS_CLEAR of the seams clears (R482). -/
def seamCounters : List Nat := offsFrom 0x140 4 10 ++ offsFrom SEAM_CNT 4 203

/-- SEAM_STATUS (R481). -/
def seamStatus (s : State) : Nat :=
  let xs := (List.range 203).map fun k => s.seam k
  let n := fun (f : Seam → Bool) => (xs.filter f).length
  n (fun x => decide (x.st = .severed)) + 2 ^ 8 * n (fun x => decide (x.st = .severed) && decide (x.cause = 5))
    + 2 ^ 16 * n (fun x => decide (x.st = .down)) + 2 ^ 24 * n (fun x => decide (x.st = .stopped))

/-- SEAM_STATE_s (R481): PULSE, VALUE and ACCESS everywhere, FIFO but at the timebase's seam. -/
def seamState (s : State) (k : Nat) : Nat :=
  let x := s.seam k
  x.st.code + 8 * (if x.st = .live ∨ x.st = .stopped then 0 else x.cause) + (if k = 202 then 0xB00 else 0xF00)

end Sys2Proof.Machine
end

