-- ==== Sys2Proof/Machine/Power.lean ====
section
/-! DEFINITION. Domains, device states, wakes and meadow sleep: starting and stopping a domain step by step, retry and
FAULTED, the descent, the wake sequence, pad groups, and the pace governor. -/

namespace Sys2Proof.Machine

/-! Bits, pads, device states -/

/-- HEATH_DOM_ON (R422). -/
abbrev domReg (d : Nat) : Nat := if d < 32 then HEATH_DOM_ON_LO else HEATH_DOM_ON_HI
abbrev domBit (s : State) (d : Nat) : Bool := bit (s.reg .heath 0 (domReg d)) (d % 32)
def setDomBit (s : State) (d : Nat) (b : Bool) : State := s.setFld .heath 0 (domReg d) (d % 32) (d % 32) (bnat b)

/-- The bit of HEATH_DOM_SAVED. -/
def savedBit (s : State) (d : Nat) : Bool :=
  bit (s.reg .heath 0 (if d < 32 then HEATH_DOM_SAVED_LO else HEATH_DOM_SAVED_HI)) (d % 32)

/-- The pad group of a domain (R430). -/
def domPad (d : Nat) : Option Nat :=
  if 44 ≤ d ∧ d < 48 then some (d - 44) else if 32 ≤ d ∧ d < 44 then some (d - 28)
  else if d = 48 then some 16 else if d = 49 then some 17 else none

def padDom (k : Nat) : Nat := if k < 4 then 44 + k else if k < 16 then k + 28 else if k = 16 then 48 else 49

abbrev padIsHeld (s : State) (k : Nat) : Bool := tget false s.padHeld k
abbrev setPad (s : State) (k : Nat) (b : Bool) : State := { s with padHeld := tset false s.padHeld k b }

/-- The pins of a domain are its blocks' own. -/
def padFree (s : State) (d : Nat) : Bool := match domPad d with | some k => !padIsHeld s k | none => true

/-- A channel that is not fitted is never started (R156). -/
abbrev domFit (s : State) (d : Nat) : Bool := decide (d < 44 ∨ 47 < d) || fitted s (d - 44)

/-- The sequencer will start the domain: a channel is fitted, and in RECOVERY only D49 (R156, R580). -/
abbrev canStart (s : State) (d : Nat) : Bool := domFit s d && (!s.boot.recovery || decide (d = 49))

abbrev devTarget (s : State) : Nat := s.fld .heath 0 HEATH_DEV_MODE 1 0

/-! Blocks of a domain -/

/-- An uplink's state, LINK_CHANGE firing between LINK_DOWN and LINK_UP (R560). -/
def setUplSt (s : State) (n st : Nat) : State :=
  let old := (s.upl n).st
  let s := s.modUpl n fun x => { x with st := st }
  if old = 3 ∧ st = 4 ∨ old = 4 ∧ st = 3 then s.fire1 (prodUpl n 64) else s

/-- What an uplink's domain held is lost; peer records are the Heath's (R552). -/
def uplinkLost (s : State) (n st : Nat) : State :=
  (setUplSt s n st).modUpl n fun x =>
    { x with an := false, flaps := 0, rxHeld := [], rxBytes := 0, expSeq := [], expNext := [], lastSent := [] }

/-- A lane's registers outside its Heath-side front take their reset values (R198, R570). -/
def laneRegsReset (s : State) (l : Nat) : State :=
  let keep := [LANE_SW_PARAM, LANE_SW_PARAM2, LANE_OVR, LANE_OVR_END] ++
    (List.range 128).flatMap fun k => [LANE_SW_NODE_OVR + 0x40 * k, LANE_SW_NODE_OVR_END + 0x40 * k]
  let vals := keep.map fun o => (o, lreg s l o)
  vals.foldl (fun s p => s.setReg .lane l p.1 p.2) (s.clearWin .lane l 0x100 0x10000)

/-- The registers of a lane group's lanes at its start: reset, then the panels in force (R198, R570). -/
def laneGroupRegs (s : State) (g : Nat) : State :=
  let s := (laneGroup g).foldl laneRegsReset s
  let s := match s.inForce (288 + g) with | some p => (loadLaneSet false true p g (s, false)).1 | none => s
  match s.inForce (300 + g) with | some p => (loadCalendar false p g (s, false)).1 | none => s

/-- MEADOW_CFG and MEADOW_MBX are loaded from the meadow data in force, and IMAGE_ROLE follows the panels (R405, R494,
R497). -/
def meadowCfg (count : Bool) (s : State) (m : Nat) : State × Bool :=
  let x := match s.inForce (256 + m) with
    | some p => loadBlock count p (relOf .meadow m) .meadow m [MEADOW_CFG, MEADOW_MBX] (s, false)
    | none => (s.clearWin .meadow m 0x110 0x118, false)
  (x.1.setFld .meadow m MEADOW_CFG 3 2 (imageRole x.1 m), x.2)

/-- The registers of an uplink at D48's start: reset, then the uplink set in force (R562, R570). -/
def uplinkRegs (s : State) : State :=
  let s := (List.range 4).foldl (fun s n => s.clearWin .upl n 0x100 0x10000) s
  match s.inForce 319 with | some p => (loadUplinks false p (s, false)).1 | none => s

/-- A lane enters LINKING or STOPPED once its group's pins are free (R94, R432). -/
def laneBegin (s : State) (l : Nat) : State :=
  if (s.lane l).st = .off then
    if bit (lreg s l LANE_CFG) 3 then enterLinking s l else setLaneSt s l .stopped
  else s

/-- An uplink begins training: DISABLED or LINK_DOWN (R420, R560). -/
def uplinkBegin (s : State) (n : Nat) : State :=
  if (s.upl n).st = 0 ∨ (s.upl n).st = 2 then setUplSt s n (if bit (s.reg .upl n UPL_CFG) 0 then 3 else 2) else s

/-- The blocks of a domain that is on and whose pins are free begin their work. -/
def blocksBegin (s : State) (d : Nat) : State :=
  if 32 ≤ d ∧ d < 44 then (laneGroup (d - 32)).foldl laneBegin s
  else if d = 48 then (List.range 4).foldl uplinkBegin s
  else s

/-- The life engine and Mantle stop (R41, R254): what the intake holds is applied first, and Mantle's orders in hand end, but for an
apply whose copy carries its mark, which cannot fail (R500, R504). -/
def mantleDown (s : State) (code : Nat) : State :=
  let s := if code = 0 then
      foldTo s.life.intake.length (fun s _ => match s.life.intake with | f :: _ => intakeServe s f.isId | [] => s) s
    else s
  let exports := s.life.exportAll
  let s := { s with hwHeld := s.hwHeld.filter fun h => decide (h.1 = 5) }
  let s := s.modLife fun x => { x with st := code, intake := [], exportAll := [] }
  let s := exports.foldl (fun s x => complete s .life 0 5 x.1 (if code = 1 then cFaulted else cNotNow) x.2.2 []) s
  let left := (match s.mantle.fragOrder with | some (o, _) => [o] | none => []) ++
    (match s.mantle.job with | some j => if j.phase = 4 then [] else [⟨.mantle, 0, if j.phase = 1 then 1 else 2, j.d⟩] | none => []) ++ s.mantle.waiting
  let s := s.modMantle fun x =>
    { x with st := code, reloadReady := false, fragments := [], fragOrder := none, waiting := [], holdBase := 0, holdSize := 0,
             job := match x.job with | some j => if j.phase = 4 then some j else none | none => none }
  left.foldl (fun s o => complete s .mantle 0 o.op o.d (if code = 1 then cFaulted else cNotNow) (if o.op = 2 then 255 else 0) []) s

/-- The life engine and Mantle run: models from the panel in force, held entries written (R267, R451, R533, R535). -/
def mantleUp (s : State) : State :=
  let s := (s.clearWin .life 0 0x100 0x200).clearWin .life 0 0x1000 0x3000
  let s := match s.inForce 317 with | some p => (loadLife false p (s, false)).1 | none => s
  let s := s.modLife fun x => { x with st := if x.modelled then 4 else 3 }
  let s := s.modMantle fun x =>
    { x with st := if s.boot.recovery then 4 else 3, ceiling := x.fwCeiling, plLast := 0,
             inForce := match tget none x.inForce 320 with
               | some f => tset none x.inForce 320 (some { f with pending := false })
               | none => x.inForce }
  jFlush (capAll (checkRecords s))

/-- QPWRn falls: what the SRAM held is lost (R168, log entry 12). -/
def qpwrOff (s : State) (c : Nat) : State :=
  s.modChan c fun x => { x with qpwr := false, stamp := false, bulk := [], bulkErr := [] }

/-- The blocks of a domain read their STARTING states (R142, R402, R269, R535). -/
def blocksStarting (s : State) (d : Nat) : State :=
  if d < 32 then setMeadowSt s d .starting
  else if 44 ≤ d ∧ d < 48 then setChanSt s (d - 44) 2
  else if d = 49 then (s.modLife fun x => { x with st := 2 }).modMantle fun x => { x with st := 2 }
  else s

/-- The blocks of a domain go FAULTED (R41, R94, R142, R402). -/
def blocksFaulted (s : State) (d : Nat) : State :=
  if d < 32 then setMeadowSt s d .faulted
  else if d < 44 then (laneGroup (d - 32)).foldl (fun s l => laneLost s l .faulted) s
  else if d < 48 then setChanSt s (d - 44) 1
  else if d = 48 then (List.range 4).foldl (fun s n => uplinkLost s n 1) s
  else mantleDown s 1

/-- Task inputs of a domain (R219). -/
def domTis (d : Nat) : List Nat :=
  if d < 32 then (List.range 32).map fun j => 32 * d + j
  else if d < 44 then (List.range 120).map fun j => 1024 + 120 * (d - 32) + j
  else if d = 48 then (List.range 256).map fun j => 2480 + j
  else if d = 49 then (List.range 4).map fun j => 2852 + j
  else []

/-! Starting a domain (R420, R448) -/

/-- Step 1 begins, or step 2 where the oscillator is tried first. -/
def beginDom (s : State) (d : Nat) : State :=
  let s := (setDomBit s d true).bump .heath 0 HEATH_PWR_CNT_STARTS
  let osc := decide (d = 48 ∧ s.xref.st = 3)
  let s := s.modDom d fun x =>
    { x with st := .starting, step := if osc then 2 else 1, retry := false, failed := 0, since := s.uptime, offWanted := false,
             onWanted := false }
  let s := if osc then { s with xref := { st := 1, retry := false, since := s.uptime } } else s
  let s := if 44 ≤ d ∧ d < 48 then s.modChan (d - 44) fun y => { y with cfg := s.reg .qdr (d - 44) QDR_CFG } else s
  blocksStarting (severAll s 2 [d]) d

/-- A domain that is off starts. D49 comes first, and the start then waits for its power-good; a D49 that starts and was to go off
again stays on for it (R35, R421). -/
def startDom (s : State) (d : Nat) : State :=
  let x := s.dom d
  if canStart s d = false then s
  else if x.st = .stopping then s.modDom d fun x => { x with onWanted := true }
  else if x.st ≠ .off then s
  else
    let s := if d ≠ 49 ∧ (s.dom 49).offWanted = true then
        (setDomBit s 49 true).modDom 49 fun x => { x with offWanted := false }
      else s
    let y := s.dom 49
    if d ≠ 49 ∧ (y.st = .off ∨ y.st = .stopping) then
      let s := if y.st = .off then beginDom s 49 else s.modDom 49 fun x => { x with onWanted := true }
      let s := (setDomBit s d true).modDom d fun x => { x with st := .starting, step := 0, retry := false, failed := 0, onWanted := true }
      blocksStarting (severAll s 2 [d]) d
    else beginDom s d

/-- Starts that waited for D49's power-good begin. -/
def startWaiting (s : State) : State :=
  (List.range 49).foldl (fun s d =>
    if (s.dom d).st = .starting ∧ (s.dom d).onWanted = true then beginDom s d else s) s

/-! Wakes (R443 to R447, R452) -/

/-- The group of R447 a domain comes up in. -/
def wakeGroup (d : Nat) : Nat :=
  if d < 32 then 5 else if d < 44 then 4 else if d < 48 then 2 else if d = 48 then 3 else 1

/-- A domain no longer holds the groups after its own: power-good, or FAULTED (R447). -/
def domPassed (s : State) (d : Nat) : Bool :=
  let x := s.dom d
  match x.st with
  | .on | .faulted => true
  | .starting => decide (3 ≤ x.step ∨ 3 ≤ x.failed)
  | _ => false

/-- A domain has ended its start. -/
abbrev domSettled (s : State) (d : Nat) : Bool := decide ((s.dom d).st = .on ∨ (s.dom d).st = .faulted)

/-- A domain concerned in the open wake: it comes up with its group, or at once where that has passed (R447). -/
def wakeAdd (s : State) (d : Nat) : State :=
  match s.wake with
  | none => s
  | some w =>
    if domSettled s d || !canStart s d then s
    else
      let w := if d < 32 then { w with meadows := insNat d w.meadows } else { w with doms := insNat d w.doms }
      let s := { s with wake := some w }
      if s.dev ≠ .descending ∧ wakeGroup d ≤ w.group then startDom s d else s

def setCause (s : State) (hi lo v : Nat) : State := s.setFld .heath 0 HEATH_WAKE_CAUSE hi lo v

/-- A wake names a FAULTED meadow: its backup instead, never that one's backup (R452). -/
def redirect (s : State) (m : Nat) : State :=
  let b := s.reg .heath 0 (HEATH_BACKUP + 4 * m)
  let tgt := bits b 4 0
  if bit b 5 ∧ (s.dom tgt).st ≠ .faulted then
    let s := setCause s 8 8 1
    let s := (s.setFld .heath 0 HEATH_WAKE_CAUSE2 22 18 m).setFld .heath 0 HEATH_WAKE_CAUSE2 27 23 tgt
    wakeAdd (s.bump .heath 0 HEATH_WAKE_CNT_REDIRECTS) tgt
  else (setCause s 9 9 1).bump .heath 0 HEATH_WAKE_CNT_UNDELIVERED

/-- A wake names a meadow (R445). -/
def nameMeadow (s : State) (m : Nat) : State := if (s.dom m).st = .faulted then redirect s m else wakeAdd s m

/-- The meadow a route names. -/
def routeMeadow (s : State) (k : Nat) : Option Nat :=
  let w := s.reg .heath 0 (HEATH_WAKE_ROUTE + 4 * k)
  if bit w 5 then some (bits w 4 0) else none

/-! The descent (R425) -/

/-- The domains a descent's group takes down. -/
def descentGroup (s : State) (k : Nat) : List Nat :=
  match k with
  | 0 => s.restAtDescent
  | 1 => [48]
  | 2 => (List.range 12).map fun g => 32 + g
  | 3 => [44, 45, 46, 47]
  | 4 => [49]
  | _ => []

/-- Step 1 of R419: new work meets a domain that is off. -/
def stopDom (s : State) (d : Nat) : State :=
  let x := s.dom d
  match x.st with
  | .starting => s.modDom d fun x => { x with offWanted := true }
  | .on =>
    let s := s.bump .heath 0 HEATH_PWR_CNT_STOPS
    let s := if d < 32 then setMeadowSt s d .stopping
      else if d < 44 then
        (laneGroup (d - 32)).foldl (fun s l =>
          let s := setLaneSt s l .off
          let s := cmdsLost (laneQuiet s l cNotNow) l cNotNow
          let rs := (s.lane l).releases
          rs.foldl (fun s w => complete s .lane l 6 w.d cNotNow 0 []) (s.modLane l fun x => { x with releases := [] })) s
      else if d < 48 then chanLost (setChanSt s (d - 44) 0) (d - 44)
      else if d = 48 then (List.range 4).foldl (fun s n => setUplSt s n 0) s
      else mantleDown s 0
    s.modDom d fun x => { x with st := .stopping, offWanted := false, since := s.uptime }
  | _ => s

/-- Every domain of the group is down. -/
def groupDown (s : State) (k : Nat) : Bool :=
  (descentGroup s k).all fun d => decide ((s.dom d).st = .off ∨ (s.dom d).st = .faulted)

/-- The descent leaves for WAKING at a step boundary: what was taken down and saved comes up again (R426). -/
def abortDescent (s : State) : State :=
  match s.wake with
  | none => s
  | some w =>
    let s := s.bump .heath 0 HEATH_PWR_CNT_ABORT
    let ds := ((List.range 18).map fun k => 32 + k).filter fun d =>
      savedBit s d && !domSettled s d && canStart s d
    setDev { s with wake := some { w with doms := ds.foldl (fun l d => insNat d l) w.doms, group := 0 } } .waking

/-- At a step boundary the descent goes on with its next group, or gives way to a wake. -/
def descentStep : Nat → State → State
  | 0, s => s
  | n + 1, s =>
    if s.dev = .descending ∧ groupDown s s.descent = true then
      if s.wake.isSome then abortDescent s
      else if s.descent < 5 then
        let k := s.descent + 1
        descentStep n ((descentGroup s k).foldl stopDom { s with descent := k })
      else s
    else s

/-- A descent begins (R424, R425). -/
def startDescent (s : State) : State :=
  let s := (s.setReg .heath 0 HEATH_DOM_SAVED_LO (s.reg .heath 0 HEATH_DOM_ON_LO)).setReg .heath 0 HEATH_DOM_SAVED_HI
    (s.reg .heath 0 HEATH_DOM_ON_HI)
  let ms := (List.range 32).filter fun m => decide ((s.meadow m).st = .rest)
  let s := setDev { s with descent := 0, restAtDescent := ms } .descending
  descentStep 6 (ms.foldl stopDom s)

/-- The boot sequence or a commit is at work; no descent begins meanwhile (R504, R578, log entry 35). -/
def bootBusy (s : State) : Bool := decide (s.boot.step ≠ 0 ∧ s.boot.step ≠ 8) || decide (2 ≤ loaderPhase s)

/-- The device's state is judged (R424, R428). -/
def judgeDev (s : State) : State :=
  if bootBusy s then s else
  match s.dev with
  | .run =>
    if s.allResting = false ∨ devTarget s = 0 then s
    else if devTarget s = 1 then setDev s .doze
    else if s.wake.isSome then s
    else startDescent s
  | .doze =>
    if s.allResting = false then setDev s .run
    else if 2 ≤ devTarget s ∧ s.wake.isSome = false then startDescent s
    else s
  | _ => s

/-! The wake's progress -/

/-- The wake ends: its inputs' tasks end, WAKE_DONE fires, and the device is in RUN or DOZE (R446, R447). -/
def wakeDone (s : State) (w : Wake) : State :=
  let s := w.inputs.foldl (fun s k => tiEnd s (tiWake k)) { s with wake := none }
  let s := s.fire [(prodSeq 0, match w.hop with | some h => h + 1 | none => 0)]
  let s := if s.dev = .waking then setDev s (if s.allResting ∧ devTarget s = 1 then .doze else .run) else s
  judgeDev s

/-- Groups are enabled as the groups before them have passed, and the wake ends when all it concerns has (R447). -/
def wakeStep : Nat → State → State
  | 0, s => s
  | n + 1, s =>
    match s.wake with
    | none => s
    | some w =>
      if s.dev = .descending ∨ w.group = 0 ∧ (s.xref.st = 1 ∨ s.xref.st = 2) then s
      else if w.group < 5 then
        let here := w.doms.filter fun d => decide (wakeGroup d = w.group)
        if here.all (domPassed s) then
          let s := { s with wake := some { w with group := w.group + 1 } }
          let next := if w.group = 4 then w.meadows else w.doms.filter fun d => decide (wakeGroup d = w.group + 1)
          wakeStep n (next.foldl startDom s)
        else s
      else if w.doms.all (domSettled s) && w.meadows.all (domSettled s) then wakeDone s w
      else s

/-- What follows a change of a domain's state. -/
def sequencer (s : State) : State := judgeDev (wakeStep 8 (descentStep 6 s))

/-! The end of a start -/

/-- The orders that waited for a domain's start complete (R434, R435). -/
def endOrders (s : State) (d code : Nat) : State :=
  let os := (s.dom d).orders
  let s := s.modDom d fun x => { x with orders := [] }
  os.foldl (fun s o =>
    complete s o.blk o.inst o.op o.d code
      (if o.blk = .heath ∧ code = cFaulted then (s.dom d).failed else o.d.arg.toNat) []) s

/-- A failed step: one retry after 10 µs, then FAULTED (R450). -/
def failStep (s : State) (d step : Nat) : State :=
  let x := s.dom d
  if x.retry = false then
    let s := s.modDom d fun x => { x with retry := true, failed := step, step := 0, since := s.uptime }
    let s := s.bump .heath 0 HEATH_WAKE_CNT_RETRIES
    let s := severAll (severAll s 2 [d]) 4 ((islandsOf d).filter fun k => decide ((s.seam k).st ≠ .down))
    s.fire1 (prodSeq 3)
  else
    let s := s.modDom d fun x => { x with st := .faulted, failed := step, step := 0, retry := false, offWanted := false, onWanted := false }
    let s := downAll (severAll (setDomBit s d false) 3 [d]) 3 (islandsOf d)
    let s := blocksFaulted s d
    let s := if 44 ≤ d ∧ d < 48 ∧ (s.chan (d - 44)).qpwr = true then setPad s (d - 44) true else s
    let s := condPresent s 0x34 d (d64 step)
    let s := s.fire1 (prodSeq 1)
    let s := journalOrHold s (mkAct s 409 0x8001 (w32 d) 0 (d64 step) 0 1)
    let s := (s.setFld .heath 0 HEATH_WAKE_STATUS 2 0 step).setFld .heath 0 HEATH_WAKE_STATUS 9 4 d
    let s := s.bump .heath 0 HEATH_WAKE_CNT_FAILURES
    let s := endOrders s d cFaulted
    match s.wake with
    | some w => if d < 32 ∧ d ∈ w.meadows then redirect s d else s
    | none => s

/-- The level a meadow starts at from Off (R414). -/
def startLevel (s : State) (m : Nat) : Nat :=
  if s.fld .meadow m MEADOW_GOV 1 0 = 0 then s.fld .meadow m MEADOW_GOV 10 8 else s.fld .meadow m MEADOW_GOV 6 4

/-- What a pin of the device shows: a level it drives, a line its block toggles, or nothing driven. -/
inductive PinLevel where
  | low | high | driven | floats
  deriving DecidableEq, Repr

/-- The pins of R169 of one channel: QDRn_RPS_N, QDRn_WPS_N, K, K# and DOFF_N. -/
structure QdrPins where
  rps : PinLevel
  wps : PinLevel
  k : PinLevel
  kn : PinLevel
  doff : PinLevel
  deriving DecidableEq, Repr

/-- Channel n's pins (R165, R169, R430): held at the levels of R169 while the pad group is held, or QPWRn is asserted and the
domain is without power; else the channel's own while it has power, K running from step 4, and floating without. -/
def qdrPins (s : State) (n : Nat) : QdrPins :=
  let x := s.dom (44 + n)
  let powered := decide (x.st = .on ∨ x.st = .stopping ∨ x.st = .starting ∧ 3 ≤ x.step)
  if padIsHeld s n || ((s.chan n).qpwr && !powered) then ⟨.high, .high, .low, .high, .low⟩
  else if powered = false then ⟨.floats, .floats, .floats, .floats, .floats⟩
  else if x.st = .starting ∧ x.step < 6 then ⟨.high, .high, .low, .high, .low⟩
  else ⟨.driven, .driven, .driven, .driven, .high⟩

/-- A domain's own start is complete: ON (R420). -/
def domUp (s : State) (d : Nat) : State :=
  let x := s.dom d
  let s := s.modDom d fun x => { x with st := .on, step := 0, retry := false }
  let s := ((islandsOf d).foldl (fun s k => seamLive (releaseSeam s k) k) (seamLive s d))
  let s := bankUp s d
  let s := if d < 32 then
      let s := s.modMeadow d fun y =>
        { y with level := startLevel s d, goal := startLevel s d, changing := false, up := 0, down := 0, touched := true,
                 lastEvent := none, sleepOff := false }
      setMeadowSt (loadMeadow s d) d .active
    else if d < 44 then
      let s := (laneGroup (d - 32)).foldl setBases (laneGroupRegs s (d - 32))
      s.modLife fun y => { y with capDue := insNat (d - 32) y.capDue }
    else if d = 49 then mantleUp s
    else if d = 48 then uplinkRegs s
    else s.clearRegs .qdr (d - 44) [QDR_ERR_ADDR, QDR_ERR_INFO]
  let s := match domPad d with
    | some k => if padIsHeld s k && bit (s.reg .pad 0 (PAD_GRP + 4 * k)) 1 then setPad s k false else s
    | none => s
  let s := if padFree s d then blocksBegin s d else s
  let s := if x.retry then momentary s 0x35 d (d64 x.failed) else s
  let s := endOrders s d cDone
  let s := if (s.dom d).offWanted then stopDom s d else s
  sequencer s

/-- D49 is FAULTED: meadow starts that wait for its image path fail at step 7 (R421). -/
def pathLost (s : State) : State :=
  (List.range 32).foldl (fun s m =>
    if (s.dom m).st = .starting ∧ (s.dom m).step = 6 then failStep s m 7 else s) (startWaiting s)

/-- A step has failed, with what follows. -/
def stepFailed (s : State) (d step : Nat) : State :=
  let s := failStep s d step
  let s := if d = 49 ∧ (s.dom 49).st = .faulted then pathLost s else s
  sequencer s

/-- POWER_GOOD (R447, R448). -/
def powerGood (s : State) (d : Nat) : State :=
  let x := s.dom d
  if x.st = .starting ∧ x.step = 1 then
    let s := releaseSeam s d
    let s := severAll s 4 (islandsOf d)
    let s := s.modDom d fun x => { x with step := if 44 ≤ d ∧ d < 49 then 3 else 6, since := s.uptime }
    let s := if 44 ≤ d ∧ d < 48 then
        let s := s.modChan (d - 44) fun y => { y with qpwr := true, settles := !y.qpwr }
        if bit (s.reg .pad 0 (PAD_GRP + 4 * (d - 44))) 1 then setPad s (d - 44) false else s
      else s
    let s := if d = 48 then
        { s with fedEpoch := s.fedEpoch + 1,
                 upls := tmap {} (fun x => { x with peers := tmap {} (fun y => { y with sentSeq := 0 }) x.peers }) s.upls }
      else s
    let s := if d = 49 then startWaiting s else s
    if d < 32 ∧ (s.dom 49).st = .faulted then stepFailed s d 7 else sequencer s
  else s

/-- POWER_GOOD_TIMEOUT. -/
def powerGoodTimeout (s : State) (d : Nat) : State :=
  let x := s.dom d
  if x.st = .starting ∧ x.step = 1 ∧ x.since + s.fld .heath 0 HEATH_WAKE_TMO 10 0 * 1000 ≤ s.uptime then stepFailed s d 1
  else s

/-- RETRY_RESTART: the regulator has been off for 10 µs (R450). -/
def retryRestart (s : State) (d : Nat) : State :=
  let x := s.dom d
  if x.st = .starting ∧ x.step = 0 ∧ x.retry = true ∧ x.since + 10000 ≤ s.uptime then
    s.modDom d fun x => { x with step := 1, since := s.uptime }
  else s

/-- Time a channel waits before its PLL: SUPPLY_MS as the start took it, where the start asserted QPWRn (R165, R173). -/
abbrev supplyNs (s : State) (d : Nat) : Nat :=
  if 44 ≤ d ∧ d < 48 ∧ (s.chan (d - 44)).settles = true then bits (s.chan (d - 44)).cfg 23 16 * 1000000 else 0

/-- A channel that runs repeats steps of R165 while its requests wait (R453, R475). -/
abbrev chanRelock (s : State) (d : Nat) : Bool :=
  decide (44 ≤ d ∧ d < 48) && decide ((s.dom d).st = .on) && (s.chan (d - 44)).paused

/-- PLL_LOCK. -/
def pllLock (s : State) (d : Nat) : State :=
  let x := s.dom d
  if x.st = .starting ∧ x.step = 3 then
    let s := (islandsOf d).foldl releaseSeam s
    s.modDom d fun x => { x with step := 6, since := s.uptime }
  else if chanRelock s d then (islandsOf d).foldl releaseSeam s
  else s

/-- PLL_LOCK_TIMEOUT. -/
def pllTimeout (s : State) (d : Nat) : State :=
  let x := s.dom d
  if x.st = .starting ∧ x.step = 3 ∧ x.since + supplyNs s d + 1000000 ≤ s.uptime then stepFailed s d 3 else s

/-! Calibration and the channel's start (R165 to R167) -/

/-- QDR_CAL takes a calibration; the fault is present from a failure to the next pass (R167, R174). -/
def calibrated (s : State) (c eye group : Nat) : State :=
  let ok := decide (8 ≤ eye)
  let n := satTo 0xFFFF (s.fld .qdr c QDR_CAL 31 16 + 1)
  s.setReg .qdr c QDR_CAL (w32 (min eye 63 + 64 * (group % 16) + 1024 * bnat ok + 65536 * n))

def calFault (s : State) (c eye group : Nat) : State :=
  condIs s (decide (eye < 8)) 0x33 c (d64 (min eye 63 + 64 * (group % 16)))

/-- A calibration of a channel that runs: an eye below 8 taps keeps the delay settings (R167). -/
def recal (s : State) (c eye group : Nat) : State :=
  let s := if eye < 8 then s.bump .qdr c QDR_CNT_CAL_FAIL else s
  calFault (calibrated s c eye group) c eye group

/-- Steps 7 and 8: the queues resume or are initialised, and the channel is available (R136, R162, R165). What makes a retention
stamp correct the spec does not say beyond its name: here one written by the last power-down, with the geometry and the pool size
of that time; any other is incorrect, and the queues are initialised (DESIGN CHOICE, log entry 171). -/
def chanStart (s : State) (c eye group : Nat) : State :=
  let x := s.chan c
  let geom := s.reg .qdr c QDR_GEOM
  let sz := (s.reg .qeng 0 (QENG_POOL_SIZE + 4 * c)).toNat
  let pool := if sz = 0 then largestPool geom else min sz (largestPool geom)
  let kept := x.stamp && x.poolSet && decide (x.geom = geom ∧ x.pool = pool)
  let s := if kept then s.modChan c fun y => { y with retained := true } else chanInit s c
  let s := s.modChan c fun y =>
    { y with geom := geom, pool := pool, poolSet := true, stamp := false, paused := false, recalAt := s.uptime, scrubAt := s.uptime,
             bulkAt := s.uptime }
  let s := rebase (s.setReg .qdr c QDR_BULK_SIZE (w32 (bulkPart geom pool)))
  let s := calFault (calibrated s c eye group) c eye group
  setChanSt s c 3

/-- OWN_START_DONE: `failed` is the failing code of R448, 0 for none; `eye` and `group` are a channel's calibration. -/
def ownStart (s : State) (d failed eye group : Nat) : State :=
  let x := s.dom d
  if chanRelock s d then
    let c := d - 44
    let s := (islandsOf d).foldl (fun s k => seamLive (releaseSeam s k) k) s
    recal (s.modChan c fun y => { y with paused := false }) c eye group
  else if x.st = .starting ∧ x.step = 6 ∧ (d < 44 ∨ 47 < d ∨ padFree s d = true) ∧ (32 ≤ d ∨ s.mantle.reloadReady = true) then
    if 44 ≤ d ∧ d < 48 then
      let failed := if failed = 0 ∧ eye < 8 then 4 else failed
      if failed = 4 ∨ failed = 5 then
        stepFailed (s.bump .qdr (d - 44) QDR_CNT_CAL_FAIL) d failed
      else if failed ≠ 0 then stepFailed s d failed
      else domUp (chanStart s (d - 44) eye group) d
    else if failed ≠ 0 then stepFailed s d failed
    else domUp s d
  else s

/-- Twice the bound of a domain's own start, in ns (R420, R448). -/
def ownBound (s : State) (d : Nat) : Nat :=
  2 * (if d < 32 then 2500000 + 2600000 * ((((meadowCores d ++ [256 + d]).map fun i =>
        match s.inForce i with | some p => p.payload.length | none => 0).sum - 1) / 1048576)
      else if d < 44 then 1000000 else if d < 48 then 25016400 else if d = 48 then 1000000 else 200000000)

/-- OWN_START_TIMEOUT. A meadow's wait for D49's image path does not count (R421). -/
def ownTimeout (s : State) (d : Nat) : State :=
  let x := s.dom d
  if x.st = .starting ∧ x.step = 6 ∧ x.since + ownBound s d ≤ s.uptime ∧ (32 ≤ d ∨ s.mantle.reloadReady = true) then
    stepFailed s d 6
  else s

/-! The oscillator (R448, R453) -/

/-- XREF is lost: D48 goes FAULTED with step 2, and the memory clocks relock on the uplink reference. -/
def xrefLost (s : State) : State :=
  let s := { s with xref := { s.xref with st := 3 } }
  let s := (s.setFld .heath 0 HEATH_WAKE_STATUS 10 10 1).modTb fun x => { x with x32 := true }
  let s := (List.range 4).foldl (fun s c =>
    if (s.chan c).st = 3 then severAll (s.modChan c fun y => { y with paused := true }) 4 [seamChan c] else s) s
  let s := if (s.dom 48).st = .faulted then s
    else
      let s := if (s.dom 48).st = .on then
          let s := bankDown s 48 false
          (domTis 48).foldl tiLost s
        else s
      failStep (s.modDom 48 fun x => { x with retry := true }) 48 2
  sequencer s

/-- XREF_READY. -/
def xrefReady (s : State) : State :=
  if s.xref.st = 1 then
    let again := bit (s.reg .heath 0 HEATH_WAKE_STATUS) 10
    let s := if s.xref.retry then momentary s 0x35 48 (d64 2) else s
    let s := { s with xref := { st := 0, retry := false, since := s.uptime } }
    let s := (s.setFld .heath 0 HEATH_WAKE_STATUS 10 10 0).modTb fun x => { x with x32 := false }
    let s := if again then
        (List.range 4).foldl (fun s c =>
          if (s.chan c).st = 3 then severAll (s.modChan c fun y => { y with paused := true }) 4 [seamChan c] else s) s
      else s
    let s := if (s.dom 48).st = .starting ∧ (s.dom 48).step = 2 then
        s.modDom 48 fun x => { x with step := 1, since := s.uptime }
      else s
    sequencer s
  else s

/-- XREF_TIMEOUT: step 2 has failed; it is retried once. -/
def xrefTimeout (s : State) : State :=
  if s.xref.st = 1 ∧ s.xref.since + 10000000 ≤ s.uptime then
    if s.xref.retry = false then
      let s := { s with xref := { st := 1, retry := true, since := s.uptime } }
      (s.bump .heath 0 HEATH_WAKE_CNT_RETRIES).fire1 (prodSeq 3)
    else xrefLost s
  else s

/-- XREF_STOP: a running XREF stopped for more than 20 µs; its restart took or failed twice. -/
def xrefStop (s : State) (restarted : Bool) : State :=
  if s.xref.st = 0 ∧ restarted = false then xrefLost s else s

/-! The end of a power-down (R419) -/

/-- A coincident sleep and wake (R454). -/
def coincident (s : State) (m : Nat) (cut : Bool) : State :=
  let s := ((s.setFld .heath 0 HEATH_WAKE_STATUS 11 11 1).setFld .heath 0 HEATH_WAKE_STATUS 12 12 (bnat cut)).setFld .heath 0
    HEATH_WAKE_STATUS 17 13 m
  let s := s.bump .heath 0 HEATH_WAKE_CNT_COINCIDENT
  if cut then s.bump .heath 0 HEATH_WAKE_CNT_CUT else s

/-- A SLEEP 2 power-down is abandoned, and the meadow stays ACTIVE (R454). -/
def abandonOff (s : State) (m : Nat) : State :=
  let s := s.modDom m fun x => { x with st := .on }
  let s := s.modMeadow m fun x => { x with sleepOff := false }
  judgeDev (setMeadowSt (coincident s m false) m .active)

/-- QPWRn after the power-down of a channel (R168). -/
def qpwrAfter (s : State) (c : Nat) : State :=
  if s.rbit .qdr c QDR_CFG 4 ∧ fitted s c ∧ s.dev ≠ .shelf then s.modChan c fun y => { y with stamp := true } else qpwrOff s c

/-- Steps 2 to 5 of R419 are complete: OFF. -/
def domOff (s : State) (d : Nat) : State :=
  let s := if d < 32 then (meadowCores d).foldl drainAll (accrue s d) else s
  let s := bankDown s d true
  let s := (domTis d).foldl tiLost s
  let s := if d < 32 then
      setMeadowSt ((meadowLost s d).bump .meadow d MEADOW_PWR_CNT_OFF) d .off
    else if d < 44 then (laneGroup (d - 32)).foldl (fun s l => laneLost s l .off) s
    else if d < 48 then qpwrAfter s (d - 44)
    else if d = 48 then (List.range 4).foldl (fun s n => uplinkLost s n 0) s
    else s
  let s := match domPad d with
    | some k =>
      setPad s k (bit (s.reg .pad 0 (PAD_GRP + 4 * k)) 0 || (decide (k < 4) && (s.chan k).qpwr))
    | none => s
  let s := downAll (severAll s 1 [d]) 1 (islandsOf d)
  let s := setDomBit s d false
  let again := (s.dom d).onWanted
  let s := endOrders (s.modDom d fun x => { x with st := .off, step := 0, onWanted := false }) d cDone
  let s := if again then startDom s d else s
  sequencer s

/-- POWER_DOWN_DRAINED. -/
def powerDrained (s : State) (d : Nat) : State :=
  if (s.dom d).st = .stopping then
    if d < 32 ∧ (s.meadow d).sleepOff = true ∧ wakeWaiting s d = true then abandonOff s d else domOff s d
  else s

/-- DESCENT_COMPLETE: DORMANT or SHELF (R425). -/
def descentComplete (s : State) : State :=
  if s.dev = .descending ∧ s.descent = 5 ∧ s.wake.isSome = false then
    let s := s.bump .heath 0 HEATH_PWR_CNT_DORMANT
    if devTarget s = 3 then
      let s := (List.range 4).foldl qpwrOff s
      let s := { s with xref := { st := 2, retry := false, since := s.uptime }, shelfFrom := some s.tb.run }
      setDev (s.modTb fun x => { x with x32 := true }) .shelf
    else setDev s .dormant
  else s

/-! Wake sources (R443, R444) -/

/-- Shelf ends: Hedgerow's clock goes on, and the oscillator starts (R234, R427). -/
def leaveShelf (s : State) : State :=
  match s.shelfFrom with
  | some f => { s with shelfTotal := s.shelfTotal + (s.tb.run - f), shelfFrom := none,
                       xref := { st := 1, retry := false, since := s.uptime } }
  | none => s

/-- A wake opens (R446). -/
def openWake (s : State) : State :=
  let s := (s.setReg .heath 0 HEATH_WAKE_CAUSE 0).setReg .heath 0 HEATH_WAKE_CAUSE2 0
  let s := (s.bump .heath 0 HEATH_WAKE_CNT_WAKES).bankAdd bankHeath 8 1
  match s.dev with
  | .dormant | .shelf =>
    let ds := ((List.range 18).map fun k => 32 + k).filter fun d => savedBit s d && !domSettled s d && canStart s d
    setDev (leaveShelf { s with wake := some { doms := ds } }) .waking
  | _ => { s with wake := some {} }

/-- A source fires: `kind` its bit of KINDS, `note` what CAUSE2 takes, `route` its route, `parts` the domain it needs,
`input` a wake input's number. -/
def wakeFire (s : State) (kind : Nat) (note : State → State) (route : Nat) (parts : List Nat) (input : Option Nat) : State :=
  let m := routeMeadow s route
  let off := fun d => decide ((s.dom d).st = .off ∨ (s.dom d).st = .stopping) && canStart s d
  let starting := fun d => decide ((s.dom d).st = .starting)
  let needs := parts.any off || (match m with | some m => off m || decide ((s.dom m).st = .faulted) | none => false)
  let joins := s.wake.isSome && (parts.any starting || (match m with | some m => starting m | none => false))
  if (s.dev = .run ∨ s.dev = .doze) ∧ needs = false ∧ joins = false then
    let s := s.bump .heath 0 HEATH_WAKE_CNT_UNNEEDED
    match input with | some k => tiEnd s (tiWake k) | none => s
  else
    let s := if s.wake.isNone then
        { openWake s with i2c := { s.i2c with woke := decide (kind = 3) } } else s
    let s := note s
    let s := setCause s kind kind 1
    let s := match input with
      | some k =>
        let s := tiTaken (setCause s (16 + k) (16 + k) 1) (tiWake k)
        let hop := (s.ti (tiWake k)).lastHop
        { s with wake := s.wake.map fun w =>
          { w with inputs := insNat k w.inputs, hop := some (match w.hop with | some h => max h hop | none => hop) } }
      | none => s
    let s := if parts.any (fun d => decide (d ≠ 49)) then wakeAdd s 49 else s
    let s := parts.foldl wakeAdd s
    let s := match m with | some m => nameMeadow s m | none => s
    sequencer s

/-- CAUSE2 keeps the lowest of the sources of one kind that fired. -/
def noteLow (kind hi lo v : Nat) (s : State) : State :=
  let had := s.rbit .heath 0 HEATH_WAKE_CAUSE kind
  let old := s.fld .heath 0 HEATH_WAKE_CAUSE2 hi lo
  s.setFld .heath 0 HEATH_WAKE_CAUSE2 hi lo (if had then min old v else v)

/-- HEATH_WAKE_LANE_l. The spec's two rows for 0x3300-0x333C name both lanes 128-143 and the routes; the address answers as
the route (log entry 44), so those lanes' registers are read and written by no access and hold their reset value.
DEDUCED. -/
def wakeLaneReg (s : State) (l : Nat) : Word :=
  if l < 128 then s.reg .heath 0 (HEATH_WAKE_LANE + 4 * l) else 2#32

/-- A lane's detectors (kinds 0 and 1). -/
def laneWake (s : State) (l : Nat) (pattern : Bool) : State :=
  let w := wakeLaneReg s l
  let k := bnat pattern
  if bit w k ∧ s.dev ≠ .shelf ∧ (s.dom (laneDom l)).st = .off then
    wakeFire s k (noteLow k 7 0 l) (bits w 5 2) [laneDom l] none
  else s

/-- The energy detector: the differential signal has stayed above `mv` mVpp for `ns` nanoseconds (R92). -/
def energyDetect (s : State) (l mv ns : Nat) : State := if 150 < mv ∧ 2000 ≤ ns then laneWake s l false else s

/-- The wake sequence: bit i is symbol i + 1, set in the first word for +1 and in the second for -1 (R92). -/
def wakeSequence : BitVec 64 × BitVec 64 := (0x43548a314c894613#64, 0x94a23148a14618a8#64)

/-- Symbols of 64 received ones, given the same way, that differ from the sequence. -/
def wrongSymbols (plus minus : BitVec 64) : Nat :=
  ((List.range 64).filter fun i =>
    bit plus i != bit wakeSequence.1 i || bit minus i != bit wakeSequence.2 i).length

/-- The wake-pattern detector judges the 64 latest symbols (R92). -/
def patternDetect (s : State) (l : Nat) (plus minus : BitVec 64) : State :=
  if wrongSymbols plus minus ≤ 4 then laneWake s l true else s

/-- Uplink energy (kind 2). -/
def uplinkWake (s : State) (n : Nat) : State :=
  if s.rbit .heath 0 HEATH_WAKE_EN (2 + n) ∧ s.dev ≠ .shelf ∧ (s.dom 48).st = .off then
    wakeFire s 2 (noteLow 2 14 13 n) (s.fld .heath 0 HEATH_WAKE_ROUTES 11 8) [48] none
  else s

/-- The I²C match (kind 3), in every state. -/
def i2cWake (s : State) : State := wakeFire s 3 id (s.fld .heath 0 HEATH_WAKE_ROUTES 3 0) [] none

/-- The WAKE pin (kind 4). -/
def pinWake (s : State) : State :=
  if s.rbit .heath 0 HEATH_WAKE_EN 1 then wakeFire s 4 id (s.fld .heath 0 HEATH_WAKE_ROUTES 7 4) [] none else s

/-- A timebase alarm (kind 5). -/
def alarmWake (s : State) (k : Nat) : State :=
  if s.rbit .heath 0 HEATH_WAKE_EN (6 + k) ∧ s.dev ≠ .shelf then
    wakeFire s 5 (noteLow 5 17 15 k) (s.fld .heath 0 HEATH_WAKE_ROUTES 15 12) [] none
  else s

/-- A sampler step (kind 6). -/
def stepWake (s : State) (k route : Nat) : State :=
  if s.rbit .heath 0 HEATH_WAKE_EN 14 ∧ s.dev ≠ .shelf then wakeFire s 6 (noteLow 6 12 8 k) route [] none else s

/-- A wake input (kind 7). -/
def inputWake (s : State) (k : Nat) : State :=
  if tiDue s (tiWake k) then
    if s.rbit .heath 0 HEATH_WAKE_EN (16 + k) ∧ s.dev ≠ .shelf then wakeFire s 7 id k [] (some k)
    else tiEnd s (tiWake k)
  else s

/-! Sleep of meadows (R416, R417) -/

/-- Reservations go when a meadow enters Rest (R392). -/
def enterRest (s : State) (m : Nat) : State :=
  let s := clearRsvs ((meadowCores m).foldl dropRsv s) m
  let s := s.bump .meadow m MEADOW_PWR_CNT_REST
  setMeadowSt (s.modMeadow m fun x => { x with restFrom := s.uptime, restAt := s.uptime, touched := true }) m .rest

/-- Sleep is judged once all else of a round is served. -/
def sleepJudge (s : State) (m : Nat) : State :=
  if (s.meadow m).st = .active ∧ asleep s m = true ∧ wakeWaiting s m = false then
    match s.fld .meadow m MEADOW_MODE 1 0 with
    | 1 => judgeDev (enterRest s m)
    | 2 => if (s.dom m).st = .on ∧ applyHolds s m = false then (stopDom s m).modMeadow m fun x => { x with sleepOff := true } else s
    | _ => s
  else s

/-! The pace governor (R410 to R415) -/

/-- LEVEL_CHANGE_DONE. -/
def levelDone (s : State) (m : Nat) : State :=
  if (s.meadow m).changing then
    let moved := decide ((s.meadow m).level ≠ (s.meadow m).goal)
    let s := s.modMeadow m fun x => { x with level := x.goal, changing := false, touched := true }
    if moved then (s.bump .meadow m MEADOW_PWR_CNT_LEVEL).bankAdd (bankMeadow m) 25 1 else s
  else s

abbrev govMode (s : State) (m : Nat) : Nat := s.fld .meadow m MEADOW_GOV 1 0
abbrev govMin (s : State) (m : Nat) : Nat := s.fld .meadow m MEADOW_GOV 6 4
abbrev govMax (s : State) (m : Nat) : Nat := s.fld .meadow m MEADOW_GOV 10 8

/-- The governor runs: the meadow is on. -/
abbrev govRuns (s : State) (m : Nat) : Bool := decide ((s.meadow m).st = .active ∨ (s.meadow m).st = .rest)

/-- A rewritten band or mode (R414). -/
def govWritten (s : State) (m : Nat) (old new : Word) : State :=
  let s := if bits old 1 0 ≠ bits new 1 0 then s.modMeadow m fun x => { x with up := 0, down := 0 } else s
  if govRuns s m = false then s
  else
    let g := (s.meadow m).goal
    match govMode s m with
    | 0 => if g = govMax s m then s else s.goLevel m (govMax s m)
    | 1 => let h := clampTo (govMin s m) (govMax s m) g; if h = g then s else s.goLevel m h
    | _ =>
      let h := if (s.meadow m).lastEvent.isSome ∧ bits old 1 0 = 2 then govMax s m else govMin s m
      if h = g then s else s.goLevel m h

/-- LAT_HOLD_EXPIRY (R413). -/
def latExpire (s : State) (m : Nat) : State :=
  match (s.meadow m).lastEvent with
  | some e =>
    if govMode s m = 2 ∧ govRuns s m = true ∧ e + s.fld .meadow m MEADOW_GOV2 19 0 * 1000 ≤ s.uptime then
      let s := s.modMeadow m fun x => { x with lastEvent := none }
      s.goLevel m (govMin s m)
    else s
  | none => s

/-- PACE_EVENT (R415). -/
def paceEvent (s : State) (m : Nat) : State :=
  if tiDue s (tiPace m) then
    let s := match govMode s m with
      | 0 => s.bump .meadow m MEADOW_PWR_CNT_PACE_IGNORED
      | 1 =>
        if govRuns s m then
          let g := (s.meadow m).goal
          if g < govMax s m then s.goLevel m (g + 1) else s.modMeadow m fun x => { x with up := 0, down := 0 }
        else s
      | _ => s.govEvent m
    tiEnd s (tiPace m)
  else s

/-- Guaranteed minimum rate of a level, in millions of instructions a second (R410). -/
def guaranteed (level : Nat) : Nat := [60, 110, 170, 240, 320, 400, 480, 580].getD level 580

/-- The governed mode judges a window (R413). -/
def govWindow (s : State) (m busy : Nat) : State :=
  if govMode s m = 1 ∧ (s.meadow m).st = .active ∧ (s.meadow m).changing = false then
    let w := s.reg .meadow m MEADOW_GOV
    let n := s.fld .meadow m MEADOW_GOV2 23 20
    let g := (s.meadow m).level
    let up := if bits w 19 12 ≤ busy then (s.meadow m).up + 1 else 0
    let dn := if busy ≤ bits w 27 20 then (s.meadow m).down + 1 else 0
    let s := s.modMeadow m fun x => { x with up := up, down := dn }
    if n ≤ up then
      if g < govMax s m then s.goLevel m (g + 1) else s.modMeadow m fun x => { x with up := 0 }
    else if n ≤ dn then
      if govMin s m < g then s.goLevel m (g - 1) else s.modMeadow m fun x => { x with down := 0 }
    else s
  else s

/-- PACE_WINDOW_END: the meter's rate and the core time spent running and waiting are measured (R49 to R51, R413,
log entry 16). -/
def paceWindow (s : State) (m rate running waiting : Nat) : State :=
  let x := s.meadow m
  let valid := decide (x.st = .active) && !x.touched && !x.changing
  let rate := if valid then min rate 0xFFFF else 0
  let low := valid && decide (rate < guaranteed x.level)
  let busy := if running + waiting = 0 then 0 else 100 - 100 * waiting / (running + waiting)
  let s := s.setReg .meadow m MEADOW_PACE (w32 (rate + 2 ^ 16 * x.level + 2 ^ 19 * bnat valid + 2 ^ 20 * bnat low))
  let old := s.reg .meadow m MEADOW_PACE_MIN
  let mn := if valid then min (bits old 15 0) rate else bits old 15 0
  let s := s.setReg .meadow m MEADOW_PACE_MIN (w32 (mn + 2 ^ 16 * bnat (bit old 16 || low)))
  let s := if low || bit old 16 then condPresent s 0x38 m (d64 mn) else s
  let s := s.modMeadow m fun y => { y with touched := decide (y.st ≠ .active) || y.changing, busy := min busy 100 }
  govWindow s m (min busy 100)

/-- PACE_MIN_CLEAR (R50, R51). -/
def paceClear (s : State) (m : Nat) : State := condGone (s.setReg .meadow m MEADOW_PACE_MIN 0xFFFF) 0x38 m

/-! Pad groups and GPIO (R430 to R433, R442) -/

/-- A RELEASE is accepted: the domain is on, or a channel has power-good (R432, log entry 40). -/
def releasable (s : State) (k : Nat) : Bool :=
  s.domOn (padDom k) || (decide (k < 4) && decide ((s.dom (padDom k)).st = .starting ∧ 3 ≤ (s.dom (padDom k)).step))

/-- A pad group is released. -/
def padRelease (s : State) (k : Nat) : State :=
  let s := setPad s k false
  if s.domOn (padDom k) then blocksBegin s (padDom k) else s

/-- A write of PAD_GRP_k: what it stores is `w`; the reason of a correction (R442). -/
def padWrite (s : State) (k : Nat) (v w : Word) : State × Nat :=
  let s := s.setReg .pad 0 (PAD_GRP + 4 * k) (setBits w 3 2 0)
  if bit v 3 then (if releasable s k then (padRelease s k, 0) else (s, 2)) else (s, 0)

abbrev gpioCfg (s : State) (g : Nat) : Word := s.reg .pad 0 (PAD_GPIO + 4 * g)

/-- The level at a pin: what drives it (R442, log entry 24). -/
def gpioLevel (s : State) (g : Nat) : Bool := if bit (gpioCfg s g) 0 then bit (gpioCfg s g) 1 else tget false s.gpioIn g

/-- GPIO_EDGE: a level stable for 100 ns (R433). -/
def gpioEdge (s : State) (g : Nat) (level : Bool) : State :=
  let old := tget false s.gpioIn g
  let s := { s with gpioIn := tset false s.gpioIn g level }
  let e := bits (gpioCfg s g) 3 2
  if bit (gpioCfg s g) 0 = false ∧ s.dev ≠ .shelf ∧ (old = false ∧ level = true ∧ e.testBit 0 = true ∨ old = true ∧ level = false ∧ e.testBit 1 = true) then
    s.fire1 (prodGpio g)
  else s

def gpioOut (s : State) (g : Nat) (b : Bool) : State := s.setFld .pad 0 (PAD_GPIO + 4 * g) 1 1 (bnat b)

/-- GPIO_ACTION (R433). -/
def gpioAction (s : State) (g : Nat) : State :=
  if tiDue s (tiGpio g) then
    let w := gpioCfg s g
    let s := if bit w 0 = false then s
      else
        match bits w 6 4 with
        | 1 => gpioOut s g true
        | 2 => gpioOut s g false
        | 3 => gpioOut s g (!bit w 1)
        | 4 =>
          match tget none s.gpioPulse g with
          | some (_, b) => { s with gpioPulse := tset none s.gpioPulse g (some (s.uptime + 10000, b)) }
          | none => gpioOut { s with gpioPulse := tset none s.gpioPulse g (some (s.uptime + 10000, bit w 1)) } g (!bit w 1)
        | _ => s
    tiEnd s (tiGpio g)
  else s

/-- GPIO_PULSE_END. -/
def gpioPulseEnd (s : State) (g : Nat) : State :=
  match tget none s.gpioPulse g with
  | some (e, b) => if e ≤ s.uptime then gpioOut { s with gpioPulse := tset none s.gpioPulse g none } g b else s
  | none => s

/-! Requests of HEATH_DOM_ON and HEATH_DEV_MODE (R422, R424) -/

/-- One bit of HEATH_DOM_ON is written by a role: the state and the reason of a correction. -/
def domWrite (s : State) (d role : Nat) (b : Bool) : State × Nat :=
  if b = domBit s d then (s, 0)
  else if d < 32 ∧ role = 2 ∧ cfgRole s d = 3 then (s, 3)
  else if s.dev = .descending ∨ s.dev = .waking then (s, 2)
  else if b then
    if (s.dom d).st = .faulted ∨ canStart s d = false then (s, 2) else (sequencer (startDom (setDomBit s d true) d), 0)
  else if d < 32 ∨ applyHolds s d = true then (s, 2)
  else if d = 49 ∧ ((List.range 17).any fun k => decide ((s.dom (32 + k)).st ≠ .off ∧ (s.dom (32 + k)).st ≠ .faulted)) = true then
    (s, 2)
  else
    let s := setDomBit s d false
    let s := s.modDom d fun x => { x with onWanted := decide (x.st = .starting) && x.onWanted }
    (sequencer (stopDom s d), 0)

/-- A write of one half of HEATH_DOM_ON, bit by bit in rising order but D49 first, which the others follow (R35, R422). -/
def domOnWrite (s : State) (hiHalf : Bool) (v : Word) (role : Nat) : State × Nat :=
  let ds := if hiHalf then 49 :: ((List.range 17).map fun k => 32 + k) else List.range 32
  let ds := if hiHalf ∧ bit v 17 = false then ds.drop 1 ++ [49] else ds
  ds.foldl (fun p d =>
    let q := domWrite p.1 d role (bit v (d % 32))
    (q.1, max p.2 q.2)) (s, 0)

/-! Orders of the sequencer (R434, R435) -/

/-- MEADOW_START begins: D49 OFF starts first. -/
def orderMeadowStart (s : State) (m : Nat) (d : Desc) : State :=
  let s := s.modDom m fun x => { x with orders := x.orders ++ [⟨.meadow, m, 0x20, d⟩] }
  sequencer (startDom s m)

/-- MEADOW_STOP: every core stops, and the meadow is taken down; the mask of running cores waits for its completion. -/
def orderMeadowStop (s : State) (m : Nat) (d : Desc) : State :=
  let mask := ((List.range 8).map fun c => if (s.core (8 * m + c)).st = .running then 2 ^ c else 0).sum
  let s := (meadowCores m).foldl coreStop (leaveRest s m)
  let s := stopDom s m
  s.modDom m fun x => { x with orders := x.orders ++ [⟨.meadow, m, 0x21, { d with arg := d64 mask }⟩] }

/-- RETRY_DOMAIN clears FAULTED and starts the domain again. -/
def orderRetryDomain (s : State) (d : Desc) : State :=
  let k := d.target.toNat
  let s := condGone (s.modDom k fun x => { x with st := .off, failed := 0 }) 0x34 k
  let s := if k < 32 then setMeadowSt s k .off
    else if k < 44 then (laneGroup (k - 32)).foldl (fun s l => if (s.lane l).st = .faulted then setLaneSt s l .off else s) s
    else if k = 48 then (List.range 4).foldl (fun s n => if (s.upl n).st = 1 then setUplSt s n 0 else s) s
    else s
  let s := s.modDom k fun x => { x with orders := x.orders ++ [⟨.heath, 0, 0x10, d⟩] }
  sequencer (startDom s k)

/-- Counters of R438 and the sentinels' (R434). -/
def powerCounters : List Nat := offsFrom 0x1200 4 4 ++ offsFrom HEATH_SENTINEL_CNT 4 256

def wakeCounters : List Nat := offsFrom 0x3400 4 8 ++ offsFrom 0x4080 4 2

end Sys2Proof.Machine
end

