-- ==== Sys2Proof/Machine/Qdr.lean ====
section
/-! DEFINITION. Orders of the queue engine and of the memory channels, scrub passes and recalibration, and the words of the
bulk window. -/

namespace Sys2Proof.Machine

/-! Queue engine orders (R143) -/

def qengFormat (op : Nat) (d : Desc) : Bool :=
  decide (d.arg = 0) &&
    match op with
    | 1 | 2 | 3 => decide (d.target.toNat < 0x100000)
    | 4 => decide (d.target.toNat < 4)
    | 5 => decide (d.target = 0)
    | _ => false

def qengLegal (s : State) (op : Nat) : Bool :=
  match op with
  | 2 | 5 => true
  | _ => decide (s.blkState .qeng 0 = 1)

/-- The channel a queue engine order acts on. -/
def qengChan (op : Nat) (d : Desc) : Option Nat :=
  match op with
  | 1 | 2 | 3 => some (chanOf d.target.toNat)
  | 4 => some d.target.toNat
  | _ => none

def orderFlush (s : State) (d : Desc) : OrderRes :=
  let q := d.target.toNat
  let s := readDesc s q
  if qShut s q then fin (s.bump .qeng 0 QENG_CNT_REFUSED) cDone
  else
    let (s, n) := qFlush s q
    fin s cDone (satTo 0xFFFF n)

/-- QUEUE_STATUS; a BROKEN queue's descriptor that cannot be read gives POISONED. -/
def orderQueueStatus (s : State) (d : Desc) : OrderRes :=
  let q := d.target.toNat
  let s := readDesc s q
  if (s.queue q).broken ∧ (s.queue q).desc ≠ [] then fin s cPoisoned
  else fin s cDone (satTo 0xFFFF (qCount s q)) (descriptor s q)

def orderQueueReset (s : State) (d : Desc) : OrderRes :=
  let q := d.target.toNat
  let x := qReset (readDesc s q) q
  fin (offerAgain x.1 q) cDone (satTo 0xFFFF x.2)

/-- POOL_AUDIT walks every descriptor of the channel. -/
def orderPoolAudit (s : State) (d : Desc) : OrderRes :=
  let c := d.target.toNat
  let s := (busyQueues s c).foldl readDesc s
  let n := (s.chan c).leaked.length
  fin (s.modChan c fun x => { x with leaked := [] }) cDone (satTo 0xFFFFF n)

def qengCounters : List Nat := offsFrom 0x200 4 24 ++ offsFrom QENG_ORPHAN 4 256

def orderQengClear (s : State) : OrderRes := fin (s.clearRegs .qeng 0 qengCounters) cDone

def qengBody (op : Nat) (d : Desc) (s : State) : OrderRes :=
  match op with
  | 1 => orderFlush s d
  | 2 => orderQueueStatus s d
  | 3 => orderQueueReset s d
  | 4 => orderPoolAudit s d
  | _ => orderQengClear s

/-! Channel orders (R171) -/

def qdrFormat (op : Nat) (d : Desc) : Bool :=
  match op with
  | 1 =>
    decide (d.target.toNat % 8 = 0) && decide (d.bytes 11 8 % 8 = 0) && decide (d.bytes 11 8 ≠ 0) && decide (d.bytes 15 12 = 0)
  | 2 | 3 => decide (d.target = 0) && decide (d.arg = 0)
  | _ => false

def qdrLegal (s : State) (c op : Nat) : Bool :=
  match op with
  | 3 => decide ((s.chan c).st = 2 ∨ (s.chan c).st = 3)
  | _ => decide ((s.chan c).st = 3)

/-- Two ranges of the bulk window overlap. -/
def overlaps (a n b m : Nat) : Bool := decide (0 < n ∧ 0 < m ∧ a < b + m ∧ b < a + n)

def orderFill (s : State) (c : Nat) (d : Desc) : OrderRes :=
  let base := (s.reg .qdr c QDR_BULK_BASE).toNat
  let size := (s.reg .qdr c QDR_BULK_SIZE).toNat
  let at_ := d.target.toNat
  let n := d.bytes 11 8
  if at_ < base ∨ base + size ≤ at_ then fin s cBadFormat
  else
    let m := min n (base + size - at_)
    if overlaps at_ m s.mantle.holdBase s.mantle.holdSize then
      fin (s.bump .mantle 0 MANTLE_PL_CNT_HOLD_FAULTS) cNotNow
    else
      let s := s.modChan c fun x =>
        let a := bulkOff x (at_ - base)
        let n := bulkOff x (at_ - base + m - 8) + 8 - a
        { x with bulk := memZero x.bulk a n, bulkErr := memZero x.bulkErr (a / 8) (n / 8) }
      if m < n then fin s cClamped (m / 8) else fin s cDone (m / 8)

/-- RECALIBRATE; the narrowest eye and its group are measured (log entry 16). -/
def orderRecalibrate (s : State) (c eye group : Nat) : OrderRes :=
  fin (recal (s.bump .qdr c QDR_CNT_RECAL) c eye group) cDone (min eye 63 + 64 * (group % 16))

def qdrCounters : List Nat := offsFrom 0x200 4 7

def orderQdrClear (s : State) (c : Nat) : OrderRes :=
  fin ((s.clearRegs .qdr c qdrCounters).setFld .qdr c QDR_ERR_INFO 0 0 0) cDone

def qdrBody (c op : Nat) (d : Desc) (eye group : Nat) (s : State) : OrderRes :=
  match op with
  | 1 => orderFill s c d
  | 2 => orderRecalibrate s c eye group
  | _ => orderQdrClear s c

/-! The bulk window (R160, R161) -/

/-- What an access of a core to a bulk offset meets. -/
inductive BulkAt where
  /-- Channel and offset in its part. -/
  | at_ (c off : Nat)
  | waits
  /-- A fault, counted at this channel. -/
  | gone (c : Nat)
  deriving DecidableEq, Repr

def bulkAt (s : State) (off : Nat) : BulkAt :=
  match bulkLoc s off with
  | none => .gone 3
  | some (c, o) =>
    if (s.chan c).st ≠ 3 then .gone c
    else if (s.chan c).paused then .waits
    else match acrossSeam s (seamChan c) with
      | .open_ => .at_ c o
      | .absent => .gone c
      | .waits => .waits

/-- The error pattern of the word at a place of a channel's bulk part. -/
abbrev bulkErrAt (s : State) (c off : Nat) : BitVec 72 := tget 0 (s.chan c).bulkErr (bulkOff (s.chan c) off / 8)

/-- A word of a bulk part is found uncorrectable, or poisoned, by a read. -/
abbrev bulkBad (s : State) (c off : Nat) : Bool := eccBad (bulkErrAt s c off)

/-- A bulk word is marked poisoned: the latches and the fault, with the requester of the access that found it, or none for the
scrubber (R161, R164, R174, R286). -/
def bulkPoisoned (s : State) (c addr : Nat) (who : Option Nat) : State :=
  let s := s.setReg .qdr c QDR_ERR_ADDR (w32 (addr / 8 * 8))
  let s := s.setReg .qdr c QDR_ERR_INFO (w32 (match who with | some r => 1 + 4 * (r % 512) | none => 3))
  { s with faultDue := s.faultDue ++ [(0x31, c, d64 (addr / 8 * 8))] }

/-- A newly marked word fires ECC_UNCORRn (R154, R164). -/
abbrev bulkMarked (s : State) (c : Nat) (fresh : Bool) : State := if fresh then s.fire1 (prodQeng (20 + c)) else s

/-- A read of the word at a place of a channel's bulk part, at core address `addr`: a single-bit error is corrected and counted, an
uncorrectable one marked and counted; whether the word is poisoned (R157, R158, R161). -/
def bulkCheck (s : State) (c off addr : Nat) (who : Option Nat) : State × Bool :=
  let y := s.chan c
  let k := bulkOff y off / 8
  if tget 0 y.bulkErr k = 0 then (s, false)
  else
    let x := checkWord y.bulk y.bulkErr k
    let s := s.setChan c { y with bulk := x.mem, bulkErr := x.errs }
    match x.found with
    | .good => (s, false)
    | .fixed => (s.bump .qdr c QDR_CNT_CORR_BULK, false)
    | .bad => (bulkMarked (bulkPoisoned (s.bump .qdr c QDR_CNT_UNCORR_BULK) c addr who) c x.fresh, true)

/-- The `n` bytes at a place of a channel's part. -/
abbrev bulkRead (s : State) (c off n : Nat) : List Byte := memBytes (s.chan c).bulk (bulkOff (s.chan c) off) n

/-- A store of fewer than 8 bytes is merged into the word as a read finds it, and keeps its mark (R158, R161). A word that this read
finds uncorrectable is marked as a load marks it: DESIGN CHOICE, log entry 144. -/
def bulkWrite (s : State) (req c o off : Nat) (bs : List Byte) : State :=
  let s := if bulkErrAt s c o = eccMark then s else (bulkCheck s c o (0x40000000 + off) (some req)).1
  let s := if bulkBad s c o then s.bump .qdr c QDR_CNT_POISON_STORE else s
  s.modChan c fun x => { x with bulk := memWrite x.bulk (bulkOff x o) bs }

/-! Time-driven work of a channel (R140, R164, R167) -/

/-- Nanoseconds of QENG_CFG.SCRUB_H hours. -/
abbrev scrubNs (s : State) : Nat := s.fld .qeng 0 QENG_CFG 7 0 * 3600000000000

/-- RECAL_TIMER: RECAL_S seconds have passed since the last timed recalibration or the channel's start. -/
def recalTimer (s : State) (c eye group : Nat) : State :=
  let n := s.fld .qdr c QDR_CFG 15 8
  if (s.chan c).st = 3 ∧ n ≠ 0 ∧ (s.chan c).recalAt + n * 1000000000 ≤ s.uptime then
    recal ((s.modChan c fun x => { x with recalAt := s.uptime }).bump .qdr c QDR_CNT_RECAL) c eye group
  else s

/-- A pass of the patrol scrubber, once in SCRUB_H hours (R140). -/
def scrubVisit (s : State) (c : Nat) : State :=
  if (s.chan c).st = 3 ∧ (s.chan c).scrubAt + scrubNs s ≤ s.uptime then
    let s := (busyQueues s c).foldl scrubQueue s
    (s.modChan c fun x => { x with scrubAt := s.uptime }).bump .qeng 0 (QENG_CNT_SCRUB_PASS + 4 * c)
  else s

/-- Every word of the bulk part that holds an error is read. -/
def scrubWords (s : State) (c : Nat) : State :=
  let base := (s.reg .qdr c QDR_BULK_BASE).toNat
  let size := (s.reg .qdr c QDR_BULK_SIZE).toNat
  (s.chan c).bulkErr.foldl (fun s e =>
    match usableOf (s.chan c).geom (8 * e.1) with
    | none => s
    | some u =>
      let o := u - (0x800000 + (s.chan c).pool * 256)
      if 0x800000 + (s.chan c).pool * 256 ≤ u ∧ o < size ∧ e.2 ≠ eccMark then
        let x := checkWord (s.chan c).bulk (s.chan c).bulkErr e.1
        let s := s.modChan c fun y => { y with bulk := x.mem, bulkErr := x.errs }
        if x.fresh then bulkMarked (bulkPoisoned s c (0x40000000 + base + o) none) c true else s
      else s) s

/-- A pass over the bulk part, once in SCRUB_H hours while BULK_SCRUB is 1 (R164). -/
def bulkVisit (s : State) (c : Nat) : State :=
  if (s.chan c).st = 3 ∧ s.rbit .qdr c QDR_CFG 5 = true ∧ (s.chan c).bulkAt + scrubNs s ≤ s.uptime then
    let s := scrubWords s c
    (s.modChan c fun x => { x with bulkAt := s.uptime }).bump .qdr c QDR_CNT_SCRUB_PASS_BULK
  else s

/-! Bits that flip in a memory: how errors come about (log entry 144) -/

/-- One word of a list of packets changed. -/
def modWord (f : QWord → QWord) : List Packet → Nat → List Packet
  | [], _ => []
  | p :: ps, i => if i < p.length then p.modify i f :: ps else p :: modWord f ps (i - p.length)

/-- The queue of a descriptor: its index in its channel's table (R117, R159). The index of a device queue follows the lantern queues'
221,184: DEDUCED, log entry 144. -/
def descQueue (c i : Nat) : Nat := if i < 221184 then c * 221184 + i else 0xD8000 + (i - 221184) * 4 + c

/-- A bit of word `k` of pool block `b` flips: a link word or a queue word of the queue or the open packet that holds the block. -/
def flipPool (s : State) (c b k j : Nat) : State :=
  let f := fun (w : QWord) => { w with err := w.err ^^^ BitVec.ofNat 72 (2 ^ j) }
  let g := fun (x : Block) => if x.idx = b then { x with link := x.link ^^^ BitVec.ofNat 72 (2 ^ j) } else x
  let s := (busyQueues s c).foldl (fun s q =>
    match (s.queue q).blocks.find? fun x => decide (x.idx = b) with
    | none => s
    | some x =>
      if k = 31 then s.modQueue q fun y => { y with blocks := y.blocks.map g }
      else
        let a := 31 * x.at_ + k
        let s := if (s.queue q).base ≤ a then s.modQueue q fun y => { y with pkts := modWord f y.pkts (a - y.base) } else s
        (consOf s q).foldl (fun s r => s.setCons r ((s.cons r).map fun y =>
          if y.at_ ≤ a then { y with rest := y.rest.modify (a - y.at_) f } else y)) s) s
  (s.prods.map fun p => p.1).foldl (fun s r =>
    match s.prod r with
    | none => s
    | some x =>
      if chanOf x.q ≠ c then s
      else match x.blocks.find? fun y => decide (y.idx = b) with
        | none => s
        | some y =>
          s.setProd r (some (if k = 31 then { x with blocks := x.blocks.map g } else { x with words := x.words.modify (31 * y.at_ + k) f }))) s

/-- A bit of a word of a channel's memory flips while the memory is powered. -/
def flipChan (s : State) (c k j : Nat) : State :=
  let x := s.chan c
  if x.qpwr = false then s
  else match usableOf x.geom (8 * k) with
    | none => s
    | some u =>
      if u < 0x800000 then s.modQueue (descQueue c (u / 32)) fun y => { y with desc := flipBit y.desc (u / 8 % 4) j }
      else if u < 0x800000 + x.pool * 256 then flipPool s c ((u - 0x800000) / 256) (u / 8 % 32) j
      else s.modChan c fun y => { y with bulkErr := flipBit y.bulkErr k j }

/-- One bit of a 72-bit word flips, in a memory channel, a meadow's SRAM or a core's local SRAM. -/
def flip (s : State) (u : Upset) : State :=
  if 72 ≤ u.bit then s
  else if u.mem < 4 then flipChan s u.mem u.word u.bit
  else if 16 ≤ u.mem ∧ u.mem < 48 ∧ u.word < 131072 ∧ (s.meadow (u.mem - 16)).st ≠ .off then
    s.modMeadow (u.mem - 16) fun y => { y with sramErr := flipBit y.sramErr u.word u.bit }
  else if 256 ≤ u.mem ∧ u.mem < 512 ∧ u.word < 8192 ∧ (s.meadow ((u.mem - 256) / 8)).st ≠ .off then
    s.modCore (u.mem - 256) fun y => { y with sramErr := flipBit y.sramErr u.word u.bit }
  else s

/-- SCRUB_PASS, and the bits that flip from then on (R140). -/
def scrubPass (s : State) (c : Nat) (us : List Upset) : State := us.foldl flip (scrubVisit s c)

/-- BULK_SCRUB_PASS, and the bits that flip from then on (R164). -/
def bulkScrub (s : State) (c : Nat) (us : List Upset) : State := us.foldl flip (bulkVisit s c)

end Sys2Proof.Machine
end

