-- ==== Sys2Proof/Machine/Sampler.lean ====
section
/-! DEFINITION. The sampler: conversions, passes, its task inputs, and its wake sources. -/

namespace Sys2Proof.Machine

abbrev smpReg (s : State) (off k : Nat) : Word := s.reg .heath 0 (off + 0x10 * k)

/-- The code of a voltage in µV (R455). -/
def adcCode (uv : Nat) : Nat := min 4095 (uv * 4096 / 1800000)

/-- One step of a pass with the code its input gives; `hop` is the hop count of the RUN_NOW event that runs it, if any
(R456). -/
def smpStep (s : State) (k code : Nat) (hop : Option Nat) : State :=
  let a := smpReg s HEATH_SMP_A k
  let b := smpReg s HEATH_SMP_B k
  let c := smpReg s HEATH_SMP_C k
  let lo := bits b 11 0
  let hi := bits b 27 16
  let m := if bit a 5 then decide (code < lo ∨ hi < code) else decide (lo ≤ code ∧ code ≤ hi)
  let run := if m ≠ bit c 12 then 1 else min (bits c 23 16 + 1) 255
  let enough := decide (bits a 23 16 ≤ run)
  let fires := m && enough && (bit a 6 || !bit c 13)
  let fired := if fires then true else if !m && enough then false else bit c 13
  let s := s.setReg .heath 0 (HEATH_SMP_C + 0x10 * k)
    (w32 (code + 2 ^ 12 * bnat m + 2 ^ 13 * bnat fired + 2 ^ 16 * run))
  if fires then
    let s := s.bump .heath 0 (HEATH_SMP_D + 0x10 * k)
    let s := if bit a 7 then s.fire [(prodStep k, match hop with | some h => h + 1 | none => 0)] else s
    if bit a 8 then stepWake s k (bits a 12 9) else s
  else s

/-- A conversion takes its longest, 2 µs (R455, log entry 16), in nanoseconds. -/
abbrev convertNs : Nat := 2000

/-- The first step from `k` on that a pass runs: enabled, up to LAST, and in a periodic pass due by its DIV. -/
def smpFrom (s : State) (periodic : Bool) (k : Nat) : Option Nat :=
  (List.range (s.fld .heath 0 HEATH_SMP_CFG 28 24 + 1)).find? fun j =>
    let a := smpReg s HEATH_SMP_A j
    decide (k ≤ j) && bit a 4 && (!periodic || decide (s.sampler.p % (bits a 31 24 + 1) = 0))

/-- A pass ends: a periodic one is counted on, and a RUN_NOW event that ran it is done. -/
def smpEnd (s : State) (x : SmpPass) : State :=
  let s := { s with sampler := { s.sampler with pass := none, p := if x.periodic then s.sampler.p + 1 else s.sampler.p } }
  let s := s.bump .heath 0 HEATH_SMP_CNT_PASSES
  if x.hop.isSome then tiEnd s (tiSampler 0) else s

/-- A pass goes on with its first step from `k` on, or ends. -/
def smpOn (s : State) (x : SmpPass) (k : Nat) : State :=
  match smpFrom s x.periodic k with
  | some j => { s with sampler := { s.sampler with pass := some { x with step := j, ends := x.ends + convertNs } } }
  | none => smpEnd s x

/-- The conversion in progress ends, and its step is judged. -/
def smpConvert (s : State) (x : SmpPass) : State :=
  smpOn (smpStep s x.step (adcCode (x.volts.getD (bits (smpReg s HEATH_SMP_A x.step) 3 0) 0)) x.hop) x (x.step + 1)

/-- The pass in progress ends now, each conversion left taking no time. -/
def smpFinish (s : State) : State :=
  foldTo 32 (fun s _ => match s.sampler.pass with | some x => smpConvert s x | none => s) s

/-- A pass begins; `volts` are the µV at AIN0 to AIN15 (R456, log entry 16). -/
def smpPass (s : State) (periodic : Bool) (hop : Option Nat) (volts : List Nat) : State :=
  smpOn s { periodic := periodic, hop := hop, volts := volts, step := 0, ends := s.uptime } 0

abbrev smpPeriod (s : State) : Nat := s.fld .heath 0 HEATH_SMP_CFG 23 8 * 1000000

/-- A periodic pass falls due now. -/
def smpDue (s : State) : Bool :=
  s.rbit .heath 0 HEATH_SMP_CFG 0 && !s.rbit .heath 0 HEATH_SMP_CFG 1 && decide (s.dev ≠ .shelf) &&
    s.sampler.nextAt.any fun a => decide (a ≤ s.tbNs)

/-- The next PERIOD instant after now (R457). -/
def smpNext (s : State) : State :=
  match s.sampler.nextAt with
  | some a => { s with sampler := { s.sampler with nextAt := some (a + ((s.tbNs - a) / smpPeriod s + 1) * smpPeriod s) } }
  | none => s

/-- A pass that a RUN_NOW event runs, merged with a periodic pass that falls due coincidently (R457). -/
def smpRunNow (s : State) (volts : List Nat) : State :=
  let t := tiSampler 0
  let hop := (s.ti t).lastHop
  let s := tiTaken s t
  if smpDue s then smpPass (smpNext (s.bump .heath 0 HEATH_SMP_CNT_MERGED)) true (some hop) volts
  else smpPass s false (some hop) volts

/-- RUN_NOW: it waits for the end of a pass in progress. -/
def runNow (s : State) (volts : List Nat) : State :=
  if tiDue s (tiSampler 0) then smpRunNow (smpFinish s) volts else s

/-- SAMPLER_PASS. -/
def samplerPass (s : State) (volts : List Nat) : State :=
  if smpDue s then
    let s := smpFinish s
    if tiDue s (tiSampler 0) then smpRunNow s volts else smpPass (smpNext s) true none volts
  else s

/-- HOLD and RELEASE. -/
def smpHeld (s : State) (j : Nat) (b : Bool) : State :=
  if tiDue s (tiSampler j) then
    let s := s.setFld .heath 0 HEATH_SMP_CFG 1 1 (bnat b)
    let s := if b = false ∧ (s.sampler.nextAt.any fun a => decide (a ≤ s.tbNs)) = true then smpNext s else s
    tiEnd s (tiSampler j)
  else s

/-- RUN, FIRED and MATCH of every step become 0 (R457). -/
def smpClearSteps (s : State) : State :=
  foldTo 32 (fun s k => s.setReg .heath 0 (HEATH_SMP_C + 0x10 * k) (w32 (bits (smpReg s HEATH_SMP_C k) 11 0))) s

/-- CLEAR_COUNTS. -/
def smpClear (s : State) : State :=
  if tiDue s (tiSampler 3) then
    let s := smpClearSteps (smpFinish s)
    let s := foldTo 32 (fun s k => s.setReg .heath 0 (HEATH_SMP_D + 0x10 * k) 0) s
    tiEnd s (tiSampler 3)
  else s

/-- What a new value of HEATH_SMP_CFG does: the write that sets ENABLE begins the numbering (R456). -/
def smpCfgWritten (s : State) (old new : Word) : State :=
  if bit new 0 = false then { s with sampler := { s.sampler with nextAt := none } }
  else if bit old 0 = false then { s with sampler := { p := 0, nextAt := some (s.tbNs + smpPeriod s) } }
  else if bits old 23 8 ≠ bits new 23 8 then { s with sampler := { s.sampler with nextAt := some (s.tbNs + smpPeriod s) } }
  else s

/-- SAMPLE: one conversion; the µV at the input are measured (R458). -/
def orderSample (s : State) (uv : Nat) : OrderRes := fin s cDone (adcCode uv)

end Sys2Proof.Machine
end

