-- ==== Sys2Proof/Machine/Keys.lean ====
section
/-! DEFINITION. Key slots, signature blocks and their verification, anti-rollback counters and the root floor. -/

namespace Sys2Proof.Machine

/-! Key slots (R515, R522) -/

/-- Key slot i; the maker's are as manufactured, revoked by fuse (R518, R522). -/
def keySlot (s : State) (i : Nat) : KeySlot :=
  if i < 4 then
    let k := Config.makerKey i
    { st := if s.mantle.fuses.getLsbD i then 2 else 1, rsaE := k.1, rsaN := k.2.1, slhPk := k.2.2 }
  else tget {} s.mantle.keys i

def setKey (s : State) (i : Nat) (k : KeySlot) : State := s.modMantle fun m => { m with keys := tset {} m.keys i k }

/-- The fingerprint of a slot: the hash of bytes 4 to 439 of its entry. -/
def fingerprint (k : KeySlot) : List Byte := Config.sha384 (leBytes 4 k.rsaE.toNat ++ k.rsaN ++ k.slhPk)

/-- A maker slot's stored key matches its OTP fingerprint. -/
def otpOk (s : State) (i : Nat) : Bool := decide (fingerprint (keySlot s i) = Config.otpFpr i)

/-- The index of a role's slot. -/
def slotIndex (role slot : Nat) : Option Nat :=
  match role with
  | 3 => if slot < 4 then some slot else none
  | 2 => if slot < 4 then some (4 + slot) else none
  | 1 => if slot < 8 then some (8 + slot) else none
  | _ => none

/-- The role of a slot, and its number within the role. -/
def slotRole (i : Nat) : Nat × Nat := if i < 4 then (3, i) else if i < 8 then (2, i - 4) else (1, i - 8)

/-- A slot whose key may verify (R516, R518). -/
def slotUsable (s : State) (i : Nat) : Bool := decide ((keySlot s i).st = 1) && (decide (4 ≤ i) || otpOk s i)

/-! Signature blocks (R489, R516) -/

def blockSize : Nat := 16640

/-- A big-endian number. -/
def beNat (bs : List Byte) : Nat := bs.foldl (fun n b => 256 * n + b.toNat) 0

/-- MAGIC, reserved bytes and roles of a block. -/
def blockForm (b : List Byte) : Bool :=
  decide (b.length = blockSize ∧ b.take 4 = [b8 0x43, b8 0x58, b8 0x53, b8 0x47] ∧ leAt b 4 1 = leAt b 6 1 ∧ leAt b 8 8 = 0)
    && (slice b 16624 16).all (fun x => decide (x = 0))

def blockRole (b : List Byte) : Nat := leAt b 4 1

/-- RSA and SLH-DSA slot indices a block names. -/
def blockRsa (b : List Byte) : Option Nat := slotIndex (blockRole b) (leAt b 5 1)
def blockSlh (b : List Byte) : Option Nat := slotIndex (leAt b 6 1) (leAt b 7 1)

/-- What a block signs: a message and the block's bytes 0 to 15. -/
def signedBy (m b : List Byte) : List Byte := m ++ slice b 0 16

def rsaOk (k : KeySlot) (m b : List Byte) : Bool :=
  let sig := slice b 16 384
  decide (beNat sig < beNat k.rsaN) && Config.rsaVerify k.rsaE k.rsaN (signedBy m b) sig

def slhOk (k : KeySlot) (m b : List Byte) : Bool := Config.slhVerify k.slhPk (signedBy m b) (slice b 400 16224)

/-- Each signature of a block by itself, under the slots it names. -/
def rsaPasses (s : State) (m b : List Byte) : Bool :=
  match blockRsa b with | some i => slotUsable s i && rsaOk (keySlot s i) m b | none => false

def slhPasses (s : State) (m b : List Byte) : Bool :=
  match blockSlh b with | some i => slotUsable s i && slhOk (keySlot s i) m b | none => false

/-- The pair verifies (R516). -/
def pairOk (s : State) (m b : List Byte) : Bool := blockForm b && rsaPasses s m b && slhPasses s m b

def bumpUses (s : State) (i : Nat) : State := s.bump .mantle 0 (MANTLE_KEY_USES + 0x20 * i)

/-- A slot a block names is looked up: an unusable maker slot is counted (R518). -/
def countSlot (s : State) (o : Option Nat) (passed : Bool) : State :=
  match o with
  | none => s
  | some i =>
    let s := if i < 4 ∧ otpOk s i = false then s.bump .mantle 0 MANTLE_SEC_CNT_MAKER_KEY_BAD else s
    if passed then bumpUses s i else s

/-- One verification of a pair, with its counters (R518, R538). -/
def verifyPair (s : State) (m b : List Byte) : State × Bool :=
  (countSlot (countSlot s (blockRsa b) (blockForm b && rsaPasses s m b)) (blockSlh b) (blockForm b && slhPasses s m b),
    pairOk s m b)

/-! Anti-rollback (R491, R521, R522) -/

/-- The counter of a panel's type and region. -/
def rbIndex (type region : Nat) : Nat :=
  match type with
  | 1 => region | 2 => 32 + region | 4 => 64 + region | 0xD => 76 + region | 3 => 88 | 5 => 89 | 6 => 90 | 7 => 91
  | 8 => 92 | 9 => 93 | 0xA => 94 | 0xB => 95 | _ => 96

def rbOf (s : State) (n : Nat) : Word := tget 0 s.mantle.rb n

/-- A counter is raised, never lowered. -/
def raiseRb (s : State) (n v : Nat) : State :=
  if (rbOf s n).toNat < v then s.modMantle fun m => { m with rb := tset 0 m.rb n (w32 v) } else s

/-- The root floor (R522). -/
def rootFloor (s : State) : Nat := if 64 ≤ s.mantle.rootSteps then 0xFFFFFFFF else s.mantle.rootSteps * 0x4000000

/-- ROLLBACK of a panel is not below what is stored. -/
def rollbackOk (s : State) (type region rollback : Nat) : Bool :=
  decide ((rbOf s (rbIndex type region)).toNat ≤ rollback) && (decide (type ≠ 0xC) || decide (rootFloor s ≤ rollback))

/-! Key entries (R515) -/

/-- A 512-byte key entry is laid out as R515 gives it. -/
def keyEntryOk (slots : Nat) (e : List Byte) : Bool :=
  decide (e.length = 512 ∧ leAt e 0 1 < slots ∧ leAt e 1 1 ≤ 2 ∧ leAt e 2 2 = 0) &&
    (slice e 440 72).all (fun x => decide (x = 0)) &&
    (decide (leAt e 1 1 = 0) || decide (leAt e 4 4 = 65537 ∧ 128 ≤ leAt e 8 1))

def keyOfEntry (e : List Byte) : KeySlot :=
  { st := leAt e 1 1, rsaE := w32 (leAt e 4 4), rsaN := slice e 8 384, slhPk := slice e 392 48 }

/-- The entries of a key table. -/
def keyEntries (bs : List Byte) : List (List Byte) :=
  (List.range (bs.length / 512)).map fun k => slice bs (512 * k) 512

/-- Numbers rise strictly. -/
def rising : List Nat → Bool
  | a :: b :: l => decide (a < b) && rising (b :: l)
  | _ => true

/-- A key table's layout: whole entries in ascending SLOT. -/
def keyTableOk (slots : Nat) (bs : List Byte) : Bool :=
  decide (bs.length % 512 = 0) && (keyEntries bs).all (keyEntryOk slots) && rising ((keyEntries bs).map fun e => leAt e 0 1)

/-- A revoked slot passes back to active only with another key (R515). -/
def keyTableFresh (s : State) (base : Nat) (bs : List Byte) : Bool :=
  (keyEntries bs).all fun e =>
    let old := keySlot s (base + leAt e 0 1)
    !(decide (old.st = 2 ∧ leAt e 1 1 = 1) && decide (fingerprint old = fingerprint (keyOfEntry e)))

end Sys2Proof.Machine
end

