-- ==== Sys2Proof/Machine/Reach.lean ====
section
/-! DEFINITION. What an access to meadow SRAM meets, and reading a source of words as an order's submitter. -/

namespace Sys2Proof.Machine

/-- What an access to a meadow's SRAM meets (R388, R391). -/
inductive Reach where
  | served
  /-- ABSENT: the meadow is off, FAULTED, STARTING or STOPPING, or it refuses the requester. -/
  | absent
  | waits
  deriving DecidableEq, Repr

/-- The SRAM of meadow `m` refuses a requester acting with `role` (R391). -/
def sramRefuses (s : State) (m req role : Nat) : Bool :=
  decide (role < cfgRole s m) ||
    (s.rbit .meadow m MEADOW_CFG 1 && decide (req < 256 ∧ req / 8 ≠ m))

/-- An access to the SRAM of meadow `m`: a refusal and an absence are counted, and Rest ends (R388, R391, R416, R472). -/
def sramReach (s : State) (m req role : Nat) : State × Reach :=
  match (s.meadow m).st with
  | .active | .rest | .applying =>
    if sramRefuses s m req role then (s.bump .meadow m MEADOW_CNT_REFUSED, .absent)
    else if (s.meadow m).st = .applying then (s, .waits)
    else (leaveRest s m, .served)
  | _ => ((s.bump .meadow m MEADOW_CNT_ABSENT).bumpSeam SEAM_CNT_ABSENT, .absent)

/-- Meadow and offset of an address of the meadow SRAM window (R383). -/
abbrev sramMeadow (addr : Nat) : Nat := (addr - 0x10000000) / 0x100000
abbrev sramOff (addr : Nat) : Nat := addr % 0x100000

/-- The word of a meadow's SRAM is found uncorrectable, or poisoned, by a read. -/
abbrev sramBad (s : State) (m off : Nat) : Bool := eccBad (tget 0 (s.meadow m).sramErr (off / 8))

/-- The latest poisoned word read in a meadow's SRAM (R406). -/
def noteSram (s : State) (m off req : Nat) : State :=
  s.setReg .meadow m MEADOW_SRAM_ERR (w32 (off / 8 * 8 + 2 ^ 20 + 2 ^ 21 * (req % 512)))

/-- A read of a word of a meadow's SRAM: a single-bit error is corrected and counted, an uncorrectable one marked and counted;
whether the word is poisoned (R390). -/
def sramCheck (s : State) (m off req : Nat) : State × Bool :=
  let y := s.meadow m
  if tget 0 y.sramErr (off / 8) = 0 then (s, false)
  else
    let x := checkWord y.sram y.sramErr (off / 8)
    let s := s.setMeadow m { y with sram := x.mem, sramErr := x.errs }
    match x.found with
    | .good => (s, false)
    | .fixed => (s.bump .meadow m MEADOW_CNT_CORR, false)
    | .bad => ((noteSram s m off req).bump .meadow m MEADOW_CNT_UNCORR, true)

/-- One word of a source of an order (R495, R498): none and a code where it cannot be read. -/
def srcWord (s : State) (req role addr : Nat) (first : Bool) : State × List Byte × Nat :=
  if addr < 0x40000000 then
    let m := sramMeadow addr
    let x := if first ∨ sramOff addr = 0 then sramReach s m req role else (s, .served)
    match x.2 with
    | .served =>
      let y := sramCheck x.1 m (sramOff addr) req
      if y.2 then (y.1, [], cPoisoned) else (y.1, memBytes (y.1.meadow m).sram (sramOff addr) 8, cDone)
    | _ => (x.1, [], cAbsent)
  else
    match bulkAt s (addr - 0x40000000) with
    | .at_ c o =>
      let y := bulkCheck s c o addr (some req)
      if y.2 then (y.1, [], cPoisoned) else (y.1, bulkRead y.1 c o 8, cDone)
    | _ => (s, [], cAbsent)

/-- Words from `addr` until one cannot be read. -/
def srcWords : Nat → State → (req role addr : Nat) → Bool → State × List Byte × Nat
  | 0, s, _, _, _, _ => (s, [], cDone)
  | n + 1, s, req, role, addr, first =>
    let x := srcWord s req role addr first
    if x.2.2 ≠ cDone then x
    else
      let y := srcWords n x.1 req role (addr + 8) false
      (y.1, x.2.1 ++ y.2.1, y.2.2)

/-- The source of an order is read, by whole words; meadows that were in Rest may go back to it (R388). -/
def srcRead (s : State) (req addr len : Nat) : State × List Byte × Nat :=
  let lead := addr % 8
  let x := srcWords ((lead + len + 7) / 8) s req (s.roleOf req) (addr - lead) true
  let x := (x.1, (x.2.1.drop lead).take len, x.2.2)
  if addr < 0x40000000 then
    let ms := (List.range 32).filter fun m => decide (sramMeadow addr ≤ m ∧ m ≤ sramMeadow (addr + len - 1))
    (ms.foldl sleepJudge x.1, x.2)
  else x

end Sys2Proof.Machine
end

