-- ==== Sys2Proof/Machine/Pattern.lean ====
section
/-! DEFINITION. Pattern files and panels: their layout, and the checks of an apply that change nothing. -/

namespace Sys2Proof.Machine

/-! Types and regions (R490, R491) -/

/-- In-force indices of a panel. -/
def ifIndices (type region mask : Nat) : List Nat :=
  match type with
  | 1 => ((List.range 8).filter fun c => mask.testBit c).map fun c => 8 * region + c
  | 2 => [256 + region]
  | 4 => [288 + region]
  | 0xD => [300 + region]
  | 3 => [312] | 5 => [313] | 6 => [314] | 7 => [315] | 8 => [316] | 9 => [317] | 0xA => [318] | 0xB => [319]
  | _ => [320]

def typeOk (type region mask : Nat) : Bool :=
  match type with
  | 1 => decide (region < 32 ∧ mask ≠ 0)
  | 2 => decide (region < 32 ∧ mask = 0)
  | 4 | 0xD => decide (region < 12 ∧ mask = 0)
  | 3 | 5 | 6 | 7 | 8 | 9 | 0xA | 0xB | 0xC => decide (region = 0 ∧ mask = 0)
  | _ => false

/-- Roles that may sign a type, as a mask of role numbers. -/
def signers (type : Nat) : Nat := if type = 0xC then 8 else if type = 0xD then 14 else 12

/-- Domains that must be on for an apply. -/
def panelDoms (s : State) (type region : Nat) : List Nat :=
  match type with
  | 1 | 2 => [region]
  | 3 => [44, 45, 46, 47].filter (domFit s)
  | 4 | 0xD => [32 + region]
  | 7 | 8 | 9 | 0xC => [49]
  | 0xB => [48]
  | _ => []

/-! The file (R483 to R488) -/

/-- A panel as its file holds it, with its table entry. -/
structure Sheet where
  off : Nat
  len : Nat
  type : Nat
  region : Nat
  mask : Nat
  rsv : Nat
  digest : List Byte
  hdr : List Byte
  sig : List Byte
  payload : List Byte
  deriving DecidableEq, Repr

def zeros (bs : List Byte) : Bool := bs.all fun x => decide (x = 0)

def patCount (bs : List Byte) : Nat := leAt bs 6 2
def patId (bs : List Byte) : List Byte := slice bs 8 16
def patLen (bs : List Byte) : Nat := leAt bs 24 4
def patSig (bs : List Byte) : List Byte := slice bs 0x1000 blockSize

def sheetAt (bs : List Byte) (k : Nat) : Sheet :=
  let e := 64 + 24 * k
  let off := leAt bs e 4
  let len := leAt bs (e + 4) 4
  { off := off, len := len, type := leAt bs (e + 8) 1, region := leAt bs (e + 9) 1, mask := leAt bs (e + 10) 1,
    rsv := leAt bs (e + 11) 1, digest := slice bs (e + 12) 12, hdr := slice bs off 128, sig := slice bs (off + 0x80) blockSize,
    payload := slice bs (off + 0x4180) (len - 0x4180) }

def sheets (bs : List Byte) : List Sheet := (List.range (patCount bs)).map (sheetAt bs)

def Sheet.payloadLen (h : Sheet) : Nat := leAt h.hdr 12 4

/-- The table entry agrees with the panel it names. -/
def sheetOk (h : Sheet) : Bool :=
  decide (h.off % 4096 = 0 ∧ 0x6000 ≤ h.off ∧ h.rsv = 0 ∧ h.len = 0x4180 + h.payloadLen) &&
    decide (leAt h.hdr 0 1 = h.type ∧ leAt h.hdr 1 1 = h.region ∧ leAt h.hdr 2 1 = h.mask) && typeOk h.type h.region h.mask

/-- Ends of the panels rise without overlap, the bytes between them are zero, and the last ends at `stop`. -/
def sheetsApart (bs : List Byte) (stop : Nat) : (from_ : Nat) → List Sheet → Bool
  | f, [] => decide (f = stop)
  | f, h :: hs => decide (f ≤ h.off) && zeros (slice bs f (h.off - f)) && sheetsApart bs stop (h.off + h.len) hs

/-- No two panels for one in-force index (row 3 of R495). -/
def noClash : List Nat → Bool
  | [] => true
  | i :: l => decide (i ∉ l) && noClash l

/-- Row 3 of R495. `bs` begins with the file; `most` is the largest PANEL_COUNT. -/
def layoutOk (bs : List Byte) (most : Nat) : Bool :=
  decide (0x6000 ≤ bs.length ∧ bs.take 4 = [b8 0x43, b8 0x58, b8 0x50, b8 0x54] ∧ leAt bs 4 2 = 1) &&
    decide (1 ≤ patCount bs ∧ patCount bs ≤ most ∧ patLen bs ≤ bs.length ∧ patLen bs ≤ 0x6000000) &&
    zeros (slice bs 28 36) && zeros (slice bs (64 + 24 * patCount bs) (4096 - (64 + 24 * patCount bs))) &&
    zeros (slice bs 0x5100 0xF00) && (sheets bs).all sheetOk && sheetsApart bs (patLen bs) 0x6000 (sheets bs) &&
    noClash ((sheets bs).flatMap fun h => ifIndices h.type h.region h.mask)

/-- The panel of a sheet; its role is that of its signature block. -/
def Sheet.panel (h : Sheet) : Panel :=
  { type := h.type, region := h.region, mask := h.mask, version := w32 (leAt h.hdr 4 4), rollback := w32 (leAt h.hdr 8 4),
    role := blockRole h.sig, header := h.hdr, payload := h.payload }

/-! Stamps (R488) -/

def stampAt (hdr : List Byte) (k : Nat) : List Byte := slice hdr (64 + 8 * k) 8

/-- Row 8 of R495 for one stamp. -/
def stampForm (t : List Byte) : Bool :=
  if leAt t 0 1 = 0 then zeros t
  else decide (leAt t 2 1 ≤ 1 ∧ (leAt t 0 1 = 1 ∧ leAt t 3 1 < 8 ∨ leAt t 0 1 ≠ 1 ∧ leAt t 3 1 = 0))

/-- Row 8 of R495. -/
def headerOk (h : Sheet) : Bool :=
  decide (leAt h.hdr 3 1 = 0 ∧ h.payloadLen % 8 = 0 ∧ 8 ≤ h.payloadLen) &&
    (List.range 8).all fun k => stampForm (stampAt h.hdr k)

/-- A stamp holds against the panels as they would stand. -/
def stampHolds (after : Nat → Option Panel) (t : List Byte) : Bool :=
  let type := leAt t 0 1
  if type = 0 then true
  else
    let mask := if type = 1 then 2 ^ leAt t 3 1 else 0
    typeOk type (leAt t 1 1) mask &&
      match (ifIndices type (leAt t 1 1) mask).head? with
      | some i =>
        match after i with
        | some p => decide (p.version.toNat = leAt t 4 4 ∨ leAt t 2 1 = 1 ∧ leAt t 4 4 ≤ p.version.toNat)
        | none => false
      | none => false

def stampsHold (after : Nat → Option Panel) (p : Panel) : Bool :=
  (List.range 8).all fun k => stampHolds after (stampAt p.header k)

/-! What a panel may load (R494) -/

/-- A loadable register of the power policy. -/
def powerOff (b : Blk) (off : Nat) : Bool :=
  match b with
  | .heath =>
    decide (off ∈ [HEATH_DOM_ON_LO, HEATH_DOM_ON_HI, HEATH_DEV_MODE, HEATH_WAKE_EN, HEATH_WAKE_ROUTES, HEATH_WAKE_TMO,
      HEATH_WAKE_LANE, HEATH_WAKE_ROUTE, HEATH_BACKUP, HEATH_SENTINEL])
  | .stat => decide (off = FLT_CFG)
  | .meadow => decide (off ∈ [MEADOW_MODE, MEADOW_GOV, MEADOW_GOV2])
  | .pad => decide (off ∈ [PAD_GRP, PAD_GPIO])
  | .seam => decide (off = SEAM_CFG)
  | _ => false

def qengOffs : List Nat :=
  [QENG_CFG, QENG_POOL_SIZE, QENG_CLASS_A, QENG_CLASS_B, QENG_CLASS_IDLE_LO, QENG_CLASS_IDLE_HI, QENG_SLOTMAP]

def hedgeOffs : List Nat := [HEDGE_CFG, HEDGE_DELAY, HEDGE_CHAN, HEDGE_PSEL, HEDGE_TSEL]

def smpOffs : List Nat := [HEATH_SMP_CFG, HEATH_SMP_A, HEATH_SMP_B]

/-- A register of a block, by the offset of its array and its index, is loadable by a type for a region. -/
def loadableReg (type region : Nat) (b : Blk) (i off k : Nat) : Bool :=
  match type with
  | 2 => decide (b = .meadow ∧ i = region ∧ (off = MEADOW_CFG ∨ off = MEADOW_MBX))
  | 3 => decide (b = .qeng ∧ off ∈ qengOffs ∨ b = .qdr ∧ (off = QDR_CFG ∨ off = QDR_GEOM))
  | 4 => decide (b = .lane ∧ i / 12 = region ∧ off ∈ laneSetOffs)
  | 5 => decide (b = .hedge ∧ off ∈ hedgeOffs ∧ (off ≠ HEDGE_CHAN ∨ 8 ≤ k))
  | 6 => powerOff b off
  | 9 => decide (b = .life ∧ off ∈ lifeOffs)
  | 0xA => decide (b = .heath ∧ off ∈ smpOffs)
  | 0xB => decide (b = .upl ∧ off ∈ uplinkOffs ∨ b = .heath ∧ off ∈ tbOffs)
  | 0xD => decide (b = .lane ∧ off ∈ calendarOffs)
  | _ => false

/-- A register record touches only loadable registers. -/
def loadable (type region addr : Nat) : Bool :=
  let place := if type = 0xD then (if addr < 0x10000 then some (Blk.lane, 0, addr) else none) else blkOf (0xE0000000 + addr)
  match place with
  | some (b, i, off) =>
    match findReg (blkRegs b) off with
    | some (d, k) => loadableReg type region b i d.off k
    | none => false
  | none => false

/-- A BLOB is one the type carries, and meets its chapter's layout (R514, R515, R549). -/
def blobOk (type id : Nat) (data : List Byte) : Bool :=
  match type with
  | 7 => decide (id = 1 ∧ data.length % 8 = 0 ∧ data.length ≤ 8192)
  | 8 => decide (id = 2) && keyTableOk 4 data || decide (id = 3) && keyTableOk 8 data
  | 0xB => decide (0x20 ≤ id ∧ id < 0x24)
  | 0xC => decide (id ≠ 0x10 ∨ data.length % 8 = 0 ∧ data.length ≤ 8192)
  | _ => false

/-- A record is one R494 lets its type hold. -/
def recOk (type region : Nat) (r : PanelRec) : Bool :=
  match r.kind with
  | 1 => decide (r.off % 4 = 0) && (List.range r.count).all fun j => loadable type region (r.off + 4 * j)
  | 2 => decide (type = 1 ∧ r.off + r.count ≤ 0x10000 ∨ type = 2 ∧ r.off + r.count ≤ 0x100000)
  | 3 => decide (type = 4 ∧ r.off + r.count ≤ 12 * 128)
  | 4 =>
    decide (type = 3 ∧ 0xD8000 ≤ r.off ∧ r.off + r.count ≤ 0x100000 ∧ leAt r.data 0 8 < 128) &&
      (List.range r.count).all fun j => listedDev (r.off + j)
  | 5 => blobOk type r.off r.data
  | _ => false

/-- The BLOB with identifier `id` of a panel. -/
def panelBlob (p : Panel) (id : Nat) : Option (List Byte) :=
  (p.records.find? fun r => decide (r.kind = 5 ∧ r.off = id)).map fun r => r.data

/-! Loading the queue map (R113, R115, R119, R152, R156) -/

/-- Default CLASS_A and CLASS_B of a class, BORROW as R113 gives it. -/
def classDefault (c : Nat) : Word × Word :=
  let a := fun (depth q : Nat) => w32 (depth + 2 ^ 16 * q + 2 ^ 26)
  let b := fun (borrow push pop : Nat) => w32 (borrow + 2 ^ 20 * push + 2 ^ 21 * pop)
  match c with
  | 0 => (a 64 4, b 128 0 5)
  | 1 => (a 256 1, b 64 0 5)
  | 2 => (a 64 0, b 32 5 5)
  | 3 => (a 256 1, b 16 0 5)
  | 4 => (a 64 1, b 16 5 5)
  | 5 => (a 16 2, b 64 0 5)
  | 6 => (a 4096 8, b 1024 0 4)
  | 7 => (a 1024 4, b 1024 0 5)
  | 8 => (a 1024 4, b 512 0 5)
  | 9 => (a 256 2, b 2048 0 5)
  | 10 => (a 256 0, b 1024 5 5)
  | _ => (a 1 0, b 0 0 0)

/-- Default byte of a slot map: class of a slot, or slot of a filing source (R113, R114). -/
def slotDefault (i : Nat) : Nat :=
  if i < 2 then 0x40
  else if i < 8 then 0x41
  else if i < 48 then 2
  else match i - 48 with
    | 0 => 0 | 1 => 1 | 2 => 2 | 3 => 3 | 4 => 4 | 5 => 5 | 6 => 6 | 7 => 63 | 8 => 7 | 9 => 3 | _ => 0

/-- What an omitted register of the queue map takes. -/
def queueDefault (b : Blk) (i : Nat) (d : RegDesc) (k : Nat) : Word :=
  match b with
  | .qeng =>
    if d.off = QENG_CLASS_A then (classDefault k).1
    else if d.off = QENG_CLASS_B then (classDefault k).2
    else if d.off = QENG_SLOTMAP then
      w32 (((List.range 4).map fun j => slotDefault (4 * (k % 16) + j) * 2 ^ (8 * j)).sum)
    else resetWord (regAddr b i (d.off + d.stride * k))
  | _ => resetWord (regAddr b i (d.off + d.stride * k))

/-- The registers of a queue map are loaded: geometry first, then pool sizes, then classes and slots. -/
def loadQueueRegs (count : Bool) (p : Panel) (b : Blk) (i : Nat) (offs : List Nat) (x : State × Bool) : State × Bool :=
  (offs.flatMap fun o => descsAt b [o]).foldl (fun x d =>
    (List.range d.count).foldl (fun x k =>
      loadReg count p.role x b i d k ((panelReg p (relOf b i (d.off + d.stride * k))).getD (queueDefault b i d k))) x) x

/-- A pool size is the largest that fits where it is omitted or too large (R115). -/
def poolFix (count : Bool) (p : Panel) (c : Nat) (x : State × Bool) : State × Bool :=
  let s := x.1
  let most := largestPool (s.reg .qdr c QDR_GEOM)
  let off := QENG_POOL_SIZE + 4 * c
  match panelReg p (relOf .qeng 0 off) with
  | none => (s.setReg .qeng 0 off (w32 most), x.2)
  | some _ =>
    if most < (s.reg .qeng 0 off).toNat then
      let s := s.setReg .qeng 0 off (w32 most)
      (if count then s.logClamp .qeng 0 1 off p.role else s, true)
    else x

/-- The largest pool size of a map bounds every class's BORROW (R152); a default is bounded without being counted. -/
def borrowFix (count : Bool) (p : Panel) (c : Nat) (x : State × Bool) : State × Bool :=
  let s := x.1
  let most := ((List.range 4).map fun n => (s.reg .qeng 0 (QENG_POOL_SIZE + 4 * n)).toNat).foldl max 0
  let off := QENG_CLASS_B + 16 * c
  if most < bits (s.reg .qeng 0 off) 19 0 then
    let s := s.setFld .qeng 0 off 19 0 most
    if (panelReg p (relOf .qeng 0 off)).isSome then (if count then s.logClamp .qeng 0 1 off p.role else s, true) else (s, x.2)
  else x

def qrangesOf (p : Panel) : List QRange :=
  (p.records.filterMap fun r =>
    if r.kind = 4 then
      let w := leAt r.data 0 8
      some ⟨r.off, r.count, ⟨w % 64, decide (64 ≤ w)⟩⟩
    else none).reverse

/-- Quotas of the enabled queues of a channel under the registers and ranges now loaded (R118, R148). -/
def quotaSum (s : State) (c : Nat) : Nat :=
  let s := { s with qmapped := true }
  let groups := [3 * c, 3 * c + 1, 3 * c + 2]
  let lantern := (groups.map fun g =>
    12 * 128 * ((List.range 48).map fun slot =>
      let q := lanternQ (12 * g) 1 slot
      if (qcfgOf s q).en then quota s q else 0).sum).sum
  lantern + ((List.range 40960).map fun k =>
    let q := 0xD8000 + 4 * k + c
    if (qcfgOf s q).en then quota s q else 0).sum

/-- A queue map's registers, ranges and summed quotas. -/
def loadQueueMap (count : Bool) (p : Panel) (s : State) : State × Bool :=
  let x := (List.range 4).foldl (fun x c => loadQueueRegs count p .qdr c [QDR_GEOM, QDR_CFG] x) (s, false)
  let x := loadQueueRegs count p .qeng 0 [QENG_CFG, QENG_POOL_SIZE] x
  let x := (List.range 4).foldl (fun x c => poolFix count p c x) x
  let x := loadQueueRegs count p .qeng 0 [QENG_CLASS_A, QENG_CLASS_B, QENG_CLASS_IDLE_LO, QENG_CLASS_IDLE_HI, QENG_SLOTMAP] x
  let x := (List.range 64).foldl (fun x c => borrowFix count p c x) x
  let s := { x.1 with qranges := qrangesOf p }
  ((List.range 4).foldl (fun s c => s.setReg .qeng 0 (QENG_POOL_RSV + 4 * c) (w32 (quotaSum s c))) s, x.2)

/-- R119: no channel's summed quota exceeds its pool. -/
def queueMapOk (s : State) (p : Panel) : Bool :=
  let s := (loadQueueMap false p s).1
  (List.range 4).all fun c =>
    decide ((s.reg .qeng 0 (QENG_POOL_RSV + 4 * c)).toNat ≤ (s.reg .qeng 0 (QENG_POOL_SIZE + 4 * c)).toNat)

/-! Contents (R497) -/

/-- MEADOW_CFG.LOCKSTEP of a meadow under its meadow data. -/
def lockOf (o : Option Panel) (m : Nat) : Bool :=
  match o with
  | some p => bit ((panelReg p (relOf .meadow m MEADOW_CFG)).getD 0) 0
  | none => false

/-- Both cores of every pair a mask touches are named. -/
def pairsWhole (mask : Nat) : Bool := (List.range 4).all fun k => mask.testBit (2 * k) == mask.testBit (2 * k + 1)

/-- Images in force in a meadow have one role, that of the meadow data where one is in force. -/
def rolesAgree (after : Nat → Option Panel) (m : Nat) : Bool :=
  let rs := ((meadowCores m).filterMap after).map fun p => p.role
  match after (256 + m) with
  | some p => rs.all fun r => decide (r = p.role)
  | none => match rs with | [] => true | r :: rs => rs.all fun x => decide (x = r)

/-- IMAGE_ROLE under the panels in force. -/
def roleUnder (at_ : Nat → Option Panel) (m : Nat) : Nat :=
  match at_ (256 + m) with
  | some p => p.role
  | none => (((meadowCores m).filterMap at_).head?.map fun p => p.role).getD 0

/-- The load a lane set would admit on a lane (R90). -/
def panelLoad (s : State) (p : Panel) (l : Nat) : Nat :=
  ((panelListing p l).map fun e => match (s.node l e.1).grant with | some g => allowance g | none => 3300).sum

/-- The lanes of its group whose load would pass the limit. -/
def overBudget (s : State) (p : Panel) : List Nat := (laneGroup p.region).filter fun l => decide (8000000 < panelLoad s p l)

/-- Check 13 of one panel: none, or a code and the CHECK reported. -/
def contents (s : State) (before after : Nat → Option Panel) (ps : List Panel) (p : Panel) : Option (Nat × Nat) :=
  match parseRecords (p.payload.length / 8 + 1) p.payload with
  | none => some (cBadFormat, 11)
  | some rs =>
    if rs.all (recOk p.type p.region) = false then some (cBadFormat, 11)
    else
      let m := p.region
      let has := fun (type : Nat) => ps.any fun x => decide (x.type = type ∧ x.region = m)
      let masks : List Nat := (ps.filter fun x => decide (x.type = 1 ∧ x.region = m)).map fun x => x.mask
      if p.type = 1 ∧ lockOf (after (256 + m)) m = true ∧ pairsWhole p.mask = false then some (cMismatch, 11)
      else if (p.type == 2 && lockOf (after (256 + m)) m != lockOf (before (256 + m)) m && masks.sum != 255) = true then
        some (cMismatch, 11)
      else if (p.type = 1 ∨ p.type = 2) ∧ rolesAgree after m = false then some (cMismatch, 11)
      else if (p.type = 1 ∨ p.type = 2) ∧ p.role < roleUnder before m ∧ has 2 = false then some (cDenied, 8)
      else if p.type = 3 ∧ queueMapOk s p = false then some (cBadFormat, 11)
      else if p.type = 4 ∧ overBudget s p ≠ [] then some (cMismatch, 11)
      else if p.type = 8 ∧
          (((panelBlob p 2).all fun t => decide (p.role ≠ 3) || keyTableFresh s 4 t) &&
            ((panelBlob p 3).all fun t => keyTableFresh s 8 t)) = false then some (cMismatch, 11)
      else none

/-! The checks in order (R495) -/

/-- A check that failed: completion code, panel or 255, CHECK. -/
structure Failure where
  code : Nat
  panel : Nat := 255
  check : Nat
  deriving DecidableEq, Repr

/-- The first element a test picks, with its index. -/
def firstBad {α β : Type} (test : α → Option β) : Nat → List α → Option (Nat × β)
  | _, [] => none
  | k, x :: xs => match test x with | some b => some (k, b) | none => firstBad test (k + 1) xs

/-- Rows 8 to 11 of one panel. -/
def sheetBad (s : State) (h : Sheet) : Option (Nat × Nat) :=
  if headerOk h = false then some (cBadFormat, 5)
  else if Config.sha384 h.payload ≠ slice h.hdr 16 48 then some (cBadSignature, 6)
  else if pairOk s h.hdr h.sig = false then some (cBadSignature, 7)
  else if (decide ((signers h.type).testBit (blockRole h.sig)) && permits s 0 h.type 0xFF (blockRole h.sig)) = false then
    some (cDenied, 8)
  else none

/-- The panels in force with a bundle's in place of them. -/
def withPanels (before : Nat → Option Panel) (ps : List Panel) (i : Nat) : Option Panel :=
  match ps.find? fun p => decide (i ∈ ifIndices p.type p.region p.mask) with
  | some p => some p
  | none => before i

/-- A failure of a panel. -/
def failAt (x : Option (Nat × Nat × Nat)) : Option Failure := x.map fun y => ⟨y.2.1, y.1, y.2.2⟩

/-- Rows 6 to 11: digests, the pattern's pair, then each panel by itself. -/
def judgeSigns (s : State) (bs : List Byte) : Option Failure :=
  match firstBad (fun h => if (Config.sha384 h.hdr).take 12 = h.digest then none else some (cBadSignature, 3)) 0 (sheets bs) with
  | some (k, c) => some ⟨c.1, k, c.2⟩
  | none =>
    if pairOk s (slice bs 0 4096) (patSig bs) = false then some { code := cBadSignature, check := 4 }
    else failAt (firstBad (sheetBad s) 0 (sheets bs))

/-- Row 12, for the panels `live` keeps. -/
def judgeRollback (s : State) (ps : List Panel) (live : Panel → Bool) : Option Failure :=
  failAt (firstBad (fun p => if !live p || rollbackOk s p.type p.region p.rollback.toNat then none else some (cRollback, 9)) 0 ps)

/-- Rows 13 and 14. -/
def judgeContents (s : State) (before : Nat → Option Panel) (ps : List Panel) : Option Failure :=
  let after := withPanels before ps
  match failAt (firstBad (contents s before after ps) 0 ps) with
  | some f => some f
  | none => failAt (firstBad (fun p => if stampsHold after p then none else some (cMismatch, 10)) 0 ps)

/-- Rows 6 to 14 of a bundle against the panels in force. -/
def judgeBundle (s : State) (bs : List Byte) : Option Failure :=
  let ps := (sheets bs).map Sheet.panel
  match judgeSigns s bs with
  | some f => some f
  | none =>
    match judgeRollback s ps (fun _ => true) with
    | some f => some f
    | none => judgeContents s s.inForce ps

/-- The verifications rows 7 and 10 make, with their counters, up to the first that fails. -/
def countSheets : State → List Sheet → State
  | s, [] => s
  | s, h :: hs =>
    if headerOk h && decide (Config.sha384 h.payload = slice h.hdr 16 48) then
      let x := verifyPair s h.hdr h.sig
      if x.2 && (decide ((signers h.type).testBit (blockRole h.sig)) && permits s 0 h.type 0xFF (blockRole h.sig)) then
        countSheets x.1 hs
      else x.1
    else s

/-- A lane set that fails the judgement of R90 counts on each lane that fails it. -/
def countBudget (s : State) (p : Option Panel) (f : Failure) : State :=
  match p with
  | some p => if f.check = 11 ∧ p.type = 4 then (overBudget s p).foldl (fun s l => s.bump .lane l LANE_CNT_BUDGET_CLAMP) s else s
  | none => s

def countVerified (s : State) (bs : List Byte) : State :=
  if (sheets bs).all fun h => decide ((Config.sha384 h.hdr).take 12 = h.digest) then
    let x := verifyPair s (slice bs 0 4096) (patSig bs)
    if x.2 then countSheets x.1 (sheets bs) else x.1
  else s

end Sys2Proof.Machine
end

