-- ==== Sys2Proof/Machine/Time.lean ====
section
/-! DEFINITION. The timebase: settings and steps, the PTP client, alarms, PPS, captures and the latching read. -/

namespace Sys2Proof.Machine

abbrev tbMode (s : State) : Nat := s.fld .heath 0 HEATH_TB_DISC 1 0
abbrev tbSource (s : State) : Nat := s.fld .heath 0 HEATH_TB_DISC 3 2

/-- T48 of an instant in units of 2^-16 ns. -/
abbrev t48Of (now : Nat) : Nat := now / 65536 / 1000 % 2 ^ 48

/-- Distance of two instants. -/
abbrev apart (a b : Nat) : Nat := (a - b) + (b - a)

/-! Settings and steps (R547) -/

/-- The lanes whose domain is on set every base afresh (R189). -/
def stepBases (s : State) : State :=
  (List.range 144).foldl (fun s l => if s.domOn (laneDom l) then setBases s l else s) s

/-- The time becomes `now`. The first setting, and a step of more than 1 s, fire HC3, are journaled as REQUESTER `req` and
WHO `who`, and act under R189 and R301 (R530, R606). -/
def stepTime (s : State) (now req who : Nat) (free : Bool) : State :=
  let old := s.tb.now
  let big := !s.timeSet || decide (1000000000 * 65536 < apart old now)
  let s := s.modTb fun x => { x with now := now, st := if free ∨ x.st = 0 then 1 else x.st, good := 0 }
  let s := s.modTb fun x => { x with ppsAt := s.townSec }
  let s := s.bump .heath 0 HEATH_TB_CNT_STEPS
  if big then
    let s := s.fire1 3
    let s := journalOrLose s
      { who := who, form := jForm s, req := req, action := 0x8002, old := d64 (t48Of old), new := d64 (t48Of now), block := 1,
        timeUs := s.townUs }
    stepBoundary (stepBases s)
  else s

/-- TIME_SET (R561). -/
def orderTimeSet (s : State) (d : Desc) : OrderRes :=
  let sec := d.target.toNat + 2 ^ 32 * d.bytes 9 8
  let ns := d.bytes 13 10
  let clamp := decide (999999999 < ns)
  let s := stepTime s ((sec * 1000000000 + min ns 999999999) * 65536) d.req (jWho s d.req) true
  fin s (doneOr clamp)

/-- HEATH_TB_DISC has been written: outside mode 1 no discipline holds the time (R546). -/
def discWritten (s : State) (old new : Word) : State :=
  if bits old 1 0 = 1 ∧ bits new 1 0 ≠ 1 ∧ 2 ≤ s.tb.st then s.modTb fun x => { x with st := 1, good := 0 } else s

/-- HEATH_TB_RATE has been written in mode 2 (R546). -/
def rateWritten (s : State) (v : Word) : State := s.modTb fun x => { x with rate := v.toInt, lastRate := some s.uptime }

/-- HEATH_TB_UTC has been written: its OFFSET applies from the next whole second (R545). -/
def utcWritten (s : State) (old : Word) : State :=
  let inForce := match s.tb.utcAt with | some a => if s.townSec < a then s.tb.utcOld else bits old 15 0 | none => bits old 15 0
  s.modTb fun x => { x with utcOld := inForce, utcAt := some (s.townSec + 1) }

/-! The PTP client (R541 step 2, R546) -/

/-- A signed number saturated to 32 bits. -/
def sat32 (x : Int) : Word := BitVec.ofInt 32 (if x < -2147483648 then -2147483648 else if 2147483647 < x then 2147483647 else x)

/-- The rate of a servo within ±500 ppm (R547). -/
def slewRate (x : Int) : Int := if x < -32768000 then -32768000 else if 32768000 < x then 32768000 else x

/-- A complete exchange with an offset in nanoseconds, local time less the master's. -/
def ptpSample (s : State) (offset : Int) : State :=
  let s := (s.bump .heath 0 HEATH_TB_CNT_SAMPLES).setReg .heath 0 HEATH_TB_OFFSET (sat32 offset)
  let s := s.modTb fun x => { x with lastExchange := s.uptime, st := if x.st = 3 then 1 else x.st }
  if s.tb.st = 0 ∨ s.fld .heath 0 HEATH_TB_DISC 27 16 * 1000 ≤ offset.natAbs then
    stepTime s ((s.tb.now : Int) - offset * 65536).toNat (400 + tbSource s) 0 false
  else
    let good := if offset.natAbs ≤ 1000 then s.tb.good + 1 else 0
    s.modTb fun x =>
      { x with rate := slewRate (Config.servoRate x.rate offset), good := min good 16, st := if 16 ≤ good then 2 else x.st }

/-- PTP_MESSAGE_RX on uplink n. -/
def ptpMessage (s : State) (n : Nat) (named complete : Bool) (offset : Int) : State :=
  if (s.upl n).st ≠ 4 ∨ tbMode s ≠ 1 ∨ tbSource s ≠ n then s
  else if named = false then s.bump .heath 0 HEATH_TB_CNT_REJECTED
  else if complete then ptpSample s offset
  else s

/-- PTP_HOLDOVER. -/
def ptpHoldover (s : State) : State :=
  if tbMode s = 1 ∧ s.tb.st = 2 ∧ (s.tb.lastExchange + 8000000000 ≤ s.uptime ∨ s.domOn 48 = false) then
    (s.modTb fun x => { x with st := 3, good := 0 }).bump .heath 0 HEATH_TB_CNT_HOLDOVERS
  else s

/-! Alarms, PPS and captures (R548) -/

/-- An alarm register has been written: the alarm is armed for the next instant its time names, or not at all. -/
def alarmArm (s : State) (k : Nat) : State :=
  let b := s.reg .heath 0 (HEATH_TB_ALARM_B + 0x10 * k)
  let a := (s.reg .heath 0 (HEATH_TB_ALARM_A + 0x10 * k)).toNat
  let sec := s.townSec / 2 ^ 32 * 2 ^ 32 + a
  let t := sec * 1000000000 + bits b 29 0
  let t := if t < s.townNs then t + 2 ^ 32 * 1000000000 else t
  s.modTb fun x => { x with alarms := tset none x.alarms k (if bit b 30 then some t else none) }

/-- ALARM: town time has reached the alarm's. -/
def alarmServe (s : State) (k : Nat) : State :=
  match tget none s.tb.alarms k with
  | some t =>
    if t ≤ s.townNs then
      let p := s.fld .heath 0 (HEATH_TB_ALARM_C + 0x10 * k) 23 0 * 1000000
      let offA := HEATH_TB_ALARM_A + 0x10 * k
      let offB := HEATH_TB_ALARM_B + 0x10 * k
      let next := t + ((s.townNs - t) / p + 1) * p
      let s := if p = 0 then
          (s.setFld .heath 0 offB 30 30 0).modTb fun x => { x with alarms := tset none x.alarms k none }
        else
          ((s.setReg .heath 0 offA (w32 (next / 1000000000))).setFld .heath 0 offB 29 0 (next % 1000000000)).modTb fun x =>
            { x with alarms := tset none x.alarms k (some next) }
      alarmWake (s.fire1 (prodAlarm k)) k
    else s
  | none => s

/-- PPS: a whole town second has come. -/
def ppsServe (s : State) : State :=
  if s.townSec ≠ s.tb.ppsAt then (s.modTb fun x => { x with ppsAt := s.townSec }).fire1 prodPps else s

/-- CAPTURE. -/
def captureServe (s : State) (k : Nat) : State :=
  if tiDue s (tiCapture k) then
    let s := s.setReg .heath 0 (HEATH_TB_CAP_LO + 8 * k) (w32 s.townSec)
    let s := s.setReg .heath 0 (HEATH_TB_CAP_HI + 8 * k) (w32 (s.townNs % 1000000000 + 2 ^ 30))
    tiEnd s (tiCapture k)
  else s

/-- A read of HEATH_TB_SEC_LO latches the rest of the instant (R565). -/
def tbLatch (s : State) : State :=
  s.modTb fun x =>
    { x with latchHi := s.townSec / 2 ^ 32 % 65536, latchNs := s.townNs % 1000000000, latchFrac := s.tb.now % 65536 }

def tbCounters : List Nat := offsFrom 0x2200 4 4

def orderTbClear (s : State) : OrderRes := fin (s.clearRegs .heath 0 tbCounters) cDone

/-- TIME_SET and TB_COUNTERS_CLEAR. -/
def tbFormat (op : Nat) (d : Desc) : Bool :=
  if op = 0x40 then decide (d.bytes 15 14 = 0) else decide (d.target = 0 ∧ d.arg = 0)

end Sys2Proof.Machine
end

