-- ==== Sys2Proof/Machine/Uplink.lean ====
section
/-! DEFINITION. Uplinks: links, received frames and their filing, federation hand-offs, export sources, and the management
engine's answers. -/

namespace Sys2Proof.Machine

abbrev ureg (s : State) (n off : Nat) : Word := s.reg .upl n off

/-- The link is up (R560). -/
abbrev uplUp (s : State) (n : Nat) : Bool := decide ((s.upl n).st = 4)

/-- A counter of the uplinks' bank: 0 frames received, 1 sent, 2 hand-offs sent, 3 received, 4 frames dropped (R308). -/
def uplBank (s : State) (n i : Nat) : State := s.bankAdd bankUpl (5 * n + i) 1

/-! Links (R543, R560) -/

/-- A frame leaves; `bs` is what the model keeps of it. -/
def uplSent (s : State) (n : Nat) (bs : List Byte) : State :=
  uplBank ((s.bump .upl n UPL_CNT_TX_FRAMES).modUpl n fun x => { x with lastSent := bs }) n 1

/-- A link that was up is lost. -/
def uplFlap (s : State) (n st : Nat) : State :=
  let s := if uplUp s n then s.modUpl n fun x => { x with flaps := satTo 255 (x.flaps + 1), an := false } else s
  setUplSt s n st

/-- UPLINK_LINK_CHANGE. -/
def uplLink (s : State) (n : Nat) (up an : Bool) : State :=
  let x := s.upl n
  if up ∧ x.st = 3 then
    let w := ureg s n UPL_CFG
    let s := s.modUpl n fun x => { x with speed10 := bit w 1, an := an && bit w 2 && !bit w 1 }
    setUplSt s n 4
  else if up = false ∧ x.st = 4 then uplFlap s n 3
  else s

/-- UPL_CFG.ENABLE has been written (R560). -/
def uplWritten (s : State) (n : Nat) (new : Word) : State :=
  if bit new 0 then (if (s.upl n).st = 2 then setUplSt s n 3 else s)
  else if 2 < (s.upl n).st then (setUplSt s n 2).modUpl n fun x => { x with an := false }
  else s

/-- An uplink set has been loaded: a link whose settings changed starts again (R503). -/
def uplReloaded (s : State) (n : Nat) (old : Word) : State :=
  let new := ureg s n UPL_CFG
  let s := uplWritten s n new
  if uplUp s n ∧ bits old 2 1 ≠ bits new 2 1 then uplFlap s n 3 else s

/-! Receiving (R541, R542) -/

/-- A big-endian 16-bit number of a frame. -/
abbrev be16 (bs : List Byte) (off : Nat) : Nat := leAt bs off 1 * 256 + leAt bs (off + 1) 1

def ethTagged (bs : List Byte) : Bool := decide (be16 bs 12 = 0x8100)
def ethType (bs : List Byte) : Nat := if ethTagged bs then be16 bs 16 else be16 bs 12
/-- Where the payload of a frame begins. -/
def ethBody (bs : List Byte) : Nat := if ethTagged bs then 18 else 14
def ethVid (bs : List Byte) : Nat := be16 bs 14 % 4096
def ethPcp (bs : List Byte) : Nat := be16 bs 14 / 8192

/-- Two tags (R540). -/
def ethTwoTags (bs : List Byte) : Bool := ethTagged bs && decide (be16 bs 16 = 0x8100 ∨ be16 bs 16 = 0x88A8)

/-- The own MAC address, byte 0 first. -/
def ownMac (s : State) (n : Nat) : List Byte :=
  leBytes 4 (ureg s n UPL_MAC_LO).toNat ++ leBytes 2 (ureg s n UPL_MAC_HI).toNat

def ownIp (s : State) (n : Nat) : List Byte := (List.range 4).flatMap fun w => leBytes 4 (ureg s n (UPL_IP6 + 4 * w)).toNat

/-- The destination MAC test of step 1. -/
def macOk (s : State) (n : Nat) (bs : List Byte) : Bool :=
  let d := slice bs 0 6
  decide (d = ownMac s n) || d.all (fun x => decide (x = 0xFF)) ||
    (s.rbit .upl n UPL_CFG 19 && decide (slice bs 0 2 = [b8 0x33, b8 0x33]))

/-- Step 1 of R541 but for the frame check sequence. -/
def frameFits (s : State) (n : Nat) (bs : List Byte) : Bool :=
  decide (60 ≤ bs.length ∧ bs.length + 4 ≤ 1522) && !ethTwoTags bs && decide (ethType bs ≠ 0x8808) && macOk s n bs

/-- A UDP datagram over IPv6: whether it is addressed to the own address, whether to a multicast address, and its
destination port. -/
def udpOf (s : State) (n : Nat) (bs : List Byte) : Option (Bool × Bool × Nat) :=
  let b := ethBody bs
  if ethType bs = 0x86DD ∧ leAt bs b 1 / 16 = 6 ∧ leAt bs (b + 6) 1 = 17 then
    some (decide (slice bs (b + 24) 16 = ownIp s n), decide (leAt bs (b + 24) 1 = 0xFF), be16 bs (b + 42))
  else none

/-- Where the PTP message of a frame begins, by its EtherType or its UDP port (step 2). -/
def ptpAt (s : State) (n : Nat) (bs : List Byte) : Option Nat :=
  if ethType bs = 0x88F7 then some (ethBody bs)
  else
    match udpOf s n bs with
    | some (_, _, p) => if p = 319 ∨ p = 320 then some (ethBody bs + 48) else none
    | none => none

/-- clockIdentity and portNumber that HEATH_TB_MASTER names. -/
def masterId (s : State) : List Byte :=
  ((List.range 3).flatMap fun w => leBytes 4 (s.reg .heath 0 (HEATH_TB_MASTER + 4 * w)).toNat).take 10

/-- Step 2 takes a frame: a PTP message from the master that HEATH_TB_MASTER names, on the uplink and in the domain that
HEATH_TB_DISC names. The places of domainNumber (byte 4) and sourcePortIdentity (bytes 20 to 29) are IEEE 1588's (PRESUMED,
log entry 34). -/
def isPtp (s : State) (n : Nat) (bs : List Byte) : Bool :=
  match ptpAt s n bs with
  | none => false
  | some a =>
    decide (s.fld .heath 0 HEATH_TB_DISC 3 2 = n ∧ s.fld .heath 0 HEATH_TB_DISC 11 4 = leAt bs (a + 4) 1) &&
      ((masterId s).all (fun b => decide (b = 0)) || decide (masterId s = slice bs (a + 20) 10))

/-- A frame the federation or management engine takes (steps 3 and 4). -/
def isOwnPort (s : State) (n : Nat) (bs : List Byte) : Bool :=
  match udpOf s n bs with
  | some (true, _, p) =>
    let w := ureg s n UPL_PORTS
    decide (p ≠ 0 ∧ (p = bits w 15 0 ∨ p = bits w 31 16))
  | _ => false

/-- Every enabled match of rule i holds (step 5, R563). -/
def ruleTakes (s : State) (n i : Nat) (bs : List Byte) : Bool :=
  let a := ureg s n (UPL_RULE_A + 8 * i)
  let b := ureg s n (UPL_RULE_B + 8 * i)
  bit a 31 && (!bit a 28 || decide (ethType bs = bits a 15 0)) &&
    (!bit a 29 || ethTagged bs && decide (ethVid bs = bits a 27 16)) &&
    (!bit a 30 || (match udpOf s n bs with
      | some (own, multi, p) => (own || multi) && decide (p = bits b 15 0)
      | none => false))

def ruleFor (s : State) (n : Nat) (bs : List Byte) : Option Nat := (List.range 64).find? fun i => ruleTakes s n i bs

/-- The packet of a filed frame (R542). -/
def rxPacket (s : State) (n i : Nat) (bs : List Byte) : List Dword :=
  let c := bits (ureg s n (UPL_RULE_B + 8 * i)) 25 16
  let tag := if ethTagged bs then ethVid bs * 2 ^ 16 + 2 ^ 28 + ethPcp bs * 2 ^ 29 else 0
  let ws := d64 (s.townNs % 1000000000 + s.townSec % 2 ^ 32 * 2 ^ 32) :: d64 (bs.length + tag) :: packWords bs
  mkHeader 0x16 ws.length i (400 + n) (c + n * 2 ^ 10) :: ws

/-- Queue of a receive class. -/
abbrev rxQueue (n c : Nat) : Nat := 0xD9000 + n * 0x400 + c

def rxDrop (s : State) (n : Nat) : State := uplBank (s.bump .upl n UPL_CNT_RX_DROP) n 4

/-- Waiting frames are filed in order, each queue by itself. -/
def rxDrainGo (n : Nat) : List (Nat × List Dword × Nat) → State → List Nat → State
  | [], s, _ => s
  | (q, ws, len) :: l, s, shut =>
    let keep := fun (s : State) => s.modUpl n fun x => { x with rxHeld := x.rxHeld ++ [(q, ws, len)] }
    if q ∈ shut then rxDrainGo n l (keep s) shut
    else
      match hwTry s q ws with
      | (s, .ok) | (s, .refused) => rxDrainGo n l (s.modUpl n fun x => { x with rxBytes := x.rxBytes - len }) shut
      | (s, _) => rxDrainGo n l (keep s) (q :: shut)

def rxDrain (s : State) (n : Nat) : State :=
  let l := (s.upl n).rxHeld
  if l = [] then s else rxDrainGo n l (s.modUpl n fun x => { x with rxHeld := [] }) []

/-- A frame is filed, or waits in the receive buffer of 256 KiB. -/
def rxFile (s : State) (n i : Nat) (bs : List Byte) : State :=
  let s := rxDrain s n
  let c := bits (ureg s n (UPL_RULE_B + 8 * i)) 25 16
  let q := rxQueue n c
  let ws := rxPacket s n i bs
  let wait := fun (s : State) =>
    if 262144 < (s.upl n).rxBytes + bs.length then rxDrop s n
    else countWait (s.modUpl n fun x => { x with rxHeld := x.rxHeld ++ [(q, ws, bs.length)], rxBytes := x.rxBytes + bs.length }) q
  if (s.upl n).rxHeld.any fun h => decide (h.1 = q) then wait s
  else
    match hwTry s q ws with
    | (s, .ok) | (s, .refused) => s
    | (s, _) => wait s

/-- A frame whose check sequence fails had begun to be filed: the packet is rewound (R133). -/
def crcRewind (s : State) (n : Nat) (bs : List Byte) : State :=
  if frameFits s n bs && !(isOwnPort s n bs && !isPtp s n bs) then
    match ruleFor s n bs with
    | some i =>
      let q := rxQueue n (bits (ureg s n (UPL_RULE_B + 8 * i)) 25 16)
      if hwRoom s q (rxPacket s n i bs).length = .ok then
        ((s.bump .qeng 0 QENG_CNT_CRC_REWIND).bump .qeng 0 QENG_CNT_REWIND).bankAdd (bankChan (chanOf q)) 4 1
      else s
    | none => s
  else s

/-- UPLINK_FRAME_RX. What the PTP client, the federation and the management engine do with their frames are commands of
their own. -/
def uplFrame (s : State) (n : Nat) (f : EthFrame) : State :=
  if uplUp s n = false then s
  else
    let bs := f.bytes
    let s := uplBank (s.bump .upl n UPL_CNT_RX_FRAMES) n 0
    let y := fifoPour s (seamUpl n) .rx f.behind
    let s := y.1
    if f.fcs ≠ crc32 bs ∨ y.2 = true then rxDrop (crcRewind s n bs) n
    else if frameFits s n bs = false then
      rxDrop (if ethType bs = 0x8808 then s.bump .upl n UPL_CNT_MAC_CTRL else s) n
    else if isOwnPort s n bs && !isPtp s n bs then s
    else
      match ruleFor s n bs with
      | some i => rxFile s n i bs
      | none => if isPtp s n bs then s else rxDrop s n

/-! Taking packets from queues (R544, R551) -/

/-- Words of a packet are popped up to one that is poisoned, which ends it: the rest is discarded (R138). -/
def takeWords (q : Nat) : State → (at_ : Nat) → List QWord → State × Bool
  | s, _, [] => (s, true)
  | s, a, w :: ws =>
    let x := popWord s q w 0 a
    match x.2 with
    | .item _ => takeWords q x.1 (a + 1) ws
    | .poisoned _ _ => (addDrops x.1 q ws.length, false)

/-- The oldest packet of a queue, popped by hardware: none where the queue gives an item that is no packet, which a queue that is
unavailable or refuses counts (R111, R135), or where a word of it is poisoned: what the consumer does with the words before that
one is not stated, and it makes no use of them (DESIGN CHOICE, log entry 145). -/
def hwTake (s : State) (q : Nat) : State × Option (List Dword) :=
  if qAvail s q = false then (s.bump .qeng 0 QENG_CNT_ABSENT, none)
  else if (s.chan (chanOf q)).paused then (s, none)
  else
    let s := readDesc s q
    if qShut s q then (s.bump .qeng 0 QENG_CNT_REFUSED, none)
    else
      match (s.queue q).pkts with
      | [] => (s, none)
      | p :: ps =>
        let a := (s.queue q).base
        let x := takeWords q (dropHead s q p ps) a p
        (noteStarved (freeBlocks x.1 q), if x.2 then some (p.map QWord.read) else none)

/-! Federation (R549 to R553) -/

def State.peer (s : State) (n p : Nat) : Peer := tget {} (s.upl n).peers p
def State.setPeer (s : State) (n p : Nat) (x : Peer) : State := s.modUpl n fun u => { u with peers := tset {} u.peers p x }

/-- A peer table is taken from its BLOB; the records of R550 and R552 stay. -/
def loadPeers (s : State) (n : Nat) (data : List Byte) : State :=
  (List.range 16).foldl (fun s p =>
    let e := Config.peerEntry data p
    s.setPeer n p
      { s.peer n p with
        valid := e.1, addr := e.2.1, mac := e.2.2.1, port := e.2.2.2.1, serial := e.2.2.2.2.1, peer := e.2.2.2.2.2.1,
        collector := e.2.2.2.2.2.2.1, key := e.2.2.2.2.2.2.2 }) s

/-- The table of a panel that carries none is empty. -/
def clearPeers (s : State) (n : Nat) : State :=
  (List.range 16).foldl (fun s p =>
    let x := s.peer n p
    s.setPeer n p { seen := x.seen, sentSeq := x.sentSeq }) s

/-- A hand-off frame without TAG (R550). -/
def handoffHead (kind hop index : Nat) (serial : Dword) (seq : Word) (epoch : BitVec 16) (time : Nat) (ws : List Dword) : List Byte :=
  [b8 0x43, b8 0x58, b8 0x48, b8 0x46, b8 1, b8 kind, b8 hop, b8 index] ++ leBytes 8 serial.toNat ++ leBytes 4 seq.toNat ++
    leBytes 2 epoch.toNat ++ leBytes 2 ws.length ++ leBytes 6 time ++ leBytes 2 0 ++ ws.flatMap fun w => leBytes 8 w.toNat

/-- An entry of the hand-off log, without waiting (R553). -/
def handoffLog (s : State) (n : Nat) (sent : Bool) (outcome : Nat) (bs : List Byte) : State :=
  let q := (if sent then 0xD8600 else 0xD8604) + n
  match hwTry s q (mkHeader 0x17 4 outcome (400 + n) 0 :: packWords (slice bs 0 32)) with
  | (s, .ok) => s
  | (s, _) => s.bump .upl n UPL_CNT_LOG_LOST

/-- The track words of output k: at most WORDS, from one packet of its queue (R551). -/
def trackWords (s : State) (n k : Nat) : State × List Dword :=
  let w := ureg s n (UPL_HO_Q + 4 * k)
  match hwTake s (bits w 19 0) with
  | (s, some p) =>
    if p.length - 1 ≤ bits w 25 20 then (s, p.drop 1) else (s.bump .upl n UPL_CNT_EXP_DISCARD, [])
  | (s, none) => (s, [])

/-- HANDOFF_OUT. -/
def handoffOut (s : State) (n k : Nat) : State :=
  let t := tiHandoff n k
  if tiDue s t then
    let w := ureg s n (UPL_HO_OUT + 4 * k)
    let to_ := s.peer n (bits w 3 0)
    if bit w 11 = false ∨ to_.valid = false ∨ to_.peer = false then tiEnd s t
    else
      let hop := (s.ti t).lastHop
      let x := if bit w 10 then trackWords s n k else (s, [])
      let s := x.1
      let p := bits w 3 0
      let seq := (s.peer n p).sentSeq + 1
      let s := s.setPeer n p { s.peer n p with sentSeq := seq }
      let head := handoffHead (bits w 10 10) hop (bits w 9 4) Config.serial seq s.fedEpoch s.t48 x.2
      let frame := head ++ Config.hmac (s.peer n p).key head
      let s := tiEnd s t
      if uplUp s n then
        handoffLog (uplBank ((uplSent s n frame).bump .upl n UPL_CNT_HO_SENT) n 2) n true 0 frame
      else handoffLog s n true 5 frame
  else s

/-- A drop: its counter and its log outcome. -/
def handoffDrop (s : State) (n off outcome : Nat) (bs : List Byte) : State := handoffLog (s.bump .upl n off) n false outcome bs

/-- Layout of a received hand-off. -/
def handoffForm (bs : List Byte) : Bool :=
  decide (bs.take 5 = [b8 0x43, b8 0x58, b8 0x48, b8 0x46, b8 1] ∧ leAt bs 5 1 ≤ 1 ∧ leAt bs 22 2 ≤ 32 ∧
    bs.length = 48 + 8 * leAt bs 22 2)

/-- The peer entry a hand-off comes from. -/
def handoffPeer (s : State) (n : Nat) (f : Datagram) : Option Nat :=
  let bs := f.payload
  (List.range 16).find? fun p =>
    let x := s.peer n p
    x.valid && x.peer && decide (x.addr = f.srcAddr ∧ x.port = f.srcPort ∧ x.serial.toNat = leAt bs 8 8) &&
      decide (Config.hmac x.key (bs.take (bs.length - 16)) = bs.drop (bs.length - 16))

/-- A packet of track words; the spec gives its TYPE, FLAGS and AUX no value (log entry 33). -/
def trackPacket (s : State) (n : Nat) (ws : List Dword) : State × List Dword :=
  let v := s.drawn.toNat
  (s.draw, mkHeader (v % 256) ws.length (v / 256 % 256) (400 + n) (v / 65536) :: ws)

/-- A hand-off that passed every check (R552, R226). -/
def handoffTake (s : State) (n p : Nat) (bs : List Byte) : State :=
  let idx := leAt bs 7 1 % 64
  let w := ureg s n (UPL_HO_IN + 4 * idx)
  let x := s.peer n p
  let seq := leAt bs 16 4
  let gap := match x.seen with
    | some (e, q) => if e.toNat = leAt bs 20 2 then (seq + 2 ^ 32 - q.toNat) % 2 ^ 32 - 1 else 0
    | none => 0
  let s := s.setPeer n p { x with seen := some (BitVec.ofNat 16 (leAt bs 20 2), w32 seq) }
  let s := (s.bumpBy .upl n UPL_CNT_HO_GAP gap).bump .upl n UPL_CNT_HO_RECEIVED
  let s := uplBank s n 3
  let s := if leAt bs 5 1 = 1 then
      let (s, pk) := trackPacket s n (packWords (slice bs 32 (8 * leAt bs 22 2)))
      match hwTry s (bits w 19 0) pk with
      | (s, .ok) => s
      | (s, _) => s.bump .upl n UPL_CNT_HO_UNFILED
    else s
  let hop := leAt bs 6 1 % 8 + 1
  let s := s.fire [(prodUpl n idx, hop)]
  handoffLog s n false (if hopLimit s < hop then 1 else 0) bs

/-- HANDOFF_RX. With FED_PORT 0 no frame goes to the federation engine (R541). -/
def handoffRx (s : State) (n : Nat) (f : Datagram) : State :=
  let bs := f.payload
  if uplUp s n = false ∨ s.fld .upl n UPL_PORTS 15 0 = 0 ∨ handoffForm bs = false then s
  else
    match handoffPeer s n f with
    | none => handoffDrop s n UPL_CNT_HO_AUTH 4 bs
    | some p =>
      let e := leAt bs 20 2
      let q := leAt bs 16 4
      let drop := match (s.peer n p).seen with
        | none => none
        | some (e0, q0) =>
          let de := (BitVec.ofNat 16 e - e0).toNat
          let dq := (w32 q - q0).toNat
          if de = 0 then (if 1 ≤ dq ∧ dq < 2 ^ 31 then none else some (UPL_CNT_HO_DUP, 2))
          else if de < 32768 then none
          else some (UPL_CNT_HO_STALE, 3)
      match drop with
      | some (off, o) => handoffDrop s n off o bs
      | none =>
        let w := ureg s n (UPL_HO_IN + 4 * (leAt bs 7 1 % 64))
        if leAt bs 7 1 < 64 ∧ bit w 20 = true ∧ (bit w 25 = true ∨ bits w 24 21 = p) then handoffTake s n p bs
        else handoffDrop s n UPL_CNT_HO_AUTH 4 bs

/-! Export (R544) -/

/-- One WRAP datagram: words [176 f, …) of a packet. -/
def wrapDatagram (q : Nat) (seq : Word) (count f : Nat) (ws : List Dword) : List Byte :=
  let part := (ws.drop (176 * f)).take 176
  [b8 0x43, b8 0x58, b8 0x45, b8 0x58, b8 1, b8 (f + 16 * (count - 1))] ++ leBytes 2 part.length ++
    leBytes 8 Config.serial.toNat ++ leBytes 4 q ++ leBytes 4 seq.toNat ++ part.flatMap fun w => leBytes 8 w.toNat

/-- The first PTP byte of a frame that carries a PTP event message. -/
def ptpEvent (s : State) (n : Nat) (bs : List Byte) : Option Nat :=
  match ptpAt s n bs with
  | some a => if leAt bs a 1 % 16 < 4 then some a else none
  | none => none

/-- Bytes of a frame replaced from an offset. -/
def patch (bs : List Byte) (off : Nat) (new : List Byte) : List Byte := bs.take off ++ new ++ bs.drop (off + new.length)

/-- Big-endian bytes of a number. -/
def beBytes (n v : Nat) : List Byte := (leBytes n v).reverse

/-- One's-complement sum of 16-bit words. -/
def sum16 (bs : List Byte) : Nat :=
  let t := ((List.range ((bs.length + 1) / 2)).map fun k => be16 bs (2 * k)).sum
  let t := t % 65536 + t / 65536
  t % 65536 + t / 65536

/-- A UDP datagram over IPv6 with its checksum made right. -/
def udpFix (bs : List Byte) : List Byte :=
  if ethType bs = 0x86DD then
    let b := ethBody bs
    let z := patch bs (b + 46) [0, 0]
    let udp := z.drop (b + 40)
    let c := 65535 - sum16 (slice z (b + 8) 32 ++ beBytes 4 udp.length ++ [0, 0, 0, b8 17] ++ udp)
    patch z (b + 46) (beBytes 2 (if c = 0 then 65535 else c))
  else bs

/-- A one-step event message takes the time it leaves: originTimestamp, or a free correctionField where originTimestamp is
already set by another clock (R544, log entry 34). -/
def ptpStamp (s : State) (bs : List Byte) (a : Nat) : State × List Byte :=
  if leAt bs (a + 34) 10 = 0 then
    (s, udpFix (patch bs (a + 34) (beBytes 6 s.townSec ++ beBytes 4 (s.townNs % 1000000000))))
  else (s.draw, udpFix (patch bs (a + 8) (beBytes 8 s.drawn.toNat)))

/-- A packet leaves as a RAW frame. -/
def sendRaw (s : State) (n : Nat) (ws : List Dword) : State :=
  if bits (ws.getD 0 0) 7 0 ≠ 0x16 then s.bump .upl n UPL_CNT_EXP_DISCARD
  else
    let bs := ((ws.drop 3).flatMap fun w => leBytes 8 w.toNat).take (bits (ws.getD 2 0) 15 0)
    match ptpEvent s n bs with
    | none => uplSent s n bs
    | some a =>
      if (leAt bs (a + 6) 1 / 2) % 2 = 1 then
        let s := s.setReg .upl n UPL_TXTS_NS (w32 (s.townNs % 1000000000))
        let s := s.setReg .upl n UPL_TXTS_SEC (w32 s.townSec)
        (uplSent s n bs).fire1 (prodUpl n 65)
      else
        let (s, bs) := ptpStamp s bs a
        uplSent s n bs

/-- A packet leaves in WRAP datagrams. -/
def sendWrap (s : State) (n j q : Nat) (ws : List Dword) : State :=
  let seq := tget 0 (s.upl n).expSeq j
  let count := max 1 ((ws.length + 175) / 176)
  let s := s.modUpl n fun x => { x with expSeq := tset 0 x.expSeq j (seq + 1) }
  foldTo count (fun s f => uplSent s n (wrapDatagram q seq count f ws)) s

/-- EXPORT_SEND: one packet of source j, its queues taken in rotation. A WRAP source sends only to a VALID peer entry that is
a COLLECTOR, "Export destination" (R563; DEDUCED, log entry 34). -/
def exportSend (s : State) (n j : Nat) : State :=
  let a := ureg s n (UPL_EXP_A + 8 * j)
  let b := ureg s n (UPL_EXP_B + 8 * j)
  let dest := s.peer n (bits a 25 22)
  if uplUp s n = false ∨ bit a 20 = false ∨ (bit a 21 = false ∧ (dest.valid = false ∨ dest.collector = false)) then s
  else
    let count := bits b 12 0
    let from_ := tget 0 (s.upl n).expNext j
    let order := (List.range count).map fun i => (from_ + i) % count
    let qOf := fun i => bits a 19 0 + i * bits b 31 16
    match order.find? fun i => qAvail s (qOf i) && !qShut s (qOf i) && decide ((s.queue (qOf i)).pkts ≠ []) with
    | none => s
    | some i =>
      match hwTake s (qOf i) with
      | (s, some ws) =>
        let s := s.modUpl n fun x => { x with expNext := tset 0 x.expNext j ((i + 1) % count) }
        if bit a 21 then sendRaw s n ws else sendWrap s n j (qOf i) ws
      | (s, none) => s

/-! The management engine's answers (R554) -/

/-- The management engine gets datagrams of an uplink: its link is up and MGMT_PORT is not 0 (R541 step 4). -/
def mgmtHears (s : State) (n : Nat) : Bool := uplUp s n && decide (s.fld .upl n UPL_PORTS 31 16 ≠ 0)

/-- A RESPONSE leaves; its data is what the model keeps. -/
def respond (s : State) (n : Nat) (data : List Byte) : State := uplSent s n data

/-- A request that the engine's rules refuse. -/
def mgmtDenied (s : State) (n : Nat) : State := respond (s.bump .upl n UPL_CNT_MGMT_DENIED) n [b8 cDenied]

/-- WRITE_STAGING on an uplink. -/
def mgmtStage (s : State) (n off : Nat) (bs : List Byte) : State :=
  if mgmtHears s n = false then s
  else
    let s := s.bump .upl n UPL_CNT_MGMT_REQ
    if s.rbit .upl n UPL_MGMT 0 = false ∨ off % 8 ≠ 0 ∨ bs.length % 8 ≠ 0 ∨ 1400 < bs.length ∨ 0x400000 < off + bs.length then
      mgmtDenied s n
    else if mantleRuns s = false then respond s n [b8 cAbsent]
    else respond (s.modMantle fun m => { m with staging := memWrite m.staging off bs }) n [b8 cDone]

def uplCounters : List Nat := offsFrom 0x200 4 15

def orderUplClear (s : State) (n : Nat) : OrderRes := fin (s.clearRegs .upl n uplCounters) cDone

end Sys2Proof.Machine
end

