-- ==== Sys2Proof/Machine/Store.lean ====
section
/-! DEFINITION. What a register write that is allowed stores, and what follows from it in the block that owns the register. -/

namespace Sys2Proof.Machine

/-- Selectors, channel registers and delays, which no write changes while a map is applied (R236). -/
abbrev hedgeMapped (off : Nat) : Bool := decide (HEDGE_DELAY ≤ off ∧ off < HEDGE_DELAY + 0x40 ∨ HEDGE_CHAN ≤ off)

/-- What follows in the owning block once a register holds its new value. -/
def afterWrite (s : State) (b : Blk) (i : Nat) (d : RegDesc) (k : Nat) (old new : Word) : State :=
  match d.hook with
  | .gov => govWritten s i old new
  | .makerMeadow => if d.off = MEADOW_MODE then sleepJudge s i else s
  | .devMode => sequencer s
  | .smpCfg => smpCfgWritten s old new
  | .swLimit => limitWritten s i
  | .ovr =>
    if d.off = LANE_OVR then ovrWritten s i 0 old new
    else if d.off = LANE_SW_NODE_OVR then ovrWritten s i (k + 1) old new
    else s
  | .lifeCfg => if bit old 10 ≠ bit new 10 then derateAll s else s
  | .uplCfg => uplWritten s i new
  | .tbDisc => discWritten s old new
  | .tbRate => if tbMode s = 2 then rateWritten s new else s
  | .tbUtc => utcWritten s old
  | .plain =>
    if b = .heath ∧ (d.off = HEATH_TB_ALARM_A ∨ d.off = HEATH_TB_ALARM_B) then alarmArm s k else s
  | _ => s

/-- CLAMP_LOG.CLEAR (R13). -/
def clampClear (s : State) (b : Blk) (i : Nat) : State :=
  (s.setReg b i BLOCK_CLAMP_LOG 0).setReg b i BLOCK_CLAMP_LOG_OFFSET 0

/-- A write of `v` by a role that may write the register: the state after it, and the highest reason among its corrections,
0 for none (R6 to R11). -/
def storeReg (s : State) (b : Blk) (i : Nat) (d : RegDesc) (k role : Nat) (v : Word) : State × Nat :=
  let off := d.off + d.stride * k
  if s.happlying && decide (b = .hedge) && hedgeMapped off then (s, 2) else
  match d.hook with
  | .psel => pselSet s k v role
  | .tsel => tselSet s k v role
  | .hchan => chanSet s k v role
  | .domOn => domOnWrite s (decide (d.off = HEATH_DOM_ON_HI)) v role
  | .padGrp =>
    let x := judge d.flds (s.reg b i off) v
    padWrite s k v x.1
  | .paceMin => (if bit v 31 then paceClear s i else s, 0)
  | .swFire => (swFire s v, 0)
  | .clampLog => (if bit v 31 then clampClear s b i else s, 0)
  | .order => (s, 0)
  | .coreClear => (s, 0)
  | _ =>
    let old := s.reg b i off
    let x := fixWrite s i d k role old v
    (afterWrite (s.setReg b i off x.1) b i d k old x.1, x.2)

end Sys2Proof.Machine
end

