-- ==== Sys2Proof/Machine/Commit.lean ====
section
/-! DEFINITION. What the commit of a panel does, type by type, the kept copies of the flash, and the pattern loader's
orders. -/

namespace Sys2Proof.Machine

/-! Panels in force -/

/-- A panel becomes the one in force for its indices (R501). -/
def setInForce (s : State) (source : Nat) (pending : Bool) (p : Panel) : State :=
  (ifIndices p.type p.region p.mask).foldl (fun s i =>
    s.modMantle fun m => { m with inForce := tset none m.inForce i (some { panel := p, source := source, pending := pending }) }) s

/-- A counted clamp of a load. -/
def countClamp (s : State) (b : Blk) (i reason off role : Nat) (clamped : Bool) : State × Bool :=
  if reason = 0 then (s, clamped) else (s.logClamp b i reason off role, true)

/-! Tables of Mantle (R514, R515, R517) -/

/-- The words of a BLOB. -/
def blobWords (data : List Byte) : List Dword := (List.range (data.length / 8)).map fun k => d64 (leAt data (8 * k) 8)

/-- An entry with a reserved KIND or a reserved bit is ignored. -/
def entryBad (e : Dword) : Bool := decide (2 < bits e 7 0 ∨ bits e 15 8 ≠ 0 ∨ bits e 63 43 ≠ 0)

/-- The bits a rights table may not clear. -/
def entryKept (e : Dword) : Dword :=
  let e := setBits e 42 42 1
  if bits e 7 0 = 0 ∧ (bits e 31 16 = 7 ∨ bits e 31 16 = 8) then setBits e 41 41 1 else e

/-- A rights or ceiling table is taken: the entries in force, and the clamps counted. -/
def takeEntries (s : State) (role : Nat) (isRights : Bool) (es : List Dword) : State × List Dword × Bool :=
  es.foldl (fun x e =>
    let f := if isRights then entryKept e else e
    if entryBad e then (x.1.logClamp .mantle 0 1 MANTLE_RIGHTS role, x.2.1, true)
    else if f ≠ e then (x.1.logClamp .mantle 0 1 MANTLE_RIGHTS role, x.2.1 ++ [f], true)
    else (x.1, x.2.1 ++ [f], x.2.2)) (s, [], false)

def commitRights (s : State) (p : Panel) : State × Bool :=
  let x := takeEntries s p.role true (blobWords ((panelBlob p 1).getD []))
  (x.1.modMantle fun m => { m with rights := some x.2.1 }, x.2.2)

/-- Mantle firmware is written to MRAM and runs from D49's next start (R503). -/
def commitFirmware (s : State) (p : Panel) : State × Bool :=
  match panelBlob p 0x10 with
  | some data =>
    let x := takeEntries s p.role false (blobWords data)
    (x.1.modMantle fun m => { m with fwCeiling := some x.2.1 }, x.2.2)
  | none => (s.modMantle fun m => { m with fwCeiling := none }, false)

/-- Bytes 0 to 7 of a slot's fingerprint, 0 of an empty one. -/
def fprWord (k : KeySlot) : Dword := if k = {} then 0 else d64 (leAt (fingerprint k) 0 8)

/-- A slot takes a key: the change is journaled, as an enrolment or as a revocation (R528, R530). -/
def enrol (s : State) (req i : Nat) (k : KeySlot) : State :=
  let old := keySlot s i
  if k = old then s
  else
    let action := if k.st = 1 then 0x6002 else 0x6003
    setKey (journalOrLose s (mkAct s req action (w32 i) (fprWord old) (fprWord k) 0 7)) i k

/-- The slots `base` on take a key table; a slot it does not list becomes empty. -/
def takeTable (s : State) (req base n : Nat) (data : List Byte) : State :=
  foldTo n (fun s k =>
    enrol s req (base + k)
      (match (keyEntries data).find? fun e => decide (leAt e 0 1 = k) with
        | some e => if leAt e 1 1 = 0 then {} else keyOfEntry e
        | none => {})) s

/-- Role keys: the installer's table changes only under the maker's signature (R517). -/
def commitKeys (s : State) (req : Nat) (p : Panel) : State × Bool :=
  let s := if p.role = 3 then takeTable s req 4 4 ((panelBlob p 2).getD []) else s
  (takeTable s req 8 8 ((panelBlob p 3).getD []), false)

/-! Power policy (R422, R439, R442, R493) -/

/-- HEATH_DOM_ON is loaded: at boot the bits are only stored; an apply holds its target domains on (R422, R504, R578). -/
def loadDomOn (boot : Bool) (held : List Nat) (s : State) (hiHalf : Bool) (v : Word) (role : Nat) : State × Nat :=
  let ds := if hiHalf then (List.range 18).map fun k => 32 + k else List.range 32
  let must := ds.filter fun d => if boot then decide (d = 49) else decide (d ∈ held)
  let w := must.foldl (fun w d => setBits w (d % 32) (d % 32) 1) v
  let w := if hiHalf then setBits w 31 18 0 else w
  let fixed := bnat (decide (w ≠ (if hiHalf then setBits v 31 18 0 else v))) * 2
  if boot then (s.setReg .heath 0 (if hiHalf then HEATH_DOM_ON_HI else HEATH_DOM_ON_LO) w, fixed)
  else
    let x := domOnWrite s hiHalf w role
    (x.1, max fixed (if x.2 = 0 then 0 else 2))

/-- One register of the power policy is loaded, with what a write of it does. -/
def loadPolicyReg (boot : Bool) (held : List Nat) (role : Nat) (x : State × Bool) (b : Blk) (i : Nat) (d : RegDesc) (k : Nat)
    (v : Word) : State × Bool :=
  let s := x.1
  let off := d.off + d.stride * k
  match d.hook with
  | .domOn =>
    let y := loadDomOn boot held s (decide (d.off = HEATH_DOM_ON_HI)) v role
    countClamp y.1 b i y.2 off role x.2
  | .padGrp =>
    let w := judge d.flds (s.reg b i off) v
    let y := padWrite s k v w.1
    countClamp y.1 b i (max (bnat w.2) y.2) off role x.2
  | _ =>
    let old := s.reg b i off
    let y := loadReg true role x b i d k v
    (afterWrite y.1 b i d k old (y.1.reg b i off), y.2)

/-- The blocks a power policy loads, with their instances. -/
def policyPlaces : List (Blk × Nat) :=
  (Blk.heath, 0) :: (Blk.stat, 0) :: (Blk.pad, 0) :: (Blk.seam, 0) :: (List.range 32).map fun m => (Blk.meadow, m)

def commitPolicy (boot : Bool) (held : List Nat) (s : State) (p : Panel) : State × Bool :=
  policyPlaces.foldl (fun x bi =>
    ((blkRegs bi.1).filter fun d => powerOff bi.1 d.off).foldl (fun x d =>
      (List.range d.count).foldl (fun x k =>
        let off := d.off + d.stride * k
        loadPolicyReg boot held p.role x bi.1 bi.2 d k
          ((panelReg p (relOf bi.1 bi.2 off)).getD (resetWord (regAddr bi.1 bi.2 off)))) x) x) (s, false)

/-! Queue map (R134, R162) -/

/-- The filing sources a slot of a lane group takes. -/
def slotSources (s : State) (g slot : Nat) : List Nat := (List.range 10).filter fun src => decide (slotFor s g src = some slot)

/-- A queue meets a changed class or enable, or a changed slot assignment (R134). A queue whose channel has no retained contents
is initialised at its next start (R136). -/
def queueChanged (old : State) (s : State) (q : Nat) : State :=
  let was := (qcfgOf old q).en
  let is := (qcfgOf s q).en
  let s := if (s.chan (chanOf q)).qpwr then
      let s := bumpEpoch s q
      if was ∧ is = false then (flushStored s q).1 else s
    else s
  if was = false ∧ is = true then offerAgain s q else s

def commitQueueMap (s : State) (p : Panel) : State × Bool :=
  let old := s
  let x := loadQueueMap true p s
  let s := { x.1 with qmapped := true, qapplying := false }
  let slots := (List.range 12).flatMap fun g => ((List.range 48).map fun t => (g, t)).filter fun y =>
    decide (qcfgOf old (lanternQ (12 * y.1) 1 y.2) ≠ qcfgOf s (lanternQ (12 * y.1) 1 y.2)) ||
      decide (slotSources old y.1 y.2 ≠ slotSources s y.1 y.2)
  let lantern := slots.flatMap fun y => (List.range 1536).map fun k => lanternQ (12 * y.1 + k / 128) (k % 128 + 1) y.2
  let device := ((List.range 0x28000).map fun k => 0xD8000 + k).filter fun q => decide (qcfgOf old q ≠ qcfgOf s q)
  let here := (lantern ++ device).filter fun q => (s.chan (chanOf q)).qpwr || decide (0xD8000 ≤ q ∧ q < 0xD9000)
  (noteStarved (here.foldl (queueChanged old) s), x.2)

/-! Hedgerow map (R224) -/

/-- Selectors and channels an installer-signed map leaves in place. -/
def makerSel (role : Nat) (w : Word) : Bool := decide (role = 2 ∧ bits w 18 17 = 3)
def makerChan (role : Nat) (w : Word) : Bool := decide (role = 2) && bit w 1

/-- Every selector becomes none, ROLE 0, and gives up its claim, but for the maker's. -/
def clearSelectors (role : Nat) (s : State) : State :=
  let s := foldTo 2880 (fun s t =>
    if makerSel role (tsel s t) then s else (unclaim s t).setReg .hedge 0 (HEDGE_TSEL + 4 * t) 0) s
  foldTo 2352 (fun s p =>
    if p < 8 ∨ makerSel role (psel s p) = true then s else s.setReg .hedge 0 (HEDGE_PSEL + 4 * p) 0) s

/-- Channel registers HC8 to HC2047. -/
def loadHedgeChans (p : Panel) (x : State × Bool) : State × Bool :=
  (List.range 2040).foldl (fun x j =>
    let c := 8 + j
    let off := HEDGE_CHAN + 4 * c
    let v := panelReg p (relOf .hedge 0 off)
    if makerChan p.role (hchan x.1 c) then
      if v.isSome then countClamp x.1 .hedge 0 2 off p.role x.2 else x
    else
      let w := v.getD 0
      let raise := bit w 1 && decide (p.role < 3)
      let s := x.1.setReg .hedge 0 off (setBits (hchan x.1 c) 1 0 (bnat (bit w 0) + 2 * bnat (bit w 1 && !raise)))
      countClamp s .hedge 0 (bnat raise) off p.role x.2) x

/-- The selectors a map names, in rising number. -/
def loadSelectors (p : Panel) (base n : Nat) (kept : State → Nat → Bool)
    (set : State → Nat → Word → Nat → State × Nat) (x : State × Bool) : State × Bool :=
  (List.range n).foldl (fun x j =>
    let off := base + 4 * j
    match panelReg p (relOf .hedge 0 off) with
    | none => x
    | some v =>
      if kept x.1 j then countClamp x.1 .hedge 0 2 off p.role x.2
      else
        let y := set x.1 j v p.role
        countClamp y.1 .hedge 0 y.2 off p.role x.2) x

def commitHedge (s : State) (p : Panel) : State × Bool :=
  let keepP := (List.range 2352).filter fun j => decide (8 ≤ j) && makerSel p.role (psel s j)
  let keepT := (List.range 2880).filter fun j => makerSel p.role (tsel s j)
  let x := loadBlock true p (relOf .hedge 0) .hedge 0 [HEDGE_CFG, HEDGE_DELAY] (clearSelectors p.role s, false)
  let x := loadHedgeChans p x
  let x := loadSelectors p HEDGE_PSEL 2352 (fun _ j => decide (j ∈ keepP)) pselSet x
  let x := loadSelectors p HEDGE_TSEL 2880 (fun _ j => decide (j ∈ keepT)) tselSet x
  ({ x.1 with hmapped := true, happlying := false }, x.2)

/-! Life models, sampler program, uplink set -/

/-- Models and types are swapped at one instant, and the recomputation follows (R266). -/
def commitLife (s : State) (p : Panel) : State × Bool :=
  let x := loadLife true p (s, false)
  (capAll (x.1.modLife fun y =>
    { y with modelled := true, recomputeDue := true, st := if y.st = 3 ∨ y.st = 4 then 5 else y.st }), x.2)

/-- The program takes effect at the end of any pass in progress, with every RUN, FIRED and MATCH 0 (R457). -/
def commitSampler (s : State) (p : Panel) : State × Bool :=
  let s := smpFinish s
  let old := s.reg .heath 0 HEATH_SMP_CFG
  let x := loadBlock true p (relOf .heath 0) .heath 0 smpOffs (s, false)
  (smpCfgWritten (smpClearSteps x.1) old (x.1.reg .heath 0 HEATH_SMP_CFG), x.2)

/-- Registers are loaded, with what a write of each does. -/
def loadWithEffect (p : Panel) (b : Blk) (i : Nat) (offs : List Nat) (x : State × Bool) : State × Bool :=
  (descsAt b offs).foldl (fun x d =>
    (List.range d.count).foldl (fun x k =>
      let off := d.off + d.stride * k
      let old := x.1.reg b i off
      let y := loadReg true p.role x b i d k ((panelReg p (relOf b i off)).getD (resetWord (regAddr b i off)))
      (afterWrite y.1 b i d k old (y.1.reg b i off), y.2)) x) x

/-- The peer tables, and the timebase registers of `offs` (R549, R565). -/
def commitPeers (p : Panel) (offs : List Nat) (x : State × Bool) : State × Bool :=
  let x := loadWithEffect p .heath 0 offs x
  ((List.range 4).foldl (fun s n =>
    match panelBlob p (0x20 + n) with | some data => loadPeers s n data | none => clearPeers s n) x.1, x.2)

def commitUplinks (s : State) (p : Panel) : State × Bool :=
  if s.domOn 48 then
    let old := s
    let x := loadUplinks true p (s, false)
    let s := (List.range 4).foldl (fun s n => uplReloaded s n (ureg old n UPL_CFG)) x.1
    commitPeers p tbOffs (s, x.2)
  else commitPeers p tbOffs (s, false)

/-! Lane sets and calendars (R76, R189, R198) -/

/-- What follows for a lane whose listing was that of `old`: RELEASE for the addresses that change, which give up their grants only
where the panel removes them, and a sweep (R76, R90). -/
def laneSwap (old s : State) (l : Nat) : State :=
  let gone := (listing old l).filter fun e => decide (listedSerial s l e.1 ≠ some e.2)
  let s := gone.foldl (fun s e =>
    let s := if laneTx s l then enqueue s l (.release e.1) else s
    (makeAbsent s l e.1).modNode l e.1 fun x => { x with grant := if isListed s l e.1 then x.grant else none }) s
  let out := gone.map fun g => g.1
  let s := s.modLane l fun x =>
    { x with enum := x.enum.map fun e => { e with todo := e.todo.filter fun t => decide (t.1 ∉ out) },
             txq := x.txq.filter fun f => match f with | .assign n _ => decide (n ∉ out) | .delay n => decide (n ∉ out) | _ => true }
  let s := touchAll (limitWritten s l) l .other
  let s := enumPump s l
  let s := sweepStart s l none
  if txFree s l then startNext s l else s

/-- The set is in force from the swap on (log entry 49). -/
def commitLaneSet (s : State) (p : Panel) : State × Bool :=
  let old := s
  let s := setInForce s 3 false p
  if s.domOn (32 + p.region) then
    let x := loadLaneSet true false p p.region (s, false)
    ((laneGroup p.region).foldl (fun s l => (laneSwap old s l).modLane l fun x => { x with applyActive := false }) x.1, x.2)
  else (s, false)

/-- The parameters of the Heath-side fronts at a boot after a power-on reset (R198, R569). -/
def bootLaneParams (s : State) (p : Panel) : State × Bool :=
  (laneGroup p.region).foldl (fun x l => loadBlock true p (relOf .lane l) .lane l [LANE_SW_LIMIT, LANE_SW_PARAM, LANE_SW_PARAM2] x)
    (s, false)

def commitCalendar (s : State) (p : Panel) : State × Bool :=
  let x := loadCalendar true p p.region (s, false)
  ((laneGroup p.region).foldl setBases x.1, x.2)

/-! Meadow data and core images (R398, R503) -/

/-- SRAM and images are written, and the cores, which the apply has stopped, start. -/
def commitMeadow (s : State) (m : Nat) : State × Bool :=
  if (s.meadow m).st = .applying then
    let x := meadowCfg true s m
    (setMeadowSt (loadMeadow x.1 m) m .active, x.2)
  else (s, false)

abbrev coresOf (m mask : Nat) : List Nat := ((List.range 8).filter fun c => mask.testBit c).map fun c => 8 * m + c

/-- The cores of a mask stop for a reload; the meadow leaves Rest (R398, R403). -/
def stopCores (s : State) (m mask : Nat) : State := (coresOf m mask).foldl coreStop (leaveRest s m)

/-- The images of a mask's cores are written, and the cores start (R398). -/
def loadCores (s : State) (m mask : Nat) : State :=
  (coresOf m mask).foldl loadCore (s.setFld .meadow m MEADOW_CFG 3 2 (imageRole s m))

/-- The cores of a mask are reloaded (R398). -/
def reloadCores (s : State) (m mask : Nat) : State := loadCores (stopCores s m mask) m mask

/-! The commit of one panel (R503) -/

/-- The region of a panel is quiesced (R503): the queue engine, Hedgerow, the lanes or the meadow read APPLYING, and the cores of the
meadow stop. -/
def beginPanel (s : State) (p : Panel) : State :=
  match p.type with
  | 3 => { s with qapplying := true }
  | 5 => { s with happlying := true }
  | 4 => if s.domOn (32 + p.region) then (laneGroup p.region).foldl (fun s l => s.modLane l fun x => { x with applyActive := true }) s else s
  | 2 =>
    if s.domOn p.region then
      clearRsvs ((meadowCores p.region).foldl coreStop (setMeadowSt (accrue (leaveRest s p.region) p.region) p.region .applying)) p.region
    else s
  | _ => s

/-- In service. -/
def commitPanel (req : Nat) (held : List Nat) (s : State) (p : Panel) : State × Bool :=
  match p.type with
  | 0xC => commitFirmware s p
  | 8 => commitKeys s req p
  | 7 => commitRights s p
  | 6 => commitPolicy false held s p
  | 3 => commitQueueMap s p
  | 5 => commitHedge s p
  | 9 => commitLife s p
  | 0xA => commitSampler s p
  | 0xB => commitUplinks s p
  | 4 => commitLaneSet s p
  | 0xD => if s.domOn (32 + p.region) then commitCalendar s p else (s, false)
  | 2 => commitMeadow s p.region
  | 1 => (if s.domOn p.region then reloadCores s p.region p.mask else s, false)
  | _ => (s, false)

/-- The boot was begun by a power-on reset (R569). -/
abbrev coldBoot (s : State) : Bool := decide (s.boot.cause.toNat % 4 ≠ 0)

/-- At boot: what belongs to a domain is loaded at that domain's start, and what R569 keeps through a device reset stays. -/
def bootPanel (s : State) (p : Panel) : State :=
  match p.type with
  | 8 => (commitKeys s 405 p).1
  | 7 => (commitRights s p).1
  | 6 => (commitPolicy true [] s p).1
  | 3 => (commitQueueMap s p).1
  | 5 => (commitHedge s p).1
  | 9 => (commitLife s p).1
  | 0xA => (commitSampler s p).1
  | 0xB => (commitPeers p (if coldBoot s then tbOffs else [HEATH_TB_MASTER]) (s, false)).1
  | 4 => if coldBoot s then (bootLaneParams s p).1 else s
  | 2 => (meadowCfg true s p.region).1
  | 1 => s.setFld .meadow p.region MEADOW_CFG 3 2 (imageRole s p.region)
  | _ => s

/-- The order of types in a commit. -/
def commitOrder : List Nat := [0xC, 8, 7, 6, 3, 5, 9, 0xA, 0xB, 4, 0xD, 2, 1]

/-- Indexes of a bundle's panels in the order they are committed (R503). -/
def commitTurn (ps : List Panel) : List Nat :=
  commitOrder.flatMap fun t => (List.range 32).flatMap fun r =>
    (List.range ps.length).filter fun k => match ps[k]? with | some p => decide (p.type = t ∧ p.region = r) | none => false

/-- Panels of the given types, in that order and in rising region. -/
def inOrder (types : List Nat) (ps : List Panel) : List Panel :=
  types.flatMap fun t => (List.range 32).flatMap fun r => ps.filter fun p => decide (p.type = t ∧ p.region = r)

/-- Counters rise to the panels' ROLLBACK (R502). -/
def raiseCounters (s : State) (ps : List Panel) : State :=
  ps.foldl (fun s p => raiseRb s (rbIndex p.type p.region) p.rollback.toNat) s

/-! The kept area (R500, R577) -/

/-- Bytes of one half. -/
abbrev halfSize : Nat := 24 * 1048576

def keptBytes (ks : List Kept) : Nat := (ks.map fun k => k.bytes.length).sum

/-- A copy is live: based on the preferred slot, with a panel in force. -/
def keptLive (s : State) (k : Kept) : Bool :=
  decide (k.slot = (if s.mantle.preferB then 2 else 1)) &&
    ((sheets k.bytes).map Sheet.panel).any fun p =>
      (ifIndices p.type p.region p.mask).any fun i =>
        match tget none s.mantle.inForce i with
        | some f => decide (f.source = 3 ∧ f.panel = p)
        | none => false

/-- The flash is written and read back; it takes what it is given or fails (log entry 32). -/
def flashTry (s : State) : State × Bool := (s.draw, Config.flashOk s.free)

/-- A bundle is written to the kept area, whether it fits and is taken. -/
def keepCopy (s : State) (bs : List Byte) : State × Bool :=
  let copy : Kept := { slot := s.boot.slot, bytes := bs }
  let live := s.mantle.kept.filter (keptLive s)
  if keptBytes s.mantle.kept + bs.length ≤ halfSize then
    let x := flashTry s
    (if x.2 then x.1.modMantle fun m => { m with kept := m.kept ++ [copy] } else x.1, x.2)
  else if keptBytes live + bs.length ≤ halfSize then
    let x := flashTry s
    (if x.2 then x.1.modMantle fun m => { m with kept := live ++ [copy], keptHalf := !m.keptHalf } else x.1, x.2)
  else (s, false)

/-! Orders of the loader (R495, R498, R507) -/

abbrev stagingSize : Nat := 0x400000

/-- Result of an APPLY: failing panel, CHECK, panels committed. -/
abbrev applyResult (panel check n : Nat) : Nat := panel % 256 + 2 ^ 8 * (check % 16) + 2 ^ 12 * (n % 256)

abbrev applyLen (d : Desc) : Nat := d.bytes 11 8
abbrev applyDry (d : Desc) : Bool := bit d.arg 32

/-- Bytes of the bulk window (R160). -/
def windowSize (s : State) : Nat := ((List.range 4).map fun c => (s.reg .qdr c QDR_BULK_SIZE).toNat).sum

/-- Step 1 of R21: ranges lie inside staging, a meadow's SRAM or the bulk window (R507). -/
def loaderFormat (s : State) (op : Nat) (d : Desc) : Bool :=
  match op with
  | 1 =>
    let len := d.bytes 15 12
    let src := d.bytes 11 8
    decide (d.target.toNat < stagingSize ∧ d.target.toNat % 8 = 0 ∧ len % 8 = 0 ∧ 0 < len ∧ d.target.toNat + len ≤ stagingSize ∧
      (0x10000000 ≤ src ∧ src + len ≤ 0x12000000 ∨ 0x40000000 ≤ src ∧ src + len ≤ 0x40000000 + windowSize s))
  | 2 =>
    let off := bits d.target 29 0
    let size := if bits d.target 31 30 = 0 then stagingSize else windowSize s
    decide (bits d.target 31 30 < 2 ∧ off % 8 = 0 ∧ off + applyLen d ≤ size ∧ bits d.arg 63 33 = 0)
  | _ => decide (d.target = 0 ∧ d.arg = 0)

/-- What the loader has in hand lasts this long, far less than any bound of R498 and R505 (log entry 49), in nanoseconds. -/
abbrev jobStep : Nat := 1000

/-- STAGE_COPY begins. -/
def orderStageCopy (s : State) (d : Desc) : OrderRes :=
  { s := s.modMantle fun m => { m with job := some { d := d, phase := 1, ends := s.uptime + jobStep } }, code := none }

/-- STAGE_COPY: what was read before a word that could not be stays (R498). -/
def copyOver (s : State) (d : Desc) : State :=
  let x := srcRead s d.req (d.bytes 11 8) (d.bytes 15 12)
  let s := x.1.modMantle fun m => { m with staging := memWrite m.staging d.target.toNat (x.2.1.take (x.2.1.length / 8 * 8)), job := none }
  complete s .mantle 0 1 d x.2.2 (x.2.1.length / 8) []

/-- The file an APPLY names, as far as it could be read. -/
def applyRead (s : State) (d : Desc) : State × List Byte × Nat :=
  let off := bits d.target 29 0
  if bits d.target 31 30 = 0 then (s, memBytes s.mantle.staging off (applyLen d), cDone)
  else
    let x := srcRead s d.req (0x40000000 + off) ((applyLen d + 7) / 8 * 8)
    (x.1, x.2.1.take (applyLen d), x.2.2)

/-- Domains of a file's panels, in table order. -/
def applyDoms (s : State) (d : Desc) : List Nat :=
  let x := applyRead s d
  if x.2.2 = cDone ∧ layoutOk x.2.1 16 = true then (sheets x.2.1).flatMap fun h => panelDoms s h.type h.region else []

/-- Rows 2 to 4 of R495: the state after the reading, and the first check that fails. -/
def applyPre (s : State) (d : Desc) : State × List Byte × Option Failure :=
  let x := applyRead s d
  let bs := x.2.1
  if x.2.2 ≠ cDone then (x.1, bs, some { code := x.2.2, check := 1 })
  else if (layoutOk bs 16 && decide (patLen bs = applyLen d)) = false then (x.1, bs, some { code := cBadFormat, check := 2 })
  else
    (x.1, bs, failAt (firstBad (fun (h : Sheet) =>
      (panelDoms s h.type h.region).findSome? fun k =>
        if (s.dom k).st = .on then none
        else some (if (s.dom k).st = .faulted then cFaulted else cNotNow, 12)) 0 (sheets bs)))

/-- Entries an APPLY needs: one for each panel and one for the bundle. -/
def applyNeed (s : State) (d : Desc) : Nat := patCount (applyRead s d).2.1 + 1

/-- An APPLY begins: what fails at rows 2 to 4 ends it. Else its file is held for rows 6 to 14, a bulk source held still, and the domains
of its panels held on (R499, R504). -/
def orderApply (s : State) (d : Desc) : OrderRes :=
  let x := applyPre s d
  let s := if applyDry d then s else x.1
  match x.2.2 with
  | some f => fin s f.code (applyResult f.panel f.check 0)
  | none =>
    let bulk := decide (bits d.target 31 30 = 1)
    let j : Job := { d := d, phase := 2, bytes := x.2.1, ends := s.uptime + jobStep,
                     held := (sheets x.2.1).flatMap fun h => panelDoms s h.type h.region }
    { s := s.modMantle fun m => { m with job := some j, holdBase := if bulk then bits d.target 29 0 else 0,
                                         holdSize := if bulk then applyLen d else 0 }
      code := none }

/-- An APPLY that has been judged: MANTLE_PL_LAST and the loader's counters (R508, R510). -/
def noteApply (s : State) (d : Desc) (code result : Nat) : State :=
  let s := s.modMantle fun m =>
    { m with plLast := w32 (code % 256 + 2 ^ 8 * (result % 256) + 2 ^ 16 * (result / 2 ^ 8 % 16) + 2 ^ 20 * (result / 2 ^ 12 % 256)
        + 2 ^ 28 * bnat (applyDry d)) }
  if applyDry d then s.bump .mantle 0 MANTLE_PL_CNT_DRY_RUNS
  else
    let s := s.bump .mantle 0 MANTLE_PL_CNT_APPLIES
    if code = cDone ∨ code = cClamped then s.bump .mantle 0 MANTLE_PL_CNT_COMMITTED
    else if code = cBadSignature then s.bump .mantle 0 MANTLE_PL_CNT_BAD_SIGNATURE
    else if code = cRollback then s.bump .mantle 0 MANTLE_PL_CNT_ROLLBACK
    else if code = cMismatch then s.bump .mantle 0 MANTLE_PL_CNT_MISMATCH
    else if code = cBadFormat then s.bump .mantle 0 MANTLE_PL_CNT_BAD_FORMAT
    else if code = cDenied then s.bump .mantle 0 MANTLE_PL_CNT_DENIED
    else s

/-- WHO of an act that a key signed: its role and RSA slot (R529). -/
abbrev signerWho (b : List Byte) : Nat := blockRole b + 4 * (leAt b 5 1 % 16)

/-- The entry of a panel (R530); `before` gives the panel it replaces. -/
def panelAct (s : State) (req : Nat) (result : Nat) (h : Sheet) : JAct :=
  let p := h.panel
  let old := match (ifIndices p.type p.region p.mask).head? with
    | some i => ((s.inForce i).map fun x => x.version.toNat).getD 0
    | none => 0
  { mkAct s req (0x4000 + p.type) (w32 (p.region + 2 ^ 8 * p.mask)) (d64 old)
      (d64 (p.version.toNat + 2 ^ 32 * leAt p.header 16 4)) result 7 with who := signerWho h.sig }

/-- The entries of a bundle (R502, R530). -/
def bundleActs (s : State) (req result : Nat) (bs : List Byte) : List JAct :=
  (sheets bs).map (panelAct s req result) ++
    [{ mkAct s req 0x5001 (w32 (patCount bs)) (d64 (leAt (patId bs) 0 8)) (d64 (leAt (patId bs) 8 8)) result 7 with
        who := signerWho (patSig bs) }]

/-- Counters of Mantle (R510, R539). -/
def mantleCounters : List Nat :=
  offsFrom 0x1080 4 10 ++ offsFrom 0x3080 4 10

/-- COUNTERS_CLEAR of Mantle. -/
def orderMantleClear (s : State) : OrderRes :=
  fin ((s.clearRegs .mantle 0 mantleCounters).modMantle fun m => { m with lostNoted := 0 }) cDone

end Sys2Proof.Machine
end

