-- ==== Sys2Proof/Machine/Security.lean ====
section
/-! DEFINITION. First claim, attestation, debug tokens, fuses and the journal's orders. -/

namespace Sys2Proof.Machine

abbrev ascii4 (a b c d : Nat) : List Byte := [b8 a, b8 b, b8 c, b8 d]

/-- Bytes of Mantle's staging area. -/
abbrev staged (s : State) (off n : Nat) : List Byte := memBytes s.mantle.staging off n

/-! Debug (R523, R524) -/

/-- Debug access is open: by token, or while the device is unclaimed (R538). -/
def debugUnlocked (s : State) : Bool := !s.claimed || s.liveToken.isSome

/-- Debug locks (R524): the entry is written before the lock takes effect. -/
def debugExpiry (s : State) : State :=
  match s.mantle.token with
  | some t =>
    if t.until_ ≤ s.townSec then
      let scope := bnat t.cores + 2 * bnat t.mem + 4 * t.role
      let s := journalOrLose s (mkAct s 404 0x7003 (w32 scope) 0 (d64 t.until_) 0 7)
      s.modMantle fun m => { m with token := none }
    else s
  | none => s

/-! First claim (R519, R520) -/

abbrev claimSlots (s : State) (off : Nat) : Nat := leAt (staged s off 8) 6 1

/-- Length of the claim record at a staging offset. -/
def claimLen (s : State) (off : Nat) : Nat := 32 + 512 * (if claimSlots s off ≤ 4 then claimSlots s off else 0) + blockSize

def claimEntries (bs : List Byte) : List (List Byte) := (List.range (leAt bs 6 1)).map fun k => slice bs (32 + 512 * k) 512

/-- MAGIC, FORMAT and layout. -/
def claimForm (bs : List Byte) : Bool :=
  let n := leAt bs 6 1
  decide (bs.take 4 = ascii4 0x43 0x58 0x43 0x4C ∧ leAt bs 4 2 = 1 ∧ 1 ≤ n ∧ n ≤ 4 ∧ leAt bs 7 1 = 0 ∧ leAt bs 16 16 = 0) &&
    (claimEntries bs).all (fun e => keyEntryOk 4 e && decide (leAt e 1 1 = 1)) && rising ((claimEntries bs).map fun e => leAt e 0 1)

/-- The signature pair verifies under the keys of the first entry, whose slot the block names twice. -/
def claimSigned (bs : List Byte) : Bool :=
  let body := bs.take (32 + 512 * leAt bs 6 1)
  let b := slice bs (32 + 512 * leAt bs 6 1) blockSize
  let e := slice bs 32 512
  let k := keyOfEntry e
  blockForm b && decide (blockRole b = 2 ∧ leAt b 5 1 = leAt e 0 1 ∧ leAt b 7 1 = leAt e 0 1) && rsaOk k body b && slhOk k body b

/-- What CLAIM is judged to be. -/
def claimJudge (s : State) (bs : List Byte) : Nat :=
  if claimForm bs = false then cBadFormat
  else if leAt bs 8 8 ≠ Config.serial.toNat ∨ ((claimEntries bs).all fun e => keyTableFresh s 4 e) = false then cMismatch
  else if claimSigned bs = false then cBadSignature
  else cDone

/-- The act of a slot a claim writes; the installer's new key signs it. -/
def claimAct (s : State) (req : Nat) (bs e : List Byte) : JAct :=
  let i := 4 + leAt e 0 1
  { mkAct s req 0x6001 (w32 i) (fprWord (keySlot s i)) (fprWord (keyOfEntry e)) 0 7 with
      who := signerWho (slice bs (32 + 512 * leAt bs 6 1) blockSize) }

def orderClaim (s : State) (d : Desc) : OrderRes :=
  let bs := staged s d.target.toNat (claimLen s d.target.toNat)
  let code := claimJudge s bs
  if code = cDone then
    let s := (claimEntries bs).foldl (fun s e => setKey s (4 + leAt e 0 1) (keyOfEntry e)) s
    fin (s.modMantle fun m => { m with token := none }) cDone (claimEntries bs).length
  else fin (s.bump .mantle 0 MANTLE_SEC_CNT_CLAIM_FAIL) code

/-! Attestation and the certificate (R525 to R527) -/

/-- The device certificate, 512 bytes and a signature block. -/
def certBytes : List Byte :=
  let c := Config.deviceCert
  ascii4 0x43 0x58 0x44 0x43 ++ [1, 0, 0, 0] ++ leBytes 8 Config.serial.toNat ++ [b8 (bnat Config.xb), 0xB1] ++
    leBytes 6 c.1.toNat ++ leBytes 4 65537 ++ slice c.2.1 0 384 ++ slice c.2.2.1 0 48 ++ List.replicate 52 0 ++
    slice c.2.2.2 0 blockSize

/-- The fingerprint of the device's own keys (R538). -/
def deviceFpr : List Byte := Config.sha384 (slice certBytes 24 436)

/-- The measurement of a panel in force. -/
def measurement (s : State) (i : Nat) (f : InForce) : List Byte :=
  let p := f.panel
  leBytes 2 i ++ [b8 p.type, b8 p.region, b8 p.mask, b8 f.source, b8 p.role, 0] ++ leBytes 4 p.version.toNat ++
    leBytes 4 (rbOf s (rbIndex p.type p.region)).toNat ++ slice (Config.sha384 p.header) 0 48

/-- PATTERN_ID of the boot pattern (R509). -/
def bootId (s : State) : List Byte := (List.range 4).flatMap fun k => leBytes 4 (s.reg .mantle 0 (MANTLE_PL_BOOT_ID + 4 * k)).toNat

/-- The attestation report with its signature block. -/
def reportBytes (s : State) (nonce : Dword) : List Byte :=
  let ms := (List.range 321).filterMap fun i => (tget none s.mantle.inForce i).map fun f => (i, f)
  let len := 128 + 64 * ms.length + blockSize
  let head := ascii4 0x43 0x58 0x41 0x52 ++ leBytes 2 1 ++ leBytes 2 ms.length ++ leBytes 8 nonce.toNat ++
    leBytes 8 Config.serial.toNat ++ leBytes 6 s.t48 ++ [0, 0] ++ leBytes 8 s.mantle.seq ++ leBytes 16 (chainNow s).toNat ++
    leBytes 4 (periodNo s).toNat ++ bootId s ++
    [b8 s.mantle.rootSteps, s.mantle.fuses, b8 (bnat s.claimed + 2 * bnat (debugUnlocked s)), 0] ++ leBytes 4 len ++
    List.replicate 44 0
  let body := head ++ ms.flatMap fun x => measurement s x.1 x.2
  let b := ascii4 0x43 0x58 0x53 0x47 ++ List.replicate 12 0
  body ++ b ++ slice (Config.deviceSign (body ++ b)) 0 16608 ++ List.replicate 16 0

/-- Groups of at most 255 words. -/
def chunks : Nat → List Dword → List (List Dword)
  | 0, _ => []
  | n + 1, ws => if ws = [] then [] else ws.take 255 :: chunks n (ws.drop 255)

/-- The packets that carry a report or a certificate. -/
def fragmentsOf (kind : Nat) (bs : List Byte) : List (List Dword) :=
  let cs := chunks ((bs.length + 2039) / 2040) (packWords bs)
  cs.zipIdx.map fun c => mkHeader 0x18 c.1.length kind 404 (c.2 + 2 ^ 8 * cs.length) :: c.1

/-- Fragments are committed as 0xD_8501 takes them; a packet it refuses is discarded (log entry 9). After the last,
ATTEST_READY fires and the order completes. -/
def fragCommit : Nat → State → State
  | 0, s => s
  | n + 1, s =>
    match s.mantle.fragments with
    | [] => s
    | f :: fs =>
      match hwOffer s 1 0xD8501 f with
      | (s, .ok) => fragCommit n (s.modMantle fun m => { m with fragments := fs })
      | (s, .refused) => fragCommit n (s.modMantle fun m => { m with fragments := fs })
      | (s, _) => s

/-- The report or certificate in hand goes on. -/
def fragServe (s : State) : State :=
  match s.mantle.fragOrder with
  | none => s
  | some (o, n) =>
    let s := fragCommit s.mantle.fragments.length s
    if s.mantle.fragments = [] then
      let s := (s.modMantle fun m => { m with fragOrder := none }).fire1 (prodMantle 2)
      complete s .mantle 0 o.op o.d cDone n []
    else s

def sendFragments (s : State) (op kind : Nat) (d : Desc) (bs : List Byte) : OrderRes :=
  let fs := fragmentsOf kind bs
  later (fragServe (s.modMantle fun m => { m with fragments := fs, fragOrder := some (⟨.mantle, 0, op, d⟩, fs.length) }))

def orderAttest (s : State) (d : Desc) : OrderRes :=
  sendFragments (s.bump .mantle 0 MANTLE_SEC_CNT_ATTEST) 0x11 0 d (reportBytes s d.arg)

def orderDeviceCert (s : State) (d : Desc) : OrderRes := sendFragments s 0x12 1 d certBytes

/-! Debug tokens (R524) -/

def orderChallenge (s : State) : OrderRes :=
  let c := s.drawn
  fin (s.draw.modMantle fun m => { m with challenge := some c }) cDone 0 [d64 c.toNat, d64 (c.toNat / 2 ^ 64)]

abbrev tokenLen : Nat := 64 + 2 * blockSize

/-- A token's layout. -/
def tokenForm (t : List Byte) : Bool :=
  let nb := leAt t 32 6
  let na := leAt t 38 6
  let scope := leAt t 44 1
  decide (t.take 4 = ascii4 0x43 0x58 0x44 0x54 ∧ leAt t 4 2 = 1 ∧ leAt t 6 2 = 0 ∧ nb ≤ na ∧ na ≤ nb + 604800 ∧ scope < 16 ∧
    2 ≤ scope / 4 ∧ leAt t 45 19 = 0)

/-- Both signature pairs, with the counters of their verification. -/
def tokenSigned (s : State) (t : List Byte) : State × Bool :=
  let m := t.take 64
  let b := slice t 64 blockSize
  let c := slice t 16704 blockSize
  let x := verifyPair s m b
  let y := verifyPair x.1 m c
  (y.1, x.2 && y.2 && decide (blockRole b = 3 ∧ blockRole c = 2))

/-- What DEBUG_UNLOCK is judged to be, and the state after the verifications. -/
def tokenJudge (s : State) (t : List Byte) : State × Nat :=
  if tokenForm t = false then (s, cBadFormat)
  else
    let x := tokenSigned s t
    if x.2 = false then (x.1, cBadSignature)
    else if leAt t 8 8 = Config.serial.toNat ∧ s.mantle.challenge = some (BitVec.ofNat 128 (leAt t 16 16)) ∧
        leAt t 32 6 ≤ s.townSec ∧ s.townSec < leAt t 38 6 then (x.1, cDone)
    else (x.1, cMismatch)

abbrev tokenOf (t : List Byte) : Token :=
  let scope := leAt t 44 1
  { until_ := leAt t 38 6, role := scope / 4, cores := scope.testBit 0, mem := scope.testBit 1 }

def orderUnlock (s : State) (d : Desc) : OrderRes :=
  let t := staged s d.target.toNat tokenLen
  let x := tokenJudge s t
  let s := x.1.modMantle fun m => { m with challenge := none }
  if x.2 = cDone then
    fin ((s.modMantle fun m => { m with token := some (tokenOf t) }).fire1 4) cDone (tokenOf t).role
  else fin (s.bump .mantle 0 MANTLE_SEC_CNT_DEBUG_FAIL) x.2

/-- SCOPE and NOT_AFTER of the token in force, 0 for none. -/
def tokenScope (s : State) : Nat :=
  match s.liveToken with | some t => bnat t.cores + 2 * bnat t.mem + 4 * t.role | none => 0
def tokenUntil (s : State) : Nat := match s.liveToken with | some t => t.until_ | none => 0

/-- Debug that a token has unlocked locks at a device reset (R524). -/
def resetLocks (s : State) : State :=
  if s.liveToken.isSome then journalOrLose s (mkAct s 404 0x7002 (w32 (tokenScope s)) 0 (d64 (tokenUntil s)) 0 7) else s

def orderLock (s : State) : OrderRes :=
  fin (s.modMantle fun m => { m with token := none }) cDone (bnat (debugUnlocked s))

/-! Fuses, the journal's orders, HC1 and HC7 -/

/-- REVOKE_MAKER_SLOT: never the last slot not yet revoked (R518). -/
def orderRevoke (s : State) (d : Desc) : OrderRes :=
  let k := d.target.toNat
  let live := (List.range 4).filter fun j => !s.mantle.fuses.getLsbD j
  if live = [k] then fin s cNotNow (bits s.mantle.fuses 3 0)
  else
    let s := s.modMantle fun m => { m with fuses := setBits m.fuses k k 1 }
    fin s cDone (bits s.mantle.fuses 3 0)

/-- ROOT_STEP (R522). -/
def orderRootStep (s : State) : OrderRes :=
  if 64 ≤ s.mantle.rootSteps then fin s cNotNow s.mantle.rootSteps
  else
    let s := s.modMantle fun m => { m with rootSteps := m.rootSteps + 1 }
    fin s cDone s.mantle.rootSteps

/-- JOURNAL_READ: an entry still in the ring is returned whole. -/
def orderJournalRead (s : State) (d : Desc) : OrderRes :=
  let seq := d.target.toNat + 2 ^ 32 * d.bytes 11 8
  match s.mantle.ring.find? fun e => decide (e.seq = seq) with
  | some e => fin s cDone 1 (e.words ++ [d64 e.chain.toNat, d64 (e.chain.toNat / 2 ^ 64)])
  | none => fin s cDone 0

def orderQuiesce (s : State) : OrderRes := fin (s.fire1 1) cDone

def orderMakerDiag (s : State) : OrderRes := fin (s.fire1 7) cDone

/-! Their checks (R520, R524, R536) -/

/-- A record of `len` bytes at TARGET lies inside staging. -/
def stagedAt (d : Desc) (len : Nat) : Bool :=
  decide (d.target.toNat % 8 = 0 ∧ d.target.toNat + len ≤ stagingSize ∧ d.arg = 0)

def securityFormat (s : State) (op : Nat) (d : Desc) : Bool :=
  match op with
  | 0x10 => stagedAt d (claimLen s d.target.toNat)
  | 0x11 => decide (d.target = 0)
  | 0x14 => stagedAt d tokenLen
  | 0x16 | 0x1B => true
  | 0x17 => decide (d.bytes 15 12 = 0)
  | 0x18 => decide (d.target.toNat < 4 ∧ d.arg = 0)
  | _ => decide (d.target = 0 ∧ d.arg = 0)

def securityLegal (s : State) (op : Nat) : Bool :=
  decide (s.mantle.st = 3) &&
    match op with
    | 0x10 => !s.claimed && s.boot.installEn
    | 0x13 => s.claimed
    | 0x14 => s.claimed && s.timeSet
    | _ => true

/-- The acts of an order of this chapter that has completed with `code` (R528, R530). -/
def securityActs (s : State) (op : Nat) (d : Desc) (code : Nat) : Option (List JAct) :=
  let act := fun (action : Nat) (target : Nat) (old new : Dword) => mkAct s d.req action (w32 target) old new code 7
  match op with
  | 0x10 =>
    if code = cDone then
      let bs := staged s d.target.toNat (claimLen s d.target.toNat)
      some ((claimEntries bs).map (claimAct s d.req bs))
    else none
  | 0x14 =>
    let t := staged s d.target.toNat tokenLen
    some [act (if code = cDone then 0x7001 else 0x7004) (leAt t 44 1) 0 (d64 (leAt t 38 6))]
  | 0x15 => some [act 0x7002 (tokenScope s) 0 (d64 (tokenUntil s))]
  | 0x16 => some [act 0x9000 d.target.toNat 0 d.arg]
  | 0x18 =>
    if code = cDone then
      let k := keySlot s d.target.toNat
      some [act 0x6004 d.target.toNat (fprWord k) (fprWord k)]
    else none
  | 0x19 => if code = cDone then some [act 0x6005 (s.mantle.rootSteps + 1) 0 0] else none
  | _ => none

end Sys2Proof.Machine
end

