-- ==== Sys2Proof/Machine/Boot.lean ====
section
/-! DEFINITION. Resets, the boot sequence with its slots and kept copies, recovery, and the flash orders. -/

namespace Sys2Proof.Machine

/-! Resets (R567 to R571) -/

/-- What MRAM, OTP and flash hold, which no reset changes (R568). -/
def storeLife (x : Life) : Life := { open_ := x.open_, retired := x.retired, next := x.next }

def storeMantle (m : Mantle) : Mantle :=
  { staging := m.staging, slotA := m.slotA, slotB := m.slotB, kept := m.kept, keptHalf := m.keptHalf, sealedA := m.sealedA,
    sealedB := m.sealedB, preferB := m.preferB, fwCeiling := m.fwCeiling, keys := m.keys, rseq := m.rseq, rb := m.rb,
    fuses := m.fuses, rootSteps := m.rootSteps, ring := m.ring, seq := m.seq, exp := m.exp, chain := m.chain }

/-- CAUSE once a source has acted: a reset in progress keeps the bits it has (R571). -/
def causeWith (s : State) (k : Nat) : BitVec 5 := setBits (if s.boot.inReset then s.boot.cause else 0) k k 1

/-- POWER_ON_RESET: PORST_N, or the supply monitor, whose loss of VIN_CORE may tear the records then being written (R268, R568). -/
def powerOnReset (s : State) (supply : Bool) (torn : List TornRec) : State :=
  { pending := s.pending, uptime := s.uptime, free := s.free, gpioIn := s.gpioIn, fedEpoch := s.fedEpoch,
    life := if supply then torn.foldl tornRec (storeLife s.life) else storeLife s.life, mantle := storeMantle s.mantle,
    boot := { cause := causeWith s (bnat supply), installEn := s.boot.installEn } }

/-- Offsets of a block's registers that a device reset keeps (R569). -/
def keptOff (b : Blk) (off : Nat) : Bool :=
  match b with
  | .hedge => decide (0x100 ≤ off)
  | .stat => decide (0x100 ≤ off ∧ off ≠ STAT_PERIOD_CFG ∧ off ≠ FLT_CFG)
  | .lane =>
    decide (off = LANE_SW_PARAM ∨ off = LANE_SW_PARAM2 ∨ off = LANE_OVR ∨ off = LANE_OVR_END) ||
      (List.range 128).any fun k => decide (off = LANE_SW_NODE_OVR + 0x40 * k ∨ off = LANE_SW_NODE_OVR_END + 0x40 * k)
  | .qeng => decide (off ∈ qengCounters)
  | .qdr => decide (off ∈ qdrCounters ∨ off = QDR_CAL)
  | .life => decide (off ∈ lifeCounters)
  | .mantle => decide (off ∈ mantleCounters)
  | .upl => decide (off ∈ uplCounters)
  | .meadow => decide (0x180 ≤ off ∧ off < 0x198 ∨ 0x280 ≤ off ∧ off < 0x294)
  | .seam => decide (off ∈ seamCounters)
  | .heath => decide (off = HEATH_TB_DISC ∨ off = HEATH_TB_UTC ∨ off ∈ powerCounters ∨ off ∈ wakeCounters ∨ off ∈ tbCounters)
  | .pad => false

def keptReg (addr : Nat) : Bool := match blkOf addr with | some (b, _, off) => keptOff b off | none => false

/-- The timebase runs on; a LOCKED one enters HOLDOVER while D48 is off (R546, R569). -/
def resetTb (s : State) : Timebase :=
  { now := s.tb.now, run := s.tb.run, st := if s.tb.st = 2 then 3 else s.tb.st, x32 := s.tb.x32, lastExchange := s.tb.lastExchange,
    rate := if tbMode s = 2 then 0 else s.tb.rate, ppsAt := s.tb.ppsAt, utcOld := s.tb.utcOld, utcAt := s.tb.utcAt }

/-- The statistics after a device reset (R569): the period in progress and what of it was digested is kept; every bank is zero, the
Heath's from now on, and the reset length takes effect as a new one does (R300). -/
def resetStats (s : State) : Stats :=
  let x := s.stats
  { startT := x.startT, startUtc := x.startUtc, prevStart := x.prevStart, fullMin := x.fullMin, lastShort := x.lastShort,
    nextUtc := if s.timeSet then min x.nextUtc (nextAligned s.utcSec (periodMin 4)) else x.nextUtc,
    doms := tset {} (tmap {} (fun y => { digested := y.digested }) x.doms) 50 { partial_ := true, startT := s.townUs } }

/-- What a device reset keeps (R569); every other field takes its reset value. -/
def afterReset (s : State) (k : Nat) (skip : List Nat) : State :=
  { pending := s.pending, uptime := s.uptime, free := s.free, gpioIn := s.gpioIn, fedEpoch := s.fedEpoch,
    regs := s.regs.filter fun p => keptReg p.1
    tb := resetTb s
    chans := tmap {} (fun x => { gen := x.gen }) s.chans
    lanes := tmap {} (fun x => { nodes := keepInc x.nodes }) s.lanes
    tis := s.tis, delays := s.delays, hmapped := s.hmapped, hc2At := s.hc2At, hc2Due := s.hc2Due, shelfTotal := s.shelfTotal,
    life := { storeLife s.life with modelled := s.life.modelled },
    faults := s.faults, faultHold := s.faultHold.map (fun p => { p with snap := false }), faultWait := s.faultWait,
    conds := s.conds, faultDue := s.faultDue, going := s.going, freeing := s.freeing, stats := resetStats s,
    mantle := { storeMantle s.mantle with denials := s.mantle.denials, lostNoted := s.mantle.lostNoted,
                                          heldEntries := s.mantle.heldEntries },
    upls := tmap {} (fun x => { peers := x.peers }) s.upls,
    boot := { cause := causeWith s k, count := satTo 255 (s.boot.count + 1), maddr := s.boot.maddr, bootsel := s.boot.bootsel,
              installEn := s.boot.installEn, pwrEn := s.boot.pwrEn, skip := skip } }

/-- A device reset: every switched domain goes off at once, and what R569 lists is kept. `skip` lists the slots a fall-back
leaves out. -/
def deviceReset (s : State) (k : Nat) (skip : List Nat) : State :=
  if s.boot.inReset then s.modBoot fun b => { b with cause := causeWith s k }
  else
    let up := (List.range 50).filter fun d => decide ((s.dom d).st ≠ .off)
    let s := leaveShelf (resetLocks s)
    let s := up.foldl (fun s d => bankDown s d false) s
    let s := up.foldl (fun s d => (domTis d).foldl tiLost s) s
    let s := up.foldl (fun s d => condGone s 0x34 d) s
    let s := (List.range 32).foldl (fun s m => condGone s 0x38 m) s
    let s := ((s.wake.map fun w => w.inputs).getD []).foldl (fun s j => tiEnd s (tiWake j)) s
    afterReset s k skip

/-- RESET_RELEASE: the straps are sampled, PWR_EN is asserted and D49 starts (R573, R578). -/
def resetRelease (s : State) (bootsel : BitVec 2) (maddr : BitVec 3) (install : Bool) : State :=
  if s.boot.inReset then
    let cold := coldBoot s
    let s := s.modBoot fun b =>
      { b with inReset := false, step := 2, bootsel := bootsel, maddr := if cold then maddr else b.maddr, installEn := install,
               pwrEn := true, releasedAt := s.uptime }
    beginDom s 49
  else s

/-- DEVICE_RESET: the reset begins 1 ms after the completion is committed (R572). -/
def orderDeviceReset (s : State) : OrderRes := fin (s.modBoot fun b => { b with resetAt := some (s.uptime + 1000000) }) cDone

/-- DEVICE_RESET_TIMER. -/
def deviceResetTimer (s : State) : State :=
  match s.boot.resetAt with
  | some a =>
    if a ≤ s.uptime ∧ (s.heldComps.all fun h => decide (h.blk ≠ .pad)) = true then
      deviceReset (s.modBoot fun b => { b with resetAt := none }) 3 []
    else s
  | none => s

/-! Slots (R576) -/

abbrev slotSize : Nat := 0x6000000

/-- Bytes of a flash area; an erased byte reads 0xFF (log entry 25). -/
def flashBytes (m : Table Byte) (a n : Nat) : List Byte := (List.range n).map fun k => tget 0xFF m (a + k)

def flashWrite (m : Table Byte) (a : Nat) : List Byte → Table Byte
  | [] => m
  | b :: bs => flashWrite (tset 0xFF m a b) (a + 1) bs

/-- Slots are 1 A and 2 B. -/
abbrev slotMem (s : State) (k : Nat) : Table Byte := if k = 1 then s.mantle.slotA else s.mantle.slotB
abbrev slotSealed (s : State) (k : Nat) : Bool := if k = 1 then s.mantle.sealedA else s.mantle.sealedB

/-- The file of a slot: as many bytes as its header says, within the slot. -/
def slotFile (s : State) (k : Nat) : List Byte :=
  let len := patLen (flashBytes (slotMem s k) 0 28)
  flashBytes (slotMem s k) 0 (max 0x6000 (min len slotSize))

/-- CHECK at which a slot's pattern fails rows 3, 6 and 7, 0 if none. -/
def slotHead (s : State) (bs : List Byte) : Nat :=
  if layoutOk bs 168 = false then 2
  else if ((sheets bs).all fun h => decide ((Config.sha384 h.hdr).take 12 = h.digest)) = false then 3
  else if pairOk s (slice bs 0 4096) (patSig bs) = false then 4
  else 0

/-- A slot has failed at CHECK `c` (R582). -/
def slotFailed (s : State) (k c : Nat) : State :=
  s.modBoot fun b =>
    { b with fallback := true, tried := insNat k b.tried, aCheck := if k = 1 then c else b.aCheck, bCheck := if k = 2 then c else b.bCheck }

/-- Slots in the order BOOTSEL tries them. -/
def slotOrder (s : State) : List Nat :=
  let p := if s.mantle.preferB then 2 else 1
  match s.boot.bootsel.toNat with
  | 0 => [p, 3 - p] | 1 => [1] | 2 => [2] | _ => []

/-- The first slot that is sealed, not yet tried and whose pattern passes rows 3, 6 and 7; else RECOVERY (R576, R580). -/
def pickSlot (s : State) : List Nat → State
  | [] =>
    let s := s.modBoot fun b => { b with step := 0, recovery := true, slot := 0 }
    s.modMantle fun m => { m with st := 4, inForce := [] }
  | k :: ks =>
    if slotSealed s k = false ∨ k ∈ s.boot.tried ∨ k ∈ s.boot.skip then pickSlot s ks
    else
      let bs := slotFile s k
      let c := slotHead s bs
      let s := if c = 0 ∨ c = 4 then (verifyPair s (slice bs 0 4096) (patSig bs)).1 else s
      if c = 0 then s.modBoot fun b => { b with step := 4, slot := k } else pickSlot (slotFailed s k c) ks

def chooseSlot (s : State) : State := pickSlot (s.modBoot fun b => { b with stage := 1, fallback := b.fallback || decide (b.skip ≠ []) }) (slotOrder s)

/-- MANTLE_ROM_VERIFY: Mantle runs. Unusable maker keys are counted, counter 96 rises to the root floor, and a slot is chosen
(R518, R522, R578, R607). -/
def romVerify (s : State) : State :=
  if mantleRuns s ∧ s.boot.step = 2 then
    let s := foldTo 4 (fun s i => if otpOk s i then s else s.bump .mantle 0 MANTLE_SEC_CNT_MAKER_KEY_BAD) s
    chooseSlot (raiseRb s 96 (rootFloor s))
  else s

/-! What a slot and its kept copies put in force (R501, R577) -/

/-- Panels laid over those in force, with their source. -/
def overlay (m : Table (Option InForce)) (source : Nat) (ps : List Panel) : Table (Option InForce) :=
  ps.foldl (fun m p =>
    (ifIndices p.type p.region p.mask).foldl (fun m i => tset none m i (some { panel := p, source := source })) m) m

def panelAt (m : Table (Option InForce)) (i : Nat) : Option Panel := (tget none m i).map fun f => f.panel

/-- A copy's digests, signatures, hashes, rights and stamps. -/
def copyOk (s : State) (m : Table (Option InForce)) (c : Kept) : Bool :=
  layoutOk c.bytes 16 && (judgeSigns s c.bytes).isNone &&
    ((sheets c.bytes).map Sheet.panel).all (stampsHold (panelAt (overlay m 3 ((sheets c.bytes).map Sheet.panel))))

/-- Copies in the order of their marks, those that fail dropped: what is then in force, and the copies used. -/
def overlayKept (s : State) : List Kept → Table (Option InForce) × List Kept → Table (Option InForce) × List Kept
  | [], x => x
  | c :: cs, x =>
    if copyOk s x.1 c then overlayKept s cs (overlay x.1 3 ((sheets c.bytes).map Sheet.panel), x.2 ++ [c])
    else overlayKept s cs x

/-- A panel stands: it is the one in force for one of its indices. -/
def stands (m : Table (Option InForce)) (p : Panel) : Bool :=
  (ifIndices p.type p.region p.mask).any fun i => decide (panelAt m i = some p)

/-- Rows 12 and 13 of a panel that stands: code and CHECK. -/
def standBad (s : State) (m : Table (Option InForce)) (ps : List Panel) (p : Panel) : Option (Nat × Nat) :=
  if stands m p = false then none
  else if rollbackOk s p.type p.region p.rollback.toNat = false then some (cRollback, 9)
  else contents s (panelAt m) (panelAt m) ps p

/-- Copies are dropped until none holds a panel that stands and fails (R577). -/
def settleKept : Nat → State → List Panel → List Kept → Table (Option InForce) × List Kept
  | 0, _, ps, _ => (overlay [] 0 ps, [])
  | n + 1, s, ps, cs =>
    let x := overlayKept s cs (overlay [] s.boot.slot ps, [])
    let bad := x.2.filter fun c =>
      let qs := (sheets c.bytes).map Sheet.panel
      qs.any fun p => (standBad s x.1 qs p).isSome
    if bad = [] then x else settleKept n s ps (x.2.filter fun c => decide (c ∉ bad))

/-- Types of the two stages, in the order of their commits (R578). -/
def stage1Types : List Nat := [8, 7, 6, 3, 5, 4, 0xD]
def stage2Types : List Nat := [9, 0xA, 0xB, 2, 1, 0xC]

/-- The first check that fails for a slot's panels of the given types that stand: code and CHECK. -/
def slotBad (s : State) (bs : List Byte) (m : Table (Option InForce)) (types : List Nat) : Option (Nat × Nat) :=
  let hs := (sheets bs).filter fun h => decide (h.type ∈ types) && stands m h.panel
  let ps := (sheets bs).map Sheet.panel
  match hs.findSome? (sheetBad s) with
  | some f => some f
  | none =>
    match hs.findSome? fun h => standBad s m ps h.panel with
    | some f => some f
    | none => hs.findSome? fun h => if stampsHold (panelAt m) h.panel then none else some (cMismatch, 10)

/-- Entries in force of the given types. -/
def ofTypes (m : Table (Option InForce)) (types : List Nat) : List (Nat × InForce) :=
  m.filterMap fun p => match p.2 with | some f => if f.panel.type ∈ types then some (p.1, f) else none | none => none

/-- The panels of some entries, each once. -/
def panelsOf (xs : List (Nat × InForce)) : List Panel := (xs.map fun x => x.2.panel).eraseDups

def putEntries (s : State) (xs : List (Nat × InForce)) : State :=
  xs.foldl (fun s x => s.modMantle fun m => { m with inForce := tset none m.inForce x.1 (some x.2) }) s

/-! The stages (R578) -/

/-- The domains of a range whose bits are set start. -/
def startSet (s : State) (ds : List Nat) : State := ds.foldl (fun s d => if domBit s d then startDom s d else s) s

abbrev sinceRelease (s : State) : Nat := satTo 0xFFFF ((s.uptime - s.boot.releasedAt) / 1000000)

/-- A request for a channel that the queue map leaves unfitted is not kept, and is counted (R156). -/
def unfittedOff (role : Nat) (s : State) : State :=
  (List.range 4).foldl (fun s c =>
    if domBit s (44 + c) && !fitted s c then (setDomBit s (44 + c) false).logClamp .heath 0 2 HEATH_DOM_ON_HI role else s) s

/-- BOOT_STAGE1. -/
def bootStage1 (s : State) : State :=
  if mantleRuns s ∧ s.boot.step = 4 then
    let k := s.boot.slot
    let bs := slotFile s k
    let ps := (sheets bs).map Sheet.panel
    let mine := s.mantle.kept.filter fun c => decide (c.slot = k)
    let x := settleKept (mine.length + 1) s ps mine
    let s := s.modBoot fun b => { b with stage := 2 }
    let v := countSheets s ((sheets bs).filter fun h => decide (h.type ∈ stage1Types) && stands x.1 h.panel)
    match slotBad s bs x.1 stage1Types with
    | some f => (slotFailed v k f.2).modBoot fun b => { b with step := 5 }
    | none =>
      let late := ofTypes x.1 stage2Types
      let check := ((slotBad s bs x.1 stage2Types).map fun f => f.2).getD 0
      let early := ofTypes x.1 stage1Types
      let s := v.modBoot fun b =>
        { b with plan := late, planCheck := check, keptUsed := x.2.length, keptDropped := mine.length - x.2.length }
      let s := foldTo 4 (fun s j => s.setReg .mantle 0 (MANTLE_PL_BOOT_ID + 4 * j) (w32 (leAt (patId bs) (4 * j) 4))) s
      let qs := panelsOf early
      let s := (inOrder stage1Types qs).foldl bootPanel (putEntries s early)
      let s := raiseCounters s qs
      let s := unfittedOff (((qs.find? fun p => decide (p.type = 6)).map fun p => p.role).getD 3) s
      let s := startSet s ((List.range 4).map (44 + ·) ++ (List.range 12).map (32 + ·))
      s.modBoot fun b =>
        { b with step := 7, stage := 3, stage1Ms := sinceRelease s,
                 faultHold := (List.range 50).any fun d => decide ((s.dom d).st = .faulted) }
  else s

/-- BOOT_STAGE2. -/
def bootStage2 (s : State) : State :=
  if mantleRuns s ∧ s.boot.step = 7 then
    if s.boot.planCheck ≠ 0 then
      (slotFailed s s.boot.slot s.boot.planCheck).modBoot fun b => { b with step := 9 }
    else
      let xs := s.boot.plan.filter fun x => (s.inForce x.1).isNone
      let bs := slotFile s s.boot.slot
      let v := countSheets s ((sheets bs).filter fun h => decide (h.type ∈ stage2Types ∧ h.panel ∈ panelsOf xs))
      let qs := panelsOf xs
      let s := (inOrder stage2Types qs).foldl bootPanel (putEntries v xs)
      let s := raiseCounters s qs
      let s := journalOrLose s
        (mkAct s 405 0x5002 (w32 (patCount bs)) (d64 (leAt (patId bs) 0 8)) (d64 (leAt (patId bs) 8 8)) 0 7)
      let s := startSet s (48 :: List.range 32)
      let s := s.modBoot fun b => { b with step := 8, stage := 4, doneMs := sinceRelease s, plan := [] }
      sequencer s
  else s

/-- BOOT_FALLBACK: stage 1 moves to the next slot; stage 2 makes a device reset that leaves out the slots tried (R576). -/
def bootFallback (s : State) : State :=
  if mantleRuns s ∧ s.boot.step = 5 then chooseSlot s
  else if s.boot.step = 9 then deviceReset s 4 (s.boot.skip ++ s.boot.tried)
  else s

/-! Flash orders (R581) -/

def flashFormat (op : Nat) (d : Desc) : Bool :=
  match op with
  | 0x20 =>
    let off := bits d.target 29 0
    let src := d.bytes 11 8
    let len := d.bytes 15 12
    decide (bits d.target 31 30 < 2 ∧ off % 4096 = 0 ∧ src % 8 = 0 ∧ len % 8 = 0 ∧ src + len ≤ stagingSize ∧ off + len ≤ slotSize)
  | _ => decide (d.target.toNat < 2 ∧ bits d.arg 63 1 = 0)

/-- The slot an order names, 1 A and 2 B. -/
abbrev flashSlot (op : Nat) (d : Desc) : Nat := (if op = 0x20 then bits d.target 31 30 else d.target.toNat) + 1

def flashLegal (s : State) (op : Nat) (d : Desc) : Bool := decide (s.boot.slot ≠ flashSlot op d)

def setSeal (s : State) (k : Nat) (b : Bool) : State :=
  s.modMantle fun m => if k = 1 then { m with sealedA := b } else { m with sealedB := b }

def orderSlotWrite (s : State) (d : Desc) : OrderRes :=
  let k := flashSlot 0x20 d
  let len := d.bytes 15 12
  let s := setSeal s k false
  let x := flashTry s
  if x.2 then
    let bs := staged s (d.bytes 11 8) len
    let off := bits d.target 29 0
    fin (x.1.modMantle fun m =>
      if k = 1 then { m with slotA := flashWrite m.slotA off bs } else { m with slotB := flashWrite m.slotB off bs }) cDone (len / 1024)
  else fin x.1 cTimeout 0

/-- The whole slot as a boot would judge it, stamps within the pattern alone: code and CHECK. -/
def judgeSlot (s : State) (bs : List Byte) : Option (Nat × Nat) :=
  match slotHead s bs with
  | 0 => slotBad s bs (overlay [] 0 ((sheets bs).map Sheet.panel)) (stage1Types ++ stage2Types)
  | 2 => some (cBadFormat, 2)
  | c => some (cBadSignature, c)

def orderSlotSeal (s : State) (d : Desc) : OrderRes :=
  let k := flashSlot 0x21 d
  let bs := slotFile s k
  let v := if slotHead s bs = 2 ∨ slotHead s bs = 3 then s else countVerified s bs
  match judgeSlot s bs with
  | some f => fin v f.1 f.2
  | none =>
    let x := flashTry v
    if x.2 then
      let s := setSeal x.1 k true
      fin (if bit d.arg 0 then s.modMantle fun m => { m with preferB := decide (k = 2) } else s) cDone 0
    else fin x.1 cTimeout 0

end Sys2Proof.Machine
end

