-- ==== Sys2Proof/Machine/Islands.lean ====
section
/-! DEFINITION. What the watchdog of an island does, its release and its realignment, and the counters of the seams. -/

namespace Sys2Proof.Machine

/-- What runs in an island is lost with its reset: the frame a lane was receiving, which never reaches its CRC (its link is down 10 ms
later, LINK_DOWN), a channel's running requests, an uplink's link (R475, R66). -/
def islandLost (s : State) (k : Nat) (cut : Bool) : State :=
  if k < 194 then (if cut && laneTx s (k - 50) then bumpLane s (k - 50) LANE_CNT_CRC else s)
  else if k < 198 then s.modChan (k - 194) fun y => { y with paused := true }
  else if uplUp s (k - 198) then uplFlap s (k - 198) 3
  else s

/-- The FIFOs of an island's seam that fill from the island and toward it. -/
def islandFifos (k : Nat) : FifoKind × FifoKind :=
  if 194 ≤ k ∧ k < 198 then (.readData, .requests) else (.rx, .tx)

/-- SEAM_WATCHDOG: the island is held in reset, its seam is severed with cause 5, and the SEVERED fault is raised (R475, R476). `rx` and
`tx` are the entries its FIFOs held: they hang on instants within a frame, which no command carries (log entry 29). -/
def seamWatchdog (s : State) (k rx tx : Nat) : State :=
  if s.rbit .seam 0 SEAM_CFG 10 = true ∧ 50 ≤ k ∧ k < 202 ∧ (s.seam k).st = .live then
    let f := islandFifos k
    let s := s.setFifo (fifoKey k f.1) (List.replicate (min rx (fifoDepth k f.1)) 0)
    let s := s.setFifo (fifoKey k f.2) (List.replicate (min tx (fifoDepth k f.2)) 0)
    let s := severAll s 5 [k]
    let s := (s.bumpSeam SEAM_CNT_UNEXPECTED).bumpSeam SEAM_CNT_ISLAND_RESETS
    islandLost (condPresent s 0x3B k 0) k (decide (0 < rx))
  else s

/-- ISLAND_RELEASE: the watchdog's reset of 20 µs ends; the island's block starts again after the step of its PLL's lock (R475). -/
def islandRelease (s : State) (k : Nat) : State :=
  let x := s.seam k
  if x.st = .severed ∧ x.cause = 5 ∧ x.since + 20000 ≤ s.uptime then releaseSeam s k else s

/-- The seams' COUNTERS_CLEAR (R479). -/
def orderSeamClear (s : State) : OrderRes := fin (s.clearRegs .seam 0 seamCounters) cDone

end Sys2Proof.Machine
end

