-- ==== Sys2Proof/Machine/Orders.lean ====
section
/-! DEFINITION. How a block takes an order: the checks of R21 in their order, holding for a domain, the turn of a requester,
the journal entry, the block's own work, and the completion. -/

namespace Sys2Proof.Machine

/-! The orders' tables -/

/-- What a block measures while it serves an order (log entry 16): a LINE_TDR word, the narrowest eye and its group, a voltage
in microvolts. -/
structure Meas where
  tdr : Word := 0
  eye : Nat := 0
  group : Nat := 0
  uv : Nat := 0
  deriving DecidableEq, Repr

/-- The order measures something. -/
def measures (b : Blk) (op : Nat) : Bool :=
  match b with
  | .lane => decide (op = 7) | .qdr => decide (op = 2) | .heath => decide (op = 0x31) | _ => false

/-- Measured values that no command gives are free. -/
def freeMeas (s : State) (b : Blk) (op : Nat) : State × Meas :=
  if measures b op then
    let v := s.drawn
    (s.draw, { tdr := w32 v.toNat, eye := bits v 37 32, group := bits v 41 38, uv := bits v 73 42 })
  else (s, {})

/-- Roles that hold the right, as the orders' tables give them: bit 0 none, 1 operator, 2 installer, 3 maker; 0 for an
opcode that is not assigned. -/
def orderRoles : Blk → Nat → Nat
  | .lane, op => if 1 ≤ op ∧ op ≤ 8 then 12 else 0
  | .qeng, op => if op = 2 then 14 else if 1 ≤ op ∧ op ≤ 5 then 12 else 0
  | .qdr, op => if 1 ≤ op ∧ op ≤ 3 then 12 else 0
  | .hedge, op => if op = 1 ∨ op = 2 then 12 else 0
  | .life, op => if op = 1 ∨ op = 2 ∨ op = 3 ∨ op = 5 then 14 else if op = 4 ∨ op = 6 then 12 else 0
  | .stat, op => if op = 1 ∨ 0x40 ≤ op ∧ op ≤ 0x42 then 14 else if op = 2 ∨ op = 0x43 ∨ op = 0x44 then 12 else 0
  | .meadow, op => if op = 1 ∨ op = 2 ∨ op = 0x20 ∨ op = 0x21 then 12 else 0
  | .heath, op => if op = 0x31 then 14 else if op = 0x10 ∨ op = 0x11 ∨ op = 0x30 ∨ op = 0x40 ∨ op = 0x41 then 12 else 0
  | .seam, op => if op = 1 then 12 else 0
  | .pad, op => if op = 1 then 12 else 0
  | .upl, op => if op = 1 then 12 else 0
  | .mantle, op =>
    if op = 0x10 then 15
    else if op = 1 ∨ op = 2 ∨ op = 0x11 ∨ op = 0x12 ∨ op = 0x17 then 14
    else if op = 3 ∨ 0x13 ≤ op ∧ op ≤ 0x16 ∨ op = 0x20 ∨ op = 0x21 then 12
    else if 0x18 ≤ op ∧ op ≤ 0x1B then 8
    else 0

/-- The order is journaled. -/
def orderJournaled (b : Blk) (op : Nat) (d : Desc) : Bool :=
  match b with
  | .lane => decide (op ≠ 4 ∨ d.byte 8 = 3 ∨ d.byte 8 = 5 ∨ d.byte 8 = 6)
  | .qeng => decide (op ≠ 2)
  | .qdr => decide (op ≠ 2)
  | .life => decide (op ≠ 1 ∧ op ≠ 2)
  | .stat => decide (op ≠ 2 ∧ op ≠ 0x41)
  | .heath => decide (op ≠ 0x31)
  | .mantle => if op = 2 then !applyDry d else decide (op ≠ 1 ∧ op ≠ 0x12 ∧ op ≠ 0x13 ∧ op ≠ 0x17)
  | _ => true

/-- The bank a REDIGEST names (R308). -/
def bankNamed (t : Word) : Option Nat :=
  (List.range 183).find? fun k => decide ((bankInfo k).1 = bits t 7 0 ∧ (bankInfo k).2.1 = bits t 23 8 ∧ bits t 31 24 = 0)

/-- Step 1 for the bytes beyond the common ones. -/
def orderFormat (s : State) (b : Blk) (op : Nat) (d : Desc) : Bool :=
  let plain := decide (d.target = 0 ∧ d.arg = 0)
  match b with
  | .lane => laneFormat op d
  | .qeng => qengFormat op d
  | .qdr => qdrFormat op d
  | .hedge => if op = 2 then decide (d.target.toNat < 2880 ∧ d.arg = 0) else plain
  | .life => lifeFormat op d
  | .stat =>
    match op with
    | 1 => decide (d.target = 0 ∧ bits d.arg 63 3 = 0)
    | 2 => (bankNamed d.target).isSome && decide (d.arg = 0)
    | 0x42 | 0x44 => plain
    | _ => decide (bits d.target 31 16 = 0 ∧ d.arg = 0)
  | .meadow => if op = 1 then decide (d.target.toNat < 8 ∧ d.arg = 0) else plain
  | .heath =>
    match op with
    | 0x10 => decide (d.target.toNat < 50 ∧ d.arg = 0)
    | 0x31 => decide (d.target.toNat < 16 ∧ d.arg = 0)
    | 0x11 | 0x30 => plain
    | _ => tbFormat op d
  | .mantle => if op < 0x10 then loaderFormat s op d else if op < 0x20 then securityFormat s op d else flashFormat op d
  | _ => plain

/-- Step 1: the opcode is assigned and the reserved bits are zero. -/
def orderForm (s : State) (b : Blk) (op : Nat) (d : Desc) : Bool :=
  decide (orderRoles b op ≠ 0 ∧ d.rsv = 0) && orderFormat s b op d

/-- The least role that may reload, start or stop images (R403, R435). -/
def orderFloor (s : State) (b : Blk) (i op : Nat) (d : Desc) : Nat :=
  if b = .meadow ∧ op = 1 then (s.core (8 * i + d.target.toNat % 8)).role
  else if b = .meadow ∧ 0x20 ≤ op then cfgRole s i
  else 0

/-- Requesters that submit orders through an order port: cores, the ports of signed requests, debug access, and Hedgerow for
JOURNAL_MARK; no other block ever does (R19). -/
def submits (req : Nat) (b : Blk) (op : Nat) : Bool :=
  decide (req < 256 ∨ 400 ≤ req ∧ req ≤ 403 ∨ req = 410 ∨ req = 411) || decide (req = 412 ∧ b = .mantle ∧ op = 0x16)

/-- Step 2. -/
def orderRight (s : State) (b : Blk) (i op : Nat) (d : Desc) : Bool :=
  let role := s.roleOf d.req
  submits d.req b op && (orderRoles b op).testBit role && (decide (role = 0) || permits s 1 (blkType b) op role) &&
    decide (orderFloor s b i op d ≤ role)

/-- The domains an order is for. -/
def orderDoms (b : Blk) (i op : Nat) (d : Desc) : List Nat :=
  match b with
  | .qeng => (qengChan op d).toList.map fun c => 44 + c
  | .stat => if op = 2 then ((bankNamed d.target).toList.map bankDom).filter fun k => decide (k < 50) else []
  | .meadow => if op = 2 then [] else [i]
  | _ => (blkDom b i).toList

/-- RELOAD_CORE waits for the image reload path of D49 (R421). -/
abbrev reloads (b : Blk) (op : Nat) : Bool := decide (b = .meadow ∧ op = 1)

/-- Step 3: legal in the present state. -/
def orderLegal (s : State) (b : Blk) (i op : Nat) (d : Desc) : Bool :=
  match b with
  | .lane => laneLegal s i op
  | .qeng => qengLegal s op && (qengChan op d).all fun c => s.chanAvail c
  | .qdr => qdrLegal s i op
  | .life => lifeLegal s op
  | .stat =>
    if op = 2 then
      s.timeSet && (orderDoms b i op d).all fun k => s.domOn k
    else true
  | .meadow =>
    let st := (s.meadow i).st
    match op with
    | 0x20 => decide (st = .off)
    | 0x21 => decide (st = .active ∨ st = .rest) && !applyHolds s i
    | 2 => true
    | _ => decide (st = .active ∨ st = .rest)
  | .heath => decide (op ≠ 0x10 ∨ (s.dom d.target.toNat).st = .faulted)
  | .mantle =>
    if op < 0x10 then mantleRuns s
    else if op < 0x20 then securityLegal s op else mantleRuns s && flashLegal s op d
  | _ => true

/-! Bodies -/

def orderSetPeriod (s : State) (d : Desc) : OrderRes :=
  let n := bits d.arg 2 0
  let s := setLength s (if n < 7 then n else 4)
  fin s (doneOr (decide (7 ≤ n))) (lenCode s)

def orderRedigest (s : State) (d : Desc) : OrderRes :=
  let x := redigest s ((bankNamed d.target).getD 0)
  fin x.1 cDone (bnat x.2)

def noEntry (s : State) : OrderRes := fin (s.bump .stat 0 FLT_CNT_MISMATCH) cMismatch

def orderAckFault (s : State) (d : Desc) : OrderRes :=
  match targetEntry s d.target with
  | none => noEntry s
  | some e => let x := Machine.ackFault s e (s.roleOf d.req) (if d.req < 400 then 0 else s.signedSlot % 16); fin x.1 cDone x.2

def orderReadFault (s : State) (d : Desc) : OrderRes :=
  match targetEntry s d.target with
  | none => noEntry s
  | some e => let x := s.fault e; fin s cDone x.st.code ((faultWords x e 0 0 x.lastT 0 0).drop 1)

def orderForceClear (s : State) (d : Desc) : OrderRes :=
  match targetEntry s d.target with
  | none => noEntry s
  | some e => fin (freeLater s e) cDone 1

def orderSnapshot (s : State) (d : Desc) : OrderRes :=
  let es := (List.range 4096).filter fun e => decide ((s.fault e).st ≠ .free)
  later (snapServe { s with snaps := s.snaps ++ [{ d := d, left := es }] })

def orderFltClear (s : State) : OrderRes := fin (s.clearRegs .stat 0 (offsFrom 0x8080 4 8 ++ offsFrom 0x400 4 4)) cDone

def statBody (op : Nat) (d : Desc) (s : State) : OrderRes :=
  match op with
  | 1 => orderSetPeriod s d
  | 2 => orderRedigest s d
  | 0x40 => orderAckFault s d
  | 0x41 => orderReadFault s d
  | 0x42 => orderSnapshot s d
  | 0x43 => orderForceClear s d
  | _ => orderFltClear s

def orderClearPending (s : State) (d : Desc) : OrderRes :=
  let t := d.target.toNat
  fin (clearLatch s t) cDone (bnat (s.ti t).latch.isSome)

def orderHedgeClear (s : State) : OrderRes := fin (hedgeClear s) cDone

/-- The image reload path reads records, once more where a hash check fails; whether they can be read is the flash's (R421, log entry
32). -/
def imageRead (s : State) : State × Bool :=
  if Config.imageOk s.free then (s.draw, true) else (s.draw.draw, Config.imageOk s.draw.free)

/-- RELOAD_CORE: the image of a core or a pair is reloaded; one that cannot be read leaves it HELD (R398, R403, R421). -/
def orderReload (s : State) (m : Nat) (d : Desc) : OrderRes :=
  let c := d.target.toNat % 8
  let mask := if (s.core (8 * m + c)).lockstep then 3 * 4 ^ (c / 2) else 2 ^ c
  let x := imageRead (stopCores s m mask)
  if x.2 then fin (loadCores x.1 m mask) cDone mask else fin x.1 cTimeout 0

def orderMeadowClear (s : State) (m : Nat) : OrderRes :=
  fin ((s.clearRegs .meadow m (offsFrom 0x180 4 6 ++ offsFrom 0x280 4 5)).setFld .meadow m MEADOW_SRAM_ERR 20 20 0) cDone

def meadowBody (m op : Nat) (d : Desc) (s : State) : OrderRes :=
  match op with
  | 1 => orderReload s m d
  | 0x20 => later (orderMeadowStart s m d)
  | 0x21 => later (orderMeadowStop s m d)
  | _ => orderMeadowClear s m

def orderPowerClear (s : State) : OrderRes := fin (s.clearRegs .heath 0 powerCounters) cDone
def orderWakeClear (s : State) : OrderRes := fin (s.clearRegs .heath 0 wakeCounters) cDone

def heathBody (op : Nat) (d : Desc) (uv : Nat) (s : State) : OrderRes :=
  match op with
  | 0x10 => later (orderRetryDomain s d)
  | 0x11 => orderPowerClear s
  | 0x30 => orderWakeClear s
  | 0x31 => orderSample s uv
  | 0x40 => orderTimeSet s d
  | _ => orderTbClear s

def mantleBody (op : Nat) (d : Desc) (s : State) : OrderRes :=
  match op with
  | 1 => orderStageCopy s d
  | 2 => orderApply s d
  | 3 => orderMantleClear s
  | 0x10 => orderClaim s d
  | 0x11 => orderAttest s d
  | 0x12 => orderDeviceCert s d
  | 0x13 => orderChallenge s
  | 0x14 => orderUnlock s d
  | 0x15 => orderLock s
  | 0x16 => fin s cDone
  | 0x17 => orderJournalRead s d
  | 0x18 => orderRevoke s d
  | 0x19 => orderRootStep s
  | 0x1A => orderQuiesce s
  | 0x1B => orderMakerDiag s
  | 0x20 => orderSlotWrite s d
  | _ => orderSlotSeal s d

/-- Steps 5 and 6 of an order: what its block does. -/
def orderBody (b : Blk) (i op : Nat) (d : Desc) (m : Meas) (s : State) : OrderRes :=
  match b with
  | .lane => laneBody i op d m.tdr s
  | .qeng => qengBody op d s
  | .qdr => qdrBody i op d m.eye m.group s
  | .hedge => if op = 1 then orderHedgeClear s else orderClearPending s d
  | .life => lifeBody op d s
  | .stat => statBody op d s
  | .meadow => meadowBody i op d s
  | .heath => heathBody op d m.uv s
  | .seam => orderSeamClear s
  | .pad => orderDeviceReset s
  | .upl => orderUplClear s i
  | .mantle => mantleBody op d s

/-! The journal entries of an order (R528, R530) -/

/-- The entries of an order whose checks came to `code`, in the order they are written. Those of an APPLY are written when it
ends, or after its mark (R502). -/
def orderActs (s : State) (b : Blk) (op : Nat) (d : Desc) (code : Nat) : List JAct :=
  let plain := [mkAct s d.req (0x3000 + op) d.target d.arg 0 code (blkType b % 256)]
  if b = .mantle then
    (securityActs s op d code).getD plain
  else plain

/-- The first entry has its room judged; the rest are written while there is room (R528). -/
def writeActs (s : State) (acts : List JAct) : State :=
  match acts with
  | [] => s
  | a :: as => as.foldl journalOrLose (journal s a)

/-! Taking an order -/

/-- An order is over. -/
def orderOver (s : State) (b : Blk) (i op : Nat) (d : Desc) (code : Nat) (result : Nat := 0) (extra : List Dword := []) : State :=
  let s := if b = .mantle ∧ op = 2 ∧ mantleRuns s = true then noteApply s d code result else s
  complete s b i op d code result extra

/-- A block's answer becomes the completion, unless the block completes the order later. -/
def orderEnd (r : OrderRes) (b : Blk) (i op : Nat) (d : Desc) : State :=
  match r.code with
  | some c => orderOver r.s b i op d c r.result r.extra
  | none => r.s

/-- Steps 5 and 6, with the entry written before the act takes effect (R528). -/
def orderAct (s : State) (b : Blk) (i op : Nat) (d : Desc) (m : Meas) (journaled : Bool) : State :=
  if journaled then
    let r := orderBody b i op d m s
    orderEnd (orderBody b i op d m (writeActs s (orderActs s b op d r.jcode))) b i op d
  else orderEnd (orderBody b i op d m s) b i op d

/-- Step 4 and on. An APPLY's rows 2 to 4 come before it (R495); the entry of a RETRY_DOMAIN of D49 is held in the Heath
(R533). -/
def orderFrom4 (s : State) (b : Blk) (i op : Nat) (d : Desc) (m : Meas) : State :=
  let full := fun (s : State) (result : Nat) =>
    orderOver (s.bump .mantle 0 MANTLE_JR_CNT_FULL) b i op d cJournalFull result
  if b = .mantle ∧ op = 2 then
    match (applyPre s d).2.2 with
    | some _ => orderAct s b i op d m false
    | none =>
      if applyDry d then orderAct s b i op d m false
      else if journalRoom (jFlush s) (applyNeed s d) then orderAct (jFlush s) b i op d m false
      else full s (applyResult 255 0 0)
  else if orderJournaled b op d = false then orderAct s b i op d m false
  else if b = .heath ∧ op = 0x10 ∧ d.target.toNat = 49 then
    orderEnd (orderBody b i op d m ((orderActs s b op d cDone).foldl journalOrHold s)) b i op d
  else if journalReady s then orderAct s b i op d m true
  else full s 0

/-- An order is held, and the domains it needs start unless the device is on its way between states (R22). -/
def holdOrder (s : State) (b : Blk) (i op : Nat) (d : Desc) (ds : List Nat) : State :=
  let s := { s with heldOrders := s.heldOrders ++ [⟨b, i, op, d⟩] }
  if s.dev = .descending ∨ s.dev = .waking then s else sequencer (ds.foldl startDom s)

/-- What step 3 comes to. -/
inductive Verdict where
  | go
  | ends (code : Nat)
  | hold (doms : List Nat)
  deriving DecidableEq, Repr

/-- Domains of the list that are not on. -/
abbrev notOn (s : State) (ds : List Nat) : List Nat := ds.filter fun k => !s.domOn k

/-- An order for domains that are not on: held if it may be and they can start (R22, R143). -/
def waitFor (s : State) (may : Bool) (ds : List Nat) : Verdict :=
  if (notOn s ds).isEmpty || !may || !(notOn s ds).all (canStart s) then .ends cNotNow else .hold (notOn s ds)

/-- Step 3 (R21, R22, R41, R143, R421, R495). -/
def verdict (s : State) (b : Blk) (i op : Nat) (d : Desc) : Verdict :=
  let ds := orderDoms b i op d
  let faulted := fun (l : List Nat) => l.any fun k => decide ((s.dom k).st = .faulted)
  let starting := (notOn s ds).any fun k => decide ((s.dom k).st = .starting)
  if faulted ds then .ends cFaulted
  else if orderLegal s b i op d then
    if reloads b op && !(s.domOn 49 && s.mantle.reloadReady) then
      if faulted [49] then .ends cFaulted else .hold [49]
    else if b = .mantle ∧ op = 2 ∧ d.wake = true then
      let ts := notOn s (applyDoms s d)
      if ts.isEmpty || faulted ts || !ts.all (canStart s) then .go else .hold ts
    else .go
  else waitFor s (d.wake || (decide (b = .qeng) && starting)) ds

/-- From step 3 on; a journaled order with WAKE is also held while D49 starts (R533). -/
def orderFrom3 (s : State) (b : Blk) (i op : Nat) (d : Desc) (m : Meas) : State :=
  match verdict s b i op d with
  | .ends c =>
    if b = .mantle ∧ op = 2 then orderOver s b i op d c (applyResult 255 12 0) else orderOver s b i op d c
  | .hold ds => holdOrder s b i op d ds
  | .go =>
    if orderJournaled b op d && d.wake && !s.domOn 49 && decide ((s.dom 49).st ≠ .faulted) then holdOrder s b i op d [49]
    else orderFrom4 s b i op d m

/-- From step 1 on. -/
def orderFrom1 (s : State) (b : Blk) (i op : Nat) (d : Desc) (m : Meas) : State :=
  if orderForm s b op d = false then
    orderOver s b i op d cBadFormat (if b = .mantle ∧ op = 2 then applyResult 255 0 0 else 0)
  else if orderRight s b i op d = false then
    let s := deny s d.req 1 d.target b cDenied
    orderOver s b i op d cDenied (if b = .mantle ∧ op = 2 then applyResult 255 0 0 else 0)
  else orderFrom3 s b i op d m

/-- Mantle serves one order at a time; what comes while a report or an apply is in hand waits (R23, R505, R527). -/
abbrev mantleBusy (s : State) (b : Blk) : Bool := decide (b = .mantle) && (s.mantle.fragOrder.isSome || s.mantle.job.isSome)

/-- The order begins. -/
def orderBegin (s : State) (o : OrderRef) (m : Meas) : State :=
  let s := { s with orders := s.orders ++ [o] }
  if mantleBusy s o.blk then s.modMantle fun x => { x with waiting := x.waiting ++ [o] }
  else orderFrom1 s o.blk o.inst o.op o.d m

/-- An order of this requester at this block has begun and has not completed (R23). -/
abbrev orderOpen (s : State) (b : Blk) (i req : Nat) : Bool :=
  s.orders.any fun o => decide (o.blk = b ∧ o.inst = i ∧ o.d.req = req)

/-- A write of BLOCK_ORDER3 does not complete (R24, R79, R527). -/
def orderStalls (s : State) (b : Blk) (i req : Nat) : Bool :=
  compHeld s b i req || (decide (b = .lane) && cmdqFull s i) ||
    (decide (b = .mantle) && decide (64 ≤ s.mantle.waiting.length))

/-- An order is submitted. A requester that never submits orders has no part in it, and while the port stalls its submission has
not happened (R19, R24). -/
def submit (s : State) (b : Blk) (i op : Nat) (d : Desc) (m : Meas) : State :=
  if submits d.req b op = false then s
  else if orderStalls s b i d.req then s
  else if orderOpen s b i d.req then { s with orderQ := s.orderQ ++ [⟨b, i, op, d⟩] }
  else orderBegin s ⟨b, i, op, d⟩ m

/-- As `submit`, for an order that came through a port and not as a command: what it measures is free. -/
def submitFree (s : State) (b : Blk) (i op : Nat) (d : Desc) : State :=
  let x := freeMeas s b op
  submit x.1 b i op d x.2

/-! An apply in progress (R500 to R504) -/

abbrev bundleOf (j : Job) : List Panel := (sheets j.bytes).map Sheet.panel

/-- The apply is over: its counters, its completion, and what its domains waited for. -/
def applyOver (s : State) (d : Desc) (code result : Nat) : State :=
  let s := s.modMantle fun m => { m with job := none, holdBase := 0, holdSize := 0 }
  let s := complete (noteApply s d code result) .mantle 0 2 d code result []
  sequencer (foldTo 32 sleepJudge s)

/-- An apply that fails leaves its one entry, and no other effect. -/
def applyFails (s : State) (d : Desc) (code result : Nat) : State :=
  applyOver (if applyDry d then s else writeActs s (orderActs s .mantle 2 d code)) d code result

/-- Rows 6 to 14 are judged (R495). -/
def applyVerify (s : State) (j : Job) : State :=
  match judgeBundle s j.bytes with
  | some f =>
    let s := if applyDry j.d then s else countBudget (countVerified s j.bytes) ((bundleOf j)[f.panel]?) f
    applyFails s j.d f.code (applyResult f.panel f.check 0)
  | none =>
    if applyDry j.d then applyOver s j.d cDone (applyResult 255 0 0)
    else (countVerified s j.bytes).modMantle fun m => { m with job := some { j with phase := 3, ends := j.ends + jobStep } }

/-- The next panel's region is quiesced, and its commit ends one step later. -/
def panelNext (s : State) (j : Job) : State :=
  let s := s.modMantle fun m => { m with job := some { j with ends := j.ends + jobStep } }
  match j.todo.head?.bind fun k => (bundleOf j)[k]? with
  | some p => beginPanel s p
  | none => s

/-- The panels left are committed one after the other; whether a field was clamped. -/
def commitRest (s : State) (j : Job) : State × Bool :=
  j.todo.foldl (fun x k =>
    match (bundleOf j)[k]? with
    | some p =>
      let y := commitPanel j.d.req j.held (beginPanel x.1 p) p
      (y.1, x.2 || y.2)
    | none => x) (s, j.clamped)

/-- The kept copy is written, read back and marked: the bundle is in force, its entries are written and the commit begins. A copy
that the flash does not take ends the apply with no side effect (R500 to R502). A lane set is in force from its own swap on, by which
the lanes know what it changes (log entry 49). -/
def applyKeep (s : State) (j : Job) : State :=
  let x := keepCopy s j.bytes
  if x.2 then
    let ps := bundleOf j
    let s := x.1.modMantle fun m => { m with holdBase := 0, holdSize := 0 }
    let j := { j with phase := 4, todo := commitTurn ps }
    let s := writeActs s (bundleActs s j.d.req (doneOr (commitRest s j).2) j.bytes)
    let s := (ps.filter fun p => decide (p.type ≠ 4)).foldl (fun s p => setInForce s 3 (decide (p.type = 0xC)) p) s
    panelNext (s.fire1 (prodMantle 0)) j
  else applyFails x.1 j.d cTimeout (applyResult 255 13 0)

/-- The panel in hand is committed, and the next begins; after the last, counters rise and the order completes (R502, R503). -/
def applyCommit (s : State) (j : Job) : State :=
  let x := match j.todo.head?.bind fun k => (bundleOf j)[k]? with
    | some p => commitPanel j.d.req j.held s p
    | none => (s, false)
  let j := { j with todo := j.todo.drop 1, clamped := j.clamped || x.2 }
  if j.todo.isEmpty then
    let ps := bundleOf j
    let s := (raiseCounters x.1 ps).fire1 (prodMantle 1)
    let s := (s.bumpBy .mantle 0 MANTLE_PL_CNT_PANELS ps.length).bankAdd bankD49 3 ps.length
    applyOver s j.d (doneOr j.clamped) (applyResult 255 0 ps.length)
  else panelNext x.1 j

/-- What the loader has in hand ends. -/
def jobEnds (s : State) (j : Job) : State :=
  match j.phase with
  | 1 => copyOver s j.d
  | 2 => applyVerify s j
  | 3 => applyKeep s j
  | _ => applyCommit s j

/-- What the loader has in hand ends no later than a conversion of the sampler. -/
def jobFirst (s : State) : Option Job :=
  s.mantle.job.filter fun j => match s.sampler.pass with | some x => decide (j.ends ≤ x.ends) | none => true

/-- The loader and the sampler go on while what they have in hand ends no later than `t`. -/
def goOn : Nat → State → Nat → State
  | 0, s, _ => s
  | n + 1, s, t =>
    match jobFirst s, s.sampler.pass with
    | some j, _ => if j.ends ≤ t then goOn n (jobEnds (s.upTo j.ends) j) t else s
    | none, some x => if x.ends ≤ t then goOn n (smpConvert (s.upTo x.ends) x) t else s
    | none, none => s

/-- Time reaches an instant: the loader and the sampler go on with what they have in hand, a round in progress ends, and what waited at
a seam for its acknowledge crosses (R286, R456, R465, R466, R500). -/
def State.reach (s : State) (t : Nat) : State := (goOn 51 s t).upTo t

/-! What goes on by itself -/

/-- Held orders of a requester are checked again from step 3 (R22). -/
def recheck (s : State) (req : Nat) : State :=
  if s.dev = .descending ∨ s.dev = .waking then s
  else
    let mine := s.heldOrders.filter fun o => decide (o.d.req = req)
    let s := { s with heldOrders := s.heldOrders.filter fun o => decide (o.d.req ≠ req) }
    mine.foldl (fun s o =>
      let x := freeMeas s o.blk o.op
      orderFrom3 x.1 o.blk o.inst o.op o.d x.2) s

/-- One order that waited for Mantle begins. -/
def mantleNext (s : State) : State :=
  match s.mantle.waiting with
  | o :: os =>
    if mantleBusy s .mantle then s else orderFrom1 (s.modMantle fun x => { x with waiting := os }) o.blk o.inst o.op o.d {}
  | [] => s

/-- One order that waited for its turn begins. -/
def turnNext (s : State) : State :=
  match s.orderQ.find? fun o => !orderOpen s o.blk o.inst o.d.req with
  | none => s
  | some o =>
    let x := freeMeas { s with orderQ := s.orderQ.erase o } o.blk o.op
    orderBegin x.1 o x.2

/-- A JOURNAL_MARK input is free once its order has completed (R19, R219). -/
def markEnds (s : State) : State :=
  foldTo 4 (fun s k =>
    let t := tiMark k
    if (s.ti t).phase = .busy ∧ (s.ti t).due = false ∧
        (s.orders ++ s.orderQ).any (fun o => decide (o.d.req = 412 ∧ o.d.tag.toNat = k)) = false ∧
        s.heldComps.any (fun h => decide (h.req = 412)) = false then tiEnd s t else s) s

/-- Orders go on as far as they can. -/
def orderPump (s : State) : State :=
  let s := fragServe s
  let s := foldTo s.mantle.waiting.length (fun s _ => mantleNext s) s
  let s := foldTo s.orderQ.length (fun s _ => turnNext s) s
  markEnds s

/-- JOURNAL_MARK_INPUT: Hedgerow submits JOURNAL_MARK with the time of delivery and the hop count (R219). -/
def journalMark (s : State) (k : Nat) : State :=
  let t := tiMark k
  if k < 4 ∧ tiDue s t = true ∧ orderStalls s .mantle 0 412 = false then
    let d : Desc := { req := 412, tag := BitVec.ofNat 16 k, target := w32 k, arg := d64 ((s.ti t).at48 + 2 ^ 48 * (s.ti t).lastHop) }
    submit (tiTaken s t) .mantle 0 0x16 d {}
  else s

end Sys2Proof.Machine
end

