-- ==== Sys2Proof/Machine/Views.lean ====
section
/-! DEFINITION. Registers that show a block's state: what each reads. -/

namespace Sys2Proof.Machine

/-! Common registers (R12) -/

/-- BLOCK_ID: TYPE, INSTANCE and VERSION of stepping B1. -/
def blockId (b : Blk) (i : Nat) : Nat := blkType b + 2 ^ 16 * i + 2 ^ 24

/-- MANTLE_JR_STATUS.FULL. -/
abbrev jrFull (s : State) : Bool := decide (ringSize ≤ unexported s)

/-- BLOCK_STATE with its block-specific bits (R93, R142, R170, R402, R535, R560). -/
def blockState (s : State) (b : Blk) (i : Nat) : Nat :=
  s.blkState b i +
    match b with
    | .lane => 2 ^ 8 * bnat (s.lane i).applyActive + 2 ^ 9 * bnat (s.lane i).stalled
    | .qeng => ((List.range 4).map fun c => 2 ^ (8 + c) * bnat (s.chanAvail c)).sum
    | .qdr => 2 ^ 8 * bnat (!fitted s i) + 2 ^ 9 * bnat (s.chan i).retained
    | .meadow => 2 ^ 8 * s.fld .meadow i MEADOW_CFG 0 0
    | .mantle =>
      2 ^ 8 * loaderPhase s + 2 ^ 12 * bnat s.claimed + 2 ^ 13 * bnat (debugUnlocked s) + 2 ^ 14 * bnat (jrFull s)
    | .upl => 2 ^ 8 * bnat (uplUp s i && (s.upl i).speed10)
    | _ => 0

/-! The management target's file (R559) -/

/-- A SUBMIT of the target runs or waits. -/
def i2cBusy (s : State) : Bool :=
  (s.request.any fun q => decide (q.port = 410)) || s.requests.any fun q => decide (q.port = 410)

/-- Byte `p` of the target's file. -/
def tgtByte (s : State) (p : Nat) : Nat :=
  if p = 0 then 0xCA
  else if p = 1 then bnat (i2cBusy s) + 2 * bnat s.i2c.woke + 4 * bnat s.i2c.resultValid
  else if p = 2 then s.devCode
  else (tget (0 : Byte) s.i2c.file p).toNat

/-! Views of each block -/

/-- Voltage of a meadow's level in mV (R409, R410). -/
def levelMv (s : State) (m : Nat) : Nat :=
  if (s.meadow m).st = .rest then 420 else [500, 550, 600, 650, 700, 750, 800, 880].getD (s.meadow m).level 880

/-- VOUT of a domain that is on (R409). -/
def voutOn (s : State) (d : Nat) : Nat := if d < 32 then levelMv s d else if d = 48 then 850 else 800

def viewHeath (s : State) (off k : Nat) : Nat :=
  if off = HEATH_DEV_STATE then s.devCode
  else if off = HEATH_DOM_STATE then
    let x := s.dom k
    x.st.code + 2 ^ 8 *
      (match x.st with
      | .on => voutOn s k | .off | .faulted => 0 | _ => bits s.drawn 9 0)
  else if off = HEATH_TB_SEC_LO then s.townSec
  else if off = HEATH_TB_SEC_HI then s.tb.latchHi
  else if off = HEATH_TB_NS then s.tb.latchNs
  else if off = HEATH_TB_FRAC then s.tb.latchFrac
  else if off = HEATH_TB_STATUS then s.tbState + 4 * bnat s.tb.x32
  else if off = HEATH_TGT then tgtByte s k
  else if off = HEATH_SMP_STATUS then (match s.sampler.pass with | some x => x.step + 32 | none => 0)
  else 0

def Phase.code : Phase → Nat
  | .idle => 0 | .busy => 1 | .refractory => 2

def viewHedge (s : State) (k : Nat) : Nat :=
  let x := s.ti k
  x.phase.code + 4 * bnat x.latch.isSome + 8 * x.latch.getD 0 + 2 ^ 6 * x.lastHop + 2 ^ 16 * x.merged

/-- The latched bank of a slice, in the order of R308 (R315). -/
def viewBank (s : State) (c k : Nat) : Nat :=
  let x := s.bank (bankChan c)
  if k = 0 then x.latchedPeriod.toNat else counterOf (bankChan c) x.latched (k - 1)

def viewQeng (s : State) (off k : Nat) : Nat :=
  if off = QENG_CHAN then
    ((List.range 4).map fun c =>
      2 ^ (8 * c) * ((s.chan c).st + 8 * bnat (s.chan c).retained + 16 * bnat (tget false s.starved c))).sum
  else if off = QENG_CHAN_GEN then ((List.range 4).map fun c => 2 ^ (8 * c) * (s.chan c).gen.toNat).sum
  else if off = QENG_POOL_FREE then (if s.chanAvail k then (s.chan k).pool - usedBlocks s k else 0)
  else if 0xC00 ≤ off then viewBank s ((off - 0xC00) / 0x100) k
  else (s.reg .qeng 0 (off + 4 * k)).toNat

def viewLink (s : State) (l : Nat) : Nat :=
  let x := s.lane l
  bnat x.linkUp + 2 * x.ampRes + 8 * bnat x.linkUp + 16 * bnat (x.linkUp && x.lpi && x.tx.isNone) + 32 * bnat (x.linkUp && x.lpi) + 2 ^ 8 * x.anAttempts

/-- The lane set in force lists an address (R107). -/
def nodeCode (s : State) (l n : Nat) : Nat := if (s.node l n).assigned then 2 else if isListed s l n then 1 else 0

def viewNode (s : State) (l off k : Nat) : Nat :=
  let n := k + 1
  let x := s.node l n
  if off = LANE_NODE_STATE then
    nodeCode s l n + 2 ^ 4 * x.inc.toNat + 2 ^ 8 * x.pos +
      (match x.grant with
      | some g => 2 ^ 16 * g.mode.toNat + 2 ^ 18 * g.fm.toNat + 2 ^ 20 * g.fc.toNat + 2 ^ 23 * g.t.toNat
      | none => 0)
  else if off = LANE_NODE_DELAY then x.delayNs.toNat
  else if off = LANE_NODE_ALLOW then (match x.grant with | some g => allowance g | none => 0)
  else silenceSec s l n

/-- LANE_SW_NODE_STATE, HOLD and LASTDET (R213). -/
def viewSwath (s : State) (l off k : Nat) : Nat :=
  let n := k + 1
  let x := s.node l n
  if off = LANE_SW_NODE_STATE then
    let o := (overrideOf s l n).isSome
    level s l n + 2 ^ 10 * (baseOf s l (profileOf s l n)).1 + 2 ^ 20 * x.swath + 2 ^ 30 * bnat o +
      2 ^ 31 * bnat (!o && decide (capOf s l n < wanted s l n))
  else if off = LANE_SW_NODE_HOLD then
    (match x.phase with
      | .held => (x.holdEnd - s.uptime + 999999999) / 1000000000
      | _ => 0) +
      2 ^ 10 * (match x.phase with | .idle => 0 | .held => 1 | .fading => 2) + 2 ^ 12 * x.dir +
      2 ^ 14 * bnat (x.lastDet.any fun d => d.2)
  else (match x.lastDet with | some d => d.1 / 1000 | none => 0)

/-- The classes of LANE_FLT_NODE in the order of its bits (R295). -/
def nodeClasses : List Nat := [0x01, 0x02, 0x03, 0x04, 0x10, 0x12]

def viewFaults (s : State) (l n : Nat) : Nat :=
  (nodeClasses.zipIdx.map fun c => bnat (isPresent s c.1 (subj l n)) * 2 ^ c.2).sum +
    (nodeClasses.zipIdx.map fun c => bnat (findFault s c.1 (subj l n)).isSome * 2 ^ (8 + c.2)).sum +
    2 ^ 16 * satTo 0xFF (liveDropouts s l n).length

/-- The lane's latched bank (R315). -/
def viewLaneBank (s : State) (l off k : Nat) : Nat :=
  let x := s.bank l
  if off = LANE_ST_PERIOD then x.latchedPeriod.toNat
  else if off = LANE_ST_HIST then counterOf l x.latched (4 + k)
  else if off = LANE_ST_CLASS then satTo 0xFFFFFFFF ((List.range 128).map fun n => tget 0 x.latched (20 + 4 * n + k)).sum
  else counterOf l x.latched ((off - LANE_ST_FLOW_A) / 4)

/-- Registers of a lane whose value is read off its state (R97 to R107). The UNKNOWN field of LANE_NODES stays at 255 when a window
saw more serials: the spec does not say what eight bits then show (DESIGN CHOICE, log entry 169). -/
def viewLane (s : State) (l off k : Nat) : Nat :=
  let x := s.lane l
  if off = LANE_LINK then viewLink s l
  else if off = LANE_RTT then laneRtt s l
  else if off = LANE_NODES then
    (assignedNodes s l).length + 2 ^ 8 * (listing s l).length + 2 ^ 16 * satTo 255 x.unknownCount + 2 ^ 24 * bnat x.orderMismatch +
      2 ^ 25 * bnat x.dupSeen
  else if off = LANE_BUDGET then admitted s l
  else if off = LANE_CREDIT then
    (480 - x.bulkUsed) + 2 ^ 10 * (8 - x.detUsed) + 2 ^ 14 * x.detHold.length + 2 ^ 20 * bnat x.stalled
  else if off = LANE_TAGS then
    (x.tags.filter fun p => match p.2.st with | .outstanding _ _ => true | _ => false).length +
      2 ^ 16 * (x.tags.filter fun p => match p.2.st with | .quarantined _ => true | _ => false).length
  else if off = LANE_UNKNOWN_LO then x.unknownSerial.toNat % 2 ^ 32
  else if off = LANE_UNKNOWN_HI then x.unknownSerial.toNat / 2 ^ 32
  else if off = LANE_UNKNOWN_POS then x.unknownPos
  else if 0x1000 ≤ off ∧ off < 0x2000 then viewNode s l off k
  else if 0x2000 ≤ off then viewSwath s l off k
  else if off = LANE_CAL_CFG then calDefault s l + 2 ^ 10 * bnat x.calLoaded + 2 ^ 11 * bnat s.timeSet
  else if off = LANE_CAL_BASE then (baseOf s l (2 * k)).1 + 2 ^ 16 * (baseOf s l (2 * k + 1)).1
  else if off = LANE_SW_STATE then
    (x.nodes.filter fun p => decide (p.2.phase = .held)).length + 2 ^ 8 * (lastSecond s.uptime x.levelStarts).length +
      (x.exits.map fun p => 2 ^ (16 + p.1 % 8)).sum + 2 ^ 24 * bnat x.gatherHeld
  else if off = LANE_ENTRY_LAST then ((tfind x.entryLast k).getD 0) / 1000
  else if off = LANE_WS_STATUS then
    ((List.range 3).map fun j => bnat (x.feederFlags.getD j false) * 2 ^ j).sum + 2 ^ 8 * x.feederJudged + 2 ^ 16 * (x.windows % 65536)
  else if off = LANE_FLT_NODE then viewFaults s l (k + 1)
  else viewLaneBank s l off k

def viewLife (s : State) (off : Nat) : Nat :=
  if off = LIFE_STATUS then
    s.life.open_.length + 2 ^ 16 * (s.life.retired.filter fun p => p.2.any fun r => r.eligible).length
  else s.life.next + 2 ^ 12 * (s.life.retired.filter fun p => p.2.any fun r => !r.exported).length

/-- 32 bits of a value from bit 32 × k. -/
abbrev word32 (v k : Nat) : Nat := v / 2 ^ (32 * k) % 2 ^ 32

/-- MANTLE_KEY_STATE_i and the fingerprint words (R538). -/
def viewKey (s : State) (off : Nat) : Nat :=
  let i := (off - 0x3100) / 0x20
  let x := keySlot s i
  if off % 0x20 = 0 then
    x.st + 4 * (slotRole i).1 + 16 * (slotRole i).2 + 128 * bnat (decide (i < 4) && otpOk s i)
  else if x = {} then 0
  else leAt (fingerprint x) (off % 0x20 - 0x10) 4

/-- KEPT.USED: the copies' bytes in units of 64 KiB, rounded up (R582). -/
def keptUnits (s : State) : Nat := (keptBytes s.mantle.kept + 65535) / 65536

def viewMantle (s : State) (off k : Nat) : Nat :=
  let m := s.mantle
  if off = MANTLE_PL_STATUS then loaderPhase s + 16 * ((m.job.bind fun j => j.todo.head?).getD 0 % 256) + 2 ^ 12 * bnat (decide (m.holdSize ≠ 0))
  else if off = MANTLE_PL_HOLD_BASE then m.holdBase
  else if off = MANTLE_PL_HOLD_SIZE then m.holdSize
  else if off = MANTLE_IF_VER then (match tget none m.inForce k with | some f => f.panel.version.toNat | none => 0)
  else if off = MANTLE_IF_INFO then
    (match tget none m.inForce k with
      | some f => f.source + 4 * f.panel.role + 16 * bnat f.pending
      | none => 0)
  else if off = MANTLE_SEC_STATUS then
    bnat s.claimed + 2 * bnat s.boot.installEn + 4 * bnat (debugUnlocked s) + 8 * s.roleOf 411 +
      32 * bnat (s.liveToken.any fun t => t.mem) + 64 * m.rootSteps + 2 ^ 13 * bits m.fuses 3 0
  else if off = MANTLE_DEBUG_UNTIL then tokenUntil s % 2 ^ 32
  else if off = MANTLE_DEV_SERIAL_LO then Config.serial.toNat % 2 ^ 32
  else if off = MANTLE_DEV_SERIAL_HI then Config.serial.toNat / 2 ^ 32
  else if off = MANTLE_RIGHTS then (m.rights.getD []).length + 2 ^ 11 * bnat m.ceiling.isSome
  else if off = MANTLE_DEV_FPR then leAt deviceFpr (4 * k) 4
  else if off = MANTLE_JR_STATUS then
    unexported s + 2 ^ 15 * bnat (jrFull s) + 2 ^ 16 * bnat (decide (12288 ≤ unexported s)) + 2 ^ 17 * m.heldEntries.length
  else if off = MANTLE_JR_SEQ_LO then word32 m.seq 0
  else if off = MANTLE_JR_SEQ_HI then word32 m.seq 1
  else if off = MANTLE_JR_EXP_LO then word32 m.exp 0
  else if off = MANTLE_JR_EXP_HI then word32 m.exp 1
  else if off = MANTLE_JR_CHAIN then word32 (chainNow s).toNat k
  else if 0x3100 ≤ off ∧ off < 0x3300 then viewKey s (off + 4 * k)
  else if off = MANTLE_BOOT_STATUS then
    let b := s.boot
    b.slot + 4 * bnat b.fallback + 8 * bnat b.recovery + 16 * b.stage + 2 ^ 8 * (b.aCheck % 16) + 2 ^ 12 * (b.bCheck % 16) +
      2 ^ 16 * (b.keptUsed % 256) + 2 ^ 24 * (b.keptDropped % 256)
  else if off = MANTLE_BOOT_RECORD then bnat m.sealedA + 2 * bnat m.sealedB + 4 * bnat m.preferB
  else if off = MANTLE_BOOT_TIME then s.boot.stage1Ms + 2 ^ 16 * s.boot.doneMs
  else if off = MANTLE_KEPT then keptUnits s + 2 ^ 9 * bnat m.keptHalf
  else 0

def viewUpl (s : State) (n off k : Nat) : Nat :=
  let x := s.upl n
  if off = UPL_LINK then bnat (uplUp s n) + 2 * bnat x.an + 2 ^ 8 * x.flaps
  else
    let p := s.peer n k
    if off = UPL_PEER then
      bnat p.valid + 2 * bnat p.peer + 4 * bnat p.collector + 2 ^ 16 * (p.seen.map fun e => e.1.toNat).getD 0
    else (p.seen.map fun e => e.2.toNat).getD 0

def viewStat (s : State) (off k : Nat) : Nat :=
  let e := s.fault k
  if off = FLT_STATUS then
    s.faults.countP (fun p => decide (p.2.st ≠ .free)) + 2 ^ 16 * s.faults.countP (fun p => decide (p.2.st = .raised)) +
      2 ^ 29 * bnat (faultN s)
  else if off = FLT_ENTRY_A then
    e.fclass + 2 ^ 8 * e.gen.toNat + 2 ^ 12 * e.st.code + 2 ^ 14 * bnat e.cond + 2 ^ 16 * e.subject
  else if off = FLT_ENTRY_RAISE then e.raiseT / 1000000
  else if off = FLT_ENTRY_LAST then e.lastT / 1000000
  else if off = FLT_ENTRY_REPEAT then e.rep
  else if off = STAT_PERIOD_START then
    (if s.timeSet then s.stats.startUtc else 0)
  else if off = STAT_PERIOD_NEXT then (if s.timeSet then s.stats.nextUtc else 0)
  else if off = STAT_BANK_FLAGS then
    let x := s.domStat k
    bnat (bankLive s k) + 2 * bnat x.stale + 4 * bnat x.partial_
  else if off = STAT_BANK_SEEN then lastSeen s k
  else if off = STAT_USER_LIVE then counterOf bankHeath (s.bank bankHeath).live k
  else counterOf bankHeath (s.bank bankHeath).latched k

def viewMeadow (s : State) (m off k : Nat) : Nat :=
  let x := s.meadow m
  if off = MEADOW_CORE then
    let c := s.core (8 * m + k)
    (match c.st with
      | .running => 0 | .waiting => 1 | .held => 2 | .vectorStop => 3 | .lockstepStop => 4 | .debugHalt => 5 | .down => 6) +
      8 * bnat c.upper + 16 * c.role
  else if off = MEADOW_RSV then
    (match x.rsv[k]? with
      | some e => e.granule + 2 ^ 16 * e.req + 2 ^ 25 + 2 ^ 26 * k
      | none => 0)
  else if off = MEADOW_POWER then
    x.level + 8 * bnat x.changing + 16 * x.goal + 2 ^ 8 * ceilingLevel + 2 ^ 16 * x.busy
  else (s.reg .meadow m (off + 4 * k)).toNat

def viewPad (s : State) (off : Nat) : Nat :=
  if off = PAD_STRAPS then s.boot.bootsel.toNat + 4 * s.boot.maddr.toNat
  else s.boot.cause.toNat + 2 ^ 8 * s.boot.count

/-- What a register shows of its block's state. -/
def viewReg (s : State) (b : Blk) (i : Nat) (d : RegDesc) (k : Nat) : Word :=
  if d.off = 0 then w32 (blockId b i)
  else if d.off = 4 then w32 (blockState s b i)
  else
    match b with
    | .heath => w32 (viewHeath s d.off k)
    | .hedge => w32 (viewHedge s k)
    | .qeng => w32 (viewQeng s d.off k)
    | .lane => w32 (viewLane s i d.off k)
    | .life => w32 (viewLife s d.off)
    | .mantle => w32 (viewMantle s d.off k)
    | .upl => w32 (viewUpl s i d.off k)
    | .stat => w32 (viewStat s d.off k)
    | .meadow => w32 (viewMeadow s i d.off k)
    | .seam => w32 (if d.off = SEAM_STATUS then seamStatus s else seamState s k)
    | .pad => w32 (viewPad s d.off)
    | .qdr => s.reg b i (d.off + d.stride * k)

/-- A register as a read returns it. -/
def regValue (s : State) (b : Blk) (i : Nat) (d : RegDesc) (k : Nat) : Word :=
  match d.acc, d.hook with
  | .wo, _ => 0
  | _, .view => viewReg s b i d k
  | _, .gpio => setBits (s.reg b i (d.off + d.stride * k)) 9 9 (bnat (gpioLevel s k))
  | _, .padGrp => setBits (s.reg b i (d.off + d.stride * k)) 2 2 (bnat (padIsHeld s k))
  | _, .clampLog => setBits (s.reg b i d.off) 31 31 0
  | _, .paceMin => setBits (s.reg b i d.off) 31 31 0
  | _, _ => s.reg b i (d.off + d.stride * k)

end Sys2Proof.Machine
end

