-- ==== Sys2Proof/Machine/Access.lean ====
section
/-! DEFINITION. Accesses to control space, to meadow SRAM and to the bulk window, by whoever makes them. -/

namespace Sys2Proof.Machine

/-! Control space -/

/-- How an access ends. -/
inductive Ends where
  /-- A read gives its word; a write gives the highest reason among its corrections. -/
  | done (v : Word)
  | denied
  /-- The journal has no room for a journaled write (R204). -/
  | full
  | absent
  | waits
  deriving DecidableEq, Repr

/-- What lies between the Heath and a register: nothing for common registers, else its domain's seam and its island's (R41,
R463). A domain that is STOPPING is reached no more than one that is off (R419 step 1). -/
def gate (s : State) (b : Blk) (i off addr : Nat) : Across :=
  if off < 0x100 then .open_
  else
    match blkDom b i with
    | none => .open_
    | some d =>
      if (s.dom d).st = .stopping then .absent
      else match acrossSeam s d with
      | .open_ => (match islandAt s addr with | some k => acrossSeam s k | none => .open_)
      | x => x

/-- The register a control address names (R38, R40). -/
def named (addr : Nat) : Option (Blk × Nat × RegDesc × Nat) :=
  match blkOf addr with
  | none => none
  | some (b, i, off) => (findReg (blkRegs b) off).map fun x => (b, i, x.1, x.2)

/-- What a read does besides giving its word: HEATH_TB_SEC_LO latches the rest of the time, the pace meter is brought up to
now, and the voltage of a changing domain is free (R49, R409, R565). -/
def readEffect (s : State) (b : Blk) (d : RegDesc) (k : Nat) : State :=
  if b = .heath then
    if d.off = HEATH_TB_SEC_LO then tbLatch s
    else if d.off = HEATH_DOM_STATE then
      (match (s.dom k).st with | .starting | .stopping => s.draw | _ => s)
    else s
  else s

/-- A read of a control-space word (R9, R40, R41, R469 to R472). -/
def ctlRead (s : State) (addr : Nat) : State × Ends :=
  match named addr with
  | none => (s, .done 0)
  | some (b, i, d, k) =>
    match gate s b i (d.off + d.stride * k) addr with
    | .absent => (s.bumpSeam SEAM_CNT_ABSENT, .absent)
    | .waits => (s, .waits)
    | .open_ =>
      let s := if b = .meadow then accrue s i else s
      (readEffect s b d k, .done (regValue s b i d k))

/-- The order port and staging descriptor of a block instance: its window's number. -/
abbrev portNo (b : Blk) (i : Nat) : Nat := regAddr b i 0 / 0x10000

abbrev stagingKey (b : Blk) (i req k : Nat) : Nat := (portNo b i * 512 + req % 512) * 4 + k

/-- Word `k` of a requester's staging descriptor (R17). -/
abbrev State.staged (s : State) (b : Blk) (i req k : Nat) : Word := tget 0 s.staging (stagingKey b i req k)

abbrev State.setStaged (s : State) (b : Blk) (i req k : Nat) (v : Word) : State :=
  { s with staging := tset 0 s.staging (stagingKey b i req k) v }

/-- The opcode and descriptor that four words spell (R17, R18). -/
def descOf (req : Nat) (w0 w1 w2 w3 : Word) : Nat × Desc :=
  (bits w0 7 0,
   { req := req, wake := bit w0 8, rsv := BitVec.ofNat 7 (bits w0 15 9), tag := BitVec.ofNat 16 (bits w0 31 16), target := w1,
     arg := d64 (w2.toNat + 2 ^ 32 * w3.toNat) })

/-- A write to BLOCK_ORDERk: a word of the descriptor, and at ORDER3 its submission (R17, R24). -/
def orderWrite (s : State) (b : Blk) (i k req : Nat) (v : Word) : State × Ends :=
  if k < 3 then (s.setStaged b i req k v, .done 0)
  else if orderStalls s b i req then (s, .waits)
  else
    let s := s.setStaged b i req 3 v
    let x := descOf req (s.staged b i req 0) (s.staged b i req 1) (s.staged b i req 2) v
    (submitFree s b i x.1 x.2, .done 0)

/-- A hardware block, which no chapter refuses for want of a right (R512). -/
abbrev hardware (req : Nat) : Bool := decide (256 ≤ req ∧ req < 400 ∨ 404 ≤ req ∧ req < 410)

/-- The requester's role may write the register (R4, R512 to R514). -/
def writeRight (s : State) (req : Nat) (b : Blk) (i : Nat) (d : RegDesc) (k : Nat) : Bool :=
  let role := s.roleOf req
  hardware req ||
    (decide (req ≠ 412) && roleIn role d.roles &&
      (decide (d.hook = .order) || permits s 2 (blkType b) 0xFF role) && !makerGuard s i d k role)

/-- Writes of the register are journaled (R204). -/
abbrev regJournaled (d : RegDesc) : Bool := decide (d.hook = .swParam ∨ d.hook = .ovr)

/-- A write that stored something corrected is counted, and with reason 3 it is a denial too (R10, R13, R528). -/
def noteWrite (s : State) (req : Nat) (b : Blk) (i off reason : Nat) : State :=
  if reason = 0 then s
  else
    let s := s.logClamp b i reason off (s.roleOf req)
    if reason = 3 then deny s req 0 (w32 (regAddr b i off)) b 0 else s

/-- The seam a register's value crosses to where it acts: a lane's, a channel's and an uplink's configuration to their islands, a lane's
light settings to the lane group's domain, the timebase's rate to its island (R466). -/
def valueSeam (b : Blk) (i off : Nat) : Option Nat :=
  match b with
  | .lane =>
    if off = LANE_CFG then some (seamLane i)
    else if off = LANE_SW_LIMIT ∨ off = LANE_SW_PARAM ∨ off = LANE_SW_PARAM2 ∨ off = LANE_OVR then some (laneDom i)
    else none
  | .qdr => if off = QDR_CFG then some (seamChan i) else none
  | .upl => if off = UPL_CFG then some (seamUpl i) else none
  | .heath => if off = HEATH_TB_RATE then some 202 else none
  | _ => none

/-- A register's new value is offered at the seam it crosses, unless that is severed or down. -/
def crossValue (s : State) (b : Blk) (i off : Nat) : State :=
  match valueSeam b i off with
  | some k => if (s.seam k).st = .live ∨ (s.seam k).st = .stopped then valueWrite s k (regAddr b i off) else s
  | none => s

/-- A permitted write of a register that is no order port. -/
def regWrite (s : State) (req : Nat) (b : Blk) (i : Nat) (d : RegDesc) (k : Nat) (v : Word) : State × Ends :=
  let off := d.off + d.stride * k
  let role := s.roleOf req
  if regJournaled d then
    if journalReady s then
      let x := storeReg s b i d k role v
      let a := mkAct s req 0x1000 (w32 (regAddr b i off - 0xE0000000)) (d64 (s.reg b i off).toNat) (d64 (x.1.reg b i off).toNat)
        0 (blkType b % 256)
      let y := storeReg (journal s a) b i d k role v
      (crossValue (noteWrite y.1 req b i off y.2) b i off, .done (w32 y.2))
    else ((s.bump .mantle 0 MANTLE_JR_CNT_FULL).logClamp b i 2 off role, .full)
  else
    let y := storeReg s b i d k role v
    (crossValue (noteWrite y.1 req b i off y.2) b i off, .done (w32 y.2))

/-- A write of a control-space word (R4 to R11, R17, R40, R41, R204). -/
def ctlWrite (s : State) (req addr : Nat) (v : Word) : State × Ends :=
  match named addr with
  | none => (s, .done 0)
  | some (b, i, d, k) =>
    let off := d.off + d.stride * k
    match gate s b i off addr with
    | .absent => (s.bumpSeam SEAM_CNT_ABSENT, .absent)
    | .waits => (s, .waits)
    | .open_ =>
      if d.acc = .ro then (s, .done 0)
      else if writeRight s req b i d k then
        if d.hook = .order then orderWrite s b i k req v else regWrite s req b i d k v
      else (denyWrite s req b i off, .denied)

/-! Meadow SRAM and the bulk window (R161, R388 to R392) -/

/-- How an access to memory ends. -/
inductive MemEnds where
  | done (bs : List Byte)
  | fault
  | waits
  deriving DecidableEq, Repr

/-- One access to a meadow's SRAM: whether it is served, what it does, and the meadow may go to Rest again. -/
def sramDo (s : State) (req role m : Nat) (f : State → State × MemEnds) : State × MemEnds :=
  let x := sramReach s m req role
  match x.2 with
  | .absent => (x.1, .fault)
  | .waits => (x.1, .waits)
  | .served => let y := f x.1; (sleepJudge y.1 m, y.2)

/-- A read of `n` bytes of one word. -/
def sramGet (s : State) (req m off n : Nat) : State × MemEnds :=
  let x := sramCheck s m off req
  if x.2 then (x.1, .fault) else (x.1, .done (memBytes (x.1.meadow m).sram off n))

/-- A write of fewer than 8 bytes: the word is read and merged, and keeps its mark; other requesters' reservations go. -/
def sramPut (s : State) (req m off : Nat) (bs : List Byte) : State × MemEnds :=
  ((breakRsv (sramCheck s m off req).1 m off req).modMeadow m fun y => { y with sram := memWrite y.sram off bs }, .done [])

def sramLoad (s : State) (req role m off n : Nat) : State × MemEnds := sramDo s req role m fun s => sramGet s req m off n

def sramStore (s : State) (req role m off : Nat) (bs : List Byte) : State × MemEnds :=
  sramDo s req role m fun s => sramPut s req m off bs

/-- A fault of the bulk window is counted at a channel. -/
abbrev bulkFault (s : State) (c : Nat) : State := s.bump .qdr c QDR_CNT_BULK_FAULT

/-- A read of the bulk window at an offset; beyond the window no channel is addressed. -/
def bulkLoad (s : State) (req off n : Nat) : State × MemEnds :=
  if (bulkLoc s off).isNone then (s, .fault)
  else match bulkAt s off with
  | .gone c => (bulkFault s c, .fault)
  | .waits => (s, .waits)
  | .at_ c o =>
    let x := bulkCheck s c o (0x40000000 + off) (some req)
    if x.2 then (x.1, .fault) else (x.1, .done (bulkRead x.1 c o n))

/-- The range lies in what an apply holds for itself (R499). -/
abbrev bulkHeld (s : State) (off n : Nat) : Bool := overlaps off n s.mantle.holdBase s.mantle.holdSize

def bulkStore (s : State) (req off : Nat) (bs : List Byte) : State × MemEnds :=
  if bulkHeld s off bs.length then (s.bump .mantle 0 MANTLE_PL_CNT_HOLD_FAULTS, .fault)
  else
    match bulkAt s off with
    | .gone c => (bulkFault s c, .fault)
    | .waits => (s, .waits)
    | .at_ c o => (bulkWrite s req c o off bs, .done [])

/-- Bytes of the bulk window, the sum of the four parts (R160). -/
def bulkSize (s : State) : Nat := ((List.range 4).map fun c => (s.reg .qdr c QDR_BULK_SIZE).toNat).sum

end Sys2Proof.Machine
end

