-- ==== Sys2Proof/Machine/CoreRun.lean ====
section
/-! DEFINITION. How a core runs one instruction: the fetch, the checks, what an instruction can come to, pairs in lockstep,
repeats, waits in Memory; and a core's loads, stores and atomics. -/

namespace Sys2Proof.Machine

/-! Encodings (R320) -/

abbrev encRR (op : Nat) (rd ra rb : Reg) (sh : BitVec 5) (func : Nat) : Word :=
  w32 (op * 2 ^ 26 + rd.toNat * 2 ^ 21 + ra.toNat * 2 ^ 16 + rb.toNat * 2 ^ 11 + sh.toNat * 2 ^ 6 + func)
abbrev encRI (op : Nat) (rd ra : Reg) (imm : BitVec 16) : Word :=
  w32 (op * 2 ^ 26 + rd.toNat * 2 ^ 21 + ra.toNat * 2 ^ 16 + imm.toNat)
abbrev encJ (op : Nat) (off : BitVec 26) : Word := w32 (op * 2 ^ 26 + off.toNat)
abbrev encC (op : Nat) (mask : BitVec 8) (off : BitVec 18) : Word := w32 (op * 2 ^ 26 + mask.toNat * 2 ^ 18 + off.toNat)
abbrev encQ (rd ra : Reg) (func : Nat) : Word := w32 (0x30 * 2 ^ 26 + rd.toNat * 2 ^ 21 + ra.toNat * 2 ^ 16 + func)
abbrev encS (rd ra : Reg) (x func : Nat) : Word :=
  w32 (0x38 * 2 ^ 26 + rd.toNat * 2 ^ 21 + ra.toNat * 2 ^ 16 + x * 2 ^ 6 + func)
abbrev encP (ra : Reg) (m : Bool) (cnt : BitVec 10) : Word :=
  w32 (0x3C * 2 ^ 26 + ra.toNat * 2 ^ 21 + bnat m * 2 ^ 20 + cnt.toNat)

/-! What an instruction comes to -/

/-- The outcome of an instruction on one core. -/
inductive Out where
  /-- It completes; the next instruction in order follows. -/
  | done (ws : List RegWrite)
  /-- A transfer (R332, R358). -/
  | jump (ws : List RegWrite) (target : Word)
  /-- RETT: a transfer that fills the resume latch (R347). -/
  | rett (ws : List RegWrite) (target : Word) (latch : Nat)
  /-- A REP prefix with its count (R343). -/
  | rep (n : Nat)
  /-- A WAIT that found no wake (R341). -/
  | wait
  /-- A synchronous trap; `next` where TPC takes the next instruction, `less` 1 where a repeat counts the iteration. -/
  | trap (cause : Nat) (tval : Word) (next : Bool) (less : Nat)
  | hang (h : Hang)
  deriving DecidableEq, Repr

/-- An instruction's effect: the state beside the registers, what it asked of the rest of the device (for lockstep), the
bases a repeat carries on, and its outcome. -/
structure Eff where
  s : State
  reqs : List Nat := []
  carry : List (Reg × Word) := []
  out : Out

/-- The work of an instruction on the core with requester number `r`. -/
abbrev Body := State → Nat → Eff

/-- Register results and nothing else. -/
abbrev regsOnly (s : State) (ws : List RegWrite) : Eff := { s := s, out := .done ws }

/-- A synchronous trap of the instruction. -/
abbrev trapOut (s : State) (cause : Nat) (tval : Word) (reqs : List Nat := []) : Eff :=
  { s := s, reqs := reqs, out := .trap cause tval false 0 }

/-- A post-incremented base as an iteration reads it (R345). -/
def CoreState.base (c : CoreState) (n : Reg) : Word :=
  match c.rep with
  | some p => (match p.carried.find? fun e => decide (e.1 = n) with | some e => e.2 | none => c.greg n)
  | none => c.greg n

/-! Running -/

/-- The core takes instructions: its meadow is ACTIVE, it runs, no access of it waits, and it is no upper core of a pair
(R377, R397, log entry 6). -/
def canRun (s : State) (r : Nat) : Bool :=
  let c := s.core r
  decide ((s.meadow (r / 8)).st = .active) && decide (c.st = .running) && decide (c.hang = none) && !c.upper

/-- The fetch at PC: the state after it, and the cause of a fault with its address (R359, R367, R384). -/
def fetch (s : State) (r : Nat) : State × Option Nat :=
  let a := (s.core r).pc.toNat
  if localSize ≤ a then (s, some 1)
  else
    let s := (pairOf s r).foldl (fun s k => drainFor s k fun e => decide (e.word = a / 8)) s
    let x := localCheck s r a true
    (x.1, if x.2 then some 11 else none)

/-- One core's registers, PC and repeat after an outcome that is no trap. -/
def CoreState.finish (c : CoreState) (w : Word) (now : Nat) (carry : List (Reg × Word)) : Out → CoreState
  | .done ws =>
    let d := { c.shift ws with resume := 0 }
    match c.rep with
    | some p =>
      if p.left ≤ 1 then { d with rep := none, pc := c.pc + 4 }
      else { d with rep := some { p with left := p.left - 1, carried := carry.filter fun e => decide (e.1 ≠ 0) } }
    | none => { d with pc := c.pc + 4 }
  | .jump ws t => { c.shift ws with resume := 0, pc := t }
  | .rett ws t n => { c.shift ws with resume := n, pc := t }
  | .rep n =>
    let d := { c.shift [] with resume := 0 }
    if n = 0 then { d with pc := c.pc + 8 }
    else { d with pc := c.pc + 4, rep := some ⟨n, c.pc, none, []⟩ }
  | .wait => { c.shift [] with resume := 0, pc := c.pc + 4, st := .waiting, waitFrom := now }
  | .hang h => { c with hang := some ⟨h, w, now⟩ }
  | .trap _ _ _ _ => c

/-- An executed instruction counts in its meadow's bank (R308). -/
abbrev countInstr (s : State) (r : Nat) : State := s.bankAdd (bankMeadow (r / 8)) (3 * (r % 8)) 1

/-- A transfer kills what was fetched after it; how many words that is, two at most, is not stated (R358, log entry 13). -/
def killFetched (s : State) (r : Nat) : State :=
  let n := s.drawn.toNat % 3
  let s := s.draw
  s.setPriv r CORE_CNT_KILLED (w32 (satTo 0xFFFFFFFF ((s.priv' r CORE_CNT_KILLED).toNat + n)))

/-- The queue or address TVAL gives for a waiting access (R400). -/
def Hang.tval : Hang → Word
  | .push q _ => w32 (q + 0xFFF00000)
  | .flush q => w32 (q + 0xFFF00000)
  | .pop q => w32 (q + 0xFFF00000)
  | .ctlWrite a _ => w32 a
  | .ctlRead a => w32 a
  | .mem a _ => w32 a

/-- A wait begins: a push is counted with its channel, an access into a stopped island with its seam (R149, R470). -/
def noteHang (s : State) (h : Hang) : State :=
  match h with
  | .push q _ => countWait s q
  | _ =>
    match (hangAddr h).bind fun p => islandAt s p.1 with
    | some k => if (s.seam k).st = .stopped then requestStands (s.bumpSeam SEAM_CNT_HANGS) k h.tval.toNat else s
    | none => s

/-- An instruction's outcome is applied to the core, or to both cores of a pair. -/
def applyOut (s : State) (r : Nat) (w : Word) (carry : List (Reg × Word)) (o : Out) : State :=
  match o with
  | .trap cause tval next less =>
    let s := if less = 0 ∨ (s.core r).rep = none then s else (pairOf s r).foldl (fun s k => s.modCore k fun c => c.shift []) s
    let s := if next then takeTrap s r cause tval ((s.core r).pc + 4) 0 else syncTrap s r cause tval less
    sleepJudge s (r / 8)
  | .hang h => noteHang ((pairOf s r).foldl (fun s k => s.modCore k fun c => c.finish w s.uptime carry o) s) h
  | .wait =>
    let s := (pairOf s r).foldl (fun s k => countInstr (s.modCore k fun c => c.finish w s.uptime carry o) k) s
    sleepJudge s (r / 8)
  | .done _ => (pairOf s r).foldl (fun s k => countInstr (s.modCore k fun c => c.finish w s.uptime carry o) k) s
  | .rep _ => (pairOf s r).foldl (fun s k => countInstr (s.modCore k fun c => c.finish w s.uptime carry o) k) s
  | _ => killFetched ((pairOf s r).foldl (fun s k => countInstr (s.modCore k fun c => c.finish w s.uptime carry o) k) s) r

/-- Lockstep: the two halves agree (R379). -/
def agree (r : Nat) (x y : Eff) : Bool :=
  decide (x.out = y.out) && decide (x.reqs = y.reqs) && decide (x.carry = y.carry) &&
    decide ((x.s.core r).ac0 = (y.s.core r).ac0 ∧ (x.s.core r).ac1 = (y.s.core r).ac1)

/-- A mismatch of a pair (R380). -/
def mismatch (s : State) (r : Nat) : State :=
  let c := s.core r
  let n := bits (s.priv' r CORE_LOCKSTEP) 15 0
  let s := (s.setPriv r CORE_LOCKSTEP (w32 (satTo 0xFFFF (n + 1)))).setPriv r CORE_LOCKSTEP_TPC c.pc
  let s :=
    if bit c.flush.cst 2 then
      (pairOf s r).foldl (fun s k => s.modCore k fun x => { x with st := .lockstepStop }) (trapFault s r 13 c.pc c.pc)
    else syncTrap s r 13 c.pc
  sleepJudge s (r / 8)

/-- The body of an instruction runs on a core, or on both of a pair, and its outcome is applied. -/
def runBody (s : State) (r : Nat) (w : Word) (body : Body) : State :=
  if (s.core r).lockstep then
    let x := body s r
    let y := body (s.setCore r (s.core (r + 1))) r
    if agree r x y then
      let up := { y.s.core r with upper := true }
      applyOut (x.s.setCore (r + 1) up) r w x.carry x.out
    else mismatch s r
  else
    let x := body s r
    applyOut x.s r w x.carry x.out

/-- The word a repeat is running, once its first iteration has fetched it. -/
abbrev repeated (s : State) (r : Nat) : Option Word := (s.core r).rep.bind fun p => p.body

/-- The first time an instruction runs: the fetch, the checks of R323 and R344, then the work. -/
def runFirst (s : State) (r : Nat) (w : Word) (ok again : Bool) (body : Body) : State :=
  match fetch s r with
  | (s, some cause) => sleepJudge (syncTrap s r cause (s.core r).pc) (r / 8)
  | (s, none) =>
    if !ok then sleepJudge (syncTrap s r 2 w) (r / 8)
    else
      match (s.core r).rep with
      | none => runBody s r w body
      | some p =>
        if again then
          runBody ((pairOf s r).foldl (fun s k => s.modCore k fun c => { c with rep := some { p with body := some w } }) s) r w body
        else sleepJudge (takeTrap s r 3 w p.prefixPc 0) (r / 8)

/-- One instruction. `ok` says that its register fields are legal, `again` that it may follow REP. While a repeat runs, only
the repeated word is an instruction of the core. -/
def runInstr (s : State) (r : Nat) (w : Word) (ok again : Bool) (body : Body) : State :=
  if canRun s r then
    match repeated s r with
    | some b => if b = w then runBody s r w body else s
    | none => runFirst s r w ok again body
  else s

/-! The core's address map (R384) -/

inductive Place where
  | own (a : Nat)
  | sram (m off : Nat)
  | bulk (off : Nat)
  | ctl
  | priv (off : Nat)
  | nothing
  deriving DecidableEq, Repr

def place (r a : Nat) : Place :=
  if a < 0x10000 then .own a
  else if 0x08000000 ≤ a ∧ a < 0x08100000 then .sram (r / 8) (a - 0x08000000)
  else if 0x10000000 ≤ a ∧ a < 0x12000000 then .sram (sramMeadow a) (sramOff a)
  else if 0x40000000 ≤ a ∧ a < 0xE0000000 then .bulk (a - 0x40000000)
  else if 0xE0000000 ≤ a ∧ a < 0xF0000000 then .ctl
  else if 0xF0000000 ≤ a ∧ a < 0xF0001000 then .priv (a - 0xF0000000)
  else .nothing

/-- Core-private registers: reserved offsets read 0 (R9, R381). -/
def privRead (s : State) (r off : Nat) : Word := if 0x100 ≤ off ∧ off ≤ 0x130 ∧ off % 4 = 0 then s.priv' r off else 0

/-- CORE_CNT_CLEAR: the counters, CORE_SRAM_ERR_ADDR and CORE_LOCKSTEP of a core read 0 again (R382). -/
def privClear (s : State) (r : Nat) : State :=
  { s with priv := s.priv.filter fun p => decide (p.1 / 0x1000 ≠ r ∨ p.1 % 0x1000 = CORE_LOCKSTEP_TPC) }

/-- A write of a core-private register by a core of this role (R381, R382). -/
def privWrite (s : State) (r off : Nat) (v : Word) : State :=
  if off = CORE_CNT_CLEAR ∧ bit v 0 = true ∧ 2 ≤ s.roleOf r then privClear s r else s

/-! Loads -/

/-- What a load or store of a core comes to. -/
inductive Got where
  | val (bs : List Byte)
  | trap (cause : Nat) (addr : Nat)
  | hang (h : Hang)
  deriving DecidableEq, Repr

/-- An entry holds a valid byte of [a, a + n). -/
def SbEntry.covers (e : SbEntry) (a n : Nat) : Bool :=
  (List.range n).any fun k => decide ((a + k) / 8 = e.word) && (e.bytes.getD ((a + k) % 8) none).isSome

/-- The bytes [a, a + n) of an entry that holds every one of them. -/
def SbEntry.whole (e : SbEntry) (a n : Nat) : Option (List Byte) :=
  ((List.range n).map fun k => if (a + k) / 8 = e.word then e.bytes.getD ((a + k) % 8) none else none).mapM id

/-- A read of local SRAM through the port (R359). -/
def sramRead (s : State) (r a n : Nat) : State × Got :=
  let s := fetchLost s r
  let x := localCheck s r a false
  if x.2 then (x.1, .trap 11 a) else (x.1, .val (memBytes (x.1.core r).sram a n))

/-- A load from local SRAM (R363). -/
def localLoad (s : State) (r a n : Nat) : State × Got :=
  match (s.core r).sb.reverse.find? fun e => e.covers a n with
  | none => sramRead s r a n
  | some e =>
    match e.whole a n with
    | some bs => (s.bumpPriv r CORE_CNT_FWD, .val bs)
    | none => sramRead ((drainFor s r fun e => e.covers a n).bumpPriv r CORE_CNT_SB_WAIT) r a n

/-- What an access outside the core comes to as a load or store of it. -/
def gotMem (a : Nat) (store : Bool) (x : State × MemEnds) : State × Got :=
  match x.2 with
  | .done bs => (x.1, .val bs)
  | .fault => (x.1, .trap (if store then 7 else 6) a)
  | .waits => (x.1, .hang (.mem a store))

/-- A load of `n` bytes, 1, 2 or 4 (R330, R331, R384). -/
def coreLoad (s : State) (r a n : Nat) : State × Got :=
  if a % n ≠ 0 then (s, .trap 4 a)
  else
    match place r a with
    | .own a => localLoad s r a n
    | .sram m off => gotMem a false (sramLoad s r (s.roleOf r) m off n)
    | .bulk off => gotMem a false (bulkLoad s r off n)
    | .ctl =>
      if n ≠ 4 then (s, .trap 6 a)
      else
        let x := ctlRead s a
        (match x.2 with
        | .done v => (x.1, .val (leBytes 4 v.toNat))
        | .waits => (x.1, .hang (.ctlRead a))
        | _ => (x.1, .trap 6 a))
    | .priv off => if n ≠ 4 then (s, .trap 6 a) else (s, .val (leBytes 4 (privRead s r off).toNat))
    | .nothing => (s, .trap 6 a)

/-! Stores -/

/-- The valid bytes of a store merged into an entry. -/
def SbEntry.merge (e : SbEntry) (a : Nat) (bs : List Byte) : SbEntry :=
  { e with bytes := (List.range 8).map fun k =>
      let at_ := 8 * e.word + k
      if a ≤ at_ ∧ at_ < a + bs.length then bs[at_ - a]? else e.bytes.getD k none }

/-- A store takes the youngest entry or a new one (R361). -/
def sbStore (s : State) (r a : Nat) (bs : List Byte) : State :=
  let c := s.core r
  match c.sb.getLast? with
  | some e =>
    if e.word = a / 8 then s.setCore r { c with sb := c.sb.dropLast ++ [e.merge a bs] }
    else
      let s := if c.sb.length < 4 then s else drainOne (s.bumpPriv r CORE_CNT_SB_FULL) r
      s.modCore r fun c => { c with sb := c.sb ++ [SbEntry.merge ⟨a / 8, []⟩ a bs] }
  | none => s.setCore r { c with sb := [SbEntry.merge ⟨a / 8, []⟩ a bs] }

/-- A store into words already fetched discards them; how many of the three words after the store have been fetched is not
stated (R366, R368, log entry 13). -/
def storeIntoCode (s : State) (r a : Nat) : State :=
  let pc := (s.core r).pc.toNat
  let w := a / 4 * 4
  if pc < w ∧ w ≤ pc + 12 then
    let n := s.drawn.toNat % 4
    let k := (w - pc) / 4 - 1
    let s := s.draw
    if k < n then
      (s.bumpPriv r CORE_CNT_SMC).setPriv r CORE_CNT_KILLED
        (w32 (satTo 0xFFFFFFFF ((s.priv' r CORE_CNT_KILLED).toNat + (n - k))))
    else s
  else s

/-- A store of bytes, 1, 2 or 4 (R330, R331, R365, R384). -/
def coreStore (s : State) (r a : Nat) (bs : List Byte) : State × Got :=
  let n := bs.length
  if a % n ≠ 0 then (s, .trap 5 a)
  else
    match place r a with
    | .own a => (storeIntoCode (sbStore s r a bs) r a, .val [])
    | .sram m off => let s := drainAll s r; gotMem a true (sramStore s r (s.roleOf r) m off bs)
    | .bulk off => gotMem a true (bulkStore (drainAll s r) r off bs)
    | .ctl =>
      let s := drainAll s r
      if n ≠ 4 then (s, .trap 7 a)
      else
        let v := w32 (leNat bs)
        let x := ctlWrite s r a v
        (match x.2 with
        | .absent => (x.1, .trap 7 a)
        | .waits => (x.1, .hang (.ctlWrite a v))
        | _ => (x.1, .val []))
    | .priv off =>
      let s := drainAll s r
      if n ≠ 4 then (s, .trap 7 a) else (privWrite s r off (w32 (leNat bs)), .val [])
    | .nothing => (drainAll s r, .trap 7 a)

/-- A load or store that does not give bytes ends the instruction. -/
def failed (s : State) (reqs : List Nat) : Got → Eff
  | .trap cause a => trapOut s cause (w32 a) reqs
  | .hang h => { s := s, reqs := reqs, out := .hang h }
  | .val _ => { s := s, reqs := reqs, out := .done [] }

/-- An asynchronous trap at the boundary after the instruction last completed (R346, R349, R374). -/
def asyncTrap (s : State) (r cause : Nat) (tval : Word) : State :=
  let c := s.core r
  let s := match c.rep with
    | some p => takeTrap s r cause tval p.prefixPc p.left
    | none => takeTrap s r cause tval c.pc c.resume
  sleepJudge s (r / 8)

end Sys2Proof.Machine
end

