-- ==== Sys2Proof/Machine/IsaAlu.lean ====
section
/-! DEFINITION. The ALU group and the immediate operations (R324 to R326). -/

namespace Sys2Proof.Machine

/-- What a meaning answers. -/
abbrev Answer := Host.Outcome State Fault Refusal

abbrev flag (b : Bool) : Word := if b then 1 else 0

/-- Bits [63:32] of a signed and of an unsigned product. -/
def mulhi (a b : Word) : Word := BitVec.ofInt 32 (a.toInt * b.toInt / 2 ^ 32)
def mulhiu (a b : Word) : Word := BitVec.ofNat 32 (a.toNat * b.toNat / 2 ^ 32)

/-- Quotients and remainders, with the cases of R325. -/
def quot (a b : Word) : Word := if b = 0 then 0xFFFFFFFF#32 else a.sdiv b
def quotu (a b : Word) : Word := if b = 0 then 0xFFFFFFFF#32 else a / b
def remd (a b : Word) : Word := if b = 0 then a else a.srem b
def remdu (a b : Word) : Word := if b = 0 then a else a % b

/-- Leading zeros of a word, 32 for 0: `n` bits are left to look at. -/
def clzFrom (a : Word) : Nat → Nat
  | 0 => 32
  | n + 1 => if a.getLsbD n then 31 - n else clzFrom a n

/-- A result computed from two registers. -/
def alu2 (rd ra rb : Reg) (f : Word → Word → Word) : Body := fun s r =>
  let c := s.core r
  regsOnly s [.g rd (f (c.greg ra) (c.greg rb))]

/-- A result computed from one register. -/
def alu1 (rd ra : Reg) (f : Word → Word) : Body := fun s r => regsOnly s [.g rd (f ((s.core r).greg ra))]

/-- ADD (R324). -/
def execAdd (r : Nat) (rd ra rb : Reg) (s : State) : Answer :=
  .next (runInstr s r (encRR 0x01 rd ra rb 0 0x00) true true (alu2 rd ra rb (fun a b => a + b)))

/-- SUB (R324). -/
def execSub (r : Nat) (rd ra rb : Reg) (s : State) : Answer :=
  .next (runInstr s r (encRR 0x01 rd ra rb 0 0x01) true true (alu2 rd ra rb (fun a b => a - b)))

/-- AND (R324). -/
def execAnd (r : Nat) (rd ra rb : Reg) (s : State) : Answer :=
  .next (runInstr s r (encRR 0x01 rd ra rb 0 0x02) true true (alu2 rd ra rb (fun a b => a &&& b)))

/-- OR (R324). -/
def execOr (r : Nat) (rd ra rb : Reg) (s : State) : Answer :=
  .next (runInstr s r (encRR 0x01 rd ra rb 0 0x03) true true (alu2 rd ra rb (fun a b => a ||| b)))

/-- XOR (R324). -/
def execXor (r : Nat) (rd ra rb : Reg) (s : State) : Answer :=
  .next (runInstr s r (encRR 0x01 rd ra rb 0 0x04) true true (alu2 rd ra rb (fun a b => a ^^^ b)))

/-- NOR (R324). -/
def execNor (r : Nat) (rd ra rb : Reg) (s : State) : Answer :=
  .next (runInstr s r (encRR 0x01 rd ra rb 0 0x05) true true (alu2 rd ra rb (fun a b => ~~~(a ||| b))))

/-- SLT (R324). -/
def execSlt (r : Nat) (rd ra rb : Reg) (s : State) : Answer :=
  .next (runInstr s r (encRR 0x01 rd ra rb 0 0x06) true true (alu2 rd ra rb (fun a b => flag (a.slt b))))

/-- SLTU (R324). -/
def execSltu (r : Nat) (rd ra rb : Reg) (s : State) : Answer :=
  .next (runInstr s r (encRR 0x01 rd ra rb 0 0x07) true true (alu2 rd ra rb (fun a b => flag (a.ult b))))

/-- SLL (R324). -/
def execSll (r : Nat) (rd ra rb : Reg) (s : State) : Answer :=
  .next (runInstr s r (encRR 0x01 rd ra rb 0 0x08) true true (alu2 rd ra rb (fun a b => a <<< (b.toNat % 32))))

/-- SRL (R324). -/
def execSrl (r : Nat) (rd ra rb : Reg) (s : State) : Answer :=
  .next (runInstr s r (encRR 0x01 rd ra rb 0 0x09) true true (alu2 rd ra rb (fun a b => a >>> (b.toNat % 32))))

/-- SRA (R324). -/
def execSra (r : Nat) (rd ra rb : Reg) (s : State) : Answer :=
  .next (runInstr s r (encRR 0x01 rd ra rb 0 0x0A) true true (alu2 rd ra rb (fun a b => a.sshiftRight (b.toNat % 32))))

/-- MUL (R324). -/
def execMul (r : Nat) (rd ra rb : Reg) (s : State) : Answer :=
  .next (runInstr s r (encRR 0x01 rd ra rb 0 0x10) true true (alu2 rd ra rb (fun a b => a * b)))

/-- MULH (R324). -/
def execMulh (r : Nat) (rd ra rb : Reg) (s : State) : Answer :=
  .next (runInstr s r (encRR 0x01 rd ra rb 0 0x11) true true (alu2 rd ra rb mulhi))

/-- MULHU (R324). -/
def execMulhu (r : Nat) (rd ra rb : Reg) (s : State) : Answer :=
  .next (runInstr s r (encRR 0x01 rd ra rb 0 0x12) true true (alu2 rd ra rb mulhiu))

/-- DIV (R325). -/
def execDiv (r : Nat) (rd ra rb : Reg) (s : State) : Answer :=
  .next (runInstr s r (encRR 0x01 rd ra rb 0 0x14) true true (alu2 rd ra rb quot))

/-- DIVU (R325). -/
def execDivu (r : Nat) (rd ra rb : Reg) (s : State) : Answer :=
  .next (runInstr s r (encRR 0x01 rd ra rb 0 0x15) true true (alu2 rd ra rb quotu))

/-- REM (R325). -/
def execRem (r : Nat) (rd ra rb : Reg) (s : State) : Answer :=
  .next (runInstr s r (encRR 0x01 rd ra rb 0 0x16) true true (alu2 rd ra rb remd))

/-- REMU (R325). -/
def execRemu (r : Nat) (rd ra rb : Reg) (s : State) : Answer :=
  .next (runInstr s r (encRR 0x01 rd ra rb 0 0x17) true true (alu2 rd ra rb remdu))

/-- MIN (R324). -/
def execMin (r : Nat) (rd ra rb : Reg) (s : State) : Answer :=
  .next (runInstr s r (encRR 0x01 rd ra rb 0 0x18) true true (alu2 rd ra rb (fun a b => if a.slt b then a else b)))

/-- MAX (R324). -/
def execMax (r : Nat) (rd ra rb : Reg) (s : State) : Answer :=
  .next (runInstr s r (encRR 0x01 rd ra rb 0 0x19) true true (alu2 rd ra rb (fun a b => if a.slt b then b else a)))

/-- MINU (R324). -/
def execMinu (r : Nat) (rd ra rb : Reg) (s : State) : Answer :=
  .next (runInstr s r (encRR 0x01 rd ra rb 0 0x1A) true true (alu2 rd ra rb (fun a b => if a.ult b then a else b)))

/-- MAXU (R324). -/
def execMaxu (r : Nat) (rd ra rb : Reg) (s : State) : Answer :=
  .next (runInstr s r (encRR 0x01 rd ra rb 0 0x1B) true true (alu2 rd ra rb (fun a b => if a.ult b then b else a)))

/-- SLLI (R324). -/
def execSlli (r : Nat) (rd ra : Reg) (sh : BitVec 5) (s : State) : Answer :=
  .next (runInstr s r (encRR 0x01 rd ra 0 sh 0x0C) true true (alu1 rd ra (fun a => a <<< sh.toNat)))

/-- SRLI (R324). -/
def execSrli (r : Nat) (rd ra : Reg) (sh : BitVec 5) (s : State) : Answer :=
  .next (runInstr s r (encRR 0x01 rd ra 0 sh 0x0D) true true (alu1 rd ra (fun a => a >>> sh.toNat)))

/-- SRAI (R324). -/
def execSrai (r : Nat) (rd ra : Reg) (sh : BitVec 5) (s : State) : Answer :=
  .next (runInstr s r (encRR 0x01 rd ra 0 sh 0x0E) true true (alu1 rd ra (fun a => a.sshiftRight sh.toNat)))

/-- CLZ (R324). -/
def execClz (r : Nat) (rd ra : Reg) (s : State) : Answer :=
  .next (runInstr s r (encRR 0x01 rd ra 0 0 0x1C) true true (alu1 rd ra (fun a => w32 (clzFrom a 32))))

/-- SEXTB (R324). -/
def execSextb (r : Nat) (rd ra : Reg) (s : State) : Answer :=
  .next (runInstr s r (encRR 0x01 rd ra 0 0 0x1D) true true (alu1 rd ra (fun a => (a.setWidth 8).signExtend 32)))

/-- SEXTH (R324). -/
def execSexth (r : Nat) (rd ra : Reg) (s : State) : Answer :=
  .next (runInstr s r (encRR 0x01 rd ra 0 0 0x1E) true true (alu1 rd ra (fun a => (a.setWidth 16).signExtend 32)))

/-- ADDI (R326). -/
def execAddi (r : Nat) (rd ra : Reg) (imm : BitVec 16) (s : State) : Answer :=
  .next (runInstr s r (encRI 0x04 rd ra imm) true true (alu1 rd ra (fun a => a + imm.signExtend 32)))

/-- ANDI (R326). -/
def execAndi (r : Nat) (rd ra : Reg) (imm : BitVec 16) (s : State) : Answer :=
  .next (runInstr s r (encRI 0x05 rd ra imm) true true (alu1 rd ra (fun a => a &&& imm.setWidth 32)))

/-- ORI (R326). -/
def execOri (r : Nat) (rd ra : Reg) (imm : BitVec 16) (s : State) : Answer :=
  .next (runInstr s r (encRI 0x06 rd ra imm) true true (alu1 rd ra (fun a => a ||| imm.setWidth 32)))

/-- XORI (R326). -/
def execXori (r : Nat) (rd ra : Reg) (imm : BitVec 16) (s : State) : Answer :=
  .next (runInstr s r (encRI 0x07 rd ra imm) true true (alu1 rd ra (fun a => a ^^^ imm.setWidth 32)))

/-- SLTI (R326). -/
def execSlti (r : Nat) (rd ra : Reg) (imm : BitVec 16) (s : State) : Answer :=
  .next (runInstr s r (encRI 0x08 rd ra imm) true true (alu1 rd ra (fun a => flag (a.slt (imm.signExtend 32)))))

/-- SLTIU (R326). -/
def execSltiu (r : Nat) (rd ra : Reg) (imm : BitVec 16) (s : State) : Answer :=
  .next (runInstr s r (encRI 0x09 rd ra imm) true true (alu1 rd ra (fun a => flag (a.ult (imm.signExtend 32)))))

/-- LUI (R326). -/
def execLui (r : Nat) (rd : Reg) (imm : BitVec 16) (s : State) : Answer :=
  .next (runInstr s r (encRI 0x0A rd 0 imm) true true fun s _ => regsOnly s [.g rd (imm.setWidth 32 <<< 16)])

end Sys2Proof.Machine
end

