-- ==== Sys2Proof/Machine/IsaMac.lean ====
section
/-! DEFINITION. The multiply-accumulate group (R327 to R329). -/

namespace Sys2Proof.Machine

/-- The accumulator an instruction names. -/
abbrev CoreState.acc (c : CoreState) (ac : Bool) : Dword := if ac then c.ac1 else c.ac0

def CoreState.setAcc (c : CoreState) (ac : Bool) (v : Dword) : CoreState := if ac then { c with ac1 := v } else { c with ac0 := v }

/-- Halves of a register as integers. -/
abbrev lowS (a : Word) : Int := (a.setWidth 16).toInt
abbrev highS (a : Word) : Int := ((a >>> 16).setWidth 16).toInt
abbrev lowU (a : Word) : Int := ((a.setWidth 16).toNat : Int)
abbrev highU (a : Word) : Int := (((a >>> 16).setWidth 16).toNat : Int)

/-- The products of R327. -/
def dualS (a b : Word) : Int := lowS a * lowS b + highS a * highS b
def dualU (a b : Word) : Int := lowU a * lowU b + highU a * highU b
def dualX (a b : Word) : Int := lowS a * highS b + highS a * lowS b

/-- An accumulator operation of two registers; it acts on the value left by every earlier one (R329). -/
def macBody (ac : Bool) (ra rb : Reg) (f : Dword → Word → Word → Dword) : Body := fun s r =>
  let c := s.core r
  regsOnly (s.setCore r (c.setAcc ac (f (c.acc ac) (c.greg ra) (c.greg rb)))) []

/-- An accumulator's part as a register result. -/
def readAcc (ac : Bool) (rd : Reg) (f : Dword → Word) : Body := fun s r => regsOnly s [.g rd (f ((s.core r).acc ac))]

/-- The nearest 32-bit signed value of an accumulator shifted right arithmetically. -/
def accSat (sh : Nat) (v : Dword) : Word :=
  let x := v.toInt / 2 ^ sh
  BitVec.ofInt 32 (if x < -2147483648 then -2147483648 else if 2147483647 < x then 2147483647 else x)

/-- A load of MACM or MSUM: entries it overlaps make the buffer drain completely first (R363, R364). -/
def macLoad (s : State) (r a : Nat) : State × Got :=
  let hit := match place r a with | .own o => decide (o % 4 = 0) && (s.core r).sb.any fun e => e.covers o 4 | _ => false
  coreLoad (if hit then (drainAll s r).bumpPriv r CORE_CNT_SB_WAIT else s) r a 4

/-- MACM and MSUM (R328). -/
def macMem (ac : Bool) (ra rb : Reg) (f : Dword → Word → Word → Dword) : Body := fun s r =>
  let a := (s.core r).base ra
  let b := (s.core r).base rb
  let reqs := [1, a.toNat, 4, 1, b.toNat, 4]
  let x := macLoad s r a.toNat
  match x.2 with
  | .val p =>
    let y := macLoad x.1 r b.toNat
    (match y.2 with
    | .val q =>
      let s := y.1
      let c := s.core r
      let s := s.setCore r (c.setAcc ac (f (c.acc ac) (w32 (leNat p)) (w32 (leNat q))))
      { s := s, reqs := reqs, carry := [(ra, a + 4), (rb, b + 4)], out := .done [.g ra (a + 4), .g rb (b + 4)] }
    | g => failed y.1 reqs g)
  | g => failed x.1 reqs g

/-- FUNC of the group: FUNC[5] selects the accumulator. -/
abbrev macFunc (ac : Bool) (f : Nat) : Nat := 32 * bnat ac + f

/-- MACS (R327). -/
def execMacs (r : Nat) (ac : Bool) (ra rb : Reg) (s : State) : Answer :=
  .next (runInstr s r (encRR 0x02 0 ra rb 0 (macFunc ac 0x00)) true true
    (macBody ac ra rb (fun v a b => v + BitVec.ofInt 64 (dualS a b))))

/-- MACU (R327). -/
def execMacu (r : Nat) (ac : Bool) (ra rb : Reg) (s : State) : Answer :=
  .next (runInstr s r (encRR 0x02 0 ra rb 0 (macFunc ac 0x01)) true true
    (macBody ac ra rb (fun v a b => v + BitVec.ofInt 64 (dualU a b))))

/-- MSUS (R327). -/
def execMsus (r : Nat) (ac : Bool) (ra rb : Reg) (s : State) : Answer :=
  .next (runInstr s r (encRR 0x02 0 ra rb 0 (macFunc ac 0x02)) true true
    (macBody ac ra rb (fun v a b => v - BitVec.ofInt 64 (dualS a b))))

/-- MULS (R327). -/
def execMuls (r : Nat) (ac : Bool) (ra rb : Reg) (s : State) : Answer :=
  .next (runInstr s r (encRR 0x02 0 ra rb 0 (macFunc ac 0x03)) true true
    (macBody ac ra rb (fun _ a b => BitVec.ofInt 64 (dualS a b))))

/-- MACX (R327). -/
def execMacx (r : Nat) (ac : Bool) (ra rb : Reg) (s : State) : Answer :=
  .next (runInstr s r (encRR 0x02 0 ra rb 0 (macFunc ac 0x04)) true true
    (macBody ac ra rb (fun v a b => v + BitVec.ofInt 64 (dualX a b))))

/-- The work of MACM. -/
def macmBody (ac : Bool) (ra rb : Reg) : Body := macMem ac ra rb (fun v a b => v + BitVec.ofInt 64 (dualS a b))

/-- MACM (R328). -/
def execMacm (r : Nat) (ac : Bool) (ra rb : Reg) (s : State) : Answer :=
  .next (runInstr s r (encRR 0x02 0 ra rb 0 (macFunc ac 0x05)) (decide (ra ≠ rb)) true (macmBody ac ra rb))

/-- The work of MSUM. -/
def msumBody (ac : Bool) (ra rb : Reg) : Body := macMem ac ra rb (fun v a b => v - BitVec.ofInt 64 (dualS a b))

/-- MSUM (R328). -/
def execMsum (r : Nat) (ac : Bool) (ra rb : Reg) (s : State) : Answer :=
  .next (runInstr s r (encRR 0x02 0 ra rb 0 (macFunc ac 0x06)) (decide (ra ≠ rb)) true (msumBody ac ra rb))

/-- MTAC (R327). -/
def execMtac (r : Nat) (ac : Bool) (ra rb : Reg) (s : State) : Answer :=
  .next (runInstr s r (encRR 0x02 0 ra rb 0 (macFunc ac 0x08)) true false (macBody ac ra rb (fun _ a b => b ++ a)))

/-- MFACL (R327). -/
def execMfacl (r : Nat) (ac : Bool) (rd : Reg) (s : State) : Answer :=
  .next (runInstr s r (encRR 0x02 rd 0 0 0 (macFunc ac 0x09)) true false (readAcc ac rd (fun v => v.setWidth 32)))

/-- MFACH (R327). -/
def execMfach (r : Nat) (ac : Bool) (rd : Reg) (s : State) : Answer :=
  .next (runInstr s r (encRR 0x02 rd 0 0 0 (macFunc ac 0x0A)) true false (readAcc ac rd (fun v => (v >>> 32).setWidth 32)))

/-- MFACS (R327). -/
def execMfacs (r : Nat) (ac : Bool) (rd : Reg) (sh : BitVec 5) (s : State) : Answer :=
  .next (runInstr s r (encRR 0x02 rd 0 0 sh (macFunc ac 0x0B)) true false (readAcc ac rd (accSat sh.toNat)))

/-- ACCLR (R327). -/
def execAcclr (r : Nat) (ac : Bool) (s : State) : Answer :=
  .next (runInstr s r (encRR 0x02 0 0 0 0 (macFunc ac 0x0C)) true false
    fun s r => regsOnly (s.setCore r ((s.core r).setAcc ac 0)) [])

end Sys2Proof.Machine
end

