-- ==== Sys2Proof/Machine/IsaMem.lean ====
section
/-! DEFINITION. Loads, stores and atomics (R330, R331, R336 to R338, R372, R392 to R394). -/

namespace Sys2Proof.Machine

abbrev imm32 (imm : BitVec 16) : Word := imm.signExtend 32

/-- The work of a load of `n` bytes. -/
def loadBody (post : Bool) (n : Nat) (ext : Word → Word) (rd ra : Reg) (imm : BitVec 16) : Body := fun s r =>
  let c := s.core r
  let base := if post then c.base ra else c.greg ra
  let a := if post then base else base + imm32 imm
  let reqs := [1, a.toNat, n]
  let x := coreLoad s r a.toNat n
  match x.2 with
  | .val bs =>
    let v := ext (w32 (leNat bs))
    if post then
      { s := x.1, reqs := reqs, carry := [(ra, base + imm32 imm)], out := .done [.g rd v, .g ra (base + imm32 imm)] }
    else { s := x.1, reqs := reqs, out := .done [.g rd v] }
  | g => failed x.1 reqs g

/-- The work of a store of the low `n` bytes of RS. -/
def storeBody (post : Bool) (n : Nat) (rs ra : Reg) (imm : BitVec 16) : Body := fun s r =>
  let c := s.core r
  let base := if post then c.base ra else c.greg ra
  let a := if post then base else base + imm32 imm
  let bs := leBytes n (c.greg rs).toNat
  let reqs := [2, a.toNat, n, leNat bs]
  let x := coreStore s r a.toNat bs
  match x.2 with
  | .val _ =>
    if post then { s := x.1, reqs := reqs, carry := [(ra, base + imm32 imm)], out := .done [.g ra (base + imm32 imm)] }
    else { s := x.1, reqs := reqs, out := .done [] }
  | g => failed x.1 reqs g

abbrev sextByte (v : Word) : Word := (v.setWidth 8).signExtend 32
abbrev sextHalf (v : Word) : Word := (v.setWidth 16).signExtend 32

/-! Atomics -/

/-- Where an atomic may be performed (R337): the address as one place for every purpose (R385), absolute. -/
inductive AtPlace where
  | own (a : Nat)
  | sram (m off : Nat)
  deriving DecidableEq, Repr

def atPlace (r a : Nat) : Option AtPlace :=
  match place r a with
  | .own a => some (.own a)
  | .sram m off => some (.sram m off)
  | _ => none

/-- The 16-byte granule of a place, by its first address. -/
def granule : AtPlace → Nat
  | .own a => a / 16 * 16
  | .sram m off => 0x10000000 + m * 0x100000 + off / 16 * 16

/-- A word written straight into local SRAM, past the store buffer. -/
def localPut (s : State) (r a : Nat) (bs : List Byte) : State :=
  (localCheck s r a false).1.modCore r fun c => { c with sram := memWrite c.sram a bs }

/-- An atomic that reads: alignment, reach, then `f` on the word read (R336, R337). -/
def atomicRead (ra : Reg) (f : State → Nat → AtPlace → Word → State) (rd : Reg) (kind : Nat) : Body := fun s r =>
  let a := ((s.core r).greg ra).toNat
  let s := drainAll s r
  let reqs := [kind, a]
  let got : State × Got :=
    if a % 4 ≠ 0 then (s, .trap 4 a)
    else
      match atPlace r a with
      | none => (s, .trap 6 a)
      | some (.own a) =>
        let x := sramRead s r a 4
        (match x.2 with | .val bs => (f x.1 r (.own a) (w32 (leNat bs)), .val bs) | g => (x.1, g))
      | some (.sram m off) =>
        gotMem a false (sramDo s r (s.roleOf r) m fun s =>
          let x := sramGet s r m off 4
          match x.2 with | .done bs => (f x.1 r (.sram m off) (w32 (leNat bs)), .done bs) | g => (x.1, g))
  match got.2 with
  | .val bs => { s := got.1, reqs := reqs, out := .done [.g rd (w32 (leNat bs))] }
  | g => failed got.1 reqs g

/-- What TAS does with the word. -/
def tasPut (s : State) (r : Nat) (p : AtPlace) (_ : Word) : State :=
  match p with
  | .own a => localPut s r a [1, 0, 0, 0]
  | .sram m off => (sramPut s r m off [1, 0, 0, 0]).1

/-- The core's reservation is set, with an entry in the table of the meadow that owns the granule (R372, R392). -/
def reserve (s : State) (r : Nat) (p : AtPlace) (_ : Word) : State :=
  let s := (dropRsv s r).modCore r fun c => { c with rsv := some (granule p) }
  match p with
  | .own _ => s
  | .sram m off =>
    let es := (s.meadow m).rsv
    let s := if es.length < 16 then s else s.bump .meadow m MEADOW_CNT_RSV_EVICT
    s.modMeadow m fun x => { x with rsv := (if es.length < 16 then es else es.drop 1) ++ [⟨r, off / 16⟩] }

/-- The core's marker names the granule and its table still holds the entry (R393). -/
def reserved (s : State) (r : Nat) (p : AtPlace) : Bool :=
  decide ((s.core r).rsv = some (granule p)) &&
    match p with
    | .own _ => true
    | .sram m off => (s.meadow m).rsv.any fun e => decide (e.req = r ∧ e.granule = off / 16)

def tasBody (rd ra : Reg) : Body := atomicRead ra tasPut rd 3
def lrBody (rd ra : Reg) : Body := atomicRead ra reserve rd 4

/-- The work of SC.W. -/
def scBody (rd ra rb : Reg) : Body := fun s r =>
  let a := ((s.core r).greg ra).toNat
  let v := (s.core r).greg rb
  let s := drainAll s r
  let reqs := [5, a, v.toNat]
  let bs := leBytes 4 v.toNat
  let miss := fun (s : State) => dropRsv (s.bumpPriv r CORE_CNT_SC_FAIL) r
  let got : State × Got :=
    if a % 4 ≠ 0 then (s, .trap 5 a)
    else
      match atPlace r a with
      | none => (s, .trap 7 a)
      | some (.own a) =>
        if reserved s r (.own a) then (dropRsv (localPut s r a bs) r, .val [0]) else (miss s, .val [1])
      | some (.sram m off) =>
        gotMem a true (sramDo s r (s.roleOf r) m fun s =>
          if reserved s r (.sram m off) then (dropRsv (sramPut s r m off bs).1 r, .done [0]) else (miss s, .done [1]))
  match got.2 with
  | .val res => { s := got.1, reqs := reqs, out := .done [.g rd (w32 (leNat res))] }
  | g => failed got.1 reqs g

/-- TAS (R336). -/
def execTas (r : Nat) (rd ra : Reg) (s : State) : Answer :=
  .next (runInstr s r (encRR 0x31 rd ra 0 0 0x00) true false (tasBody rd ra))

/-- LR.W (R336). -/
def execLrW (r : Nat) (rd ra : Reg) (s : State) : Answer :=
  .next (runInstr s r (encRR 0x31 rd ra 0 0 0x01) true false (lrBody rd ra))

/-- SC.W (R336, R393). -/
def execScW (r : Nat) (rd ra rb : Reg) (s : State) : Answer :=
  .next (runInstr s r (encRR 0x31 rd ra rb 0 0x02) true false (scBody rd ra rb))

end Sys2Proof.Machine
end

