-- ==== Sys2Proof/Machine/IsaFlow.lean ====
section
/-! DEFINITION. Branches, jumps, calls and returns (R332 to R335). -/

namespace Sys2Proof.Machine

/-- A target a number of words from the instruction (R321). -/
abbrev awayBy {n : Nat} (pc : Word) (off : BitVec n) : Word := pc + (off.signExtend 32 <<< 2)

/-- A target of JR, JALR or RET that cannot be used (R333). -/
abbrev unusable (t : Word) : Bool := decide (t.toNat % 4 ≠ 0 ∨ localSize ≤ t.toNat)

/-- The work of a branch. -/
def branchBody (ra rb : Reg) (off : BitVec 16) (taken : Word → Word → Bool) : Body := fun s r =>
  let c := s.core r
  if taken (c.greg ra) (c.greg rb) then { s := s, out := .jump [] (awayBy c.pc off) } else regsOnly s []

/-- BEQ (R332). -/
def execBeq (r : Nat) (ra rb : Reg) (off : BitVec 16) (s : State) : Answer :=
  .next (runInstr s r (encRI 0x20 ra rb off) true false (branchBody ra rb off (fun a b => decide (a = b))))

/-- BNE (R332). -/
def execBne (r : Nat) (ra rb : Reg) (off : BitVec 16) (s : State) : Answer :=
  .next (runInstr s r (encRI 0x21 ra rb off) true false (branchBody ra rb off (fun a b => decide (a ≠ b))))

/-- BLT (R332). -/
def execBlt (r : Nat) (ra rb : Reg) (off : BitVec 16) (s : State) : Answer :=
  .next (runInstr s r (encRI 0x22 ra rb off) true false (branchBody ra rb off (fun a b => a.slt b)))

/-- BGE (R332). -/
def execBge (r : Nat) (ra rb : Reg) (off : BitVec 16) (s : State) : Answer :=
  .next (runInstr s r (encRI 0x23 ra rb off) true false (branchBody ra rb off (fun a b => !a.slt b)))

/-- BLTU (R332). -/
def execBltu (r : Nat) (ra rb : Reg) (off : BitVec 16) (s : State) : Answer :=
  .next (runInstr s r (encRI 0x24 ra rb off) true false (branchBody ra rb off (fun a b => a.ult b)))

/-- BGEU (R332). -/
def execBgeu (r : Nat) (ra rb : Reg) (off : BitVec 16) (s : State) : Answer :=
  .next (runInstr s r (encRI 0x25 ra rb off) true false (branchBody ra rb off (fun a b => !a.ult b)))

/-- J (R332). -/
def execJ (r : Nat) (off : BitVec 26) (s : State) : Answer :=
  .next (runInstr s r (encJ 0x28 off) true false fun s r => { s := s, out := .jump [] (awayBy (s.core r).pc off) })

/-- JAL (R332). -/
def execJal (r : Nat) (off : BitVec 26) (s : State) : Answer :=
  .next (runInstr s r (encJ 0x29 off) true false fun s r =>
    let pc := (s.core r).pc
    { s := s, out := .jump [.g 31 (pc + 4)] (awayBy pc off) })

/-- The work of JR and JALR. -/
def jumpReg (ra : Reg) (link : Word → List RegWrite) : Body := fun s r =>
  let c := s.core r
  let t := c.greg ra
  if unusable t then trapOut s 1 t [t.toNat] else { s := s, out := .jump (link (c.pc + 4)) t }

/-- JR (R333). -/
def execJr (r : Nat) (ra : Reg) (s : State) : Answer :=
  .next (runInstr s r (encS 0 ra 0 0x07) true false (jumpReg ra fun _ => []))

/-- JALR (R333). -/
def execJalr (r : Nat) (rd ra : Reg) (s : State) : Answer :=
  .next (runInstr s r (encS rd ra 0 0x08) true false (jumpReg ra fun v => [.g rd v]))

/-! CALL and RET -/

/-- The register pairs a mask selects, by the number of their first register. -/
def pairRegs (mask : BitVec 8) : List Nat := ((List.range 8).filter fun k => mask.getLsbD k).map fun k => 12 + 2 * k

abbrev regNo (n : Nat) : Reg := BitVec.ofNat 5 n

/-- Bytes of a frame of R334. -/
abbrev frameSize (mask : BitVec 8) : Nat := 8 * (1 + (pairRegs mask).length)

/-- Words of 64 bits stored one after another from `a`, the low half of each first; what was stored before a failure stays. -/
def storeSlots (r : Nat) : List (Nat × Word × Word) → State → State × Got
  | [], s => (s, .val [])
  | (a, lo, hi) :: rest, s =>
    let x := coreStore s r a (leBytes 4 lo.toNat)
    match x.2 with
    | .val _ =>
      let y := coreStore x.1 r (a + 4) (leBytes 4 hi.toNat)
      (match y.2 with | .val _ => storeSlots r rest y.1 | g => (y.1, g))
    | g => (x.1, g)

/-- The slots of a frame from `a` on: the bytes loaded. -/
def loadSlots (r : Nat) : List Nat → State → State × Got
  | [], s => (s, .val [])
  | a :: rest, s =>
    let x := coreLoad s r a 4
    match x.2 with
    | .val bs =>
      let y := loadSlots r rest x.1
      (match y.2 with | .val cs => (y.1, .val (bs ++ cs)) | g => (y.1, g))
    | g => (x.1, g)

/-- The work of CALL (R334). -/
def callBody (mask : BitVec 8) (off : BitVec 18) : Body := fun s r =>
  let c := s.core r
  let sp := c.greg 29 - w32 (frameSize mask)
  if (c.greg 29).toNat % 8 ≠ 0 then trapOut s 5 sp [6, sp.toNat]
  else
    let pairs := (31, 0) :: (pairRegs mask).map fun n => (n, n + 1)
    let slots := pairs.zipIdx.map fun p =>
      ((sp + w32 (8 * p.2)).toNat, c.greg (regNo p.1.1), c.greg (regNo p.1.2))
    let reqs := 6 :: slots.flatMap fun q => [q.1, q.2.1.toNat, q.2.2.toNat]
    let x := storeSlots r slots s
    match x.2 with
    | .val _ => { s := x.1, reqs := reqs, out := .jump [.g 29 sp, .g 31 (c.pc + 4)] (awayBy c.pc off) }
    | g => failed x.1 reqs g

/-- The work of RET (R335). -/
def retBody (mask : BitVec 8) : Body := fun s r =>
  let c := s.core r
  let t := c.greg 31
  let sp := c.greg 29
  if unusable t then trapOut s 1 t [t.toNat]
  else if sp.toNat % 8 ≠ 0 then trapOut s 4 sp [7, sp.toNat]
  else
    let regs := pairRegs mask
    let x := loadSlots r ((List.range (2 * (1 + regs.length))).map fun k => (sp + w32 (4 * k)).toNat) s
    match x.2 with
    | .val bs =>
      let at_ := fun k => w32 (leAt bs (4 * k) 4)
      let ws := regs.zipIdx.flatMap fun p =>
        [RegWrite.g (regNo p.1) (at_ (2 + 2 * p.2)), RegWrite.g (regNo (p.1 + 1)) (at_ (3 + 2 * p.2))]
      { s := x.1, reqs := [7, sp.toNat],
        out := .jump (ws ++ [.g 31 (at_ 0), .g 29 (sp + w32 (frameSize mask))]) t }
    | g => failed x.1 [7, sp.toNat] g

/-- CALL (R334). -/
def execCall (r : Nat) (mask : BitVec 8) (off : BitVec 18) (s : State) : Answer :=
  .next (runInstr s r (encC 0x2C mask off) true false (callBody mask off))

/-- RET (R335). -/
def execRet (r : Nat) (mask : BitVec 8) (s : State) : Answer :=
  .next (runInstr s r (encC 0x2D mask 0) true false (retBody mask))

end Sys2Proof.Machine
end

