-- ==== Sys2Proof/Machine/IsaQueue.lean ====
section
/-! DEFINITION. The queue instructions (R122, R126 to R128, R131, R132, R135, R138, R339). -/

namespace Sys2Proof.Machine

abbrev even (n : Reg) : Bool := !n.getLsbD 0

/-- The work of QSEL (R128). -/
def qselBody (ra : Reg) : Body := fun s r =>
  let v := (s.core r).greg ra &&& 0xFFFFF#32
  { s := qSelect s r v.toNat, reqs := [10, v.toNat], out := .done [.sr 6 v] }

/-- The work of QPUT (R128). -/
def qputBody (ra : Reg) : Body := fun s r =>
  let c := s.core r
  let q := c.curQid
  let w : Dword := c.greg (ra + 1) ++ c.greg ra
  match qPush s r q w with
  | some s => { s := s, reqs := [11, q, w.toNat], out := .done [] }
  | none => { s := s, reqs := [11, q, w.toNat], out := .hang (.push q w) }

/-- The work of QEND (R128). -/
def qendBody (rd : Reg) : Body := fun s r =>
  let q := (s.core r).curQid
  let x := qEnd s r q
  { s := x.1, reqs := [12, q], out := .done [.g rd (w32 x.2)] }

/-- The work of QRWD (R128). -/
def qrwdBody : Body := fun s r => { s := qRewind s r, reqs := [13, (s.core r).curQid], out := .done [] }

/-- The work of QGET (R122, R126, R138); requests to a paused channel wait (R453, R475). -/
def qgetBody (rd : Reg) : Body := fun s r =>
  let q := (s.core r).curQid
  if (s.chan (chanOf q)).paused && qAvail s q && !qRefused s r q false then
    { s := s, reqs := [14, q], out := .hang (.pop q) }
  else
    let x := qGet s r q
    match x.2 with
    | .item w => { s := x.1, reqs := [14, q], out := .done [.g rd (w.setWidth 32), .g (rd + 1) ((w >>> 32).setWidth 32)] }
    | .poisoned q idx =>
      { s := x.1, reqs := [14, q], out := .trap 12 (w32 (q + idx % 256 * 2 ^ 20)) false 1 }

/-- The work of QCNT and QCNTW (R131). -/
def qcntBody (rd : Reg) (kind : Nat) (f : State → Nat → Nat) : Body := fun s r =>
  let q := (s.core r).curQid
  { s := s, reqs := [kind, q], out := .done [.g rd (w32 (f s q))] }

/-- The work of QFL: refused, held until the channel is available, or immediate (R111, R132, R135). -/
def qflBody : Body := fun s r =>
  let q := (s.core r).curQid
  if qRefused s r q false then { s := rewindOpen (s.bump .qeng 0 QENG_CNT_REFUSED) r .rewound, reqs := [17, q], out := .done [] }
  else if qAvail s q && !(s.chan (chanOf q)).paused then { s := (qFlush s q).1, reqs := [17, q], out := .done [] }
  else { s := s, reqs := [17, q], out := .hang (.flush q) }

/-- QCNT. -/
def execQcnt (r : Nat) (rd : Reg) (s : State) : Answer :=
  .next (runInstr s r (encQ rd 0 0x5) true false (qcntBody rd 15 qCount))

/-- QCNTW. -/
def execQcntw (r : Nat) (rd : Reg) (s : State) : Answer :=
  .next (runInstr s r (encQ rd 0 0x6) true false (qcntBody rd 16 qCountWords))

end Sys2Proof.Machine
end

