-- ==== Sys2Proof/Machine/IsaSys.lean ====
section
/-! DEFINITION. The system group, repeats, traps that come from outside an instruction, words that are no instruction, and
waits in Memory that end (R340 to R351, R361 to R364, R399 to R401). -/

namespace Sys2Proof.Machine

/-! The system group -/

/-- The work of WAIT: the store buffer drains, the reservation goes, and the wake condition is sampled (R341). -/
def waitBody : Body := fun s r =>
  let s := dropRsv (drainAll s r) r
  let now := wakeCond s r
  let s := s.modCore r fun c => { c with cst := setBits c.cst 14 14 (bnat now) }
  { s := s, reqs := [20], out := if now then .done [] else .wait }

/-- The work of RETT: TPC, PIE and TREP as the visibility rule shows them (R347, R375). -/
def rettBody : Body := fun s r =>
  let c := s.core r
  { s := s, out := .rett [.sr 31 (w32 (bits c.cst 1 1)), .sr 5 0] c.tpc (bits c.trep 15 0) }

/-- A special register as MFSR reads it (R317, R354, R378). -/
def readSr (s : State) (r n : Nat) : Word :=
  let c := s.core r
  match n with
  | 0 => cstNow s r
  | 1 => c.tvec
  | 2 => c.tpc
  | 3 => c.tcause
  | 4 => c.tval
  | 5 => c.trep
  | 6 => c.qid
  | 7 => c.icount
  | _ => w32 (face s r)

/-- A special register number is assigned. -/
abbrev srOk (n : BitVec 5) : Bool := decide (n.toNat ≤ 8)

/-- The work of MTSR; a write to QID is a QSEL (R319). -/
def mtsrBody (sr : BitVec 5) (ra : Reg) : Body := fun s r =>
  if sr = 6 then qselBody ra s r
  else regsOnly s (if sr.toNat < 6 then [.sr sr ((s.core r).greg ra)] else [])

/-- The work of EVACK: the input's EVP bit is cleared and its busy phase ends (R342). -/
def evackBody (j : BitVec 2) : Body := fun s r =>
  { s := if evpBit s r j.toNat then tiEnd s (tiCore (face s r) j.toNat) else s, reqs := [21, j.toNat], out := .done [] }

/-- The work of a REP prefix: after RETT a latch that is not 0 gives the count (R343, R347). -/
def repBody (m : Bool) (ra : Reg) (cnt : BitVec 10) : Body := fun s r =>
  let c := s.core r
  let n := if m then cnt.toNat + 1 else satTo 65535 (c.greg ra).toNat
  { s := s, out := .rep (if c.resume ≠ 0 then c.resume else n) }

/-- NOP. -/
def execNop (r : Nat) (s : State) : Answer := .next (runInstr s r (encS 0 0 0 0x00) true false fun s _ => regsOnly s [])

/-- WAIT (R341). -/
def execWait (r : Nat) (s : State) : Answer := .next (runInstr s r (encS 0 0 0 0x01) true false waitBody)

/-- SVC (R348). -/
def execSvc (r : Nat) (code : BitVec 10) (s : State) : Answer :=
  .next (runInstr s r (encS 0 0 code.toNat 0x02) true false fun s _ => { s := s, out := .trap 9 (code.setWidth 32) true 0 })

/-- BRK (R348). -/
def execBrk (r : Nat) (code : BitVec 10) (s : State) : Answer :=
  .next (runInstr s r (encS 0 0 code.toNat 0x03) true false fun s _ => { s := s, out := .trap 8 (code.setWidth 32) true 0 })

/-- RETT (R347). -/
def execRett (r : Nat) (s : State) : Answer := .next (runInstr s r (encS 0 0 0 0x04) true false rettBody)

/-- MFSR (R319, R340). -/
def execMfsr (r : Nat) (rd : Reg) (sr : BitVec 5) (s : State) : Answer :=
  .next (runInstr s r (encS rd 0 sr.toNat 0x05) (srOk sr) false fun s r => regsOnly s [.g rd (readSr s r sr.toNat)])

/-- MTSR (R319). -/
def execMtsr (r : Nat) (sr : BitVec 5) (ra : Reg) (s : State) : Answer :=
  .next (runInstr s r (encS 0 ra sr.toNat 0x06) (srOk sr) false (mtsrBody sr ra))

/-- SYNC: completes once every earlier store has landed (R340, R364). -/
def execSync (r : Nat) (s : State) : Answer :=
  .next (runInstr s r (encS 0 0 0 0x09) true false fun s r => regsOnly (drainAll s r) [])

/-- EVACK (R342). -/
def execEvack (r : Nat) (j : BitVec 2) (s : State) : Answer :=
  .next (runInstr s r (encS 0 0 j.toNat 0x0A) true false (evackBody j))

/-- REP: the form that does not use a field requires it to be 0 (R343). -/
def execRep (r : Nat) (m : Bool) (ra : Reg) (cnt : BitVec 10) (s : State) : Answer :=
  .next (runInstr s r (encP ra m cnt) (if m then decide (ra = 0) else decide (cnt = 0)) false (repBody m ra cnt))

/-! Words that are no instruction (R322, R323, R324 to R344) -/

/-- Fields of a word. -/
abbrev wRd (w : Word) : Nat := bits w 25 21
abbrev wRa (w : Word) : Nat := bits w 20 16
abbrev wRb (w : Word) : Nat := bits w 15 11
abbrev wSh (w : Word) : Nat := bits w 10 6
abbrev wFn (w : Word) : Nat := bits w 5 0

/-- Legal words of the ALU group (R324). -/
def aluLegal (w : Word) : Bool :=
  let f := wFn w
  if 0x0C ≤ f ∧ f ≤ 0x0E then decide (wRb w = 0)
  else if 0x1C ≤ f ∧ f ≤ 0x1E then decide (wRb w = 0 ∧ wSh w = 0)
  else decide (f < 0x1C ∧ f ≠ 0x0B ∧ f ≠ 0x0F ∧ f ≠ 0x13 ∧ wSh w = 0)

/-- Legal words of the MAC group (R327). -/
def macLegal (w : Word) : Bool :=
  match wFn w % 32 with
  | 0 | 1 | 2 | 3 | 4 | 8 => decide (wRd w = 0 ∧ wSh w = 0)
  | 5 | 6 => decide (wRd w = 0 ∧ wSh w = 0 ∧ wRa w ≠ wRb w)
  | 9 | 10 => decide (wRa w = 0 ∧ wRb w = 0 ∧ wSh w = 0)
  | 11 => decide (wRa w = 0 ∧ wRb w = 0)
  | 12 => decide (wRd w = 0 ∧ wRa w = 0 ∧ wRb w = 0 ∧ wSh w = 0)
  | _ => false

/-- Legal words of the queue group (R339). -/
def queueLegal (w : Word) : Bool :=
  decide (bits w 15 4 = 0) &&
    match bits w 3 0 with
    | 0 => decide (wRd w = 0)
    | 1 => decide (wRd w = 0 ∧ wRa w % 2 = 0)
    | 2 | 5 | 6 => decide (wRa w = 0)
    | 3 | 7 => decide (wRd w = 0 ∧ wRa w = 0)
    | 4 => decide (wRa w = 0 ∧ wRd w % 2 = 0)
    | _ => false

/-- Legal words of the system group (R319, R340). -/
def sysLegal (w : Word) : Bool :=
  let x := bits w 15 6
  match wFn w with
  | 0 | 1 | 4 | 9 => decide (wRd w = 0 ∧ wRa w = 0 ∧ x = 0)
  | 2 | 3 => decide (wRd w = 0 ∧ wRa w = 0)
  | 5 => decide (wRa w = 0 ∧ x ≤ 8)
  | 6 => decide (wRd w = 0 ∧ x ≤ 8)
  | 7 => decide (wRd w = 0 ∧ x = 0)
  | 8 => decide (x = 0)
  | 10 => decide (wRd w = 0 ∧ wRa w = 0 ∧ x < 4)
  | _ => false

/-- The word is an instruction. -/
def legalWord (w : Word) : Bool :=
  match bits w 31 26 with
  | 0x01 => aluLegal w
  | 0x02 => macLegal w
  | 0x0A => decide (wRa w = 0)
  | 0x15 | 0x16 | 0x17 => decide (wRd w ≠ wRa w)
  | 0x2D => decide (bits w 17 0 = 0)
  | 0x30 => queueLegal w
  | 0x31 => decide (wSh w = 0) && decide (wFn w = 2 ∨ wFn w < 2 ∧ wRb w = 0)
  | 0x38 => sysLegal w
  | 0x3C => decide (bits w 19 10 = 0) && (if bit w 20 then decide (bits w 25 21 = 0) else decide (bits w 9 0 = 0))
  | op => decide (0x04 ≤ op ∧ op ≤ 0x09 ∨ 0x10 ≤ op ∧ op ≤ 0x14 ∨ 0x18 ≤ op ∧ op ≤ 0x1D ∨ 0x20 ≤ op ∧ op ≤ 0x25
      ∨ op = 0x28 ∨ op = 0x29 ∨ op = 0x2C)

/-- ILLEGAL_INSTRUCTION: a word that is none traps, cause 2; for any other word this is not the core's command (log entry 6). -/
def execIllegalInstruction (r : Nat) (w : Word) (s : State) : Answer :=
  .next (if legalWord w then s else runInstr s r w false false fun s _ => regsOnly s [])

/-! Asynchronous traps (R349, R350, R374) -/

/-- The core stands at a boundary where it may take an asynchronous trap. -/
abbrev atBoundary (s : State) (r : Nat) : Bool := canRun s r && bit (s.core r).gov 0

/-- HEDGEROW_EVENT_INPUT_TRAP: cause 14 of the lowest enabled input with an event. -/
def execHedgerowEventInputTrap (r : Nat) (s : State) : Answer :=
  .next (if atBoundary s r then
    match eventCause s r (s.core r).gov with
    | some j => asyncTrap s r 14 (w32 (j + 2 ^ 8 * (s.ti (tiCore (face s r) j)).lastHop))
    | none => s
  else s)

/-- MEADOW_MAILBOX_TRAP: cause 15, after cause 14 (R349). -/
def execMeadowMailboxTrap (r : Nat) (s : State) : Answer :=
  .next (if atBoundary s r && bit (s.core r).gov 12 && mbp s r && (eventCause s r (s.core r).gov).isNone then
    asyncTrap s r 15 0
  else s)

/-! The rest of a core -/

/-- STORE_BUFFER_DRAIN: the oldest entry drains (R361, R362). -/
def execStoreBufferDrain (r : Nat) (s : State) : Answer :=
  .next (if (s.core r).upper then s else (pairOf s r).foldl drainOne s)

/-- CORE_CNT_CLEAR: a write of 1 by a core of role installer or maker (R381, R382). -/
def execCoreCntClear (r : Nat) (s : State) : Answer :=
  .next (privWrite s (face s r) CORE_CNT_CLEAR 1)

/-- A waiting core goes on, with WOKE_AT_ENTRY where sleep and wake were coincident (R341, R454). -/
def wakeCore (s : State) (r : Nat) (woke : Bool) : State :=
  (pairOf s r).foldl (fun s k =>
    s.modCore k fun c => { c with st := .running, cst := if woke then setBits c.cst 14 14 1 else c.cst }) (accrue s (r / 8))

/-- WAIT_WAKE: the wake condition of a waiting core is true (R341, R416, R417, R454). -/
def waitWake (s : State) (r : Nat) : State :=
  let m := r / 8
  let c := s.core r
  if c.st = .waiting ∧ c.upper = false ∧ wakeCond s r = true then
    match (s.meadow m).st with
    | .rest =>
      let cut := decide (s.uptime = (s.meadow m).restAt)
      let s := if cut then coincident s m true else s
      wakeCore (leaveRest s m) r cut
    | .stopping => if (s.meadow m).sleepOff then wakeCore (abandonOff s m) r true else s
    | .active => wakeCore s r false
    | _ => s
  else s

def execWaitWake (t r : Nat) (s : State) : Answer := .next (waitWake (s.reach t) r)

/-! Waits in Memory that end (R118, R399 to R401) -/

/-- The work of an instruction that can wait in Memory, from its word. -/
def bodyOf (w : Word) : Option Body :=
  let rd := regNo (wRd w)
  let ra := regNo (wRa w)
  let rb := regNo (wRb w)
  let imm := BitVec.ofNat 16 (bits w 15 0)
  match bits w 31 26 with
  | 0x02 =>
    if wFn w % 32 = 5 then some (macmBody (decide (32 ≤ wFn w)) ra rb)
    else if wFn w % 32 = 6 then some (msumBody (decide (32 ≤ wFn w)) ra rb)
    else none
  | 0x10 => some (loadBody false 1 sextByte rd ra imm)
  | 0x11 => some (loadBody false 1 id rd ra imm)
  | 0x12 => some (loadBody false 2 sextHalf rd ra imm)
  | 0x13 => some (loadBody false 2 id rd ra imm)
  | 0x14 => some (loadBody false 4 id rd ra imm)
  | 0x15 => some (loadBody true 1 id rd ra imm)
  | 0x16 => some (loadBody true 2 id rd ra imm)
  | 0x17 => some (loadBody true 4 id rd ra imm)
  | 0x18 => some (storeBody false 1 rd ra imm)
  | 0x19 => some (storeBody false 2 rd ra imm)
  | 0x1A => some (storeBody false 4 rd ra imm)
  | 0x1B => some (storeBody true 1 rd ra imm)
  | 0x1C => some (storeBody true 2 rd ra imm)
  | 0x1D => some (storeBody true 4 rd ra imm)
  | 0x2C => some (callBody (BitVec.ofNat 8 (bits w 25 18)) (BitVec.ofNat 18 (bits w 17 0)))
  | 0x2D => some (retBody (BitVec.ofNat 8 (bits w 25 18)))
  | 0x30 =>
    match bits w 3 0 with
    | 1 => some (qputBody ra) | 4 => some (qgetBody rd) | 7 => some qflBody | _ => none
  | 0x31 =>
    match wFn w with
    | 0 => some (tasBody rd ra) | 1 => some (lrBody rd ra) | 2 => some (scBody rd ra rb) | _ => none
  | _ => none

/-- A waiting access is tried again: unless it still waits, its instruction completes as it would have. -/
def retry (s : State) (r : Nat) : State :=
  match (s.core r).hang with
  | none => s
  | some h =>
    match bodyOf h.instr with
    | none => s
    | some body =>
      let t := (pairOf s r).foldl (fun s k => s.modCore k fun c => { c with hang := none }) s
      let t := runBody t r h.instr body
      if (t.core r).hang.isSome then s else t

/-- The wait is for room in a queue, which PUSH_RELEASE ends. -/
abbrev Hang.forRoom : Hang → Bool
  | .push _ _ => true
  | .flush _ => true
  | _ => false

/-- PUSH_RELEASE: a push or flush that waits is taken as soon as there is room (R118, R135). -/
def pushRelease (s : State) (r : Nat) : State :=
  match (s.core r).hang with
  | some h => if h.what.forRoom ∧ (s.core r).upper = false then noteStarved (retry s r) else s
  | none => s

/-- Waits of cores are tried again, in ascending requester number (R54 to R56, R129). -/
def retryAll (s : State) : State :=
  (s.cores.filterMap fun p => if p.2.hang.isSome && !p.2.upper then some p.1 else none).foldl retry s

/-- SENTINEL_FIRE: the waiting access is withdrawn, and the core takes cause 10 (R400). -/
def sentinelFire (s : State) (r : Nat) : State :=
  let w := s.reg .heath 0 (HEATH_SENTINEL + 4 * r)
  let c := s.core r
  match c.hang with
  | some h =>
    if bit w 17 = true ∧ c.upper = false ∧ h.since + bits w 16 0 * 1000 ≤ s.uptime then
      let s := (s.bump .heath 0 (HEATH_SENTINEL_CNT + 4 * r)).bump .meadow (r / 8) MEADOW_CNT_SENTINEL
      let s := (pairOf s r).foldl (fun s k => s.modCore k fun c => { c with hang := none }) s
      sleepJudge (noteStarved (syncTrap s r 10 h.what.tval)) (r / 8)
    else s
  | none => s

end Sys2Proof.Machine
end

