-- ==== Sys2Proof/Machine/Requests.lean ====
section
/-! DEFINITION. Requests from outside: signed requests and unsigned reads on the uplinks and the management target, and debug
access (R3, R523, R554 to R559, R575). -/

namespace Sys2Proof.Machine

/-! Accesses of requesters 256 and above that wait at a seam (R470) -/

/-- An access of the requester waits at the island seam its address lies across, or at an order port that takes no order of its
requester yet (R19, R24). -/
def waitAtSeam (s : State) (req addr : Nat) (v : Option Word) : State :=
  let at_ := islandAt s addr
  let s := if at_.any fun k => decide ((s.seam k).st = .stopped) then s.bumpSeam SEAM_CNT_HANGS else s
  { s with seamWaits := s.seamWaits ++ [⟨at_, req, s.uptime, addr, v⟩] }

/-- One waiting access is performed if its seam lets it. -/
def seamServe (s : State) (w : SeamWait) : State :=
  let x := match w.v with
    | some v => ctlWrite s w.req w.addr v
    | none => ctlRead s w.addr
  let ended := fun (code : Nat) (v : Word) =>
    if awaited x.1 w.req then { x.1 with seamEnds := x.1.seamEnds ++ [⟨w.req, code, v⟩] } else x.1
  match x.2 with
  | .waits => { s with seamWaits := s.seamWaits ++ [w] }
  | .done v => if w.v.isSome then ended (doneOr (decide (v ≠ 0))) 0 else ended cDone v
  | .denied => ended cDenied 0
  | .full => ended cJournalFull 0
  | .absent => ended cAbsent 0

/-- A waiting access comes before those of higher requesters and behind those of its own (R56). -/
def insWait (w : SeamWait) : List SeamWait → List SeamWait
  | [] => [w]
  | x :: xs => if w.req < x.req then w :: x :: xs else x :: insWait w xs

/-- Waiting accesses are tried again in ascending requester number, each requester's oldest first (R56). -/
def seamPump (s : State) : State :=
  (s.seamWaits.foldl (fun l w => insWait w l) []).foldl seamServe { s with seamWaits := [] }

/-! The answer to a request (R554, R556, R559) -/

/-- Bytes of the target's file. -/
def filePut (s : State) (p : Nat) (bs : List Byte) : State := { s with i2c := { s.i2c with file := memWrite s.i2c.file p bs } }

/-- RESPONSE data of a signed request: its code, each action's code and word, and the last RSEQ accepted for the slot. -/
def responseData (s : State) (code : Nat) (outs : List (Nat × Dword)) (slot : Option Nat) : List Byte :=
  b8 code :: outs.flatMap (fun o => b8 o.1 :: leBytes 8 o.2.toNat) ++
    (match slot with | some k => leBytes 8 (tget 0 s.mantle.rseq k) | none => [])

/-- A signed request is answered on the port it came through; `outs` is padded with the actions not run. -/
def answerRequest (s : State) (port code ran : Nat) (outs : List (Nat × Dword)) (slot : Option Nat) : State :=
  let s := { s with signedRole := 0, signedSlot := 0 }
  if port = 410 then
    let s := filePut s 0x20 [b8 code, b8 ran]
    let s := filePut s 0x22 (((outs.map fun (o : Nat × Dword) => b8 o.1) ++ List.replicate 16 (0 : Byte)).take 16)
    let s := filePut s 0x80 (((outs.flatMap fun (o : Nat × Dword) => leBytes 8 o.2.toNat) ++ List.replicate 128 (0 : Byte)).take 128)
    { s with i2c := { s.i2c with resultValid := true } }
  else respond s (port - 400) (responseData s code outs slot)

/-! Judging a signed request (R555, R556) -/

/-- An action's 24 bytes. -/
def reqAct (bs : List Byte) (k : Nat) : ReqAct :=
  { kind := leAt bs (32 + 24 * k) 1, addr := leAt bs (36 + 24 * k) 4, args := slice bs (40 + 24 * k) 16 }

/-- An action is laid out as R555 says. -/
def actOk (bs : List Byte) (k : Nat) : Bool :=
  let a := reqAct bs k
  decide (leAt bs (33 + 24 * k) 3 = 0 ∧ a.addr % 4 = 0 ∧ 0xE0000000 ≤ a.addr ∧ a.addr < 0xF0000000) &&
    match a.kind with
    | 1 => true
    | 2 => (match blkOf a.addr with | some (_, _, off) => decide (off = 0) | none => false)
    | 3 => decide (1 ≤ leAt a.args 0 2 ∧ leAt a.args 0 2 ≤ 64)
    | _ => false

/-- Length of a request with `n` actions. -/
abbrev requestLen (n : Nat) : Nat := 32 + 24 * n + blockSize

/-- The request's bytes, where its layout holds. -/
def requestAt (s : State) (off len : Nat) : Option (List Byte) :=
  let n := leAt (memBytes s.mantle.staging (off + 6) 1) 0 1
  if 1 ≤ n ∧ n ≤ 16 ∧ len = requestLen n ∧ off % 8 = 0 ∧ off + len ≤ stagingSize then
    let bs := memBytes s.mantle.staging off len
    if bs.take 4 = [b8 0x43, b8 0x58, b8 0x52, b8 0x51] ∧ leAt bs 4 2 = 1 ∧ leAt bs 7 1 = 0 ∧ leAt bs 30 2 = 0
        ∧ (List.range n).all (actOk bs) = true then some bs else none
  else none

/-- The signing key slot and role a request's block names. -/
def signerOf (b : List Byte) : Option Nat := blockRsa b

/-- A request is judged: the state after it, its code, and what is to run. -/
def judgeRequest (s : State) (w : ReqWaiting) : State × Nat × Option ReqRun :=
  match requestAt s w.off w.len with
  | none => (s, cBadFormat, none)
  | some bs =>
    let n := leAt bs 6 1
    let m := bs.take (32 + 24 * n)
    let b := bs.drop (32 + 24 * n)
    let seq := leAt bs 16 8
    let slot := signerOf b
    if s.timeSet = false then (s, cNotNow, none)
    else if leAt bs 8 8 ≠ Config.serial.toNat ∨ slot.any (fun k => decide (seq ≤ tget 0 s.mantle.rseq k)) = true
        ∨ leAt bs 24 6 ≤ s.townSec then (s, cMismatch, none)
    else
      let x := verifyPair s m b
      if x.2 then
        let k := slot.getD 0
        let s := x.1.modMantle fun y => { y with rseq := tset 0 y.rseq k seq }
        let s := { s with signedRole := blockRole b, signedSlot := leAt b 5 1 }
        (s, cDone, some { port := w.port, left := (List.range n).map (reqAct bs) })
      else (x.1, cBadSignature, none)

/-! Running its actions -/

/-- The running action has ended. -/
def actEnds (s : State) (q : ReqRun) (code : Nat) (w : Dword) : State :=
  { s with request := some { q with left := if code ≤ cClamped then q.left.drop 1 else [], wait := .none,
                                    outs := q.outs ++ [(code, w)] ++ (if code ≤ cClamped then [] else (q.left.drop 1).map fun _ => (0xFF, 0)) } }

/-- Words of a register read from `addr`; an access that waits ends the list. -/
def readWords : Nat → State → Nat → State × Ends × List Word
  | 0, s, _ => (s, .done 0, [])
  | n + 1, s, addr =>
    let x := ctlRead s addr
    match x.2 with
    | .done v =>
      let y := readWords n x.1 (addr + 4)
      (y.1, y.2.1, v :: y.2.2)
    | e => (x.1, e, [])

/-- The first address of a register read whose access waits. -/
def waitingAddr (s : State) (addr n : Nat) : Nat :=
  ((List.range n).find? fun k => match (ctlRead s (addr + 4 * k)).2 with | .waits => true | _ => false).elim addr
    fun k => addr + 4 * k

/-- One action begins. -/
def actBegin (s : State) (q : ReqRun) (a : ReqAct) : State :=
  let held := fun (v : Option Word) (at_ : Nat) =>
    match islandAt s at_ with
    | some _ => { waitAtSeam s q.port at_ v with request := some { q with wait := .access } }
    | none => s
  match a.kind with
  | 1 =>
    let v := w32 (leAt a.args 0 4)
    let x := ctlWrite s q.port a.addr v
    (match x.2 with
    | .done c => actEnds x.1 q (doneOr (decide (c ≠ 0))) 0
    | .denied => actEnds x.1 q cDenied 0
    | .full => actEnds x.1 q cJournalFull 0
    | .absent => actEnds x.1 q cAbsent 0
    | .waits => held (some v) a.addr)
  | 2 =>
    (match blkOf a.addr with
    | some (b, i, _) =>
      if orderStalls s b i q.port then s
      else
        let wd := fun k => w32 (leAt a.args (4 * k) 4)
        let s := (List.range 4).foldl (fun s k => s.setStaged b i q.port k (wd k)) s
        let x := descOf q.port (wd 0) (wd 1) (wd 2) (wd 3)
        submitFree { s with request := some { q with wait := .order } } b i x.1 x.2
    | none => actEnds s q cBadFormat 0)
  | _ =>
    let n := leAt a.args 0 2
    let x := readWords n s a.addr
    (match x.2.1 with
    | .done _ => actEnds x.1 q cDone (d64 ((x.2.2.getD 0 0).toNat + 2 ^ 32 * (x.2.2.getD 1 0).toNat))
    | .waits => held none (waitingAddr s a.addr n)
    | _ => actEnds x.1 q cAbsent 0)

/-- An order of the port has been submitted and its completion may still come. -/
def orderPending (s : State) (req : Nat) : Bool :=
  (s.orders ++ s.orderQ).any (fun o => decide (o.d.req = req)) || s.heldComps.any fun h => decide (h.req = req)

/-- The running action goes on: an order's completion is taken from the port's queue, a waiting access's answer is taken. -/
def actWait (s : State) (q : ReqRun) (a : ReqAct) : State :=
  match q.wait with
  | .none => actBegin s q a
  | .order =>
    let c := compQ q.port
    if orderPending s q.port ∧ ((s.queue c).pkts = [] ∨ qAvail s c = false) then s
    else
      let x := hwTake s c
      (match x.2 with
      | some ws => let w := ws.getD 1 0; actEnds x.1 q (bits w 7 0) w
      | none => actEnds x.1 q 0xFF 0)
  | .access =>
    match s.seamEnds.find? fun e => decide (e.req = q.port) with
    | none => s
    | some e =>
      let s := { s with seamEnds := s.seamEnds.erase e }
      if a.kind = 3 ∧ e.code = cDone then { s with request := some { q with wait := .none } }
      else actEnds s q e.code 0

/-- One step of the request engine. -/
def requestStep (s : State) : State :=
  match s.request with
  | some q =>
    (match q.left with
    | a :: _ => actWait s q a
    | [] =>
      let s' := { s with request := none }
      answerRequest s' q.port cDone (q.outs.filter fun o => decide (o.1 ≠ 0xFF)).length q.outs
        (slotIndex s.signedRole s.signedSlot))
  | none =>
    match s.requests with
    | [] => s
    | w :: ws =>
      let s' := { s with requests := ws }
      let serves := decide (s.mantle.st = 3) || (decide (s.mantle.st = 4) && decide (w.port = 410))
      if serves then
        let x := judgeRequest s' w
        match x.2.2 with
        | some q => { x.1 with request := some q }
        | none => answerRequest x.1 w.port x.2.1 0 [] none
      else if (s.dom 49).st = .starting ∨ (s.domOn 49 = true ∧ s.mantle.st = 2) then
        if w.since + 300000000 ≤ s.uptime then answerRequest s' w.port cNotNow 0 [] none else s
      else answerRequest s' w.port cAbsent 0 [] none

/-- Requests go on as far as they can. -/
def requestPump (s : State) : State :=
  let n := match s.request with | some q => q.left.length | none => 0
  foldTo (2 * n + 1 + 36 * s.requests.length) (fun s _ => requestStep s) s

/-- SUBMIT by a port, whose requester number it is given as; up to 8 wait on each (R556). -/
def takeRequest (s : State) (port off len : Nat) : State :=
  if 8 ≤ (s.requests.filter fun w => decide (w.port = port)).length then answerRequest s port cNotNow 0 [] none
  else { s with requests := s.requests ++ [⟨port, off, len, s.uptime⟩] }

/-! The uplinks' unsigned requests (R554, R557) -/

/-- An open register. -/
def openReg (addr : Nat) : Bool :=
  match named addr with
  | none => false
  | some (b, _, d, _) =>
    decide (d.off = BLOCK_ID ∨ d.off = BLOCK_STATE) ||
      match b with
      | .heath => decide (d.off = HEATH_DEV_STATE ∨ d.off = HEATH_TB_SEC_LO ∨ d.off = HEATH_TB_SEC_HI ∨ d.off = HEATH_TB_NS
          ∨ d.off = HEATH_TB_STATUS)
      | .mantle => decide (d.off = MANTLE_SEC_STATUS ∨ d.off = MANTLE_DEV_SERIAL_LO ∨ d.off = MANTLE_DEV_SERIAL_HI
          ∨ d.off = MANTLE_DEV_FPR ∨ d.off = MANTLE_JR_SEQ_LO ∨ d.off = MANTLE_JR_SEQ_HI ∨ d.off = MANTLE_JR_CHAIN)
      | .stat => decide (d.off = FLT_STATUS ∨ d.off = STAT_PERIOD)
      | _ => false

/-- An unsigned read of one word: its code and value. -/
def openRead (s : State) (addr : Nat) : State × Nat × Word :=
  if openReg addr then
    let x := ctlRead s addr
    match x.2 with
    | .done v => (x.1, cDone, v)
    | _ => (x.1, cAbsent, 0)
  else (s, cDenied, 0)

/-- Unsigned reads of consecutive words. -/
def openReads : Nat → State → Nat → State × List (Nat × Word)
  | 0, s, _ => (s, [])
  | n + 1, s, addr =>
    let x := openRead s addr
    let y := openReads n x.1 (addr + 4)
    (y.1, x.2 :: y.2)

/-- READ on an uplink, at most READ_RATE in a second. -/
def uplRead (s : State) (n addr count : Nat) : State :=
  if mgmtHears s n = false then s
  else
    let s := s.bump .upl n UPL_CNT_MGMT_REQ
    let sec := s.uptime / 1000000000
    let u := s.upl n
    let used := if u.readSec = sec then u.readCount else 0
    if s.rbit .upl n UPL_MGMT 1 = false ∨ s.fld .upl n UPL_MGMT 15 8 ≤ used ∨ count = 0 ∨ 64 < count ∨ addr % 4 ≠ 0 then
      mgmtDenied s n
    else
      let s := s.modUpl n fun u => { u with readSec := sec, readCount := used + 1 }
      let x := openReads count s addr
      let code := if x.2.any fun e => decide (e.1 = cDenied) then cDenied
        else if x.2.any fun e => decide (e.1 = cAbsent) then cAbsent else cDone
      respond x.1 n (b8 code :: x.2.flatMap fun e => leBytes 4 e.2.toNat)

/-- SUBMIT on an uplink or, with requester 410, from the management target. -/
def submitRequest (s : State) (port off len : Nat) : State :=
  if port = 410 then takeRequest s 410 off len
  else if port < 4 then
    if mgmtHears s port then takeRequest (s.bump .upl port UPL_CNT_MGMT_REQ) (400 + port) off len else s
  else s

/-! The management target (R558, R559) -/

/-- Bytes [lo, lo + n) of the file as a number. -/
abbrev fileNat (s : State) (lo n : Nat) : Nat := leNat (memBytes s.i2c.file lo n)

/-- RD_ADDR is written, its last byte last, which starts an unsigned read; while BUSY it is not acknowledged. -/
def rdAddrWrite (s : State) (addr : Word) : State :=
  if i2cBusy s then s
  else
    let s := filePut s 0x04 (leBytes 4 addr.toNat)
    if addr.toNat % 4 ≠ 0 then filePut s 0x08 (leBytes 4 0 ++ [b8 cDenied])
    else
      let x := openRead s addr.toNat
      filePut x.1 0x08 (leBytes 4 x.2.2.toNat ++ [b8 x.2.1])

/-- STG_OFF, whose bits [2:0] read 0. -/
abbrev stgOff (s : State) : Nat := fileNat s 0x10 3 / 8 * 8

/-- Eight bytes go to staging at STG_OFF, which advances; nothing is stored while Mantle does not run. -/
def stgFlush (s : State) (bs : List Byte) : State :=
  let at_ := stgOff s
  let s := filePut s 0x10 (leBytes 3 (at_ + 8))
  if mantleRuns s = true ∧ at_ + 8 ≤ stagingSize then
    s.modMantle fun m => { m with staging := memWrite m.staging at_ bs }
  else s

/-- Bytes written to STG_DATA one after another. -/
def stgBytes : List Byte → State → State
  | [], s => s
  | b :: bs, s =>
    let buf := s.i2c.buf ++ [b]
    if buf.length < 8 then stgBytes bs { s with i2c := { s.i2c with buf := buf } }
    else stgBytes bs (stgFlush { s with i2c := { s.i2c with buf := [] } } buf)

/-- STG_DATA is written, STG_OFF before it where the command names it. -/
def stgDataWrite (s : State) (off : Option (BitVec 24)) (bs : List Byte) : State :=
  let s := match off with | some o => filePut s 0x10 (leBytes 3 (o.toNat / 8 * 8)) | none => s
  if i2cBusy s then s else stgBytes bs s

/-- SUB_OFF and SUB_LEN are written; the last byte of SUB_LEN submits the request. -/
def subLenWrite (s : State) (off : BitVec 24) (len : Word) : State :=
  let s := filePut s 0x18 (leBytes 3 off.toNat)
  if i2cBusy s then s
  else
    let s := filePut s 0x1C (leBytes 4 len.toNat)
    let s := { s with i2c := { s.i2c with resultValid := false } }
    takeRequest s 410 off.toNat len.toNat

/-! Debug access (R369, R394, R397, R523, R575) -/

/-- What a debug instruction captures: its data, and status bits whose values the spec does not give. -/
def captured (s : State) (data : Word) : State :=
  { s.draw with debugOut := BitVec.ofNat 34 (data.toNat * 4 + s.drawn.toNat % 4) }

/-- It captures data the spec does not give. -/
def capturedFree (s : State) : State := captured s.draw (w32 s.drawn.toNat)

/-- LOCKED. -/
def capturedLocked (s : State) : State := { s with debugOut := 2 }

/-- The scope of what is unlocked: cores, and memory with control space. -/
def debugScope (s : State) (mem : Bool) : Bool :=
  if s.claimed then s.liveToken.any fun t => if mem then t.mem else t.cores else true

/-- Cores halt at the boundary after the instruction last completed. -/
def debugHalt (s : State) (r : Nat) : State :=
  let c := s.core r
  match c.st with
  | .running | .waiting | .vectorStop | .lockstepStop =>
    if c.hang.isSome then s
    else (pairOf s r).foldl (fun s k => s.modCore k fun x => { x.flush with st := .debugHalt }) (accrue s (r / 8))
  | _ => s

def debugResume (s : State) (r : Nat) : State :=
  if (s.core r).st = .debugHalt then (pairOf s r).foldl (fun s k => s.modCore k fun x => { x with st := .running }) s else s

abbrev halted (s : State) (r : Nat) : Bool := decide ((s.core r).st = .debugHalt)

/-- A word of a halted core's local SRAM. -/
def debugReadLocal (s : State) (r a : Nat) : State :=
  if halted s r ∧ a + 4 ≤ localSize then
    let x := localCheck (drainAll s r) r a false
    if x.2 then capturedFree x.1 else captured x.1 (w32 (leNat (memBytes (x.1.core r).sram (a / 4 * 4) 4)))
  else capturedFree s

def debugWriteLocal (s : State) (r a : Nat) (v : Word) : State :=
  if halted s r ∧ a + 4 ≤ localSize then
    let s := localPut (drainAll s r) r (a / 4 * 4) (leBytes 4 v.toNat)
    capturedFree (if (s.core r).rsv = some (a / 16 * 16) then dropRsv s r else s)
  else capturedFree s

/-- A word of meadow SRAM or of control space. -/
def debugRead (s : State) (a : Nat) : State :=
  let a := a / 4 * 4
  match place 411 a with
  | .sram m off =>
    if a < 0x10000000 then capturedFree s
    else
      let x := sramLoad s 411 (s.roleOf 411) m off 4
      (match x.2 with | .done bs => captured x.1 (w32 (leNat bs)) | _ => capturedFree x.1)
  | .ctl =>
    let x := ctlRead s a
    (match x.2 with
    | .done v => captured x.1 v
    | .waits => waitAtSeam s 411 a none
    | _ => capturedFree x.1)
  | _ => capturedFree s

def debugWrite (s : State) (a : Nat) (v : Word) : State :=
  let a := a / 4 * 4
  match place 411 a with
  | .sram m off =>
    if a < 0x10000000 then capturedFree s
    else capturedFree (sramStore s 411 (s.roleOf 411) m off (leBytes 4 v.toNat)).1
  | .ctl =>
    let x := ctlWrite s 411 a v
    (match x.2 with
    | .waits => waitAtSeam s 411 a (some v)
    | _ => capturedFree x.1)
  | _ => capturedFree s

/-- A word is popped from debug access's completion queue (R19). -/
def debugPop (s : State) : State :=
  let x := qGet s 411 (compQ 411)
  match x.2 with
  | .item w => capturedFree { x.1 with debugWord := w }
  | .poisoned _ _ => capturedFree { x.1.draw with debugWord := d64 x.1.drawn.toNat }

/-- One debug instruction. -/
def debugStep (s : State) (op : DebugOp) : State :=
  let mem := match op with | .readMem _ | .writeMem _ _ | .popCompletion => true | _ => false
  if debugUnlocked s = false ∨ debugScope s mem = false then capturedLocked s
  else
    match op with
    | .halt r => capturedFree (if r < 256 then debugHalt s r else s)
    | .resume r => capturedFree (debugResume s r)
    | .readReg r g => if halted s r then captured s ((s.core r).greg g) else capturedFree s
    | .writeReg r g v => capturedFree (if halted s r then s.modCore r fun c => c.commit (.g g v) else s)
    | .readLocal r a => debugReadLocal s r a
    | .writeLocal r a v => debugWriteLocal s r a v
    | .readMem a => debugRead s a
    | .writeMem a v => debugWrite s a v
    | .popCompletion => debugPop s

/-- The answer of a waiting debug access is captured. -/
def debugPump (s : State) : State :=
  match s.seamEnds.find? fun e => decide (e.req = 411) with
  | none => s
  | some e =>
    let s := { s with seamEnds := s.seamEnds.erase e }
    if e.code = cDone then captured s e.v else capturedFree s

end Sys2Proof.Machine
end

