-- ==== Sys2Proof/Machine/Settle.lean ====
section
/-! DEFINITION. What goes on by itself once a command has had its effect: packets that waited for room, accesses that waited at a
seam, orders, requests and waiting core accesses go on as far as they can. -/

namespace Sys2Proof.Machine

/-- An input that marks the journal is busy with an order. -/
def marksBusy (s : State) : Bool :=
  (List.range 4).any fun k => decide ((s.ti (tiMark k)).phase = .busy) && !(s.ti (tiMark k)).due

/-- Nothing waits that could go on by itself. -/
def quiet (s : State) : Bool :=
  s.orderQ.isEmpty && s.seamWaits.isEmpty && s.seamEnds.isEmpty && s.request.isNone && s.requests.isEmpty
    && s.mantle.fragOrder.isNone && s.mantle.waiting.isEmpty && !marksBusy s
    && s.upls.all (fun p => p.2.rxHeld.isEmpty) && s.cores.all fun p => p.2.hang.isNone

/-- One round, in ascending requester number: cores, accesses of requesters 256 and above, uplinks (R54 to R56). -/
def settleOnce (s : State) : State :=
  let s := if quiet s then s
    else debugPump (requestPump (orderPump (foldTo 4 rxDrain (seamPump (retryAll s)))))
  let s := if s.starved.any fun p => p.2 then noteStarved s else s
  if s.faultDue.isEmpty then s else Machine.raiseDue s

/-- What goes on by itself, as far as it can (DESIGN CHOICE: in this order, log entry 43). -/
def settle (s : State) : State := foldTo 4 (fun s _ => settleOnce s) s

/-- The answer of a command: its effect, and what follows from it by itself. -/
abbrev answer (s : State) : Answer := .next (settle s)

/-- The answer of a command that carries an instant: time reaches the instant first (log entry 2). -/
abbrev answerAt (s : State) (t : Nat) (f : State → State) : Answer := answer (f (s.reach t))

/-- `s` where the operands name no such thing: the command has no effect. -/
abbrev within (c : Bool) (s t : State) : State := if c then t else s

end Sys2Proof.Machine
end

