-- ==== Sys2Proof/Machine/CmdRegs.lean ====
section
/-! DEFINITION. Register writes, held completions and held orders (R6, R13, R22, R24). -/

namespace Sys2Proof.Machine

/-- A write of the requester. A write that waits at a seam waits there if its requester is not a core; a core sends it again
(R470). -/
def cmdWrite (s : State) (req addr : Nat) (v : Word) : State :=
  let x := ctlWrite s req addr v
  if x.2 = .waits then if 256 ≤ req then waitAtSeam s req addr (some v) else s else x.1

/-- REGISTER_WRITE (R6). -/
def execRegisterWrite (req : Nat) (addr : Nat) (v : Word) (s : State) : Answer :=
  answer (cmdWrite s req (addr) v)

/-- CLAMP_LOG_CLEAR (R13). -/
def execClampLogClear (req : Nat) (blk : Blk) (inst : Nat) (s : State) : Answer :=
  answer (within (decide (inst < (blkWindow blk).2.2)) s (cmdWrite s req (regAddr blk inst BLOCK_CLAMP_LOG) 0x80000000))

/-- COMPLETION_COMMIT (R24). -/
def execCompletionCommit (req : Nat) (s : State) : Answer :=
  answer (commitHeld s req)

/-- HELD_ORDER_RECHECK (R22). -/
def execHeldOrderRecheck (req : Nat) (s : State) : Answer :=
  answer (recheck s req)

end Sys2Proof.Machine
end

