-- ==== Sys2Proof/Machine/CmdLane.lean ====
section
/-! DEFINITION. The lanes: frames, the links, enumeration, commands and orders (R63 to R106). -/

namespace Sys2Proof.Machine

/-- The frame is the row's to take: its header's TYPE and an ENUM's subtype are the row's, or no upstream ones. -/
def rowFrame (type sub : Nat) (f : RxFrame) : Bool :=
  let up := [1, 2, 3, 5, 6, 7, 8, 0xB]
  let b0 := leAt f.payload 0 1
  if rxType f = type then decide (type ≠ 0xB ∨ b0 = sub ∨ b0 ∉ [2, 4, 6]) else decide (rxType f ∉ up)

/-- DATA_RX (R66). -/
def execDataRx (t : Nat) (lane : Nat) (f : RxFrame) (s : State) : Answer :=
  answerAt s t fun s => within (decide (lane < 144) && rowFrame 1 0 f) s (receive s lane (rxType f) f)

/-- DET_RX (R192). -/
def execDetRx (t : Nat) (lane : Nat) (f : RxFrame) (s : State) : Answer :=
  answerAt s t fun s => within (decide (lane < 144) && rowFrame 2 0 f) s (receive s lane (rxType f) f)

/-- FLT_RX (R284). -/
def execFltRx (t : Nat) (lane : Nat) (f : RxFrame) (s : State) : Answer :=
  answerAt s t fun s => within (decide (lane < 144) && rowFrame 3 0 f) s (receive s lane (rxType f) f)

/-- RSP_RX (R81). -/
def execRspRx (t : Nat) (lane : Nat) (f : RxFrame) (s : State) : Answer :=
  answerAt s t fun s => within (decide (lane < 144) && rowFrame 5 0 f) s (receive s lane (rxType f) f)

/-- ID_RX (R254). -/
def execIdRx (t : Nat) (lane : Nat) (f : RxFrame) (s : State) : Answer :=
  answerAt s t fun s => within (decide (lane < 144) && rowFrame 6 0 f) s (receive s lane (rxType f) f)

/-- ENERGY_RX (R254). -/
def execEnergyRx (t : Nat) (lane : Nat) (f : RxFrame) (s : State) : Answer :=
  answerAt s t fun s => within (decide (lane < 144) && rowFrame 7 0 f) s (receive s lane (rxType f) f)

/-- STATUS_RX (R184). -/
def execStatusRx (t : Nat) (lane : Nat) (f : RxFrame) (s : State) : Answer :=
  answerAt s t fun s => within (decide (lane < 144) && rowFrame 8 0 f) s (receive s lane (rxType f) f)

/-- ENUM_REPORT_RX (R72). -/
def execEnumReportRx (t : Nat) (lane : Nat) (f : RxFrame) (s : State) : Answer :=
  answerAt s t fun s => within (decide (lane < 144) && rowFrame 0xB 2 f) s (receive s lane (rxType f) f)

/-- ENUM_ACK_RX (R74). -/
def execEnumAckRx (t : Nat) (lane : Nat) (f : RxFrame) (s : State) : Answer :=
  answerAt s t fun s => within (decide (lane < 144) && rowFrame 0xB 4 f) s (receive s lane (rxType f) f)

/-- DELAY_ACK_RX (R71). -/
def execDelayAckRx (t : Nat) (lane : Nat) (f : RxFrame) (s : State) : Answer :=
  answerAt s t fun s => within (decide (lane < 144) && rowFrame 0xB 6 f) s (receive s lane (rxType f) f)

/-- BULK_FILE_RELEASE (R85). -/
def execBulkFileRelease (t : Nat) (lane : Nat) (s : State) : Answer :=
  answerAt s t fun s => within (decide (lane < 144)) s (drainLane s lane)

/-- CREDIT_STALL_TIMER (R85). -/
def execCreditStallTimer (t : Nat) (lane : Nat) (s : State) : Answer :=
  answerAt s t fun s => within (decide (lane < 144)) s (stallTimer s lane)

/-- CREDIT_SEND (R84). -/
def execCreditSend (t : Nat) (lane : Nat) (s : State) : Answer :=
  answerAt s t fun s => within (decide (lane < 144)) s (creditServe s lane)

/-- SYNC_SEND (R91). -/
def execSyncSend (t : Nat) (lane : Nat) (s : State) : Answer :=
  answerAt s t fun s => within (decide (lane < 144)) s (syncServe s lane)

/-- SYNC_NOW (R91). -/
def execSyncNow (t : Nat) (lane : Nat) (s : State) : Answer :=
  answerAt s t fun s => within (decide (lane < 144)) s (Machine.syncNow s lane)

/-- ENUM_WINDOW_CLOSE (R72). -/
def execEnumWindowClose (t : Nat) (lane : Nat) (s : State) : Answer :=
  answerAt s t fun s => within (decide (lane < 144)) s (enumClose s lane)

/-- SWEEP_TIMER (R75). -/
def execSweepTimer (t : Nat) (lane : Nat) (s : State) : Answer :=
  answerAt s t fun s => within (decide (lane < 144)) s (Machine.sweepTimer s lane)

/-- SWEEP_NOW (R75). -/
def execSweepNow (t : Nat) (lane : Nat) (s : State) : Answer :=
  answerAt s t fun s => within (decide (lane < 144)) s (Machine.sweepNow s lane)

/-- CMD_SEND (R79). -/
def execCmdSend (t : Nat) (lane : Nat) (s : State) : Answer :=
  answerAt s t fun s => within (decide (lane < 144)) s (cmdStart s lane)

/-- CMD_TIMEOUT (R80). -/
def execCmdTimeout (t : Nat) (lane : Nat) (tag : Nat) (s : State) : Answer :=
  answerAt s t fun s => within (decide (lane < 144)) s (cmdExpire s lane tag)

/-- TAG_QUARANTINE_END (R80). -/
def execTagQuarantineEnd (t : Nat) (lane : Nat) (tag : Nat) (s : State) : Answer :=
  answerAt s t fun s => within (decide (lane < 144)) s (tagFree s lane tag)

/-- RELEASE_REPORT_TIMEOUT (R95). -/
def execReleaseReportTimeout (t : Nat) (lane : Nat) (n : Nat) (s : State) : Answer :=
  answerAt s t fun s => within (decide (lane < 144 ∧ 1 ≤ n ∧ n ≤ 128)) s (releaseTimeout s lane n)

/-- LINK_UP (R94). -/
def execLinkUp (t : Nat) (lane : Nat) (has24 : Bool) (has10 : Bool) (s : State) : Answer :=
  answerAt s t fun s => within (decide (lane < 144)) s (Machine.linkUp s lane has24 has10)

/-- LINK_DOWN (R94). -/
def execLinkDown (t : Nat) (lane : Nat) (s : State) : Answer :=
  answerAt s t fun s => within (decide (lane < 144)) s (Machine.linkDown s lane)

/-- LINK_ATTEMPT_TIMEOUT (R94). -/
def execLinkAttemptTimeout (t : Nat) (lane : Nat) (s : State) : Answer :=
  answerAt s t fun s => within (decide (lane < 144)) s (linkRetry s lane)

/-- LANE_START (R95). -/
def execLaneStart (lane : Nat) (d : Desc) (s : State) : Answer :=
  answer (within (decide (lane < 144)) s (submit s .lane lane 1 d {}))

/-- LANE_STOP (R95). -/
def execLaneStop (lane : Nat) (d : Desc) (s : State) : Answer :=
  answer (within (decide (lane < 144)) s (submit s .lane lane 2 d {}))

/-- LANE_ENUMERATE (R95). -/
def execLaneEnumerate (lane : Nat) (d : Desc) (s : State) : Answer :=
  answer (within (decide (lane < 144)) s (submit s .lane lane 3 d {}))

/-- SEND_CMD (R95). -/
def execSendCmd (lane : Nat) (d : Desc) (s : State) : Answer :=
  answer (within (decide (lane < 144)) s (submit s .lane lane 4 d {}))

/-- SET_STREAM (R89). -/
def execSetStream (lane : Nat) (d : Desc) (s : State) : Answer :=
  answer (within (decide (lane < 144)) s (submit s .lane lane 5 d {}))

/-- RELEASE_NODE (R95). -/
def execReleaseNode (lane : Nat) (d : Desc) (s : State) : Answer :=
  answer (within (decide (lane < 144)) s (submit s .lane lane 6 d {}))

/-- LINE_TDR (R283). -/
def execLineTdr (lane : Nat) (d : Desc) (result : Word) (s : State) : Answer :=
  answer (within (decide (lane < 144)) s (submit s .lane lane 7 d { tdr := result }))

/-- LANE_COUNTERS_CLEAR (R106). -/
def execLaneCountersClear (lane : Nat) (d : Desc) (s : State) : Answer :=
  answer (within (decide (lane < 144)) s (submit s .lane lane 8 d {}))

/-- LANE_ENERGY_DETECT (R92). -/
def execLaneEnergyDetect (t : Nat) (seen : LaneEnergy) (s : State) : Answer :=
  answerAt s t fun s => within (decide (seen.lane < 144)) s (energyDetect s seen.lane seen.mv seen.ns)

/-- LANE_WAKE_PATTERN (R92). -/
def execLaneWakePattern (t : Nat) (seen : LaneSymbols) (s : State) : Answer :=
  answerAt s t fun s => within (decide (seen.lane < 144)) s (patternDetect s seen.lane seen.plus seen.minus)

/-- FRAME_LEFT (R95). -/
def execFrameLeft (t : Nat) (lane : Nat) (s : State) : Answer :=
  answerAt s t fun s => within (decide (lane < 144)) s (frameDone s lane)

/-- ENUM_ACK_TIMEOUT (R71). -/
def execEnumAckTimeout (t : Nat) (lane : Nat) (n : Nat) (s : State) : Answer :=
  answerAt s t fun s => within (decide (lane < 144 ∧ 1 ≤ n ∧ n ≤ 128)) s (Machine.enumAckTimeout s lane n)

end Sys2Proof.Machine
end

