-- ==== Sys2Proof/Machine/CmdSwath.lean ====
section
/-! DEFINITION. The swath engines: level frames, holds, entries, overrides and the calendar (R178 to R205). -/

namespace Sys2Proof.Machine

/-- The offset of a lane's or, from 1 on, a node's override register. -/
def ovrOff (node : Nat) (isEnd : Bool) : Nat :=
  if node = 0 then if isEnd then LANE_OVR_END else LANE_OVR
  else (if isEnd then LANE_SW_NODE_OVR_END else LANE_SW_NODE_OVR) + 0x40 * (node - 1)

/-- RAISE_FRAME_SEND (R178). -/
def execRaiseFrameSend (t : Nat) (lane : Nat) (s : State) : Answer :=
  answerAt s t fun s => within (decide (lane < 144)) s (raiseSend s lane)

/-- GATHER_WINDOW_CLOSE (R179). -/
def execGatherWindowClose (t : Nat) (lane : Nat) (s : State) : Answer :=
  answerAt s t fun s => within (decide (lane < 144)) s (gatherClose s lane)

/-- GATHER_CAP_RELEASE (R180). -/
def execGatherCapRelease (t : Nat) (lane : Nat) (s : State) : Answer :=
  answerAt s t fun s => within (decide (lane < 144)) s (gatherRelease s lane)

/-- CATCHUP_FRAME_SEND (R31). -/
def execCatchupFrameSend (t : Nat) (lane : Nat) (s : State) : Answer :=
  answerAt s t fun s => within (decide (lane < 144)) s (catchupSend s lane)

/-- HOLD_EXPIRY (R194). -/
def execHoldExpiry (t : Nat) (lane : Nat) (s : State) : Answer :=
  answerAt s t fun s => within (decide (lane < 144)) s (holdExpire s lane)

/-- FADE_END (R194). -/
def execFadeEnd (t : Nat) (lane : Nat) (s : State) : Answer :=
  answerAt s t fun s => within (decide (lane < 144)) s (Machine.fadeEnd s lane)

/-- ENTRY (R196). -/
def execEntry (t : Nat) (lane : Nat) (k : Nat) (s : State) : Answer :=
  answerAt s t fun s => within (decide (lane < 144)) s (entryServe s lane k)

/-- OVERRIDE_END (R205). -/
def execOverrideEnd (t : Nat) (lane : Nat) (s : State) : Answer :=
  answerAt s t fun s => within (decide (lane < 144)) s (overrideServe s lane)

/-- CALENDAR_OCCURRENCE (R188). -/
def execCalendarOccurrence (t : Nat) (lane : Nat) (s : State) : Answer :=
  answerAt s t fun s => within (decide (lane < 144)) s (calendarServe s lane)

/-- SUN_COMPUTE (R187). -/
def execSunCompute (t : Nat) (lane : Nat) (s : State) : Answer :=
  answerAt s t fun s => within (decide (lane < 144)) s (sunServe s lane)

/-- SW_PARAM_WRITE (R203). -/
def execSwParamWrite (req : Nat) (lane : Nat) (second : Bool) (v : Word) (s : State) : Answer :=
  answer (within (decide (lane < 144)) s (cmdWrite s req (regAddr .lane lane (if second then LANE_SW_PARAM2 else LANE_SW_PARAM)) v))

/-- SW_LIMIT_WRITE (R203). -/
def execSwLimitWrite (req : Nat) (lane : Nat) (v : Word) (s : State) : Answer :=
  answer (within (decide (lane < 144)) s (cmdWrite s req (regAddr .lane lane LANE_SW_LIMIT) v))

/-- OVERRIDE_WRITE (R204). -/
def execOverrideWrite (req : Nat) (lane : Nat) (node : Nat) (isEnd : Bool) (v : Word) (s : State) : Answer :=
  answer (within (decide (lane < 144 ∧ node ≤ 128)) s (cmdWrite s req (regAddr .lane lane (ovrOff node isEnd)) v))

end Sys2Proof.Machine
end

