-- ==== Sys2Proof/Machine/CmdHedge.lean ====
section
/-! DEFINITION. Hedgerow (R215 to R244). -/

namespace Sys2Proof.Machine

/-- PRODUCER_FIRE (R215). -/
def execProducerFire (events : List (Nat × Nat)) (s : State) : Answer :=
  answer (s.fire events)

/-- TASK_END (R229). -/
def execTaskEnd (t : Nat) (ti : Nat) (s : State) : Answer :=
  answerAt s t fun s => within (decide (ti < 2880)) s (tiEnd s ti)

/-- REFRACTORY_END (R229). -/
def execRefractoryEnd (t : Nat) (ti : Nat) (s : State) : Answer :=
  answerAt s t fun s => within (decide (ti < 2880)) s (tiRefractoryEnd s ti)

/-- HEDGE_DELAY_IN (R239). -/
def execHedgeDelayIn (t : Nat) (k : Nat) (s : State) : Answer :=
  answerAt s t fun s => within (decide (k < 16)) s (delayStart s k)

/-- HEDGE_DELAY_EXPIRY (R239). -/
def execHedgeDelayExpiry (t : Nat) (k : Nat) (s : State) : Answer :=
  answerAt s t fun s => within (decide (k < 16)) s (delayEnd s k)

/-- HEDGE_SW_FIRE (R227). -/
def execHedgeSwFire (req : Nat) (v : Word) (s : State) : Answer :=
  answer (cmdWrite s req (regAddr .hedge 0 HEDGE_SW_FIRE) v)

/-- SELECTOR_WRITE (R222). -/
def execSelectorWrite (req : Nat) (task : Bool) (i : Nat) (v : Word) (s : State) : Answer :=
  answer (within (decide (i < if task then 2880 else 2352)) s (cmdWrite s req (regAddr .hedge 0 ((if task then HEDGE_TSEL else HEDGE_PSEL) + 4 * i)) v))

/-- CHANNEL_WRITE (R223). -/
def execChannelWrite (req : Nat) (c : Nat) (v : Word) (s : State) : Answer :=
  answer (within (decide (c < 2048)) s (cmdWrite s req (regAddr .hedge 0 (HEDGE_CHAN + 4 * c)) v))

/-- HC2_REPORT (R235). -/
def execHc2Report (t : Nat) (s : State) : Answer :=
  answerAt s t fun s => hc2Serve s

/-- CLEAR_PENDING (R232). -/
def execClearPending (d : Desc) (s : State) : Answer :=
  answer (submit s .hedge 0 2 d {})

/-- HEDGE_COUNTERS_CLEAR (R244). -/
def execHedgeCountersClear (d : Desc) (s : State) : Answer :=
  answer (submit s .hedge 0 1 d {})

/-- JOURNAL_MARK_INPUT (R219). -/
def execJournalMarkInput (t : Nat) (k : Nat) (s : State) : Answer :=
  answerAt s t fun s => journalMark s k

end Sys2Proof.Machine
end

