-- ==== Sys2Proof/Machine/CmdQueue.lean ====
section
/-! DEFINITION. The queue engine, the memory channels and packets of hardware producers (R118 to R175). -/

namespace Sys2Proof.Machine

/-- A hardware producer's packet as it assembles it: its LEN, SOURCE and reserved bits are those of R120. In a raw-word class the
words have no header (R127). -/
def hwPacket (s : State) (req q : Nat) : List Dword → List Dword
  | [] => []
  | h :: ws =>
    if isRaw s q then h :: ws else mkHeader (bits h 7 0) ws.length (bits h 23 16) req (bits h 63 40) :: ws

/-- A lane's packet has been committed (R108). -/
def laneFiled (s : State) (l type : Nat) : State :=
  match type with
  | 1 => s.fire1 (prodLane l 8)
  | 2 => s.fire1 (prodLane l 9)
  | 3 => s.fire1 (prodLane l 10)
  | _ => s

/-- A hardware producer's packet of 1 to 256 words is committed whole, or waits while there is no room (R120, R125). -/
def hwCommit (s : State) (req q : Nat) (ws : List Dword) : State :=
  if ws = [] ∨ 256 < ws.length ∨ req < 256 then s
  else
    let x := hwOffer s (16 + req) q (hwPacket s req q ws)
    if x.2 = .ok ∧ req < 400 then laneFiled x.1 (req - 256) (bits (ws.getD 0 0) 7 0) else x.1

/-- HW_PACKET_COMMIT (R125). -/
def execHwPacketCommit (req : Nat) (q : Nat) (words : List Dword) (s : State) : Answer :=
  answer (hwCommit s req q words)

/-- FLUSH (R143). -/
def execFlush (d : Desc) (s : State) : Answer :=
  answer (submit s .qeng 0 1 d {})

/-- QUEUE_STATUS (R143). -/
def execQueueStatus (d : Desc) (s : State) : Answer :=
  answer (submit s .qeng 0 2 d {})

/-- QUEUE_RESET (R143). -/
def execQueueReset (d : Desc) (s : State) : Answer :=
  answer (submit s .qeng 0 3 d {})

/-- POOL_AUDIT (R143). -/
def execPoolAudit (d : Desc) (s : State) : Answer :=
  answer (submit s .qeng 0 4 d {})

/-- QENG_COUNTERS_CLEAR (R149). -/
def execQengCountersClear (d : Desc) (s : State) : Answer :=
  answer (submit s .qeng 0 5 d {})

/-- SCRUB_PASS (R140). -/
def execScrubPass (t : Nat) (run : ScrubRun) (s : State) : Answer :=
  answerAt s t fun s => within (decide (run.ch < 4)) s (Machine.scrubPass s run.ch run.upsets)

/-- RECAL_TIMER (R167). -/
def execRecalTimer (t : Nat) (ch : Nat) (eye : Nat) (group : Nat) (s : State) : Answer :=
  answerAt s t fun s => within (decide (ch < 4)) s (Machine.recalTimer s ch eye group)

/-- BULK_SCRUB_PASS (R164). -/
def execBulkScrubPass (t : Nat) (run : ScrubRun) (s : State) : Answer :=
  answerAt s t fun s => within (decide (run.ch < 4)) s (bulkScrub s run.ch run.upsets)

/-- RECALIBRATE (R167). -/
def execRecalibrate (ch : Nat) (d : Desc) (eye : Nat) (group : Nat) (s : State) : Answer :=
  answer (within (decide (ch < 4)) s (submit s .qdr ch 2 d { eye := eye, group := group }))

/-- FILL (R171). -/
def execFill (ch : Nat) (d : Desc) (s : State) : Answer :=
  answer (within (decide (ch < 4)) s (submit s .qdr ch 1 d {}))

/-- QDR_COUNTERS_CLEAR (R175). -/
def execQdrCountersClear (ch : Nat) (d : Desc) (s : State) : Answer :=
  answer (within (decide (ch < 4)) s (submit s .qdr ch 3 d {}))

end Sys2Proof.Machine
end

