-- ==== Sys2Proof/Machine/CmdLife.lean ====
section
/-! DEFINITION. The life engine (R247 to R273). -/

namespace Sys2Proof.Machine

/-- LIFE_ID_APPLY (R247). -/
def execLifeIdApply (t : Nat) (s : State) : Answer :=
  answerAt s t fun s => intakeServe s true

/-- LIFE_ENERGY_APPLY (R255). -/
def execLifeEnergyApply (t : Nat) (s : State) : Answer :=
  answerAt s t fun s => intakeServe s false

/-- LIFE_NOTICE_COMMIT (R263). -/
def execLifeNoticeCommit (t : Nat) (s : State) : Answer :=
  answerAt s t fun s => noticeServe s

/-- LIFE_EXPORT (R263). -/
def execLifeExport (t : Nat) (s : State) : Answer :=
  answerAt s t fun s => exportServe s

/-- LIFE_MODEL_RECOMPUTE (R266). -/
def execLifeModelRecompute (t : Nat) (s : State) : Answer :=
  answerAt s t fun s => recomputeServe s

/-- CAP_REFRESH (R258). -/
def execCapRefresh (t : Nat) (s : State) : Answer :=
  answerAt s t fun s => capServe s

/-- READ_RECORD (R270). -/
def execReadRecord (d : Desc) (s : State) : Answer :=
  answer (submit s .life 0 1 d {})

/-- READ_RETIRED (R270). -/
def execReadRetired (d : Desc) (s : State) : Answer :=
  answer (submit s .life 0 2 d {})

/-- REGISTER_MODULE (R270). -/
def execRegisterModule (d : Desc) (s : State) : Answer :=
  answer (submit s .life 0 3 d {})

/-- CLOSE_RECORD (R270). -/
def execCloseRecord (d : Desc) (s : State) : Answer :=
  answer (submit s .life 0 4 d {})

/-- EXPORT_ALL (R270). -/
def execExportAll (d : Desc) (s : State) : Answer :=
  answer (submit s .life 0 5 d {})

/-- LIFE_COUNTERS_CLEAR (R273). -/
def execLifeCountersClear (d : Desc) (s : State) : Answer :=
  answer (submit s .life 0 6 d {})

end Sys2Proof.Machine
end

