-- ==== Sys2Proof/Machine/CmdStats.lean ====
section
/-! DEFINITION. Supervision, faults and statistics (R275 to R312). -/

namespace Sys2Proof.Machine

/-- USER_COUNT: the count is made (R310). -/
def userServe (s : State) (k : Nat) : State :=
  if k < 8 ∧ tiDue s (tiUser k) = true then tiEnd (s.bankAdd bankHeath k 1) (tiUser k) else s

/-- WINDOW_SUMMARY (R275). -/
def execWindowSummary (t : Nat) (lane : Nat) (n : Nat) (s : State) : Answer :=
  answerAt s t fun s => within (decide (lane < 144 ∧ 1 ≤ n ∧ n ≤ 128)) s (windowTimeout s lane n)

/-- CYCLING_CLEAR (R279). -/
def execCyclingClear (t : Nat) (lane : Nat) (n : Nat) (s : State) : Answer :=
  answerAt s t fun s => within (decide (lane < 144 ∧ 1 ≤ n ∧ n ≤ 128)) s (cyclingServe s lane n)

/-- NODE_MISSING_TIMEOUT (R281). -/
def execNodeMissingTimeout (t : Nat) (lane : Nat) (s : State) : Answer :=
  answerAt s t fun s => within (decide (lane < 144)) s (missingServe s lane)

/-- LINKING_BREAK_TIMEOUT (R282). -/
def execLinkingBreakTimeout (t : Nat) (lane : Nat) (s : State) : Answer :=
  answerAt s t fun s => within (decide (lane < 144)) s (missingServe s lane)

/-- FAULT_PACKET_COMMIT (R291). -/
def execFaultPacketCommit (t : Nat) (s : State) : Answer :=
  answerAt s t fun s => faultCommit s

/-- ACK_FAULT (R293). -/
def execAckFault (d : Desc) (s : State) : Answer :=
  answer (submit s .stat 0 0x40 d {})

/-- READ_FAULT (R293). -/
def execReadFault (d : Desc) (s : State) : Answer :=
  answer (submit s .stat 0 0x41 d {})

/-- SNAPSHOT (R293). -/
def execSnapshot (d : Desc) (s : State) : Answer :=
  answer (submit s .stat 0 0x42 d {})

/-- FORCE_CLEAR (R293). -/
def execForceClear (d : Desc) (s : State) : Answer :=
  answer (submit s .stat 0 0x43 d {})

/-- FLT_COUNTERS_CLEAR (R298). -/
def execFltCountersClear (d : Desc) (s : State) : Answer :=
  answer (submit s .stat 0 0x44 d {})

/-- SET_PERIOD (R300). -/
def execSetPeriod (d : Desc) (s : State) : Answer :=
  answer (submit s .stat 0 1 d {})

/-- REDIGEST (R312). -/
def execRedigest (d : Desc) (s : State) : Answer :=
  answer (submit s .stat 0 2 d {})

/-- PERIOD_BOUNDARY (R303). -/
def execPeriodBoundary (t : Nat) (s : State) : Answer :=
  answerAt s t fun s => Machine.periodBoundary s

/-- USER_COUNT (R310). -/
def execUserCount (t : Nat) (k : Nat) (s : State) : Answer :=
  answerAt s t fun s => userServe s k

end Sys2Proof.Machine
end

