-- ==== Sys2Proof/Machine/CmdPower.lean ====
section
/-! DEFINITION. Meadows, domains, the power sequencer and pace levels (R41 to R50, R413 to R450). -/

namespace Sys2Proof.Machine

/-- A domain's bit of HEATH_DOM_ON. -/
abbrev domMask (d : Nat) : Word := (1 : Word) <<< (d % 32)
abbrev domReg' (d : Nat) : Nat := regAddr .heath 0 (domReg d)

/-- The image reload path is ready (R421). -/
def pathReady (s : State) : State :=
  if s.domOn 49 then sequencer (s.modMantle fun m => { m with reloadReady := true }) else s

/-- PACE_WINDOW_END (R49). -/
def execPaceWindowEnd (t : Nat) (m : Nat) (rate : Nat) (running : Nat) (waiting : Nat) (s : State) : Answer :=
  answerAt s t fun s => within (decide (m < 32)) s (paceWindow s m rate running waiting)

/-- PACE_MIN_CLEAR (R50). -/
def execPaceMinClear (req : Nat) (m : Nat) (s : State) : Answer :=
  answer (within (decide (m < 32)) s (cmdWrite s req (regAddr .meadow m MEADOW_PACE_MIN) 0x80000000))

/-- RELOAD_CORE (R398). -/
def execReloadCore (m : Nat) (d : Desc) (s : State) : Answer :=
  answer (within (decide (m < 32)) s (submit s .meadow m 1 d {}))

/-- MEADOW_COUNTERS_CLEAR (R407). -/
def execMeadowCountersClear (m : Nat) (d : Desc) (s : State) : Answer :=
  answer (within (decide (m < 32)) s (submit s .meadow m 2 d {}))

/-- MEADOW_START (R435). -/
def execMeadowStart (m : Nat) (d : Desc) (s : State) : Answer :=
  answer (within (decide (m < 32)) s (submit s .meadow m 0x20 d {}))

/-- MEADOW_STOP (R435). -/
def execMeadowStop (m : Nat) (d : Desc) (s : State) : Answer :=
  answer (within (decide (m < 32)) s (submit s .meadow m 0x21 d {}))

/-- DOMAIN_SWITCH_ON (R422). -/
def execDomainSwitchOn (req : Nat) (dom : Nat) (s : State) : Answer :=
  answer (within (decide (dom < 50)) s (cmdWrite s req (domReg' dom) (s.regAt (domReg' dom) ||| domMask dom)))

/-- DOMAIN_SWITCH_OFF (R419). -/
def execDomainSwitchOff (req : Nat) (dom : Nat) (s : State) : Answer :=
  answer (within (decide (dom < 50)) s (cmdWrite s req (domReg' dom) (s.regAt (domReg' dom) &&& ~~~ domMask dom)))

/-- POWER_DOWN_DRAINED (R419). -/
def execPowerDownDrained (t : Nat) (dom : Nat) (s : State) : Answer :=
  answerAt s t fun s => within (decide (dom < 50)) s (powerDrained s dom)

/-- POWER_GOOD (R420). -/
def execPowerGood (t : Nat) (dom : Nat) (s : State) : Answer :=
  answerAt s t fun s => within (decide (dom < 50)) s (Machine.powerGood s dom)

/-- POWER_GOOD_TIMEOUT (R448). -/
def execPowerGoodTimeout (t : Nat) (dom : Nat) (s : State) : Answer :=
  answerAt s t fun s => within (decide (dom < 50)) s (Machine.powerGoodTimeout s dom)

/-- XREF_READY (R448). -/
def execXrefReady (t : Nat) (s : State) : Answer :=
  answerAt s t fun s => Machine.xrefReady s

/-- XREF_TIMEOUT (R448). -/
def execXrefTimeout (t : Nat) (s : State) : Answer :=
  answerAt s t fun s => Machine.xrefTimeout s

/-- PLL_LOCK (R448). -/
def execPllLock (t : Nat) (dom : Nat) (s : State) : Answer :=
  answerAt s t fun s => within (decide (dom < 50)) s (Machine.pllLock s dom)

/-- PLL_LOCK_TIMEOUT (R448). -/
def execPllLockTimeout (t : Nat) (dom : Nat) (s : State) : Answer :=
  answerAt s t fun s => within (decide (dom < 50)) s (pllTimeout s dom)

/-- OWN_START_DONE (R420). -/
def execOwnStartDone (t : Nat) (dom : Nat) (failed : Nat) (eye : Nat) (group : Nat) (s : State) : Answer :=
  answerAt s t fun s => within (decide (dom < 50)) s (ownStart s dom failed eye group)

/-- OWN_START_TIMEOUT (R448). -/
def execOwnStartTimeout (t : Nat) (dom : Nat) (s : State) : Answer :=
  answerAt s t fun s => within (decide (dom < 50)) s (ownTimeout s dom)

/-- RETRY_RESTART (R450). -/
def execRetryRestart (t : Nat) (dom : Nat) (s : State) : Answer :=
  answerAt s t fun s => within (decide (dom < 50)) s (Machine.retryRestart s dom)

/-- DEV_MODE_WRITE (R424). -/
def execDevModeWrite (req : Nat) (v : Word) (s : State) : Answer :=
  answer (cmdWrite s req (regAddr .heath 0 HEATH_DEV_MODE) v)

/-- DESCENT_COMPLETE (R425). -/
def execDescentComplete (t : Nat) (s : State) : Answer :=
  answerAt s t fun s => Machine.descentComplete s

/-- LEVEL_CHANGE_DONE (R412). -/
def execLevelChangeDone (t : Nat) (m : Nat) (s : State) : Answer :=
  answerAt s t fun s => within (decide (m < 32)) s (levelDone s m)

/-- LAT_HOLD_EXPIRY (R413). -/
def execLatHoldExpiry (t : Nat) (m : Nat) (s : State) : Answer :=
  answerAt s t fun s => within (decide (m < 32)) s (latExpire s m)

/-- PACE_EVENT (R415). -/
def execPaceEvent (t : Nat) (m : Nat) (s : State) : Answer :=
  answerAt s t fun s => within (decide (m < 32)) s (Machine.paceEvent s m)

/-- GOV_WRITE (R414). -/
def execGovWrite (req : Nat) (m : Nat) (v : Word) (s : State) : Answer :=
  answer (within (decide (m < 32)) s (cmdWrite s req (regAddr .meadow m MEADOW_GOV) v))

/-- RETRY_DOMAIN (R434). -/
def execRetryDomain (d : Desc) (s : State) : Answer :=
  answer (submit s .heath 0 0x10 d {})

/-- HEATH_COUNTERS_CLEAR (R434). -/
def execHeathCountersClear (d : Desc) (s : State) : Answer :=
  answer (submit s .heath 0 0x11 d {})

/-- XREF_STOP (R453). -/
def execXrefStop (t : Nat) (restarted : Bool) (s : State) : Answer :=
  answerAt s t fun s => Machine.xrefStop s restarted

/-- IMAGE_RELOAD_PATH_READY (R421). -/
def execImageReloadPathReady (t : Nat) (s : State) : Answer :=
  answerAt s t fun s => pathReady s

end Sys2Proof.Machine
end

