-- ==== Sys2Proof/Machine/CmdPins.lean ====
section
/-! DEFINITION. Pads, GPIO, wake sources and the sampler (R438 to R458). -/

namespace Sys2Proof.Machine

/-- PAD_GROUP_RELEASE (R432). -/
def execPadGroupRelease (req : Nat) (k : Nat) (s : State) : Answer :=
  answer (within (decide (k < 18)) s (cmdWrite s req (regAddr .pad 0 (PAD_GRP + 4 * k)) (s.reg .pad 0 (PAD_GRP + 4 * k) ||| 8)))

/-- GPIO_EDGE (R433). -/
def execGpioEdge (t : Nat) (g : Nat) (level : Bool) (s : State) : Answer :=
  answerAt s t fun s => within (decide (g < 64)) s (Machine.gpioEdge s g level)

/-- GPIO_ACTION (R433). -/
def execGpioAction (t : Nat) (g : Nat) (s : State) : Answer :=
  answerAt s t fun s => within (decide (g < 64)) s (Machine.gpioAction s g)

/-- GPIO_PULSE_END (R433). -/
def execGpioPulseEnd (t : Nat) (g : Nat) (s : State) : Answer :=
  answerAt s t fun s => within (decide (g < 64)) s (Machine.gpioPulseEnd s g)

/-- UPLINK_ENERGY (R443). -/
def execUplinkEnergy (t : Nat) (n : Nat) (s : State) : Answer :=
  answerAt s t fun s => within (decide (n < 4)) s (uplinkWake s n)

/-- WAKE_PIN (R443). -/
def execWakePin (t : Nat) (s : State) : Answer :=
  answerAt s t fun s => pinWake s

/-- WAKE_INPUT (R446). -/
def execWakeInput (t : Nat) (k : Nat) (s : State) : Answer :=
  answerAt s t fun s => within (decide (k < 16)) s (inputWake s k)

/-- SAMPLER_PASS (R456). -/
def execSamplerPass (t : Nat) (volts : List Nat) (s : State) : Answer :=
  answerAt s t fun s => Machine.samplerPass s volts

/-- RUN_NOW (R457). -/
def execRunNow (t : Nat) (volts : List Nat) (s : State) : Answer :=
  answerAt s t fun s => Machine.runNow s volts

/-- SAMPLER_HOLD (R457). -/
def execSamplerHold (t : Nat) (s : State) : Answer :=
  answerAt s t fun s => smpHeld s 1 true

/-- SAMPLER_RELEASE (R457). -/
def execSamplerRelease (t : Nat) (s : State) : Answer :=
  answerAt s t fun s => smpHeld s 2 false

/-- CLEAR_COUNTS (R457). -/
def execClearCounts (t : Nat) (s : State) : Answer :=
  answerAt s t fun s => smpClear s

/-- SAMPLE (R458). -/
def execSample (d : Desc) (uv : Nat) (s : State) : Answer :=
  answer (submit s .heath 0 0x31 d { uv := uv })

/-- WAKE_COUNTERS_CLEAR (R458). -/
def execWakeCountersClear (d : Desc) (s : State) : Answer :=
  answer (submit s .heath 0 0x30 d {})

/-- I2C_ADDRESS_MATCH (R558). -/
def execI2cAddressMatch (t : Nat) (s : State) : Answer :=
  answerAt s t fun s => i2cWake s

end Sys2Proof.Machine
end

