-- ==== Sys2Proof/Machine/CmdSeam.lean ====
section
/-! DEFINITION. The seams (R469 to R482). -/

namespace Sys2Proof.Machine

/-- ISLAND_CLOCK_RETURN: what waited for the clock proceeds (R470). -/
def clockReturn (s : State) (k : Nat) : State :=
  if (s.seam k).st = .stopped then
    valuesGo ((fifoDrain (fifoDrain s k .tx) k .requests).putSeam k { st := .live, cause := 0 }) k
  else s

/-- SEAM_WATCHDOG (R475). -/
def execSeamWatchdog (t : Nat) (seen : SeamSeen) (s : State) : Answer :=
  answerAt s t fun s => within (decide (seen.sm < 203)) s (Machine.seamWatchdog s seen.sm seen.rx seen.tx)

/-- ISLAND_RELEASE (R475). -/
def execIslandRelease (t : Nat) (sm : Nat) (s : State) : Answer :=
  answerAt s t fun s => within (decide (sm < 203)) s (Machine.islandRelease s sm)

/-- SEAM_REALIGN (R473). -/
def execSeamRealign (t : Nat) (sm : Nat) (s : State) : Answer :=
  answerAt s t fun s => within (decide (sm < 203)) s (seamLive s sm)

/-- ISLAND_CLOCK_STOP (R470). -/
def execIslandClockStop (t : Nat) (sm : Nat) (s : State) : Answer :=
  answerAt s t fun s => within (decide (sm < 203)) s (clockStop s sm)

/-- ISLAND_CLOCK_RETURN (R470). -/
def execIslandClockReturn (t : Nat) (sm : Nat) (s : State) : Answer :=
  answerAt s t fun s => within (decide (sm < 203)) s (clockReturn s sm)

/-- SEAM_ACCESS_TIMEOUT (R470). -/
def execSeamAccessTimeout (t : Nat) (req : Nat) (s : State) : Answer :=
  answerAt s t fun s => accessTimeout s req

/-- SEAM_COUNTERS_CLEAR (R479). -/
def execSeamCountersClear (d : Desc) (s : State) : Answer :=
  answer (submit s .seam 0 1 d {})

end Sys2Proof.Machine
end

