-- ==== Sys2Proof/Machine/CmdMantle.lean ====
section
/-! DEFINITION. Mantle: panels, keys, the journal and debug access (R486 to R534, R576). -/

namespace Sys2Proof.Machine

/-- STAGE_COPY (R498). -/
def execStageCopy (d : Desc) (s : State) : Answer :=
  answer (submit s .mantle 0 1 d {})

/-- APPLY (R495). -/
def execApply (d : Desc) (s : State) : Answer :=
  answer (submit s .mantle 0 2 d {})

/-- MANTLE_COUNTERS_CLEAR (R510). -/
def execMantleCountersClear (d : Desc) (s : State) : Answer :=
  answer (submit s .mantle 0 3 d {})

/-- CLAIM (R520). -/
def execClaim (d : Desc) (s : State) : Answer :=
  answer (submit s .mantle 0 0x10 d {})

/-- ATTEST (R526). -/
def execAttest (d : Desc) (s : State) : Answer :=
  answer (submit s .mantle 0 0x11 d {})

/-- DEVICE_CERT (R527). -/
def execDeviceCert (d : Desc) (s : State) : Answer :=
  answer (submit s .mantle 0 0x12 d {})

/-- DEBUG_CHALLENGE (R536). -/
def execDebugChallenge (d : Desc) (s : State) : Answer :=
  answer (submit s .mantle 0 0x13 d {})

/-- DEBUG_UNLOCK (R524). -/
def execDebugUnlock (d : Desc) (s : State) : Answer :=
  answer (submit s .mantle 0 0x14 d {})

/-- DEBUG_LOCK (R524). -/
def execDebugLock (d : Desc) (s : State) : Answer :=
  answer (submit s .mantle 0 0x15 d {})

/-- JOURNAL_MARK (R536). -/
def execJournalMark (d : Desc) (s : State) : Answer :=
  answer (submit s .mantle 0 0x16 d {})

/-- JOURNAL_READ (R536). -/
def execJournalRead (d : Desc) (s : State) : Answer :=
  answer (submit s .mantle 0 0x17 d {})

/-- REVOKE_MAKER_SLOT (R518). -/
def execRevokeMakerSlot (d : Desc) (s : State) : Answer :=
  answer (submit s .mantle 0 0x18 d {})

/-- ROOT_STEP (R522). -/
def execRootStep (d : Desc) (s : State) : Answer :=
  answer (submit s .mantle 0 0x19 d {})

/-- QUIESCE_ALL (R536). -/
def execQuiesceAll (d : Desc) (s : State) : Answer :=
  answer (submit s .mantle 0 0x1A d {})

/-- MAKER_DIAG (R536). -/
def execMakerDiag (d : Desc) (s : State) : Answer :=
  answer (submit s .mantle 0 0x1B d {})

/-- SLOT_WRITE (R581). -/
def execSlotWrite (d : Desc) (s : State) : Answer :=
  answer (submit s .mantle 0 0x20 d {})

/-- SLOT_SEAL (R581). -/
def execSlotSeal (d : Desc) (s : State) : Answer :=
  answer (submit s .mantle 0 0x21 d {})

/-- DEBUG_EXPIRY (R524). -/
def execDebugExpiry (t : Nat) (s : State) : Answer :=
  answerAt s t fun s => Machine.debugExpiry s

/-- JOURNAL_EXPORT (R532). -/
def execJournalExport (t : Nat) (s : State) : Answer :=
  answerAt s t fun s => Machine.journalExport s

/-- JOURNAL_HELD_FLUSH (R533). -/
def execJournalHeldFlush (t : Nat) (s : State) : Answer :=
  answerAt s t fun s => jFlush s

/-- DEBUG_ACCESS (R523). -/
def execDebugAccess (t : Nat) (op : DebugOp) (s : State) : Answer :=
  answerAt s t fun s => debugStep s op

end Sys2Proof.Machine
end

