-- ==== Sys2Proof/Machine/CmdUplink.lean ====
section
/-! DEFINITION. The uplinks, the timebase and the management target (R535 to R566). -/

namespace Sys2Proof.Machine

/-- UPLINK_FRAME_RX (R541). -/
def execUplinkFrameRx (t : Nat) (n : Nat) (f : EthFrame) (s : State) : Answer :=
  answerAt s t fun s => within (decide (n < 4)) s (uplFrame s n f)

/-- PTP_MESSAGE_RX (R546). -/
def execPtpMessageRx (t : Nat) (n : Nat) (named : Bool) (complete : Bool) (offset : Int) (s : State) : Answer :=
  answerAt s t fun s => within (decide (n < 4)) s (ptpMessage s n named complete offset)

/-- PTP_HOLDOVER (R546). -/
def execPtpHoldover (t : Nat) (s : State) : Answer :=
  answerAt s t fun s => Machine.ptpHoldover s

/-- HANDOFF_RX (R552). -/
def execHandoffRx (t : Nat) (n : Nat) (f : Datagram) (s : State) : Answer :=
  answerAt s t fun s => within (decide (n < 4)) s (Machine.handoffRx s n f)

/-- HANDOFF_OUT (R551). -/
def execHandoffOut (t : Nat) (n : Nat) (k : Nat) (s : State) : Answer :=
  answerAt s t fun s => within (decide (n < 4)) s (Machine.handoffOut s n k)

/-- EXPORT_SEND (R544). -/
def execExportSend (t : Nat) (n : Nat) (j : Nat) (s : State) : Answer :=
  answerAt s t fun s => within (decide (n < 4)) s (Machine.exportSend s n j)

/-- WRITE_STAGING (R554). -/
def execWriteStaging (n : Nat) (off : Nat) (bytes : List Byte) (s : State) : Answer :=
  answer (within (decide (n < 4)) s (mgmtStage s n off bytes))

/-- SUBMIT (R556). -/
def execSubmit (t : Nat) (port : Nat) (off : Nat) (len : Nat) (s : State) : Answer :=
  answerAt s t fun s => submitRequest s port off len

/-- READ (R554). -/
def execRead (t : Nat) (n : Nat) (addr : Nat) (count : Nat) (s : State) : Answer :=
  answerAt s t fun s => within (decide (n < 4)) s (uplRead s n addr count)

/-- UPLINK_LINK_CHANGE (R560). -/
def execUplinkLinkChange (t : Nat) (n : Nat) (up : Bool) (an : Bool) (s : State) : Answer :=
  answerAt s t fun s => within (decide (n < 4)) s (uplLink s n up an)

/-- UPLINK_COUNTERS_CLEAR (R561). -/
def execUplinkCountersClear (n : Nat) (d : Desc) (s : State) : Answer :=
  answer (within (decide (n < 4)) s (submit s .upl n 1 d {}))

/-- TIME_SET (R561). -/
def execTimeSet (d : Desc) (s : State) : Answer :=
  answer (submit s .heath 0 0x40 d {})

/-- TB_COUNTERS_CLEAR (R561). -/
def execTbCountersClear (d : Desc) (s : State) : Answer :=
  answer (submit s .heath 0 0x41 d {})

/-- ALARM (R548). -/
def execAlarm (t : Nat) (k : Nat) (s : State) : Answer :=
  answerAt s t fun s => within (decide (k < 8)) s (alarmServe s k)

/-- PPS (R548). -/
def execPps (t : Nat) (s : State) : Answer :=
  answerAt s t fun s => ppsServe s

/-- CAPTURE (R548). -/
def execCapture (t : Nat) (k : Nat) (s : State) : Answer :=
  answerAt s t fun s => within (decide (k < 16)) s (captureServe s k)

/-- TB_RATE_WRITE (R546). -/
def execTbRateWrite (req : Nat) (v : Word) (s : State) : Answer :=
  answer (cmdWrite s req (regAddr .heath 0 HEATH_TB_RATE) v)

/-- TB_SEC_LO_READ (R565). -/
def execTbSecLoRead (t : Nat) (req : Nat) (s : State) : Answer :=
  answerAt s t fun s => (ctlRead s (regAddr .heath 0 HEATH_TB_SEC_LO)).1

/-- RD_ADDR_WRITE (R559). -/
def execRdAddrWrite (addr : Word) (s : State) : Answer :=
  answer (Machine.rdAddrWrite s addr)

/-- STG_DATA_WRITE (R559). -/
def execStgDataWrite (off : Option (BitVec 24)) (bytes : List Byte) (s : State) : Answer :=
  answer (Machine.stgDataWrite s off bytes)

/-- SUB_LEN_WRITE (R559). -/
def execSubLenWrite (t : Nat) (off : BitVec 24) (len : Word) (s : State) : Answer :=
  answerAt s t fun s => Machine.subLenWrite s off len

end Sys2Proof.Machine
end

