-- ==== Sys2Proof/Machine/CmdBoot.lean ====
section
/-! DEFINITION. Reset and boot (R567 to R586). -/

namespace Sys2Proof.Machine

/-- POWER_ON_RESET (R568). -/
def execPowerOnReset (t : Nat) (loss : PowerLoss) (s : State) : Answer :=
  answerAt s t fun s => Machine.powerOnReset s loss.supply loss.torn

/-- RESET_N (R569). -/
def execResetN (t : Nat) (s : State) : Answer :=
  answerAt s t fun s => Machine.deviceReset s 2 []

/-- DEVICE_RESET (R572). -/
def execDeviceReset (d : Desc) (s : State) : Answer :=
  answer (submit s .pad 0 1 d {})

/-- DEVICE_RESET_TIMER (R572). -/
def execDeviceResetTimer (t : Nat) (s : State) : Answer :=
  answerAt s t fun s => Machine.deviceResetTimer s

/-- MANTLE_ROM_VERIFY (R578). -/
def execMantleRomVerify (t : Nat) (s : State) : Answer :=
  answerAt s t fun s => romVerify s

/-- BOOT_STAGE1 (R578). -/
def execBootStage1 (t : Nat) (s : State) : Answer :=
  answerAt s t fun s => Machine.bootStage1 s

/-- BOOT_STAGE2 (R578). -/
def execBootStage2 (t : Nat) (s : State) : Answer :=
  answerAt s t fun s => Machine.bootStage2 s

/-- BOOT_FALLBACK (R576). -/
def execBootFallback (t : Nat) (s : State) : Answer :=
  answerAt s t fun s => Machine.bootFallback s

/-- RESET_RELEASE (R586). -/
def execResetRelease (t : Nat) (bootsel : BitVec 2) (maddr : BitVec 3) (install : Bool) (s : State) : Answer :=
  answerAt s t fun s => Machine.resetRelease s bootsel maddr install

end Sys2Proof.Machine
end

