-- ==== Sys2Proof/Machine/CmdCore.lean ====
section
/-! DEFINITION. Core instructions whose effect other parts of the block may be waiting for: loads and stores, which reach control
space, and the queue instructions (R126 to R132, R330); and what ends a wait (R118, R400). -/

namespace Sys2Proof.Machine

/-- The data address of a load or store. -/
def dataAddr (s : State) (r : Nat) (post : Bool) (ra : Reg) (imm : BitVec 16) : Word :=
  if post then (s.core r).base ra else (s.core r).greg ra + imm32 imm

/-- After an access to control space the rest of the block goes on. -/
def settleCtl (s : State) (r : Nat) (post : Bool) (ra : Reg) (imm : BitVec 16) (x : State) : State :=
  if place r (dataAddr s r post ra imm).toNat = .ctl then settle x else x

/-- LB (R330). -/
def execLb (r : Nat) (rd ra : Reg) (imm : BitVec 16) (s : State) : Answer :=
  .next (settleCtl s r false ra imm
    (runInstr s r (encRI 0x10 rd ra imm) true false (loadBody false 1 sextByte rd ra imm)))

/-- LBU (R330). -/
def execLbu (r : Nat) (rd ra : Reg) (imm : BitVec 16) (s : State) : Answer :=
  .next (settleCtl s r false ra imm
    (runInstr s r (encRI 0x11 rd ra imm) true false (loadBody false 1 id rd ra imm)))

/-- LH (R330). -/
def execLh (r : Nat) (rd ra : Reg) (imm : BitVec 16) (s : State) : Answer :=
  .next (settleCtl s r false ra imm
    (runInstr s r (encRI 0x12 rd ra imm) true false (loadBody false 2 sextHalf rd ra imm)))

/-- LHU (R330). -/
def execLhu (r : Nat) (rd ra : Reg) (imm : BitVec 16) (s : State) : Answer :=
  .next (settleCtl s r false ra imm
    (runInstr s r (encRI 0x13 rd ra imm) true false (loadBody false 2 id rd ra imm)))

/-- LW (R330). -/
def execLw (r : Nat) (rd ra : Reg) (imm : BitVec 16) (s : State) : Answer :=
  .next (settleCtl s r false ra imm
    (runInstr s r (encRI 0x14 rd ra imm) true false (loadBody false 4 id rd ra imm)))

/-- LBU_P (R330). -/
def execLbuP (r : Nat) (rd ra : Reg) (imm : BitVec 16) (s : State) : Answer :=
  .next (settleCtl s r true ra imm
    (runInstr s r (encRI 0x15 rd ra imm) (decide (rd ≠ ra)) true (loadBody true 1 id rd ra imm)))

/-- LHU_P (R330). -/
def execLhuP (r : Nat) (rd ra : Reg) (imm : BitVec 16) (s : State) : Answer :=
  .next (settleCtl s r true ra imm
    (runInstr s r (encRI 0x16 rd ra imm) (decide (rd ≠ ra)) true (loadBody true 2 id rd ra imm)))

/-- LW_P (R330). -/
def execLwP (r : Nat) (rd ra : Reg) (imm : BitVec 16) (s : State) : Answer :=
  .next (settleCtl s r true ra imm
    (runInstr s r (encRI 0x17 rd ra imm) (decide (rd ≠ ra)) true (loadBody true 4 id rd ra imm)))

/-- SB (R330). -/
def execSb (r : Nat) (rd ra : Reg) (imm : BitVec 16) (s : State) : Answer :=
  .next (settleCtl s r false ra imm
    (runInstr s r (encRI 0x18 rd ra imm) true false (storeBody false 1 rd ra imm)))

/-- SH (R330). -/
def execSh (r : Nat) (rd ra : Reg) (imm : BitVec 16) (s : State) : Answer :=
  .next (settleCtl s r false ra imm
    (runInstr s r (encRI 0x19 rd ra imm) true false (storeBody false 2 rd ra imm)))

/-- SW (R330). -/
def execSw (r : Nat) (rd ra : Reg) (imm : BitVec 16) (s : State) : Answer :=
  .next (settleCtl s r false ra imm
    (runInstr s r (encRI 0x1A rd ra imm) true false (storeBody false 4 rd ra imm)))

/-- SB_P (R330). -/
def execSbP (r : Nat) (rd ra : Reg) (imm : BitVec 16) (s : State) : Answer :=
  .next (settleCtl s r true ra imm
    (runInstr s r (encRI 0x1B rd ra imm) true true (storeBody true 1 rd ra imm)))

/-- SH_P (R330). -/
def execShP (r : Nat) (rd ra : Reg) (imm : BitVec 16) (s : State) : Answer :=
  .next (settleCtl s r true ra imm
    (runInstr s r (encRI 0x1C rd ra imm) true true (storeBody true 2 rd ra imm)))

/-- SW_P (R330). -/
def execSwP (r : Nat) (rd ra : Reg) (imm : BitVec 16) (s : State) : Answer :=
  .next (settleCtl s r true ra imm
    (runInstr s r (encRI 0x1D rd ra imm) true true (storeBody true 4 rd ra imm)))

/-- QSEL. -/
def execQsel (r : Nat) (ra : Reg) (s : State) : Answer :=
  .next (settle (runInstr s r (encQ 0 ra 0x0) true false (qselBody ra)))

/-- QPUT. -/
def execQput (r : Nat) (ra : Reg) (s : State) : Answer :=
  .next (settle (runInstr s r (encQ 0 ra 0x1) (even ra) true (qputBody ra)))

/-- QEND. -/
def execQend (r : Nat) (rd : Reg) (s : State) : Answer :=
  .next (settle (runInstr s r (encQ rd 0 0x2) true false (qendBody rd)))

/-- QRWD. -/
def execQrwd (r : Nat) (s : State) : Answer :=
  .next (settle (runInstr s r (encQ 0 0 0x3) true false qrwdBody))

/-- QGET. -/
def execQget (r : Nat) (rd : Reg) (s : State) : Answer :=
  .next (settle (runInstr s r (encQ rd 0 0x4) (even rd) true (qgetBody rd)))

/-- QFL. -/
def execQfl (r : Nat) (s : State) : Answer :=
  .next (settle (runInstr s r (encQ 0 0 0x7) true false qflBody))

/-- PUSH_RELEASE (R118). -/
def execPushRelease (r : Nat) (s : State) : Answer := answer (if r < 256 then pushRelease s r else s)

/-- SENTINEL_FIRE (R400). -/
def execSentinelFire (t r : Nat) (s : State) : Answer :=
  answer (if r < 256 then sentinelFire (s.reach t) r else s.reach t)

end Sys2Proof.Machine
end

