-- ==== Sys2Proof/Machine/Dispatch.lean ====
section
/-! DEFINITION. The meaning of each command, by its name. -/

namespace Sys2Proof.Machine

def exec (i : Instr) (s : State) : Host.Outcome State Fault Refusal :=
  match i with
  | .registerWrite req addr v => Sys2Proof.Machine.execRegisterWrite req addr v s
  | .clampLogClear req blk inst => Sys2Proof.Machine.execClampLogClear req blk inst s
  | .completionCommit req => Sys2Proof.Machine.execCompletionCommit req s
  | .heldOrderRecheck req => Sys2Proof.Machine.execHeldOrderRecheck req s
  | .paceWindowEnd t m rate running waiting => Sys2Proof.Machine.execPaceWindowEnd t m rate running waiting s
  | .paceMinClear req m => Sys2Proof.Machine.execPaceMinClear req m s
  | .dataRx t lane f => Sys2Proof.Machine.execDataRx t lane f s
  | .detRx t lane f => Sys2Proof.Machine.execDetRx t lane f s
  | .fltRx t lane f => Sys2Proof.Machine.execFltRx t lane f s
  | .rspRx t lane f => Sys2Proof.Machine.execRspRx t lane f s
  | .idRx t lane f => Sys2Proof.Machine.execIdRx t lane f s
  | .energyRx t lane f => Sys2Proof.Machine.execEnergyRx t lane f s
  | .statusRx t lane f => Sys2Proof.Machine.execStatusRx t lane f s
  | .enumReportRx t lane f => Sys2Proof.Machine.execEnumReportRx t lane f s
  | .enumAckRx t lane f => Sys2Proof.Machine.execEnumAckRx t lane f s
  | .delayAckRx t lane f => Sys2Proof.Machine.execDelayAckRx t lane f s
  | .bulkFileRelease t lane => Sys2Proof.Machine.execBulkFileRelease t lane s
  | .creditStallTimer t lane => Sys2Proof.Machine.execCreditStallTimer t lane s
  | .creditSend t lane => Sys2Proof.Machine.execCreditSend t lane s
  | .syncSend t lane => Sys2Proof.Machine.execSyncSend t lane s
  | .syncNow t lane => Sys2Proof.Machine.execSyncNow t lane s
  | .enumWindowClose t lane => Sys2Proof.Machine.execEnumWindowClose t lane s
  | .sweepTimer t lane => Sys2Proof.Machine.execSweepTimer t lane s
  | .sweepNow t lane => Sys2Proof.Machine.execSweepNow t lane s
  | .cmdSend t lane => Sys2Proof.Machine.execCmdSend t lane s
  | .cmdTimeout t lane tag => Sys2Proof.Machine.execCmdTimeout t lane tag s
  | .tagQuarantineEnd t lane tag => Sys2Proof.Machine.execTagQuarantineEnd t lane tag s
  | .releaseReportTimeout t lane n => Sys2Proof.Machine.execReleaseReportTimeout t lane n s
  | .linkUp t lane has24 has10 => Sys2Proof.Machine.execLinkUp t lane has24 has10 s
  | .linkDown t lane => Sys2Proof.Machine.execLinkDown t lane s
  | .linkAttemptTimeout t lane => Sys2Proof.Machine.execLinkAttemptTimeout t lane s
  | .laneStart lane d => Sys2Proof.Machine.execLaneStart lane d s
  | .laneStop lane d => Sys2Proof.Machine.execLaneStop lane d s
  | .laneEnumerate lane d => Sys2Proof.Machine.execLaneEnumerate lane d s
  | .sendCmd lane d => Sys2Proof.Machine.execSendCmd lane d s
  | .setStream lane d => Sys2Proof.Machine.execSetStream lane d s
  | .releaseNode lane d => Sys2Proof.Machine.execReleaseNode lane d s
  | .lineTdr lane d result => Sys2Proof.Machine.execLineTdr lane d result s
  | .laneCountersClear lane d => Sys2Proof.Machine.execLaneCountersClear lane d s
  | .laneEnergyDetect t seen => Sys2Proof.Machine.execLaneEnergyDetect t seen s
  | .laneWakePattern t seen => Sys2Proof.Machine.execLaneWakePattern t seen s
  | .raiseFrameSend t lane => Sys2Proof.Machine.execRaiseFrameSend t lane s
  | .gatherWindowClose t lane => Sys2Proof.Machine.execGatherWindowClose t lane s
  | .gatherCapRelease t lane => Sys2Proof.Machine.execGatherCapRelease t lane s
  | .catchupFrameSend t lane => Sys2Proof.Machine.execCatchupFrameSend t lane s
  | .holdExpiry t lane => Sys2Proof.Machine.execHoldExpiry t lane s
  | .fadeEnd t lane => Sys2Proof.Machine.execFadeEnd t lane s
  | .entry t lane k => Sys2Proof.Machine.execEntry t lane k s
  | .overrideEnd t lane => Sys2Proof.Machine.execOverrideEnd t lane s
  | .calendarOccurrence t lane => Sys2Proof.Machine.execCalendarOccurrence t lane s
  | .sunCompute t lane => Sys2Proof.Machine.execSunCompute t lane s
  | .swParamWrite req lane second v => Sys2Proof.Machine.execSwParamWrite req lane second v s
  | .swLimitWrite req lane v => Sys2Proof.Machine.execSwLimitWrite req lane v s
  | .overrideWrite req lane node isEnd v => Sys2Proof.Machine.execOverrideWrite req lane node isEnd v s
  | .producerFire events => Sys2Proof.Machine.execProducerFire events s
  | .taskEnd t ti => Sys2Proof.Machine.execTaskEnd t ti s
  | .refractoryEnd t ti => Sys2Proof.Machine.execRefractoryEnd t ti s
  | .hedgeDelayIn t k => Sys2Proof.Machine.execHedgeDelayIn t k s
  | .hedgeDelayExpiry t k => Sys2Proof.Machine.execHedgeDelayExpiry t k s
  | .hedgeSwFire req v => Sys2Proof.Machine.execHedgeSwFire req v s
  | .selectorWrite req task k v => Sys2Proof.Machine.execSelectorWrite req task k v s
  | .channelWrite req c v => Sys2Proof.Machine.execChannelWrite req c v s
  | .hc2Report t => Sys2Proof.Machine.execHc2Report t s
  | .clearPending d => Sys2Proof.Machine.execClearPending d s
  | .hedgeCountersClear d => Sys2Proof.Machine.execHedgeCountersClear d s
  | .journalMarkInput t k => Sys2Proof.Machine.execJournalMarkInput t k s
  | .qsel r ra => Sys2Proof.Machine.execQsel r ra s
  | .qput r ra => Sys2Proof.Machine.execQput r ra s
  | .qend r rd => Sys2Proof.Machine.execQend r rd s
  | .qrwd r => Sys2Proof.Machine.execQrwd r s
  | .qget r rd => Sys2Proof.Machine.execQget r rd s
  | .qcnt r rd => Sys2Proof.Machine.execQcnt r rd s
  | .qcntw r rd => Sys2Proof.Machine.execQcntw r rd s
  | .qfl r => Sys2Proof.Machine.execQfl r s
  | .pushRelease r => Sys2Proof.Machine.execPushRelease r s
  | .hwPacketCommit req q words => Sys2Proof.Machine.execHwPacketCommit req q words s
  | .flush d => Sys2Proof.Machine.execFlush d s
  | .queueStatus d => Sys2Proof.Machine.execQueueStatus d s
  | .queueReset d => Sys2Proof.Machine.execQueueReset d s
  | .poolAudit d => Sys2Proof.Machine.execPoolAudit d s
  | .qengCountersClear d => Sys2Proof.Machine.execQengCountersClear d s
  | .scrubPass t run => Sys2Proof.Machine.execScrubPass t run s
  | .recalTimer t ch eye group => Sys2Proof.Machine.execRecalTimer t ch eye group s
  | .recalibrate ch d eye group => Sys2Proof.Machine.execRecalibrate ch d eye group s
  | .fill ch d => Sys2Proof.Machine.execFill ch d s
  | .qdrCountersClear ch d => Sys2Proof.Machine.execQdrCountersClear ch d s
  | .bulkScrubPass t run => Sys2Proof.Machine.execBulkScrubPass t run s
  | .lifeIdApply t => Sys2Proof.Machine.execLifeIdApply t s
  | .lifeEnergyApply t => Sys2Proof.Machine.execLifeEnergyApply t s
  | .lifeNoticeCommit t => Sys2Proof.Machine.execLifeNoticeCommit t s
  | .lifeExport t => Sys2Proof.Machine.execLifeExport t s
  | .lifeModelRecompute t => Sys2Proof.Machine.execLifeModelRecompute t s
  | .capRefresh t => Sys2Proof.Machine.execCapRefresh t s
  | .readRecord d => Sys2Proof.Machine.execReadRecord d s
  | .readRetired d => Sys2Proof.Machine.execReadRetired d s
  | .registerModule d => Sys2Proof.Machine.execRegisterModule d s
  | .closeRecord d => Sys2Proof.Machine.execCloseRecord d s
  | .exportAll d => Sys2Proof.Machine.execExportAll d s
  | .lifeCountersClear d => Sys2Proof.Machine.execLifeCountersClear d s
  | .windowSummary t lane n => Sys2Proof.Machine.execWindowSummary t lane n s
  | .cyclingClear t lane n => Sys2Proof.Machine.execCyclingClear t lane n s
  | .nodeMissingTimeout t lane => Sys2Proof.Machine.execNodeMissingTimeout t lane s
  | .linkingBreakTimeout t lane => Sys2Proof.Machine.execLinkingBreakTimeout t lane s
  | .faultPacketCommit t => Sys2Proof.Machine.execFaultPacketCommit t s
  | .ackFault d => Sys2Proof.Machine.execAckFault d s
  | .readFault d => Sys2Proof.Machine.execReadFault d s
  | .snapshot d => Sys2Proof.Machine.execSnapshot d s
  | .forceClear d => Sys2Proof.Machine.execForceClear d s
  | .fltCountersClear d => Sys2Proof.Machine.execFltCountersClear d s
  | .periodBoundary t => Sys2Proof.Machine.execPeriodBoundary t s
  | .setPeriod d => Sys2Proof.Machine.execSetPeriod d s
  | .redigest d => Sys2Proof.Machine.execRedigest d s
  | .userCount t k => Sys2Proof.Machine.execUserCount t k s
  | .add r rd ra rb => Sys2Proof.Machine.execAdd r rd ra rb s
  | .sub r rd ra rb => Sys2Proof.Machine.execSub r rd ra rb s
  | .and r rd ra rb => Sys2Proof.Machine.execAnd r rd ra rb s
  | .or r rd ra rb => Sys2Proof.Machine.execOr r rd ra rb s
  | .xor r rd ra rb => Sys2Proof.Machine.execXor r rd ra rb s
  | .nor r rd ra rb => Sys2Proof.Machine.execNor r rd ra rb s
  | .slt r rd ra rb => Sys2Proof.Machine.execSlt r rd ra rb s
  | .sltu r rd ra rb => Sys2Proof.Machine.execSltu r rd ra rb s
  | .sll r rd ra rb => Sys2Proof.Machine.execSll r rd ra rb s
  | .srl r rd ra rb => Sys2Proof.Machine.execSrl r rd ra rb s
  | .sra r rd ra rb => Sys2Proof.Machine.execSra r rd ra rb s
  | .slli r rd ra sh => Sys2Proof.Machine.execSlli r rd ra sh s
  | .srli r rd ra sh => Sys2Proof.Machine.execSrli r rd ra sh s
  | .srai r rd ra sh => Sys2Proof.Machine.execSrai r rd ra sh s
  | .mul r rd ra rb => Sys2Proof.Machine.execMul r rd ra rb s
  | .mulh r rd ra rb => Sys2Proof.Machine.execMulh r rd ra rb s
  | .mulhu r rd ra rb => Sys2Proof.Machine.execMulhu r rd ra rb s
  | .div r rd ra rb => Sys2Proof.Machine.execDiv r rd ra rb s
  | .divu r rd ra rb => Sys2Proof.Machine.execDivu r rd ra rb s
  | .rem r rd ra rb => Sys2Proof.Machine.execRem r rd ra rb s
  | .remu r rd ra rb => Sys2Proof.Machine.execRemu r rd ra rb s
  | .min r rd ra rb => Sys2Proof.Machine.execMin r rd ra rb s
  | .max r rd ra rb => Sys2Proof.Machine.execMax r rd ra rb s
  | .minu r rd ra rb => Sys2Proof.Machine.execMinu r rd ra rb s
  | .maxu r rd ra rb => Sys2Proof.Machine.execMaxu r rd ra rb s
  | .clz r rd ra => Sys2Proof.Machine.execClz r rd ra s
  | .sextb r rd ra => Sys2Proof.Machine.execSextb r rd ra s
  | .sexth r rd ra => Sys2Proof.Machine.execSexth r rd ra s
  | .addi r rd ra imm => Sys2Proof.Machine.execAddi r rd ra imm s
  | .andi r rd ra imm => Sys2Proof.Machine.execAndi r rd ra imm s
  | .ori r rd ra imm => Sys2Proof.Machine.execOri r rd ra imm s
  | .xori r rd ra imm => Sys2Proof.Machine.execXori r rd ra imm s
  | .slti r rd ra imm => Sys2Proof.Machine.execSlti r rd ra imm s
  | .sltiu r rd ra imm => Sys2Proof.Machine.execSltiu r rd ra imm s
  | .lui r rd imm => Sys2Proof.Machine.execLui r rd imm s
  | .lb r rd ra imm => Sys2Proof.Machine.execLb r rd ra imm s
  | .lbu r rd ra imm => Sys2Proof.Machine.execLbu r rd ra imm s
  | .lh r rd ra imm => Sys2Proof.Machine.execLh r rd ra imm s
  | .lhu r rd ra imm => Sys2Proof.Machine.execLhu r rd ra imm s
  | .lw r rd ra imm => Sys2Proof.Machine.execLw r rd ra imm s
  | .lbuP r rd ra imm => Sys2Proof.Machine.execLbuP r rd ra imm s
  | .lhuP r rd ra imm => Sys2Proof.Machine.execLhuP r rd ra imm s
  | .lwP r rd ra imm => Sys2Proof.Machine.execLwP r rd ra imm s
  | .sb r rd ra imm => Sys2Proof.Machine.execSb r rd ra imm s
  | .sh r rd ra imm => Sys2Proof.Machine.execSh r rd ra imm s
  | .sw r rd ra imm => Sys2Proof.Machine.execSw r rd ra imm s
  | .sbP r rd ra imm => Sys2Proof.Machine.execSbP r rd ra imm s
  | .shP r rd ra imm => Sys2Proof.Machine.execShP r rd ra imm s
  | .swP r rd ra imm => Sys2Proof.Machine.execSwP r rd ra imm s
  | .beq r ra rb off => Sys2Proof.Machine.execBeq r ra rb off s
  | .bne r ra rb off => Sys2Proof.Machine.execBne r ra rb off s
  | .blt r ra rb off => Sys2Proof.Machine.execBlt r ra rb off s
  | .bge r ra rb off => Sys2Proof.Machine.execBge r ra rb off s
  | .bltu r ra rb off => Sys2Proof.Machine.execBltu r ra rb off s
  | .bgeu r ra rb off => Sys2Proof.Machine.execBgeu r ra rb off s
  | .j r off => Sys2Proof.Machine.execJ r off s
  | .jal r off => Sys2Proof.Machine.execJal r off s
  | .jr r ra => Sys2Proof.Machine.execJr r ra s
  | .jalr r rd ra => Sys2Proof.Machine.execJalr r rd ra s
  | .call r mask off => Sys2Proof.Machine.execCall r mask off s
  | .ret r mask => Sys2Proof.Machine.execRet r mask s
  | .macs r ac ra rb => Sys2Proof.Machine.execMacs r ac ra rb s
  | .macu r ac ra rb => Sys2Proof.Machine.execMacu r ac ra rb s
  | .msus r ac ra rb => Sys2Proof.Machine.execMsus r ac ra rb s
  | .muls r ac ra rb => Sys2Proof.Machine.execMuls r ac ra rb s
  | .macx r ac ra rb => Sys2Proof.Machine.execMacx r ac ra rb s
  | .macm r ac ra rb => Sys2Proof.Machine.execMacm r ac ra rb s
  | .msum r ac ra rb => Sys2Proof.Machine.execMsum r ac ra rb s
  | .mtac r ac ra rb => Sys2Proof.Machine.execMtac r ac ra rb s
  | .mfacl r ac rd => Sys2Proof.Machine.execMfacl r ac rd s
  | .mfach r ac rd => Sys2Proof.Machine.execMfach r ac rd s
  | .mfacs r ac rd sh => Sys2Proof.Machine.execMfacs r ac rd sh s
  | .acclr r ac => Sys2Proof.Machine.execAcclr r ac s
  | .tas r rd ra => Sys2Proof.Machine.execTas r rd ra s
  | .lrW r rd ra => Sys2Proof.Machine.execLrW r rd ra s
  | .scW r rd ra rb => Sys2Proof.Machine.execScW r rd ra rb s
  | .nop r => Sys2Proof.Machine.execNop r s
  | .wait r => Sys2Proof.Machine.execWait r s
  | .waitWake t r => Sys2Proof.Machine.execWaitWake t r s
  | .svc r code => Sys2Proof.Machine.execSvc r code s
  | .brk r code => Sys2Proof.Machine.execBrk r code s
  | .rett r => Sys2Proof.Machine.execRett r s
  | .mfsr r rd sr => Sys2Proof.Machine.execMfsr r rd sr s
  | .mtsr r sr ra => Sys2Proof.Machine.execMtsr r sr ra s
  | .sync r => Sys2Proof.Machine.execSync r s
  | .evack r j => Sys2Proof.Machine.execEvack r j s
  | .rep r m ra cnt => Sys2Proof.Machine.execRep r m ra cnt s
  | .illegalInstruction r w => Sys2Proof.Machine.execIllegalInstruction r w s
  | .hedgerowEventInputTrap r => Sys2Proof.Machine.execHedgerowEventInputTrap r s
  | .meadowMailboxTrap r => Sys2Proof.Machine.execMeadowMailboxTrap r s
  | .storeBufferDrain r => Sys2Proof.Machine.execStoreBufferDrain r s
  | .coreCntClear r => Sys2Proof.Machine.execCoreCntClear r s
  | .sentinelFire t r => Sys2Proof.Machine.execSentinelFire t r s
  | .reloadCore m d => Sys2Proof.Machine.execReloadCore m d s
  | .meadowCountersClear m d => Sys2Proof.Machine.execMeadowCountersClear m d s
  | .domainSwitchOn req dom => Sys2Proof.Machine.execDomainSwitchOn req dom s
  | .domainSwitchOff req dom => Sys2Proof.Machine.execDomainSwitchOff req dom s
  | .powerDownDrained t dom => Sys2Proof.Machine.execPowerDownDrained t dom s
  | .powerGood t dom => Sys2Proof.Machine.execPowerGood t dom s
  | .powerGoodTimeout t dom => Sys2Proof.Machine.execPowerGoodTimeout t dom s
  | .xrefReady t => Sys2Proof.Machine.execXrefReady t s
  | .xrefTimeout t => Sys2Proof.Machine.execXrefTimeout t s
  | .pllLock t dom => Sys2Proof.Machine.execPllLock t dom s
  | .pllLockTimeout t dom => Sys2Proof.Machine.execPllLockTimeout t dom s
  | .ownStartDone t dom failed eye group => Sys2Proof.Machine.execOwnStartDone t dom failed eye group s
  | .ownStartTimeout t dom => Sys2Proof.Machine.execOwnStartTimeout t dom s
  | .retryRestart t dom => Sys2Proof.Machine.execRetryRestart t dom s
  | .devModeWrite req v => Sys2Proof.Machine.execDevModeWrite req v s
  | .descentComplete t => Sys2Proof.Machine.execDescentComplete t s
  | .levelChangeDone t m => Sys2Proof.Machine.execLevelChangeDone t m s
  | .latHoldExpiry t m => Sys2Proof.Machine.execLatHoldExpiry t m s
  | .paceEvent t m => Sys2Proof.Machine.execPaceEvent t m s
  | .govWrite req m v => Sys2Proof.Machine.execGovWrite req m v s
  | .retryDomain d => Sys2Proof.Machine.execRetryDomain d s
  | .heathCountersClear d => Sys2Proof.Machine.execHeathCountersClear d s
  | .meadowStart m d => Sys2Proof.Machine.execMeadowStart m d s
  | .meadowStop m d => Sys2Proof.Machine.execMeadowStop m d s
  | .padGroupRelease req k => Sys2Proof.Machine.execPadGroupRelease req k s
  | .gpioEdge t g level => Sys2Proof.Machine.execGpioEdge t g level s
  | .gpioAction t g => Sys2Proof.Machine.execGpioAction t g s
  | .gpioPulseEnd t g => Sys2Proof.Machine.execGpioPulseEnd t g s
  | .uplinkEnergy t n => Sys2Proof.Machine.execUplinkEnergy t n s
  | .wakePin t => Sys2Proof.Machine.execWakePin t s
  | .wakeInput t k => Sys2Proof.Machine.execWakeInput t k s
  | .xrefStop t restarted => Sys2Proof.Machine.execXrefStop t restarted s
  | .samplerPass t volts => Sys2Proof.Machine.execSamplerPass t volts s
  | .runNow t volts => Sys2Proof.Machine.execRunNow t volts s
  | .samplerHold t => Sys2Proof.Machine.execSamplerHold t s
  | .samplerRelease t => Sys2Proof.Machine.execSamplerRelease t s
  | .clearCounts t => Sys2Proof.Machine.execClearCounts t s
  | .sample d uv => Sys2Proof.Machine.execSample d uv s
  | .wakeCountersClear d => Sys2Proof.Machine.execWakeCountersClear d s
  | .seamWatchdog t seen => Sys2Proof.Machine.execSeamWatchdog t seen s
  | .islandRelease t sm => Sys2Proof.Machine.execIslandRelease t sm s
  | .seamRealign t sm => Sys2Proof.Machine.execSeamRealign t sm s
  | .islandClockStop t sm => Sys2Proof.Machine.execIslandClockStop t sm s
  | .islandClockReturn t sm => Sys2Proof.Machine.execIslandClockReturn t sm s
  | .seamAccessTimeout t req => Sys2Proof.Machine.execSeamAccessTimeout t req s
  | .seamCountersClear d => Sys2Proof.Machine.execSeamCountersClear d s
  | .stageCopy d => Sys2Proof.Machine.execStageCopy d s
  | .apply d => Sys2Proof.Machine.execApply d s
  | .mantleCountersClear d => Sys2Proof.Machine.execMantleCountersClear d s
  | .claim d => Sys2Proof.Machine.execClaim d s
  | .attest d => Sys2Proof.Machine.execAttest d s
  | .deviceCert d => Sys2Proof.Machine.execDeviceCert d s
  | .debugChallenge d => Sys2Proof.Machine.execDebugChallenge d s
  | .debugUnlock d => Sys2Proof.Machine.execDebugUnlock d s
  | .debugLock d => Sys2Proof.Machine.execDebugLock d s
  | .debugExpiry t => Sys2Proof.Machine.execDebugExpiry t s
  | .journalMark d => Sys2Proof.Machine.execJournalMark d s
  | .journalRead d => Sys2Proof.Machine.execJournalRead d s
  | .revokeMakerSlot d => Sys2Proof.Machine.execRevokeMakerSlot d s
  | .rootStep d => Sys2Proof.Machine.execRootStep d s
  | .quiesceAll d => Sys2Proof.Machine.execQuiesceAll d s
  | .makerDiag d => Sys2Proof.Machine.execMakerDiag d s
  | .journalExport t => Sys2Proof.Machine.execJournalExport t s
  | .journalHeldFlush t => Sys2Proof.Machine.execJournalHeldFlush t s
  | .uplinkFrameRx t n f => Sys2Proof.Machine.execUplinkFrameRx t n f s
  | .ptpMessageRx t n named complete offset => Sys2Proof.Machine.execPtpMessageRx t n named complete offset s
  | .ptpHoldover t => Sys2Proof.Machine.execPtpHoldover t s
  | .handoffRx t n f => Sys2Proof.Machine.execHandoffRx t n f s
  | .handoffOut t n k => Sys2Proof.Machine.execHandoffOut t n k s
  | .exportSend t n j => Sys2Proof.Machine.execExportSend t n j s
  | .writeStaging n off bytes => Sys2Proof.Machine.execWriteStaging n off bytes s
  | .submit t port off len => Sys2Proof.Machine.execSubmit t port off len s
  | .read t n addr count => Sys2Proof.Machine.execRead t n addr count s
  | .uplinkLinkChange t n up an => Sys2Proof.Machine.execUplinkLinkChange t n up an s
  | .uplinkCountersClear n d => Sys2Proof.Machine.execUplinkCountersClear n d s
  | .timeSet d => Sys2Proof.Machine.execTimeSet d s
  | .tbCountersClear d => Sys2Proof.Machine.execTbCountersClear d s
  | .alarm t k => Sys2Proof.Machine.execAlarm t k s
  | .pps t => Sys2Proof.Machine.execPps t s
  | .capture t k => Sys2Proof.Machine.execCapture t k s
  | .tbRateWrite req v => Sys2Proof.Machine.execTbRateWrite req v s
  | .tbSecLoRead t req => Sys2Proof.Machine.execTbSecLoRead t req s
  | .i2cAddressMatch t => Sys2Proof.Machine.execI2cAddressMatch t s
  | .rdAddrWrite addr => Sys2Proof.Machine.execRdAddrWrite addr s
  | .stgDataWrite off bytes => Sys2Proof.Machine.execStgDataWrite off bytes s
  | .subLenWrite t off len => Sys2Proof.Machine.execSubLenWrite t off len s
  | .powerOnReset t loss => Sys2Proof.Machine.execPowerOnReset t loss s
  | .resetN t => Sys2Proof.Machine.execResetN t s
  | .deviceReset d => Sys2Proof.Machine.execDeviceReset d s
  | .deviceResetTimer t => Sys2Proof.Machine.execDeviceResetTimer t s
  | .mantleRomVerify t => Sys2Proof.Machine.execMantleRomVerify t s
  | .bootStage1 t => Sys2Proof.Machine.execBootStage1 t s
  | .bootStage2 t => Sys2Proof.Machine.execBootStage2 t s
  | .bootFallback t => Sys2Proof.Machine.execBootFallback t s
  | .slotWrite d => Sys2Proof.Machine.execSlotWrite d s
  | .slotSeal d => Sys2Proof.Machine.execSlotSeal d s
  | .enumAckTimeout t lane n => Sys2Proof.Machine.execEnumAckTimeout t lane n s
  | .debugAccess t op => Sys2Proof.Machine.execDebugAccess t op s
  | .frameLeft t lane => Sys2Proof.Machine.execFrameLeft t lane s
  | .imageReloadPathReady t => Sys2Proof.Machine.execImageReloadPathReady t s
  | .resetRelease t bootsel maddr install => Sys2Proof.Machine.execResetRelease t bootsel maddr install s

end Sys2Proof.Machine
end

