-- ==== Sys2Proof/Machine/Step.lean ====
section
/-! DEFINITION. One step: the command at the front of the queue. -/

namespace Sys2Proof.Machine

/-- The queue without its front command. -/
def State.rest (s : State) : State := { s with pending := s.pending.tail }

/-- The command at the front is taken and run; with none the block idles (DESIGN CHOICE, log entry 1). -/
def step (s : State) : Host.Outcome State Fault Refusal :=
  match s.pending with
  | [] => .next s
  | c :: _ => exec c s.rest

/-- The state with a command at the front of its queue. -/
def State.enqueue (s : State) (c : Instr) : State := { s with pending := c :: s.pending }

/-- The command that a word spells, if any, in front. -/
def State.withFetchWord (s : State) (nbits w : Nat) : State :=
  match Sys2Proof.decodeTableWord nbits w with
  | some c => s.enqueue c
  | none => s

end Sys2Proof.Machine
end

