-- ==== Sys2Proof/WellFormed.lean ====
section
/-! DEFINITION. Well-formed commands: every operand names something the block has. The machine asks nothing of this: a command
whose operands name nothing has no effect. -/

namespace Sys2Proof

def Instr.wf (i : Instr) : Bool :=
  match i with
  | .registerWrite req addr _ => decide (req < 512 ∧ addr < 2 ^ 32)
  | .clampLogClear req blk inst => decide (req < 512 ∧ inst < (Machine.blkWindow blk).2.2)
  | .completionCommit req => decide (req < 512)
  | .heldOrderRecheck req => decide (req < 512)
  | .paceWindowEnd _ m _ _ _ => decide (m < 32)
  | .paceMinClear req m => decide (req < 512 ∧ m < 32)
  | .dataRx _ lane _ => decide (lane < 144)
  | .detRx _ lane _ => decide (lane < 144)
  | .fltRx _ lane _ => decide (lane < 144)
  | .rspRx _ lane _ => decide (lane < 144)
  | .idRx _ lane _ => decide (lane < 144)
  | .energyRx _ lane _ => decide (lane < 144)
  | .statusRx _ lane _ => decide (lane < 144)
  | .enumReportRx _ lane _ => decide (lane < 144)
  | .enumAckRx _ lane _ => decide (lane < 144)
  | .delayAckRx _ lane _ => decide (lane < 144)
  | .bulkFileRelease _ lane => decide (lane < 144)
  | .creditStallTimer _ lane => decide (lane < 144)
  | .creditSend _ lane => decide (lane < 144)
  | .syncSend _ lane => decide (lane < 144)
  | .syncNow _ lane => decide (lane < 144)
  | .enumWindowClose _ lane => decide (lane < 144)
  | .sweepTimer _ lane => decide (lane < 144)
  | .sweepNow _ lane => decide (lane < 144)
  | .cmdSend _ lane => decide (lane < 144)
  | .cmdTimeout _ lane tag => decide (lane < 144 ∧ tag < 64)
  | .tagQuarantineEnd _ lane tag => decide (lane < 144 ∧ tag < 64)
  | .releaseReportTimeout _ lane n => decide (lane < 144 ∧ 1 ≤ n ∧ n ≤ 128)
  | .linkUp _ lane _ _ => decide (lane < 144)
  | .linkDown _ lane => decide (lane < 144)
  | .linkAttemptTimeout _ lane => decide (lane < 144)
  | .laneStart lane d => decide (lane < 144 ∧ d.req < 512)
  | .laneStop lane d => decide (lane < 144 ∧ d.req < 512)
  | .laneEnumerate lane d => decide (lane < 144 ∧ d.req < 512)
  | .sendCmd lane d => decide (lane < 144 ∧ d.req < 512)
  | .setStream lane d => decide (lane < 144 ∧ d.req < 512)
  | .releaseNode lane d => decide (lane < 144 ∧ d.req < 512)
  | .lineTdr lane d _ => decide (lane < 144 ∧ d.req < 512)
  | .laneCountersClear lane d => decide (lane < 144 ∧ d.req < 512)
  | .laneEnergyDetect _ seen => decide (seen.lane < 144)
  | .laneWakePattern _ seen => decide (seen.lane < 144)
  | .raiseFrameSend _ lane => decide (lane < 144)
  | .gatherWindowClose _ lane => decide (lane < 144)
  | .gatherCapRelease _ lane => decide (lane < 144)
  | .catchupFrameSend _ lane => decide (lane < 144)
  | .holdExpiry _ lane => decide (lane < 144)
  | .fadeEnd _ lane => decide (lane < 144)
  | .entry _ lane k => decide (lane < 144 ∧ k < 3)
  | .overrideEnd _ lane => decide (lane < 144)
  | .calendarOccurrence _ lane => decide (lane < 144)
  | .sunCompute _ lane => decide (lane < 144)
  | .swParamWrite req lane _ _ => decide (req < 512 ∧ lane < 144)
  | .swLimitWrite req lane _ => decide (req < 512 ∧ lane < 144)
  | .overrideWrite req lane node _ _ => decide (req < 512 ∧ lane < 144 ∧ node ≤ 128)
  | .producerFire events => events.all fun e => decide (e.1 < 2352)
  | .taskEnd _ ti => decide (ti < 2880)
  | .refractoryEnd _ ti => decide (ti < 2880)
  | .hedgeDelayIn _ k => decide (k < 16)
  | .hedgeDelayExpiry _ k => decide (k < 16)
  | .hedgeSwFire req _ => decide (req < 512)
  | .selectorWrite req task i _ => decide (req < 512 ∧ (i < if task then 2880 else 2352))
  | .channelWrite req c _ => decide (req < 512 ∧ c < 2048)
  | .hc2Report _ => true
  | .clearPending d => decide (d.req < 512)
  | .hedgeCountersClear d => decide (d.req < 512)
  | .journalMarkInput _ k => decide (k < 4)
  | .qsel r _ => decide (r < 256)
  | .qput r _ => decide (r < 256)
  | .qend r _ => decide (r < 256)
  | .qrwd r => decide (r < 256)
  | .qget r _ => decide (r < 256)
  | .qcnt r _ => decide (r < 256)
  | .qcntw r _ => decide (r < 256)
  | .qfl r => decide (r < 256)
  | .pushRelease r => decide (r < 256)
  | .hwPacketCommit req q words => decide (req < 512 ∧ words.length ≤ 256 ∧ q < 2 ^ 20)
  | .flush d => decide (d.req < 512)
  | .queueStatus d => decide (d.req < 512)
  | .queueReset d => decide (d.req < 512)
  | .poolAudit d => decide (d.req < 512)
  | .qengCountersClear d => decide (d.req < 512)
  | .scrubPass _ run => decide (run.ch < 4)
  | .recalTimer _ ch _ _ => decide (ch < 4)
  | .recalibrate ch d _ _ => decide (ch < 4 ∧ d.req < 512)
  | .fill ch d => decide (ch < 4 ∧ d.req < 512)
  | .qdrCountersClear ch d => decide (ch < 4 ∧ d.req < 512)
  | .bulkScrubPass _ run => decide (run.ch < 4)
  | .lifeIdApply _ => true
  | .lifeEnergyApply _ => true
  | .lifeNoticeCommit _ => true
  | .lifeExport _ => true
  | .lifeModelRecompute _ => true
  | .capRefresh _ => true
  | .readRecord d => decide (d.req < 512)
  | .readRetired d => decide (d.req < 512)
  | .registerModule d => decide (d.req < 512)
  | .closeRecord d => decide (d.req < 512)
  | .exportAll d => decide (d.req < 512)
  | .lifeCountersClear d => decide (d.req < 512)
  | .windowSummary _ lane n => decide (lane < 144 ∧ 1 ≤ n ∧ n ≤ 128)
  | .cyclingClear _ lane n => decide (lane < 144 ∧ 1 ≤ n ∧ n ≤ 128)
  | .nodeMissingTimeout _ lane => decide (lane < 144)
  | .linkingBreakTimeout _ lane => decide (lane < 144)
  | .faultPacketCommit _ => true
  | .ackFault d => decide (d.req < 512)
  | .readFault d => decide (d.req < 512)
  | .snapshot d => decide (d.req < 512)
  | .forceClear d => decide (d.req < 512)
  | .fltCountersClear d => decide (d.req < 512)
  | .periodBoundary _ => true
  | .setPeriod d => decide (d.req < 512)
  | .redigest d => decide (d.req < 512)
  | .userCount _ k => decide (k < 8)
  | .add r _ _ _ => decide (r < 256)
  | .sub r _ _ _ => decide (r < 256)
  | .and r _ _ _ => decide (r < 256)
  | .or r _ _ _ => decide (r < 256)
  | .xor r _ _ _ => decide (r < 256)
  | .nor r _ _ _ => decide (r < 256)
  | .slt r _ _ _ => decide (r < 256)
  | .sltu r _ _ _ => decide (r < 256)
  | .sll r _ _ _ => decide (r < 256)
  | .srl r _ _ _ => decide (r < 256)
  | .sra r _ _ _ => decide (r < 256)
  | .slli r _ _ _ => decide (r < 256)
  | .srli r _ _ _ => decide (r < 256)
  | .srai r _ _ _ => decide (r < 256)
  | .mul r _ _ _ => decide (r < 256)
  | .mulh r _ _ _ => decide (r < 256)
  | .mulhu r _ _ _ => decide (r < 256)
  | .div r _ _ _ => decide (r < 256)
  | .divu r _ _ _ => decide (r < 256)
  | .rem r _ _ _ => decide (r < 256)
  | .remu r _ _ _ => decide (r < 256)
  | .min r _ _ _ => decide (r < 256)
  | .max r _ _ _ => decide (r < 256)
  | .minu r _ _ _ => decide (r < 256)
  | .maxu r _ _ _ => decide (r < 256)
  | .clz r _ _ => decide (r < 256)
  | .sextb r _ _ => decide (r < 256)
  | .sexth r _ _ => decide (r < 256)
  | .addi r _ _ _ => decide (r < 256)
  | .andi r _ _ _ => decide (r < 256)
  | .ori r _ _ _ => decide (r < 256)
  | .xori r _ _ _ => decide (r < 256)
  | .slti r _ _ _ => decide (r < 256)
  | .sltiu r _ _ _ => decide (r < 256)
  | .lui r _ _ => decide (r < 256)
  | .lb r _ _ _ => decide (r < 256)
  | .lbu r _ _ _ => decide (r < 256)
  | .lh r _ _ _ => decide (r < 256)
  | .lhu r _ _ _ => decide (r < 256)
  | .lw r _ _ _ => decide (r < 256)
  | .lbuP r _ _ _ => decide (r < 256)
  | .lhuP r _ _ _ => decide (r < 256)
  | .lwP r _ _ _ => decide (r < 256)
  | .sb r _ _ _ => decide (r < 256)
  | .sh r _ _ _ => decide (r < 256)
  | .sw r _ _ _ => decide (r < 256)
  | .sbP r _ _ _ => decide (r < 256)
  | .shP r _ _ _ => decide (r < 256)
  | .swP r _ _ _ => decide (r < 256)
  | .beq r _ _ _ => decide (r < 256)
  | .bne r _ _ _ => decide (r < 256)
  | .blt r _ _ _ => decide (r < 256)
  | .bge r _ _ _ => decide (r < 256)
  | .bltu r _ _ _ => decide (r < 256)
  | .bgeu r _ _ _ => decide (r < 256)
  | .j r _ => decide (r < 256)
  | .jal r _ => decide (r < 256)
  | .jr r _ => decide (r < 256)
  | .jalr r _ _ => decide (r < 256)
  | .call r _ _ => decide (r < 256)
  | .ret r _ => decide (r < 256)
  | .macs r _ _ _ => decide (r < 256)
  | .macu r _ _ _ => decide (r < 256)
  | .msus r _ _ _ => decide (r < 256)
  | .muls r _ _ _ => decide (r < 256)
  | .macx r _ _ _ => decide (r < 256)
  | .macm r _ _ _ => decide (r < 256)
  | .msum r _ _ _ => decide (r < 256)
  | .mtac r _ _ _ => decide (r < 256)
  | .mfacl r _ _ => decide (r < 256)
  | .mfach r _ _ => decide (r < 256)
  | .mfacs r _ _ _ => decide (r < 256)
  | .acclr r _ => decide (r < 256)
  | .tas r _ _ => decide (r < 256)
  | .lrW r _ _ => decide (r < 256)
  | .scW r _ _ _ => decide (r < 256)
  | .nop r => decide (r < 256)
  | .wait r => decide (r < 256)
  | .waitWake _ r => decide (r < 256)
  | .svc r _ => decide (r < 256)
  | .brk r _ => decide (r < 256)
  | .rett r => decide (r < 256)
  | .mfsr r _ _ => decide (r < 256)
  | .mtsr r _ _ => decide (r < 256)
  | .sync r => decide (r < 256)
  | .evack r _ => decide (r < 256)
  | .rep r _ _ _ => decide (r < 256)
  | .illegalInstruction r _ => decide (r < 256)
  | .hedgerowEventInputTrap r => decide (r < 256)
  | .meadowMailboxTrap r => decide (r < 256)
  | .storeBufferDrain r => decide (r < 256)
  | .coreCntClear r => decide (r < 256)
  | .sentinelFire _ r => decide (r < 256)
  | .reloadCore m d => decide (m < 32 ∧ d.req < 512)
  | .meadowCountersClear m d => decide (m < 32 ∧ d.req < 512)
  | .domainSwitchOn req dom => decide (req < 512 ∧ dom < 50)
  | .domainSwitchOff req dom => decide (req < 512 ∧ dom < 50)
  | .powerDownDrained _ dom => decide (dom < 50)
  | .powerGood _ dom => decide (dom < 50)
  | .powerGoodTimeout _ dom => decide (dom < 50)
  | .xrefReady _ => true
  | .xrefTimeout _ => true
  | .pllLock _ dom => decide (dom < 50)
  | .pllLockTimeout _ dom => decide (dom < 50)
  | .ownStartDone _ dom _ _ _ => decide (dom < 50)
  | .ownStartTimeout _ dom => decide (dom < 50)
  | .retryRestart _ dom => decide (dom < 50)
  | .devModeWrite req _ => decide (req < 512)
  | .descentComplete _ => true
  | .levelChangeDone _ m => decide (m < 32)
  | .latHoldExpiry _ m => decide (m < 32)
  | .paceEvent _ m => decide (m < 32)
  | .govWrite req m _ => decide (req < 512 ∧ m < 32)
  | .retryDomain d => decide (d.req < 512)
  | .heathCountersClear d => decide (d.req < 512)
  | .meadowStart m d => decide (m < 32 ∧ d.req < 512)
  | .meadowStop m d => decide (m < 32 ∧ d.req < 512)
  | .padGroupRelease req k => decide (req < 512 ∧ k < 18)
  | .gpioEdge _ g _ => decide (g < 64)
  | .gpioAction _ g => decide (g < 64)
  | .gpioPulseEnd _ g => decide (g < 64)
  | .uplinkEnergy _ n => decide (n < 4)
  | .wakePin _ => true
  | .wakeInput _ k => decide (k < 16)
  | .xrefStop _ _ => true
  | .samplerPass _ _ => true
  | .runNow _ _ => true
  | .samplerHold _ => true
  | .samplerRelease _ => true
  | .clearCounts _ => true
  | .sample d _ => decide (d.req < 512)
  | .wakeCountersClear d => decide (d.req < 512)
  | .seamWatchdog _ seen => decide (seen.sm < 203)
  | .islandRelease _ sm => decide (sm < 203)
  | .seamRealign _ sm => decide (sm < 203)
  | .islandClockStop _ sm => decide (sm < 203)
  | .islandClockReturn _ sm => decide (sm < 203)
  | .seamAccessTimeout _ req => decide (req < 512)
  | .seamCountersClear d => decide (d.req < 512)
  | .stageCopy d => decide (d.req < 512)
  | .apply d => decide (d.req < 512)
  | .mantleCountersClear d => decide (d.req < 512)
  | .claim d => decide (d.req < 512)
  | .attest d => decide (d.req < 512)
  | .deviceCert d => decide (d.req < 512)
  | .debugChallenge d => decide (d.req < 512)
  | .debugUnlock d => decide (d.req < 512)
  | .debugLock d => decide (d.req < 512)
  | .debugExpiry _ => true
  | .journalMark d => decide (d.req < 512)
  | .journalRead d => decide (d.req < 512)
  | .revokeMakerSlot d => decide (d.req < 512)
  | .rootStep d => decide (d.req < 512)
  | .quiesceAll d => decide (d.req < 512)
  | .makerDiag d => decide (d.req < 512)
  | .journalExport _ => true
  | .journalHeldFlush _ => true
  | .uplinkFrameRx _ n _ => decide (n < 4)
  | .ptpMessageRx _ n _ _ _ => decide (n < 4)
  | .ptpHoldover _ => true
  | .handoffRx _ n _ => decide (n < 4)
  | .handoffOut _ n k => decide (n < 4 ∧ k < 64)
  | .exportSend _ n x => decide (n < 4 ∧ x < 16)
  | .writeStaging n _ _ => decide (n < 4)
  | .submit _ port _ _ => decide ((port < 4 ∨ port = 410))
  | .read _ n _ _ => decide (n < 4)
  | .uplinkLinkChange _ n _ _ => decide (n < 4)
  | .uplinkCountersClear n d => decide (d.req < 512 ∧ n < 4)
  | .timeSet d => decide (d.req < 512)
  | .tbCountersClear d => decide (d.req < 512)
  | .alarm _ k => decide (k < 8)
  | .pps _ => true
  | .capture _ k => decide (k < 16)
  | .tbRateWrite req _ => decide (req < 512)
  | .tbSecLoRead _ req => decide (req < 512)
  | .i2cAddressMatch _ => true
  | .rdAddrWrite _ => true
  | .stgDataWrite _ _ => true
  | .subLenWrite _ _ _ => true
  | .powerOnReset _ loss => loss.torn.all fun r => decide (r.bytes.length = 96 ∧ r.slot < (if r.retired then 4096 else 18432))
  | .resetN _ => true
  | .deviceReset d => decide (d.req < 512)
  | .deviceResetTimer _ => true
  | .mantleRomVerify _ => true
  | .bootStage1 _ => true
  | .bootStage2 _ => true
  | .bootFallback _ => true
  | .slotWrite d => decide (d.req < 512)
  | .slotSeal d => decide (d.req < 512)
  | .enumAckTimeout _ lane n => decide (lane < 144 ∧ 1 ≤ n ∧ n ≤ 128)
  | .debugAccess _ _ => true
  | .frameLeft _ lane => decide (lane < 144)
  | .imageReloadPathReady _ => true
  | .resetRelease _ _ _ _ => true

/-- The requester number a command carries: of a core, of a writer, or in a descriptor (R42). -/
def Instr.asker (i : Instr) : Option Nat :=
  match i with
  | .registerWrite req _ _ => some req
  | .clampLogClear req _ _ => some req
  | .completionCommit req => some req
  | .heldOrderRecheck req => some req
  | .paceWindowEnd _ _ _ _ _ => none
  | .paceMinClear req _ => some req
  | .dataRx _ _ _ => none
  | .detRx _ _ _ => none
  | .fltRx _ _ _ => none
  | .rspRx _ _ _ => none
  | .idRx _ _ _ => none
  | .energyRx _ _ _ => none
  | .statusRx _ _ _ => none
  | .enumReportRx _ _ _ => none
  | .enumAckRx _ _ _ => none
  | .delayAckRx _ _ _ => none
  | .bulkFileRelease _ _ => none
  | .creditStallTimer _ _ => none
  | .creditSend _ _ => none
  | .syncSend _ _ => none
  | .syncNow _ _ => none
  | .enumWindowClose _ _ => none
  | .sweepTimer _ _ => none
  | .sweepNow _ _ => none
  | .cmdSend _ _ => none
  | .cmdTimeout _ _ _ => none
  | .tagQuarantineEnd _ _ _ => none
  | .releaseReportTimeout _ _ _ => none
  | .linkUp _ _ _ _ => none
  | .linkDown _ _ => none
  | .linkAttemptTimeout _ _ => none
  | .laneStart _ d => some d.req
  | .laneStop _ d => some d.req
  | .laneEnumerate _ d => some d.req
  | .sendCmd _ d => some d.req
  | .setStream _ d => some d.req
  | .releaseNode _ d => some d.req
  | .lineTdr _ d _ => some d.req
  | .laneCountersClear _ d => some d.req
  | .laneEnergyDetect _ _ => none
  | .laneWakePattern _ _ => none
  | .raiseFrameSend _ _ => none
  | .gatherWindowClose _ _ => none
  | .gatherCapRelease _ _ => none
  | .catchupFrameSend _ _ => none
  | .holdExpiry _ _ => none
  | .fadeEnd _ _ => none
  | .entry _ _ _ => none
  | .overrideEnd _ _ => none
  | .calendarOccurrence _ _ => none
  | .sunCompute _ _ => none
  | .swParamWrite req _ _ _ => some req
  | .swLimitWrite req _ _ => some req
  | .overrideWrite req _ _ _ _ => some req
  | .producerFire _ => none
  | .taskEnd _ _ => none
  | .refractoryEnd _ _ => none
  | .hedgeDelayIn _ _ => none
  | .hedgeDelayExpiry _ _ => none
  | .hedgeSwFire req _ => some req
  | .selectorWrite req _ _ _ => some req
  | .channelWrite req _ _ => some req
  | .hc2Report _ => none
  | .clearPending d => some d.req
  | .hedgeCountersClear d => some d.req
  | .journalMarkInput _ _ => none
  | .qsel r _ => some r
  | .qput r _ => some r
  | .qend r _ => some r
  | .qrwd r => some r
  | .qget r _ => some r
  | .qcnt r _ => some r
  | .qcntw r _ => some r
  | .qfl r => some r
  | .pushRelease r => some r
  | .hwPacketCommit req _ _ => some req
  | .flush d => some d.req
  | .queueStatus d => some d.req
  | .queueReset d => some d.req
  | .poolAudit d => some d.req
  | .qengCountersClear d => some d.req
  | .scrubPass _ _ => none
  | .recalTimer _ _ _ _ => none
  | .recalibrate _ d _ _ => some d.req
  | .fill _ d => some d.req
  | .qdrCountersClear _ d => some d.req
  | .bulkScrubPass _ _ => none
  | .lifeIdApply _ => none
  | .lifeEnergyApply _ => none
  | .lifeNoticeCommit _ => none
  | .lifeExport _ => none
  | .lifeModelRecompute _ => none
  | .capRefresh _ => none
  | .readRecord d => some d.req
  | .readRetired d => some d.req
  | .registerModule d => some d.req
  | .closeRecord d => some d.req
  | .exportAll d => some d.req
  | .lifeCountersClear d => some d.req
  | .windowSummary _ _ _ => none
  | .cyclingClear _ _ _ => none
  | .nodeMissingTimeout _ _ => none
  | .linkingBreakTimeout _ _ => none
  | .faultPacketCommit _ => none
  | .ackFault d => some d.req
  | .readFault d => some d.req
  | .snapshot d => some d.req
  | .forceClear d => some d.req
  | .fltCountersClear d => some d.req
  | .periodBoundary _ => none
  | .setPeriod d => some d.req
  | .redigest d => some d.req
  | .userCount _ _ => none
  | .add r _ _ _ => some r
  | .sub r _ _ _ => some r
  | .and r _ _ _ => some r
  | .or r _ _ _ => some r
  | .xor r _ _ _ => some r
  | .nor r _ _ _ => some r
  | .slt r _ _ _ => some r
  | .sltu r _ _ _ => some r
  | .sll r _ _ _ => some r
  | .srl r _ _ _ => some r
  | .sra r _ _ _ => some r
  | .slli r _ _ _ => some r
  | .srli r _ _ _ => some r
  | .srai r _ _ _ => some r
  | .mul r _ _ _ => some r
  | .mulh r _ _ _ => some r
  | .mulhu r _ _ _ => some r
  | .div r _ _ _ => some r
  | .divu r _ _ _ => some r
  | .rem r _ _ _ => some r
  | .remu r _ _ _ => some r
  | .min r _ _ _ => some r
  | .max r _ _ _ => some r
  | .minu r _ _ _ => some r
  | .maxu r _ _ _ => some r
  | .clz r _ _ => some r
  | .sextb r _ _ => some r
  | .sexth r _ _ => some r
  | .addi r _ _ _ => some r
  | .andi r _ _ _ => some r
  | .ori r _ _ _ => some r
  | .xori r _ _ _ => some r
  | .slti r _ _ _ => some r
  | .sltiu r _ _ _ => some r
  | .lui r _ _ => some r
  | .lb r _ _ _ => some r
  | .lbu r _ _ _ => some r
  | .lh r _ _ _ => some r
  | .lhu r _ _ _ => some r
  | .lw r _ _ _ => some r
  | .lbuP r _ _ _ => some r
  | .lhuP r _ _ _ => some r
  | .lwP r _ _ _ => some r
  | .sb r _ _ _ => some r
  | .sh r _ _ _ => some r
  | .sw r _ _ _ => some r
  | .sbP r _ _ _ => some r
  | .shP r _ _ _ => some r
  | .swP r _ _ _ => some r
  | .beq r _ _ _ => some r
  | .bne r _ _ _ => some r
  | .blt r _ _ _ => some r
  | .bge r _ _ _ => some r
  | .bltu r _ _ _ => some r
  | .bgeu r _ _ _ => some r
  | .j r _ => some r
  | .jal r _ => some r
  | .jr r _ => some r
  | .jalr r _ _ => some r
  | .call r _ _ => some r
  | .ret r _ => some r
  | .macs r _ _ _ => some r
  | .macu r _ _ _ => some r
  | .msus r _ _ _ => some r
  | .muls r _ _ _ => some r
  | .macx r _ _ _ => some r
  | .macm r _ _ _ => some r
  | .msum r _ _ _ => some r
  | .mtac r _ _ _ => some r
  | .mfacl r _ _ => some r
  | .mfach r _ _ => some r
  | .mfacs r _ _ _ => some r
  | .acclr r _ => some r
  | .tas r _ _ => some r
  | .lrW r _ _ => some r
  | .scW r _ _ _ => some r
  | .nop r => some r
  | .wait r => some r
  | .waitWake _ r => some r
  | .svc r _ => some r
  | .brk r _ => some r
  | .rett r => some r
  | .mfsr r _ _ => some r
  | .mtsr r _ _ => some r
  | .sync r => some r
  | .evack r _ => some r
  | .rep r _ _ _ => some r
  | .illegalInstruction r _ => some r
  | .hedgerowEventInputTrap r => some r
  | .meadowMailboxTrap r => some r
  | .storeBufferDrain r => some r
  | .coreCntClear r => some r
  | .sentinelFire _ r => some r
  | .reloadCore _ d => some d.req
  | .meadowCountersClear _ d => some d.req
  | .domainSwitchOn req _ => some req
  | .domainSwitchOff req _ => some req
  | .powerDownDrained _ _ => none
  | .powerGood _ _ => none
  | .powerGoodTimeout _ _ => none
  | .xrefReady _ => none
  | .xrefTimeout _ => none
  | .pllLock _ _ => none
  | .pllLockTimeout _ _ => none
  | .ownStartDone _ _ _ _ _ => none
  | .ownStartTimeout _ _ => none
  | .retryRestart _ _ => none
  | .devModeWrite req _ => some req
  | .descentComplete _ => none
  | .levelChangeDone _ _ => none
  | .latHoldExpiry _ _ => none
  | .paceEvent _ _ => none
  | .govWrite req _ _ => some req
  | .retryDomain d => some d.req
  | .heathCountersClear d => some d.req
  | .meadowStart _ d => some d.req
  | .meadowStop _ d => some d.req
  | .padGroupRelease req _ => some req
  | .gpioEdge _ _ _ => none
  | .gpioAction _ _ => none
  | .gpioPulseEnd _ _ => none
  | .uplinkEnergy _ _ => none
  | .wakePin _ => none
  | .wakeInput _ _ => none
  | .xrefStop _ _ => none
  | .samplerPass _ _ => none
  | .runNow _ _ => none
  | .samplerHold _ => none
  | .samplerRelease _ => none
  | .clearCounts _ => none
  | .sample d _ => some d.req
  | .wakeCountersClear d => some d.req
  | .seamWatchdog _ _ => none
  | .islandRelease _ _ => none
  | .seamRealign _ _ => none
  | .islandClockStop _ _ => none
  | .islandClockReturn _ _ => none
  | .seamAccessTimeout _ req => some req
  | .seamCountersClear d => some d.req
  | .stageCopy d => some d.req
  | .apply d => some d.req
  | .mantleCountersClear d => some d.req
  | .claim d => some d.req
  | .attest d => some d.req
  | .deviceCert d => some d.req
  | .debugChallenge d => some d.req
  | .debugUnlock d => some d.req
  | .debugLock d => some d.req
  | .debugExpiry _ => none
  | .journalMark d => some d.req
  | .journalRead d => some d.req
  | .revokeMakerSlot d => some d.req
  | .rootStep d => some d.req
  | .quiesceAll d => some d.req
  | .makerDiag d => some d.req
  | .journalExport _ => none
  | .journalHeldFlush _ => none
  | .uplinkFrameRx _ _ _ => none
  | .ptpMessageRx _ _ _ _ _ => none
  | .ptpHoldover _ => none
  | .handoffRx _ _ _ => none
  | .handoffOut _ _ _ => none
  | .exportSend _ _ _ => none
  | .writeStaging _ _ _ => none
  | .submit _ _ _ _ => none
  | .read _ _ _ _ => none
  | .uplinkLinkChange _ _ _ _ => none
  | .uplinkCountersClear _ d => some d.req
  | .timeSet d => some d.req
  | .tbCountersClear d => some d.req
  | .alarm _ _ => none
  | .pps _ => none
  | .capture _ _ => none
  | .tbRateWrite req _ => some req
  | .tbSecLoRead _ req => some req
  | .i2cAddressMatch _ => none
  | .rdAddrWrite _ => none
  | .stgDataWrite _ _ => none
  | .subLenWrite _ _ _ => none
  | .powerOnReset _ _ => none
  | .resetN _ => none
  | .deviceReset d => some d.req
  | .deviceResetTimer _ => none
  | .mantleRomVerify _ => none
  | .bootStage1 _ => none
  | .bootStage2 _ => none
  | .bootFallback _ => none
  | .slotWrite d => some d.req
  | .slotSeal d => some d.req
  | .enumAckTimeout _ _ _ => none
  | .debugAccess _ _ => none
  | .frameLeft _ _ => none
  | .imageReloadPathReady _ => none
  | .resetRelease _ _ _ _ => none

end Sys2Proof
end

