-- ==== Sys2Proof/Safety.lean ====
section
/-! DEFINITION. What a sound state is: every table and memory in canonical form. -/

namespace Sys2Proof

open Sys2Proof.Machine

/-- A memory and the error patterns of its words: no entry equal to what an unlisted one reads as, in rising order. -/
def eccWf (m : Table Byte) (errs : Table (BitVec 72)) : Prop := Memory.wf m = true ∧ twf (fun _ => 0) errs = true

/-- The memories of a core, a meadow and a channel, and a core's general registers, hold no entry equal to what an unlisted byte or register reads as, in rising order. -/
def coresWf (m : Table CoreState) : Prop :=
  twf (fun _ => {}) m = true ∧ ∀ p ∈ m, eccWf p.2.sram p.2.sramErr ∧ twf (fun _ => 0) p.2.g = true
def meadowsWf (m : Table Meadow) : Prop := twf (fun _ => {}) m = true ∧ ∀ p ∈ m, eccWf p.2.sram p.2.sramErr
def chansWf (m : Table Chan) : Prop := twf (fun _ => {}) m = true ∧ ∀ p ∈ m, eccWf p.2.bulk p.2.bulkErr

/-- Mantle's staging memory and the two flash slots; an erased byte of flash is 0xFF (log entry 25). -/
def mantleWf (m : Mantle) : Prop :=
  Memory.wf m.staging = true ∧ twf (fun _ => 0xFF) m.slotA = true ∧ twf (fun _ => 0xFF) m.slotB = true

/-- Every table of the state is canonical: equal contents are equal data. -/
structure Canonical (s : State) : Prop where
  regs : twf resetWord s.regs = true
  staging : twf (fun _ => 0) s.staging = true
  priv : twf (fun _ => 0) s.priv = true
  queues : twf (fun _ => {}) s.queues = true
  prods : twf (fun _ => none) s.prods = true
  conss : twf (fun _ => none) s.conss = true
  chans : chansWf s.chans
  starved : twf (fun _ => false) s.starved = true
  lanes : twf (fun _ => {}) s.lanes = true
  tis : twf (fun _ => {}) s.tis = true
  delays : twf (fun _ => none) s.delays = true
  faults : twf (fun _ => {}) s.faults = true
  cores : coresWf s.cores
  meadows : meadowsWf s.meadows
  doms : twf (fun _ => {}) s.doms = true
  padHeld : twf (fun _ => false) s.padHeld = true
  gpioIn : twf (fun _ => false) s.gpioIn = true
  gpioPulse : twf (fun _ => none) s.gpioPulse = true
  seams : twf seamDef s.seams = true
  pulses : twf (fun _ => {}) s.pulses = true
  crossings : twf (fun _ => {}) s.crossings = true
  fifos : twf (fun _ => []) s.fifos = true
  mantle : mantleWf s.mantle
  upls : twf (fun _ => {}) s.upls = true

end Sys2Proof
end

