-- ==== Sys2Proof/Terms.lean ====
section
/-! DEFINITION. The terms in which statements are made: a core that takes its next instruction, an order that goes through. -/

namespace Sys2Proof

open Sys2Proof.Machine

/-! A core -/

/-- The state once the instruction at PC has been fetched. -/
abbrev fetched (s : State) (r : Nat) : State := (fetch s r).1

/-- Core `r` takes its next instruction alone: it runs, is no half of a pair, repeats nothing, and its fetch is served. The tables are canonical, as they
are in every state a run reaches. -/
structure Ready (s : State) (r : Nat) : Prop where
  sound : Canonical s
  runs : canRun s r = true
  alone : (s.core r).lockstep = false
  single : (s.core r).rep = none
  served : (fetch s r).2 = none

/-- A core's view of a general register, and its PC. -/
abbrev gOf (s : State) (r : Nat) (n : Reg) : Word := (s.core r).greg n
abbrev pcOf (s : State) (r : Nat) : Word := (s.core r).pc

/-- An instruction completes in state `u`: its results are on their way, the one before last's arrive, PC moves on one word,
and it counts as executed. -/
def retireOn (u : State) (r : Nat) (ws : List RegWrite) : State :=
  countInstr (u.modCore r fun c => { c.shift ws with resume := 0, pc := c.pc + 4 }) r

/-- Core `r` completes an instruction whose one result is `v` for general register `rd`. -/
abbrev gives (s : State) (r : Nat) (rd : Reg) (v : Word) : Answer := .next (retireOn (fetched s r) r [.g rd v])

/-- As `retireOn`, and PC goes to `t`; `latch` fills the resume latch. What was fetched behind it is killed. -/
def leapOn (u : State) (r : Nat) (ws : List RegWrite) (t : Word) (latch : Nat := 0) : State :=
  killFetched (countInstr (u.modCore r fun c => { c.shift ws with resume := latch, pc := t }) r) r

/-- A core's accumulator, and an accumulator operation that completes: it leaves `v` in the accumulator at once (R329). -/
abbrev accOf (s : State) (r : Nat) (ac : Bool) : Dword := if ac then (s.core r).ac1 else (s.core r).ac0
def setAcc (s : State) (r : Nat) (ac : Bool) (v : Dword) : State :=
  s.modCore r fun c => if ac then { c with ac1 := v } else { c with ac0 := v }
abbrev accumulates (s : State) (r : Nat) (ac : Bool) (v : Dword) : Answer := .next (retireOn (setAcc (fetched s r) r ac v) r [])

/-- A byte of a memory with errors as a read of its word finds it, corrected where the code corrects it. -/
def readByte (m : Table Byte) (errs : Table (BitVec 72)) (a : Nat) : Byte :=
  if tget 0 errs (a / 8) = 0 then tget 0 m a
  else
    let w := (eccRead (d64 (leNat (memBytes m (8 * (a / 8)) 8))) (tget 0 errs (a / 8))).2.1
    (leBytes 8 w.toNat).getD (a % 8) 0

/-- A byte of a core's local SRAM as its loads see it: the youngest entry of the store buffer that holds it, else what a read of
memory finds. -/
def localByte (c : CoreState) (a : Nat) : Byte :=
  match c.sb.reverse.findSome? fun e => if e.word = a / 8 then e.bytes.getD (a % 8) none else none with
  | some b => b
  | none => readByte c.sram c.sramErr a

/-- What of a core its own instructions can change is, once every result has arrived, as before, but for general register `rd`:
the registers, the accumulators, the reservation, the bytes of local SRAM as loads see them; every other core and every other
part of the block (meadow SRAM, bulk memory, control space, queues) is as before, but for counters of cores. -/
structure KeepsAllBut (rd : Reg) (s t : State) (r : Nat) : Prop where
  regs : ∀ n, n ≠ rd → (t.core r).flush.greg n = (s.core r).flush.greg n
  status : (t.core r).flush.cst = (s.core r).flush.cst ∧ (t.core r).flush.tvec = (s.core r).flush.tvec ∧
    (t.core r).flush.tpc = (s.core r).flush.tpc ∧ (t.core r).flush.tcause = (s.core r).flush.tcause ∧
    (t.core r).flush.tval = (s.core r).flush.tval ∧ (t.core r).flush.trep = (s.core r).flush.trep ∧
    (t.core r).flush.qid = (s.core r).flush.qid
  own : (t.core r).ac0 = (s.core r).ac0 ∧ (t.core r).ac1 = (s.core r).ac1 ∧ (t.core r).rsv = (s.core r).rsv ∧
    (t.core r).st = (s.core r).st ∧ (t.core r).role = (s.core r).role
  memory : ∀ a, localByte (t.core r) a = localByte (s.core r) a
  others : ∀ k, k ≠ r → t.core k = s.core k
  block : t = { s with cores := t.cores, priv := t.priv, stats := t.stats, free := t.free }

/-- A synchronous trap of the instruction at PC, outside a repeat. -/
def trapOn (u : State) (r cause : Nat) (tval : Word) (tpc : Word) : State := sleepJudge (takeTrap u r cause tval tpc 0) (r / 8)

/-- Core `r` transfers to `t`, leaving results `ws` on their way; or goes on to the next word with no result. -/
abbrev jumps (s : State) (r : Nat) (ws : List RegWrite) (t : Word) : Answer := .next (leapOn (fetched s r) r ws t)
abbrev passes (s : State) (r : Nat) : Answer := .next (retireOn (fetched s r) r [])

/-- A number of words from an instruction (R321). -/
abbrev wordsFrom {n : Nat} (pc : Word) (off : BitVec n) : Word := pc + BitVec.ofInt 32 (4 * off.toInt)

/-- After an access the core is still by itself and repeats nothing: no access of it has reloaded or joined it. -/
structure Alone (u : State) (r : Nat) : Prop where
  lock : (u.core r).lockstep = false
  rep : (u.core r).rep = none

/-! Orders -/

/-- The state in which an order's checks are made: the order is open. -/
abbrev opened (s : State) (b : Blk) (i op : Nat) (d : Desc) : State := { s with orders := s.orders ++ [⟨b, i, op, d⟩] }

/-- An order that goes through at once: its port stalls on nothing, no order of the requester is open at the block, Mantle is
free, its form is legal, its requester holds the right, the block's state takes it, and a journaled order finds room. -/
structure Taken (s : State) (b : Blk) (i op : Nat) (d : Desc) : Prop where
  flows : orderStalls s b i d.req = false
  turn : orderOpen s b i d.req = false
  free : mantleBusy s b = false
  form : orderForm (opened s b i op d) b op d = true
  right : orderRight (opened s b i op d) b i op d = true
  legal : verdict (opened s b i op d) b i op d = .go
  awake : (d.wake && !s.domOn 49) = false
  room : orderJournaled b op d = true → journalReady (opened s b i op d) = true

/-- The state in which the block does its work: a journaled order's entry has been written (R528). -/
def logged (s : State) (b : Blk) (i op : Nat) (d : Desc) (m : Meas) : State :=
  let u := opened s b i op d
  if orderJournaled b op d then writeActs u (orderActs u b op d (orderBody b i op d m u).jcode) else u

/-- The order that an order's command submits: its block, instance, opcode and descriptor, and what the block measures for it; none for a command that is no
order, or one that names no such instance. -/
def orderIn : Instr → Option (OrderRef × Meas)
  | .laneStart l d => if l < 144 then some (⟨.lane, l, 1, d⟩, {}) else none
  | .laneStop l d => if l < 144 then some (⟨.lane, l, 2, d⟩, {}) else none
  | .laneEnumerate l d => if l < 144 then some (⟨.lane, l, 3, d⟩, {}) else none
  | .sendCmd l d => if l < 144 then some (⟨.lane, l, 4, d⟩, {}) else none
  | .setStream l d => if l < 144 then some (⟨.lane, l, 5, d⟩, {}) else none
  | .releaseNode l d => if l < 144 then some (⟨.lane, l, 6, d⟩, {}) else none
  | .lineTdr l d v => if l < 144 then some (⟨.lane, l, 7, d⟩, { tdr := v }) else none
  | .laneCountersClear l d => if l < 144 then some (⟨.lane, l, 8, d⟩, {}) else none
  | .clearPending d => some (⟨.hedge, 0, 2, d⟩, {})
  | .hedgeCountersClear d => some (⟨.hedge, 0, 1, d⟩, {})
  | .flush d => some (⟨.qeng, 0, 1, d⟩, {})
  | .queueStatus d => some (⟨.qeng, 0, 2, d⟩, {})
  | .queueReset d => some (⟨.qeng, 0, 3, d⟩, {})
  | .poolAudit d => some (⟨.qeng, 0, 4, d⟩, {})
  | .qengCountersClear d => some (⟨.qeng, 0, 5, d⟩, {})
  | .recalibrate l d e g => if l < 4 then some (⟨.qdr, l, 2, d⟩, { eye := e, group := g }) else none
  | .fill l d => if l < 4 then some (⟨.qdr, l, 1, d⟩, {}) else none
  | .qdrCountersClear l d => if l < 4 then some (⟨.qdr, l, 3, d⟩, {}) else none
  | .readRecord d => some (⟨.life, 0, 1, d⟩, {})
  | .readRetired d => some (⟨.life, 0, 2, d⟩, {})
  | .registerModule d => some (⟨.life, 0, 3, d⟩, {})
  | .closeRecord d => some (⟨.life, 0, 4, d⟩, {})
  | .exportAll d => some (⟨.life, 0, 5, d⟩, {})
  | .lifeCountersClear d => some (⟨.life, 0, 6, d⟩, {})
  | .ackFault d => some (⟨.stat, 0, 0x40, d⟩, {})
  | .readFault d => some (⟨.stat, 0, 0x41, d⟩, {})
  | .snapshot d => some (⟨.stat, 0, 0x42, d⟩, {})
  | .forceClear d => some (⟨.stat, 0, 0x43, d⟩, {})
  | .fltCountersClear d => some (⟨.stat, 0, 0x44, d⟩, {})
  | .setPeriod d => some (⟨.stat, 0, 1, d⟩, {})
  | .redigest d => some (⟨.stat, 0, 2, d⟩, {})
  | .reloadCore l d => if l < 32 then some (⟨.meadow, l, 1, d⟩, {}) else none
  | .meadowCountersClear l d => if l < 32 then some (⟨.meadow, l, 2, d⟩, {}) else none
  | .meadowStart l d => if l < 32 then some (⟨.meadow, l, 0x20, d⟩, {}) else none
  | .meadowStop l d => if l < 32 then some (⟨.meadow, l, 0x21, d⟩, {}) else none
  | .retryDomain d => some (⟨.heath, 0, 0x10, d⟩, {})
  | .heathCountersClear d => some (⟨.heath, 0, 0x11, d⟩, {})
  | .sample d v => some (⟨.heath, 0, 0x31, d⟩, { uv := v })
  | .wakeCountersClear d => some (⟨.heath, 0, 0x30, d⟩, {})
  | .timeSet d => some (⟨.heath, 0, 0x40, d⟩, {})
  | .tbCountersClear d => some (⟨.heath, 0, 0x41, d⟩, {})
  | .seamCountersClear d => some (⟨.seam, 0, 1, d⟩, {})
  | .uplinkCountersClear l d => if l < 4 then some (⟨.upl, l, 1, d⟩, {}) else none
  | .deviceReset d => some (⟨.pad, 0, 1, d⟩, {})
  | .stageCopy d => some (⟨.mantle, 0, 1, d⟩, {})
  | .apply d => some (⟨.mantle, 0, 2, d⟩, {})
  | .mantleCountersClear d => some (⟨.mantle, 0, 3, d⟩, {})
  | .claim d => some (⟨.mantle, 0, 0x10, d⟩, {})
  | .attest d => some (⟨.mantle, 0, 0x11, d⟩, {})
  | .deviceCert d => some (⟨.mantle, 0, 0x12, d⟩, {})
  | .debugChallenge d => some (⟨.mantle, 0, 0x13, d⟩, {})
  | .debugUnlock d => some (⟨.mantle, 0, 0x14, d⟩, {})
  | .debugLock d => some (⟨.mantle, 0, 0x15, d⟩, {})
  | .journalMark d => some (⟨.mantle, 0, 0x16, d⟩, {})
  | .journalRead d => some (⟨.mantle, 0, 0x17, d⟩, {})
  | .revokeMakerSlot d => some (⟨.mantle, 0, 0x18, d⟩, {})
  | .rootStep d => some (⟨.mantle, 0, 0x19, d⟩, {})
  | .quiesceAll d => some (⟨.mantle, 0, 0x1a, d⟩, {})
  | .makerDiag d => some (⟨.mantle, 0, 0x1b, d⟩, {})
  | .slotWrite d => some (⟨.mantle, 0, 0x20, d⟩, {})
  | .slotSeal d => some (⟨.mantle, 0, 0x21, d⟩, {})
  | _ => none

/-- The command completes an order with a code, a result and further words, its block's work having led to `u`. -/
abbrev orderDone (u : State) (b : Blk) (i op : Nat) (d : Desc) (code : Nat) (result : Nat := 0) (extra : List Dword := []) : Answer :=
  answer (complete u b i op d code result extra)

/-! Register writes -/

/-- The requester may write the register at a control address, and nothing between holds the write up. -/
def mayWrite (s : State) (req addr : Nat) : Bool :=
  match named addr with
  | some (b, i, d, k) =>
    (match gate s b i (d.off + d.stride * k) addr with | .open_ => true | _ => false) && writeRight s req b i d k
  | none => false

/-- The command ends a permitted write that left `x`: a correction is counted by its reason, one of reason 3 is a denial too, and a
value that acts beyond a seam is offered there. -/
abbrev written (x : State × Nat) (req : Nat) (b : Blk) (i off : Nat) : Answer :=
  answer (crossValue (noteWrite x.1 req b i off x.2) b i off)

/-! Frames received by a lane -/

/-- A frame has arrived and its units are in use. -/
abbrev rxHeld (u : State) (l type : Nat) (f : RxFrame) : State := rxTake (rxPoured u l f).1 l type (rxOut u l f)

/-- A frame that the lane takes: it receives, its class has units free, and the checks of R66 pass. -/
structure Admitted (u : State) (l type : Nat) (f : RxFrame) : Prop where
  receives : laneTx u l = true
  fits : rxFits u l type f = true
  sound : rxFails (rxHeld u l type f) l type (rxOut u l f) = none

/-- The state in which a frame goes to its consumer, and the frame as it is held. -/
def rxTaken (u : State) (l type : Nat) (f : RxFrame) : State := rxCounts (rxHeld u l type f) l type (f.header type)
def rxFrame (u : State) (l type : Nat) (f : RxFrame) : HeldFrame :=
  { type := type, hdr := f.header type, arrived := (rxTaken u l type f).t48, payload := f.payload }

end Sys2Proof
end

