-- ==== Sys2Proof/Certificates/Slice0/Obligations.lean ====
section
/-! DEFINITION. The statements about the model. -/

open Sys2Proof Sys2Proof.Machine

/-- A core that takes its next instruction completes each ALU function of two registers, shift by a constant, and function of one register: PC moves on one word, the instruction counts as executed, and the only result on its way is RD's, the one the table of R324 gives for the registers as the instruction reads them (no division, R325). -/
def Obligations.AluRegister : Prop :=
  ∀ (s : State) (r : Nat), Ready s r →
      (∀ rd ra rb, exec (.add r rd ra rb) s = gives s r rd (let a := gOf s r ra; let b := gOf s r rb; a + b)) ∧
      (∀ rd ra rb, exec (.sub r rd ra rb) s = gives s r rd (let a := gOf s r ra; let b := gOf s r rb; a - b)) ∧
      (∀ rd ra rb, exec (.and r rd ra rb) s = gives s r rd (let a := gOf s r ra; let b := gOf s r rb; a &&& b)) ∧
      (∀ rd ra rb, exec (.or r rd ra rb) s = gives s r rd (let a := gOf s r ra; let b := gOf s r rb; a ||| b)) ∧
      (∀ rd ra rb, exec (.xor r rd ra rb) s = gives s r rd (let a := gOf s r ra; let b := gOf s r rb; a ^^^ b)) ∧
      (∀ rd ra rb, exec (.nor r rd ra rb) s = gives s r rd (let a := gOf s r ra; let b := gOf s r rb; ~~~(a ||| b))) ∧
      (∀ rd ra rb, exec (.slt r rd ra rb) s = gives s r rd (let a := gOf s r ra; let b := gOf s r rb; if a.toInt < b.toInt then 1 else 0)) ∧
      (∀ rd ra rb, exec (.sltu r rd ra rb) s = gives s r rd (let a := gOf s r ra; let b := gOf s r rb; if a.toNat < b.toNat then 1 else 0)) ∧
      (∀ rd ra rb, exec (.sll r rd ra rb) s = gives s r rd (let a := gOf s r ra; let b := gOf s r rb; a <<< (b.extractLsb' 0 5).toNat)) ∧
      (∀ rd ra rb, exec (.srl r rd ra rb) s = gives s r rd (let a := gOf s r ra; let b := gOf s r rb; a >>> (b.extractLsb' 0 5).toNat)) ∧
      (∀ rd ra rb, exec (.sra r rd ra rb) s = gives s r rd (let a := gOf s r ra; let b := gOf s r rb; a.sshiftRight (b.extractLsb' 0 5).toNat)) ∧
      (∀ rd ra rb, exec (.mul r rd ra rb) s = gives s r rd (let a := gOf s r ra; let b := gOf s r rb; a * b)) ∧
      (∀ rd ra rb, exec (.mulh r rd ra rb) s = gives s r rd (let a := gOf s r ra; let b := gOf s r rb; (((a.signExtend 64) * (b.signExtend 64)) >>> 32).setWidth 32)) ∧
      (∀ rd ra rb, exec (.mulhu r rd ra rb) s = gives s r rd (let a := gOf s r ra; let b := gOf s r rb; (((a.setWidth 64) * (b.setWidth 64)) >>> 32).setWidth 32)) ∧
      (∀ rd ra rb, exec (.min r rd ra rb) s = gives s r rd (let a := gOf s r ra; let b := gOf s r rb; if a.toInt ≤ b.toInt then a else b)) ∧
      (∀ rd ra rb, exec (.max r rd ra rb) s = gives s r rd (let a := gOf s r ra; let b := gOf s r rb; if a.toInt ≤ b.toInt then b else a)) ∧
      (∀ rd ra rb, exec (.minu r rd ra rb) s = gives s r rd (let a := gOf s r ra; let b := gOf s r rb; if a.toNat ≤ b.toNat then a else b)) ∧
      (∀ rd ra rb, exec (.maxu r rd ra rb) s = gives s r rd (let a := gOf s r ra; let b := gOf s r rb; if a.toNat ≤ b.toNat then b else a)) ∧
      (∀ rd ra sh, exec (.slli r rd ra sh) s = gives s r rd (let a := gOf s r ra; a <<< sh.toNat)) ∧
      (∀ rd ra sh, exec (.srli r rd ra sh) s = gives s r rd (let a := gOf s r ra; a >>> sh.toNat)) ∧
      (∀ rd ra sh, exec (.srai r rd ra sh) s = gives s r rd (let a := gOf s r ra; a.sshiftRight sh.toNat)) ∧
      (∀ rd ra, exec (.clz r rd ra) s = gives s r rd (let a := gOf s r ra; w32 (if a = 0 then 32 else 31 - Nat.log2 a.toNat))) ∧
      (∀ rd ra, exec (.sextb r rd ra) s = gives s r rd (let a := gOf s r ra; BitVec.ofInt 32 (sint 8 (a.toNat % 256)))) ∧
      (∀ rd ra, exec (.sexth r rd ra) s = gives s r rd (let a := gOf s r ra; BitVec.ofInt 32 (sint 16 (a.toNat % 65536))))

/-- DIV, DIVU, REM and REMU complete with the truncated quotient and the remainder with the sign of ga, and for a divisor of 0 with 0xFFFF_FFFF and ga; none of them traps, and the most negative number divided by minus one gives itself, remainder 0; ADD, SUB and MUL complete with the sum, difference and product modulo 2^32. -/
def Obligations.DivisionResults : Prop :=
  ∀ (s : State) (r : Nat), Ready s r →
      (∀ rd ra rb, exec (.div r rd ra rb) s = gives s r rd (let a := gOf s r ra; let b := gOf s r rb; if b = 0 then 0xFFFFFFFF else BitVec.ofInt 32 (a.toInt.tdiv b.toInt))) ∧
      (∀ rd ra rb, exec (.divu r rd ra rb) s = gives s r rd (let a := gOf s r ra; let b := gOf s r rb; if b = 0 then 0xFFFFFFFF else w32 (a.toNat / b.toNat))) ∧
      (∀ rd ra rb, exec (.rem r rd ra rb) s = gives s r rd (let a := gOf s r ra; let b := gOf s r rb; if b = 0 then a else BitVec.ofInt 32 (a.toInt.tmod b.toInt))) ∧
      (∀ rd ra rb, exec (.remu r rd ra rb) s = gives s r rd (let a := gOf s r ra; let b := gOf s r rb; if b = 0 then a else w32 (a.toNat % b.toNat))) ∧
      (∀ rd ra rb, gOf s r ra = 0x80000000#32 → gOf s r rb = 0xFFFFFFFF#32 →
        exec (.div r rd ra rb) s = gives s r rd 0x80000000#32 ∧ exec (.rem r rd ra rb) s = gives s r rd 0) ∧
      (∀ rd ra rb, exec (.add r rd ra rb) s = gives s r rd (w32 ((gOf s r ra).toNat + (gOf s r rb).toNat)) ∧
        exec (.sub r rd ra rb) s = gives s r rd (BitVec.ofInt 32 ((gOf s r ra).toInt - (gOf s r rb).toInt)) ∧
        exec (.mul r rd ra rb) s = gives s r rd (w32 ((gOf s r ra).toNat * (gOf s r rb).toNat)))

/-- ADDI, SLTI, SLTIU, ANDI, ORI, XORI and LUI complete with the result R326 gives: IMM16 sign-extended for the first three, zero-extended for the logical ones, shifted left 16 by LUI. -/
def Obligations.AluImmediate : Prop :=
  ∀ (s : State) (r : Nat), Ready s r →
      (∀ rd ra imm, exec (.addi r rd ra imm) s = gives s r rd (let a := gOf s r ra; a + imm.signExtend 32)) ∧
      (∀ rd ra imm, exec (.slti r rd ra imm) s = gives s r rd (let a := gOf s r ra; if a.toInt < imm.toInt then 1 else 0)) ∧
      (∀ rd ra imm, exec (.sltiu r rd ra imm) s = gives s r rd (let a := gOf s r ra; if a.toNat < (imm.signExtend 32).toNat then 1 else 0)) ∧
      (∀ rd ra imm, exec (.andi r rd ra imm) s = gives s r rd (let a := gOf s r ra; a &&& (0#16 ++ imm))) ∧
      (∀ rd ra imm, exec (.ori r rd ra imm) s = gives s r rd (let a := gOf s r ra; a ||| (0#16 ++ imm))) ∧
      (∀ rd ra imm, exec (.xori r rd ra imm) s = gives s r rd (let a := gOf s r ra; a ^^^ (0#16 ++ imm))) ∧
      (∀ rd imm, exec (.lui r rd imm) s = gives s r rd (imm ++ 0#16))

/-- Whenever an ALU or immediate operation of a core that takes its next instruction answers a next state, every general register but RD, every special register, the accumulators, the reservation, every byte of local SRAM as loads see it, every other core, and every other part of the block (meadow SRAM, bulk memory, control space, queues) is as before, once the results on their way have arrived; PC and the instruction count move. -/
def Obligations.AluFrame : Prop :=
  ∀ (s : State) (r : Nat), Ready s r →
      (∀ rd ra rb t, exec (.add r rd ra rb) s = .next t → KeepsAllBut rd s t r) ∧
      (∀ rd ra rb t, exec (.sub r rd ra rb) s = .next t → KeepsAllBut rd s t r) ∧
      (∀ rd ra rb t, exec (.and r rd ra rb) s = .next t → KeepsAllBut rd s t r) ∧
      (∀ rd ra rb t, exec (.or r rd ra rb) s = .next t → KeepsAllBut rd s t r) ∧
      (∀ rd ra rb t, exec (.xor r rd ra rb) s = .next t → KeepsAllBut rd s t r) ∧
      (∀ rd ra rb t, exec (.nor r rd ra rb) s = .next t → KeepsAllBut rd s t r) ∧
      (∀ rd ra rb t, exec (.slt r rd ra rb) s = .next t → KeepsAllBut rd s t r) ∧
      (∀ rd ra rb t, exec (.sltu r rd ra rb) s = .next t → KeepsAllBut rd s t r) ∧
      (∀ rd ra rb t, exec (.sll r rd ra rb) s = .next t → KeepsAllBut rd s t r) ∧
      (∀ rd ra rb t, exec (.srl r rd ra rb) s = .next t → KeepsAllBut rd s t r) ∧
      (∀ rd ra rb t, exec (.sra r rd ra rb) s = .next t → KeepsAllBut rd s t r) ∧
      (∀ rd ra rb t, exec (.mul r rd ra rb) s = .next t → KeepsAllBut rd s t r) ∧
      (∀ rd ra rb t, exec (.mulh r rd ra rb) s = .next t → KeepsAllBut rd s t r) ∧
      (∀ rd ra rb t, exec (.mulhu r rd ra rb) s = .next t → KeepsAllBut rd s t r) ∧
      (∀ rd ra rb t, exec (.div r rd ra rb) s = .next t → KeepsAllBut rd s t r) ∧
      (∀ rd ra rb t, exec (.divu r rd ra rb) s = .next t → KeepsAllBut rd s t r) ∧
      (∀ rd ra rb t, exec (.rem r rd ra rb) s = .next t → KeepsAllBut rd s t r) ∧
      (∀ rd ra rb t, exec (.remu r rd ra rb) s = .next t → KeepsAllBut rd s t r) ∧
      (∀ rd ra rb t, exec (.min r rd ra rb) s = .next t → KeepsAllBut rd s t r) ∧
      (∀ rd ra rb t, exec (.max r rd ra rb) s = .next t → KeepsAllBut rd s t r) ∧
      (∀ rd ra rb t, exec (.minu r rd ra rb) s = .next t → KeepsAllBut rd s t r) ∧
      (∀ rd ra rb t, exec (.maxu r rd ra rb) s = .next t → KeepsAllBut rd s t r) ∧
      (∀ rd ra sh t, exec (.slli r rd ra sh) s = .next t → KeepsAllBut rd s t r) ∧
      (∀ rd ra sh t, exec (.srli r rd ra sh) s = .next t → KeepsAllBut rd s t r) ∧
      (∀ rd ra sh t, exec (.srai r rd ra sh) s = .next t → KeepsAllBut rd s t r) ∧
      (∀ rd ra t, exec (.clz r rd ra) s = .next t → KeepsAllBut rd s t r) ∧
      (∀ rd ra t, exec (.sextb r rd ra) s = .next t → KeepsAllBut rd s t r) ∧
      (∀ rd ra t, exec (.sexth r rd ra) s = .next t → KeepsAllBut rd s t r) ∧
      (∀ rd ra imm t, exec (.addi r rd ra imm) s = .next t → KeepsAllBut rd s t r) ∧
      (∀ rd ra imm t, exec (.slti r rd ra imm) s = .next t → KeepsAllBut rd s t r) ∧
      (∀ rd ra imm t, exec (.sltiu r rd ra imm) s = .next t → KeepsAllBut rd s t r) ∧
      (∀ rd ra imm t, exec (.andi r rd ra imm) s = .next t → KeepsAllBut rd s t r) ∧
      (∀ rd ra imm t, exec (.ori r rd ra imm) s = .next t → KeepsAllBut rd s t r) ∧
      (∀ rd ra imm t, exec (.xori r rd ra imm) s = .next t → KeepsAllBut rd s t r) ∧
      (∀ rd imm t, exec (.lui r rd imm) s = .next t → KeepsAllBut rd s t r)

/-- For a core in a canonical state, whatever instruction n writes, instructions n+1 and n+2 read every general register as if it had written something else; instruction n+3 reads the value, and g0 reads 0. -/
def Obligations.Visibility : Prop :=
  ∀ (u : State) (r : Nat), Canonical u → ∀ (a a' b d : List RegWrite) (n : Reg) (v : Word),
    gOf (retireOn u r a) r n = gOf (retireOn u r a') r n ∧
    gOf (retireOn (retireOn u r a) r b) r n = gOf (retireOn (retireOn u r a') r b) r n ∧
    gOf (retireOn (retireOn (retireOn u r [.g n v]) r b) r d) r n = (if n = 0 then 0 else v) ∧
    gOf u r 0 = 0

/-- Taking a trap completes every earlier result, writes TPC, TCAUSE, TVAL and TREP, sets PIE to IE, clears IE, sets NESTED if IN_TRAP was 1, sets IN_TRAP, clears the reservation and goes to TVEC; it leaves the general registers, the accumulators, the other status bits, QID, the open and the claimed packet, and local memory as loads see it. -/
def Obligations.TrapEntry : Prop :=
  ∀ (s : State) (r cause : Nat) (tval tpc : Word) (trep : Nat), Canonical s →
    let t := trapCore s r cause tval tpc trep
    let c := (s.core r).flush
    let d := t.core r
    (d.tpc = tpc ∧ d.tcause = w32 cause ∧ d.tval = tval ∧ d.trep = w32 trep) ∧
    (bit d.cst 1 = bit c.cst 0 ∧ bit d.cst 0 = false ∧ bit d.cst 2 = true ∧ bit d.cst 3 = (bit c.cst 3 || bit c.cst 2)) ∧
    (∀ k, 4 ≤ k → bit d.cst k = bit c.cst k) ∧
    (d.rsv = none ∧ d.pc = c.tvec ∧ d.tvec = c.tvec ∧ d.qid = c.qid ∧ d.g = c.g ∧ d.w1 = [] ∧ d.w2 = []) ∧
    (d.ac0 = c.ac0 ∧ d.ac1 = c.ac1 ∧ d.rep = none) ∧
    (t.prods = s.prods ∧ t.conss = s.conss ∧ t.queues = s.queues) ∧
    ∀ a, localByte d a = localByte (s.core r) a

/-- SVC and BRK take cause 9 and 8 with the code in TVAL and TPC on the next instruction; a word that is no instruction takes cause 2 with the word in TVAL and TPC on itself, and so do the register combinations declared illegal; the words 0 and 0xFFFF_FFFF are no instruction. -/
def Obligations.SoftwareTraps : Prop :=
  ∀ (s : State) (r : Nat), Ready s r →
      (∀ code, exec (.svc r code) s = .next (trapOn (fetched s r) r 9 (code.setWidth 32) (pcOf s r + 4))) ∧
      (∀ code, exec (.brk r code) s = .next (trapOn (fetched s r) r 8 (code.setWidth 32) (pcOf s r + 4))) ∧
      (∀ w, legalWord w = false → exec (.illegalInstruction r w) s = .next (trapOn (fetched s r) r 2 w (pcOf s r))) ∧
      (∀ rd imm, exec (.lbuP r rd rd imm) s = .next (settleCtl s r true rd imm (trapOn (fetched s r) r 2 (encRI 0x15 rd rd imm) (pcOf s r)))) ∧
      (∀ rd imm, exec (.lhuP r rd rd imm) s = .next (settleCtl s r true rd imm (trapOn (fetched s r) r 2 (encRI 0x16 rd rd imm) (pcOf s r)))) ∧
      (∀ rd imm, exec (.lwP r rd rd imm) s = .next (settleCtl s r true rd imm (trapOn (fetched s r) r 2 (encRI 0x17 rd rd imm) (pcOf s r)))) ∧
      (∀ ac ra, exec (.macm r ac ra ra) s = .next (trapOn (fetched s r) r 2 (encRR 2 0 ra ra 0 (macFunc ac 5)) (pcOf s r))) ∧
      (∀ ac ra, exec (.msum r ac ra ra) s = .next (trapOn (fetched s r) r 2 (encRR 2 0 ra ra 0 (macFunc ac 6)) (pcOf s r))) ∧
      (∀ rd (sr : BitVec 5), 8 < sr.toNat → exec (.mfsr r rd sr) s = .next (trapOn (fetched s r) r 2 (encS rd 0 sr.toNat 5) (pcOf s r))) ∧
      (∀ (sr : BitVec 5) ra, 8 < sr.toNat → exec (.mtsr r sr ra) s = .next (trapOn (fetched s r) r 2 (encS 0 ra sr.toNat 6) (pcOf s r))) ∧
      (∀ m (ra : Reg) (cnt : BitVec 10), (if m then ra ≠ 0 else cnt ≠ 0) →
        exec (.rep r m ra cnt) s = .next (trapOn (fetched s r) r 2 (encP ra m cnt) (pcOf s r))) ∧
      legalWord 0 = false ∧ legalWord 0xFFFFFFFF = false ∧ legalWord 0xE0000000 = true

/-- A branch transfers to its own address plus four times its offset exactly when its condition holds and otherwise goes on to the next word; J and JAL transfer always; JR and JALR transfer to ga as read, and JAL and JALR leave the address after themselves in g31 and RD; a target of JR, JALR or RET that is no word address or lies outside local SRAM raises cause 1 with TVAL the target and TPC the transfer, and no register changes. -/
def Obligations.Transfers : Prop :=
  ∀ (s : State) (r : Nat), Ready s r →
      (∀ ra rb off, exec (.beq r ra rb off) s = (let a := gOf s r ra; let b := gOf s r rb
        if a = b then jumps s r [] (wordsFrom (pcOf s r) off) else passes s r)) ∧
      (∀ ra rb off, exec (.bne r ra rb off) s = (let a := gOf s r ra; let b := gOf s r rb
        if a ≠ b then jumps s r [] (wordsFrom (pcOf s r) off) else passes s r)) ∧
      (∀ ra rb off, exec (.blt r ra rb off) s = (let a := gOf s r ra; let b := gOf s r rb
        if a.toInt < b.toInt then jumps s r [] (wordsFrom (pcOf s r) off) else passes s r)) ∧
      (∀ ra rb off, exec (.bge r ra rb off) s = (let a := gOf s r ra; let b := gOf s r rb
        if b.toInt ≤ a.toInt then jumps s r [] (wordsFrom (pcOf s r) off) else passes s r)) ∧
      (∀ ra rb off, exec (.bltu r ra rb off) s = (let a := gOf s r ra; let b := gOf s r rb
        if a.toNat < b.toNat then jumps s r [] (wordsFrom (pcOf s r) off) else passes s r)) ∧
      (∀ ra rb off, exec (.bgeu r ra rb off) s = (let a := gOf s r ra; let b := gOf s r rb
        if b.toNat ≤ a.toNat then jumps s r [] (wordsFrom (pcOf s r) off) else passes s r)) ∧
      (∀ off, exec (.j r off) s = jumps s r [] (wordsFrom (pcOf s r) off)) ∧
      (∀ off, exec (.jal r off) s = jumps s r [.g 31 (pcOf s r + 4)] (wordsFrom (pcOf s r) off)) ∧
      (∀ ra, (gOf s r ra).toNat % 4 = 0 → (gOf s r ra).toNat < 65536 →
        exec (.jr r ra) s = jumps s r [] (gOf s r ra) ∧
        ∀ rd, exec (.jalr r rd ra) s = jumps s r [.g rd (pcOf s r + 4)] (gOf s r ra)) ∧
      (∀ ra, (gOf s r ra).toNat % 4 ≠ 0 ∨ 65536 ≤ (gOf s r ra).toNat →
        exec (.jr r ra) s = .next (trapOn (fetched s r) r 1 (gOf s r ra) (pcOf s r)) ∧
        ∀ rd, exec (.jalr r rd ra) s = .next (trapOn (fetched s r) r 1 (gOf s r ra) (pcOf s r))) ∧
      (∀ mask, (gOf s r 31).toNat % 4 ≠ 0 ∨ 65536 ≤ (gOf s r 31).toNat →
        exec (.ret r mask) s = .next (trapOn (fetched s r) r 1 (gOf s r 31) (pcOf s r)))

/-- CALL with an aligned g29 whose stores all go through stores g31 and the selected pairs, a 64-bit slot each from sp on, low word first, then leaves g29 := sp and g31 := its own address + 4 and transfers to its target; RET with a usable g31 and an aligned g29 whose loads all go through restores the pairs, g31 from slot 0 and g29 := g29 + frame, and transfers to g31; a misaligned g29 raises cause 5 with TVAL sp in CALL, cause 4 with TVAL g29 in RET. Each hypothesis on the state after the accesses says that no access of them has reloaded or joined the core. -/
def Obligations.CallRet : Prop :=
  ∀ (s : State) (r : Nat), Ready s r →
      (∀ (mask : BitVec 8) (off : BitVec 18),
        let pairs := (List.range 8).filter fun k => mask.getLsbD k
        let sp := gOf s r 29 - w32 (8 * (1 + pairs.length))
        let slots := ((31, 0) :: pairs.map fun k => (12 + 2 * k, 13 + 2 * k)).zipIdx.map fun p =>
          ((sp + w32 (8 * p.2)).toNat, gOf s r (BitVec.ofNat 5 p.1.1), gOf s r (BitVec.ofNat 5 p.1.2))
        let x := storeSlots r slots (fetched s r)
        ((gOf s r 29).toNat % 8 = 0 → x.2 = .val [] → Alone x.1 r →
          exec (.call r mask off) s = .next (leapOn x.1 r [.g 29 sp, .g 31 (pcOf s r + 4)] (wordsFrom (pcOf s r) off))) ∧
        ((gOf s r 29).toNat % 8 ≠ 0 → exec (.call r mask off) s = .next (trapOn (fetched s r) r 5 sp (pcOf s r)))) ∧
      (∀ (mask : BitVec 8) (bs : List Byte),
        let pairs := (List.range 8).filter fun k => mask.getLsbD k
        let sp := gOf s r 29
        let t := gOf s r 31
        let x := loadSlots r ((List.range (2 * (1 + pairs.length))).map fun k => (sp + w32 (4 * k)).toNat) (fetched s r)
        let word := fun k => w32 (leAt bs (4 * k) 4)
        (t.toNat % 4 = 0 → t.toNat < 65536 → sp.toNat % 8 = 0 → x.2 = .val bs → Alone x.1 r →
          exec (.ret r mask) s = .next (leapOn x.1 r
            ((pairs.zipIdx.flatMap fun p => [RegWrite.g (BitVec.ofNat 5 (12 + 2 * p.1)) (word (2 + 2 * p.2)),
              RegWrite.g (BitVec.ofNat 5 (13 + 2 * p.1)) (word (3 + 2 * p.2))]) ++
              [.g 31 (word 0), .g 29 (sp + w32 (8 * (1 + pairs.length)))]) t)) ∧
        (t.toNat % 4 = 0 → t.toNat < 65536 → sp.toNat % 8 ≠ 0 →
          exec (.ret r mask) s = .next (trapOn (fetched s r) r 4 sp (pcOf s r))))

/-- For either accumulator, MACS, MACU, MSUS, MULS, MACX, MTAC and ACCLR complete with the new accumulator R327 gives, modulo 2^64 and in the accumulator at once, and with no register result; MFACL, MFACH and MFACS complete with the low half, the high half, or the accumulator shifted right arithmetically and saturated, as the result for RD. -/
def Obligations.MacGroup : Prop :=
  ∀ (s : State) (r : Nat), Ready s r →
      (∀ ac ra rb, exec (.macs r ac ra rb) s = accumulates s r ac (let a := gOf s r ra; let b := gOf s r rb
          let al := sint 16 (a.toNat % 65536); let ah := sint 16 (a.toNat / 65536)
          let bl := sint 16 (b.toNat % 65536); let bh := sint 16 (b.toNat / 65536)
          accOf s r ac + BitVec.ofInt 64 (al * bl + ah * bh))) ∧
      (∀ ac ra rb, exec (.macu r ac ra rb) s = accumulates s r ac (let a := gOf s r ra; let b := gOf s r rb
          accOf s r ac + d64 (a.toNat % 65536 * (b.toNat % 65536) + a.toNat / 65536 * (b.toNat / 65536)))) ∧
      (∀ ac ra rb, exec (.msus r ac ra rb) s = accumulates s r ac (let a := gOf s r ra; let b := gOf s r rb
          let al := sint 16 (a.toNat % 65536); let ah := sint 16 (a.toNat / 65536)
          let bl := sint 16 (b.toNat % 65536); let bh := sint 16 (b.toNat / 65536)
          accOf s r ac - BitVec.ofInt 64 (al * bl + ah * bh))) ∧
      (∀ ac ra rb, exec (.muls r ac ra rb) s = accumulates s r ac (let a := gOf s r ra; let b := gOf s r rb
          let al := sint 16 (a.toNat % 65536); let ah := sint 16 (a.toNat / 65536)
          let bl := sint 16 (b.toNat % 65536); let bh := sint 16 (b.toNat / 65536)
          BitVec.ofInt 64 (al * bl + ah * bh))) ∧
      (∀ ac ra rb, exec (.macx r ac ra rb) s = accumulates s r ac (let a := gOf s r ra; let b := gOf s r rb
          let al := sint 16 (a.toNat % 65536); let ah := sint 16 (a.toNat / 65536)
          let bl := sint 16 (b.toNat % 65536); let bh := sint 16 (b.toNat / 65536)
          accOf s r ac + BitVec.ofInt 64 (al * bh + ah * bl))) ∧
      (∀ ac ra rb, exec (.mtac r ac ra rb) s = accumulates s r ac (let a := gOf s r ra; let b := gOf s r rb
          d64 (a.toNat + 2 ^ 32 * b.toNat))) ∧
      (∀ ac, exec (.acclr r ac) s = accumulates s r ac 0) ∧
      (∀ ac rd, exec (.mfacl r ac rd) s = gives s r rd (w32 ((accOf s r ac).toNat % 2 ^ 32))) ∧
      (∀ ac rd, exec (.mfach r ac rd) s = gives s r rd (w32 ((accOf s r ac).toNat / 2 ^ 32))) ∧
      (∀ ac rd (sh : BitVec 5), exec (.mfacs r ac rd sh) s = gives s r rd
        (BitVec.ofInt 32 (max (-2147483648) (min 2147483647 ((accOf s r ac).toInt / 2 ^ sh.toNat)))))

/-- With RA and RB different and both loads served, MACM and MSUM complete: the accumulator takes MACS or MSUS of the two words loaded from ga and gb, and RA and RB take ga + 4 and gb + 4; if a load faults, the instruction traps with that load's cause and address, and neither register nor the accumulator changes. The hypotheses on the state after the loads say that no access of them has reloaded or joined the core. -/
def Obligations.MacMemory : Prop :=
  ∀ (s : State) (r : Nat), Ready s r →
      (∀ (ac : Bool) (ra rb : Reg) (p q : List Byte), ra ≠ rb →
        let a := gOf s r ra
        let b := gOf s r rb
        let x := macLoad (fetched s r) r a.toNat
        let y := macLoad x.1 r b.toNat
        let pw := leNat p
        let qw := leNat q
        let prod := BitVec.ofInt 64 (sint 16 (pw % 65536) * sint 16 (qw % 65536) + sint 16 (pw / 65536) * sint 16 (qw / 65536))
        (x.2 = .val p → y.2 = .val q → p.length = 4 → q.length = 4 → Alone (setAcc y.1 r ac (accOf y.1 r ac + prod)) r →
          exec (.macm r ac ra rb) s = .next (retireOn (setAcc y.1 r ac (accOf y.1 r ac + prod)) r [.g ra (a + 4), .g rb (b + 4)])) ∧
        (x.2 = .val p → y.2 = .val q → p.length = 4 → q.length = 4 → Alone (setAcc y.1 r ac (accOf y.1 r ac - prod)) r →
          exec (.msum r ac ra rb) s = .next (retireOn (setAcc y.1 r ac (accOf y.1 r ac - prod)) r [.g ra (a + 4), .g rb (b + 4)])) ∧
        (∀ cause at_, (x.2 = .trap cause at_ → Alone x.1 r →
            exec (.macm r ac ra rb) s = .next (trapOn x.1 r cause (w32 at_) (pcOf x.1 r)) ∧
            exec (.msum r ac ra rb) s = .next (trapOn x.1 r cause (w32 at_) (pcOf x.1 r))) ∧
          (x.2 = .val p → y.2 = .trap cause at_ → Alone y.1 r →
            exec (.macm r ac ra rb) s = .next (trapOn y.1 r cause (w32 at_) (pcOf y.1 r)) ∧
            exec (.msum r ac ra rb) s = .next (trapOn y.1 r cause (w32 at_) (pcOf y.1 r)))))

/-- A load whose access is served completes with RD the loaded bytes, sign-extended by LB and LH and zero-extended by the others; a store whose access is served completes with no result; the address is ga + IMM16, or ga for a post-increment form, which also writes ga + IMM16 to RA. After an access to control space the rest of the block goes on (settle). The hypotheses on the state after the access say that the access has not reloaded or joined the core. -/
def Obligations.LoadsStores : Prop :=
  ∀ (s : State) (r : Nat), Ready s r →
      (∀ rd ra (imm : BitVec 16) bs, let x := coreLoad (fetched s r) r (gOf s r ra + imm.signExtend 32).toNat 1; let v := w32 (leNat bs)
        x.2 = .val bs → bs.length = 1 → Alone x.1 r →
        exec (.lb r rd ra imm) s = .next (settleCtl s r false ra imm (retireOn x.1 r [.g rd (BitVec.ofInt 32 (sint 8 v.toNat))]))) ∧
      (∀ rd ra (imm : BitVec 16) bs, let x := coreLoad (fetched s r) r (gOf s r ra + imm.signExtend 32).toNat 1; let v := w32 (leNat bs)
        x.2 = .val bs → bs.length = 1 → Alone x.1 r →
        exec (.lbu r rd ra imm) s = .next (settleCtl s r false ra imm (retireOn x.1 r [.g rd (v)]))) ∧
      (∀ rd ra (imm : BitVec 16) bs, let x := coreLoad (fetched s r) r (gOf s r ra + imm.signExtend 32).toNat 2; let v := w32 (leNat bs)
        x.2 = .val bs → bs.length = 2 → Alone x.1 r →
        exec (.lh r rd ra imm) s = .next (settleCtl s r false ra imm (retireOn x.1 r [.g rd (BitVec.ofInt 32 (sint 16 v.toNat))]))) ∧
      (∀ rd ra (imm : BitVec 16) bs, let x := coreLoad (fetched s r) r (gOf s r ra + imm.signExtend 32).toNat 2; let v := w32 (leNat bs)
        x.2 = .val bs → bs.length = 2 → Alone x.1 r →
        exec (.lhu r rd ra imm) s = .next (settleCtl s r false ra imm (retireOn x.1 r [.g rd (v)]))) ∧
      (∀ rd ra (imm : BitVec 16) bs, let x := coreLoad (fetched s r) r (gOf s r ra + imm.signExtend 32).toNat 4; let v := w32 (leNat bs)
        x.2 = .val bs → bs.length = 4 → Alone x.1 r →
        exec (.lw r rd ra imm) s = .next (settleCtl s r false ra imm (retireOn x.1 r [.g rd (v)]))) ∧
      (∀ rd ra (imm : BitVec 16) bs, rd ≠ ra → let x := coreLoad (fetched s r) r (gOf s r ra).toNat 1; let v := w32 (leNat bs)
        x.2 = .val bs → bs.length = 1 → Alone x.1 r →
        exec (.lbuP r rd ra imm) s = .next (settleCtl s r true ra imm (retireOn x.1 r [.g rd v, .g ra (gOf s r ra + imm.signExtend 32)]))) ∧
      (∀ rd ra (imm : BitVec 16) bs, rd ≠ ra → let x := coreLoad (fetched s r) r (gOf s r ra).toNat 2; let v := w32 (leNat bs)
        x.2 = .val bs → bs.length = 2 → Alone x.1 r →
        exec (.lhuP r rd ra imm) s = .next (settleCtl s r true ra imm (retireOn x.1 r [.g rd v, .g ra (gOf s r ra + imm.signExtend 32)]))) ∧
      (∀ rd ra (imm : BitVec 16) bs, rd ≠ ra → let x := coreLoad (fetched s r) r (gOf s r ra).toNat 4; let v := w32 (leNat bs)
        x.2 = .val bs → bs.length = 4 → Alone x.1 r →
        exec (.lwP r rd ra imm) s = .next (settleCtl s r true ra imm (retireOn x.1 r [.g rd v, .g ra (gOf s r ra + imm.signExtend 32)]))) ∧
      (∀ rs ra (imm : BitVec 16), let x := coreStore (fetched s r) r (gOf s r ra + imm.signExtend 32).toNat (leBytes 1 (gOf s r rs).toNat)
        x.2 = .val [] → Alone x.1 r →
        exec (.sb r rs ra imm) s = .next (settleCtl s r false ra imm (retireOn x.1 r []))) ∧
      (∀ rs ra (imm : BitVec 16), let x := coreStore (fetched s r) r (gOf s r ra + imm.signExtend 32).toNat (leBytes 2 (gOf s r rs).toNat)
        x.2 = .val [] → Alone x.1 r →
        exec (.sh r rs ra imm) s = .next (settleCtl s r false ra imm (retireOn x.1 r []))) ∧
      (∀ rs ra (imm : BitVec 16), let x := coreStore (fetched s r) r (gOf s r ra + imm.signExtend 32).toNat (leBytes 4 (gOf s r rs).toNat)
        x.2 = .val [] → Alone x.1 r →
        exec (.sw r rs ra imm) s = .next (settleCtl s r false ra imm (retireOn x.1 r []))) ∧
      (∀ rs ra (imm : BitVec 16), let x := coreStore (fetched s r) r (gOf s r ra).toNat (leBytes 1 (gOf s r rs).toNat)
        x.2 = .val [] → Alone x.1 r →
        exec (.sbP r rs ra imm) s = .next (settleCtl s r true ra imm (retireOn x.1 r [.g ra (gOf s r ra + imm.signExtend 32)]))) ∧
      (∀ rs ra (imm : BitVec 16), let x := coreStore (fetched s r) r (gOf s r ra).toNat (leBytes 2 (gOf s r rs).toNat)
        x.2 = .val [] → Alone x.1 r →
        exec (.shP r rs ra imm) s = .next (settleCtl s r true ra imm (retireOn x.1 r [.g ra (gOf s r ra + imm.signExtend 32)]))) ∧
      (∀ rs ra (imm : BitVec 16), let x := coreStore (fetched s r) r (gOf s r ra).toNat (leBytes 4 (gOf s r rs).toNat)
        x.2 = .val [] → Alone x.1 r →
        exec (.swP r rs ra imm) s = .next (settleCtl s r true ra imm (retireOn x.1 r [.g ra (gOf s r ra + imm.signExtend 32)])))

/-- When the access of a load or store comes to a trap, the instruction takes it with its cause, TVAL the address and TPC the instruction, and RD and RA stay; a misaligned load raises cause 4 and a misaligned store cause 5, an address that reaches nothing cause 6 or 7, and so does a byte or halfword access to control space or the core-private registers. -/
def Obligations.AccessTraps : Prop :=
  ∀ (s : State) (r : Nat), Ready s r →
      (∀ rd ra (imm : BitVec 16) c at_, let x := coreLoad (fetched s r) r (gOf s r ra + imm.signExtend 32).toNat 1
        x.2 = .trap c at_ → Alone x.1 r →
        exec (.lb r rd ra imm) s = .next (settleCtl s r false ra imm (trapOn x.1 r c (w32 at_) (pcOf x.1 r)))) ∧
      (∀ rd ra (imm : BitVec 16) c at_, let x := coreLoad (fetched s r) r (gOf s r ra + imm.signExtend 32).toNat 1
        x.2 = .trap c at_ → Alone x.1 r →
        exec (.lbu r rd ra imm) s = .next (settleCtl s r false ra imm (trapOn x.1 r c (w32 at_) (pcOf x.1 r)))) ∧
      (∀ rd ra (imm : BitVec 16) c at_, let x := coreLoad (fetched s r) r (gOf s r ra + imm.signExtend 32).toNat 2
        x.2 = .trap c at_ → Alone x.1 r →
        exec (.lh r rd ra imm) s = .next (settleCtl s r false ra imm (trapOn x.1 r c (w32 at_) (pcOf x.1 r)))) ∧
      (∀ rd ra (imm : BitVec 16) c at_, let x := coreLoad (fetched s r) r (gOf s r ra + imm.signExtend 32).toNat 2
        x.2 = .trap c at_ → Alone x.1 r →
        exec (.lhu r rd ra imm) s = .next (settleCtl s r false ra imm (trapOn x.1 r c (w32 at_) (pcOf x.1 r)))) ∧
      (∀ rd ra (imm : BitVec 16) c at_, let x := coreLoad (fetched s r) r (gOf s r ra + imm.signExtend 32).toNat 4
        x.2 = .trap c at_ → Alone x.1 r →
        exec (.lw r rd ra imm) s = .next (settleCtl s r false ra imm (trapOn x.1 r c (w32 at_) (pcOf x.1 r)))) ∧
      (∀ rd ra (imm : BitVec 16) c at_, rd ≠ ra → let x := coreLoad (fetched s r) r (gOf s r ra).toNat 1
        x.2 = .trap c at_ → Alone x.1 r →
        exec (.lbuP r rd ra imm) s = .next (settleCtl s r true ra imm (trapOn x.1 r c (w32 at_) (pcOf x.1 r)))) ∧
      (∀ rd ra (imm : BitVec 16) c at_, rd ≠ ra → let x := coreLoad (fetched s r) r (gOf s r ra).toNat 2
        x.2 = .trap c at_ → Alone x.1 r →
        exec (.lhuP r rd ra imm) s = .next (settleCtl s r true ra imm (trapOn x.1 r c (w32 at_) (pcOf x.1 r)))) ∧
      (∀ rd ra (imm : BitVec 16) c at_, rd ≠ ra → let x := coreLoad (fetched s r) r (gOf s r ra).toNat 4
        x.2 = .trap c at_ → Alone x.1 r →
        exec (.lwP r rd ra imm) s = .next (settleCtl s r true ra imm (trapOn x.1 r c (w32 at_) (pcOf x.1 r)))) ∧
      (∀ rs ra (imm : BitVec 16) c at_, let x := coreStore (fetched s r) r (gOf s r ra + imm.signExtend 32).toNat (leBytes 1 (gOf s r rs).toNat)
        x.2 = .trap c at_ → Alone x.1 r →
        exec (.sb r rs ra imm) s = .next (settleCtl s r false ra imm (trapOn x.1 r c (w32 at_) (pcOf x.1 r)))) ∧
      (∀ rs ra (imm : BitVec 16) c at_, let x := coreStore (fetched s r) r (gOf s r ra + imm.signExtend 32).toNat (leBytes 2 (gOf s r rs).toNat)
        x.2 = .trap c at_ → Alone x.1 r →
        exec (.sh r rs ra imm) s = .next (settleCtl s r false ra imm (trapOn x.1 r c (w32 at_) (pcOf x.1 r)))) ∧
      (∀ rs ra (imm : BitVec 16) c at_, let x := coreStore (fetched s r) r (gOf s r ra + imm.signExtend 32).toNat (leBytes 4 (gOf s r rs).toNat)
        x.2 = .trap c at_ → Alone x.1 r →
        exec (.sw r rs ra imm) s = .next (settleCtl s r false ra imm (trapOn x.1 r c (w32 at_) (pcOf x.1 r)))) ∧
      (∀ rs ra (imm : BitVec 16) c at_, let x := coreStore (fetched s r) r (gOf s r ra).toNat (leBytes 1 (gOf s r rs).toNat)
        x.2 = .trap c at_ → Alone x.1 r →
        exec (.sbP r rs ra imm) s = .next (settleCtl s r true ra imm (trapOn x.1 r c (w32 at_) (pcOf x.1 r)))) ∧
      (∀ rs ra (imm : BitVec 16) c at_, let x := coreStore (fetched s r) r (gOf s r ra).toNat (leBytes 2 (gOf s r rs).toNat)
        x.2 = .trap c at_ → Alone x.1 r →
        exec (.shP r rs ra imm) s = .next (settleCtl s r true ra imm (trapOn x.1 r c (w32 at_) (pcOf x.1 r)))) ∧
      (∀ rs ra (imm : BitVec 16) c at_, let x := coreStore (fetched s r) r (gOf s r ra).toNat (leBytes 4 (gOf s r rs).toNat)
        x.2 = .trap c at_ → Alone x.1 r →
        exec (.swP r rs ra imm) s = .next (settleCtl s r true ra imm (trapOn x.1 r c (w32 at_) (pcOf x.1 r)))) ∧
      (∀ a n, a % n ≠ 0 → (coreLoad s r a n).2 = .trap 4 a) ∧
      (∀ a bs, a % bs.length ≠ 0 → (coreStore s r a bs).2 = .trap 5 a) ∧
      (∀ a n, a % n = 0 → place r a = .nothing → (coreLoad s r a n).2 = .trap 6 a) ∧
      (∀ a bs, a % bs.length = 0 → place r a = .nothing → (coreStore s r a bs).2 = .trap 7 a) ∧
      (∀ a n, a % n = 0 → n ≠ 4 → (place r a = .ctl ∨ ∃ off, place r a = .priv off) → (coreLoad s r a n).2 = .trap 6 a) ∧
      (∀ a bs, a % bs.length = 0 → bs.length ≠ 4 → (place r a = .ctl ∨ ∃ off, place r a = .priv off) →
        (coreStore s r a bs).2 = .trap 7 a)

/-- For a core in a canonical state, a store to local SRAM changes exactly the bytes it stores, as the core's loads see local SRAM, and a load from local SRAM that gives bytes gives exactly the bytes seen there and leaves them as they are, whether they lie in the store buffer or in memory. -/
def Obligations.LocalMemory : Prop :=
  ∀ (s : State) (r a : Nat), Canonical s →
    (∀ bs : List Byte, bs.length = 1 ∨ bs.length = 2 ∨ bs.length = 4 → a % bs.length = 0 → a < 0x10000 →
      let x := coreStore s r a bs
      x.2 = .val [] ∧ ∀ i, localByte (x.1.core r) i = if a ≤ i ∧ i < a + bs.length then bs.getD (i - a) 0 else localByte (s.core r) i) ∧
    (∀ n bs, n = 1 ∨ n = 2 ∨ n = 4 → a % n = 0 → a < 0x10000 →
      let x := coreLoad s r a n
      x.2 = .val bs → bs = ((List.range n).map fun k => localByte (s.core r) (a + k)) ∧ ∀ i, localByte (x.1.core r) i = localByte (s.core r) i)

/-- MFSR gives RD the special register's value as an instruction reads it, for each of the registers 0 to 8; MTSR writes the register, with the visibility rule's delay, for 0 to 5, leaves ICOUNT and CORE alone, and for QID acts as QSEL; both trap with cause 2 for a number above 8. -/
def Obligations.SpecialRegisters : Prop :=
  ∀ (s : State) (r : Nat), Ready s r →
      (∀ rd, exec (.mfsr r rd 0) s = gives s r rd (cstNow s r)) ∧
      (∀ rd, exec (.mfsr r rd 1) s = gives s r rd (s.core r).tvec) ∧
      (∀ rd, exec (.mfsr r rd 2) s = gives s r rd (s.core r).tpc) ∧
      (∀ rd, exec (.mfsr r rd 3) s = gives s r rd (s.core r).tcause) ∧
      (∀ rd, exec (.mfsr r rd 4) s = gives s r rd (s.core r).tval) ∧
      (∀ rd, exec (.mfsr r rd 5) s = gives s r rd (s.core r).trep) ∧
      (∀ rd, exec (.mfsr r rd 6) s = gives s r rd (s.core r).qid) ∧
      (∀ rd, exec (.mfsr r rd 7) s = gives s r rd (s.core r).icount) ∧
      (∀ rd, exec (.mfsr r rd 8) s = gives s r rd (BitVec.ofNat 32 r)) ∧
      (∀ sr ra, sr.toNat < 6 → exec (.mtsr r sr ra) s = .next (retireOn (fetched s r) r [.sr sr (gOf s r ra)])) ∧
      (∀ ra, exec (.mtsr r 6 ra) s = .next (retireOn (qSelect (fetched s r) r (gOf s r ra &&& 0xFFFFF#32).toNat) r [.sr 6 (gOf s r ra &&& 0xFFFFF)])) ∧
      (∀ ra, exec (.mtsr r 7 ra) s = passes s r ∧ exec (.mtsr r 8 ra) s = passes s r) ∧
      (∀ sr, 8 < sr.toNat →
        (∀ rd, exec (.mfsr r rd sr) s = .next (trapOn (fetched s r) r 2 (encS rd 0 sr.toNat 0x05) (pcOf s r))) ∧
        ∀ ra, exec (.mtsr r sr ra) s = .next (trapOn (fetched s r) r 2 (encS 0 ra sr.toNat 0x06) (pcOf s r)))

/-- NOP only goes on; SYNC goes on once the store buffer is empty; WAIT empties the store buffer, drops the reservation, samples the wake condition into CST.W and goes on where it is true and waits where it is not; EVACK ends the busy phase of input j exactly where its EVP bit is set; RETT transfers to TPC, sets IE from PIE, clears IN_TRAP and TREP and leaves TREP's count in the resume latch. -/
def Obligations.SystemGroup : Prop :=
  ∀ (s : State) (r : Nat), Ready s r →
      exec (.nop r) s = passes s r ∧
      (exec (.sync r) s = .next (retireOn (drainAll (fetched s r) r) r []) ∧
        ((drainAll (fetched s r) r).core r).sb = [] ∧ ∀ a, localByte ((drainAll (fetched s r) r).core r) a = localByte (s.core r) a) ∧
      (let u := dropRsv (drainAll (fetched s r) r) r
       let sampled := fun (w : Nat) => u.modCore r fun c => { c with cst := setBits c.cst 14 14 w }
       (wakeCond u r = true → exec (.wait r) s = .next (retireOn (sampled 1) r [])) ∧
       (wakeCond u r = false → ∃ t, exec (.wait r) s = .next (sleepJudge t (r / 8)) ∧ (t.core r).st = .waiting ∧
         (t.core r).pc = pcOf s r + 4 ∧ (t.core r).rsv = none ∧ (t.core r).sb = [])) ∧
      (∀ j, exec (.evack r j) s = if evpBit s r j.toNat then .next (retireOn (tiEnd (fetched s r) (tiCore r j.toNat)) r []) else passes s r) ∧
      exec (.rett r) s =
        .next (leapOn (fetched s r) r [.sr 31 (BitVec.ofNat 32 (bits (s.core r).cst 1 1)), .sr 5 0] (s.core r).tpc (bits (s.core r).trep 15 0))

/-- REP with a register or a count makes the next word repeat that many times (a count field n is n + 1 times), 0 from a register skips the word, and a nonzero resume latch gives the count in its place; while a repeat runs, an iteration of an ALU instruction leaves PC in place and counts down, the last one goes on to the next word; and a word that may not follow REP traps with cause 3 with TPC the prefix. -/
def Obligations.Repeats : Prop :=
  ∀ (s : State) (r : Nat), Ready s r →
      (∀ cnt, (s.core r).resume = 0 → ∃ t, exec (.rep r true 0 cnt) s = .next t ∧ (t.core r).pc = pcOf s r + 4 ∧
        (t.core r).rep = some ⟨cnt.toNat + 1, pcOf s r, none, []⟩) ∧
      (∀ ra, (s.core r).resume = 0 → gOf s r ra ≠ 0 → ∃ t, exec (.rep r false ra 0) s = .next t ∧ (t.core r).pc = pcOf s r + 4 ∧
        (t.core r).rep = some ⟨min (gOf s r ra).toNat 65535, pcOf s r, none, []⟩) ∧
      (∀ ra, (s.core r).resume = 0 → gOf s r ra = 0 → ∃ t, exec (.rep r false ra 0) s = .next t ∧ (t.core r).pc = pcOf s r + 8 ∧
        (t.core r).rep = none) ∧
      (∀ cnt, (s.core r).resume ≠ 0 → ∃ t, exec (.rep r true 0 cnt) s = .next t ∧ (t.core r).pc = pcOf s r + 4 ∧
        (t.core r).resume = 0 ∧ (t.core r).rep = some ⟨(s.core r).resume, pcOf s r, none, []⟩) ∧
      (∀ (p : RepSt) rd ra rb, let w := encRR 0x01 rd ra rb 0 0x00
        let s1 := s.modCore r fun c => { c with rep := some { p with body := some w } }
        (1 < p.left → ∃ t, exec (.add r rd ra rb) s1 = .next t ∧ (t.core r).pc = pcOf s r ∧
          (t.core r).rep = some { p with body := some w, left := p.left - 1, carried := [] } ∧ (t.core r).w1 = [.g rd (gOf s r ra + gOf s r rb)]) ∧
        (p.left ≤ 1 → ∃ t, exec (.add r rd ra rb) s1 = .next t ∧ (t.core r).pc = pcOf s r + 4 ∧ (t.core r).rep = none ∧
          (t.core r).w1 = [.g rd (gOf s r ra + gOf s r rb)])) ∧
      (∀ p : RepSt, p.body = none → let s1 := s.modCore r fun c => { c with rep := some p }
        (fetch s1 r).2 = none → exec (.wait r) s1 = .next (trapOn (fetched s1 r) r 3 (encS 0 0 0 0x01) p.prefixPc))

/-- On an aligned word of local SRAM, once the store buffer has drained and where the word is not poisoned, TAS gives RD the word and leaves 1 in it, LR.W gives RD the word and reserves its granule, and SC.W stores gb and gives 0 where the core's reservation is on the granule and else stores nothing and gives 1; SC.W clears the reservation either way, and no other byte of local SRAM changes. -/
def Obligations.AtomicsLocal : Prop :=
  ∀ (s : State) (r : Nat) (ra : Reg), Ready s r →
      let a := (gOf s r ra).toNat
      let u := drainAll (fetched s r) r
      let word := leNat ((List.range 4).map fun k => localByte (s.core r) (a + k))
      a % 4 = 0 → a < 0x10000 → (u.core r).bad a = false →
      (∀ rd, ∃ t, exec (.tas r rd ra) s = .next (retireOn t r [.g rd (BitVec.ofNat 32 word)]) ∧ (t.core r).sb = [] ∧
        ∀ i, localByte (t.core r) i = if i = a then 1 else if a ≤ i ∧ i < a + 4 then 0 else localByte (s.core r) i) ∧
      (∀ rd, ∃ t, exec (.lrW r rd ra) s = .next (retireOn t r [.g rd (BitVec.ofNat 32 word)]) ∧
        (t.core r).rsv = some (a / 16 * 16) ∧ ∀ i, localByte (t.core r) i = localByte (s.core r) i) ∧
      (∀ rd rb, (s.core r).rsv = some (a / 16 * 16) → ∃ t, exec (.scW r rd ra rb) s = .next (retireOn t r [.g rd 0]) ∧
        (t.core r).rsv = none ∧
        ∀ i, localByte (t.core r) i = if a ≤ i ∧ i < a + 4 then (leBytes 4 (gOf s r rb).toNat).getD (i - a) 0 else localByte (s.core r) i) ∧
      (∀ rd rb, (s.core r).rsv ≠ some (a / 16 * 16) → ∃ t, exec (.scW r rd ra rb) s = .next (retireOn t r [.g rd 1]) ∧
        (t.core r).rsv = none ∧ t.priv = (u.bumpPriv r CORE_CNT_SC_FAIL).priv ∧
        ∀ i, localByte (t.core r) i = localByte (s.core r) i)

/-- On a served, unpoisoned word of the SRAM of the core's own active meadow, whose read corrects a single-bit error, TAS leaves 1 there and SC.W stores only while both the core's marker and its entry in the meadow's table name the granule; an atomic at a misaligned address traps with cause 4 (TAS, LR.W) or 5 (SC.W) and anywhere that is no SRAM with cause 6 or 7, with TVAL the address. -/
def Obligations.AtomicsElsewhere : Prop :=
  ∀ (s : State) (r : Nat) (ra : Reg), Ready s r →
      let a := (gOf s r ra).toNat
      let u := drainAll (fetched s r) r
      (a % 4 ≠ 0 →
        (∀ rd, exec (.tas r rd ra) s = .next (trapOn u r 4 (gOf s r ra) (pcOf s r)) ∧ exec (.lrW r rd ra) s = .next (trapOn u r 4 (gOf s r ra) (pcOf s r))) ∧
        ∀ rd rb, exec (.scW r rd ra rb) s = .next (trapOn u r 5 (gOf s r ra) (pcOf s r))) ∧
      (a % 4 = 0 → atPlace r a = none →
        (∀ rd, exec (.tas r rd ra) s = .next (trapOn u r 6 (gOf s r ra) (pcOf s r)) ∧ exec (.lrW r rd ra) s = .next (trapOn u r 6 (gOf s r ra) (pcOf s r))) ∧
        ∀ rd rb, exec (.scW r rd ra rb) s = .next (trapOn u r 7 (gOf s r ra) (pcOf s r))) ∧
      (∀ off, a % 4 = 0 → atPlace r a = some (.sram (r / 8) off) → sramRefuses u (r / 8) r (u.roleOf r) = false → sramBad u (r / 8) off = false →
        let v := (sramCheck u (r / 8) off r).1
        let old := BitVec.ofNat 32 (leNat (memBytes (v.meadow (r / 8)).sram off 4))
        (∀ rd, exec (.tas r rd ra) s = .next (retireOn (sramPut v r (r / 8) off [1, 0, 0, 0]).1 r [.g rd old])) ∧
        (∀ rd, exec (.lrW r rd ra) s = .next (retireOn (reserve v r (.sram (r / 8) off) old) r [.g rd old])) ∧
        (∀ rd rb, reserved u r (.sram (r / 8) off) = true →
          exec (.scW r rd ra rb) s = .next (retireOn (dropRsv (sramPut u r (r / 8) off (leBytes 4 (gOf s r rb).toNat)).1 r) r [.g rd 0])) ∧
        ∀ rd rb, reserved u r (.sram (r / 8) off) = false →
          exec (.scW r rd ra rb) s = .next (retireOn (dropRsv (u.bumpPriv r CORE_CNT_SC_FAIL) r) r [.g rd 1]))

/-- A running core at a boundary with IE set takes cause 14 for the lowest enabled event input that has an event, with TVAL the input and its hop count, and cause 15 where its mailbox bit is enabled and pending and no enabled input has an event; TPC is the next instruction, or the prefix with TREP the iterations left in a repeat; with no such cause, or with IE clear, nothing happens. -/
def Obligations.AsynchronousTraps : Prop :=
  ∀ (s : State) (r : Nat), canRun s r = true →
      let c := s.core r
      let event := fun (j : Nat) => bit c.gov (4 + j) && evpBit s r j
      let tval := fun (j : Nat) => BitVec.ofNat 32 (j + 256 * (s.ti (tiCore (face s r) j)).lastHop)
      let pcs := match c.rep with | some p => (p.prefixPc, p.left) | none => (c.pc, c.resume)
      let taken := fun (cause : Nat) (v : Word) => sleepJudge (takeTrap s r cause v pcs.1 pcs.2) (r / 8)
      (∀ j, bit c.gov 0 = true → j < 4 → event j = true → (∀ i, i < j → event i = false) →
        exec (.hedgerowEventInputTrap r) s = .next (taken 14 (tval j)) ∧ exec (.meadowMailboxTrap r) s = .next s) ∧
      ((∀ i, i < 4 → event i = false) → exec (.hedgerowEventInputTrap r) s = .next s ∧
        exec (.meadowMailboxTrap r) s = .next (if bit c.gov 0 && bit c.gov 12 && mbp s r then taken 15 0 else s)) ∧
      (bit c.gov 0 = false → exec (.hedgerowEventInputTrap r) s = .next s ∧ exec (.meadowMailboxTrap r) s = .next s)

/-- STORE_BUFFER_DRAIN writes the valid bytes of the oldest entry to local SRAM and leaves what the core's loads see as it was; CORE_CNT_CLEAR by a core of role installer or maker makes every core-private register but CORE_LOCKSTEP_TPC read 0 and by another role does nothing; WAIT_WAKE lets a core whose wake condition is true run on and otherwise does nothing. -/
def Obligations.CoreHousekeeping : Prop :=
  (∀ (s : State) (r : Nat), Canonical s → (s.core r).lockstep = false → (s.core r).upper = false →
      ∃ t, exec (.storeBufferDrain r) s = .next t ∧ (t.core r).sb = (s.core r).sb.tail ∧
        (∀ a, localByte (t.core r) a = localByte (s.core r) a) ∧
        (∀ e, (s.core r).sb.head? = some e → ∀ a b, a / 8 = e.word → e.bytes.getD (a % 8) none = some b → tget 0 (t.core r).sram a = b)) ∧
    (∀ (s : State) (r : Nat), Canonical s → (s.core r).lockstep = false → 2 ≤ s.roleOf r →
      ∃ t, exec (.coreCntClear r) s = .next t ∧ t = { s with priv := t.priv } ∧
        ∀ off, off < 0x1000 → t.priv' r off = if off = CORE_LOCKSTEP_TPC then s.priv' r off else 0) ∧
    (∀ (s : State) (r : Nat), (s.core r).lockstep = false → s.roleOf r < 2 → exec (.coreCntClear r) s = .next s) ∧
    (∀ (s : State) (t r : Nat), Canonical s → let u := s.reach t
      (u.core r).st = .waiting → (u.core r).upper = false → (u.core r).lockstep = false → wakeCond u r = true → (u.meadow (r / 8)).st = .active →
      ∃ v, exec (.waitWake t r) s = .next v ∧ (v.core r).st = .running ∧ (v.core r).pc = (u.core r).pc ∧ ∀ k, k ≠ r → (v.core k).st = (u.core k).st ∧ (v.core k).pc = (u.core k).pc) ∧
    (∀ (s : State) (t r : Nat), let u := s.reach t
      (u.core r).st ≠ .waiting ∨ wakeCond u r = false → exec (.waitWake t r) s = .next u)

/-- QSEL sets QID and leaves the core with no open packet and no claim but one on the queue it selects; QPUT adds gE and gE+1 as one word to the open packet, opening one where none is open, commits it at once in a raw-word class, stores nothing where the queue refuses, and waits without effect where there is no room; QEND commits the open packet with the header the engine seals and gives 0, and gives 1 for a packet that a flush discarded and 2 for one rewound or for none; QRWD leaves no packet open. -/
def Obligations.QueueProducing : Prop :=
  ∀ (s : State) (r : Nat), Ready s r →
      let u := fetched s r
      let q := (s.core r).curQid
      let ends := fun (v : State) ws => (.next (settle (retireOn v r ws)) : Answer)
      (∀ ra, exec (.qsel r ra) s = ends (qSelect u r (gOf s r ra &&& 0xFFFFF).toNat) [.sr 6 (gOf s r ra &&& 0xFFFFF)]) ∧
      (∀ p, (qSelect u r p).prod r = none ∧ (qSelect u r p).cons r = (u.cons r).filter fun x => decide (x.q = p)) ∧
      (∀ ra, ra.getLsbD 0 = true → exec (.qput r ra) s = .next (settle (trapOn u r 2 (encQ 0 ra 1) (pcOf s r)))) ∧
      (∀ ra : Reg, ra.getLsbD 0 = false → let w := gOf s r (ra + 1) ++ gOf s r ra
        (u.prod r = none → pushRoom u r q = .ok → isRaw u q = false →
          ∃ v bs, exec (.qput r ra) s = ends v [] ∧ v.prod r = some ⟨q, [⟨w, 0⟩], .none, bs⟩ ∧ v.queues = u.queues) ∧
        (∀ x, u.prod r = some x → x.swallow = .none → pushRoom u r q = .ok → x.words.length ≤ 255 →
          ∃ v bs, exec (.qput r ra) s = ends v [] ∧ v.prod r = some { x with words := x.words ++ [⟨w, 0⟩], blocks := bs } ∧ v.queues = u.queues) ∧
        (u.prod r = none → pushRoom u r q = .ok → isRaw u q = true →
          exec (.qput r ra) s = ends (commitPkt (u.bankAdd (bankChan (chanOf q)) 0 1) q [⟨w, 0⟩]) []) ∧
        (u.prod r = none → pushRoom u r q = .refused → exec (.qput r ra) s = ends (u.bump .qeng 0 QENG_CNT_REFUSED) []) ∧
        (u.prod r = none → (pushRoom u r q = .full ∨ pushRoom u r q = .starved ∨ pushRoom u r q = .unavail) →
          ∃ v, exec (.qput r ra) s = .next (settle v) ∧ (v.core r).hang = some ⟨.push q w, encQ 0 ra 1, s.uptime⟩ ∧ (v.core r).pc = pcOf s r)) ∧
      (∀ rd, (u.prod r = none → exec (.qend r rd) s = ends u [.g rd (if isRaw u q then 0 else 2)]) ∧
        (∀ x, u.prod r = some x → x.swallow = .flushed → exec (.qend r rd) s = ends (closeProd u r) [.g rd 1]) ∧
        (∀ x, u.prod r = some x → x.swallow = .rewound ∨ x.swallow = .epoch → exec (.qend r rd) s = ends (closeProd u r) [.g rd 2]) ∧
        (∀ x h ws, u.prod r = some x → x.swallow = .none → x.words = h :: ws → 0x40 ≤ bits h.w 7 0 → bits h.w 7 0 ≤ 0xEF →
          exec (.qend r rd) s = ends (commitPkt (closeProd u r) x.q ({ h with w := sealHeader r ws.length h.w } :: ws) x.blocks) [.g rd 0]) ∧
        (∀ x h ws, u.prod r = some x → x.swallow = .none → x.words = h :: ws → bits h.w 7 0 < 0x40 ∨ 0xEF < bits h.w 7 0 →
          exec (.qend r rd) s = ends (commitPkt ((closeProd u r).bump .qeng 0 QENG_CNT_TYPE_CLAMP) x.q
            ({ h with w := sealHeader r ws.length h.w } :: ws) x.blocks) [.g rd 0])) ∧
      (exec (.qrwd r) s = ends (qRewind u r) [] ∧ (qRewind u r).prod r = none)

/-- QGET gives ABSENT at a queue whose channel is not available, REFUSED at one that refuses, the idle item at an empty one, the header of the oldest committed packet where nothing is claimed and then its words in order, each corrected where its check corrects it, and traps with cause 12, with TVAL the queue and the word's place in its packet, at a poisoned word; QCNT gives the committed packets and QCNTW the words held, or 0 and all ones at a disabled, BROKEN or unavailable queue; QFL flushes the queue, or is refused. -/
def Obligations.QueueConsuming : Prop :=
  ∀ (s : State) (r : Nat), Ready s r →
      let u := fetched s r
      let q := (s.core r).curQid
      let ends := fun (v : State) ws => (.next (settle (retireOn v r ws)) : Answer)
      (∀ rd : Reg, rd.getLsbD 0 = true → exec (.qget r rd) s = .next (settle (trapOn u r 2 (encQ rd 0 4) (pcOf s r)))) ∧
      (∀ rd : Reg, rd.getLsbD 0 = false →
        (u.chanAvail (chanOf q) = false → exec (.qget r rd) s = ends (u.bump .qeng 0 QENG_CNT_ABSENT) [.g rd 0xFF, .g (rd + 1) 0]) ∧
        (u.chanAvail (chanOf q) = true → ((u.chan (chanOf q)).paused && !qRefused u r q false) = false → let v := readDesc u q
          let gets := fun (x : State) (w : QWord) (idx a : Nat) => let y := (popWord x q w idx a).1
            exec (.qget r rd) s = if w.poison then .next (settle (trapOn y r 12 (BitVec.ofNat 32 (q + idx % 256 * 2 ^ 20)) (pcOf s r)))
              else ends y [.g rd (w.read.setWidth 32), .g (rd + 1) ((w.read >>> 32).setWidth 32)]
          (qRefused v r q false = true → exec (.qget r rd) s = ends (v.bump .qeng 0 QENG_CNT_REFUSED) [.g rd 0xFE, .g (rd + 1) 0]) ∧
          (qRefused v r q false = false →
            (v.cons r = none → (v.queue q).pkts = [] →
              exec (.qget r rd) s = ends v [.g rd ((idleItem v q).setWidth 32), .g (rd + 1) ((idleItem v q >>> 32).setWidth 32)]) ∧
            (∀ h ws ps, v.cons r = none → (v.queue q).pkts = (h :: ws) :: ps →
              gets (keepClaim (dropHead v q (h :: ws) ps) r q ws 1 ((v.queue q).base + 1)) h 0 (v.queue q).base) ∧
            (∀ w ws n a, v.cons r = some ⟨q, w :: ws, n, a⟩ → gets (keepClaim v r q ws (n + 1) (a + 1)) w n a)))) ∧
      (∀ rd, exec (.qcnt r rd) s = .next (retireOn u r [.g rd (BitVec.ofNat 32
        (if qShut u q || !u.chanAvail (chanOf q) then 0 else (u.queue q).pkts.length))])) ∧
      (∀ rd, exec (.qcntw r rd) s = .next (retireOn u r [.g rd (BitVec.ofNat 32
        (if qShut u q || !u.chanAvail (chanOf q) then 0xFFFFFFFF else heldWords u q))])) ∧
      (qRefused u r q false = true → exec (.qfl r) s = ends (rewindOpen (u.bump .qeng 0 QENG_CNT_REFUSED) r .rewound) []) ∧
      (qRefused u r q false = false → u.chanAvail (chanOf q) = true → (u.chan (chanOf q)).paused = false →
        exec (.qfl r) s = ends (qFlush u q).1 [] ∧ ((qFlush u q).1.queue q).pkts = [])

/-- PUSH_RELEASE completes a waiting QPUT where its queue now takes the word and leaves it waiting where it does not; SENTINEL_FIRE withdraws an access that has waited to its core's enabled limit, counts it for the core and its meadow and traps the core with cause 10, and does nothing while the sentinel is off, the limit is not reached or nothing waits. -/
def Obligations.WaitsInMemory : Prop :=
  (∀ (s : State) (r q n : Nat) (ra : Reg), Canonical s → r < 256 → (s.core r).hang = some ⟨.push q (gOf s r (ra + 1) ++ gOf s r ra), encQ 0 ra 1, n⟩ →
      (s.core r).curQid = q → (s.core r).upper = false → (s.core r).lockstep = false → (s.core r).rep = none →
      let t := s.modCore r fun c => { c with hang := none }
      let w := gOf s r (ra + 1) ++ gOf s r ra
      (∀ v, qPush t r q w = some v → exec (.pushRelease r) s = .next (settle (noteStarved (retireOn v r [])))) ∧
      (qPush t r q w = none → exec (.pushRelease r) s = .next (settle (noteStarved s)))) ∧
    (∀ (s : State) (t r : Nat), r < 256 → let u := s.reach t
      let limit := u.reg .heath 0 (HEATH_SENTINEL + 4 * r)
      (∀ h, (u.core r).hang = some h → bit limit 17 = true → h.since + bits limit 16 0 * 1000 ≤ u.uptime →
        (u.core r).upper = false → (u.core r).lockstep = false → (u.core r).rep = none →
        let v := ((u.bump .heath 0 (HEATH_SENTINEL_CNT + 4 * r)).bump .meadow (r / 8) MEADOW_CNT_SENTINEL).modCore r fun c => { c with hang := none }
        exec (.sentinelFire t r) s = .next (settle (sleepJudge (noteStarved (takeTrap v r 10 h.what.tval (v.core r).pc 0)) (r / 8)))) ∧
      ((u.core r).hang = none ∨ bit limit 17 = false → exec (.sentinelFire t r) s = .next (settle u)) ∧
      (∀ h, (u.core r).hang = some h → u.uptime < h.since + bits limit 16 0 * 1000 → exec (.sentinelFire t r) s = .next (settle u)))

/-- For every command that submits an order (all 61 of them but APPLY and a RETRY_DOMAIN of D49): where the port takes it, the requester has no order open at the block, Mantle serves no report, and the checks of form, right and state pass with room in the journal, the command answers a next state in which the order's journal entry has been written first, then the block's work done, and, if the block completes it at once, its completion formed. -/
def Obligations.OrdersGoThrough : Prop :=
  ∀ (c : Instr) (b : Blk) (i op : Nat) (d : Desc) (m : Meas) (s : State), orderIn c = some (⟨b, i, op, d⟩, m) →
    ¬(b = .mantle ∧ op = 2) → ¬(b = .heath ∧ op = 0x10 ∧ d.target.toNat = 49) → Taken s b i op d →
      let r := orderBody b i op d m (logged s b i op d m)
      (∀ code, r.code = some code → exec c s = orderDone r.s b i op d code r.result r.extra) ∧ (r.code = none → exec c s = answer r.s)

/-- An order of a requester that submits none, or one whose port stalls, has not happened; one whose requester has an order open at the block waits behind it; one that passes is judged in order: a form that is not legal completes BAD_FORMAT, a missing right is logged as a denial and completes DENIED, a state that does not take it completes with that check's code, one that waits for a domain is held, and a journaled one without room counts and completes JOURNAL_FULL. -/
def Obligations.OrdersTurnedAway : Prop :=
  ∀ (c : Instr) (b : Blk) (i op : Nat) (d : Desc) (m : Meas) (s : State), orderIn c = some (⟨b, i, op, d⟩, m) →
    (submits d.req b op = false → exec c s = answer s) ∧ (submits d.req b op = true →
    (orderStalls s b i d.req = true → exec c s = answer s) ∧
    (orderStalls s b i d.req = false → orderOpen s b i d.req = true → exec c s = answer { s with orderQ := s.orderQ ++ [⟨b, i, op, d⟩] }) ∧
    (orderStalls s b i d.req = false → orderOpen s b i d.req = false → mantleBusy s b = false → ¬(b = .mantle ∧ op = 2) →
      let u := opened s b i op d
      (orderForm u b op d = false → exec c s = orderDone u b i op d cBadFormat) ∧
      (orderForm u b op d = true → orderRight u b i op d = false → exec c s = orderDone (deny u d.req 1 d.target b cDenied) b i op d cDenied) ∧
      (orderForm u b op d = true → orderRight u b i op d = true →
        (∀ code, verdict u b i op d = .ends code → exec c s = orderDone u b i op d code) ∧
        (∀ ds, verdict u b i op d = .hold ds → exec c s = answer (holdOrder u b i op d ds)) ∧
        (verdict u b i op d = .go → (d.wake && !s.domOn 49) = false → ¬(b = .heath ∧ op = 0x10 ∧ d.target.toNat = 49) →
          orderJournaled b op d = true → journalReady u = false →
          exec c s = orderDone (u.bump .mantle 0 MANTLE_JR_CNT_FULL) b i op d cJournalFull))))

/-- LANE_START enters LINKING, LANE_STOP enters STOPPED and drops what the lane was sending, LANE_ENUMERATE drops a run and begins a full one, SEND_CMD queues a node command or completes NO_NODE, SET_STREAM grants the setting the budget allows and queues one command for each node, RELEASE_NODE sends RELEASE and waits for the REPORT or completes NO_NODE, LINE_TDR gives the measured word, COUNTERS_CLEAR clears the lane's counters; each once its checks have passed and its journal entry is written. -/
def Obligations.LaneOrders : Prop :=
  (∀ (s : State) (l : Nat) (d : Desc), l < 144 → Taken s .lane l 1 d →
      let u := logged s .lane l 1 d {}
      exec (.laneStart l d) s = orderDone (let w := u.reg .lane l LANE_CFG
       let v := setLaneSt (if (u.lane l).st = .linking then u else u.modLane l fun x => { x with ampAsk := bits w 1 0, lpiAsk := bit w 2 }) l .linking
       v.modLane l fun x => { x with attemptFrom := v.uptime, anAttempts := satTo 255 (x.anAttempts + 1) }) .lane l 1 d cDone) ∧
  (∀ (s : State) (l : Nat) (d : Desc), l < 144 → Taken s .lane l 2 d →
      let u := logged s .lane l 2 d {}
      exec (.laneStop l d) s = orderDone (judgeLinks (laneQuiet (castEnds (setLaneSt u l .stopped) l) l cNotNow) l) .lane l 2 d cDone) ∧
  (∀ (s : State) (l : Nat) (d : Desc), l < 144 → Taken s .lane l 3 d →
      let u := logged s .lane l 3 d {}
      exec (.laneEnumerate l d) s = answer (enumStart (setLaneSt (enumDrop u l) l .enumerating) l false (decide (d.byte 8 % 2 = 1)) (some d) none)) ∧
  (∀ (s : State) (l : Nat) (d : Desc), l < 144 → Taken s .lane l 4 d →
      let u := logged s .lane l 4 d {}
      (128 < d.target.toNat ∨ (d.target.toNat = 0 ∧ d.byte 8 ≠ 5 ∧ d.byte 8 ≠ 6) ∨ (d.target.toNat ≠ 0 ∧ (u.node l d.target.toNat).assigned = false) → exec (.sendCmd l d) s = orderDone u .lane l 4 d cNoNode) ∧
      (¬(128 < d.target.toNat ∨ (d.target.toNat = 0 ∧ d.byte 8 ≠ 5 ∧ d.byte 8 ≠ 6) ∨ (d.target.toNat ≠ 0 ∧ (u.node l d.target.toNat).assigned = false)) → exec (.sendCmd l d) s = answer (u.modLane l fun x => addCmds x [{ addr := d.target.toNat, inc := if d.target.toNat = 0 then 0 else (u.node l d.target.toNat).inc, code := d.byte 8, args := if d.byte 8 = 5 then leBytes 2 (clampTo 15 300 (d.bytes 10 9)) else [], for_ := .order d }]))) ∧
  (∀ (s : State) (l : Nat) (d : Desc), l < 144 → Taken s .lane l 5 d →
      let u := logged s .lane l 5 d {}
      (128 < d.target.toNat ∨ (d.target.toNat ≠ 0 ∧ (u.node l d.target.toNat).assigned = false) → exec (.setStream l d) s = orderDone u .lane l 5 d cNoNode) ∧
      (d.target.toNat ≤ 128 ∧ d.target.toNat ≠ 0 ∧ (u.node l d.target.toNat).assigned = true → exec (.setStream l d) s = answer (let want := streamOf (d.byte 8) (d.byte 9) (d.byte 10) (d.byte 11) (d.byte 12)
       let g := grantFor u l [d.target.toNat] want
       let v := if g = want then u else bumpLane u l LANE_CNT_BUDGET_CLAMP
       let key := (v.lane l).streamKey
       let w := v.modLane l fun x => addCmds { x with streamKey := key + 1, streams := x.streams ++ [{ key := key, d := d, set := g, clamped := decide (d.bytes 12 8 ≠ leNat (streamBytes want)) || decide (g ≠ want), left := [d.target.toNat] }] }
         [{ addr := d.target.toNat, inc := (x.node d.target.toNat).inc, code := 1, args := streamBytes g, for_ := .stream key }]
       startWindows (w.modNode l d.target.toNat fun x => { x with grant := some g }) l d.target.toNat))) ∧
  (∀ (s : State) (l : Nat) (d : Desc), l < 144 → Taken s .lane l 6 d →
      let u := logged s .lane l 6 d {}
      (128 < d.target.toNat ∨ (u.node l d.target.toNat).assigned = false → exec (.releaseNode l d) s = orderDone u .lane l 6 d cNoNode) ∧
      (¬(128 < d.target.toNat ∨ (u.node l d.target.toNat).assigned = false) → exec (.releaseNode l d) s = answer (startNext (enqueue (u.modLane l fun x => { x with releases := x.releases ++ [{ d := d, node := d.target.toNat, pos := (x.node d.target.toNat).pos, until_ := 0 }] }) l (.release d.target.toNat)) l))) ∧
  (∀ (s : State) (l : Nat) (d : Desc) (v : Word), l < 144 → Taken s .lane l 7 d →
      let u := logged s .lane l 7 d { tdr := v }
      exec (.lineTdr l d v) s = orderDone (tdrResult u l 0 v false) .lane l 7 d cDone (bits v 15 0 + 2 ^ 16 * tdrKind v)) ∧
  (∀ (s : State) (l : Nat) (d : Desc), l < 144 → Taken s .lane l 8 d →
      let u := logged s .lane l 8 d {}
      exec (.laneCountersClear l d) s = orderDone (u.clearRegs .lane l laneCounters) .lane l 8 d cDone)

/-- FLUSH empties its queue and gives the number flushed, or counts a refusal; QUEUE_STATUS gives the count and the descriptor, or POISONED where a word of the descriptor is; QUEUE_RESET resets the queue and offers what waited again; POOL_AUDIT returns the leaked blocks and gives their number; FILL clears the bulk range up to the window's end, is BAD_FORMAT outside it and NOT_NOW over a held range; RECALIBRATE gives the measured eye; the two COUNTERS_CLEAR clear their counters. -/
def Obligations.ChannelOrders : Prop :=
  (∀ (s : State) (d : Desc), Taken s .qeng 0 1 d →
      let u := logged s .qeng 0 1 d {}
      (qShut (readDesc u d.target.toNat) d.target.toNat = true → exec (.flush d) s = orderDone ((readDesc u d.target.toNat).bump .qeng 0 QENG_CNT_REFUSED) .qeng 0 1 d cDone) ∧
      (qShut (readDesc u d.target.toNat) d.target.toNat = false → exec (.flush d) s = orderDone (qFlush (readDesc u d.target.toNat) d.target.toNat).1 .qeng 0 1 d cDone (satTo 0xFFFF (qFlush (readDesc u d.target.toNat) d.target.toNat).2))) ∧
  (∀ (s : State) (d : Desc), Taken s .qeng 0 2 d →
      let u := logged s .qeng 0 2 d {}
      (((readDesc u d.target.toNat).queue d.target.toNat).broken = true ∧ ((readDesc u d.target.toNat).queue d.target.toNat).desc ≠ [] → exec (.queueStatus d) s = orderDone (readDesc u d.target.toNat) .qeng 0 2 d cPoisoned) ∧
      (¬(((readDesc u d.target.toNat).queue d.target.toNat).broken = true ∧ ((readDesc u d.target.toNat).queue d.target.toNat).desc ≠ []) → exec (.queueStatus d) s = orderDone (readDesc u d.target.toNat) .qeng 0 2 d cDone (satTo 0xFFFF (qCount (readDesc u d.target.toNat) d.target.toNat)) (descriptor (readDesc u d.target.toNat) d.target.toNat))) ∧
  (∀ (s : State) (d : Desc), Taken s .qeng 0 3 d →
      let u := logged s .qeng 0 3 d {}
      exec (.queueReset d) s = orderDone (offerAgain (qReset (readDesc u d.target.toNat) d.target.toNat).1 d.target.toNat) .qeng 0 3 d cDone (satTo 0xFFFF (qReset (readDesc u d.target.toNat) d.target.toNat).2)) ∧
  (∀ (s : State) (d : Desc), Taken s .qeng 0 4 d →
      let u := logged s .qeng 0 4 d {}
      exec (.poolAudit d) s = orderDone (((busyQueues u d.target.toNat).foldl readDesc u).modChan d.target.toNat fun x => { x with leaked := [] }) .qeng 0 4 d cDone (satTo 0xFFFFF (((busyQueues u d.target.toNat).foldl readDesc u).chan d.target.toNat).leaked.length)) ∧
  (∀ (s : State) (d : Desc), Taken s .qeng 0 5 d →
      let u := logged s .qeng 0 5 d {}
      exec (.qengCountersClear d) s = orderDone (u.clearRegs .qeng 0 (offsFrom 0x200 4 24 ++ offsFrom QENG_ORPHAN 4 256)) .qeng 0 5 d cDone) ∧
  (∀ (s : State) (l : Nat) (d : Desc), l < 4 → Taken s .qdr l 1 d →
      let u := logged s .qdr l 1 d {}
      (d.target.toNat < (u.reg .qdr l QDR_BULK_BASE).toNat ∨ (u.reg .qdr l QDR_BULK_BASE).toNat + (u.reg .qdr l QDR_BULK_SIZE).toNat ≤ d.target.toNat → exec (.fill l d) s = orderDone u .qdr l 1 d cBadFormat) ∧
      (¬(d.target.toNat < (u.reg .qdr l QDR_BULK_BASE).toNat ∨ (u.reg .qdr l QDR_BULK_BASE).toNat + (u.reg .qdr l QDR_BULK_SIZE).toNat ≤ d.target.toNat) ∧ overlaps d.target.toNat (min (d.bytes 11 8) ((u.reg .qdr l QDR_BULK_BASE).toNat + (u.reg .qdr l QDR_BULK_SIZE).toNat - d.target.toNat)) u.mantle.holdBase u.mantle.holdSize = true → exec (.fill l d) s = orderDone (u.bump .mantle 0 MANTLE_PL_CNT_HOLD_FAULTS) .qdr l 1 d cNotNow) ∧
      (¬(d.target.toNat < (u.reg .qdr l QDR_BULK_BASE).toNat ∨ (u.reg .qdr l QDR_BULK_BASE).toNat + (u.reg .qdr l QDR_BULK_SIZE).toNat ≤ d.target.toNat) ∧ overlaps d.target.toNat (min (d.bytes 11 8) ((u.reg .qdr l QDR_BULK_BASE).toNat + (u.reg .qdr l QDR_BULK_SIZE).toNat - d.target.toNat)) u.mantle.holdBase u.mantle.holdSize = false → exec (.fill l d) s = orderDone (let n := min (d.bytes 11 8) ((u.reg .qdr l QDR_BULK_BASE).toNat + (u.reg .qdr l QDR_BULK_SIZE).toNat - d.target.toNat)
        u.modChan l fun x =>
          let a := bulkOff x (d.target.toNat - (u.reg .qdr l QDR_BULK_BASE).toNat)
          let n := bulkOff x (d.target.toNat - (u.reg .qdr l QDR_BULK_BASE).toNat + n - 8) + 8 - a
          { x with bulk := memZero x.bulk a n, bulkErr := memZero x.bulkErr (a / 8) (n / 8) }) .qdr l 1 d (if min (d.bytes 11 8) ((u.reg .qdr l QDR_BULK_BASE).toNat + (u.reg .qdr l QDR_BULK_SIZE).toNat - d.target.toNat) < d.bytes 11 8 then cClamped else cDone) (min (d.bytes 11 8) ((u.reg .qdr l QDR_BULK_BASE).toNat + (u.reg .qdr l QDR_BULK_SIZE).toNat - d.target.toNat) / 8))) ∧
  (∀ (s : State) (l : Nat) (d : Desc) (e g : Nat), l < 4 → Taken s .qdr l 2 d →
      let u := logged s .qdr l 2 d { eye := e, group := g }
      exec (.recalibrate l d e g) s = orderDone (recal (u.bump .qdr l QDR_CNT_RECAL) l e g) .qdr l 2 d cDone (min e 63 + 64 * (g % 16))) ∧
  (∀ (s : State) (l : Nat) (d : Desc), l < 4 → Taken s .qdr l 3 d →
      let u := logged s .qdr l 3 d {}
      exec (.qdrCountersClear l d) s = orderDone ((u.clearRegs .qdr l (offsFrom 0x200 4 7)).setFld .qdr l QDR_ERR_INFO 0 0 0) .qdr l 3 d cDone)

/-- READ_RECORD and READ_RETIRED give the record named, POISONED where its check sequence is wrong, or 0; REGISTER_MODULE registers the open record of that serial, is MISMATCH with another serial, and opens a manual record where there is none; CLOSE_RECORD closes and counts the open record with reason 4, or does nothing; EXPORT_ALL begins the snapshots of every open record; COUNTERS_CLEAR clears the counters. -/
def Obligations.LifeOrders : Prop :=
  (∀ (s : State) (d : Desc), Taken s .life 0 1 d →
      let u := logged s .life 0 1 d {}
      (∀ (r : LifeRec), openRec u ((posTarget d.target).getD 0) = some r ∧ r.bad = false → exec (.readRecord d) s = orderDone u .life 0 1 d cDone 1 (packWords (recBytes r))) ∧
      (∀ (r : LifeRec), openRec u ((posTarget d.target).getD 0) = some r ∧ r.bad = true → exec (.readRecord d) s = orderDone u .life 0 1 d cPoisoned) ∧
      (openRec u ((posTarget d.target).getD 0) = none → exec (.readRecord d) s = orderDone u .life 0 1 d cDone)) ∧
  (∀ (s : State) (d : Desc), Taken s .life 0 2 d →
      let u := logged s .life 0 2 d {}
      (∀ (r : LifeRec), tget none u.life.retired d.target.toNat = some r ∧ r.bad = false → exec (.readRetired d) s = orderDone u .life 0 2 d cDone 1 (packWords (recBytes r))) ∧
      (∀ (r : LifeRec), tget none u.life.retired d.target.toNat = some r ∧ r.bad = true → exec (.readRetired d) s = orderDone u .life 0 2 d cPoisoned) ∧
      (tget none u.life.retired d.target.toNat = none → exec (.readRetired d) s = orderDone u .life 0 2 d cDone)) ∧
  (∀ (s : State) (d : Desc), Taken s .life 0 3 d →
      let u := logged s .life 0 3 d {}
      (∀ (r : LifeRec), openRec u ((posTarget d.target).getD 0) = some r ∧ r.serial = d.arg → exec (.registerModule d) s = orderDone (setOpen u ((posTarget d.target).getD 0) (some { r with registered := true })) .life 0 3 d cDone) ∧
      (∀ (r : LifeRec), openRec u ((posTarget d.target).getD 0) = some r ∧ r.serial ≠ d.arg → exec (.registerModule d) s = orderDone u .life 0 3 d cMismatch) ∧
      (openRec u ((posTarget d.target).getD 0) = none → exec (.registerModule d) s = orderDone (let r := recOf ((posTarget d.target).getD 0) (leBytes 8 d.arg.toNat)
       openNew u ((posTarget d.target).getD 0) { r with check := crc16 (identBytes r), manual := true, registered := true }) .life 0 3 d cDone 1)) ∧
  (∀ (s : State) (d : Desc), Taken s .life 0 4 d →
      let u := logged s .life 0 4 d {}
      (∀ (r : LifeRec), openRec u ((posTarget d.target).getD 0) = some r → exec (.closeRecord d) s = orderDone (writeCap (bumpLife (closeRec u ((posTarget d.target).getD 0) 4) LIFE_CNT_CLOSED) ((posTarget d.target).getD 0)) .life 0 4 d cDone 1) ∧
      (openRec u ((posTarget d.target).getD 0) = none → exec (.closeRecord d) s = orderDone u .life 0 4 d cDone)) ∧
  (∀ (s : State) (d : Desc), Taken s .life 0 5 d →
      let u := logged s .life 0 5 d {}
      exec (.exportAll d) s = answer (exportAllServe (u.modLife fun x => { x with exportAll := x.exportAll ++ [(d, u.life.open_.map fun p => p.1, 0)] }))) ∧
  (∀ (s : State) (d : Desc), Taken s .life 0 6 d →
      let u := logged s .life 0 6 d {}
      exec (.lifeCountersClear d) s = orderDone (u.clearRegs .life 0 (offsFrom 0x200 4 15)) .life 0 6 d cDone)

/-- ACK_FAULT, READ_FAULT and FORCE_CLEAR act on the entry the TARGET names, and complete MISMATCH and count where it names none; READ_FAULT gives the entry's state and words; SNAPSHOT begins a packet of every entry that is not FREE; SET_PERIOD sets the period's length and is CLAMPED for code 7; REDIGEST makes the named bank's digest again; COUNTERS_CLEAR clears the counters. -/
def Obligations.StatOrders : Prop :=
  (∀ (s : State) (d : Desc), Taken s .stat 0 0x40 d →
      let u := logged s .stat 0 0x40 d {}
      (targetEntry u d.target = none → exec (.ackFault d) s = orderDone (u.bump .stat 0 FLT_CNT_MISMATCH) .stat 0 0x40 d cMismatch) ∧
      (∀ (e : Nat), targetEntry u d.target = some e → exec (.ackFault d) s = orderDone (Machine.ackFault u e (u.roleOf d.req) (if d.req < 400 then 0 else u.signedSlot % 16)).1 .stat 0 0x40 d cDone (Machine.ackFault u e (u.roleOf d.req) (if d.req < 400 then 0 else u.signedSlot % 16)).2)) ∧
  (∀ (s : State) (d : Desc), Taken s .stat 0 0x41 d →
      let u := logged s .stat 0 0x41 d {}
      (targetEntry u d.target = none → exec (.readFault d) s = orderDone (u.bump .stat 0 FLT_CNT_MISMATCH) .stat 0 0x41 d cMismatch) ∧
      (∀ (e : Nat), targetEntry u d.target = some e → exec (.readFault d) s = orderDone u .stat 0 0x41 d cDone (u.fault e).st.code ((faultWords (u.fault e) e 0 0 (u.fault e).lastT 0 0).drop 1))) ∧
  (∀ (s : State) (d : Desc), Taken s .stat 0 0x42 d →
      let u := logged s .stat 0 0x42 d {}
      exec (.snapshot d) s = answer (snapServe { u with snaps := u.snaps ++ [{ d := d, left := (List.range 4096).filter fun e => decide ((u.fault e).st ≠ .free) }] })) ∧
  (∀ (s : State) (d : Desc), Taken s .stat 0 0x43 d →
      let u := logged s .stat 0 0x43 d {}
      (targetEntry u d.target = none → exec (.forceClear d) s = orderDone (u.bump .stat 0 FLT_CNT_MISMATCH) .stat 0 0x43 d cMismatch) ∧
      (∀ (e : Nat), targetEntry u d.target = some e → exec (.forceClear d) s = orderDone (freeLater u e) .stat 0 0x43 d cDone 1)) ∧
  (∀ (s : State) (d : Desc), Taken s .stat 0 0x44 d →
      let u := logged s .stat 0 0x44 d {}
      exec (.fltCountersClear d) s = orderDone (u.clearRegs .stat 0 (offsFrom 0x8080 4 8 ++ offsFrom 0x400 4 4)) .stat 0 0x44 d cDone) ∧
  (∀ (s : State) (d : Desc), Taken s .stat 0 1 d →
      let u := logged s .stat 0 1 d {}
      (bits d.arg 2 0 < 7 → exec (.setPeriod d) s = orderDone (setLength u (bits d.arg 2 0)) .stat 0 1 d cDone (lenCode (setLength u (bits d.arg 2 0)))) ∧
      (7 ≤ bits d.arg 2 0 → exec (.setPeriod d) s = orderDone (setLength u 4) .stat 0 1 d cClamped (lenCode (setLength u 4)))) ∧
  (∀ (s : State) (d : Desc), Taken s .stat 0 2 d →
      let u := logged s .stat 0 2 d {}
      exec (.redigest d) s = orderDone (Machine.redigest u ((bankNamed d.target).getD 0)).1 .stat 0 2 d cDone (bnat (Machine.redigest u ((bankNamed d.target).getD 0)).2))

/-- RELOAD_CORE stops the core named, and its partner in a lockstep pair, and loads them from the image and gives the mask, or TIMEOUT where the image cannot be read; MEADOW_START starts the domain and completes later; MEADOW_STOP stops every core, takes the meadow down and completes later with the mask of running cores; RETRY_DOMAIN clears FAULTED and starts the domain again; SAMPLE gives one conversion; TIME_SET steps the time, CLAMPED where the nanoseconds exceed 999,999,999; DEVICE_RESET sets the reset 1 ms ahead; CLEAR_PENDING takes a latched delivery away and says whether there was one; the COUNTERS_CLEAR orders of these blocks clear their counters. -/
def Obligations.PowerOrders : Prop :=
  (∀ (s : State) (l : Nat) (d : Desc), l < 32 → Taken s .meadow l 1 d →
      let u := logged s .meadow l 1 d {}
      ((imageRead (stopCores u l (if (u.core (8 * l + d.target.toNat % 8)).lockstep then 3 * 4 ^ (d.target.toNat % 8 / 2) else 2 ^ (d.target.toNat % 8)))).2 = true → exec (.reloadCore l d) s = orderDone (loadCores (imageRead (stopCores u l (if (u.core (8 * l + d.target.toNat % 8)).lockstep then 3 * 4 ^ (d.target.toNat % 8 / 2) else 2 ^ (d.target.toNat % 8)))).1 l (if (u.core (8 * l + d.target.toNat % 8)).lockstep then 3 * 4 ^ (d.target.toNat % 8 / 2) else 2 ^ (d.target.toNat % 8))) .meadow l 1 d cDone (if (u.core (8 * l + d.target.toNat % 8)).lockstep then 3 * 4 ^ (d.target.toNat % 8 / 2) else 2 ^ (d.target.toNat % 8))) ∧
      ((imageRead (stopCores u l (if (u.core (8 * l + d.target.toNat % 8)).lockstep then 3 * 4 ^ (d.target.toNat % 8 / 2) else 2 ^ (d.target.toNat % 8)))).2 = false → exec (.reloadCore l d) s = orderDone (imageRead (stopCores u l (if (u.core (8 * l + d.target.toNat % 8)).lockstep then 3 * 4 ^ (d.target.toNat % 8 / 2) else 2 ^ (d.target.toNat % 8)))).1 .meadow l 1 d cTimeout)) ∧
  (∀ (s : State) (l : Nat) (d : Desc), l < 32 → Taken s .meadow l 2 d →
      let u := logged s .meadow l 2 d {}
      exec (.meadowCountersClear l d) s = orderDone ((u.clearRegs .meadow l (offsFrom 0x180 4 6 ++ offsFrom 0x280 4 5)).setFld .meadow l MEADOW_SRAM_ERR 20 20 0) .meadow l 2 d cDone) ∧
  (∀ (s : State) (l : Nat) (d : Desc), l < 32 → Taken s .meadow l 0x20 d →
      let u := logged s .meadow l 0x20 d {}
      exec (.meadowStart l d) s = answer (sequencer (startDom (u.modDom l fun x => { x with orders := x.orders ++ [⟨.meadow, l, 0x20, d⟩] }) l))) ∧
  (∀ (s : State) (l : Nat) (d : Desc), l < 32 → Taken s .meadow l 0x21 d →
      let u := logged s .meadow l 0x21 d {}
      exec (.meadowStop l d) s = answer (let mask := ((List.range 8).map fun c => if (u.core (8 * l + c)).st = .running then 2 ^ c else 0).sum
       (stopDom ((meadowCores l).foldl coreStop (leaveRest u l)) l).modDom l fun x => { x with orders := x.orders ++ [⟨.meadow, l, 0x21, { d with arg := d64 mask }⟩] })) ∧
  (∀ (s : State) (d : Desc), d.target.toNat ≠ 49 → Taken s .heath 0 0x10 d →
      let u := logged s .heath 0 0x10 d {}
      exec (.retryDomain d) s = answer (let k := d.target.toNat
       let v := condGone (u.modDom k fun x => { x with st := .off, failed := 0 }) 0x34 k
       let w := if k < 32 then setMeadowSt v k .off
         else if k < 44 then (laneGroup (k - 32)).foldl (fun s l => if (s.lane l).st = .faulted then setLaneSt s l .off else s) v
         else if k = 48 then (List.range 4).foldl (fun s n => if (s.upl n).st = 1 then setUplSt s n 0 else s) v
         else v
       sequencer (startDom (w.modDom k fun x => { x with orders := x.orders ++ [⟨.heath, 0, 0x10, d⟩] }) k))) ∧
  (∀ (s : State) (d : Desc), Taken s .heath 0 0x11 d →
      let u := logged s .heath 0 0x11 d {}
      exec (.heathCountersClear d) s = orderDone (u.clearRegs .heath 0 (offsFrom 0x1200 4 4 ++ offsFrom HEATH_SENTINEL_CNT 4 256)) .heath 0 0x11 d cDone) ∧
  (∀ (s : State) (d : Desc), Taken s .heath 0 0x30 d →
      let u := logged s .heath 0 0x30 d {}
      exec (.wakeCountersClear d) s = orderDone (u.clearRegs .heath 0 (offsFrom 0x3400 4 8 ++ offsFrom 0x4080 4 2)) .heath 0 0x30 d cDone) ∧
  (∀ (s : State) (d : Desc) (v : Nat), Taken s .heath 0 0x31 d →
      let u := logged s .heath 0 0x31 d { uv := v }
      exec (.sample d v) s = orderDone u .heath 0 0x31 d cDone (adcCode v)) ∧
  (∀ (s : State) (d : Desc), Taken s .heath 0 0x40 d →
      let u := logged s .heath 0 0x40 d {}
      exec (.timeSet d) s = orderDone (stepTime u (((d.target.toNat + 2 ^ 32 * d.bytes 9 8) * 1000000000 + min (d.bytes 13 10) 999999999) * 65536) d.req (jWho u d.req) true) .heath 0 0x40 d (doneOr (decide (999999999 < d.bytes 13 10)))) ∧
  (∀ (s : State) (d : Desc), Taken s .heath 0 0x41 d →
      let u := logged s .heath 0 0x41 d {}
      exec (.tbCountersClear d) s = orderDone (u.clearRegs .heath 0 (offsFrom 0x2200 4 4)) .heath 0 0x41 d cDone) ∧
  (∀ (s : State) (d : Desc), Taken s .pad 0 1 d →
      let u := logged s .pad 0 1 d {}
      exec (.deviceReset d) s = orderDone (u.modBoot fun b => { b with resetAt := some (u.uptime + 1000000) }) .pad 0 1 d cDone) ∧
  (∀ (s : State) (d : Desc), Taken s .seam 0 1 d →
      let u := logged s .seam 0 1 d {}
      exec (.seamCountersClear d) s = orderDone (u.clearRegs .seam 0 seamCounters) .seam 0 1 d cDone) ∧
  (∀ (s : State) (l : Nat) (d : Desc), l < 4 → Taken s .upl l 1 d →
      let u := logged s .upl l 1 d {}
      exec (.uplinkCountersClear l d) s = orderDone (u.clearRegs .upl l uplCounters) .upl l 1 d cDone) ∧
  (∀ (s : State) (d : Desc), Taken s .hedge 0 2 d →
      let u := logged s .hedge 0 2 d {}
      exec (.clearPending d) s = orderDone (u.modTi d.target.toNat fun x => { x with latch := none }) .hedge 0 2 d cDone (bnat (u.ti d.target.toNat).latch.isSome)) ∧
  (∀ (s : State) (d : Desc), Taken s .hedge 0 1 d →
      let u := logged s .hedge 0 1 d {}
      exec (.hedgeCountersClear d) s = orderDone (let v := (u.clearWin .hedge 0 0x140 0x160).clearWin .hedge 0 0x10000 0x16000
       (v.tis.map fun p => p.1).foldl (fun s t => s.modTi t fun x => { x with merged := 0 }) v) .hedge 0 1 d cDone)

/-- CLAIM writes every key slot of its record and revokes the token when the record is judged DONE, or counts a failure and gives the code; ATTEST counts and sends its report, DEVICE_CERT the certificate; DEBUG_CHALLENGE draws a challenge, kept and given; DEBUG_UNLOCK uses up the challenge and grants the token and fires HC4, or counts a failure and gives the code; DEBUG_LOCK revokes the token and says whether access was open; JOURNAL_MARK only makes its entry; JOURNAL_READ gives an entry still in the ring; REVOKE_MAKER_SLOT blows its fuse, but not of the last slot; ROOT_STEP blows one root step of 64; QUIESCE_ALL fires HC1 and MAKER_DIAG HC7. -/
def Obligations.SecurityOrders : Prop :=
  (∀ (s : State) (d : Desc), Taken s .mantle 0 0x10 d →
      let u := logged s .mantle 0 0x10 d {}
      (claimJudge u (staged u d.target.toNat (claimLen u d.target.toNat)) = cDone → exec (.claim d) s = orderDone (((claimEntries (staged u d.target.toNat (claimLen u d.target.toNat))).foldl (fun s e => setKey s (4 + leAt e 0 1) (keyOfEntry e)) u).modMantle fun m => { m with token := none }) .mantle 0 0x10 d cDone (claimEntries (staged u d.target.toNat (claimLen u d.target.toNat))).length) ∧
      (claimJudge u (staged u d.target.toNat (claimLen u d.target.toNat)) ≠ cDone → exec (.claim d) s = orderDone (u.bump .mantle 0 MANTLE_SEC_CNT_CLAIM_FAIL) .mantle 0 0x10 d (claimJudge u (staged u d.target.toNat (claimLen u d.target.toNat))))) ∧
  (∀ (s : State) (d : Desc), Taken s .mantle 0 0x11 d →
      let u := logged s .mantle 0 0x11 d {}
      exec (.attest d) s = answer (let v := u.bump .mantle 0 MANTLE_SEC_CNT_ATTEST
       let fs := fragmentsOf 0 (reportBytes u d.arg)
       fragServe (v.modMantle fun m => { m with fragments := fs, fragOrder := some (⟨.mantle, 0, 0x11, d⟩, fs.length) }))) ∧
  (∀ (s : State) (d : Desc), Taken s .mantle 0 0x12 d →
      let u := logged s .mantle 0 0x12 d {}
      exec (.deviceCert d) s = answer (let fs := fragmentsOf 1 certBytes
       fragServe (u.modMantle fun m => { m with fragments := fs, fragOrder := some (⟨.mantle, 0, 0x12, d⟩, fs.length) }))) ∧
  (∀ (s : State) (d : Desc), Taken s .mantle 0 0x13 d →
      let u := logged s .mantle 0 0x13 d {}
      exec (.debugChallenge d) s = orderDone (u.draw.modMantle fun m => { m with challenge := some u.drawn }) .mantle 0 0x13 d cDone 0 [d64 u.drawn.toNat, d64 (u.drawn.toNat / 2 ^ 64)]) ∧
  (∀ (s : State) (d : Desc), Taken s .mantle 0 0x14 d →
      let u := logged s .mantle 0 0x14 d {}
      ((tokenJudge u (staged u d.target.toNat tokenLen)).2 = cDone → exec (.debugUnlock d) s = orderDone (((tokenJudge u (staged u d.target.toNat tokenLen)).1.modMantle fun m => { m with challenge := none, token := some (tokenOf (staged u d.target.toNat tokenLen)) }).fire1 4) .mantle 0 0x14 d cDone (tokenOf (staged u d.target.toNat tokenLen)).role) ∧
      ((tokenJudge u (staged u d.target.toNat tokenLen)).2 ≠ cDone → exec (.debugUnlock d) s = orderDone (((tokenJudge u (staged u d.target.toNat tokenLen)).1.modMantle fun m => { m with challenge := none }).bump .mantle 0 MANTLE_SEC_CNT_DEBUG_FAIL) .mantle 0 0x14 d (tokenJudge u (staged u d.target.toNat tokenLen)).2)) ∧
  (∀ (s : State) (d : Desc), Taken s .mantle 0 0x15 d →
      let u := logged s .mantle 0 0x15 d {}
      exec (.debugLock d) s = orderDone (u.modMantle fun m => { m with token := none }) .mantle 0 0x15 d cDone (bnat (debugUnlocked u))) ∧
  (∀ (s : State) (d : Desc), Taken s .mantle 0 0x16 d →
      let u := logged s .mantle 0 0x16 d {}
      exec (.journalMark d) s = orderDone u .mantle 0 0x16 d cDone) ∧
  (∀ (s : State) (d : Desc), Taken s .mantle 0 0x17 d →
      let u := logged s .mantle 0 0x17 d {}
      (∀ (e : JEntry), (u.mantle.ring.find? fun e => decide (e.seq = d.target.toNat + 2 ^ 32 * d.bytes 11 8)) = some e → exec (.journalRead d) s = orderDone u .mantle 0 0x17 d cDone 1 (e.words ++ [d64 e.chain.toNat, d64 (e.chain.toNat / 2 ^ 64)])) ∧
      ((u.mantle.ring.find? fun e => decide (e.seq = d.target.toNat + 2 ^ 32 * d.bytes 11 8)) = none → exec (.journalRead d) s = orderDone u .mantle 0 0x17 d cDone)) ∧
  (∀ (s : State) (d : Desc), Taken s .mantle 0 0x18 d →
      let u := logged s .mantle 0 0x18 d {}
      (((List.range 4).filter fun j => !u.mantle.fuses.getLsbD j) = [d.target.toNat] → exec (.revokeMakerSlot d) s = orderDone u .mantle 0 0x18 d cNotNow (bits u.mantle.fuses 3 0)) ∧
      (((List.range 4).filter fun j => !u.mantle.fuses.getLsbD j) ≠ [d.target.toNat] → exec (.revokeMakerSlot d) s = orderDone (u.modMantle fun m => { m with fuses := setBits m.fuses d.target.toNat d.target.toNat 1 }) .mantle 0 0x18 d cDone (bits (setBits u.mantle.fuses d.target.toNat d.target.toNat 1) 3 0))) ∧
  (∀ (s : State) (d : Desc), Taken s .mantle 0 0x19 d →
      let u := logged s .mantle 0 0x19 d {}
      (64 ≤ u.mantle.rootSteps → exec (.rootStep d) s = orderDone u .mantle 0 0x19 d cNotNow u.mantle.rootSteps) ∧
      (u.mantle.rootSteps < 64 → exec (.rootStep d) s = orderDone (u.modMantle fun m => { m with rootSteps := m.rootSteps + 1 }) .mantle 0 0x19 d cDone (u.mantle.rootSteps + 1))) ∧
  (∀ (s : State) (d : Desc), Taken s .mantle 0 0x1a d →
      let u := logged s .mantle 0 0x1a d {}
      exec (.quiesceAll d) s = orderDone (u.fire1 1) .mantle 0 0x1a d cDone) ∧
  (∀ (s : State) (d : Desc), Taken s .mantle 0 0x1b d →
      let u := logged s .mantle 0 0x1b d {}
      exec (.makerDiag d) s = orderDone (u.fire1 7) .mantle 0 0x1b d cDone)

/-- STAGE_COPY writes what its source gave, up to the first word that could not be read, to staging, and gives that code and the words copied; COUNTERS_CLEAR clears Mantle's counters; SLOT_WRITE unseals the slot, and where the flash works writes the staged bytes there and gives the KiB written, else it is TIMEOUT; SLOT_SEAL counts the verifications it makes and gives the code and CHECK of the first failure, or seals the slot, and prefers it where bit 0 asks so, or is TIMEOUT. -/
def Obligations.LoaderOrders : Prop :=
  (∀ (s : State) (d : Desc), Taken s .mantle 0 1 d →
      let u := logged s .mantle 0 1 d {}
      exec (.stageCopy d) s = answer (u.modMantle fun m => { m with job := some { d := d, phase := 1, ends := u.uptime + 1000 } })) ∧
  (∀ (s : State) (d : Desc), Taken s .mantle 0 3 d →
      let u := logged s .mantle 0 3 d {}
      exec (.mantleCountersClear d) s = orderDone ((u.clearRegs .mantle 0 (offsFrom 0x1080 4 10 ++ offsFrom 0x3080 4 10)).modMantle fun m => { m with lostNoted := 0 }) .mantle 0 3 d cDone) ∧
  (∀ (s : State) (d : Desc), Taken s .mantle 0 0x20 d →
      let u := logged s .mantle 0 0x20 d {}
      ((flashTry (setSeal u (flashSlot 0x20 d) false)).2 = true → exec (.slotWrite d) s = orderDone (let x := flashTry (setSeal u (flashSlot 0x20 d) false)
       let bs := staged x.1 (d.bytes 11 8) (d.bytes 15 12)
       x.1.modMantle fun m => if flashSlot 0x20 d = 1 then { m with slotA := flashWrite m.slotA (bits d.target 29 0) bs } else { m with slotB := flashWrite m.slotB (bits d.target 29 0) bs }) .mantle 0 0x20 d cDone (d.bytes 15 12 / 1024)) ∧
      ((flashTry (setSeal u (flashSlot 0x20 d) false)).2 = false → exec (.slotWrite d) s = orderDone (flashTry (setSeal u (flashSlot 0x20 d) false)).1 .mantle 0 0x20 d cTimeout)) ∧
  (∀ (s : State) (d : Desc), Taken s .mantle 0 0x21 d →
      let u := logged s .mantle 0 0x21 d {}
      (∀ (f : Nat × Nat), judgeSlot u (slotFile u (flashSlot 0x21 d)) = some f → exec (.slotSeal d) s = orderDone (let bs := slotFile u (flashSlot 0x21 d); if slotHead u bs = 2 ∨ slotHead u bs = 3 then u else countVerified u bs) .mantle 0 0x21 d f.1 f.2) ∧
      (judgeSlot u (slotFile u (flashSlot 0x21 d)) = none ∧ (flashTry (if slotHead u (slotFile u (flashSlot 0x21 d)) = 2 ∨ slotHead u (slotFile u (flashSlot 0x21 d)) = 3 then u else countVerified u (slotFile u (flashSlot 0x21 d)))).2 = true → exec (.slotSeal d) s = orderDone (let bs := slotFile u (flashSlot 0x21 d)
       let v := setSeal (flashTry (if slotHead u bs = 2 ∨ slotHead u bs = 3 then u else countVerified u bs)).1 (flashSlot 0x21 d) true
       if bit d.arg 0 then v.modMantle fun m => { m with preferB := decide (flashSlot 0x21 d = 2) } else v) .mantle 0 0x21 d cDone) ∧
      (judgeSlot u (slotFile u (flashSlot 0x21 d)) = none ∧ (flashTry (if slotHead u (slotFile u (flashSlot 0x21 d)) = 2 ∨ slotHead u (slotFile u (flashSlot 0x21 d)) = 3 then u else countVerified u (slotFile u (flashSlot 0x21 d)))).2 = false → exec (.slotSeal d) s = orderDone (flashTry (if slotHead u (slotFile u (flashSlot 0x21 d)) = 2 ∨ slotHead u (slotFile u (flashSlot 0x21 d)) = 3 then u else countVerified u (slotFile u (flashSlot 0x21 d)))).1 .mantle 0 0x21 d cTimeout))

/-- An APPLY that the port takes and whose form and right pass: the first failing check of rows 2 to 4 gives its code and CHECK; one that is no dry run and for which the journal has no room for an entry of each panel and one of the bundle counts and completes JOURNAL_FULL; else the loader has its file in hand. At the end of its first step the bundle is judged: the first failure gives the code and CHECK, a dry run that passes completes DONE and changes nothing, and another goes on to the kept copy, whose failure completes TIMEOUT. -/
def Obligations.ApplySequence : Prop :=
  (∀ (s : State) (d : Desc), orderStalls s .mantle 0 d.req = false → orderOpen s .mantle 0 d.req = false → mantleBusy s .mantle = false →
    let u := opened s .mantle 0 2 d
    orderForm u .mantle 2 d = true → orderRight u .mantle 0 2 d = true → verdict u .mantle 0 2 d = .go → (d.wake && !s.domOn 49) = false →
      let pre := applyPre u d
      let inHand := fun (v : State) (bs : List Byte) => v.modMantle fun m =>
        { m with job := some { d := d, phase := 2, bytes := bs, ends := v.uptime + 1000, held := (sheets bs).flatMap fun h => panelDoms v h.type h.region },
                 holdBase := if bits d.target 31 30 = 1 then bits d.target 29 0 else 0, holdSize := if bits d.target 31 30 = 1 then applyLen d else 0 }
      (∀ f, pre.2.2 = some f → exec (.apply d) s =
        answer (orderOver (if applyDry d then u else pre.1) .mantle 0 2 d f.code (applyResult f.panel f.check 0))) ∧
      (pre.2.2 = none → applyDry d = true → exec (.apply d) s = answer (inHand u pre.2.1)) ∧
      (pre.2.2 = none → applyDry d = false → journalRoom (jFlush u) (applyNeed u d) = false →
        exec (.apply d) s = answer (orderOver (u.bump .mantle 0 MANTLE_JR_CNT_FULL) .mantle 0 2 d cJournalFull (applyResult 255 0 0))) ∧
      (pre.2.2 = none → applyDry d = false → journalRoom (jFlush u) (applyNeed u d) = true → (applyPre (jFlush u) d).2.2 = none →
        exec (.apply d) s = answer (inHand (applyPre (jFlush u) d).1 (applyPre (jFlush u) d).2.1))) ∧
    (∀ (s : State) (j : Job), j.phase = 2 →
      (∀ f, judgeBundle s j.bytes = some f → applyDry j.d = true → jobEnds s j = applyFails s j.d f.code (applyResult f.panel f.check 0)) ∧
      (∀ f, judgeBundle s j.bytes = some f → applyDry j.d = false →
        jobEnds s j = applyFails (countBudget (countVerified s j.bytes) ((bundleOf j)[f.panel]?) f) j.d f.code (applyResult f.panel f.check 0)) ∧
      (judgeBundle s j.bytes = none → applyDry j.d = true → jobEnds s j = applyOver s j.d cDone (applyResult 255 0 0)) ∧
      (judgeBundle s j.bytes = none → applyDry j.d = false →
        jobEnds s j = (countVerified s j.bytes).modMantle fun m => { m with job := some { j with phase := 3, ends := j.ends + 1000 } })) ∧
    (∀ (s : State) (j : Job), j.phase = 3 → (keepCopy s j.bytes).2 = false →
      jobEnds s j = applyFails (keepCopy s j.bytes).1 j.d cTimeout (applyResult 255 13 0))

/-- COMPLETION_COMMIT offers the requester's held completions to its queue in order: one that the queue takes or refuses leaves, and the command goes on with those behind it; the first that finds no room is counted once and stays held, and so do those behind it; the completions of other requesters stay held. HELD_ORDER_RECHECK changes nothing while the device descends or wakes, and else takes each of the requester's held orders, in order, again from step 3. -/
def Obligations.HeldThings : Prop :=
  ∀ (s : State) (req : Nat),
    let mine := s.heldComps.filter fun h => decide (h.req = req)
    let rest := s.heldComps.filter fun h => decide (h.req ≠ req)
    let empty : State := { s with heldComps := [] }
    (mine = [] → exec (.completionCommit req) s = .next (settle (noteStarved { s with heldComps := rest }))) ∧
    (∀ (h : HeldCompletion) (hs : List HeldCompletion) (u : State) (r : Room), mine = h :: hs → hwTry empty (compQ req) h.words = (u, r) →
      (r = .ok ∨ r = .refused → exec (.completionCommit req) s = exec (.completionCommit req) { u with heldComps := hs ++ rest }) ∧
      (r ≠ .ok → r ≠ .refused → exec (.completionCommit req) s = .next (settle (noteStarved
        { (if h.counted then u else countWait u (compQ req)) with heldComps := rest ++ { h with counted := true } :: hs })))) ∧
    (s.dev = .descending ∨ s.dev = .waking → exec (.heldOrderRecheck req) s = .next (settle s)) ∧
    (s.dev ≠ .descending → s.dev ≠ .waking → exec (.heldOrderRecheck req) s = .next (settle
      ((s.heldOrders.filter fun o => decide (o.d.req = req)).foldl (fun (v : State) o => let x := freeMeas v o.blk o.op
        orderFrom3 x.1 o.blk o.inst o.op o.d x.2) { s with heldOrders := s.heldOrders.filter fun o => decide (o.d.req ≠ req) })))

/-- A write where no register lies has no effect; one that meets an absent part is counted; one that its seam holds up waits there if its requester is no core; one of a read-only register is ignored; one of a requester without the right is logged and denied; one of an order port stores a descriptor word, and of its last word submits the order unless the port stalls; any other stores what the register's rules let it store and counts a correction; a journaled register is written after its entry, and not at all without room. -/
def Obligations.RegisterWrites : Prop :=
  ∀ (s : State) (req addr : Nat) (v : Word), (named addr = none → exec (.registerWrite req addr v) s = answer s) ∧
    ∀ (b : Blk) (i k : Nat) (d : RegDesc), named addr = some (b, i, d, k) →
      let off := d.off + d.stride * k
      let role := s.roleOf req
      let held := answer (if 256 ≤ req then waitAtSeam s req addr (some v) else s)
      (gate s b i off addr = .absent → exec (.registerWrite req addr v) s = answer (s.bumpSeam SEAM_CNT_ABSENT)) ∧
      (gate s b i off addr = .waits → exec (.registerWrite req addr v) s = held) ∧
      (gate s b i off addr = .open_ →
        (d.acc = .ro → exec (.registerWrite req addr v) s = answer s) ∧
        (d.acc ≠ .ro → writeRight s req b i d k = false → exec (.registerWrite req addr v) s = answer (denyWrite s req b i off)) ∧
        (d.acc ≠ .ro → writeRight s req b i d k = true →
          (d.hook = .order → k < 3 → exec (.registerWrite req addr v) s = answer (s.setStaged b i req k v)) ∧
          (d.hook = .order → 3 ≤ k → orderStalls s b i req = true → exec (.registerWrite req addr v) s = held) ∧
          (d.hook = .order → 3 ≤ k → orderStalls s b i req = false → exec (.registerWrite req addr v) s =
            (let u := s.setStaged b i req 3 v
             let x := descOf req (u.staged b i req 0) (u.staged b i req 1) (u.staged b i req 2) v
             answer (submitFree u b i x.1 x.2))) ∧
          (d.hook ≠ .order → regJournaled d = false → exec (.registerWrite req addr v) s = written (storeReg s b i d k role v) req b i off) ∧
          (d.hook ≠ .order → regJournaled d = true → journalReady s = true → exec (.registerWrite req addr v) s =
            (let a := mkAct s req 0x1000 (w32 (regAddr b i off - 0xE0000000)) (d64 (s.reg b i off).toNat)
               (d64 ((storeReg s b i d k role v).1.reg b i off).toNat) 0 (blkType b % 256)
             written (storeReg (journal s a) b i d k role v) req b i off)) ∧
          (d.hook ≠ .order → regJournaled d = true → journalReady s = false → exec (.registerWrite req addr v) s =
            answer ((s.bump .mantle 0 MANTLE_JR_CNT_FULL).logClamp b i 2 off role))))

/-- PACE_MIN_CLEAR restores the pace minimum, CLAMP_LOG_CLEAR the clamp log; DOMAIN_SWITCH_ON and OFF change one bit of HEATH_DOM_ON; DEV_MODE_WRITE, GOV_WRITE, SW_LIMIT_WRITE and TB_RATE_WRITE store the corrected value, after which the device mode, the governor, the levels and the rate follow; PAD_GROUP_RELEASE writes RELEASE; HEDGE_SW_FIRE fires every producer of MASK with the hop count given; SELECTOR_WRITE and CHANNEL_WRITE set a selector or a channel under the rules of ownership, and while a hedge map is being applied are clamped with reason 2; SW_PARAM_WRITE and OVERRIDE_WRITE are written after their journal entry, or refused without room. -/
def Obligations.NamedWrites : Prop :=
  ∀ (s : State) (req : Nat) (v : Word), let role := s.roleOf req
    (∀ m, m < 32 → mayWrite s req (regAddr .meadow m MEADOW_PACE_MIN) = true →
      exec (.paceMinClear req m) s = answer (condGone (s.setReg .meadow m MEADOW_PACE_MIN 0xFFFF) 0x38 m)) ∧
    (∀ b i, i < (blkWindow b).2.2 → mayWrite s req (regAddr b i BLOCK_CLAMP_LOG) = true →
      exec (.clampLogClear req b i) s = answer ((s.setReg b i BLOCK_CLAMP_LOG 0).setReg b i BLOCK_CLAMP_LOG_OFFSET 0)) ∧
    (∀ dom, dom < 50 → mayWrite s req (regAddr .heath 0 (domReg dom)) = true →
      exec (.domainSwitchOn req dom) s = written (domOnWrite s (decide (32 ≤ dom)) (s.reg .heath 0 (domReg dom) ||| (1 : Word) <<< (dom % 32)) role) req .heath 0 (domReg dom) ∧
      exec (.domainSwitchOff req dom) s = written (domOnWrite s (decide (32 ≤ dom)) (s.reg .heath 0 (domReg dom) &&& ~~~((1 : Word) <<< (dom % 32))) role) req .heath 0 (domReg dom)) ∧
    (mayWrite s req (regAddr .heath 0 HEATH_DEV_MODE) = true → ∀ d, named (regAddr .heath 0 HEATH_DEV_MODE) = some (.heath, 0, d, 0) →
      let x := fixWrite s 0 d 0 role (s.reg .heath 0 HEATH_DEV_MODE) v
      exec (.devModeWrite req v) s = written (sequencer (s.setReg .heath 0 HEATH_DEV_MODE x.1), x.2) req .heath 0 HEATH_DEV_MODE) ∧
    (∀ m, m < 32 → mayWrite s req (regAddr .meadow m MEADOW_GOV) = true → ∀ d, named (regAddr .meadow m MEADOW_GOV) = some (.meadow, m, d, 0) →
      let x := fixWrite s m d 0 role (s.reg .meadow m MEADOW_GOV) v
      exec (.govWrite req m v) s = written (govWritten (s.setReg .meadow m MEADOW_GOV x.1) m (s.reg .meadow m MEADOW_GOV) x.1, x.2) req .meadow m MEADOW_GOV) ∧
    (∀ l, l < 144 → mayWrite s req (regAddr .lane l LANE_SW_LIMIT) = true → ∀ d, named (regAddr .lane l LANE_SW_LIMIT) = some (.lane, l, d, 0) →
      let x := fixWrite s l d 0 role (s.reg .lane l LANE_SW_LIMIT) v
      exec (.swLimitWrite req l v) s = written (limitWritten (s.setReg .lane l LANE_SW_LIMIT x.1) l, x.2) req .lane l LANE_SW_LIMIT) ∧
    (mayWrite s req (regAddr .heath 0 HEATH_TB_RATE) = true → ∀ d, named (regAddr .heath 0 HEATH_TB_RATE) = some (.heath, 0, d, 0) →
      let x := fixWrite s 0 d 0 role (s.reg .heath 0 HEATH_TB_RATE) v
      let u := s.setReg .heath 0 HEATH_TB_RATE x.1
      exec (.tbRateWrite req v) s = written (if tbMode u = 2 then rateWritten u x.1 else u, x.2) req .heath 0 HEATH_TB_RATE) ∧
    (∀ k, k < 18 → mayWrite s req (regAddr .pad 0 (PAD_GRP + 4 * k)) = true → ∀ d, named (regAddr .pad 0 (PAD_GRP + 4 * k)) = some (.pad, 0, d, k) →
      let w := s.reg .pad 0 (PAD_GRP + 4 * k) ||| 8
      exec (.padGroupRelease req k) s = written (padWrite s k w (judge d.flds (s.reg .pad 0 (PAD_GRP + 4 * k)) w).1) req .pad 0 (PAD_GRP + 4 * k)) ∧
    (mayWrite s req (regAddr .hedge 0 HEDGE_SW_FIRE) = true →
      exec (.hedgeSwFire req v) s = answer (s.fire (((List.range 16).filter fun k => bit v k).map fun k => (prodSw k, bits v 18 16)))) ∧
    (∀ k, (k < 2880 → mayWrite s req (regAddr .hedge 0 (HEDGE_TSEL + 4 * k)) = true →
        exec (.selectorWrite req true k v) s = written (if s.happlying then (s, 2) else tselSet s k v role) req .hedge 0 (HEDGE_TSEL + 4 * k)) ∧
      (k < 2352 → mayWrite s req (regAddr .hedge 0 (HEDGE_PSEL + 4 * k)) = true →
        exec (.selectorWrite req false k v) s = written (if s.happlying then (s, 2) else pselSet s k v role) req .hedge 0 (HEDGE_PSEL + 4 * k)) ∧
      (k < 2048 → mayWrite s req (regAddr .hedge 0 (HEDGE_CHAN + 4 * k)) = true →
        exec (.channelWrite req k v) s = written (if s.happlying then (s, 2) else chanSet s k v role) req .hedge 0 (HEDGE_CHAN + 4 * k))) ∧
    (∀ l off (c : Instr), l < 144 → (∃ second, c = .swParamWrite req l second v ∧ off = (if second then LANE_SW_PARAM2 else LANE_SW_PARAM)) ∨
        (∃ node isEnd, node ≤ 128 ∧ c = .overrideWrite req l node isEnd v ∧ off = ovrOff node isEnd) →
      mayWrite s req (regAddr .lane l off) = true → ∀ d k, named (regAddr .lane l off) = some (.lane, l, d, k) →
      (journalReady s = true → exec c s =
        (let a := mkAct s req 0x1000 (w32 (regAddr .lane l off - 0xE0000000)) (d64 (s.reg .lane l off).toNat) (d64 ((storeReg s .lane l d k role v).1.reg .lane l off).toNat) 0 5
         written (storeReg (journal s a) .lane l d k role v) req .lane l off)) ∧
      (journalReady s = false → exec c s = answer ((s.bump .mantle 0 MANTLE_JR_CNT_FULL).logClamp .lane l 2 off role)))

/-- Each of the ten upstream frame commands with a frame of its row (its TYPE, and for an ENUM its subtype, or ones that are no upstream ones), on a lane that does not receive, has no effect; one with no room in its class's units passes the receive FIFO and is counted as received and as an overrun; one that fails a check of R66 is counted by that check and its units are free again. -/
def Obligations.FramesTurnedAway : Prop :=
  ∀ (s : State) (t l ty sub : Nat) (f : RxFrame) (c : Instr), l < 144 → let u := s.reach t
    let type := rxType f
    (c, ty, sub) ∈ [(.dataRx t l f, 1, 0), (.detRx t l f, 2, 0), (.fltRx t l f, 3, 0), (.rspRx t l f, 5, 0), (.idRx t l f, 6, 0), (.energyRx t l f, 7, 0), (.statusRx t l f, 8, 0),
      (.enumReportRx t l f, 0xB, 2), (.enumAckRx t l f, 0xB, 4), (.delayAckRx t l f, 0xB, 6)] → rowFrame ty sub f = true →
    (laneTx u l = false → exec c s = answer u) ∧
    (laneTx u l = true → rxFits u l type f = false → exec c s = answer (bumpLane (rxPoured u l f).1 l LANE_CNT_OVERRUN)) ∧
    (laneTx u l = true → rxFits u l type f = true → ∀ off, rxFails (rxHeld u l type f) l type (rxOut u l f) = some off →
      exec c s = answer (freeUnits (bumpLane (rxHeld u l type f) l off) l (decide (type = 2)) (rxUnits type f.payload)))

/-- A DATA, FLT, ID or ENERGY frame joins those to be filed, and filing goes on; a DET goes to the swath engine, returns its unit, and joins the filing hold, or is counted as unfiled where that is full, or goes nowhere where it has no queue; an RSP whose tag is free or quarantined, of another generation, or of another address, is counted and dropped, and else ends its command and is filed; a STATUS restarts the node's silence timing, is judged for the level, and is filed or dropped; an enumeration frame returns its units and is a report, an answer to ASSIGN or an answer to DELAY. -/
def Obligations.FramesTaken : Prop :=
  ∀ (s : State) (t l : Nat) (f : RxFrame), l < 144 → let u := s.reach t
    (∀ c type, (c, type) ∈ [((.dataRx t l f : Instr), 1), (.fltRx t l f, 3), (.idRx t l f, 6), (.energyRx t l f, 7)] → rxType f = type → Admitted u l type f →
      exec c s = answer (drainLane ((rxTaken u l type f).modLane l fun x => { x with held := x.held ++ [rxFrame u l type f] }) l)) ∧
    (rxType f = 2 → Admitted u l 2 f →
      let z := rxTaken u l 2 f
      let fr := rxFrame u l 2 f
      let v := drainLane (freeUnits (swathDet z l (hdrAddr fr.hdr) (z.expandT48 (leAt f.payload 0 6)) (leAt f.payload 6 1 % 4)) l true 1) l
      ((frameQueue v l fr).isNone = true → exec (.detRx t l f) s = answer v) ∧
      ((frameQueue v l fr).isNone = false → 48 ≤ (v.lane l).detHold.length → exec (.detRx t l f) s = answer (bumpLane v l LANE_CNT_DET_UNFILED)) ∧
      ((frameQueue v l fr).isNone = false → (v.lane l).detHold.length < 48 →
        exec (.detRx t l f) s = answer (drainLane (v.modLane l fun x => { x with detHold := x.detHold ++ [fr] }) l))) ∧
    (rxType f = 5 → Admitted u l 5 f →
      let z := rxTaken u l 5 f
      let fr := rxFrame u l 5 f
      let k := bits fr.hdr 59 48
      let gen := BitVec.ofNat 4 (bits fr.hdr 63 60)
      let tg := (z.lane l).tag k
      let drop := fun off => answer (freeUnits (bumpLane z l off) l false (rxUnits 5 f.payload))
      (tg.st = .free → exec (.rspRx t l f) s = drop LANE_CNT_STRAY_RSP) ∧
      (∀ a, tg.st = .quarantined a → exec (.rspRx t l f) s = drop (if gen = tg.gen then LANE_CNT_LATE_RSP else LANE_CNT_GEN_MISMATCH)) ∧
      (∀ c dl, tg.st = .outstanding c dl →
        (gen ≠ tg.gen → exec (.rspRx t l f) s = drop LANE_CNT_GEN_MISMATCH) ∧
        (gen = tg.gen → c.addr ≠ hdrAddr fr.hdr ∨ c.inc ≠ hdrInc fr.hdr → exec (.rspRx t l f) s = drop LANE_CNT_STRAY_RSP) ∧
        (gen = tg.gen → c.addr = hdrAddr fr.hdr → c.inc = hdrInc fr.hdr →
          let q := quarantine z l k
          let q := if c.code = 3 ∧ leAt f.payload 1 1 = 0 ∧ 6 ≤ f.payload.length then tdrResult q l c.addr (w32 (leAt f.payload 2 4)) true else q
          exec (.rspRx t l f) s = answer (startNext (fileBulk (cmdDone q l c cDone f.payload) l fr) l)))) ∧
    (rxType f = 8 → Admitted u l 8 f →
      let n := hdrAddr (f.header 8)
      let st := leAt f.payload 6 2
      let z := (rxTaken u l 8 f).modNode l n fun x => { x with silentFrom := silenceClock (rxTaken u l 8 f) l, lastStatus := some ((rxTaken u l 8 f).uptime, (rxTaken u l 8 f).townSec), unanswered := false, missing := x.missing && !x.assigned }
      let v := judgeLinks (statusLevel (noteStatus z l n (leAt f.payload 8 2) (st.testBit 10)) l n (st % 1024) (st.testBit 10)) l
      ((frameQueue v l (rxFrame u l 8 f)).isNone = true → exec (.statusRx t l f) s = answer (freeUnits v l false (rxUnits 8 f.payload))) ∧
      ((frameQueue v l (rxFrame u l 8 f)).isNone = false →
        exec (.statusRx t l f) s = answer (drainLane (v.modLane l fun x => { x with held := x.held ++ [rxFrame u l 8 f] }) l))) ∧
    (rxType f = 0xB → Admitted u l 0xB f →
      let h := f.header 0xB
      let n := hdrAddr h
      let z := freeUnits (rxTaken u l 0xB f) l false (rxUnits 0xB f.payload)
      (leAt f.payload 0 1 = 2 → exec (.enumReportRx t l f) s = answer (enumReport z l h f.payload)) ∧
      (leAt f.payload 0 1 = 4 → ∀ dl at_, (z.node l n).enumStep = .ack dl at_ → exec (.enumAckRx t l f) s =
        answer (startNext (enqueue (z.modNode l n fun x => { x with rtt := w32 (z.uptime - at_), delayNs := w32 ((z.uptime - at_ - leAt f.payload 4 4) / 2), enumStep := .delay }) l (.delay n)) l)) ∧
      (leAt f.payload 0 1 = 4 → (∀ dl at_, (z.node l n).enumStep ≠ .ack dl at_) → exec (.enumAckRx t l f) s = answer z) ∧
      (leAt f.payload 0 1 = 6 → exec (.delayAckRx t l f) s = answer (enumDelayAck z l n)))

/-- CREDIT_STALL_TIMER marks STALLED after 1 ms of a hold and counts each further millisecond; CREDIT_SEND puts a CREDIT in line when one is due; SYNC_SEND makes a SYNC pending at its interval, and SYNC_NOW by its task; SWEEP_TIMER and SWEEP_NOW begin a sweep of an OPERATING lane with none under way; CMD_SEND gives the oldest waiting command the next free tag and starts it, or completes it NO_NODE; CMD_TIMEOUT ends an outstanding command at its deadline; TAG_QUARANTINE_END frees a tag; RELEASE_REPORT_TIMEOUT completes the node's releases that are due TIMEOUT, oldest first; FRAME_LEFT frees the transmitter and completes a broadcast; ENUM_ACK_TIMEOUT makes the address absent. Before its instant, or with nothing to act on, each leaves the lane as it is. -/
def Obligations.LaneTimers : Prop :=
  (∀ (s : State) (t : Nat) (l : Nat), l < 144 → let u := s.reach t
      ((u.lane l).stalledFrom = none → exec (.creditStallTimer t l) s = answer u) ∧
      (∀ (a : Nat), (u.lane l).stalledFrom = some a → u.uptime < a + 1000000 → exec (.creditStallTimer t l) s = answer u) ∧
      (∀ (a : Nat), (u.lane l).stalledFrom = some a → a + 1000000 ≤ u.uptime → exec (.creditStallTimer t l) s = answer (let ms := (u.uptime - (a + 1000000)) / 1000000
        (u.bumpBy .lane l LANE_CNT_STALL_MS (ms - if (u.lane l).stalled then (u.lane l).stallMs else 0)).modLane l fun x => { x with stalled := true, stallMs := ms }))) ∧
  (∀ (s : State) (t : Nat) (l : Nat), l < 144 → let u := s.reach t
      (laneTx u l = true ∧ creditDue u l = true → exec (.creditSend t l) s = answer (startNext (if DownFrame.credit ∈ (u.lane l).txq then u else enqueue u l .credit) l)) ∧
      ((laneTx u l && creditDue u l) = false → exec (.creditSend t l) s = answer (startNext u l))) ∧
  (∀ (s : State) (t : Nat) (l : Nat), l < 144 → let u := s.reach t
      (laneTx u l = true → (∀ a, (u.lane l).lastSync = some a → a + syncNs u l ≤ u.uptime) ∨ (u.lane l).lastTx + 1000000000 ≤ u.uptime ∨ (u.lane l).syncPending = true → exec (.syncSend t l) s = answer (startNext (u.modLane l fun x => { x with syncPending := true }) l)) ∧
      (laneTx u l = false → exec (.syncSend t l) s = answer (startNext u l)) ∧
      (∀ (a : Nat), (u.lane l).lastSync = some a → u.uptime < a + syncNs u l → u.uptime < (u.lane l).lastTx + 1000000000 → (u.lane l).syncPending = false → exec (.syncSend t l) s = answer (startNext u l))) ∧
  (∀ (s : State) (t : Nat) (l : Nat), l < 144 → let u := s.reach t
      (tiDue u (tiLane l 8) = false → exec (.syncNow t l) s = answer u) ∧
      (tiDue u (tiLane l 8) = true → laneTx u l = true → exec (.syncNow t l) s = answer (startNext ((tiTaken u (tiLane l 8)).modLane l fun x => { x with syncPending := true }) l)) ∧
      (tiDue u (tiLane l 8) = true → laneTx u l = false → exec (.syncNow t l) s = answer (tiEnd u (tiLane l 8)))) ∧
  (∀ (s : State) (t : Nat) (l : Nat), l < 144 → let u := s.reach t
      (¬((u.lane l).st = .operating ∧ bits (lreg u l LANE_CFG) 15 8 ≠ 0 ∧ (u.lane l).sweepAt + bits (lreg u l LANE_CFG) 15 8 * 1000000000 ≤ u.uptime) → exec (.sweepTimer t l) s = answer u) ∧
      ((u.lane l).st = .operating ∧ bits (lreg u l LANE_CFG) 15 8 ≠ 0 ∧ (u.lane l).sweepAt + bits (lreg u l LANE_CFG) 15 8 * 1000000000 ≤ u.uptime → exec (.sweepTimer t l) s = answer (sweepStart (u.modLane l fun x => { x with sweepAt := u.uptime }) l none))) ∧
  (∀ (s : State) (t : Nat) (l : Nat), l < 144 → let u := s.reach t
      (tiDue u (tiLane l 9) = false → exec (.sweepNow t l) s = answer u) ∧
      (tiDue u (tiLane l 9) = true → (u.lane l).st = .operating ∧ (u.lane l).enum = none → exec (.sweepNow t l) s = answer (enumStart (tiTaken u (tiLane l 9)) l true false none (some (u.ti (tiLane l 9)).lastHop))) ∧
      (tiDue u (tiLane l 9) = true → ¬((u.lane l).st = .operating ∧ (u.lane l).enum = none) → exec (.sweepNow t l) s = answer (tiEnd u (tiLane l 9)))) ∧
  (∀ (s : State) (t : Nat) (l : Nat), l < 144 → let u := s.reach t
      (txFree u l = false ∨ (u.lane l).raisePending = true ∨ (u.lane l).catchup ≠ [] → exec (.cmdSend t l) s = answer u) ∧
      ((u.lane l).cmdq = [] → exec (.cmdSend t l) s = answer u) ∧
      (∀ (c : Cmd) (r : List Cmd), ¬(txFree u l = false ∨ (u.lane l).raisePending = true ∨ (u.lane l).catchup ≠ []) → (u.lane l).cmdq = c :: r → c.addr ≠ 0 ∧ ((u.node l c.addr).assigned = false ∨ (u.node l c.addr).inc ≠ c.inc) → exec (.cmdSend t l) s = answer (cmdDone (u.modLane l fun x => fillCmds { x with cmdq := r }) l c cNoNode [])) ∧
      (∀ (c : Cmd) (r : List Cmd), ¬(txFree u l = false ∨ (u.lane l).raisePending = true ∨ (u.lane l).catchup ≠ []) → (u.lane l).cmdq = c :: r → ¬(c.addr ≠ 0 ∧ ((u.node l c.addr).assigned = false ∨ (u.node l c.addr).inc ≠ c.inc)) → nextTag u l = none → exec (.cmdSend t l) s = answer u) ∧
      (∀ (c : Cmd) (r : List Cmd) (n : Nat), ¬(txFree u l = false ∨ (u.lane l).raisePending = true ∨ (u.lane l).catchup ≠ []) → (u.lane l).cmdq = c :: r → ¬(c.addr ≠ 0 ∧ ((u.node l c.addr).assigned = false ∨ (u.node l c.addr).inc ≠ c.inc)) → nextTag u l = some n → exec (.cmdSend t l) s = answer (startFrame (u.modLane l fun x => fillCmds { x.setTag n { st := .outstanding c (if c.addr = 0 then none else some (u.uptime + cmdTimeoutNs u l)), gen := (x.tag n).gen + 1 } with cmdq := r, lastTag := n }) l (.cmd n)))) ∧
  (∀ (s : State) (t : Nat) (l n : Nat), l < 144 → let u := s.reach t
      (∀ (c : Cmd) (dl : Nat), ((u.lane l).tag n).st = .outstanding c (some dl) → dl ≤ u.uptime → exec (.cmdTimeout t l n) s = answer (startNext (cmdDone (quarantine (bumpLane u l LANE_CNT_CMD_TIMEOUT) l n) l c cTimeout []) l)) ∧
      ((∀ c dl, ((u.lane l).tag n).st = .outstanding c (some dl) → u.uptime < dl) → exec (.cmdTimeout t l n) s = answer u)) ∧
  (∀ (s : State) (t : Nat) (l n : Nat), l < 144 → let u := s.reach t
      (∀ (a : Nat), ((u.lane l).tag n).st = .quarantined a → a ≤ u.uptime → exec (.tagQuarantineEnd t l n) s = answer (u.modLane l fun x => x.setTag n { x.tag n with st := .free })) ∧
      ((∀ a, ((u.lane l).tag n).st = .quarantined a → u.uptime < a) → exec (.tagQuarantineEnd t l n) s = answer u)) ∧
  (∀ (s : State) (t : Nat) (l n : Nat), (l < 144 ∧ 1 ≤ n ∧ n ≤ 128) → let u := s.reach t
      exec (.releaseReportTimeout t l n) s = answer (((u.lane l).releases.filter fun w => w.sent && decide (w.node = n ∧ w.until_ ≤ u.uptime)).foldl (fun v w => complete v .lane l 6 w.d cTimeout 0 [])
        (u.modLane l fun x => { x with releases := x.releases.filter fun w => !(w.sent && decide (w.node = n ∧ w.until_ ≤ u.uptime)) }))) ∧
  (∀ (s : State) (t : Nat) (l : Nat), l < 144 → let u := s.reach t
      (∀ (n : Nat) (c : Cmd), (u.lane l).tx = some (.cmd n) → (((u.modLane l fun x => { x with tx := none }).lane l).tag n).st = .outstanding c none → exec (.frameLeft t l) s = answer (startNext (cmdDone (quarantine (u.modLane l fun x => { x with tx := none }) l n) l c cDone []) l)) ∧
      ((∀ n c, (u.lane l).tx = some (.cmd n) → (((u.modLane l fun x => { x with tx := none }).lane l).tag n).st ≠ .outstanding c none) → exec (.frameLeft t l) s = answer (startNext (u.modLane l fun x => { x with tx := none }) l))) ∧
  (∀ (s : State) (t : Nat) (l n : Nat), (l < 144 ∧ 1 ≤ n ∧ n ≤ 128) → let u := s.reach t
      (∀ (dl at_ : Nat), (u.node l n).enumStep = .ack dl at_ → dl ≤ u.uptime → exec (.enumAckTimeout t l n) s = answer (startNext (enumEnd (bumpLane u l LANE_CNT_CMD_TIMEOUT) l n false) l)) ∧
      (∀ (dl : Nat), (u.node l n).enumStep = .delayAck dl → dl ≤ u.uptime → exec (.enumAckTimeout t l n) s = answer (startNext (enumEnd (bumpLane u l LANE_CNT_CMD_TIMEOUT) l n false) l)) ∧
      ((∀ dl at_, (u.node l n).enumStep = .ack dl at_ → u.uptime < dl) → (∀ dl, (u.node l n).enumStep = .delayAck dl → u.uptime < dl) → exec (.enumAckTimeout t l n) s = answer u))

/-- LINK_UP resolves the amplitude that the mode asks for, restarts the credits, enters ENUMERATING and begins a full run, and does nothing outside LINKING or where no amplitude fits; LINK_DOWN of a lane that sends counts a failure, enters LINKING and drops what the lane was sending; LINK_ATTEMPT_TIMEOUT counts and tries again after 2 s; energy and the wake pattern fire their wake source while it is enabled, the domain is off and the device is not in Shelf; WINDOW_SUMMARY ends a node's window after three lengths; CYCLING_CLEAR judges a node that cycles again; NODE_MISSING_TIMEOUT and LINKING_BREAK_TIMEOUT judge the lane's links while its domain is on. -/
def Obligations.LaneLinks : Prop :=
  (∀ (s : State) (t : Nat) (l : Nat) (has24 has10 : Bool), l < 144 → let u := s.reach t
      ((u.lane l).st ≠ .linking → exec (.linkUp t l has24 has10) s = answer u) ∧
      ((u.lane l).st = .linking → (u.lane l).ampAsk = 1 → has10 = false → exec (.linkUp t l has24 has10) s = answer u) ∧
      ((u.lane l).st = .linking → (u.lane l).ampAsk = 2 → has24 = false → exec (.linkUp t l has24 has10) s = answer u) ∧
      ((u.lane l).st = .linking → has24 = false → has10 = false → exec (.linkUp t l has24 has10) s = answer u) ∧
      ((u.lane l).st = .linking → (u.lane l).ampAsk = 1 → has10 = true → exec (.linkUp t l has24 has10) s = answer (enumStart (setLaneSt (u.modLane l fun x => { stallEnds x u.uptime with linkUp := true, ampRes := 1, lpi := x.lpiAsk, anAttempts := 0, bulkUsed := 0, detUsed := 0, bulkLimit := 480, detLimit := 8, creditSent := (0, 0), creditAt := 0, creditDirty := none, lastSync := none, held := [] }) l .enumerating) l false false none none)) ∧
      ((u.lane l).st = .linking → (u.lane l).ampAsk ≠ 1 → has24 = true → exec (.linkUp t l has24 has10) s = answer (enumStart (setLaneSt (u.modLane l fun x => { stallEnds x u.uptime with linkUp := true, ampRes := 2, lpi := x.lpiAsk, anAttempts := 0, bulkUsed := 0, detUsed := 0, bulkLimit := 480, detLimit := 8, creditSent := (0, 0), creditAt := 0, creditDirty := none, lastSync := none, held := [] }) l .enumerating) l false false none none)) ∧
      ((u.lane l).st = .linking → (u.lane l).ampAsk ≠ 2 → has24 = false → has10 = true → exec (.linkUp t l has24 has10) s = answer (enumStart (setLaneSt (u.modLane l fun x => { stallEnds x u.uptime with linkUp := true, ampRes := 1, lpi := x.lpiAsk, anAttempts := 0, bulkUsed := 0, detUsed := 0, bulkLimit := 480, detLimit := 8, creditSent := (0, 0), creditAt := 0, creditDirty := none, lastSync := none, held := [] }) l .enumerating) l false false none none))) ∧
  (∀ (s : State) (t : Nat) (l : Nat), l < 144 → let u := s.reach t
      (laneTx u l = true → exec (.linkDown t l) s = answer (let v := enterLinking (bumpLane u l LANE_CNT_LINK_FAIL) l
        judgeLinks (laneQuiet (castEnds (if (u.lane l).st = .operating then v else v.modLane l fun x => { x with linkingFrom := none }) l) l cNotNow) l)) ∧
      (laneTx u l = false → exec (.linkDown t l) s = answer u)) ∧
  (∀ (s : State) (t : Nat) (l : Nat), l < 144 → let u := s.reach t
      ((u.lane l).st = .linking ∧ (u.lane l).attemptFrom + 2000000000 ≤ u.uptime → exec (.linkAttemptTimeout t l) s = answer (judgeLinks (enterLinking (bumpLane u l LANE_CNT_LINK_FAIL) l) l)) ∧
      (¬((u.lane l).st = .linking ∧ (u.lane l).attemptFrom + 2000000000 ≤ u.uptime) → exec (.linkAttemptTimeout t l) s = answer u)) ∧
  (∀ (s : State) (t : Nat) (l mv ns : Nat), l < 144 → let u := s.reach t
      (150 < mv ∧ 2000 ≤ ns → (bit (wakeLaneReg u l) 0 = true ∧ u.dev ≠ .shelf ∧ (u.dom (laneDom l)).st = .off) → exec (.laneEnergyDetect t { lane := l, mv := mv, ns := ns }) s = answer (wakeFire u 0 (noteLow 0 7 0 l) (bits (wakeLaneReg u l) 5 2) [laneDom l] none)) ∧
      (¬(150 < mv ∧ 2000 ≤ ns ∧ bit (wakeLaneReg u l) 0 = true ∧ u.dev ≠ .shelf ∧ (u.dom (laneDom l)).st = .off) → exec (.laneEnergyDetect t { lane := l, mv := mv, ns := ns }) s = answer u)) ∧
  (∀ (s : State) (t : Nat) (l : Nat) (plus minus : BitVec 64), l < 144 → let u := s.reach t
      (wrongSymbols plus minus ≤ 4 → (bit (wakeLaneReg u l) 1 = true ∧ u.dev ≠ .shelf ∧ (u.dom (laneDom l)).st = .off) → exec (.laneWakePattern t { lane := l, plus := plus, minus := minus }) s = answer (wakeFire u 1 (noteLow 1 7 0 l) (bits (wakeLaneReg u l) 5 2) [laneDom l] none)) ∧
      (¬(wrongSymbols plus minus ≤ 4 ∧ bit (wakeLaneReg u l) 1 = true ∧ u.dev ≠ .shelf ∧ (u.dom (laneDom l)).st = .off) → exec (.laneWakePattern t { lane := l, plus := plus, minus := minus }) s = answer u)) ∧
  (∀ (s : State) (t : Nat) (l n : Nat), (l < 144 ∧ 1 ≤ n ∧ n ≤ 128) → let u := s.reach t
      (∀ (w : Nat), ((startWindows u l n).wave l n).winStart = some w → w + 3 * sumWinUs u l ≤ u.townUs → exec (.windowSummary t l n) s = answer (endWindow (startWindows u l n) l n)) ∧
      ((∀ w, ((startWindows u l n).wave l n).winStart = some w → u.townUs < w + 3 * sumWinUs u l) → exec (.windowSummary t l n) s = answer (startWindows u l n))) ∧
  (∀ (s : State) (t : Nat) (l n : Nat), (l < 144 ∧ 1 ≤ n ∧ n ≤ 128) → let u := s.reach t
      (isPresent u 0x04 (subj l n) = true → exec (.cyclingClear t l n) s = answer (judgeCycling u l n (level u l n))) ∧
      (isPresent u 0x04 (subj l n) = false → exec (.cyclingClear t l n) s = answer u)) ∧
  (∀ (s : State) (t : Nat) (l : Nat), l < 144 → let u := s.reach t
      (u.domOn (laneDom l) = true → exec (.nodeMissingTimeout t l) s = answer (judgeLinks u l)) ∧
      (u.domOn (laneDom l) = false → exec (.nodeMissingTimeout t l) s = answer u)) ∧
  (∀ (s : State) (t : Nat) (l : Nat), l < 144 → let u := s.reach t
      (u.domOn (laneDom l) = true → exec (.linkingBreakTimeout t l) s = answer (judgeLinks u l)) ∧
      (u.domOn (laneDom l) = false → exec (.linkingBreakTimeout t l) s = answer u))

/-- A raise frame starts with every pending change once the transmitter is free; a gathering window that ends starts its frame unless the cap of 71 in a second holds it, which GATHER_CAP_RELEASE ends; a catch-up frame gives every assigned node its present level; HOLD_EXPIRY turns due holds to fades and drops due exits, FADE_END ends due fades; ENTRY serves its task once, with its list where the entry is enabled and the lane sends; OVERRIDE_END takes ACTIVE from overrides whose END has come; CALENDAR_OCCURRENCE serves the events since the last look, SUN_COMPUTE gives today's crossings. -/
def Obligations.SwathTimers : Prop :=
  (∀ (s : State) (t : Nat) (l : Nat), l < 144 → let u := s.reach t
      ((txFree u l && (u.lane l).raisePending && (u.lane l).catchup.isEmpty) = false → exec (.raiseFrameSend t l) s = answer u) ∧
      ((txFree u l && (u.lane l).raisePending && (u.lane l).catchup.isEmpty) = true → exec (.raiseFrameSend t l) s = answer (let v := u.modLane l fun x => { x with raisePending := false, gatherEnd := none, gatherHeld := false }
        if (changedNodes u l).map (entryOf u l false) = [] then startNext v l else startFrame v l (.level false ((changedNodes u l).map (entryOf u l false)))))) ∧
  (∀ (s : State) (t : Nat) (l : Nat), l < 144 → let u := s.reach t
      ((u.lane l).gatherEnd = none → exec (.gatherWindowClose t l) s = answer u) ∧
      (∀ (e : Nat), (u.lane l).gatherEnd = some e → u.uptime < e ∨ (u.lane l).gatherHeld = true → exec (.gatherWindowClose t l) s = answer u) ∧
      (∀ (e : Nat), (u.lane l).gatherEnd = some e → ¬(u.uptime < e ∨ (u.lane l).gatherHeld = true) → capFree u l = true → gatherReady u l = true → exec (.gatherWindowClose t l) s = answer (gatherSend u l)) ∧
      (∀ (e : Nat), (u.lane l).gatherEnd = some e → ¬(u.uptime < e ∨ (u.lane l).gatherHeld = true) → capFree u l = true → gatherReady u l = false → exec (.gatherWindowClose t l) s = answer u) ∧
      (∀ (e : Nat), (u.lane l).gatherEnd = some e → ¬(u.uptime < e ∨ (u.lane l).gatherHeld = true) → capFree u l = false → exec (.gatherWindowClose t l) s = answer (let v := u.modLane l fun x => { x with gatherHeld := true }; ((changedNodes v l).filter fun n => !(v.node l n).raiseDue).foldl (fun s n => gather s l n) v))) ∧
  (∀ (s : State) (t : Nat) (l : Nat), l < 144 → let u := s.reach t
      ((u.lane l).gatherHeld = true → capFree u l = true → gatherReady u l = true → exec (.gatherCapRelease t l) s = answer (gatherSend u l)) ∧
      (((u.lane l).gatherHeld && capFree u l && gatherReady u l) = false → exec (.gatherCapRelease t l) s = answer u)) ∧
  (∀ (s : State) (t : Nat) (l : Nat), l < 144 → let u := s.reach t
      ((txFree u l && !((u.lane l).catchup.isEmpty)) = false → exec (.catchupFrameSend t l) s = answer u) ∧
      ((txFree u l && !((u.lane l).catchup.isEmpty)) = true → exec (.catchupFrameSend t l) s = answer (let es := ((u.lane l).catchup.filter fun n => (u.node l n).assigned).map (entryOf u l true)
        let v := u.modLane l fun x => { x with catchup := [] }
        if es = [] then startNext v l else startFrame v l (.level false es)))) ∧
  (∀ (s : State) (t : Nat) (l : Nat), l < 144 → let u := s.reach t
      exec (.holdExpiry t l) s = answer (let fade := bits (lreg u l LANE_SW_PARAM2) 6 0
        let due := (u.lane l).nodes.filterMap fun p => if p.2.phase = .held ∧ p.2.holdEnd ≤ u.uptime then some p.1 else none
        let v := due.foldl (fun s n => touch (s.modNode l n fun x => { x with phase := .fading, swath := 0, fadeEnd := s.uptime + fade * 100000000 }) l n (.fade fade)) u
        v.modLane l fun x => { x with exits := x.exits.filter fun p => decide (v.uptime < p.2) })) ∧
  (∀ (s : State) (t : Nat) (l : Nat), l < 144 → let u := s.reach t
      exec (.fadeEnd t l) s = answer (((u.lane l).nodes.filterMap fun p => if p.2.phase = .fading ∧ p.2.fadeEnd ≤ u.uptime then some p.1 else none).foldl
        (fun s n => s.modNode l n fun x => { x with phase := .idle }) u)) ∧
  (∀ (s : State) (t : Nat) (l j : Nat), l < 144 → let u := s.reach t
      (tiDue u (tiLane l j) = false → exec (.entry t l j) s = answer u) ∧
      (tiDue u (tiLane l j) = true → (swActive u l && bit (lreg u l (LANE_ENTRY_CFG + 0x10 * j)) 1) = false → exec (.entry t l j) s = answer (tiEnd (bumpLane u l LANE_SW_CNT_ENTRY_IDLE) (tiLane l j))) ∧
      (tiDue u (tiLane l j) = true → (swActive u l && bit (lreg u l (LANE_ENTRY_CFG + 0x10 * j)) 1) = true → exec (.entry t l j) s = answer (let v := tiEnd ((bumpLane u l LANE_SW_CNT_ENTRY_RUN).modLane l fun x => { x with entryLast := tput j (some (bumpLane u l LANE_SW_CNT_ENTRY_RUN).townUs) x.entryLast }) (tiLane l j)
        raiseSet v l (bits (lreg u l (LANE_ENTRY_CFG + 0x10 * j)) 0 0) ((u.ti (tiLane l j)).lastHop + 1)
          ((listBytes (lreg v l (LANE_ENTRY_LIST_LO + 0x10 * j)) (lreg v l (LANE_ENTRY_LIST_HI + 0x10 * j))).take (bits (lreg v l LANE_SW_PARAM) 13 10))))) ∧
  (∀ (s : State) (t : Nat) (l : Nat), l < 144 → let u := s.reach t
      ((bit (lreg u l LANE_OVR) 10 && ovrOver (lreg u l LANE_OVR_END) u.townSec) = false → (∀ n, n < 128 → (bit (nreg u l (n + 1) LANE_SW_NODE_OVR) 10 && ovrOver (nreg u l (n + 1) LANE_SW_NODE_OVR_END) u.townSec) = false) → exec (.overrideEnd t l) s = answer u) ∧
      (exec (.overrideEnd t l) s = answer (let now := u.townSec
        let g := lreg u l LANE_OVR
        let v := if bit g 10 && ovrOver (lreg u l LANE_OVR_END) now then touchAll (u.setReg .lane l LANE_OVR (setBits g 10 10 0)) l (.override (bits g 17 11)) else u
        foldTo 128 (fun s k => let o := nreg s l (k + 1) LANE_SW_NODE_OVR
          if bit o 10 && ovrOver (nreg s l (k + 1) LANE_SW_NODE_OVR_END) now then touch (s.setReg .lane l (LANE_SW_NODE_OVR + 0x40 * k) (setBits o 10 10 0)) l (k + 1) (.override (bits o 17 11)) else s) v))) ∧
  (∀ (s : State) (t : Nat) (l : Nat), l < 144 → let u := s.reach t
      (u.timeSet = false → exec (.calendarOccurrence t l) s = answer u) ∧
      ((u.lane l).calSeen = none → u.timeSet = true → exec (.calendarOccurrence t l) s = answer (u.modLane l fun x => { x with calSeen := some u.utcSec })) ∧
      (∀ (seen : Nat), (u.lane l).calSeen = some seen → u.timeSet = true → exec (.calendarOccurrence t l) s = answer (let d0 := localDay u l seen - 1
        let os := ((occurrences u l d0 (localDay u l u.utcSec + 2 - d0).toNat).filter fun o => decide ((seen : Int) < o.1 ∧ o.1 ≤ (u.utcSec : Int))).foldr insOcc []
        let v := u.modLane l fun x => { x with calSeen := some u.utcSec }
        if os = [] then v else touchBases v (os.foldl (fun s o => setEvent s l o.2) v) l))) ∧
  (∀ (s : State) (t : Nat) (l : Nat), l < 144 → let u := s.reach t
      (u.timeSet = false → exec (.sunCompute t l) s = answer u) ∧
      (u.timeSet = true → exec (.sunCompute t l) s = answer (let d := localDay u l u.utcSec
        let f := fun k hi lo vb (w : Word) => match sunOn u l k d with | some a => setBits (setBits w hi lo ((localSec u l a - d * 86400) / 60).toNat) vb vb 1 | none => w
        u.setReg .lane l LANE_CAL_SUN (f 3 26 16 28 (f 2 10 0 27 0)))))

/-- PRODUCER_FIRE suppresses the events of live producers whose hop count passes the limit, sends the others over their seams, and those that do not wait there reach their channels in one round, after which HC2 reports if it is due. TASK_END of a busy input outside Shelf starts what is left of the refractory interval, or else delivers the latched event, or leaves the input idle; REFRACTORY_END does the latter two once the interval is over. DELAY_INk starts its delay with the length read then, and DELAY_OUTk fires with the hop count plus 1 once that is over, its input's task ending first. HC2 fires at least 1 ms after it last fired. A user count, a capture and a journal mark act only on a delivered event, the mark only while its port does not stall. -/
def Obligations.HedgeTimers : Prop :=
  (∀ (s : State) (events : List (Nat × Nat)), 
      (exec (.producerFire events) s = answer (let passed := events.filter fun e => prodLive s e.1 && decide (e.2 ≤ hopLimit s)
        let late := events.filter fun e => prodLive s e.1 && decide (hopLimit s < e.2)
        let x := crossAll (late.foldl (fun v e => suppress v e.1) s) passed
        hc2Serve (carryAll x.1 x.2)))) ∧
  (∀ (s : State) (t : Nat) (n : Nat), n < 2880 → let u := s.reach t
      ((u.ti n).phase ≠ .busy ∨ u.dev = .shelf → exec (.taskEnd t n) s = answer (u)) ∧
      ((u.ti n).phase = .busy → u.dev ≠ .shelf → u.hclock < (u.ti n).refrEnd → exec (.taskEnd t n) s = answer (u.modTi n fun x => { x with phase := .refractory, due := false })) ∧
      (∀ (hop : Nat), (u.ti n).phase = .busy → u.dev ≠ .shelf → ¬u.hclock < (u.ti n).refrEnd → (u.ti n).latch = some hop → exec (.taskEnd t n) s = answer (deliver (u.modTi n fun x => { x with latch := none }) n hop)) ∧
      ((u.ti n).phase = .busy → u.dev ≠ .shelf → ¬u.hclock < (u.ti n).refrEnd → (u.ti n).latch = none → exec (.taskEnd t n) s = answer (u.modTi n fun x => { x with phase := .idle, due := false, refrEnd := 0 }))) ∧
  (∀ (s : State) (t : Nat) (n : Nat), n < 2880 → let u := s.reach t
      (¬((u.ti n).phase = .refractory ∧ u.dev ≠ .shelf ∧ (u.ti n).refrEnd ≤ u.hclock) → exec (.refractoryEnd t n) s = answer (u)) ∧
      (∀ (hop : Nat), (u.ti n).phase = .refractory ∧ u.dev ≠ .shelf ∧ (u.ti n).refrEnd ≤ u.hclock → (u.ti n).latch = some hop → exec (.refractoryEnd t n) s = answer (deliver (u.modTi n fun x => { x with latch := none }) n hop)) ∧
      ((u.ti n).phase = .refractory ∧ u.dev ≠ .shelf ∧ (u.ti n).refrEnd ≤ u.hclock → (u.ti n).latch = none → exec (.refractoryEnd t n) s = answer (u.modTi n fun x => { x with phase := .idle, due := false, refrEnd := 0 }))) ∧
  (∀ (s : State) (t : Nat) (k : Nat), k < 16 → let u := s.reach t
      (tiDue u (tiDelay k) = true → exec (.hedgeDelayIn t k) s = answer (tiTaken { u with delays := tset none u.delays k (some (u.hclock + u.fld .hedge 0 (HEDGE_DELAY + 4 * k) 23 0 * 1000, (u.ti (tiDelay k)).lastHop)) } (tiDelay k))) ∧
      (tiDue u (tiDelay k) = false → exec (.hedgeDelayIn t k) s = answer (u))) ∧
  (∀ (s : State) (t : Nat) (k : Nat), k < 16 → let u := s.reach t
      (∀ (e hop : Nat), tget none u.delays k = some (e, hop) → e ≤ u.hclock → u.dev ≠ .shelf → exec (.hedgeDelayExpiry t k) s = answer ((tiEnd { u with delays := tset none u.delays k none } (tiDelay k)).fire [(prodDelay k, hop + 1)])) ∧
      (∀ (e hop : Nat), tget none u.delays k = some (e, hop) → u.hclock < e ∨ u.dev = .shelf → exec (.hedgeDelayExpiry t k) s = answer (u)) ∧
      (tget none u.delays k = none → exec (.hedgeDelayExpiry t k) s = answer (u))) ∧
  (∀ (s : State) (t : Nat), let u := s.reach t
      (u.hc2Due = true → u.dev ≠ .shelf → (∀ a, u.hc2At = some a → a + 1000000 ≤ u.uptime) → exec (.hc2Report t) s = answer (fireRound (({ u with hc2Due := false, hc2At := some u.uptime } : State).bump .hedge 0 HEDGE_CNT_REPORTS) [(2, hopLimit u)])) ∧
      (u.hc2Due = false ∨ u.dev = .shelf ∨ (∃ a, u.hc2At = some a ∧ u.uptime < a + 1000000) → exec (.hc2Report t) s = answer (u))) ∧
  (∀ (s : State) (t : Nat) (k : Nat), let u := s.reach t
      (¬(k < 4 ∧ tiDue u (tiMark k) = true ∧ orderStalls u .mantle 0 412 = false) → exec (.journalMarkInput t k) s = answer (u)) ∧
      (k < 4 ∧ tiDue u (tiMark k) = true ∧ orderStalls u .mantle 0 412 = false → exec (.journalMarkInput t k) s = answer (Machine.submit (tiTaken u (tiMark k)) .mantle 0 0x16
        { req := 412, tag := BitVec.ofNat 16 k, target := w32 k, arg := d64 ((u.ti (tiMark k)).at48 + 2 ^ 48 * (u.ti (tiMark k)).lastHop) } {}))) ∧
  (∀ (s : State) (t : Nat) (k : Nat), k < 8 → let u := s.reach t
      (tiDue u (tiUser k) = true → exec (.userCount t k) s = answer (tiEnd (u.bankAdd bankHeath k 1) (tiUser k))) ∧
      (tiDue u (tiUser k) = false → exec (.userCount t k) s = answer (u))) ∧
  (∀ (s : State) (t : Nat) (k : Nat), k < 16 → let u := s.reach t
      (tiDue u (tiCapture k) = true → exec (.capture t k) s = answer (tiEnd ((u.setReg .heath 0 (HEATH_TB_CAP_LO + 8 * k) (w32 u.townSec)).setReg .heath 0 (HEATH_TB_CAP_HI + 8 * k) (w32 (u.townNs % 1000000000 + 2 ^ 30))) (tiCapture k))) ∧
      (tiDue u (tiCapture k) = false → exec (.capture t k) s = answer (u)))

/-- HW_PACKET_COMMIT of 1 to 256 words by a producer that is no core stores the packet whole, with the header the hardware makes, fires the producer of a lane's DATA, DET or FLT, is dropped where the queue refuses it, or waits and is counted once. SCRUB_PASS and BULK_SCRUB_PASS visit what their interval makes due, and the bits given flip after that. RECAL_TIMER recalibrates a running channel each RECAL_S seconds. BULK_FILE_RELEASE offers a lane's held frames and summaries to their queues in order. ENUM_WINDOW_CLOSE acts once, on a discovered run at the end of its window: the reports are judged serial by serial, listed nodes that nothing reported become absent, but for a sweep's assigned ones, and the run goes on. -/
def Obligations.QueueTimers : Prop :=
  (∀ (s : State) (req q : Nat) (ws : List Dword), 
      (ws = [] ∨ 256 < ws.length ∨ req < 256 → exec (.hwPacketCommit req q ws) s = answer (s)) ∧
      (∀ (v : State), ¬(ws = [] ∨ 256 < ws.length ∨ req < 256) → hwTry s q (hwPacket s req q ws) = (v, .ok) → exec (.hwPacketCommit req q ws) s = answer (let w : State := { v with hwHeld := s.hwHeld.filter fun h => decide (h.1 ≠ 16 + req) }
        if req < 400 then laneFiled w (req - 256) (bits (ws.getD 0 0) 7 0) else w)) ∧
      (∀ (v : State), ¬(ws = [] ∨ 256 < ws.length ∨ req < 256) → hwTry s q (hwPacket s req q ws) = (v, .refused) → exec (.hwPacketCommit req q ws) s = answer ({ v with hwHeld := s.hwHeld.filter fun h => decide (h.1 ≠ 16 + req) })) ∧
      (∀ (v : State) (r : Room), ¬(ws = [] ∨ 256 < ws.length ∨ req < 256) → hwTry s q (hwPacket s req q ws) = (v, r) → r ≠ .ok → r ≠ .refused → exec (.hwPacketCommit req q ws) s = answer (let p := (16 + req, q, (hwPacket s req q ws).length)
        if (v.hwHeld.any fun h => decide (h = p)) then v else countWait { v with hwHeld := (s.hwHeld.filter fun h => decide (h.1 ≠ 16 + req)) ++ [p] } q))) ∧
  (∀ (s : State) (t : Nat) (run : ScrubRun), run.ch < 4 → let u := s.reach t
      ((u.chan run.ch).st = 3 ∧ (u.chan run.ch).scrubAt + scrubNs u ≤ u.uptime → exec (.scrubPass t run) s = answer (run.upsets.foldl flip ((((busyQueues u run.ch).foldl scrubQueue u).modChan run.ch fun x => { x with scrubAt := ((busyQueues u run.ch).foldl scrubQueue u).uptime }).bump .qeng 0 (QENG_CNT_SCRUB_PASS + 4 * run.ch)))) ∧
      (¬((u.chan run.ch).st = 3 ∧ (u.chan run.ch).scrubAt + scrubNs u ≤ u.uptime) → exec (.scrubPass t run) s = answer (run.upsets.foldl flip u))) ∧
  (∀ (s : State) (t : Nat) (run : ScrubRun), run.ch < 4 → let u := s.reach t
      ((u.chan run.ch).st = 3 ∧ u.rbit .qdr run.ch QDR_CFG 5 = true ∧ (u.chan run.ch).bulkAt + scrubNs u ≤ u.uptime → exec (.bulkScrubPass t run) s = answer (run.upsets.foldl flip (((scrubWords u run.ch).modChan run.ch fun x => { x with bulkAt := (scrubWords u run.ch).uptime }).bump .qdr run.ch QDR_CNT_SCRUB_PASS_BULK))) ∧
      (¬((u.chan run.ch).st = 3 ∧ u.rbit .qdr run.ch QDR_CFG 5 = true ∧ (u.chan run.ch).bulkAt + scrubNs u ≤ u.uptime) → exec (.bulkScrubPass t run) s = answer (run.upsets.foldl flip u))) ∧
  (∀ (s : State) (t : Nat) (c eye group : Nat), c < 4 → let u := s.reach t
      ((u.chan c).st = 3 ∧ u.fld .qdr c QDR_CFG 15 8 ≠ 0 ∧ (u.chan c).recalAt + u.fld .qdr c QDR_CFG 15 8 * 1000000000 ≤ u.uptime → exec (.recalTimer t c eye group) s = answer (recal ((u.modChan c fun x => { x with recalAt := u.uptime }).bump .qdr c QDR_CNT_RECAL) c eye group)) ∧
      (¬((u.chan c).st = 3 ∧ u.fld .qdr c QDR_CFG 15 8 ≠ 0 ∧ (u.chan c).recalAt + u.fld .qdr c QDR_CFG 15 8 * 1000000000 ≤ u.uptime) → exec (.recalTimer t c eye group) s = answer (u))) ∧
  (∀ (s : State) (t : Nat) (l : Nat), l < 144 → let u := s.reach t
      (exec (.bulkFileRelease t l) s = answer (let v := drainDet (u.lane l).detHold.length u l
        drainSums (drainBulk (v.lane l).held.length v l) l)) ∧
      ((u.lane l).detHold = [] → (u.lane l).held = [] → (u.lane l).sumsHeld = [] → exec (.bulkFileRelease t l) s = answer (u))) ∧
  (∀ (s : State) (t : Nat) (l : Nat), l < 144 → let u := s.reach t
      ((u.lane l).enum = none → exec (.enumWindowClose t l) s = answer (u)) ∧
      (∀ (e : EnumRun), (u.lane l).enum = some e → e.discovered = false ∨ e.closed = true ∨ u.uptime < e.windowEnd → exec (.enumWindowClose t l) s = answer (u)) ∧
      (∀ (e : EnumRun), (u.lane l).enum = some e → ¬(e.discovered = false ∨ e.closed = true ∨ u.uptime < e.windowEnd) → exec (.enumWindowClose t l) s = answer (let serials := (e.reports.map fun r => r.serial).eraseDups
        let x := serials.foldl (fun (p : State × List Nat × List (Nat × Nat)) sn => judgeSerial p.1 l e sn p.2) (modEnum u l fun y => { y with dup := false, unknown := 0 }, [], [])
        let v := modEnum x.1 l fun y => { y with closed := true, reports := [], todo := x.2.2.foldr insPair [] }
        startNext (enumPump ((listing v l).foldl (fun v a =>
          if a.1 ∈ x.2.1 then v.modNode l a.1 fun y => { y with unanswered := false }
          else if e.sweep ∧ (v.node l a.1).assigned then v
          else makeAbsent (v.modNode l a.1 fun y => { y with unanswered := true }) l a.1 true) v) l) l)))

/-- POWER_DOWN_DRAINED ends the stop of a domain, unless it is a meadow put to rest for which work has come, which goes on; POWER_GOOD_TIMEOUT, PLL_LOCK_TIMEOUT and OWN_START_TIMEOUT fail the step a start is in once its bound is over; XREF_READY and its timeout end or retry the start of XREF; PLL_LOCK ends step 3 and releases the domain's islands; OWN_START_DONE brings the domain up, or fails its step, in a channel on a calibration of fewer than 8 taps; RETRY_RESTART begins the retry after 10 us. Outside its step each changes nothing. -/
def Obligations.PowerTimers : Prop :=
  (∀ (s : State) (t : Nat) (d : Nat), d < 50 → let u := s.reach t
      ((u.dom d).st ≠ .stopping → exec (.powerDownDrained t d) s = answer (u)) ∧
      ((u.dom d).st = .stopping → d < 32 → (u.meadow d).sleepOff = true → wakeWaiting u d = true → exec (.powerDownDrained t d) s = answer (abandonOff u d)) ∧
      ((u.dom d).st = .stopping → ¬(d < 32 ∧ (u.meadow d).sleepOff = true ∧ wakeWaiting u d = true) → exec (.powerDownDrained t d) s = answer (domOff u d))) ∧
  (∀ (s : State) (t : Nat) (d : Nat), d < 50 → let u := s.reach t
      (¬((u.dom d).st = .starting ∧ (u.dom d).step = 1) → exec (.powerGood t d) s = answer (u)) ∧
      ((u.dom d).st = .starting ∧ (u.dom d).step = 1 → exec (.powerGood t d) s = answer (let v := severAll (releaseSeam u d) 4 (islandsOf d)
        let v := v.modDom d fun x => { x with step := if 44 ≤ d ∧ d < 49 then 3 else 6, since := v.uptime }
        let v := if 44 ≤ d ∧ d < 48 then
            let w := v.modChan (d - 44) fun y => { y with qpwr := true, settles := !y.qpwr }
            if bit (w.reg .pad 0 (PAD_GRP + 4 * (d - 44))) 1 then setPad w (d - 44) false else w
          else v
        let v := if d = 48 then { v with fedEpoch := v.fedEpoch + 1, upls := tmap {} (fun x => { x with peers := tmap {} (fun y => { y with sentSeq := 0 }) x.peers }) v.upls } else v
        let v := if d = 49 then startWaiting v else v
        if d < 32 ∧ (v.dom 49).st = .faulted then stepFailed v d 7 else sequencer v))) ∧
  (∀ (s : State) (t : Nat) (d : Nat), d < 50 → let u := s.reach t
      ((u.dom d).st = .starting ∧ (u.dom d).step = 1 ∧ (u.dom d).since + u.fld .heath 0 HEATH_WAKE_TMO 10 0 * 1000 ≤ u.uptime → exec (.powerGoodTimeout t d) s = answer (stepFailed u d 1)) ∧
      (¬((u.dom d).st = .starting ∧ (u.dom d).step = 1 ∧ (u.dom d).since + u.fld .heath 0 HEATH_WAKE_TMO 10 0 * 1000 ≤ u.uptime) → exec (.powerGoodTimeout t d) s = answer (u))) ∧
  (∀ (s : State) (t : Nat), let u := s.reach t
      (u.xref.st ≠ 1 → exec (.xrefReady t) s = answer (u)) ∧
      (u.xref.st = 1 → exec (.xrefReady t) s = answer (let v := if u.xref.retry then momentary u 0x35 48 (d64 2) else u
        let v : State := { v with xref := { st := 0, retry := false, since := v.uptime } }
        let v := (v.setFld .heath 0 HEATH_WAKE_STATUS 10 10 0).modTb fun x => { x with x32 := false }
        let v := if bit (u.reg .heath 0 HEATH_WAKE_STATUS) 10 then
            (List.range 4).foldl (fun w c => if (w.chan c).st = 3 then severAll (w.modChan c fun y => { y with paused := true }) 4 [seamChan c] else w) v
          else v
        sequencer (if (v.dom 48).st = .starting ∧ (v.dom 48).step = 2 then v.modDom 48 fun x => { x with step := 1, since := v.uptime } else v)))) ∧
  (∀ (s : State) (t : Nat), let u := s.reach t
      (¬(u.xref.st = 1 ∧ u.xref.since + 10000000 ≤ u.uptime) → exec (.xrefTimeout t) s = answer (u)) ∧
      (u.xref.st = 1 ∧ u.xref.since + 10000000 ≤ u.uptime → u.xref.retry = false → exec (.xrefTimeout t) s = answer ((({ u with xref := { st := 1, retry := true, since := u.uptime } } : State).bump .heath 0 HEATH_WAKE_CNT_RETRIES).fire1 (prodSeq 3))) ∧
      (u.xref.st = 1 ∧ u.xref.since + 10000000 ≤ u.uptime → u.xref.retry = true → exec (.xrefTimeout t) s = answer (xrefLost u))) ∧
  (∀ (s : State) (t : Nat) (d : Nat), d < 50 → let u := s.reach t
      ((u.dom d).st = .starting ∧ (u.dom d).step = 3 → exec (.pllLock t d) s = answer (let v := (islandsOf d).foldl releaseSeam u
        v.modDom d fun x => { x with step := 6, since := v.uptime })) ∧
      (¬((u.dom d).st = .starting ∧ (u.dom d).step = 3) → chanRelock u d = true → exec (.pllLock t d) s = answer ((islandsOf d).foldl releaseSeam u)) ∧
      (¬((u.dom d).st = .starting ∧ (u.dom d).step = 3) → chanRelock u d = false → exec (.pllLock t d) s = answer (u))) ∧
  (∀ (s : State) (t : Nat) (d : Nat), d < 50 → let u := s.reach t
      ((u.dom d).st = .starting ∧ (u.dom d).step = 3 ∧ (u.dom d).since + supplyNs u d + 1000000 ≤ u.uptime → exec (.pllLockTimeout t d) s = answer (stepFailed u d 3)) ∧
      (¬((u.dom d).st = .starting ∧ (u.dom d).step = 3 ∧ (u.dom d).since + supplyNs u d + 1000000 ≤ u.uptime) → exec (.pllLockTimeout t d) s = answer (u))) ∧
  (∀ (s : State) (t : Nat) (d failed eye group : Nat), d < 50 → let u := s.reach t
      (chanRelock u d = true → exec (.ownStartDone t d failed eye group) s = answer (recal (((islandsOf d).foldl (fun v k => seamLive (releaseSeam v k) k) u).modChan (d - 44) fun y => { y with paused := false }) (d - 44) eye group)) ∧
      (chanRelock u d = false → ¬((u.dom d).st = .starting ∧ (u.dom d).step = 6 ∧ (d < 44 ∨ 47 < d ∨ padFree u d = true) ∧ (32 ≤ d ∨ u.mantle.reloadReady = true)) → exec (.ownStartDone t d failed eye group) s = answer (u)) ∧
      (chanRelock u d = false → (u.dom d).st = .starting ∧ (u.dom d).step = 6 ∧ (d < 44 ∨ 47 < d ∨ padFree u d = true) ∧ (32 ≤ d ∨ u.mantle.reloadReady = true) → d < 44 ∨ 47 < d → exec (.ownStartDone t d failed eye group) s = answer (if failed = 0 then domUp u d else stepFailed u d failed)) ∧
      (chanRelock u d = false → (u.dom d).st = .starting ∧ (u.dom d).step = 6 ∧ (d < 44 ∨ 47 < d ∨ padFree u d = true) ∧ (32 ≤ d ∨ u.mantle.reloadReady = true) → 44 ≤ d ∧ d < 48 → exec (.ownStartDone t d failed eye group) s = answer (let code := if failed = 0 ∧ eye < 8 then 4 else failed
        if code = 0 then domUp (chanStart u (d - 44) eye group) d
        else stepFailed (if code = 4 ∨ code = 5 then u.bump .qdr (d - 44) QDR_CNT_CAL_FAIL else u) d code))) ∧
  (∀ (s : State) (t : Nat) (d : Nat), d < 50 → let u := s.reach t
      ((u.dom d).st = .starting ∧ (u.dom d).step = 6 ∧ (u.dom d).since + ownBound u d ≤ u.uptime ∧ (32 ≤ d ∨ u.mantle.reloadReady = true) → exec (.ownStartTimeout t d) s = answer (stepFailed u d 6)) ∧
      (¬((u.dom d).st = .starting ∧ (u.dom d).step = 6 ∧ (u.dom d).since + ownBound u d ≤ u.uptime ∧ (32 ≤ d ∨ u.mantle.reloadReady = true)) → exec (.ownStartTimeout t d) s = answer (u))) ∧
  (∀ (s : State) (t : Nat) (d : Nat), d < 50 → let u := s.reach t
      ((u.dom d).st = .starting ∧ (u.dom d).step = 0 ∧ (u.dom d).retry = true ∧ (u.dom d).since + 10000 ≤ u.uptime → exec (.retryRestart t d) s = answer (u.modDom d fun x => { x with step := 1, since := u.uptime })) ∧
      (¬((u.dom d).st = .starting ∧ (u.dom d).step = 0 ∧ (u.dom d).retry = true ∧ (u.dom d).since + 10000 ≤ u.uptime) → exec (.retryRestart t d) s = answer (u))) ∧
  (∀ (s : State) (t : Nat), let u := s.reach t
      (u.domOn 49 = true → exec (.imageReloadPathReady t) s = answer (sequencer (u.modMantle fun m => { m with reloadReady := true }))) ∧
      (u.domOn 49 = false → exec (.imageReloadPathReady t) s = answer (u)))

/-- DESCENT_COMPLETE ends the last stage of a descent that no wake has turned, in DORMANT, or in SHELF, where the channels lose their supply and XREF stops. LEVEL_CHANGE_DONE gives a meadow the level it was going to, counted where it moved. LAT_HOLD_EXPIRY sends a meadow governed for latency to its lowest level once the hold is over. PACE_EVENT acts by the governor's mode, and PACE_WINDOW_END stores what the window measured and lets the governor judge it. A stop of XREF that no restart mended is a loss. Each wake source fires its route where it is enabled: uplink energy, the WAKE pin, an I2C match, and a wake input. -/
def Obligations.ModeTimers : Prop :=
  (∀ (s : State) (t : Nat), let u := s.reach t
      (¬(u.dev = .descending ∧ u.descent = 5 ∧ u.wake.isSome = false) → exec (.descentComplete t) s = answer (u)) ∧
      (u.dev = .descending ∧ u.descent = 5 ∧ u.wake.isSome = false → devTarget (u.bump .heath 0 HEATH_PWR_CNT_DORMANT) ≠ 3 → exec (.descentComplete t) s = answer (setDev (u.bump .heath 0 HEATH_PWR_CNT_DORMANT) .dormant)) ∧
      (u.dev = .descending ∧ u.descent = 5 ∧ u.wake.isSome = false → devTarget (u.bump .heath 0 HEATH_PWR_CNT_DORMANT) = 3 → exec (.descentComplete t) s = answer (let v := (List.range 4).foldl qpwrOff (u.bump .heath 0 HEATH_PWR_CNT_DORMANT)
        let v : State := { v with xref := { st := 2, retry := false, since := v.uptime }, shelfFrom := some v.tb.run }
        setDev (v.modTb fun x => { x with x32 := true }) .shelf))) ∧
  (∀ (s : State) (t : Nat) (m : Nat), m < 32 → let u := s.reach t
      ((u.meadow m).changing = true → exec (.levelChangeDone t m) s = answer (let v := u.modMeadow m fun x => { x with level := x.goal, changing := false, touched := true }
        if (u.meadow m).level ≠ (u.meadow m).goal then (v.bump .meadow m MEADOW_PWR_CNT_LEVEL).bankAdd (bankMeadow m) 25 1 else v)) ∧
      ((u.meadow m).changing = false → exec (.levelChangeDone t m) s = answer (u))) ∧
  (∀ (s : State) (t : Nat) (m : Nat), m < 32 → let u := s.reach t
      (∀ (e : Nat), (u.meadow m).lastEvent = some e → govMode u m = 2 ∧ govRuns u m = true ∧ e + u.fld .meadow m MEADOW_GOV2 19 0 * 1000 ≤ u.uptime → exec (.latHoldExpiry t m) s = answer ((u.modMeadow m fun x => { x with lastEvent := none }).goLevel m (govMin (u.modMeadow m fun x => { x with lastEvent := none }) m))) ∧
      (∀ (e : Nat), (u.meadow m).lastEvent = some e → ¬(govMode u m = 2 ∧ govRuns u m = true ∧ e + u.fld .meadow m MEADOW_GOV2 19 0 * 1000 ≤ u.uptime) → exec (.latHoldExpiry t m) s = answer (u)) ∧
      ((u.meadow m).lastEvent = none → exec (.latHoldExpiry t m) s = answer (u))) ∧
  (∀ (s : State) (t : Nat) (m : Nat), m < 32 → let u := s.reach t
      (tiDue u (tiPace m) = false → exec (.paceEvent t m) s = answer (u)) ∧
      (tiDue u (tiPace m) = true → govMode u m = 0 → exec (.paceEvent t m) s = answer (tiEnd (u.bump .meadow m MEADOW_PWR_CNT_PACE_IGNORED) (tiPace m))) ∧
      (tiDue u (tiPace m) = true → govMode u m = 1 → govRuns u m = true → exec (.paceEvent t m) s = answer (tiEnd (if (u.meadow m).goal < govMax u m then u.goLevel m ((u.meadow m).goal + 1) else u.modMeadow m fun x => { x with up := 0, down := 0 }) (tiPace m))) ∧
      (tiDue u (tiPace m) = true → govMode u m = 1 → govRuns u m = false → exec (.paceEvent t m) s = answer (tiEnd u (tiPace m))) ∧
      (tiDue u (tiPace m) = true → govMode u m ≠ 0 → govMode u m ≠ 1 → exec (.paceEvent t m) s = answer (tiEnd (u.govEvent m) (tiPace m)))) ∧
  (∀ (s : State) (t : Nat) (m rate running waiting : Nat), m < 32 → let u := s.reach t
      (exec (.paceWindowEnd t m rate running waiting) s = answer (let x := u.meadow m
        let valid := decide (x.st = .active) && !x.touched && !x.changing
        let rate := if valid then min rate 0xFFFF else 0
        let low := valid && decide (rate < guaranteed x.level)
        let busy := if running + waiting = 0 then 0 else 100 - 100 * waiting / (running + waiting)
        let v := u.setReg .meadow m MEADOW_PACE (w32 (rate + 2 ^ 16 * x.level + 2 ^ 19 * bnat valid + 2 ^ 20 * bnat low))
        let old := v.reg .meadow m MEADOW_PACE_MIN
        let mn := if valid then min (bits old 15 0) rate else bits old 15 0
        let v := v.setReg .meadow m MEADOW_PACE_MIN (w32 (mn + 2 ^ 16 * bnat (bit old 16 || low)))
        let v := if low || bit old 16 then condPresent v 0x38 m (d64 mn) else v
        govWindow (v.modMeadow m fun y => { y with touched := decide (y.st ≠ .active) || y.changing, busy := min busy 100 }) m (min busy 100)))) ∧
  (∀ (s : State) (t : Nat) (restarted : Bool), let u := s.reach t
      (u.xref.st = 0 ∧ restarted = false → exec (.xrefStop t restarted) s = answer (xrefLost u)) ∧
      (¬(u.xref.st = 0 ∧ restarted = false) → exec (.xrefStop t restarted) s = answer (u))) ∧
  (∀ (s : State) (t : Nat) (n : Nat), n < 4 → let u := s.reach t
      (u.rbit .heath 0 HEATH_WAKE_EN (2 + n) = true ∧ u.dev ≠ .shelf ∧ (u.dom 48).st = .off → exec (.uplinkEnergy t n) s = answer (wakeFire u 2 (noteLow 2 14 13 n) (u.fld .heath 0 HEATH_WAKE_ROUTES 11 8) [48] none)) ∧
      (¬(u.rbit .heath 0 HEATH_WAKE_EN (2 + n) = true ∧ u.dev ≠ .shelf ∧ (u.dom 48).st = .off) → exec (.uplinkEnergy t n) s = answer (u))) ∧
  (∀ (s : State) (t : Nat), let u := s.reach t
      (u.rbit .heath 0 HEATH_WAKE_EN 1 = true → exec (.wakePin t) s = answer (wakeFire u 4 id (u.fld .heath 0 HEATH_WAKE_ROUTES 7 4) [] none)) ∧
      (u.rbit .heath 0 HEATH_WAKE_EN 1 = false → exec (.wakePin t) s = answer (u))) ∧
  (∀ (s : State) (t : Nat) (k : Nat), k < 16 → let u := s.reach t
      (tiDue u (tiWake k) = false → exec (.wakeInput t k) s = answer (u)) ∧
      (tiDue u (tiWake k) = true → u.rbit .heath 0 HEATH_WAKE_EN (16 + k) = true ∧ u.dev ≠ .shelf → exec (.wakeInput t k) s = answer (wakeFire u 7 id k [] (some k))) ∧
      (tiDue u (tiWake k) = true → ¬(u.rbit .heath 0 HEATH_WAKE_EN (16 + k) = true ∧ u.dev ≠ .shelf) → exec (.wakeInput t k) s = answer (tiEnd u (tiWake k)))) ∧
  (∀ (s : State) (t : Nat), let u := s.reach t
      (exec (.i2cAddressMatch t) s = answer (wakeFire u 3 id (u.fld .heath 0 HEATH_WAKE_ROUTES 3 0) [] none)))

/-- LIFE_ID_APPLY and LIFE_ENERGY_APPLY serve the oldest frame of the intake where it is of their kind and the engine runs. LIFE_NOTICE_COMMIT commits the oldest notice and fires its producer, or counts it lost where the queue refuses it. LIFE_EXPORT offers the oldest unexported record, which is marked exported once its queue has taken it, and then the waiting snapshots. LIFE_MODEL_RECOMPUTE chooses the model of every open record afresh after a swap of the panel; CAP_REFRESH writes the caps of the lane groups concerned. FAULT_PACKET_COMMIT commits the oldest record packet, or loses it to a queue that refuses it, and HC0 fires after it where it is due. PERIOD_BOUNDARY acts once its instant has come, and the next is the next multiple of the length in force. -/
def Obligations.LifeTimers : Prop :=
  (∀ (s : State) (t : Nat), let u := s.reach t
      (∀ (f : Intake) (r : List Intake), u.life.intake = f :: r → f.isId = true ∧ lifeRuns u = true → exec (.lifeIdApply t) s = answer (idApply (u.modLife fun x => { x with intake := r }) f)) ∧
      (∀ (f : Intake) (r : List Intake), u.life.intake = f :: r → ¬(f.isId = true ∧ lifeRuns u = true) → exec (.lifeIdApply t) s = answer (u)) ∧
      (u.life.intake = [] → exec (.lifeIdApply t) s = answer (u))) ∧
  (∀ (s : State) (t : Nat), let u := s.reach t
      (∀ (f : Intake) (r : List Intake), u.life.intake = f :: r → f.isId = false ∧ lifeRuns u = true → exec (.lifeEnergyApply t) s = answer (energyApply (u.modLife fun x => { x with intake := r }) f)) ∧
      (∀ (f : Intake) (r : List Intake), u.life.intake = f :: r → ¬(f.isId = false ∧ lifeRuns u = true) → exec (.lifeEnergyApply t) s = answer (u)) ∧
      (u.life.intake = [] → exec (.lifeEnergyApply t) s = answer (u))) ∧
  (∀ (s : State) (t : Nat), let u := s.reach t
      (lifeRuns u = false ∨ u.life.notices = [] → exec (.lifeNoticeCommit t) s = answer (u)) ∧
      (∀ (n : Notice) (r : List Notice) (v : State), lifeRuns u = true → u.life.notices = n :: r → hwOffer u 4 0xD8511 n.words = (v, .ok) → exec (.lifeNoticeCommit t) s = answer ((v.modLife fun x => { x with notices := r }).fire1 (prodLife (bnat n.eol)))) ∧
      (∀ (n : Notice) (r : List Notice) (v : State), lifeRuns u = true → u.life.notices = n :: r → hwOffer u 4 0xD8511 n.words = (v, .refused) → exec (.lifeNoticeCommit t) s = answer (bumpLife (v.modLife fun x => { x with notices := r }) LIFE_CNT_NOTICE_LOST)) ∧
      (∀ (n : Notice) (r : List Notice) (v : State) (x : Room), lifeRuns u = true → u.life.notices = n :: r → hwOffer u 4 0xD8511 n.words = (v, x) → x ≠ .ok → x ≠ .refused → exec (.lifeNoticeCommit t) s = answer (v))) ∧
  (∀ (s : State) (t : Nat), let u := s.reach t
      (lifeRuns u = false → exec (.lifeExport t) s = answer (u)) ∧
      (lifeRuns u = true → nextExport u = none ∨ u.life.exportRefused = true → exec (.lifeExport t) s = answer (exportAllServe u)) ∧
      (∀ (j : Nat) (r : LifeRec) (v : State), lifeRuns u = true → nextExport u = some (j, r) → u.life.exportRefused = false → hwOffer u 2 0xD8510 (recPacket 0 r) = (v, .ok) → exec (.lifeExport t) s = answer (exportAllServe (setRetired v j (some { r with exported := true })))) ∧
      (∀ (j : Nat) (r : LifeRec) (v : State), lifeRuns u = true → nextExport u = some (j, r) → u.life.exportRefused = false → hwOffer u 2 0xD8510 (recPacket 0 r) = (v, .refused) → exec (.lifeExport t) s = answer (exportAllServe (v.modLife fun x => { x with exportRefused := true }))) ∧
      (∀ (j : Nat) (r : LifeRec) (v : State) (x : Room), lifeRuns u = true → nextExport u = some (j, r) → u.life.exportRefused = false → hwOffer u 2 0xD8510 (recPacket 0 r) = (v, x) → x ≠ .ok → x ≠ .refused → exec (.lifeExport t) s = answer (exportAllServe v))) ∧
  (∀ (s : State) (t : Nat), let u := s.reach t
      (lifeRuns u = false ∨ u.life.recomputeDue = false → exec (.lifeModelRecompute t) s = answer (u)) ∧
      (lifeRuns u = true → u.life.recomputeDue = true → exec (.lifeModelRecompute t) s = answer (((u.life.open_.map fun p => p.1).foldl (fun v i =>
          match openRec v i with
          | some r =>
            let m := chooseModel v r
            settleRec (if m = 16 ∧ r.model ≠ 16 then bumpLife v LIFE_CNT_DEFAULT_MODEL else v) i { r with model := m }
          | none => v) u).modLife fun x => { x with recomputeDue := false, st := if x.st = 5 then 4 else x.st }))) ∧
  (∀ (s : State) (t : Nat), let u := s.reach t
      (lifeRuns u = false → exec (.capRefresh t) s = answer (u)) ∧
      (lifeRuns u = true → exec (.capRefresh t) s = answer (u.life.capDue.foldl (fun v g => foldTo 1536 (fun v k => writeCap v (g * 1536 + k)) v) (u.modLife fun x => { x with capDue := [] })))) ∧
  (∀ (s : State) (t : Nat), let u := s.reach t
      (u.faultHold = [] → exec (.faultPacketCommit t) s = answer (u)) ∧
      (∀ (p : FaultPkt) (rest : List FaultPkt), u.faultHold = p :: rest → p.q = none → exec (.faultPacketCommit t) s = answer (let v : State := { u with faultHold := rest }
        let v := if p.snap then snapLeft v false else v
        snapServe (if p.hc0 then fireHc0 v else v))) ∧
      (∀ (p : FaultPkt) (rest : List FaultPkt) (q : Nat) (w : State) (took : Bool), u.faultHold = p :: rest → p.q = some q → hwOffer u 5 q p.words = (w, if took then .ok else .refused) → exec (.faultPacketCommit t) s = answer (let v : State := { w with faultHold := rest }
        let v := if p.snap then snapLeft v took else v
        snapServe (if p.hc0 then fireHc0 v else v))) ∧
      (∀ (p : FaultPkt) (rest : List FaultPkt) (q : Nat) (w : State) (x : Room), u.faultHold = p :: rest → p.q = some q → hwOffer u 5 q p.words = (w, x) → x ≠ .ok → x ≠ .refused → exec (.faultPacketCommit t) s = answer (w))) ∧
  (∀ (s : State) (t : Nat), let u := s.reach t
      (u.timeSet = false ∨ u.utcSec < u.stats.nextUtc → exec (.periodBoundary t) s = answer (u)) ∧
      (u.timeSet = true → u.stats.nextUtc ≤ u.utcSec → exec (.periodBoundary t) s = answer (let start := utcToUs u u.stats.nextUtc
        let v := boundary u start (decide (start < u.stats.startT + u.stats.fullMin * 60000000))
        v.modStats fun x => { x with nextUtc := nextAligned x.nextUtc (periodMin (lenCode v)) })))

/-- GPIO_EDGE keeps the level seen, and an edge that an input selects fires its producer outside Shelf. GPIO_ACTION of an output drives it high, low, or the other way, or starts a pulse of 10 us, or lengthens the pulse under way; with an input, or a reserved action, only its task ends. GPIO_PULSE_END restores the level once the pulse is over. SAMPLER_PASS makes the pass that is due, a waiting RUN_NOW before it; RUN_NOW ends a pass under way first. SAMPLER_HOLD and SAMPLER_RELEASE set and clear HOLD, and the next instant after a release is one to come. CLEAR_COUNTS zeroes the detection counters. -/
def Obligations.PinTimers : Prop :=
  (∀ (s : State) (t : Nat) (g : Nat) (level : Bool), g < 64 → let u := s.reach t
      (exec (.gpioEdge t g level) s = answer (let v : State := { u with gpioIn := tset false u.gpioIn g level }
        let old := tget false u.gpioIn g
        let edges := bits (gpioCfg v g) 3 2
        if bit (gpioCfg v g) 0 = false ∧ v.dev ≠ .shelf ∧ (old = false ∧ level = true ∧ edges.testBit 0 = true ∨ old = true ∧ level = false ∧ edges.testBit 1 = true) then v.fire1 (prodGpio g) else v)) ∧
      (u.dev = .shelf ∨ tget false u.gpioIn g = level ∨ bit (gpioCfg u g) 0 = true → exec (.gpioEdge t g level) s = answer ({ u with gpioIn := tset false u.gpioIn g level }))) ∧
  (∀ (s : State) (t : Nat) (g : Nat), g < 64 → let u := s.reach t
      (tiDue u (tiGpio g) = false → exec (.gpioAction t g) s = answer (u)) ∧
      (tiDue u (tiGpio g) = true → bit (gpioCfg u g) 0 = false → exec (.gpioAction t g) s = answer (tiEnd u (tiGpio g))) ∧
      (tiDue u (tiGpio g) = true → bit (gpioCfg u g) 0 = true → exec (.gpioAction t g) s = answer (let v := match bits (gpioCfg u g) 6 4 with
          | 1 => gpioOut u g true
          | 2 => gpioOut u g false
          | 3 => gpioOut u g (!bit (gpioCfg u g) 1)
          | 4 =>
            match tget none u.gpioPulse g with
            | some (_, b) => { u with gpioPulse := tset none u.gpioPulse g (some (u.uptime + 10000, b)) }
            | none => gpioOut { u with gpioPulse := tset none u.gpioPulse g (some (u.uptime + 10000, bit (gpioCfg u g) 1)) } g (!bit (gpioCfg u g) 1)
          | _ => u
        tiEnd v (tiGpio g)))) ∧
  (∀ (s : State) (t : Nat) (g : Nat), g < 64 → let u := s.reach t
      (∀ (e : Nat) (b : Bool), tget none u.gpioPulse g = some (e, b) → e ≤ u.uptime → exec (.gpioPulseEnd t g) s = answer (gpioOut { u with gpioPulse := tset none u.gpioPulse g none } g b)) ∧
      (∀ (e : Nat) (b : Bool), tget none u.gpioPulse g = some (e, b) → u.uptime < e → exec (.gpioPulseEnd t g) s = answer (u)) ∧
      (tget none u.gpioPulse g = none → exec (.gpioPulseEnd t g) s = answer (u))) ∧
  (∀ (s : State) (t : Nat) (volts : List Nat), let u := s.reach t
      (smpDue u = false → exec (.samplerPass t volts) s = answer (u)) ∧
      (smpDue u = true → tiDue (smpFinish u) (tiSampler 0) = true → exec (.samplerPass t volts) s = answer (smpRunNow (smpFinish u) volts)) ∧
      (smpDue u = true → tiDue (smpFinish u) (tiSampler 0) = false → exec (.samplerPass t volts) s = answer (smpPass (smpNext (smpFinish u)) true none volts))) ∧
  (∀ (s : State) (t : Nat) (volts : List Nat), let u := s.reach t
      (tiDue u (tiSampler 0) = true → exec (.runNow t volts) s = answer (smpRunNow (smpFinish u) volts)) ∧
      (tiDue u (tiSampler 0) = false → exec (.runNow t volts) s = answer (u))) ∧
  (∀ (s : State) (t : Nat), let u := s.reach t
      (tiDue u (tiSampler 1) = true → exec (.samplerHold t) s = answer (tiEnd (u.setFld .heath 0 HEATH_SMP_CFG 1 1 1) (tiSampler 1))) ∧
      (tiDue u (tiSampler 1) = false → exec (.samplerHold t) s = answer (u))) ∧
  (∀ (s : State) (t : Nat), let u := s.reach t
      (tiDue u (tiSampler 2) = true → exec (.samplerRelease t) s = answer (let v := u.setFld .heath 0 HEATH_SMP_CFG 1 1 0
        tiEnd (if (v.sampler.nextAt.any fun a => decide (a ≤ v.tbNs)) = true then smpNext v else v) (tiSampler 2))) ∧
      (tiDue u (tiSampler 2) = false → exec (.samplerRelease t) s = answer (u))) ∧
  (∀ (s : State) (t : Nat), let u := s.reach t
      (tiDue u (tiSampler 3) = true → exec (.clearCounts t) s = answer (tiEnd (foldTo 32 (fun v k => v.setReg .heath 0 (HEATH_SMP_D + 0x10 * k) 0) (smpClearSteps (smpFinish u))) (tiSampler 3))) ∧
      (tiDue u (tiSampler 3) = false → exec (.clearCounts t) s = answer (u)))

/-- SEAM_WATCHDOG of an island whose watchdog runs and whose seam is LIVE severs the seam with cause 5, holds the island in reset, raises fault 0x3B, counts both, and what the island held is lost; ISLAND_RELEASE ends that reset after 20 us; SEAM_REALIGN makes a realigning seam LIVE and ends the fault's condition. ISLAND_CLOCK_STOP makes a live island's seam STOPPED, its FIFO toward the island keeping what stands in it; ISLAND_CLOCK_RETURN lets what waited go on. SEAM_ACCESS_TIMEOUT ends each access of a requester from 256 on that has waited at a seam for the bound, with TIMEOUT and no effect. -/
def Obligations.SeamTimers : Prop :=
  (∀ (s : State) (t : Nat) (seen : SeamSeen), seen.sm < 203 → let u := s.reach t
      (u.rbit .seam 0 SEAM_CFG 10 = true ∧ 50 ≤ seen.sm ∧ seen.sm < 202 ∧ (u.seam seen.sm).st = .live → exec (.seamWatchdog t seen) s = answer (let fs := islandFifos seen.sm
        let v := u.setFifo (fifoKey seen.sm fs.1) (List.replicate (min seen.rx (fifoDepth seen.sm fs.1)) 0)
        let v := v.setFifo (fifoKey seen.sm fs.2) (List.replicate (min seen.tx (fifoDepth seen.sm fs.2)) 0)
        let v := ((severAll v 5 [seen.sm]).bumpSeam SEAM_CNT_UNEXPECTED).bumpSeam SEAM_CNT_ISLAND_RESETS
        islandLost (condPresent v 0x3B seen.sm 0) seen.sm (decide (0 < seen.rx)))) ∧
      (¬(u.rbit .seam 0 SEAM_CFG 10 = true ∧ 50 ≤ seen.sm ∧ seen.sm < 202 ∧ (u.seam seen.sm).st = .live) → exec (.seamWatchdog t seen) s = answer (u))) ∧
  (∀ (s : State) (t : Nat) (k : Nat), k < 203 → let u := s.reach t
      ((u.seam k).st = .severed ∧ (u.seam k).cause = 5 ∧ (u.seam k).since + 20000 ≤ u.uptime → exec (.islandRelease t k) s = answer (releaseSeam u k)) ∧
      (¬((u.seam k).st = .severed ∧ (u.seam k).cause = 5 ∧ (u.seam k).since + 20000 ≤ u.uptime) → exec (.islandRelease t k) s = answer (u))) ∧
  (∀ (s : State) (t : Nat) (k : Nat), k < 203 → let u := s.reach t
      ((u.seam k).st = .realigning → exec (.seamRealign t k) s = answer (condGone (u.putSeam k { st := .live, cause := 0 }) 0x3B k)) ∧
      (¬((u.seam k).st = .realigning) → exec (.seamRealign t k) s = answer (u))) ∧
  (∀ (s : State) (t : Nat) (k : Nat), k < 203 → let u := s.reach t
      ((u.seam k).st = .live ∧ 50 ≤ k → exec (.islandClockStop t k) s = answer ((if k < 194 then u.setFifo (fifoKey k .tx) (List.replicate (txStanding u (k - 50)) 0) else u).putSeam k { st := .stopped, cause := 0 })) ∧
      (¬((u.seam k).st = .live ∧ 50 ≤ k) → exec (.islandClockStop t k) s = answer (u))) ∧
  (∀ (s : State) (t : Nat) (k : Nat), k < 203 → let u := s.reach t
      ((u.seam k).st = .stopped → exec (.islandClockReturn t k) s = answer (valuesGo ((fifoDrain (fifoDrain u k .tx) k .requests).putSeam k { st := .live, cause := 0 }) k)) ∧
      (¬((u.seam k).st = .stopped) → exec (.islandClockReturn t k) s = answer (u))) ∧
  (∀ (s : State) (t : Nat) (req : Nat), let u := s.reach t
      (exec (.seamAccessTimeout t req) s = answer (let due := fun (w : SeamWait) => w.seam.isSome && decide (w.req = req) && decide (w.since + u.fld .seam 0 SEAM_CFG 9 0 * 1000000 ≤ u.uptime)
        let ended := u.seamWaits.filter due
        { u.bumpBy .seam 0 SEAM_CNT_TIMEOUT ended.length with
          seamWaits := u.seamWaits.filter fun w => !due w
          seamEnds := u.seamEnds ++ (ended.filter fun w => awaited u w.req).map fun w => ⟨w.req, cTimeout, 0⟩ })))

/-- DEBUG_EXPIRY of a token whose time has passed journals the lock and then takes the token; JOURNAL_EXPORT offers what is unexported, and its producer fires at most once in 1 ms; JOURNAL_HELD_FLUSH writes held entries in order as far as there is room, and then a gap entry for what was lost. A debug instruction while debug is locked, or out of its scope, captures LOCKED and does nothing else; in scope each acts on a core, its SRAM, or memory and control space, or pops a completion. -/
def Obligations.SecurityTimers : Prop :=
  (∀ (s : State) (t : Nat), let u := s.reach t
      (u.mantle.token = none → exec (.debugExpiry t) s = answer (u)) ∧
      (∀ (k : Token), u.mantle.token = some k → u.townSec < k.until_ → exec (.debugExpiry t) s = answer (u)) ∧
      (∀ (k : Token), u.mantle.token = some k → k.until_ ≤ u.townSec → exec (.debugExpiry t) s = answer ((journalOrLose u (mkAct u 404 0x7003 (w32 (bnat k.cores + 2 * bnat k.mem + 4 * k.role)) 0 (d64 k.until_) 0 7)).modMantle fun m => { m with token := none }))) ∧
  (∀ (s : State) (t : Nat), let u := s.reach t
      (mantleRuns u = false → exec (.journalExport t) s = answer (u)) ∧
      (mantleRuns u = true → exec (.journalExport t) s = answer (let v := exportEntries (unexported u) u
        let v := if v.mantle.exp ≠ u.mantle.exp then v.modMantle fun m => { m with exportDue := true } else v
        let v := if v.mantle.exportDue = true ∧ (v.mantle.exportFiredAt.all fun a => decide (a + 1000000 ≤ v.uptime)) = true then
            (v.modMantle fun m => { m with exportDue := false, exportFiredAt := some v.uptime }).fire1 (prodMantle 3)
          else v
        jFlush v))) ∧
  (∀ (s : State) (t : Nat), let u := s.reach t
      (mantleRuns u = false → exec (.journalHeldFlush t) s = answer (u)) ∧
      (mantleRuns u = true → exec (.journalHeldFlush t) s = answer (let v := if u.mantle.heldEntries = [] then u else jHeld u.mantle.heldEntries u
        let n := lostSince v
        if n ≠ 0 ∧ v.mantle.heldEntries = [] ∧ journalRoom v 1 = true then
          let w := jAppend v { action := 0xF000, new := d64 n, form := jForm v, req := 404, who := 3, block := 7, timeUs := v.townUs }
          w.modMantle fun m => { m with lostNoted := (w.reg .mantle 0 MANTLE_JR_CNT_LOST).toNat }
        else v))) ∧
  (∀ (s : State) (t : Nat) (op : DebugOp), let u := s.reach t
      (debugUnlocked u = false ∨ debugScope u (match op with | .readMem _ | .writeMem _ _ | .popCompletion => true | _ => false) = false → exec (.debugAccess t op) s = answer ({ u with debugOut := 2 })) ∧
      (¬(debugUnlocked u = false ∨ debugScope u (match op with | .readMem _ | .writeMem _ _ | .popCompletion => true | _ => false) = false) → exec (.debugAccess t op) s = answer (match op with
        | .halt r => capturedFree (if r < 256 then debugHalt u r else u)
        | .resume r => capturedFree (debugResume u r)
        | .readReg r g => if halted u r then captured u ((u.core r).greg g) else capturedFree u
        | .writeReg r g v => capturedFree (if halted u r then u.modCore r fun c => c.commit (.g g v) else u)
        | .readLocal r a => debugReadLocal u r a
        | .writeLocal r a v => debugWriteLocal u r a v
        | .readMem a => debugRead u a
        | .writeMem a v => debugWrite u a v
        | .popCompletion => debugPop u)))

/-- A frame on an uplink that is up is counted and passes the receive FIFO: one with a bad check sequence, or that found the FIFO full, is dropped and rewinds what its queue had begun; one that does not fit, or that nothing takes, is dropped; the others go by the rules, but to no queue where a port of the own address takes them. A PTP exchange counts only from the uplink that is the source, and PTP_HOLDOVER begins 8 s after the last or without D48. HANDOFF_RX drops, counts and logs what no peer signed, what is a duplicate and what is stale, and takes the rest; HANDOFF_OUT sends to an entry that is valid and a peer, and ends its task in any case. EXPORT_SEND sends one packet of the first queue in rotation that holds one. UPLINK_LINK_CHANGE moves the uplink between LINKING and UP. -/
def Obligations.UplinkEvents : Prop :=
  (∀ (s : State) (t : Nat) (n : Nat) (f : EthFrame), n < 4 → let u := s.reach t
      (uplUp u n = false → exec (.uplinkFrameRx t n f) s = answer (u)) ∧
      (uplUp u n = true → exec (.uplinkFrameRx t n f) s = answer (let y := fifoPour (uplBank (u.bump .upl n UPL_CNT_RX_FRAMES) n 0) (seamUpl n) .rx f.behind
        let v := y.1
        if f.fcs ≠ crc32 f.bytes ∨ y.2 = true then rxDrop (crcRewind v n f.bytes) n
        else if frameFits v n f.bytes = false then rxDrop (if ethType f.bytes = 0x8808 then v.bump .upl n UPL_CNT_MAC_CTRL else v) n
        else if isOwnPort v n f.bytes && !isPtp v n f.bytes then v
        else match ruleFor v n f.bytes with
          | some i => rxFile v n i f.bytes
          | none => if isPtp v n f.bytes then v else rxDrop v n))) ∧
  (∀ (s : State) (t : Nat) (n : Nat) (named complete : Bool) (offset : Int), n < 4 → let u := s.reach t
      ((u.upl n).st ≠ 4 ∨ tbMode u ≠ 1 ∨ tbSource u ≠ n → exec (.ptpMessageRx t n named complete offset) s = answer (u)) ∧
      (¬((u.upl n).st ≠ 4 ∨ tbMode u ≠ 1 ∨ tbSource u ≠ n) → named = false → exec (.ptpMessageRx t n named complete offset) s = answer (u.bump .heath 0 HEATH_TB_CNT_REJECTED)) ∧
      (¬((u.upl n).st ≠ 4 ∨ tbMode u ≠ 1 ∨ tbSource u ≠ n) → named = true → exec (.ptpMessageRx t n named complete offset) s = answer (if complete then ptpSample u offset else u))) ∧
  (∀ (s : State) (t : Nat), let u := s.reach t
      (tbMode u = 1 ∧ u.tb.st = 2 ∧ (u.tb.lastExchange + 8000000000 ≤ u.uptime ∨ u.domOn 48 = false) → exec (.ptpHoldover t) s = answer ((u.modTb fun x => { x with st := 3, good := 0 }).bump .heath 0 HEATH_TB_CNT_HOLDOVERS)) ∧
      (¬(tbMode u = 1 ∧ u.tb.st = 2 ∧ (u.tb.lastExchange + 8000000000 ≤ u.uptime ∨ u.domOn 48 = false)) → exec (.ptpHoldover t) s = answer (u))) ∧
  (∀ (s : State) (t : Nat) (n : Nat) (f : Datagram), n < 4 → let u := s.reach t
      (uplUp u n = false ∨ u.fld .upl n UPL_PORTS 15 0 = 0 ∨ handoffForm f.payload = false → exec (.handoffRx t n f) s = answer (u)) ∧
      (¬(uplUp u n = false ∨ u.fld .upl n UPL_PORTS 15 0 = 0 ∨ handoffForm f.payload = false) → handoffPeer u n f = none → exec (.handoffRx t n f) s = answer (handoffDrop u n UPL_CNT_HO_AUTH 4 f.payload)) ∧
      (∀ (p : Nat), ¬(uplUp u n = false ∨ u.fld .upl n UPL_PORTS 15 0 = 0 ∨ handoffForm f.payload = false) → handoffPeer u n f = some p → (u.peer n p).seen = none → exec (.handoffRx t n f) s = answer (let w := ureg u n (UPL_HO_IN + 4 * (leAt f.payload 7 1 % 64))
        if leAt f.payload 7 1 < 64 ∧ bit w 20 = true ∧ (bit w 25 = true ∨ bits w 24 21 = p) then handoffTake u n p f.payload else handoffDrop u n UPL_CNT_HO_AUTH 4 f.payload)) ∧
      (∀ (p : Nat) (e0 : BitVec 16) (q0 : BitVec 32), ¬(uplUp u n = false ∨ u.fld .upl n UPL_PORTS 15 0 = 0 ∨ handoffForm f.payload = false) → handoffPeer u n f = some p → (u.peer n p).seen = some (e0, q0) → exec (.handoffRx t n f) s = answer (let w := ureg u n (UPL_HO_IN + 4 * (leAt f.payload 7 1 % 64))
        let de := (BitVec.ofNat 16 (leAt f.payload 20 2) - e0).toNat
        let dq := (w32 (leAt f.payload 16 4) - q0).toNat
        if de = 0 ∧ ¬(1 ≤ dq ∧ dq < 2 ^ 31) then handoffDrop u n UPL_CNT_HO_DUP 2 f.payload
        else if 32768 ≤ de then handoffDrop u n UPL_CNT_HO_STALE 3 f.payload
        else if leAt f.payload 7 1 < 64 ∧ bit w 20 = true ∧ (bit w 25 = true ∨ bits w 24 21 = p) then handoffTake u n p f.payload
        else handoffDrop u n UPL_CNT_HO_AUTH 4 f.payload))) ∧
  (∀ (s : State) (t : Nat) (n k : Nat), n < 4 → let u := s.reach t
      (tiDue u (tiHandoff n k) = false → exec (.handoffOut t n k) s = answer (u)) ∧
      (tiDue u (tiHandoff n k) = true → bit (ureg u n (UPL_HO_OUT + 4 * k)) 11 = false ∨ (u.peer n (bits (ureg u n (UPL_HO_OUT + 4 * k)) 3 0)).valid = false ∨ (u.peer n (bits (ureg u n (UPL_HO_OUT + 4 * k)) 3 0)).peer = false → exec (.handoffOut t n k) s = answer (tiEnd u (tiHandoff n k))) ∧
      (tiDue u (tiHandoff n k) = true → ¬(bit (ureg u n (UPL_HO_OUT + 4 * k)) 11 = false ∨ (u.peer n (bits (ureg u n (UPL_HO_OUT + 4 * k)) 3 0)).valid = false ∨ (u.peer n (bits (ureg u n (UPL_HO_OUT + 4 * k)) 3 0)).peer = false) → exec (.handoffOut t n k) s = answer (let w := ureg u n (UPL_HO_OUT + 4 * k)
        let p := bits w 3 0
        let x := if bit w 10 then trackWords u n k else (u, [])
        let seq := (x.1.peer n p).sentSeq + 1
        let v := x.1.setPeer n p { x.1.peer n p with sentSeq := seq }
        let head := handoffHead (bits w 10 10) (u.ti (tiHandoff n k)).lastHop (bits w 9 4) Config.serial seq v.fedEpoch v.t48 x.2
        let frame := head ++ Config.hmac (v.peer n p).key head
        let v := tiEnd v (tiHandoff n k)
        if uplUp v n then handoffLog (uplBank ((uplSent v n frame).bump .upl n UPL_CNT_HO_SENT) n 2) n true 0 frame else handoffLog v n true 5 frame))) ∧
  (∀ (s : State) (t : Nat) (n j : Nat), n < 4 → let u := s.reach t
      (uplUp u n = false ∨ bit (ureg u n (UPL_EXP_A + 8 * j)) 20 = false ∨ bit (ureg u n (UPL_EXP_A + 8 * j)) 21 = false ∧ ((u.peer n (bits (ureg u n (UPL_EXP_A + 8 * j)) 25 22)).valid = false ∨ (u.peer n (bits (ureg u n (UPL_EXP_A + 8 * j)) 25 22)).collector = false) → exec (.exportSend t n j) s = answer (u)) ∧
      (¬(uplUp u n = false ∨ bit (ureg u n (UPL_EXP_A + 8 * j)) 20 = false ∨ bit (ureg u n (UPL_EXP_A + 8 * j)) 21 = false ∧ ((u.peer n (bits (ureg u n (UPL_EXP_A + 8 * j)) 25 22)).valid = false ∨ (u.peer n (bits (ureg u n (UPL_EXP_A + 8 * j)) 25 22)).collector = false)) → exec (.exportSend t n j) s = answer (let a := ureg u n (UPL_EXP_A + 8 * j)
        let b := ureg u n (UPL_EXP_B + 8 * j)
        let qOf := fun i => bits a 19 0 + i * bits b 31 16
        match ((List.range (bits b 12 0)).map fun i => (tget 0 (u.upl n).expNext j + i) % bits b 12 0).find? fun i => qAvail u (qOf i) && !qShut u (qOf i) && decide ((u.queue (qOf i)).pkts ≠ []) with
        | none => u
        | some i =>
          match hwTake u (qOf i) with
          | (v, some ws) =>
            let v := v.modUpl n fun x => { x with expNext := tset 0 x.expNext j ((i + 1) % bits b 12 0) }
            if bit a 21 then sendRaw v n ws else sendWrap v n j (qOf i) ws
          | (v, none) => v))) ∧
  (∀ (s : State) (t : Nat) (n : Nat) (up an : Bool), n < 4 → let u := s.reach t
      (up = true → (u.upl n).st = 3 → exec (.uplinkLinkChange t n up an) s = answer (setUplSt (u.modUpl n fun x => { x with speed10 := bit (ureg u n UPL_CFG) 1, an := an && bit (ureg u n UPL_CFG) 2 && !bit (ureg u n UPL_CFG) 1 }) n 4)) ∧
      (up = false → (u.upl n).st = 4 → exec (.uplinkLinkChange t n up an) s = answer (uplFlap u n 3)) ∧
      (¬(up = true ∧ (u.upl n).st = 3) → ¬(up = false ∧ (u.upl n).st = 4) → exec (.uplinkLinkChange t n up an) s = answer (u)))

/-- WRITE_STAGING, READ and SUBMIT on an uplink act only where it is up and its management port is not 0, and are then counted; those that its enables, the alignment, the size or READ_RATE refuse are denied, and the answer carries the code. A request is answered NOT_NOW where 8 of its port wait. On the I2C target, while a request is in hand, RD_ADDR, STG_DATA and the submission of SUB_LEN have no effect; otherwise RD_ADDR reads a word, DENIED where it is not aligned, STG_DATA stores bytes, and SUB_LEN submits. Reading HEATH_TB_SEC_LO latches the rest of the time. -/
def Obligations.ManagementAccess : Prop :=
  (∀ (s : State) (n off : Nat) (bs : List Byte), n < 4 → 
      (mgmtHears s n = false → exec (.writeStaging n off bs) s = answer (s)) ∧
      (mgmtHears s n = true → exec (.writeStaging n off bs) s = answer (let v := s.bump .upl n UPL_CNT_MGMT_REQ
        if v.rbit .upl n UPL_MGMT 0 = false ∨ off % 8 ≠ 0 ∨ bs.length % 8 ≠ 0 ∨ 1400 < bs.length ∨ 0x400000 < off + bs.length then respond (v.bump .upl n UPL_CNT_MGMT_DENIED) n [b8 cDenied]
        else if mantleRuns v = false then respond v n [b8 cAbsent]
        else respond (v.modMantle fun m => { m with staging := memWrite m.staging off bs }) n [b8 cDone]))) ∧
  (∀ (s : State) (t : Nat) (n addr count : Nat), n < 4 → let u := s.reach t
      (mgmtHears u n = false → exec (.read t n addr count) s = answer (u)) ∧
      (mgmtHears u n = true → exec (.read t n addr count) s = answer (let v := u.bump .upl n UPL_CNT_MGMT_REQ
        let sec := v.uptime / 1000000000
        let used := if (v.upl n).readSec = sec then (v.upl n).readCount else 0
        if v.rbit .upl n UPL_MGMT 1 = false ∨ v.fld .upl n UPL_MGMT 15 8 ≤ used ∨ count = 0 ∨ 64 < count ∨ addr % 4 ≠ 0 then respond (v.bump .upl n UPL_CNT_MGMT_DENIED) n [b8 cDenied]
        else
          let x := openReads count (v.modUpl n fun y => { y with readSec := sec, readCount := used + 1 }) addr
          let code := if x.2.any fun e => decide (e.1 = cDenied) then cDenied else if x.2.any fun e => decide (e.1 = cAbsent) then cAbsent else cDone
          respond x.1 n (b8 code :: x.2.flatMap fun e => leBytes 4 e.2.toNat)))) ∧
  (∀ (s : State) (t : Nat) (port off len : Nat), let u := s.reach t
      (port = 410 → exec (.submit t port off len) s = answer (takeRequest u 410 off len)) ∧
      (port < 4 → mgmtHears u port = true → exec (.submit t port off len) s = answer (takeRequest (u.bump .upl port UPL_CNT_MGMT_REQ) (400 + port) off len)) ∧
      (port < 4 → mgmtHears u port = false → exec (.submit t port off len) s = answer (u)) ∧
      (4 ≤ port → port ≠ 410 → exec (.submit t port off len) s = answer (u))) ∧
  (∀ (s : State) (addr : Word), 
      (i2cBusy s = true → exec (.rdAddrWrite addr) s = answer (s)) ∧
      (i2cBusy s = false → addr.toNat % 4 ≠ 0 → exec (.rdAddrWrite addr) s = answer (filePut (filePut s 0x04 (leBytes 4 addr.toNat)) 0x08 (leBytes 4 0 ++ [b8 cDenied]))) ∧
      (i2cBusy s = false → addr.toNat % 4 = 0 → exec (.rdAddrWrite addr) s = answer (let x := openRead (filePut s 0x04 (leBytes 4 addr.toNat)) addr.toNat
        filePut x.1 0x08 (leBytes 4 x.2.2.toNat ++ [b8 x.2.1])))) ∧
  (∀ (s : State) (off : Option (BitVec 24)) (bs : List Byte), 
      (exec (.stgDataWrite off bs) s = answer (let v := match off with | some o => filePut s 0x10 (leBytes 3 (o.toNat / 8 * 8)) | none => s
        if i2cBusy v then v else stgBytes bs v))) ∧
  (∀ (s : State) (t : Nat) (off : BitVec 24) (len : Word), let u := s.reach t
      (exec (.subLenWrite t off len) s = answer (let v := filePut u 0x18 (leBytes 3 off.toNat)
        if i2cBusy v then v
        else
          let v := filePut v 0x1C (leBytes 4 len.toNat)
          takeRequest { v with i2c := { v.i2c with resultValid := false } } 410 off.toNat len.toNat))) ∧
  (∀ (s : State) (t : Nat) (req : Nat), let u := s.reach t
      (∀ (d : RegDesc), named (regAddr .heath 0 HEATH_TB_SEC_LO) = some (.heath, 0, d, 0) → d.off = HEATH_TB_SEC_LO → gate u .heath 0 (d.off + d.stride * 0) (regAddr .heath 0 HEATH_TB_SEC_LO) = .open_ → exec (.tbSecLoRead t req) s = answer (tbLatch u)))

/-- A power-on reset leaves the state of reset but for what is kept without power: the life records, those of a supply loss torn as given, Mantle's store, the inputs, the cause; it never acts on the queue. RESET_N and a due DEVICE_RESET whose completions have left make a device reset, and during one only the cause is noted; RESET_RELEASE ends reset and starts D49. ROM verification counts unusable maker keys, raises counter 96 and chooses a slot; the stages of boot act only in their step, and stage 2 whose pattern failed goes to the fall-back, which tries the next slot, or resets leaving out those tried. An alarm whose time has come fires, is set again by its period or ends, and may wake; PPS fires once a town second. -/
def Obligations.BootEvents : Prop :=
  (∀ (s : State) (t : Nat) (loss : PowerLoss), let u := s.reach t
      (exec (.powerOnReset t loss) s = answer ({ pending := u.pending, uptime := u.uptime, free := u.free, gpioIn := u.gpioIn, fedEpoch := u.fedEpoch, life := if loss.supply then loss.torn.foldl tornRec (storeLife u.life) else storeLife u.life, mantle := storeMantle u.mantle, boot := { cause := causeWith u (bnat loss.supply), installEn := u.boot.installEn } }))) ∧
  (∀ (s : State) (t : Nat), let u := s.reach t
      (u.boot.inReset = true → exec (.resetN t) s = answer (u.modBoot fun b => { b with cause := causeWith u 2 })) ∧
      (u.boot.inReset = false → exec (.resetN t) s = answer (let up := (List.range 50).filter fun d => decide ((u.dom d).st ≠ .off)
        let v := up.foldl (fun v d => bankDown v d false) (leaveShelf (resetLocks u))
        let v := up.foldl (fun v d => (domTis d).foldl tiLost v) v
        let v := up.foldl (fun v d => condGone v 0x34 d) v
        let v := (List.range 32).foldl (fun v m => condGone v 0x38 m) v
        afterReset (((v.wake.map fun w => w.inputs).getD []).foldl (fun v j => tiEnd v (tiWake j)) v) 2 []))) ∧
  (∀ (s : State) (t : Nat), let u := s.reach t
      (∀ (a : Nat), u.boot.resetAt = some a → a ≤ u.uptime ∧ (u.heldComps.all fun h => decide (h.blk ≠ .pad)) = true → exec (.deviceResetTimer t) s = answer (Machine.deviceReset (u.modBoot fun b => { b with resetAt := none }) 3 [])) ∧
      (∀ (a : Nat), u.boot.resetAt = some a → ¬(a ≤ u.uptime ∧ (u.heldComps.all fun h => decide (h.blk ≠ .pad)) = true) → exec (.deviceResetTimer t) s = answer (u)) ∧
      (u.boot.resetAt = none → exec (.deviceResetTimer t) s = answer (u))) ∧
  (∀ (s : State) (t : Nat) (bootsel : BitVec 2) (maddr : BitVec 3) (install : Bool), let u := s.reach t
      (u.boot.inReset = true → exec (.resetRelease t bootsel maddr install) s = answer (beginDom (u.modBoot fun b => { b with inReset := false, step := 2, bootsel := bootsel, maddr := if coldBoot u then maddr else b.maddr, installEn := install, pwrEn := true, releasedAt := u.uptime }) 49)) ∧
      (u.boot.inReset = false → exec (.resetRelease t bootsel maddr install) s = answer (u))) ∧
  (∀ (s : State) (t : Nat), let u := s.reach t
      (mantleRuns u = true ∧ u.boot.step = 2 → exec (.mantleRomVerify t) s = answer (let v := foldTo 4 (fun v i => if otpOk v i then v else v.bump .mantle 0 MANTLE_SEC_CNT_MAKER_KEY_BAD) u
        chooseSlot (raiseRb v 96 (rootFloor v)))) ∧
      (¬(mantleRuns u = true ∧ u.boot.step = 2) → exec (.mantleRomVerify t) s = answer (u))) ∧
  (∀ (s : State) (t : Nat), let u := s.reach t
      (¬(mantleRuns u = true ∧ u.boot.step = 4) → exec (.bootStage1 t) s = answer (u)) ∧
      (∀ (f : Nat × Nat), mantleRuns u = true ∧ u.boot.step = 4 → (let ps := (sheets (slotFile u u.boot.slot)).map Sheet.panel
        let mine := u.mantle.kept.filter fun c => decide (c.slot = u.boot.slot)
        slotBad (u.modBoot fun b => { b with stage := 2 }) (slotFile u u.boot.slot) (settleKept (mine.length + 1) u ps mine).1 stage1Types) = some f → exec (.bootStage1 t) s = answer (let ps := (sheets (slotFile u u.boot.slot)).map Sheet.panel
        let mine := u.mantle.kept.filter fun c => decide (c.slot = u.boot.slot)
        let x := settleKept (mine.length + 1) u ps mine
        let v := countSheets (u.modBoot fun b => { b with stage := 2 }) ((sheets (slotFile u u.boot.slot)).filter fun h => decide (h.type ∈ stage1Types) && stands x.1 h.panel)
        (slotFailed v u.boot.slot f.2).modBoot fun b => { b with step := 5 })) ∧
      (mantleRuns u = true ∧ u.boot.step = 4 → (let ps := (sheets (slotFile u u.boot.slot)).map Sheet.panel
        let mine := u.mantle.kept.filter fun c => decide (c.slot = u.boot.slot)
        slotBad (u.modBoot fun b => { b with stage := 2 }) (slotFile u u.boot.slot) (settleKept (mine.length + 1) u ps mine).1 stage1Types) = none → exec (.bootStage1 t) s = answer (let bs := slotFile u u.boot.slot
        let ps := (sheets bs).map Sheet.panel
        let mine := u.mantle.kept.filter fun c => decide (c.slot = u.boot.slot)
        let x := settleKept (mine.length + 1) u ps mine
        let v := u.modBoot fun b => { b with stage := 2 }
        let check := ((slotBad v bs x.1 stage2Types).map fun f => f.2).getD 0
        let v := countSheets v ((sheets bs).filter fun h => decide (h.type ∈ stage1Types) && stands x.1 h.panel)
        let v := v.modBoot fun b => { b with plan := ofTypes x.1 stage2Types, planCheck := check, keptUsed := x.2.length, keptDropped := mine.length - x.2.length }
        let v := foldTo 4 (fun v j => v.setReg .mantle 0 (MANTLE_PL_BOOT_ID + 4 * j) (w32 (leAt (patId bs) (4 * j) 4))) v
        let qs := panelsOf (ofTypes x.1 stage1Types)
        let v := raiseCounters ((inOrder stage1Types qs).foldl bootPanel (putEntries v (ofTypes x.1 stage1Types))) qs
        let v := unfittedOff (((qs.find? fun p => decide (p.type = 6)).map fun p => p.role).getD 3) v
        let v := startSet v ((List.range 4).map (44 + ·) ++ (List.range 12).map (32 + ·))
        v.modBoot fun b => { b with step := 7, stage := 3, stage1Ms := sinceRelease v, faultHold := (List.range 50).any fun d => decide ((v.dom d).st = .faulted) }))) ∧
  (∀ (s : State) (t : Nat), let u := s.reach t
      (¬(mantleRuns u = true ∧ u.boot.step = 7) → exec (.bootStage2 t) s = answer (u)) ∧
      (mantleRuns u = true ∧ u.boot.step = 7 → u.boot.planCheck ≠ 0 → exec (.bootStage2 t) s = answer ((slotFailed u u.boot.slot u.boot.planCheck).modBoot fun b => { b with step := 9 })) ∧
      (mantleRuns u = true ∧ u.boot.step = 7 → u.boot.planCheck = 0 → exec (.bootStage2 t) s = answer (let xs := u.boot.plan.filter fun x => (u.inForce x.1).isNone
        let bs := slotFile u u.boot.slot
        let v := countSheets u ((sheets bs).filter fun h => decide (h.type ∈ stage2Types ∧ h.panel ∈ panelsOf xs))
        let v := raiseCounters ((inOrder stage2Types (panelsOf xs)).foldl bootPanel (putEntries v xs)) (panelsOf xs)
        let v := journalOrLose v (mkAct v 405 0x5002 (w32 (patCount bs)) (d64 (leAt (patId bs) 0 8)) (d64 (leAt (patId bs) 8 8)) 0 7)
        let v := startSet v (48 :: List.range 32)
        sequencer (v.modBoot fun b => { b with step := 8, stage := 4, doneMs := sinceRelease v, plan := [] })))) ∧
  (∀ (s : State) (t : Nat), let u := s.reach t
      (mantleRuns u = true ∧ u.boot.step = 5 → exec (.bootFallback t) s = answer (chooseSlot u)) ∧
      (u.boot.step = 9 → exec (.bootFallback t) s = answer (Machine.deviceReset u 4 (u.boot.skip ++ u.boot.tried))) ∧
      (¬(mantleRuns u = true ∧ u.boot.step = 5) → u.boot.step ≠ 9 → exec (.bootFallback t) s = answer (u))) ∧
  (∀ (s : State) (t : Nat) (k : Nat), k < 8 → let u := s.reach t
      (tget none u.tb.alarms k = none → exec (.alarm t k) s = answer (u)) ∧
      (∀ (a : Nat), tget none u.tb.alarms k = some a → u.townNs < a → exec (.alarm t k) s = answer (u)) ∧
      (∀ (a : Nat), tget none u.tb.alarms k = some a → a ≤ u.townNs → u.fld .heath 0 (HEATH_TB_ALARM_C + 0x10 * k) 23 0 * 1000000 = 0 → exec (.alarm t k) s = answer (alarmWake (((u.setFld .heath 0 (HEATH_TB_ALARM_B + 0x10 * k) 30 30 0).modTb fun x => { x with alarms := tset none x.alarms k none }).fire1 (prodAlarm k)) k)) ∧
      (∀ (a p : Nat), tget none u.tb.alarms k = some a → a ≤ u.townNs → u.fld .heath 0 (HEATH_TB_ALARM_C + 0x10 * k) 23 0 * 1000000 = p → p ≠ 0 → exec (.alarm t k) s = answer (let next := a + ((u.townNs - a) / p + 1) * p
        let v := (u.setReg .heath 0 (HEATH_TB_ALARM_A + 0x10 * k) (w32 (next / 1000000000))).setFld .heath 0 (HEATH_TB_ALARM_B + 0x10 * k) 29 0 (next % 1000000000)
        alarmWake ((v.modTb fun x => { x with alarms := tset none x.alarms k (some next) }).fire1 (prodAlarm k)) k))) ∧
  (∀ (s : State) (t : Nat), let u := s.reach t
      (u.townSec ≠ u.tb.ppsAt → exec (.pps t) s = answer ((u.modTb fun x => { x with ppsAt := u.townSec }).fire1 prodPps)) ∧
      (u.townSec = u.tb.ppsAt → exec (.pps t) s = answer (u)))

/-- For every command c, state s and queue rest, a step of s with c in front of rest is exec of c on s with the queue rest. -/
def Obligations.StepRunsFront : Prop :=
  ∀ (c : Instr) (rest : List Instr) (s : State), step { s with pending := c :: rest } = exec c { s with pending := rest }

/-- A step on an empty queue answers the same state; this is the model's choice, log entry 1. -/
def Obligations.StepIdle : Prop :=
  ∀ s : State, s.pending = [] → step s = .next s

/-- From every state whose tables are canonical, whatever command stands in front and whatever its operands, a step answers a next state, in which the queue has lost its front command and nothing else; no command faults or is refused. -/
def Obligations.StepsAnswer : Prop :=
  ∀ s : State, Canonical s → ∃ t, step s = .next t ∧ t.pending = s.pending.tail

/-- From every state in which all tables are canonical (keys strictly rising, no entry equal to what its key holds unlisted: registers, memories of cores, meadows and channels, staging memory, flash, queues, contexts, lanes, task inputs, cores, meadows, domains, pads, seams, uplinks), a step of any command leads to a state in which they are. -/
def Obligations.CanonicalKept : Prop :=
  ∀ s t : State, Canonical s → step s = .next t → Canonical t

/-- All tables of the state after reset are canonical. -/
def Obligations.CanonicalAtReset : Prop :=
  Canonical State.reset

/-- After reset no command waits and none is held, every register has its reset value, every core, meadow and switched domain is off, every lane and task input is at rest, every queue is empty and there is no queue map, the device is in reset, its time is unset, and debug is open, as no installer key is active. -/
def Obligations.ResetState : Prop :=
  (∀ (b : Blk) (i off : Nat), State.reset.reg b i off = resetWord (regAddr b i off)) ∧
  State.reset.pending = [] ∧ State.reset.heldComps = [] ∧ State.reset.heldOrders = [] ∧ State.reset.orders = [] ∧
  (∀ r, (State.reset.core r).st = .down) ∧ (∀ m, (State.reset.meadow m).st = .off) ∧ (∀ d, (State.reset.dom d).st = .off) ∧
  (∀ l, (State.reset.lane l).st = .off ∧ (State.reset.lane l).nodes = []) ∧ (∀ n, (State.reset.ti n).phase = .idle ∧ (State.reset.ti n).latch = none) ∧
  (∀ q, (State.reset.queue q).pkts = []) ∧ State.reset.qmapped = false ∧ State.reset.hmapped = false ∧
  State.reset.boot.inReset = true ∧ State.reset.timeSet = false ∧ State.reset.claimed = false ∧ debugUnlocked State.reset = true
end

