-- ==== Sys2Proof/Laws/Table.lean ====
section
/-! SUPPORT. The laws of sparse tables: what a read after a write gives, that every table operation keeps the canonical form,
and that two canonical tables that read alike are equal. -/

namespace Sys2Proof.Laws

open Sys2Proof.Machine

variable {α : Type}

theorem tfind_none_of_lt (m : Table α) (k : Nat) (h : ∀ p ∈ m, k < p.1) : tfind m k = none := by
  cases m with
  | nil => rfl
  | cons p m =>
    obtain ⟨j, v⟩ := p
    have hj : k < j := h (j, v) (by simp)
    simp [tfind, hj, Nat.ne_of_lt hj]

/-- Keys rise strictly. -/
def Rising (m : Table α) : Prop := m.Pairwise fun p q => p.1 < q.1

theorem twfFrom_iff [DecidableEq α] (d : Nat → α) (lo : Option Nat) (m : Table α) :
    twfFrom d lo m = true ↔ (∀ i ∈ lo, ∀ p ∈ m, i < p.1) ∧ Rising m ∧ ∀ p ∈ m, p.2 ≠ d p.1 := by
  induction m generalizing lo with
  | nil => simp [twfFrom, Rising]
  | cons p m ih =>
    obtain ⟨j, w⟩ := p
    simp only [twfFrom, Bool.and_eq_true, decide_eq_true_eq, ih, Rising, List.pairwise_cons, List.mem_cons,
      forall_eq_or_imp, Option.mem_def, Option.some.injEq, forall_eq', Option.all_eq_true_iff_get]
    cases lo with
    | none => simp; grind
    | some i => simp; grind

/-- The canonical form: keys rise strictly and no entry equals what its key reads unlisted. -/
theorem twf_iff [DecidableEq α] (d : Nat → α) (m : Table α) :
    twf d m = true ↔ Rising m ∧ ∀ p ∈ m, p.2 ≠ d p.1 := by
  simp [twf, twfFrom_iff]

theorem mem_tput (k : Nat) (o : Option α) (m : Table α) (p : Nat × α) (h : p ∈ tput k o m) :
    (o = some p.2 ∧ p.1 = k) ∨ p ∈ m := by
  induction m with
  | nil => cases o <;> simp_all [tput]
  | cons q m ih =>
    obtain ⟨j, w⟩ := q
    unfold tput at h
    split at h
    · cases o <;> simp_all; grind
    · split at h
      · cases o <;> simp_all; grind
      · simp at h; grind

theorem rising_tput (k : Nat) (o : Option α) (m : Table α) (h : Rising m) : Rising (tput k o m) := by
  induction m with
  | nil => cases o <;> simp [tput, Rising]
  | cons q m ih =>
    obtain ⟨j, w⟩ := q
    simp only [Rising, List.pairwise_cons] at h
    unfold tput
    split
    · cases o with
      | none => simpa [Rising] using h
      | some v => simp only [Option.map_some, Option.toList_some, List.cons_append, List.nil_append, Rising,
          List.pairwise_cons, List.mem_cons]; grind
    · split
      · cases o with
        | none => simpa [Rising] using h.2
        | some v => simp only [Option.map_some, Option.toList_some, List.cons_append, List.nil_append, Rising,
            List.pairwise_cons]; grind
      · simp only [Rising, List.pairwise_cons]
        refine ⟨fun p hp => ?_, ih h.2⟩
        rcases mem_tput k o m p hp with ⟨_, e⟩ | hm
        · simp only [e]; omega
        · exact h.1 p hm

/-- A write keeps the canonical form: the value an unlisted key reads as removes the entry. -/
theorem twf_tset [DecidableEq α] (d : Nat → α) (m : Table α) (k : Nat) (v : α) (h : twf d m = true) :
    twf d (tset (d k) m k v) = true := by
  rw [twf_iff] at h ⊢
  refine ⟨rising_tput _ _ _ h.1, fun p hp => ?_⟩
  rcases mem_tput _ _ _ _ hp with ⟨e, ek⟩ | hm
  · split at e
    · cases e
    · cases e; rw [ek]; assumption
  · exact h.2 p hm

/-- Entries taken out leave the canonical form. -/
theorem twf_filter [DecidableEq α] (d : Nat → α) (m : Table α) (f : Nat × α → Bool) (h : twf d m = true) :
    twf d (m.filter f) = true := by
  rw [twf_iff] at h ⊢
  exact ⟨h.1.filter _, fun p hp => h.2 p (List.mem_of_mem_filter hp)⟩

/-- A change of every entry alike keeps the canonical form. -/
theorem twf_tmap [DecidableEq α] (d : α) (f : α → α) (m : Table α) (h : twf (fun _ => d) m = true) :
    twf (fun _ => d) (tmap d f m) = true := by
  rw [twf_iff] at h ⊢
  refine ⟨?_, fun p hp => ?_⟩
  · simp only [Rising, tmap, List.pairwise_filterMap]
    refine h.1.imp fun {a b} hab => ?_
    intro x hx y hy
    split at hx <;> split at hy <;> simp_all
    subst hx hy
    exact hab
  · simp only [tmap, List.mem_filterMap] at hp
    obtain ⟨a, _, e⟩ := hp
    split at e
    · cases e
    · cases e; assumption

theorem tfind_tput (k : Nat) (o : Option α) (m : Table α) (i : Nat) (h : Rising m) :
    tfind (tput k o m) i = if i = k then o else tfind m i := by
  induction m with
  | nil =>
    cases o with
    | none => simp [tput, tfind]
    | some v => by_cases e : i = k <;> simp [tput, tfind, e]
  | cons q m ih =>
    obtain ⟨j, w⟩ := q
    simp only [Rising, List.pairwise_cons] at h
    have ih := ih h.2
    unfold tput
    split
    · cases o with
      | none =>
        by_cases e : i = k
        · simp [tfind, e]; grind
        · simp [e]
      | some v => simp [tfind]; grind
    · split
      · rename_i _ e
        cases o with
        | none =>
          subst e
          simp only [Option.map_none, Option.toList_none, List.nil_append, tfind]
          by_cases e : i = k
          · rw [if_pos e, e, tfind_none_of_lt _ _ fun p hp => h.1 p hp]
          · by_cases e' : i < k
            · rw [if_neg e, if_neg e, if_pos e', tfind_none_of_lt _ _ fun p hp => Nat.lt_trans e' (h.1 p hp)]
            · simp [e, e']
        | some v => subst e; simp [tfind]; grind
      · simp only [tfind, ih]; grind

/-- What a key holds after a write: the value written at the key written, what it held elsewhere. -/
theorem tget_tset [DecidableEq α] (d : α) (m : Table α) (k i : Nat) (v : α) (h : Rising m) :
    tget d (tset d m k v) i = if i = k then v else tget d m i := by
  simp only [tget, tset, tfind_tput _ _ _ _ h]
  by_cases e : i = k
  · by_cases ev : v = d <;> simp [e, ev]
  · simp [e]

/-- Of two writes of one key the second stands. -/
theorem tput_idem (k : Nat) (o p : Option α) (m : Table α) (h : Rising m) : tput k o (tput k p m) = tput k o m := by
  induction m with
  | nil => cases o <;> cases p <;> simp [tput]
  | cons q m ih =>
    obtain ⟨j, w⟩ := q
    simp only [Rising, List.pairwise_cons] at h
    have ih := ih h.2
    rcases Nat.lt_trichotomy k j with l | e | l
    · cases o <;> cases p <;> simp [tput, l]
    · subst e
      have hm : ∀ x : Option α, tput k x m = (x.map fun v => (k, v)).toList ++ m := by
        intro x
        cases m with
        | nil => simp [tput]
        | cons q m => obtain ⟨j', w'⟩ := q; have := h.1 (j', w') (by simp); simp only at this; simp [tput, this]
      cases o <;> cases p <;> simp [tput, hm]
    · have n1 : ¬ k < j := by omega
      have n2 : ¬ k = j := by omega
      simp [tput, n1, n2, ih]

end Sys2Proof.Laws
end

