-- ==== Sys2Proof/Laws/Keeps.lean ====
section
/-! SUPPORT. The relation that every part of a command keeps: the queue is left as it is, and every table stays canonical. -/

namespace Sys2Proof.Laws

open Sys2Proof.Machine

/-- What is left of the queue satisfies `P`, and the state is canonical. -/
structure K (P : List Instr → Prop) (s : State) : Prop where
  pend : P s.pending
  canon : Canonical s

/-- An answer that is a next state, which is as `K` says. -/
structure AK (P : List Instr → Prop) (a : Host.Outcome State Fault Refusal) : Prop where
  next : ∃ t, a = .next t ∧ K P t

variable {P : List Instr → Prop} {s : State}

/-- A change of fields that hold no table keeps the relation. -/
theorem k_mk (h : K P s) (a_uptime : Nat) (a_tb : Timebase) (a_qranges : List QRange) (a_qmapped : Bool)
    (a_qapplying : Bool) (a_hmapped : Bool) (a_happlying : Bool) (a_hc2At : Option Nat) (a_hc2Due : Bool)
    (a_shelfTotal : Nat) (a_shelfFrom : Option Nat) (a_life : Life) (a_faultHold : List FaultPkt)
    (a_faultWait : List (Nat × Nat × Dword)) (a_conds : List (Nat × Nat)) (a_faultDue : List (Nat × Nat × Dword))
    (a_going : List (Nat × Nat)) (a_freeing : List Nat) (a_snaps : List Snap) (a_stats : Stats) (a_dev : DevSt)
    (a_descent : Nat) (a_restAtDescent : List Nat) (a_wake : Option Wake) (a_xref : Xref) (a_sampler : Sampler)
    (a_seamWaits : List SeamWait) (a_seamEnds : List SeamEnd) (a_orders : List OrderRef) (a_orderQ : List OrderRef)
    (a_heldOrders : List OrderRef) (a_heldComps : List HeldCompletion) (a_hwHeld : List (Nat × Nat × Nat))
    (a_fedEpoch : BitVec 16) (a_i2c : I2c) (a_boot : Boot) (a_request : Option ReqRun) (a_requests : List ReqWaiting)
    (a_signedRole : Nat) (a_signedSlot : Nat) (a_debugOut : BitVec 34) (a_debugWord : Dword) (a_free : Nat) :
    K P (State.mk s.pending a_uptime s.regs s.staging s.priv a_tb s.queues a_qranges a_qmapped a_qapplying s.prods
      s.conss s.chans s.starved s.lanes s.tis s.delays a_hmapped a_happlying a_hc2At a_hc2Due a_shelfTotal a_shelfFrom
      a_life s.faults a_faultHold a_faultWait a_conds a_faultDue a_going a_freeing a_snaps a_stats s.cores s.meadows
      s.doms a_dev a_descent a_restAtDescent a_wake a_xref s.padHeld s.gpioIn s.gpioPulse a_sampler s.seams s.pulses
      s.crossings s.fifos a_seamWaits a_seamEnds a_orders a_orderQ a_heldOrders a_heldComps a_hwHeld s.mantle s.upls
      a_fedEpoch a_i2c a_boot a_request a_requests a_signedRole a_signedSlot a_debugOut a_debugWord a_free) :=
  ⟨h.pend, { h.canon with }⟩

theorem k_mk_iff (a_uptime : Nat) (a_tb : Timebase) (a_qranges : List QRange) (a_qmapped : Bool) (a_qapplying : Bool)
    (a_hmapped : Bool) (a_happlying : Bool) (a_hc2At : Option Nat) (a_hc2Due : Bool) (a_shelfTotal : Nat)
    (a_shelfFrom : Option Nat) (a_life : Life) (a_faultHold : List FaultPkt) (a_faultWait : List (Nat × Nat × Dword))
    (a_conds : List (Nat × Nat)) (a_faultDue : List (Nat × Nat × Dword)) (a_going : List (Nat × Nat))
    (a_freeing : List Nat) (a_snaps : List Snap) (a_stats : Stats) (a_dev : DevSt) (a_descent : Nat)
    (a_restAtDescent : List Nat) (a_wake : Option Wake) (a_xref : Xref) (a_sampler : Sampler)
    (a_seamWaits : List SeamWait) (a_seamEnds : List SeamEnd) (a_orders : List OrderRef) (a_orderQ : List OrderRef)
    (a_heldOrders : List OrderRef) (a_heldComps : List HeldCompletion) (a_hwHeld : List (Nat × Nat × Nat))
    (a_fedEpoch : BitVec 16) (a_i2c : I2c) (a_boot : Boot) (a_request : Option ReqRun) (a_requests : List ReqWaiting)
    (a_signedRole : Nat) (a_signedSlot : Nat) (a_debugOut : BitVec 34) (a_debugWord : Dword) (a_free : Nat) :
    K P (State.mk s.pending a_uptime s.regs s.staging s.priv a_tb s.queues a_qranges a_qmapped a_qapplying s.prods
      s.conss s.chans s.starved s.lanes s.tis s.delays a_hmapped a_happlying a_hc2At a_hc2Due a_shelfTotal a_shelfFrom
      a_life s.faults a_faultHold a_faultWait a_conds a_faultDue a_going a_freeing a_snaps a_stats s.cores s.meadows
      s.doms a_dev a_descent a_restAtDescent a_wake a_xref s.padHeld s.gpioIn s.gpioPulse a_sampler s.seams s.pulses
      s.crossings s.fifos a_seamWaits a_seamEnds a_orders a_orderQ a_heldOrders a_heldComps a_hwHeld s.mantle s.upls
      a_fedEpoch a_i2c a_boot a_request a_requests a_signedRole a_signedSlot a_debugOut a_debugWord a_free) ↔ K P s :=
  ⟨fun h => ⟨h.pend, { h.canon with }⟩, fun h => k_mk h ..⟩

theorem k_ite {c : Prop} [Decidable c] {a b : State} (ha : K P a) (hb : K P b) : K P (if c then a else b) := by
  split <;> assumption

theorem k_ite1 {α : Type} {c : Prop} [Decidable c] {a b : State × α} (ha : K P a.1) (hb : K P b.1) :
    K P (if c then a else b).1 := by
  split <;> assumption

theorem k_ites {c : Prop} [Decidable c] {a b : OrderRes} (ha : K P a.s) (hb : K P b.s) : K P (if c then a else b).s := by
  split <;> assumption

theorem k_itee {c : Prop} [Decidable c] {a b : Eff} (ha : K P a.s) (hb : K P b.s) : K P (if c then a else b).s := by
  split <;> assumption

theorem k_foldl {α : Type} {f : State → α → State} {l : List α} (hs : K P s) (hf : ∀ s a, K P s → K P (f s a)) :
    K P (l.foldl f s) := by
  induction l generalizing s with
  | nil => exact hs
  | cons a l ih => exact ih (hf s a hs)

theorem k_foldl1 {α β : Type} {f : State × β → α → State × β} {l : List α} {x : State × β} (hx : K P x.1)
    (hf : ∀ x a, K P x.1 → K P (f x a).1) : K P (l.foldl f x).1 := by
  induction l generalizing x with
  | nil => exact hx
  | cons a l ih => exact ih (hf x a hx)

theorem k_foldTo {f : State → Nat → State} {n : Nat} (hs : K P s) (hf : ∀ s a, K P s → K P (f s a)) :
    K P (foldTo n f s) := k_foldl hs hf

theorem k_foldTo1 {β : Type} {f : State × β → Nat → State × β} {n : Nat} {x : State × β} (hx : K P x.1)
    (hf : ∀ x a, K P x.1 → K P (f x a).1) : K P (foldTo n f x).1 := k_foldl1 hx hf

/-- `K` without what it says of the queue. -/
abbrev T : List Instr → Prop := fun _ => True

theorem k_true (h : K P s) : K T s := ⟨trivial, h.canon⟩

theorem wf_nil : Memory.wf [] = true := rfl

theorem wf_set {m : Table Byte} (k : Nat) (v : Byte) (h : Memory.wf m = true) : Memory.wf (tset 0 m k v) = true :=
  twf_tset (fun _ => 0) m k v h

theorem all_tput {α : Type} {Q : α → Prop} {m : Table α} {k : Nat} {o : Option α} (hm : ∀ p ∈ m, Q p.2)
    (ho : ∀ v, o = some v → Q v) : ∀ p ∈ tput k o m, Q p.2 := by
  intro p hp
  rcases mem_tput _ _ _ _ hp with ⟨e, _⟩ | h
  · exact ho _ e
  · exact hm _ h

theorem all_tset {α : Type} [DecidableEq α] {Q : α → Prop} {m : Table α} {d : α} {k : Nat} {v : α} (hm : ∀ p ∈ m, Q p.2)
    (hv : Q v) : ∀ p ∈ tset d m k v, Q p.2 := by
  refine all_tput hm fun w e => ?_
  split at e
  · cases e
  · cases e; exact hv

theorem all_tget {α : Type} {Q : α → Prop} {m : Table α} {d : α} {k : Nat} (hm : ∀ p ∈ m, Q p.2) (hd : Q d) :
    Q (tget d m k) := by
  have : ∀ v, tfind m k = some v → Q v := by
    induction m with
    | nil => simp [tfind]
    | cons p m ih =>
      obtain ⟨j, w⟩ := p
      intro v h
      unfold tfind at h
      split at h
      · cases h; exact hm (j, _) (by simp)
      · split at h
        · cases h
        · exact ih (fun p hp => hm p (by simp [hp])) v h
  unfold tget
  cases e : tfind m k with
  | none => exact hd
  | some v => exact this v e

theorem k_setRegAt (h : K P s) (a : Nat) (v : Word) : K P (s.setRegAt a v) :=
  ⟨h.pend, { h.canon with regs := twf_tset resetWord _ _ _ h.canon.regs }⟩

theorem k_setPriv (h : K P s) (r o : Nat) (v : Word) : K P (s.setPriv r o v) :=
  ⟨h.pend, { h.canon with priv := twf_tset (fun _ => 0) _ _ _ h.canon.priv }⟩

theorem k_setLane (h : K P s) (l : Nat) (x : Lane) : K P (s.setLane l x) :=
  ⟨h.pend, { h.canon with lanes := twf_tset (fun _ => ({} : Lane)) _ _ _ h.canon.lanes }⟩

theorem k_setQueue (h : K P s) (q : Nat) (x : Queue) : K P (s.setQueue q x) :=
  ⟨h.pend, { h.canon with queues := twf_tset (fun _ => ({} : Queue)) _ _ _ h.canon.queues }⟩

theorem k_setTi (h : K P s) (k : Nat) (x : TaskIn) : K P (s.setTi k x) :=
  ⟨h.pend, { h.canon with tis := twf_tset (fun _ => ({} : TaskIn)) _ _ _ h.canon.tis }⟩

theorem k_setDom (h : K P s) (k : Nat) (x : Domain) : K P (s.setDom k x) :=
  ⟨h.pend, { h.canon with doms := twf_tset (fun _ => ({} : Domain)) _ _ _ h.canon.doms }⟩

theorem k_setUpl (h : K P s) (k : Nat) (x : Uplink) : K P (s.setUpl k x) :=
  ⟨h.pend, { h.canon with upls := twf_tset (fun _ => ({} : Uplink)) _ _ _ h.canon.upls }⟩

theorem k_setFault (h : K P s) (k : Nat) (x : FaultEntry) : K P (s.setFault k x) :=
  ⟨h.pend, { h.canon with faults := twf_tset (fun _ => ({} : FaultEntry)) _ _ _ h.canon.faults }⟩

theorem k_setProd (h : K P s) (k : Nat) (x : Option ProdCtx) : K P (s.setProd k x) :=
  ⟨h.pend, { h.canon with prods := twf_tset (fun _ => none) _ _ _ h.canon.prods }⟩

theorem k_setCons (h : K P s) (k : Nat) (x : Option ConsCtx) : K P (s.setCons k x) :=
  ⟨h.pend, { h.canon with conss := twf_tset (fun _ => none) _ _ _ h.canon.conss }⟩

theorem k_setPulse (h : K P s) (k : Nat) (x : Pulse) : K P (s.setPulse k x) :=
  ⟨h.pend, { h.canon with pulses := twf_tset (fun _ => ({} : Pulse)) _ _ _ h.canon.pulses }⟩

theorem k_setCrossing (h : K P s) (k : Nat) (x : Crossing) : K P (s.setCrossing k x) :=
  ⟨h.pend, { h.canon with crossings := twf_tset (fun _ => ({} : Crossing)) _ _ _ h.canon.crossings }⟩

theorem k_setFifo (h : K P s) (k : Nat) (x : List Nat) : K P (s.setFifo k x) :=
  ⟨h.pend, { h.canon with fifos := twf_tset (fun _ => []) _ _ _ h.canon.fifos }⟩

theorem k_putSeam (h : K P s) (k : Nat) (x : Seam) : K P (s.putSeam k x) :=
  ⟨h.pend, { h.canon with seams := twf_tset seamDef _ _ _ h.canon.seams }⟩

theorem k_clearRange (h : K P s) (a b : Nat) : K P (s.clearRange a b) :=
  ⟨h.pend, { h.canon with regs := twf_filter _ _ _ h.canon.regs }⟩

theorem k_setPad (h : K P s) (k : Nat) (b : Bool) : K P (setPad s k b) :=
  ⟨h.pend, { h.canon with padHeld := twf_tset (fun _ => false) _ _ _ h.canon.padHeld }⟩

theorem k_setStarved (h : K P s) (k : Nat) (b : Bool) : K P ({ s with starved := tset false s.starved k b }) :=
  ⟨h.pend, { h.canon with starved := twf_tset (fun _ => false) _ _ _ h.canon.starved }⟩

theorem k_setDelay (h : K P s) (k : Nat) (b : Option (Nat × Nat)) : K P ({ s with delays := tset none s.delays k b }) :=
  ⟨h.pend, { h.canon with delays := twf_tset (fun _ => none) _ _ _ h.canon.delays }⟩

theorem k_setGpioIn (h : K P s) (k : Nat) (b : Bool) : K P ({ s with gpioIn := tset false s.gpioIn k b }) :=
  ⟨h.pend, { h.canon with gpioIn := twf_tset (fun _ => false) _ _ _ h.canon.gpioIn }⟩

theorem k_setGpioPulse (h : K P s) (k : Nat) (b : Option (Nat × Bool)) : K P ({ s with gpioPulse := tset none s.gpioPulse k b }) :=
  ⟨h.pend, { h.canon with gpioPulse := twf_tset (fun _ => none) _ _ _ h.canon.gpioPulse }⟩

theorem k_setStagingWord (h : K P s) (k : Nat) (b : Word) : K P ({ s with staging := tset 0 s.staging k b }) :=
  ⟨h.pend, { h.canon with staging := twf_tset (fun _ => 0) _ _ _ h.canon.staging }⟩

theorem k_privFilter (h : K P s) (f : Nat × Word → Bool) : K P ({ s with priv := s.priv.filter f }) :=
  ⟨h.pend, { h.canon with priv := twf_filter _ _ _ h.canon.priv }⟩

theorem k_queuesFilter (h : K P s) (f : Nat × Queue → Bool) : K P ({ s with queues := s.queues.filter f }) :=
  ⟨h.pend, { h.canon with queues := twf_filter _ _ _ h.canon.queues }⟩

theorem k_setChan (h : K P s) (k : Nat) {x : Chan} (hx : eccWf x.bulk x.bulkErr) : K P (s.setChan k x) :=
  ⟨h.pend, { h.canon with chans := ⟨twf_tset (fun _ => ({} : Chan)) _ _ _ h.canon.chans.1, all_tset (Q := fun (x : Chan) => eccWf x.bulk x.bulkErr) h.canon.chans.2 hx⟩ }⟩

theorem wf_chan (h : K T s) (k : Nat) : eccWf (s.chan k).bulk (s.chan k).bulkErr :=
  all_tget (Q := fun (x : Chan) => eccWf x.bulk x.bulkErr) h.canon.chans.2 ⟨rfl, rfl⟩

theorem k_setCore (h : K P s) (k : Nat) {x : CoreState} (hx : eccWf x.sram x.sramErr) (hg : twf (fun _ => 0) x.g = true) :
    K P (s.setCore k x) :=
  ⟨h.pend, { h.canon with cores := ⟨twf_tset (fun _ => ({} : CoreState)) _ _ _ h.canon.cores.1,
    all_tset (Q := fun (x : CoreState) => eccWf x.sram x.sramErr ∧ twf (fun _ => 0) x.g = true) h.canon.cores.2 ⟨hx, hg⟩⟩ }⟩

theorem core_wf (h : K T s) (k : Nat) : eccWf (s.core k).sram (s.core k).sramErr ∧ twf (fun _ => 0) (s.core k).g = true :=
  all_tget (Q := fun (x : CoreState) => eccWf x.sram x.sramErr ∧ twf (fun _ => 0) x.g = true) h.canon.cores.2 ⟨⟨rfl, rfl⟩, rfl⟩

theorem wf_core (h : K T s) (k : Nat) : eccWf (s.core k).sram (s.core k).sramErr := (core_wf h k).1
theorem wg_core (h : K T s) (k : Nat) : twf (fun _ => 0) (s.core k).g = true := (core_wf h k).2
theorem wg_nil : twf (fun _ => (0 : Word)) [] = true := rfl

theorem k_setMeadow (h : K P s) (k : Nat) {x : Meadow} (hx : eccWf x.sram x.sramErr) : K P (s.setMeadow k x) :=
  ⟨h.pend, { h.canon with meadows := ⟨twf_tset (fun _ => ({} : Meadow)) _ _ _ h.canon.meadows.1, all_tset (Q := fun (x : Meadow) => eccWf x.sram x.sramErr) h.canon.meadows.2 hx⟩ }⟩

theorem wf_meadow (h : K T s) (k : Nat) : eccWf (s.meadow k).sram (s.meadow k).sramErr :=
  all_tget (Q := fun (x : Meadow) => eccWf x.sram x.sramErr) h.canon.meadows.2 ⟨rfl, rfl⟩

/-- All that `K` says but what it says of Mantle. -/
structure K0 (P : List Instr → Prop) (s : State) : Prop where
  any : ∀ m, mantleWf m → K P { s with mantle := m }

theorem k0_of (h : K P s) : K0 P s := ⟨fun _ hm => ⟨h.pend, { h.canon with mantle := hm }⟩⟩

theorem mantleWf_intro {m : Mantle} (h1 : Memory.wf m.staging = true) (h2 : twf (fun _ => 0xFF) m.slotA = true)
    (h3 : twf (fun _ => 0xFF) m.slotB = true) : mantleWf m := ⟨h1, h2, h3⟩

theorem k_mantle_iff (m : Mantle) (a_uptime : Nat) (a_tb : Timebase) (a_qranges : List QRange) (a_qmapped : Bool)
    (a_qapplying : Bool) (a_hmapped : Bool) (a_happlying : Bool) (a_hc2At : Option Nat) (a_hc2Due : Bool)
    (a_shelfTotal : Nat) (a_shelfFrom : Option Nat) (a_life : Life) (a_faultHold : List FaultPkt)
    (a_faultWait : List (Nat × Nat × Dword)) (a_conds : List (Nat × Nat)) (a_faultDue : List (Nat × Nat × Dword))
    (a_going : List (Nat × Nat)) (a_freeing : List Nat) (a_snaps : List Snap) (a_stats : Stats) (a_dev : DevSt)
    (a_descent : Nat) (a_restAtDescent : List Nat) (a_wake : Option Wake) (a_xref : Xref) (a_sampler : Sampler)
    (a_seamWaits : List SeamWait) (a_seamEnds : List SeamEnd) (a_orders : List OrderRef) (a_orderQ : List OrderRef)
    (a_heldOrders : List OrderRef) (a_heldComps : List HeldCompletion) (a_hwHeld : List (Nat × Nat × Nat))
    (a_fedEpoch : BitVec 16) (a_i2c : I2c) (a_boot : Boot) (a_request : Option ReqRun) (a_requests : List ReqWaiting)
    (a_signedRole : Nat) (a_signedSlot : Nat) (a_debugOut : BitVec 34) (a_debugWord : Dword) (a_free : Nat) :
    K P (State.mk s.pending a_uptime s.regs s.staging s.priv a_tb s.queues a_qranges a_qmapped a_qapplying s.prods
      s.conss s.chans s.starved s.lanes s.tis s.delays a_hmapped a_happlying a_hc2At a_hc2Due a_shelfTotal a_shelfFrom
      a_life s.faults a_faultHold a_faultWait a_conds a_faultDue a_going a_freeing a_snaps a_stats s.cores s.meadows
      s.doms a_dev a_descent a_restAtDescent a_wake a_xref s.padHeld s.gpioIn s.gpioPulse a_sampler s.seams s.pulses
      s.crossings s.fifos a_seamWaits a_seamEnds a_orders a_orderQ a_heldOrders a_heldComps a_hwHeld m s.upls
      a_fedEpoch a_i2c a_boot a_request a_requests a_signedRole a_signedSlot a_debugOut a_debugWord a_free) ↔ K0 P s ∧ mantleWf m :=
  ⟨fun h => ⟨⟨fun _ hm => ⟨h.pend, { h.canon with mantle := hm }⟩⟩, h.canon.mantle⟩,
    fun h => (k_mk_iff (s := { s with mantle := m }) ..).2 (h.1.any m h.2)⟩

theorem wf_mstaging (h : K T s) : Memory.wf s.mantle.staging = true := h.canon.mantle.1
theorem wf_slotA (h : K T s) : twf (fun _ => 0xFF) s.mantle.slotA = true := h.canon.mantle.2.1
theorem wf_slotB (h : K T s) : twf (fun _ => 0xFF) s.mantle.slotB = true := h.canon.mantle.2.2

theorem wf_ite {c : Prop} [Decidable c] {a b : Table Byte} (ha : Memory.wf a = true) (hb : Memory.wf b = true) :
    Memory.wf (if c then a else b) = true := by
  split <;> assumption

theorem k_of_eq {α : Type} {x : State × α} {t : State} {r : α} (e : x = (t, r)) (h : K P x.1) : K P t := by
  subst e; exact h

theorem wf_memWrite {m : Table Byte} {a : Nat} {bs : List Byte} (h : Memory.wf m = true) : Memory.wf (memWrite m a bs) = true := by
  induction bs generalizing m a with
  | nil => exact h
  | cons b bs ih => exact ih (wf_set _ _ h)

theorem wf_checkWord {m : Table Byte} {es : Table (BitVec 72)} {k : Nat} (h : Memory.wf m = true) :
    Memory.wf (checkWord m es k).mem = true := by
  unfold checkWord
  dsimp only
  split
  · exact h
  · exact wf_memWrite h

theorem wf_mergeWord {m : Table Byte} {es : Table (BitVec 72)} {a : Nat} {bs : List Byte} (h : Memory.wf m = true) :
    Memory.wf (mergeWord m es a bs).mem = true := wf_memWrite (wf_checkWord h)

theorem wf_memZero {m : Table Byte} {a n : Nat} (h : Memory.wf m = true) : Memory.wf (memZero m a n) = true :=
  twf_filter _ _ _ h

theorem wf_sbApply {m : Table Byte} {e : SbEntry} (h : Memory.wf m = true) : Memory.wf (sbApply m e) = true := by
  unfold sbApply
  generalize List.range 8 = l
  induction l generalizing m with
  | nil => exact h
  | cons k l ih =>
    refine ih ?_
    dsimp only
    split
    · exact wf_set _ _ h
    · exact h

theorem wf_panelMem {p : Panel} : Memory.wf (panelMem p) = true := by
  unfold panelMem
  have : ∀ (l : List PanelRec) (m : Table Byte), Memory.wf m = true →
      Memory.wf (l.foldl (fun m r => if r.kind = 2 then memWrite m r.off r.data else m) m) = true := by
    intro l
    induction l with
    | nil => exact fun _ h => h
    | cons r l ih =>
      intro m h
      refine ih _ ?_
      dsimp only
      split
      · exact wf_memWrite h
      · exact h
  exact this _ _ rfl

/-! Memories with errors -/

theorem we_nil2 : eccWf [] [] := ⟨rfl, rfl⟩

theorem we_nil {m : Table Byte} {e : Table (BitVec 72)} (h : eccWf m e) : eccWf [] e := ⟨rfl, h.2⟩

theorem we_clean {m : Table Byte} {e : Table (BitVec 72)} (h : eccWf m e) : eccWf m [] := ⟨h.1, rfl⟩

theorem we_memWrite {m : Table Byte} {e : Table (BitVec 72)} {a : Nat} {bs : List Byte} (h : eccWf m e) : eccWf (memWrite m a bs) e :=
  ⟨wf_memWrite h.1, h.2⟩

theorem we_memZero {m : Table Byte} {e : Table (BitVec 72)} {a n b k : Nat} (h : eccWf m e) : eccWf (memZero m a n) (memZero e b k) :=
  ⟨wf_memZero h.1, twf_filter _ _ _ h.2⟩

theorem we_sbApply {m : Table Byte} {e : Table (BitVec 72)} {x : SbEntry} (h : eccWf m e) : eccWf (sbApply m x) e := ⟨wf_sbApply h.1, h.2⟩

theorem we_panelMem {p : Panel} : eccWf (panelMem p) [] := ⟨wf_panelMem, rfl⟩

theorem we_set {m : Table Byte} {e : Table (BitVec 72)} {k : Nat} {v : BitVec 72} (h : eccWf m e) : eccWf m (tset 0 e k v) :=
  ⟨h.1, twf_tset (fun _ => (0 : BitVec 72)) _ _ _ h.2⟩

theorem we_flipBit {m : Table Byte} {e : Table (BitVec 72)} {k j : Nat} (h : eccWf m e) : eccWf m (flipBit e k j) := we_set h

theorem we_checkWord {m : Table Byte} {e : Table (BitVec 72)} {k : Nat} (h : eccWf m e) :
    eccWf (checkWord m e k).mem (checkWord m e k).errs := by
  unfold checkWord
  dsimp only
  split
  · exact h
  · exact we_memWrite (we_set h)

theorem we_mergeWord {m : Table Byte} {e : Table (BitVec 72)} {a : Nat} {bs : List Byte} (h : eccWf m e) :
    eccWf (mergeWord m e a bs).mem (mergeWord m e a bs).errs := we_memWrite (we_checkWord h)

theorem wf_flashWrite {m : Table Byte} {a : Nat} {bs : List Byte} (h : twf (fun _ => 0xFF) m = true) :
    twf (fun _ => 0xFF) (flashWrite m a bs) = true := by
  induction bs generalizing m a with
  | nil => exact h
  | cons b bs ih => exact ih (twf_tset (fun _ => (0xFF : Byte)) _ _ _ h)

theorem ak_answer (h : K P s) : AK P (.next s) := ⟨s, rfl, h⟩

theorem k_getD {o : Option State} {d : State} (ho : ∀ t, o = some t → K P t) (hd : K P d) : K P (o.getD d) := by
  cases o with
  | none => exact hd
  | some t => exact ho t rfl

theorem k_id (h : K P s) : K P (id s) := h

end Sys2Proof.Laws
end

