-- ==== Sys2Proof/Laws/Memory.lean ====
section
/-! SUPPORT. Reading memory after a write: the bytes written, and every other byte as before. -/

namespace Sys2Proof.Laws

open Sys2Proof.Machine

theorem rising_memWrite (m : Table Byte) (a : Nat) (bs : List Byte) (h : Rising m) : Rising (memWrite m a bs) := by
  induction bs generalizing m a with
  | nil => exact h
  | cons b bs ih => exact ih _ _ (rising_tput _ _ _ h)

/-- What a byte reads after a write of consecutive bytes. -/
theorem tget_memWrite (m : Table Byte) (a : Nat) (bs : List Byte) (i : Nat) (h : Rising m) :
    tget 0 (memWrite m a bs) i = if a ≤ i ∧ i < a + bs.length then bs.getD (i - a) 0 else tget 0 m i := by
  induction bs generalizing m a with
  | nil =>
    rw [if_neg (by simp only [List.length_nil]; omega)]; rfl
  | cons b bs ih =>
    refine (ih _ _ (rising_tput _ _ _ h)).trans ?_
    have e := tget_tset (0 : Byte) m a i b h
    rw [List.length_cons]
    by_cases h1 : a + 1 ≤ i ∧ i < a + 1 + bs.length
    · rw [if_pos h1, if_pos (by omega)]
      have : i - a = (i - (a + 1)) + 1 := by omega
      rw [this, List.getD_cons_succ]
    · rw [if_neg h1]
      refine e.trans ?_
      by_cases h2 : i = a
      · subst h2
        rw [if_pos rfl, if_pos (by omega), Nat.sub_self]; rfl
      · rw [if_neg h2, if_neg (by omega)]

end Sys2Proof.Laws
end

