-- ==== Sys2Proof/Laws/Words.lean ====
section
/-! SUPPORT. The arithmetic of the ALU group in the terms of R324 and R325. -/

namespace Sys2Proof.Laws

open Sys2Proof.Machine

theorem clz_log2 (a : Word) : ∀ n, n ≤ 32 → a.toNat < 2 ^ n → clzFrom a n = if a = 0 then 32 else 31 - Nat.log2 a.toNat := by
  intro n
  induction n with
  | zero =>
    intro _ h
    have : a = 0 := BitVec.eq_of_toNat_eq (by simpa using h)
    simp [clzFrom, this]
  | succ n ih =>
    intro hn h
    unfold clzFrom
    by_cases hb : a.getLsbD n = true
    · have h1 : 2 ^ n ≤ a.toNat := by
        have := Nat.ge_two_pow_of_testBit (x := a.toNat) (i := n) (by simpa [BitVec.getLsbD] using hb)
        exact this
      have h0 : a.toNat ≠ 0 := by have := Nat.two_pow_pos n; omega
      have h2 : Nat.log2 a.toNat = n := (Nat.log2_eq_iff h0).2 ⟨h1, h⟩
      have : a ≠ 0 := by rintro rfl; exact h0 rfl
      rw [if_pos hb, if_neg this, h2]
    · rw [if_neg hb]
      apply ih (by omega)
      apply Nat.lt_pow_two_of_testBit
      intro i hi
      rcases Nat.lt_or_ge n i with h3 | h3
      · exact Nat.testBit_lt_two_pow (Nat.lt_of_lt_of_le h (Nat.pow_le_pow_right (by omega) h3))
      · have : i = n := by omega
        subst this
        simpa [BitVec.getLsbD] using hb

theorem mulhi_wide (a b : Word) : mulhi a b = (((a.signExtend 64) * (b.signExtend 64)) >>> 32).setWidth 32 := by
  have e : (a.signExtend 64) * (b.signExtend 64) = BitVec.ofInt 64 (a.toInt * b.toInt) := by
    rw [BitVec.ofInt_mul]; simp [BitVec.signExtend]
  rw [e]
  apply BitVec.eq_of_toNat_eq
  simp [mulhi, Nat.shiftRight_eq_div_pow]
  generalize a.toInt * b.toInt = p
  omega

theorem mulhiu_wide (a b : Word) : mulhiu a b = (((a.setWidth 64) * (b.setWidth 64)) >>> 32).setWidth 32 := by
  apply BitVec.eq_of_toNat_eq
  have ha := a.isLt
  have hb := b.isLt
  have : a.toNat * b.toNat < 2^32 * 2^32 := Nat.mul_lt_mul'' ha hb
  simp [mulhiu, BitVec.toNat_mul]
  omega

theorem sext_sint (k : Nat) (hk : k = 8 ∨ k = 16) (a : Word) : (a.setWidth k).signExtend 32 = BitVec.ofInt 32 (sint k (a.toNat % 2^k)) := by
  unfold BitVec.signExtend
  congr 1
  rcases hk with rfl | rfl <;> simp [sint, BitVec.toInt_eq_toNat_cond] <;> split <;> split <;> omega

theorem remd_tmod (a b : Word) : remd a b = if b = 0 then a else BitVec.ofInt 32 (a.toInt.tmod b.toInt) := by
  unfold remd; split; rfl
  rw [← BitVec.toInt_srem, BitVec.ofInt_toInt]

theorem quot_tdiv (a b : Word) : quot a b = if b = 0 then 0xFFFFFFFF else BitVec.ofInt 32 (a.toInt.tdiv b.toInt) := by
  unfold quot; split; rfl
  apply BitVec.eq_of_toInt_eq
  simp [BitVec.toInt_sdiv]

theorem remdu_mod (a b : Word) : remdu a b = if b = 0 then a else w32 (a.toNat % b.toNat) := by
  unfold remdu; split; rfl
  apply BitVec.eq_of_toNat_eq; simp
  rw [Nat.mod_eq_of_lt (a := a.toNat % b.toNat)]
  exact Nat.lt_of_le_of_lt (Nat.mod_le ..) a.isLt

theorem quotu_div (a b : Word) : quotu a b = if b = 0 then 0xFFFFFFFF else w32 (a.toNat / b.toNat) := by
  unfold quotu; split; rfl
  apply BitVec.eq_of_toNat_eq; simp
  rw [Nat.mod_eq_of_lt (a := a.toNat / b.toNat)]
  exact Nat.lt_of_le_of_lt (Nat.div_le_self ..) a.isLt
theorem upper_half (imm : BitVec 16) : (0#16 ++ imm) <<< 16 = imm ++ 0#16 := by
  apply BitVec.eq_of_getLsbD_eq; intro i hi
  simp only [BitVec.getLsbD_append, BitVec.getLsbD_shiftLeft, BitVec.getLsbD_zero]
  by_cases h : i < 16
  · simp [h]
  · have : i - 16 < 16 := by omega
    simp [h, hi, this]

theorem bit_toNat (w : Word) (k : Nat) : bit w k = decide (w.toNat / 2 ^ k % 2 = 1) := by
  unfold bit BitVec.getLsbD
  rw [Nat.testBit_eq_decide_div_mod_eq]

theorem bnat_le (b : Bool) : bnat b ≤ 1 := by cases b <;> simp [bnat]

theorem set0 (w : Word) (n : Nat) (h : n ≤ 1) : (setBits w 0 0 n).toNat = w.toNat / 2 * 2 + n := by
  have := w.isLt
  simp only [setBits, bits, BitVec.toNat_ofNat, Nat.reducePow, Nat.reduceAdd, Nat.reduceSub]; omega
theorem set1 (w : Word) (n : Nat) (h : n ≤ 1) : (setBits w 1 1 n).toNat = w.toNat / 4 * 4 + 2 * n + w.toNat % 2 := by
  have := w.isLt
  simp only [setBits, bits, BitVec.toNat_ofNat, Nat.reducePow, Nat.reduceAdd, Nat.reduceSub]; omega
theorem set2 (w : Word) (n : Nat) (h : n ≤ 1) : (setBits w 2 2 n).toNat = w.toNat / 8 * 8 + 4 * n + w.toNat % 4 := by
  have := w.isLt
  simp only [setBits, bits, BitVec.toNat_ofNat, Nat.reducePow, Nat.reduceAdd, Nat.reduceSub]; omega
theorem set3 (w : Word) (n : Nat) (h : n ≤ 1) : (setBits w 3 3 n).toNat = w.toNat / 16 * 16 + 8 * n + w.toNat % 8 := by
  have := w.isLt
  simp only [setBits, bits, BitVec.toNat_ofNat, Nat.reducePow, Nat.reduceAdd, Nat.reduceSub]; omega

theorem status_low (c : Word) (n : Nat) (h : n ≤ 1) :
    (setBits (setBits c 1 1 n) 0 0 0).toNat = c.toNat / 4 * 4 + 2 * n := by
  rw [set0 _ _ (by omega), set1 _ _ h]; omega

theorem status_high (x : Word) (n : Nat) (h : n ≤ 1) :
    (setBits (setBits x 3 3 n) 2 2 1).toNat = x.toNat / 16 * 16 + 8 * n + 4 + x.toNat % 4 := by
  rw [set2 _ _ (by omega), set3 _ _ h]; omega

/-- The status word a trap leaves. -/
def trapCst (c : Word) : Word :=
  let e := setBits (setBits c 1 1 (bnat (bit c 0))) 0 0 0
  setBits (setBits e 3 3 (bnat (bit e 3 || bit e 2))) 2 2 1

/-- A status word as a trap leaves it: PIE takes IE, IE falls, NESTED takes IN_TRAP too, IN_TRAP rises (R350). -/
theorem trap_status (c : Word) :
    bit (trapCst c) 1 = bit c 0 ∧ bit (trapCst c) 0 = false ∧ bit (trapCst c) 2 = true ∧
      bit (trapCst c) 3 = (bit c 3 || bit c 2) ∧ ∀ k, 4 ≤ k → bit (trapCst c) k = bit c k := by
  have ex := status_low c (bnat (bit c 0)) (bnat_le _)
  have h0 : bnat (bit c 0) = c.toNat % 2 := by
    rw [bit_toNat]; simp only [Nat.reducePow, Nat.div_one]
    rcases Nat.mod_two_eq_zero_or_one c.toNat with e | e <;> simp [e, bnat]
  have eh := status_high (setBits (setBits c 1 1 (bnat (bit c 0))) 0 0 0)
    (bnat (bit (setBits (setBits c 1 1 (bnat (bit c 0))) 0 0 0) 3 || bit (setBits (setBits c 1 1 (bnat (bit c 0))) 0 0 0) 2)) (bnat_le _)
  have ed : trapCst c = setBits (setBits (setBits (setBits c 1 1 (bnat (bit c 0))) 0 0 0) 3 3
    (bnat (bit (setBits (setBits c 1 1 (bnat (bit c 0))) 0 0 0) 3 || bit (setBits (setBits c 1 1 (bnat (bit c 0))) 0 0 0) 2))) 2 2 1 := rfl
  rw [← ed] at eh
  generalize setBits (setBits c 1 1 (bnat (bit c 0))) 0 0 0 = x at *
  have x4 : x.toNat / 4 = c.toNat / 4 := by rw [ex, h0]; omega
  have b2 : bit x 2 = bit c 2 := by
    rw [bit_toNat, bit_toNat, show (2 : Nat) ^ 2 = 4 from rfl, x4]
  have b3 : bit x 3 = bit c 3 := by
    rw [bit_toNat, bit_toNat, show (2 : Nat) ^ 3 = 4 * 2 from rfl, ← Nat.div_div_eq_div_mul, ← Nat.div_div_eq_div_mul, x4]
  have hn := bnat_le (bit c 3 || bit c 2)
  have hv : bnat (bit c 3 || bit c 2) = 1 ↔ (bit c 3 || bit c 2) = true := by cases (bit c 3 || bit c 2) <;> simp [bnat]
  rw [b2, b3, ex, h0] at eh
  generalize trapCst c = e at *
  generalize bnat (bit c 3 || bit c 2) = n at *
  refine ⟨?_, ?_, ?_, ?_, fun k hk => ?_⟩
  · rw [bit_toNat, bit_toNat, eh]; congr 1; apply propext; simp only [Nat.reducePow]; omega
  · rw [bit_toNat, eh]; simp only [Nat.reducePow, decide_eq_false_iff_not]; omega
  · rw [bit_toNat, eh]; simp only [Nat.reducePow, decide_eq_true_eq]; omega
  · have e8 : e.toNat / 8 % 2 = n := by rw [eh]; omega
    rw [bit_toNat, show (2 : Nat) ^ 3 = 8 from rfl, e8]
    by_cases hb : (bit c 3 || bit c 2) = true
    · rw [hb, hv.2 hb]; rfl
    · have : n ≠ 1 := fun x => hb (hv.1 x)
      simp only [this, decide_false]
      exact (Bool.eq_false_iff.2 hb).symm
  · have : e.toNat / 16 = c.toNat / 16 := by rw [eh]; omega
    rw [bit_toNat, bit_toNat]
    obtain ⟨j, rfl⟩ : ∃ j, k = 4 + j := ⟨k - 4, by omega⟩
    rw [Nat.pow_add, ← Nat.div_div_eq_div_mul, ← Nat.div_div_eq_div_mul]
    rw [show (2:Nat) ^ 4 = 16 from rfl, this]

/-! Halves of a register (R327) -/

theorem halves (a : Word) : lowS a = sint 16 (a.toNat % 65536) ∧ highS a = sint 16 (a.toNat / 65536) ∧
    lowU a = (a.toNat % 65536 : Nat) ∧ highU a = (a.toNat / 65536 : Nat) := by
  have := a.isLt
  refine ⟨?_, ?_, ?_, ?_⟩
  · simp only [lowS, sint, BitVec.toInt_eq_toNat_cond, BitVec.toNat_setWidth]; norm_num; split <;> split <;> omega
  · simp only [highS, sint, BitVec.toInt_eq_toNat_cond, BitVec.toNat_setWidth, BitVec.toNat_ushiftRight, Nat.shiftRight_eq_div_pow]
    norm_num; split <;> split <;> omega
  · simp [lowU]
  · simp only [highU, BitVec.toNat_setWidth, BitVec.toNat_ushiftRight, Nat.shiftRight_eq_div_pow]; norm_num; omega

theorem dualS_sint (a b : Word) : dualS a b = sint 16 (a.toNat % 65536) * sint 16 (b.toNat % 65536) +
    sint 16 (a.toNat / 65536) * sint 16 (b.toNat / 65536) := by
  have ha := halves a; have hb := halves b
  unfold dualS
  rw [ha.2.1, hb.2.1, ha.1, hb.1]

theorem dualX_sint (a b : Word) : dualX a b = sint 16 (a.toNat % 65536) * sint 16 (b.toNat / 65536) +
    sint 16 (a.toNat / 65536) * sint 16 (b.toNat % 65536) := by
  have ha := halves a; have hb := halves b
  unfold dualX
  rw [ha.2.1, hb.2.1, ha.1, hb.1]

theorem dualU_nat (a b : Word) : BitVec.ofInt 64 (dualU a b) =
    d64 (a.toNat % 65536 * (b.toNat % 65536) + a.toNat / 65536 * (b.toNat / 65536)) := by
  have ha := halves a; have hb := halves b
  unfold dualU
  rw [ha.2.2.2, hb.2.2.2, ha.2.2.1, hb.2.2.1]
  have e := BitVec.ofInt_natCast 64 (a.toNat % 65536 * (b.toNat % 65536) + a.toNat / 65536 * (b.toNat / 65536))
  refine Eq.trans ?_ e
  congr 1

theorem append_nat (a b : Word) : b ++ a = d64 (a.toNat + 2 ^ 32 * b.toNat) := by
  apply BitVec.eq_of_toNat_eq
  have ha := a.isLt
  have hb := b.isLt
  rw [BitVec.toNat_append, ← Nat.shiftLeft_add_eq_or_of_lt ha, Nat.shiftLeft_eq, BitVec.toNat_ofNat, Nat.mod_eq_of_lt]
  · omega
  · omega

theorem leNat_lt (bs : List Byte) : leNat bs < 256 ^ bs.length := by
  induction bs with
  | nil => simp [leNat]
  | cons b bs ih =>
    have := b.isLt
    simp only [leNat, List.length_cons, Nat.pow_succ]
    omega

theorem leNat_word {bs : List Byte} {k : Nat} (h : bs.length = k) (hk : k ≤ 4) : (w32 (leNat bs)).toNat = leNat bs ∧ leNat bs < 256 ^ k := by
  have := leNat_lt bs
  rw [h] at this
  refine ⟨?_, this⟩
  rw [BitVec.toNat_ofNat, Nat.mod_eq_of_lt]
  exact Nat.lt_of_lt_of_le this (Nat.le_trans (Nat.pow_le_pow_right (by omega) hk) (by norm_num))

end Sys2Proof.Laws
end

