-- ==== Sys2Proof/Laws/Ecc.lean ====
section
/-! SUPPORT. Memories with errors: a check of a word, and a store after one, leave what reads find as it was. -/

namespace Sys2Proof.Laws

open Sys2Proof.Machine

theorem leBytes_length (n v : Nat) : (leBytes n v).length = n := by
  induction n generalizing v with
  | zero => rfl
  | succ n ih => simp [leBytes, ih]

/-- The byte at `k` of a number's bytes. -/
theorem leBytes_getD (n v k : Nat) (h : k < n) : (leBytes n v).getD k 0 = b8 (v / 256 ^ k) := by
  induction n generalizing v k with
  | zero => omega
  | succ n ih =>
    cases k with
    | zero => simp [leBytes]
    | succ k =>
      simp only [leBytes, List.getD_cons_succ]
      rw [ih _ _ (by omega), Nat.div_div_eq_div_mul, Nat.pow_succ']

/-- The bytes of what eight bytes spell are those bytes. -/
theorem leBytes_leNat (bs : List Byte) : leBytes bs.length (leNat bs) = bs := by
  induction bs with
  | nil => rfl
  | cons b bs ih =>
    have h : (b.toNat + 256 * leNat bs) / 256 = leNat bs := by have := b.isLt; omega
    have h2 : b8 (b.toNat + 256 * leNat bs) = b := by
      apply BitVec.eq_of_toNat_eq
      simp only [b8, BitVec.toNat_ofNat]
      have := b.isLt; omega
    simp only [List.length_cons, leBytes, leNat, h, h2, ih]

theorem memBytes_length (m : Table Byte) (a n : Nat) : (memBytes m a n).length = n := by simp [memBytes]

theorem memBytes_getD (m : Table Byte) (a n k : Nat) (h : k < n) : (memBytes m a n).getD k 0 = tget 0 m (a + k) := by
  simp [memBytes, h]

theorem eccMark_judged : eccJudge eccMark = (.bad, eccMark) := by decide

/-- A marked word's data are read as they stand. -/
theorem mark_data (w : Dword) : (eccRead w eccMark).2.1 = w := by
  unfold eccRead
  rw [eccMark_judged]
  simp [eccMark]

/-- A word that has been read has no error left, or the mark. -/
theorem read_settles (w : Dword) (e : BitVec 72) : (eccRead w e).2.2 = 0 ∨ (eccRead w e).2.2 = eccMark := by
  unfold eccRead
  dsimp only
  split <;> simp

/-- In a word with no error, or marked, a read finds the bytes that stand there. -/
theorem readByte_settled (m : Table Byte) (errs : Table (BitVec 72)) (a : Nat)
    (h : tget 0 errs (a / 8) = 0 ∨ tget 0 errs (a / 8) = eccMark) : readByte m errs a = tget 0 m a := by
  unfold readByte
  split
  · rfl
  · next n =>
    rw [h.resolve_left n]
    dsimp only
    rw [mark_data, leBytes_getD _ _ _ (Nat.mod_lt _ (by omega))]
    have l := leNat_lt (memBytes m (8 * (a / 8)) 8)
    rw [memBytes_length] at l
    have : (d64 (leNat (memBytes m (8 * (a / 8)) 8))).toNat = leNat (memBytes m (8 * (a / 8)) 8) := by
      simp only [d64, BitVec.toNat_ofNat]; exact Nat.mod_eq_of_lt l
    rw [this, ← leBytes_getD 8 _ _ (Nat.mod_lt _ (by omega))]
    have e := leBytes_leNat (memBytes m (8 * (a / 8)) 8)
    rw [memBytes_length] at e
    rw [e, memBytes_getD _ _ _ _ (Nat.mod_lt _ (by omega))]
    congr 1; omega

/-- A memory that reads alike in a word, with the same error there, is found alike. -/
theorem readByte_congr {m m' : Table Byte} {errs errs' : Table (BitVec 72)} (a : Nat)
    (hm : ∀ i, i / 8 = a / 8 → tget 0 m' i = tget 0 m i) (he : tget 0 errs' (a / 8) = tget 0 errs (a / 8)) :
    readByte m' errs' a = readByte m errs a := by
  have b : memBytes m' (8 * (a / 8)) 8 = memBytes m (8 * (a / 8)) 8 := by
    unfold memBytes
    apply List.map_congr_left
    intro k hk
    have := List.mem_range.1 hk
    exact hm _ (by omega)
  unfold readByte
  rw [he, b, hm a rfl]

/-- A check of a word settles it and leaves what reads find as it was. -/
theorem checkWord_reads (m : Table Byte) (errs : Table (BitVec 72)) (k : Nat) (hm : Rising m) (he : Rising errs) :
    Rising (checkWord m errs k).mem ∧ Rising (checkWord m errs k).errs ∧
    (tget 0 (checkWord m errs k).errs k = 0 ∨ tget 0 (checkWord m errs k).errs k = eccMark) ∧
    ∀ a, readByte (checkWord m errs k).mem (checkWord m errs k).errs a = readByte m errs a := by
  unfold checkWord
  dsimp only
  split
  · next z => exact ⟨hm, he, .inl z, fun _ => rfl⟩
  · next z =>
    have st := read_settles (d64 (leNat (memBytes m (8 * k) 8))) (tget 0 errs k)
    generalize hx : eccRead (d64 (leNat (memBytes m (8 * k) 8))) (tget 0 errs k) = x at st ⊢
    have er : ∀ i, tget 0 (tset 0 errs k x.2.2) i = if i = k then x.2.2 else tget 0 errs i := fun i => tget_tset _ _ _ _ _ he
    refine ⟨rising_memWrite _ _ _ hm, rising_tput _ _ _ he, by rw [er, if_pos rfl]; exact st, fun a => ?_⟩
    by_cases hk : a / 8 = k
    · rw [readByte_settled _ _ _ (by rw [er, if_pos hk]; exact st), tget_memWrite _ _ _ _ hm, leBytes_length, if_pos (by omega)]
      unfold readByte
      subst hk
      rw [if_neg z, hx]
      dsimp only
      congr 1; omega
    · refine readByte_congr a (fun i hi => ?_) (by rw [er, if_neg hk])
      rw [tget_memWrite _ _ _ _ hm, leBytes_length, if_neg (by omega)]

end Sys2Proof.Laws
end

