-- ==== Sys2Proof/Laws/KeepBlocks.lean ====
section
/-! SUPPORT. What the definitions of tables, Hedgerow, the queues, the journal and the fault monitor do keeps the queue and the canonical form. -/

set_option linter.all false

namespace Sys2Proof.Laws

open Sys2Proof.Machine

variable {P : List Instr → Prop}

/-! Ops.lean -/

theorem k_setReg (s : State) (b : Blk) (i off : Nat) (v : Word) (h_s : K P s) : K P (State.setReg s b i off v) := by
  delta State.setReg
  with_reducible repeat' (first
      | assumption | apply k_setRegAt | simp -iota only [k_mk_iff])

theorem k_setFld (s : State) (b : Blk) (i off hi lo v : Nat) (h_s : K P s) :
    K P (State.setFld s b i off hi lo v) := by
  delta State.setFld
  with_reducible repeat' (first
      | assumption | apply k_setReg | apply k_setRegAt | simp -iota only [k_mk_iff])

theorem k_bumpBy (s : State) (b : Blk) (i off n : Nat) (h_s : K P s) : K P (State.bumpBy s b i off n) := by
  unfold State.bumpBy
  with_reducible repeat' (first
      | assumption | apply k_setReg | apply k_setRegAt | apply k_ite | simp -iota only [k_mk_iff] | split
      | refine k_of_eq (by assumption) ?_)

theorem k_bump (s : State) (b : Blk) (i off : Nat) (h_s : K P s) : K P (State.bump s b i off) := by
  delta State.bump
  with_reducible repeat' (first
      | assumption | apply k_bumpBy | simp -iota only [k_mk_iff])

theorem k_clearRegs (s : State) (b : Blk) (i : Nat) (offs : List Nat) (h_s : K P s) :
    K P (State.clearRegs s b i offs) := by
  unfold State.clearRegs
  with_reducible repeat' (first
      | assumption | intro _ | apply k_foldl | apply k_foldl1 | apply k_setReg | apply k_setRegAt
      | simp -iota only [k_mk_iff])

theorem k_bumpPriv (s : State) (r off : Nat) (h_s : K P s) : K P (State.bumpPriv s r off) := by
  unfold State.bumpPriv
  with_reducible repeat' (first
      | assumption | apply k_setPriv | apply k_ite | simp -iota only [k_mk_iff] | split
      | refine k_of_eq (by assumption) ?_)

theorem k_clearWin (s : State) (b : Blk) (i lo hi : Nat) (h_s : K P s) : K P (State.clearWin s b i lo hi) := by
  delta State.clearWin
  with_reducible repeat' (first
      | assumption | apply k_clearRange | simp -iota only [k_mk_iff])

theorem k_advance (s : State) (t : Nat) (h_s : K P s) : K P (State.advance s t) := by
  unfold State.advance
  with_reducible repeat' (first
      | assumption | apply k_ite | simp -iota only [k_mk_iff] | split | refine k_of_eq (by assumption) ?_)

theorem k_draw (s : State) (h_s : K P s) : K P (State.draw s) := by
  unfold State.draw
  with_reducible repeat' (first
      | assumption | simp -iota only [k_mk_iff])

theorem k_setWave (s : State) (l n : Nat) (y : NodeWave) (h_s : K P s) : K P (State.setWave s l n y) := by
  delta State.setWave
  with_reducible repeat' (first
      | assumption | intro _ | apply k_setLane | simp -iota only [k_mk_iff])

theorem k_setBank (s : State) (k : Nat) (x : Bank) (h_s : K P s) : K P (State.setBank s k x) := by
  unfold State.setBank
  with_reducible repeat' (first
      | assumption | intro _ | simp -iota only [k_mk_iff])

theorem k_bankAdd (s : State) (k i n : Nat) (h_s : K P s) : K P (State.bankAdd s k i n) := by
  unfold State.bankAdd
  with_reducible repeat' (first
      | assumption | apply k_setBank | simp -iota only [k_mk_iff])

theorem k_bankMax (s : State) (k i n : Nat) (h_s : K P s) : K P (State.bankMax s k i n) := by
  unfold State.bankMax
  with_reducible repeat' (first
      | assumption | apply k_setBank | simp -iota only [k_mk_iff])

theorem k_logClamp (s : State) (b : Blk) (i reason off role : Nat) (h_s : K P s) :
    K P (State.logClamp s b i reason off role) := by
  unfold State.logClamp
  with_reducible repeat' (first
      | assumption | apply k_setReg | apply k_setRegAt | apply k_ite | simp -iota only [k_mk_iff] | split
      | refine k_of_eq (by assumption) ?_)

/-! Hedge.lean -/

theorem k_goLevel (s : State) (m g : Nat) (h_s : K P s) : K P (State.goLevel s m g) := by
  unfold State.goLevel
  with_reducible repeat' (first
      | assumption | exact k_true (by assumption) | intro _ | apply k_setMeadow | apply wf_meadow | apply we_nil2 | apply wf_nil | apply we_set | apply we_flipBit
      | apply k_ite | simp -iota only [k_mk_iff] | split | refine k_of_eq (by assumption) ?_)

theorem k_govEvent (s : State) (m : Nat) (h_s : K P s) : K P (State.govEvent s m) := by
  unfold State.govEvent
  with_reducible repeat' (first
      | assumption | exact k_true (by assumption) | intro _ | apply k_goLevel | apply k_setMeadow | apply wf_meadow
      | apply we_nil2 | apply wf_nil | apply we_set | apply we_flipBit | apply k_ite | simp -iota only [k_mk_iff] | split | refine k_of_eq (by assumption) ?_)

theorem k_bumpDrop (s : State) (c : Nat) (lost : Bool) (h_s : K P s) : K P (bumpDrop s c lost) := by
  unfold bumpDrop
  with_reducible repeat' (first
      | assumption | apply k_setFld | apply k_setReg | apply k_setRegAt | apply k_ite | simp -iota only [k_mk_iff]
      | split | refine k_of_eq (by assumption) ?_)

theorem k_hc2Report (s : State) (enable : Nat) (h_s : K P s) : K P (hc2Report s enable) := by
  unfold hc2Report
  with_reducible repeat' (first
      | assumption | apply k_ite | simp -iota only [k_mk_iff] | split | refine k_of_eq (by assumption) ?_)

theorem k_lose (s : State) (c : Option Nat) (h_s : K P s) : K P (lose s c) := by
  unfold lose
  with_reducible repeat' (first
      | assumption | apply k_hc2Report | apply k_bumpDrop | apply k_bankAdd | apply k_bump | apply k_bumpBy
      | simp -iota only [k_mk_iff] | split | refine k_of_eq (by assumption) ?_)

theorem k_suppress (s : State) (p : Nat) (h_s : K P s) : K P (suppress s p) := by
  unfold suppress
  with_reducible repeat' (first
      | assumption | apply k_hc2Report | apply k_bumpDrop | apply k_bankAdd | apply k_bump | apply k_bumpBy
      | simp -iota only [k_mk_iff] | split | refine k_of_eq (by assumption) ?_)

theorem k_deliver (s : State) (t hop : Nat) (h_s : K P s) : K P (deliver s t hop) := by
  unfold deliver
  with_reducible repeat' (first
      | assumption | intro _ | apply k_govEvent | apply k_setTi | apply k_ite | simp -iota only [k_mk_iff] | split
      | refine k_of_eq (by assumption) ?_)

theorem k_serveLatch (s : State) (t : Nat) (h_s : K P s) : K P (serveLatch s t) := by
  unfold serveLatch
  with_reducible repeat' (first
      | assumption | intro _ | apply k_deliver | apply k_setTi | simp -iota only [k_mk_iff] | split
      | refine k_of_eq (by assumption) ?_)

theorem k_tiEnd (s : State) (t : Nat) (h_s : K P s) : K P (tiEnd s t) := by
  unfold tiEnd
  with_reducible repeat' (first
      | assumption | intro _ | apply k_serveLatch | apply k_setTi | apply k_ite | simp -iota only [k_mk_iff] | split
      | refine k_of_eq (by assumption) ?_)

theorem k_tiTaken (s : State) (t : Nat) (h_s : K P s) : K P (tiTaken s t) := by
  unfold tiTaken
  with_reducible repeat' (first
      | assumption | intro _ | apply k_setTi | simp -iota only [k_mk_iff])

theorem k_tiRefractoryEnd (s : State) (t : Nat) (h_s : K P s) : K P (tiRefractoryEnd s t) := by
  unfold tiRefractoryEnd
  with_reducible repeat' (first
      | assumption | apply k_serveLatch | apply k_ite | simp -iota only [k_mk_iff] | split
      | refine k_of_eq (by assumption) ?_)

theorem k_arrive (s : State) (c t hop : Nat) (h_s : K P s) : K P (arrive s c t hop) := by
  unfold arrive
  with_reducible repeat' (first
      | assumption | intro _ | apply k_deliver | apply k_lose | apply k_setTi | apply k_bump | apply k_bumpBy
      | apply k_ite | simp -iota only [k_mk_iff] | split | refine k_of_eq (by assumption) ?_)

theorem k_carry (s : State) (c n hop : Nat) (h_s : K P s) : K P (carry s c n hop) := by
  unfold carry
  with_reducible repeat' (first
      | assumption | apply k_arrive | apply k_bankAdd | apply k_bump | apply k_bumpBy | apply k_ite
      | simp -iota only [k_mk_iff] | split | refine k_of_eq (by assumption) ?_)

theorem k_suppressAll (s : State) (evs : List (Nat × Nat)) (h_s : K P s) : K P (suppressAll s evs) := by
  unfold suppressAll
  with_reducible repeat' (first
      | assumption | intro _ | apply k_foldl | apply k_foldl1 | apply k_suppress | simp -iota only [k_mk_iff])

theorem k_carryAll (s : State) (ok : List (Nat × Nat)) (h_s : K P s) : K P (carryAll s ok) := by
  unfold carryAll
  with_reducible repeat' (first
      | assumption | intro _ | apply k_foldl | apply k_foldl1 | apply k_carry | simp -iota only [k_mk_iff])

theorem k_fireRound (s : State) (evs : List (Nat × Nat)) (h_s : K P s) : K P (fireRound s evs) := by
  unfold fireRound
  with_reducible repeat' (first
      | assumption | apply k_carryAll | apply k_suppressAll | simp -iota only [k_mk_iff])

theorem k_hc2Serve (s : State) (h_s : K P s) : K P (hc2Serve s) := by
  unfold hc2Serve
  with_reducible repeat' (first
      | assumption | intro _ | apply k_fireRound | apply k_bump | apply k_bumpBy | apply k_ite
      | simp -iota only [k_mk_iff] | split | refine k_of_eq (by assumption) ?_)

theorem k_bumpMerged (s : State) (k : Nat) (h_s : K P s) : K P (bumpMerged s k) := by
  unfold bumpMerged
  with_reducible repeat' (first
      | assumption | apply k_bump | apply k_bumpBy | apply k_setFld | apply k_setReg | apply k_setRegAt
      | apply k_ite | simp -iota only [k_mk_iff] | split | refine k_of_eq (by assumption) ?_)

theorem k_pulseOffer (s : State) (k p hop : Nat) (h_s : K P s) : K P (pulseOffer s k p hop).1 := by
  unfold pulseOffer
  with_reducible repeat' (first
      | assumption | intro _ | apply k_bumpMerged | apply k_setPulse | apply k_ite | apply k_ite1
      | simp -iota only [k_mk_iff] | split | refine k_of_eq (by assumption) ?_)

theorem k_crossAll (s : State) (evs : List (Nat × Nat)) (h_s : K P s) : K P (crossAll s evs).1 := by
  unfold crossAll
  with_reducible repeat' (first
      | assumption | intro _ | apply k_foldl | apply k_foldl1 | apply k_pulseOffer | apply k_ite | apply k_ite1
      | simp -iota only [k_mk_iff] | split | refine k_of_eq (by assumption) ?_)

theorem k_fire (s : State) (evs : List (Nat × Nat)) (h_s : K P s) : K P (State.fire s evs) := by
  unfold State.fire
  with_reducible repeat' (first
      | assumption | apply k_crossAll | apply k_hc2Serve | apply k_carryAll | apply k_suppressAll
      | simp -iota only [k_mk_iff])

theorem k_pulseStep (x : State × List (Nat × Nat)) (q : Nat × Pulse) (h_x : K P x.1) : K P (pulseStep x q).1 := by
  unfold pulseStep
  with_reducible repeat' (first
      | assumption | apply k_setPulse | apply k_ite | apply k_ite1 | simp -iota only [k_mk_iff] | split
      | refine k_of_eq (by assumption) ?_)

theorem k_crossingStep (s : State) (q : Nat × Crossing) (h_s : K P s) : K P (crossingStep s q) := by
  unfold crossingStep
  with_reducible repeat' (first
      | assumption | apply k_setCrossing | apply k_ite | apply k_ite1 | simp -iota only [k_mk_iff] | split
      | refine k_of_eq (by assumption) ?_)

theorem k_crossDue (s : State) (h_s : K P s) : K P (crossDue s) := by
  unfold crossDue
  with_reducible repeat' (first
      | assumption | intro _ | apply k_foldl | apply k_foldl1 | apply k_crossingStep | apply k_pulseStep
      | apply k_hc2Serve | apply k_carryAll | apply k_ite | apply k_ite1 | simp -iota only [k_mk_iff] | split
      | refine k_of_eq (by assumption) ?_)

theorem k_valueWrite (s : State) (k a : Nat) (h_s : K P s) : K P (valueWrite s k a) := by
  unfold valueWrite
  with_reducible repeat' (first
      | assumption | intro _ | apply k_setCrossing | apply k_bump | apply k_bumpBy | apply k_ite
      | simp -iota only [k_mk_iff] | split | refine k_of_eq (by assumption) ?_)

theorem k_valuesGo (s : State) (k : Nat) (h_s : K P s) : K P (valuesGo s k) := by
  unfold valuesGo
  with_reducible repeat' (first
      | assumption | intro _ | apply k_foldl | apply k_foldl1 | apply k_setCrossing | apply k_ite | apply k_ite1
      | simp -iota only [k_mk_iff] | split | refine k_of_eq (by assumption) ?_)

theorem k_valuesDrop (s : State) (k : Nat) (h_s : K P s) : K P (valuesDrop s k) := by
  unfold valuesDrop
  with_reducible repeat' (first
      | assumption | intro _ | apply k_foldl | apply k_foldl1 | apply k_setCrossing | apply k_ite | apply k_ite1
      | simp -iota only [k_mk_iff] | split | refine k_of_eq (by assumption) ?_)

theorem k_fire1 (s : State) (p : Nat) (h_s : K P s) : K P (State.fire1 s p) := by
  delta State.fire1
  with_reducible repeat' (first
      | assumption | apply k_fire | simp -iota only [k_mk_iff])

theorem k_lostItems (s : State) (k n : Nat) (h_s : K P s) : K P (lostItems s k n) := by
  unfold lostItems
  with_reducible repeat' (first
      | assumption | apply k_bumpBy | apply k_setFld | apply k_setReg | apply k_setRegAt | apply k_ite
      | simp -iota only [k_mk_iff] | split | refine k_of_eq (by assumption) ?_)

theorem k_fifoPut (s : State) (k : Nat) (f : FifoKind) (e : Nat) (h_s : K P s) :
    ∀ t, fifoPut s k f e = some t → K P t := by
  intro t ht
  unfold fifoPut at ht
  repeat' split at ht
  all_goals first | (cases ht; done) | (injection ht with ht; subst ht)
  all_goals with_reducible repeat' (first
      | assumption | apply k_setFifo | apply k_ite | simp -iota only [k_mk_iff] | split
      | refine k_of_eq (by assumption) ?_)

theorem k_fifoDrain (s : State) (k : Nat) (f : FifoKind) (h_s : K P s) : K P (fifoDrain s k f) := by
  unfold fifoDrain
  with_reducible repeat' (first
      | assumption | apply k_setFifo | simp -iota only [k_mk_iff])

theorem k_fifoPour (s : State) (k : Nat) (f : FifoKind) (behind : Nat) (h_s : K P s) :
    K P (fifoPour s k f behind).1 := by
  unfold fifoPour
  with_reducible repeat' (first
      | assumption | apply k_bump | apply k_bumpBy | apply k_ite | apply k_ite1 | simp -iota only [k_mk_iff] | split
      | refine k_of_eq (by assumption) ?_)

theorem k_tiLost (s : State) (t : Nat) (h_s : K P s) : K P (tiLost s t) := by
  unfold tiLost
  with_reducible repeat' (first
      | assumption | apply k_hc2Serve | apply k_lose | apply k_setTi | apply k_ite | simp -iota only [k_mk_iff]
      | split | refine k_of_eq (by assumption) ?_)

theorem k_clearLatch (s : State) (t : Nat) (h_s : K P s) : K P (clearLatch s t) := by
  unfold clearLatch
  with_reducible repeat' (first
      | assumption | intro _ | apply k_setTi | simp -iota only [k_mk_iff])

theorem k_hedgeClear (s : State) (h_s : K P s) : K P (hedgeClear s) := by
  unfold hedgeClear
  with_reducible repeat' (first
      | assumption | intro _ | apply k_foldl | apply k_foldl1 | apply k_setTi | apply k_clearWin
      | apply k_clearRange | simp -iota only [k_mk_iff])

theorem k_unclaim (s : State) (t : Nat) (h_s : K P s) : K P (unclaim s t) := by
  unfold unclaim
  with_reducible repeat' (first
      | assumption | apply k_setReg | apply k_setRegAt | apply k_ite | simp -iota only [k_mk_iff] | split
      | refine k_of_eq (by assumption) ?_)

theorem k_claimChan (s : State) (t c : Nat) (h_s : K P s) : K P (claimChan s t c) := by
  unfold claimChan
  with_reducible repeat' (first
      | assumption | apply k_setReg | apply k_setRegAt | simp -iota only [k_mk_iff])

theorem k_pselSet (s : State) (p : Nat) (v : Word) (role : Nat) (h_s : K P s) : K P (pselSet s p v role).1 := by
  unfold pselSet
  with_reducible repeat' (first
      | assumption | intro _ | apply k_bump | apply k_bumpBy | apply k_setReg | apply k_setRegAt | apply k_ite
      | apply k_ite1 | simp -iota only [k_mk_iff] | split | refine k_of_eq (by assumption) ?_)

theorem k_tselSet (s : State) (t : Nat) (v : Word) (role : Nat) (h_s : K P s) : K P (tselSet s t v role).1 := by
  unfold tselSet
  with_reducible repeat' (first
      | assumption | intro _ | apply k_claimChan | apply k_unclaim | apply k_bump | apply k_bumpBy | apply k_setReg
      | apply k_setRegAt | apply k_ite | apply k_ite1 | simp -iota only [k_mk_iff] | split
      | refine k_of_eq (by assumption) ?_)

theorem k_dropGuarded (s : State) (c : Nat) (h_s : K P s) : K P (dropGuarded s c) := by
  unfold dropGuarded
  with_reducible repeat' (first
      | assumption | intro _ | apply k_foldl | apply k_foldl1 | apply k_unclaim | apply k_bump | apply k_bumpBy
      | apply k_setReg | apply k_setRegAt | apply k_ite | simp -iota only [k_mk_iff] | split
      | refine k_of_eq (by assumption) ?_)

theorem k_chanSet (s : State) (c : Nat) (v : Word) (role : Nat) (h_s : K P s) : K P (chanSet s c v role).1 := by
  unfold chanSet
  with_reducible repeat' (first
      | assumption | apply k_dropGuarded | apply k_setReg | apply k_setRegAt | apply k_ite | apply k_ite1
      | simp -iota only [k_mk_iff] | split | refine k_of_eq (by assumption) ?_)

theorem k_swFire (s : State) (v : Word) (h_s : K P s) : K P (swFire s v) := by
  unfold swFire
  with_reducible repeat' (first
      | assumption | intro _ | apply k_fire | simp -iota only [k_mk_iff])

theorem k_delayStart (s : State) (k : Nat) (h_s : K P s) : K P (delayStart s k) := by
  unfold delayStart
  with_reducible repeat' (first
      | assumption | apply k_tiTaken | apply k_setDelay | apply k_ite | simp -iota only [k_mk_iff] | split
      | refine k_of_eq (by assumption) ?_)

theorem k_delayEnd (s : State) (k : Nat) (h_s : K P s) : K P (delayEnd s k) := by
  unfold delayEnd
  with_reducible repeat' (first
      | assumption | apply k_fire | apply k_tiEnd | apply k_setDelay | apply k_ite | simp -iota only [k_mk_iff]
      | split | refine k_of_eq (by assumption) ?_)

/-! Queue.lean -/

theorem k_freeBlocks (s : State) (q : Nat) (h_s : K P s) : K P (freeBlocks s q) := by
  unfold freeBlocks
  with_reducible repeat' (first
      | assumption | intro _ | apply k_setQueue | apply k_ite | simp -iota only [k_mk_iff] | split
      | refine k_of_eq (by assumption) ?_)

theorem k_takeBlocks (x0 : Nat) (s : State) (c k : Nat) (x3 : List Block) (h_s : K P s) :
    K P (takeBlocks x0 s c k x3).1 := by
  induction x0 generalizing s c k x3 with
  | zero =>
    unfold takeBlocks
    with_reducible repeat' (first
        | assumption | intro _ | apply k_draw | simp -iota only [k_mk_iff] | split
        | refine k_of_eq (by assumption) ?_)
  | succ n ih =>
    unfold takeBlocks
    with_reducible repeat' (first
        | assumption | apply ih | intro _ | apply k_draw | simp -iota only [k_mk_iff] | split
        | refine k_of_eq (by assumption) ?_)

theorem k_noteBlocks (s : State) (c : Nat) (h_s : K P s) : K P (noteBlocks s c) := by
  unfold noteBlocks
  with_reducible repeat' (first
      | assumption | apply k_bankMax | simp -iota only [k_mk_iff])

theorem k_noteStarved (s : State) (h_s : K P s) : K P (noteStarved s) := by
  unfold noteStarved
  with_reducible repeat' (first
      | assumption | intro _ | apply k_foldl | apply k_foldl1 | apply k_fire1 | apply k_fire | apply k_setStarved
      | apply k_ite | simp -iota only [k_mk_iff] | split | refine k_of_eq (by assumption) ?_)

theorem k_countWait (s : State) (q : Nat) (h_s : K P s) : K P (countWait s q) := by
  unfold countWait
  with_reducible repeat' (first
      | assumption | apply k_noteStarved | apply k_bankAdd | apply k_bump | apply k_bumpBy
      | simp -iota only [k_mk_iff])

theorem k_fireWatches (s : State) (q : Nat) (h_s : K P s) : K P (fireWatches s q) := by
  unfold fireWatches
  with_reducible repeat' (first
      | assumption | intro _ | apply k_fire | apply k_ite | simp -iota only [k_mk_iff] | split
      | refine k_of_eq (by assumption) ?_)

theorem k_streamIn (s : State) (q : Nat) (p : Packet) (own : List Block) (h_s : K P s) :
    K P (streamIn s q p own) := by
  unfold streamIn
  with_reducible repeat' (first
      | assumption | intro _ | apply k_takeBlocks | apply k_setQueue | apply k_ite | apply k_ite1
      | simp -iota only [k_mk_iff] | split | refine k_of_eq (by assumption) ?_)

theorem k_commitPkt (s : State) (q : Nat) (p : Packet) (own : List Block := []) (h_s : K P s) :
    K P (commitPkt s q p own) := by
  unfold commitPkt
  with_reducible repeat' (first
      | assumption | apply k_streamIn | apply k_fireWatches | apply k_noteBlocks | apply k_bankAdd
      | simp -iota only [k_mk_iff])

theorem k_hwStore (s : State) (q : Nat) (ws : List Dword) (h_s : K P s) : K P (hwStore s q ws) := by
  unfold hwStore
  with_reducible repeat' (first
      | assumption | intro _ | apply k_foldl | apply k_foldl1 | apply k_commitPkt | apply k_bankAdd | apply k_ite
      | simp -iota only [k_mk_iff] | split | refine k_of_eq (by assumption) ?_)

theorem k_hwTry (s : State) (q : Nat) (ws : List Dword) (h_s : K P s) : K P (hwTry s q ws).1 := by
  unfold hwTry
  with_reducible repeat' (first
      | assumption | apply k_hwStore | apply k_bump | apply k_bumpBy | simp -iota only [k_mk_iff] | split
      | refine k_of_eq (by assumption) ?_)

theorem k_hwOffer (s : State) (k q : Nat) (ws : List Dword) (h_s : K P s) : K P (hwOffer s k q ws).1 := by
  unfold hwOffer
  with_reducible repeat' (first
      | assumption | intro _ | apply k_hwTry | apply k_countWait | apply k_ite | apply k_ite1
      | simp -iota only [k_mk_iff] | split | refine k_of_eq (by assumption) ?_)

theorem k_addDrops (s : State) (q n : Nat) (h_s : K P s) : K P (addDrops s q n) := by
  unfold addDrops
  with_reducible repeat' (first
      | assumption | intro _ | apply k_setQueue | apply k_ite | simp -iota only [k_mk_iff] | split
      | refine k_of_eq (by assumption) ?_)

theorem k_rewindOpen (s : State) (req : Nat) (sw : Swallow) (h_s : K P s) : K P (rewindOpen s req sw) := by
  unfold rewindOpen
  with_reducible repeat' (first
      | assumption | apply k_setProd | apply k_bankAdd | apply k_bump | apply k_bumpBy | apply k_ite
      | simp -iota only [k_mk_iff] | split | refine k_of_eq (by assumption) ?_)

theorem k_closeProd (s : State) (req : Nat) (h_s : K P s) : K P (closeProd s req) := by
  unfold closeProd
  with_reducible repeat' (first
      | assumption | apply k_setProd | simp -iota only [k_mk_iff])

theorem k_bumpOrphan (s : State) (r : Nat) (get : Bool) (h_s : K P s) : K P (bumpOrphan s r get) := by
  unfold bumpOrphan
  with_reducible repeat' (first
      | assumption | apply k_setFld | apply k_setReg | apply k_setRegAt | apply k_ite | simp -iota only [k_mk_iff]
      | split | refine k_of_eq (by assumption) ?_)

theorem k_dropClaim (s : State) (req : Nat) (h_s : K P s) : K P (dropClaim s req) := by
  unfold dropClaim
  with_reducible repeat' (first
      | assumption | apply k_addDrops | apply k_freeBlocks | apply k_setCons | simp -iota only [k_mk_iff] | split
      | refine k_of_eq (by assumption) ?_)

theorem k_orphanOpen (s : State) (req : Nat) (h_s : K P s) : K P (orphanOpen s req) := by
  unfold orphanOpen
  with_reducible repeat' (first
      | assumption | apply k_bumpOrphan | apply k_closeProd | apply k_rewindOpen | simp -iota only [k_mk_iff]
      | split | refine k_of_eq (by assumption) ?_)

theorem k_qSelect (s : State) (req q : Nat) (h_s : K P s) : K P (qSelect s req q) := by
  unfold qSelect
  with_reducible repeat' (first
      | assumption | apply k_orphanOpen | apply k_dropClaim | apply k_bumpOrphan | apply k_ite
      | simp -iota only [k_mk_iff] | split | refine k_of_eq (by assumption) ?_)

theorem k_qLeave (s : State) (req : Nat) (h_s : K P s) : K P (qLeave s req) := by
  unfold qLeave
  with_reducible repeat' (first
      | assumption | apply k_orphanOpen | apply k_dropClaim | apply k_bumpOrphan | simp -iota only [k_mk_iff]
      | split | refine k_of_eq (by assumption) ?_)

theorem k_swallowPush (s : State) (x : ProdCtx) (h_s : K P s) : K P (swallowPush s x) := by
  unfold swallowPush
  with_reducible repeat' (first
      | assumption | apply k_addDrops | apply k_bump | apply k_bumpBy | simp -iota only [k_mk_iff] | split
      | refine k_of_eq (by assumption) ?_)

theorem k_qPush (s : State) (req q : Nat) (w : Dword) (h_s : K P s) : ∀ t, qPush s req q w = some t → K P t := by
  intro t ht
  unfold qPush at ht
  dsimp only at ht
  repeat' split at ht
  all_goals first | (cases ht; done) | (injection ht with ht; subst ht)
  all_goals with_reducible repeat' (first
      | assumption | apply k_swallowPush | apply k_rewindOpen
      | apply k_addDrops | apply k_bumpBy | apply k_commitPkt | apply k_noteBlocks | apply k_bankAdd
      | apply k_setProd | apply k_takeBlocks)

theorem k_qEnd (s : State) (req q : Nat) (h_s : K P s) : K P (qEnd s req q).1 := by
  unfold qEnd
  with_reducible repeat' (first
      | assumption | apply k_closeProd | apply k_commitPkt | apply k_bump | apply k_bumpBy | apply k_ite
      | apply k_ite1 | simp -iota only [k_mk_iff] | split | refine k_of_eq (by assumption) ?_)

theorem k_qRewind (s : State) (req : Nat) (h_s : K P s) : K P (qRewind s req) := by
  unfold qRewind
  with_reducible repeat' (first
      | assumption | apply k_closeProd | apply k_rewindOpen | simp -iota only [k_mk_iff])

theorem k_markWord (s : State) (q : Nat) (h_s : K P s) : K P (markWord s q) := by
  unfold markWord
  with_reducible repeat' (first
      | assumption | apply k_fire1 | apply k_fire | apply k_bump | apply k_bumpBy | simp -iota only [k_mk_iff])

theorem k_noteEcc (s : State) (q : Nat) (e : BitVec 72) (h_s : K P s) : K P (noteEcc s q e) := by
  unfold noteEcc
  with_reducible repeat' (first
      | assumption | intro _ | apply k_markWord | apply k_bankAdd | apply k_setQueue | apply k_bump | apply k_bumpBy
      | apply k_ite | apply k_ite1 | simp -iota only [k_mk_iff] | split | refine k_of_eq (by assumption) ?_)

theorem k_readLink (s : State) (q k : Nat) (h_s : K P s) : K P (readLink s q k) := by
  unfold readLink
  with_reducible repeat' (first
      | assumption | intro _ | apply k_foldl | apply k_foldl1 | apply k_noteEcc | apply k_setQueue | apply k_ite
      | simp -iota only [k_mk_iff] | split | refine k_of_eq (by assumption) ?_)

theorem k_breakQueue (s : State) (q : Nat) (h_s : K P s) : K P (breakQueue s q) := by
  unfold breakQueue
  with_reducible repeat' (first
      | assumption | exact k_true (by assumption) | intro _ | apply k_foldl | apply k_foldl1 | apply k_dropClaim
      | apply k_rewindOpen | apply k_setChan | apply k_setQueue | apply k_bump | apply k_bumpBy | apply wf_chan
      | apply we_nil2 | apply wf_nil | apply we_set | apply we_flipBit | simp -iota only [k_mk_iff])

theorem k_readDesc (s : State) (q : Nat) (h_s : K P s) : K P (readDesc s q) := by
  unfold readDesc
  with_reducible repeat' (first
      | assumption | intro _ | apply k_foldl | apply k_foldl1 | apply k_breakQueue | apply k_noteEcc
      | apply k_setQueue | apply k_ite | apply k_ite1 | simp -iota only [k_mk_iff] | split
      | refine k_of_eq (by assumption) ?_)

theorem k_popWord (s : State) (q : Nat) (w : QWord) (idx at_ : Nat) (h_s : K P s) :
    K P (popWord s q w idx at_).1 := by
  unfold popWord
  with_reducible repeat' (first
      | assumption | apply k_readLink | apply k_noteEcc | apply k_freeBlocks | apply k_bankAdd | apply k_bump
      | apply k_bumpBy | apply k_ite | apply k_ite1 | simp -iota only [k_mk_iff] | split
      | refine k_of_eq (by assumption) ?_)

theorem k_keepClaim (s : State) (req q : Nat) (rest : List QWord) (idx at_ : Nat) (h_s : K P s) :
    K P (keepClaim s req q rest idx at_) := by
  unfold keepClaim
  with_reducible repeat' (first
      | assumption | apply k_setCons | apply k_ite | simp -iota only [k_mk_iff] | split
      | refine k_of_eq (by assumption) ?_)

theorem k_dropHead (s : State) (q : Nat) (p : Packet) (ps : List Packet) (h_s : K P s) : K P (dropHead s q p ps) := by
  unfold dropHead
  with_reducible repeat' (first
      | assumption | intro _ | apply k_setQueue | simp -iota only [k_mk_iff])

theorem k_qPop (s : State) (req q : Nat) (h_s : K P s) : K P (qPop s req q).1 := by
  unfold qPop
  with_reducible repeat' (first
      | assumption | apply k_dropHead | apply k_keepClaim | apply k_popWord | apply k_dropClaim | apply k_bumpOrphan
      | apply k_bump | apply k_bumpBy | apply k_ite | apply k_ite1 | simp -iota only [k_mk_iff] | split
      | refine k_of_eq (by assumption) ?_)

theorem k_qGet (s : State) (req q : Nat) (h_s : K P s) : K P (qGet s req q).1 := by
  unfold qGet
  with_reducible repeat' (first
      | assumption | apply k_qPop | apply k_readDesc | apply k_ite | apply k_ite1 | simp -iota only [k_mk_iff]
      | split | refine k_of_eq (by assumption) ?_)

theorem k_flushStored (s : State) (q : Nat) (h_s : K P s) : K P (flushStored s q).1 := by
  unfold flushStored
  with_reducible repeat' (first
      | assumption | intro _ | apply k_foldl | apply k_foldl1 | apply k_addDrops | apply k_setCons
      | apply k_setQueue | apply k_bumpBy | simp -iota only [k_mk_iff])

theorem k_qFlush (s : State) (q : Nat) (h_s : K P s) : K P (qFlush s q).1 := by
  unfold qFlush
  with_reducible repeat' (first
      | assumption | intro _ | apply k_foldl | apply k_foldl1 | apply k_flushStored | apply k_addDrops
      | apply k_setProd | apply k_bumpBy | simp -iota only [k_mk_iff] | split | refine k_of_eq (by assumption) ?_)

theorem k_bumpEpoch (s : State) (q : Nat) (h_s : K P s) : K P (bumpEpoch s q) := by
  unfold bumpEpoch
  with_reducible repeat' (first
      | assumption | intro _ | apply k_foldl | apply k_foldl1 | apply k_rewindOpen | apply k_setQueue
      | simp -iota only [k_mk_iff])

theorem k_qReset (s : State) (q : Nat) (h_s : K P s) : K P (qReset s q).1 := by
  unfold qReset
  with_reducible repeat' (first
      | assumption | intro _ | apply k_bumpEpoch | apply k_flushStored | apply k_setQueue
      | simp -iota only [k_mk_iff] | split | refine k_of_eq (by assumption) ?_)

theorem k_scrubBlocks (s : State) (q : Nat) (h_s : K P s) : K P (scrubBlocks s q) := by
  unfold scrubBlocks
  with_reducible repeat' (first
      | assumption | intro _ | apply k_foldl | apply k_foldl1 | apply k_noteEcc | apply k_setCons | apply k_setProd
      | apply k_setQueue | simp -iota only [k_mk_iff])

theorem k_scrubQueue (s : State) (q : Nat) (h_s : K P s) : K P (scrubQueue s q) := by
  unfold scrubQueue
  with_reducible repeat' (first
      | assumption | apply k_scrubBlocks | apply k_readDesc | apply k_ite | simp -iota only [k_mk_iff] | split
      | refine k_of_eq (by assumption) ?_)

theorem k_setChanSt (s : State) (c st : Nat) (h_s : K P s) : K P (setChanSt s c st) := by
  unfold setChanSt
  with_reducible repeat' (first
      | assumption | exact k_true (by assumption) | intro _ | apply k_fire1 | apply k_fire | apply k_setChan
      | apply wf_chan | apply we_nil2 | apply wf_nil | apply we_set | apply we_flipBit | apply k_ite | simp -iota only [k_mk_iff] | split
      | refine k_of_eq (by assumption) ?_)

theorem k_chanLost (s : State) (c : Nat) (h_s : K P s) : K P (chanLost s c) := by
  unfold chanLost
  with_reducible repeat' (first
      | assumption | intro _ | apply k_foldl | apply k_foldl1 | apply k_dropClaim | apply k_rewindOpen
      | apply k_bumpBy | apply k_ite | apply k_ite1 | simp -iota only [k_mk_iff] | split
      | refine k_of_eq (by assumption) ?_)

theorem k_chanInit (s : State) (c : Nat) (h_s : K P s) : K P (chanInit s c) := by
  unfold chanInit
  with_reducible repeat' (first
      | assumption | exact k_true (by assumption) | intro _ | apply k_setChan | apply wf_chan | apply we_nil2 | apply wf_nil | apply we_set | apply we_flipBit
      | apply k_queuesFilter | simp -iota only [k_mk_iff])

theorem k_complete (s : State) (b : Blk) (i op : Nat) (d : Desc) (code result : Nat) (extra : List Dword) (h_s : K P s) :
    K P (complete s b i op d code result extra) := by
  unfold complete
  with_reducible repeat' (first
      | assumption | intro _ | apply k_hwTry | apply k_countWait | apply k_logClamp | apply k_draw | apply k_ite
      | simp -iota only [k_mk_iff] | split | refine k_of_eq (by assumption) ?_)

theorem k_commitHeld (s : State) (req : Nat) (h_s : K P s) : K P (commitHeld s req) := by
  unfold commitHeld
  with_reducible repeat' (first
      | assumption | intro _ | apply k_foldl | apply k_foldl1 | apply k_hwTry | apply k_countWait
      | apply k_noteStarved | apply k_ite | apply k_ite1 | simp -iota only [k_mk_iff] | split
      | refine k_of_eq (by assumption) ?_)

theorem k_rebase (s : State) (h_s : K P s) : K P (rebase s) := by
  unfold rebase
  with_reducible repeat' (first
      | assumption | intro _ | apply k_setReg | apply k_setRegAt | simp -iota only [k_mk_iff])

/-! Journal.lean -/

theorem k_jAppend (s : State) (a : JAct) (h_s : K P s) : K P (jAppend s a) := by
  unfold jAppend
  with_reducible repeat' (first
      | assumption | intro _ | apply k_fire1 | apply k_fire | apply k_bankAdd | apply k_bump | apply k_bumpBy
      | apply k0_of | apply And.intro | apply mantleWf_intro | apply wf_mstaging | apply wf_slotA | apply wf_slotB
      | apply we_memWrite | apply wf_memWrite | apply wf_flashWrite | exact k_true (by assumption) | apply k_ite
      | simp -iota only [k_mk_iff] | simp -iota only [k_mantle_iff] | split | refine k_of_eq (by assumption) ?_)

theorem k_jHeld (n : List JAct) (s : State) (h_s : K P s) : K P (jHeld n s) := by
  induction n generalizing s with
  | nil => unfold jHeld; first | exact h_s | (
      with_reducible repeat' (first
          | assumption | exact k_true (by assumption) | apply k_jAppend | apply k0_of | apply And.intro
          | apply mantleWf_intro | apply wf_mstaging | apply wf_slotA | apply wf_slotB | apply k_ite | simp -iota only [k_mk_iff]
          | simp -iota only [k_mantle_iff] | split))
  | cons a n ih =>
    unfold jHeld
    with_reducible repeat' (first
        | assumption | exact k_true (by assumption) | apply ih | apply k_jAppend | apply k0_of
        | apply And.intro | apply mantleWf_intro | apply wf_mstaging | apply wf_slotA | apply wf_slotB | apply k_ite | simp -iota only [k_mk_iff]
        | simp -iota only [k_mantle_iff] | split)

theorem k_jFlush (s : State) (h_s : K P s) : K P (jFlush s) := by
  unfold jFlush
  with_reducible repeat' (first
      | assumption | intro _ | apply k_jHeld | apply k_jAppend | apply k0_of | apply And.intro
      | apply mantleWf_intro | apply wf_mstaging | apply wf_slotA | apply wf_slotB | apply we_memWrite | apply wf_memWrite
      | apply wf_flashWrite | exact k_true (by assumption) | apply k_ite | simp -iota only [k_mk_iff]
      | simp -iota only [k_mantle_iff] | split | refine k_of_eq (by assumption) ?_)

theorem k_journal (s : State) (a : JAct) (h_s : K P s) : K P (journal s a) := by
  unfold journal
  with_reducible repeat' (first
      | assumption | apply k_jFlush | apply k_jAppend | apply k_ite | simp -iota only [k_mk_iff] | split
      | refine k_of_eq (by assumption) ?_)

theorem k_journalOrLose (s : State) (a : JAct) (h_s : K P s) : K P (journalOrLose s a) := by
  unfold journalOrLose
  with_reducible repeat' (first
      | assumption | apply k_jFlush | apply k_jAppend | apply k_bump | apply k_bumpBy | apply k_ite
      | simp -iota only [k_mk_iff] | split | refine k_of_eq (by assumption) ?_)

theorem k_journalOrHold (s : State) (a : JAct) (h_s : K P s) : K P (journalOrHold s a) := by
  unfold journalOrHold
  with_reducible repeat' (first
      | assumption | intro _ | apply k_journalOrLose | apply k_bump | apply k_bumpBy | apply k0_of | apply And.intro
      | apply mantleWf_intro | apply wf_mstaging | apply wf_slotA | apply wf_slotB | apply we_memWrite | apply wf_memWrite
      | apply wf_flashWrite | exact k_true (by assumption) | apply k_ite | simp -iota only [k_mk_iff]
      | simp -iota only [k_mantle_iff] | split | refine k_of_eq (by assumption) ?_)

theorem k_deny (s : State) (req detail : Nat) (target : Word) (b : Blk) (result : Nat) (h_s : K P s) :
    K P (deny s req detail target b result) := by
  unfold deny
  with_reducible repeat' (first
      | assumption | intro _ | apply k_jFlush | apply k_jAppend | apply k_bump | apply k_bumpBy | apply k0_of
      | apply And.intro | apply mantleWf_intro | apply wf_mstaging | apply wf_slotA | apply wf_slotB
      | apply we_memWrite | apply wf_memWrite | apply wf_flashWrite | exact k_true (by assumption) | apply k_ite
      | simp -iota only [k_mk_iff] | simp -iota only [k_mantle_iff] | split | refine k_of_eq (by assumption) ?_)

theorem k_denyWrite (s : State) (req : Nat) (b : Blk) (i off : Nat) (h_s : K P s) :
    K P (denyWrite s req b i off) := by
  unfold denyWrite
  with_reducible repeat' (first
      | assumption | apply k_deny | apply k_logClamp | simp -iota only [k_mk_iff])

theorem k_exportEntries (n : Nat) (s : State) (h_s : K P s) : K P (exportEntries n s) := by
  induction n generalizing s with
  | zero => unfold exportEntries; first | exact h_s | (
      with_reducible repeat' (first
          | assumption | exact k_true (by assumption) | apply k_hwOffer | apply k_bumpBy | apply k0_of
          | apply And.intro | apply mantleWf_intro | apply wf_mstaging | apply wf_slotA | apply wf_slotB | apply k_ite
          | apply k_ite1 | apply k_ites | apply k_itee | refine k_of_eq (by assumption) ?_
          | simp -iota only [k_mk_iff] | simp -iota only [k_mantle_iff] | split))
  | succ n ih =>
    unfold exportEntries
    with_reducible repeat' (first
        | assumption | exact k_true (by assumption) | apply ih | apply k_hwOffer | apply k_bumpBy
        | apply k0_of | apply And.intro | apply mantleWf_intro | apply wf_mstaging | apply wf_slotA | apply wf_slotB
        | apply k_ite | apply k_ite1 | apply k_ites | apply k_itee | refine k_of_eq (by assumption) ?_
        | simp -iota only [k_mk_iff] | simp -iota only [k_mantle_iff] | split)

theorem k_journalExport (s : State) (h_s : K P s) : K P (journalExport s) := by
  unfold journalExport
  with_reducible repeat' (first
      | assumption | intro _ | apply k_exportEntries | apply k_jFlush | apply k_fire1 | apply k_fire | apply k0_of
      | apply And.intro | apply mantleWf_intro | apply wf_mstaging | apply wf_slotA | apply wf_slotB
      | apply we_memWrite | apply wf_memWrite | apply wf_flashWrite | exact k_true (by assumption) | apply k_ite
      | simp -iota only [k_mk_iff] | simp -iota only [k_mantle_iff] | split | refine k_of_eq (by assumption) ?_)

theorem k_offerAgain (s : State) (q : Nat) (h_s : K P s) : K P (offerAgain s q) := by
  unfold offerAgain
  with_reducible repeat' (first
      | assumption | intro _ | apply k0_of | apply And.intro | apply mantleWf_intro | apply wf_mstaging
      | apply wf_slotA | apply wf_slotB | apply we_memWrite | apply wf_memWrite | apply wf_flashWrite | exact k_true (by assumption)
      | apply k_ite | simp -iota only [k_mk_iff] | simp -iota only [k_mantle_iff] | split
      | refine k_of_eq (by assumption) ?_)

/-! Faults.lean -/

theorem k_fireHc0 (s : State) (h_s : K P s) : K P (fireHc0 s) := by
  unfold fireHc0
  with_reducible repeat' (first
      | assumption | apply k_fire1 | apply k_fire | apply k_bump | apply k_bumpBy | simp -iota only [k_mk_iff])

theorem k_holdPacket (s : State) (c sub : Nat) (ws : List Dword) (hc0 : Bool) (h_s : K P s) :
    K P (holdPacket s c sub ws hc0) := by
  unfold holdPacket
  with_reducible repeat' (first
      | assumption | apply k_fireHc0 | apply k_bump | apply k_bumpBy | apply k_ite | simp -iota only [k_mk_iff]
      | split | refine k_of_eq (by assumption) ?_)

theorem k_emitFault (s : State) (e : Nat) (x : FaultEntry) (event : Nat) (hc0 : Bool) (role : Nat := 0) (slot : Nat := 0) (h_s : K P s) :
    K P (emitFault s e x event hc0 role slot) := by
  unfold emitFault
  with_reducible repeat' (first
      | assumption | apply k_holdPacket | simp -iota only [k_mk_iff])

theorem k_freeFault (s : State) (e : Nat) (h_s : K P s) : K P (freeFault s e) := by
  unfold freeFault
  with_reducible repeat' (first
      | assumption | apply k_emitFault | apply k_setFault | apply k_bump | apply k_bumpBy | apply k_ite
      | simp -iota only [k_mk_iff] | split | refine k_of_eq (by assumption) ?_)

theorem k_freeLater (s : State) (e : Nat) (h_s : K P s) : K P (freeLater s e) := by
  unfold freeLater
  with_reducible repeat' (first
      | assumption | simp -iota only [k_mk_iff])

theorem k_raiseFault (s : State) (c sub : Nat) (detail : Dword) (h_s : K P s) : K P (raiseFault s c sub detail) := by
  unfold raiseFault
  with_reducible repeat' (first
      | assumption | intro _ | apply k_emitFault | apply k_holdPacket | apply k_setFault | apply k_bump
      | apply k_bumpBy | apply k_ite | apply k_ite1 | simp -iota only [k_mk_iff] | split
      | refine k_of_eq (by assumption) ?_)

theorem k_repeatFault (s : State) (e : Nat) (detail : Dword) (h_s : K P s) : K P (repeatFault s e detail) := by
  unfold repeatFault
  with_reducible repeat' (first
      | assumption | intro _ | apply k_emitFault | apply k_fireHc0 | apply k_setFault | apply k_bump
      | apply k_bumpBy | apply k_ite | simp -iota only [k_mk_iff] | split | refine k_of_eq (by assumption) ?_)

theorem k_entryNow (s : State) (c sub : Nat) (h_s : K P s) : K P (entryNow s c sub).1 := by
  unfold entryNow
  with_reducible repeat' (first
      | assumption | intro _ | apply k_freeFault | apply k_ite | apply k_ite1 | simp -iota only [k_mk_iff] | split
      | refine k_of_eq (by assumption) ?_)

theorem k_condPresent (s : State) (c sub : Nat) (detail : Dword) (h_s : K P s) :
    K P (condPresent s c sub detail) := by
  unfold condPresent
  with_reducible repeat' (first
      | assumption | intro _ | apply k_entryNow | apply k_repeatFault | apply k_raiseFault | apply k_setFault
      | apply k_ite | apply k_ite1 | simp -iota only [k_mk_iff] | split | refine k_of_eq (by assumption) ?_)

theorem k_condGone (s : State) (c sub : Nat) (detail : Option Dword := none) (h_s : K P s) :
    K P (condGone s c sub detail) := by
  unfold condGone
  with_reducible repeat' (first
      | assumption | intro _ | apply k_freeLater | apply k_setFault | simp -iota only [k_mk_iff] | split
      | refine k_of_eq (by assumption) ?_)

theorem k_momentary (s : State) (c sub : Nat) (detail : Dword) (h_s : K P s) : K P (momentary s c sub detail) := by
  unfold momentary
  with_reducible repeat' (first
      | assumption | intro _ | apply k_condPresent | apply k_repeatFault | apply k_ite | simp -iota only [k_mk_iff]
      | split | refine k_of_eq (by assumption) ?_)

theorem k_raiseDue (s : State) (h_s : K P s) : K P (raiseDue s) := by
  unfold raiseDue
  with_reducible repeat' (first
      | assumption | intro _ | apply k_foldl | apply k_foldl1 | apply k_momentary | simp -iota only [k_mk_iff])

theorem k_freeAll (s : State) (h_s : K P s) : K P (freeAll s) := by
  unfold freeAll
  with_reducible repeat' (first
      | assumption | intro _ | apply k_foldl | apply k_foldl1 | apply k_freeFault | simp -iota only [k_mk_iff])

theorem k_goAll (s : State) (h_s : K P s) : K P (goAll s) := by
  unfold goAll
  with_reducible repeat' (first
      | assumption | intro _ | apply k_foldl | apply k_foldl1 | apply k_condGone | simp -iota only [k_mk_iff])

theorem k_raiseAgain (s : State) (h_s : K P s) : K P (raiseAgain s) := by
  unfold raiseAgain
  with_reducible repeat' (first
      | assumption | intro _ | apply k_foldl | apply k_foldl1 | apply k_condPresent | apply k_ite | apply k_ite1
      | simp -iota only [k_mk_iff] | split | refine k_of_eq (by assumption) ?_)

theorem k_roundEnd (s : State) (h_s : K P s) : K P (roundEnd s) := by
  unfold roundEnd
  with_reducible repeat' (first
      | assumption | apply k_raiseAgain | apply k_goAll | apply k_freeAll | apply k_ite | simp -iota only [k_mk_iff]
      | split | refine k_of_eq (by assumption) ?_)

theorem k_upTo (s : State) (t : Nat) (h_s : K P s) : K P (State.upTo s t) := by
  unfold State.upTo
  with_reducible repeat' (first
      | assumption | apply k_roundEnd | apply k_crossDue | apply k_advance | apply k_ite
      | simp -iota only [k_mk_iff] | split | refine k_of_eq (by assumption) ?_)

theorem k_condIs (s : State) (b : Bool) (c sub : Nat) (detail : Dword) (h_s : K P s) :
    K P (condIs s b c sub detail) := by
  delta condIs
  with_reducible repeat' (first
      | assumption | apply k_condGone | apply k_condPresent | apply k_ite | simp -iota only [k_mk_iff] | split
      | refine k_of_eq (by assumption) ?_)

theorem k_snapStep (n : Nat) (s : State) (h_s : K P s) : K P (snapStep n s) := by
  induction n generalizing s with
  | zero => unfold snapStep; first | exact h_s | (
      with_reducible repeat' (first
          | assumption | apply k_complete | apply k_emitFault | apply k_ite
          | simp -iota only [k_mk_iff] | split))
  | succ n ih =>
    unfold snapStep
    with_reducible repeat' (first
        | assumption | apply ih | apply k_complete | apply k_emitFault
        | apply k_ite
        | simp -iota only [k_mk_iff] | split)

theorem k_snapServe (s : State) (h_s : K P s) : K P (snapServe s) := by
  unfold snapServe
  with_reducible repeat' (first
      | assumption | intro _ | apply k_snapStep | simp -iota only [k_mk_iff])

theorem k_snapLeft (s : State) (took : Bool) (h_s : K P s) : K P (snapLeft s took) := by
  unfold snapLeft
  with_reducible repeat' (first
      | assumption | apply k_ite | simp -iota only [k_mk_iff] | split | refine k_of_eq (by assumption) ?_)

theorem k_faultCommit (s : State) (h_s : K P s) : K P (faultCommit s) := by
  unfold faultCommit
  with_reducible repeat' (first
      | assumption | intro _ | apply k_snapLeft | apply k_snapServe | apply k_fireHc0 | apply k_hwOffer
      | apply k_ite | apply k_ite1 | simp -iota only [k_mk_iff] | split | refine k_of_eq (by assumption) ?_)

theorem k_ackFault (s : State) (e role slot : Nat) (h_s : K P s) : K P (ackFault s e role slot).1 := by
  unfold ackFault
  with_reducible repeat' (first
      | assumption | apply k_freeLater | apply k_emitFault | apply k_setFault | apply k_bump | apply k_bumpBy
      | simp -iota only [k_mk_iff] | split | refine k_of_eq (by assumption) ?_)

end Sys2Proof.Laws
end

