-- ==== Sys2Proof/Laws/KeepLanes.lean ====
section
/-! SUPPORT. What the definitions of the lanes, the swath engines, the summariser, the life engine and the statistics engine do keeps the queue and the canonical form. -/

set_option linter.all false

namespace Sys2Proof.Laws

open Sys2Proof.Machine

variable {P : List Instr → Prop}

/-! Swath.lean -/

theorem k_bumpLane (s : State) (l off : Nat) (h_s : K P s) : K P (bumpLane s l off) := by
  delta bumpLane
  with_reducible repeat' (first
      | assumption | apply k_bump | apply k_bumpBy | simp -iota only [k_mk_iff])

theorem k_gather (s : State) (l n : Nat) (h_s : K P s) : K P (gather s l n) := by
  unfold gather
  with_reducible repeat' (first
      | assumption | intro _ | apply k_setLane | apply k_bump | apply k_bumpBy | apply k_ite
      | simp -iota only [k_mk_iff] | split | refine k_of_eq (by assumption) ?_)

theorem k_touch (s : State) (l n : Nat) (c : Cause) (raised : Bool := false) (h_s : K P s) :
    K P (touch s l n c raised) := by
  unfold touch
  with_reducible repeat' (first
      | assumption | intro _ | apply k_gather | apply k_raiseDue | apply k_setLane | apply k_ite
      | simp -iota only [k_mk_iff] | split | refine k_of_eq (by assumption) ?_)

theorem k_touchAll (s : State) (l : Nat) (c : Cause) (h_s : K P s) : K P (touchAll s l c) := by
  unfold touchAll
  with_reducible repeat' (first
      | assumption | intro _ | apply k_foldTo | apply k_foldTo1 | apply k_touch | simp -iota only [k_mk_iff])

theorem k_markSent (s : State) (l : Nat) (e : LevelEntry) (h_s : K P s) : K P (markSent s l e) := by
  unfold markSent
  with_reducible repeat' (first
      | assumption | intro _ | apply k_raiseDue | apply k_setLane | simp -iota only [k_mk_iff])

theorem k_levelStarted (s : State) (l : Nat) (gathered : Bool) (h_s : K P s) : K P (levelStarted s l gathered) := by
  unfold levelStarted
  with_reducible repeat' (first
      | assumption | intro _ | apply k_bumpLane | apply k_setLane | apply k_bump | apply k_bumpBy | apply k_ite
      | simp -iota only [k_mk_iff] | split | refine k_of_eq (by assumption) ?_)

theorem k_statusLevel (s : State) (l n applied : Nat) (failsafe : Bool) (h_s : K P s) :
    K P (statusLevel s l n applied failsafe) := by
  unfold statusLevel
  with_reducible repeat' (first
      | assumption | intro _ | apply k_touch | apply k_bumpLane | apply k_setLane | apply k_bump | apply k_bumpBy
      | apply k_ite | simp -iota only [k_mk_iff] | split | refine k_of_eq (by assumption) ?_)

theorem k_setEvent (s : State) (l i : Nat) (h_s : K P s) : K P (setEvent s l i) := by
  unfold setEvent
  with_reducible repeat' (first
      | assumption | intro _ | apply k_foldl | apply k_foldl1 | apply k_setLane | apply k_ite
      | simp -iota only [k_mk_iff] | split | refine k_of_eq (by assumption) ?_)

theorem k_touchBases (old s : State) (l : Nat) (h_old : K P old) (h_s : K P s) : K P (touchBases old s l) := by
  unfold touchBases
  with_reducible repeat' (first
      | assumption | intro _ | apply k_foldTo | apply k_foldTo1 | apply k_touch | apply k_ite
      | simp -iota only [k_mk_iff] | split | refine k_of_eq (by assumption) ?_)

theorem k_setBases (s : State) (l : Nat) (h_s : K P s) : K P (setBases s l) := by
  unfold setBases
  with_reducible repeat' (first
      | assumption | intro _ | apply k_foldl | apply k_foldl1 | apply k_touchBases | apply k_setEvent
      | apply k_setLane | apply k_ite | apply k_ite1 | simp -iota only [k_mk_iff] | split
      | refine k_of_eq (by assumption) ?_)

theorem k_calendarServe (s : State) (l : Nat) (h_s : K P s) : K P (calendarServe s l) := by
  unfold calendarServe
  with_reducible repeat' (first
      | assumption | intro _ | apply k_foldl | apply k_foldl1 | apply k_touchBases | apply k_setEvent
      | apply k_setLane | apply k_ite | apply k_ite1 | simp -iota only [k_mk_iff] | split
      | refine k_of_eq (by assumption) ?_)

theorem k_sunServe (s : State) (l : Nat) (h_s : K P s) : K P (sunServe s l) := by
  unfold sunServe
  with_reducible repeat' (first
      | assumption | intro _ | apply k_setReg | apply k_setRegAt | apply k_ite | simp -iota only [k_mk_iff] | split
      | refine k_of_eq (by assumption) ?_)

theorem k_nameNode (s : State) (l dir n : Nat) (h_s : K P s) : K P (nameNode s l dir n) := by
  unfold nameNode
  with_reducible repeat' (first
      | assumption | intro _ | apply k_touch | apply k_bumpLane | apply k_bankAdd | apply k_setLane | apply k_bump
      | apply k_bumpBy | apply k_ite | simp -iota only [k_mk_iff] | split | refine k_of_eq (by assumption) ?_)

theorem k_nameExits (s : State) (l hop : Nat) (ks : List Nat) (h_s : K P s) : K P (nameExits s l hop ks) := by
  unfold nameExits
  with_reducible repeat' (first
      | assumption | intro _ | apply k_foldl | apply k_foldl1 | apply k_bumpLane | apply k_fire | apply k_setLane
      | apply k_bump | apply k_bumpBy | apply k_ite | simp -iota only [k_mk_iff] | split
      | refine k_of_eq (by assumption) ?_)

theorem k_raiseSet (s : State) (l dir hop : Nat) (set : List Nat) (h_s : K P s) : K P (raiseSet s l dir hop set) := by
  unfold raiseSet
  with_reducible repeat' (first
      | assumption | intro _ | apply k_foldl | apply k_foldl1 | apply k_nameExits | apply k_nameNode
      | simp -iota only [k_mk_iff])

theorem k_matchPred (s : State) (l n t dir : Nat) (h_s : K P s) : K P (matchPred s l n t dir) := by
  unfold matchPred
  with_reducible repeat' (first
      | assumption | intro _ | apply k_bankAdd | apply k_setLane | apply k_ite | simp -iota only [k_mk_iff] | split
      | refine k_of_eq (by assumption) ?_)

theorem k_swathDet (s : State) (l n t cls : Nat) (h_s : K P s) : K P (swathDet s l n t cls) := by
  unfold swathDet
  with_reducible repeat' (first
      | assumption | intro _ | apply k_matchPred | apply k_raiseSet | apply k_bumpLane | apply k_bankAdd
      | apply k_setLane | apply k_bump | apply k_bumpBy | apply k_ite | simp -iota only [k_mk_iff] | split
      | refine k_of_eq (by assumption) ?_)

theorem k_entryServe (s : State) (l k : Nat) (h_s : K P s) : K P (entryServe s l k) := by
  unfold entryServe
  with_reducible repeat' (first
      | assumption | intro _ | apply k_raiseSet | apply k_bumpLane | apply k_tiEnd | apply k_setLane | apply k_bump
      | apply k_bumpBy | apply k_ite | simp -iota only [k_mk_iff] | split | refine k_of_eq (by assumption) ?_)

theorem k_holdExpire (s : State) (l : Nat) (h_s : K P s) : K P (holdExpire s l) := by
  unfold holdExpire
  with_reducible repeat' (first
      | assumption | intro _ | apply k_foldl | apply k_foldl1 | apply k_fadeEnd | apply k_touch | apply k_setLane
      | apply k_ite | apply k_ite1 | simp -iota only [k_mk_iff] | split | refine k_of_eq (by assumption) ?_)

theorem k_fadeEnd (s : State) (l : Nat) (h_s : K P s) : K P (fadeEnd s l) := by
  unfold fadeEnd
  with_reducible repeat' (first
      | assumption | intro _ | apply k_foldl | apply k_foldl1 | apply k_setLane | apply k_ite | apply k_ite1
      | simp -iota only [k_mk_iff] | split | refine k_of_eq (by assumption) ?_)

theorem k_overrideServe (s : State) (l : Nat) (h_s : K P s) : K P (overrideServe s l) := by
  unfold overrideServe
  with_reducible repeat' (first
      | assumption | intro _ | apply k_foldTo | apply k_foldTo1 | apply k_touchAll | apply k_touch | apply k_setReg
      | apply k_setRegAt | apply k_ite | simp -iota only [k_mk_iff] | split | refine k_of_eq (by assumption) ?_)

theorem k_ovrWritten (s : State) (l n : Nat) (old new : Word) (h_s : K P s) : K P (ovrWritten s l n old new) := by
  unfold ovrWritten
  with_reducible repeat' (first
      | assumption | apply k_touchAll | apply k_touch | apply k_ite | simp -iota only [k_mk_iff] | split
      | refine k_of_eq (by assumption) ?_)

theorem k_limitWritten (s : State) (l : Nat) (h_s : K P s) : K P (limitWritten s l) := by
  unfold limitWritten
  with_reducible repeat' (first
      | assumption | apply k_setReg | apply k_setRegAt | simp -iota only [k_mk_iff])

theorem k_setCap (s : State) (l n cap : Nat) (h_s : K P s) : K P (setCap s l n cap) := by
  unfold setCap
  with_reducible repeat' (first
      | assumption | apply k_touch | apply k_setReg | apply k_setRegAt | apply k_ite | simp -iota only [k_mk_iff]
      | split | refine k_of_eq (by assumption) ?_)

/-! Wave.lean -/

theorem k_judgeCond (s : State) (now : Bool) (c sub : Nat) (detail : Dword) (h_s : K P s) :
    K P (judgeCond s now c sub detail) := by
  unfold judgeCond
  with_reducible repeat' (first
      | assumption | apply k_condGone | apply k_condPresent | apply k_ite | simp -iota only [k_mk_iff] | split
      | refine k_of_eq (by assumption) ?_)

theorem k_judgeFeeder (s : State) (l w : Nat) (h_s : K P s) : K P (judgeFeeder s l w) := by
  unfold judgeFeeder
  with_reducible repeat' (first
      | assumption | intro _ | apply k_foldl | apply k_foldl1 | apply k_judgeCond | apply k_setLane | apply k_ite
      | apply k_ite1 | simp -iota only [k_mk_iff] | split | refine k_of_eq (by assumption) ?_)

theorem k_judgeLamp (s : State) (l n k : Nat) (now : Bool) (lev : Nat) (h_s : K P s) :
    K P (judgeLamp s l n k now lev) := by
  unfold judgeLamp
  with_reducible repeat' (first
      | assumption | apply k_judgeCond | apply k_ite | simp -iota only [k_mk_iff] | split
      | refine k_of_eq (by assumption) ?_)

theorem k_judgeSettled (s : State) (l n lev : Nat) (f : Figures) (h_s : K P s) : K P (judgeSettled s l n lev f) := by
  unfold judgeSettled
  with_reducible repeat' (first
      | assumption | intro _ | apply k_foldl | apply k_foldl1 | apply k_judgeLamp | apply k_setWave
      | apply k_setLane | apply k_ite | simp -iota only [k_mk_iff] | split | refine k_of_eq (by assumption) ?_)

theorem k_judgeCycling (s : State) (l n lev : Nat) (h_s : K P s) : K P (judgeCycling s l n lev) := by
  unfold judgeCycling
  with_reducible repeat' (first
      | assumption | intro _ | apply k_judgeLamp | apply k_setWave | apply k_setLane | apply k_ite
      | simp -iota only [k_mk_iff] | split | refine k_of_eq (by assumption) ?_)

theorem k_fileSummary (s : State) (l n : Nat) (ws : List Dword) (h_s : K P s) : K P (fileSummary s l n ws) := by
  unfold fileSummary
  with_reducible repeat' (first
      | assumption | intro _ | apply k_hwTry | apply k_countWait | apply k_setLane | apply k_ite
      | simp -iota only [k_mk_iff] | split | refine k_of_eq (by assumption) ?_)

theorem k_drainSums (s : State) (l : Nat) (h_s : K P s) : K P (drainSums s l) := by
  unfold drainSums
  with_reducible repeat' (first
      | assumption | intro _ | apply k_foldl | apply k_foldl1 | apply k_hwTry | apply k_setLane | apply k_ite
      | apply k_ite1 | simp -iota only [k_mk_iff] | split | refine k_of_eq (by assumption) ?_)

theorem k_takeDropouts (s : State) (l n w : Nat) (h_s : K P s) : K P (takeDropouts s l n w) := by
  unfold takeDropouts
  with_reducible repeat' (first
      | assumption | intro _ | apply k_setWave | apply k_setLane | apply k_ite | apply k_ite1
      | simp -iota only [k_mk_iff] | split | refine k_of_eq (by assumption) ?_)

theorem k_summarise (s : State) (l n w : Nat) (h_s : K P s) : K P (summarise s l n w) := by
  unfold summarise
  with_reducible repeat' (first
      | assumption | intro _ | apply k_fileSummary | apply k_judgeCycling | apply k_judgeSettled | apply k_bumpLane
      | apply k_setWave | apply k_setLane | apply k_bump | apply k_bumpBy | apply k_ite | simp -iota only [k_mk_iff]
      | split | refine k_of_eq (by assumption) ?_)

theorem k_startWindows (s : State) (l n : Nat) (h_s : K P s) : K P (startWindows s l n) := by
  unfold startWindows
  with_reducible repeat' (first
      | assumption | intro _ | apply k_setWave | apply k_setLane | apply k_ite | simp -iota only [k_mk_iff] | split
      | refine k_of_eq (by assumption) ?_)

theorem k_endWindow (s : State) (l n : Nat) (h_s : K P s) : K P (endWindow s l n) := by
  unfold endWindow
  with_reducible repeat' (first
      | assumption | intro _ | apply k_summarise | apply k_takeDropouts | apply k_judgeCycling | apply k_judgeFeeder
      | apply k_bumpLane | apply k_setWave | apply k_setLane | apply k_bump | apply k_bumpBy | apply k_ite
      | apply k_ite1 | simp -iota only [k_mk_iff] | split | refine k_of_eq (by assumption) ?_)

theorem k_windowTimeout (s : State) (l n : Nat) (h_s : K P s) : K P (windowTimeout s l n) := by
  unfold windowTimeout
  with_reducible repeat' (first
      | assumption | apply k_endWindow | apply k_startWindows | apply k_ite | simp -iota only [k_mk_iff] | split
      | refine k_of_eq (by assumption) ?_)

theorem k_takeCurrent (s : State) (l n : Nat) (p : List Byte) (h_s : K P s) : K P (takeCurrent s l n p) := by
  unfold takeCurrent
  with_reducible repeat' (first
      | assumption | intro _ | apply k_foldTo | apply k_foldTo1 | apply k_endWindow | apply k_setWave
      | apply k_setLane | apply k_ite | simp -iota only [k_mk_iff] | split | refine k_of_eq (by assumption) ?_)

theorem k_noteStatus (s : State) (l n supply : Nat) (failsafe : Bool) (h_s : K P s) :
    K P (noteStatus s l n supply failsafe) := by
  unfold noteStatus
  with_reducible repeat' (first
      | assumption | intro _ | apply k_setWave | apply k_setLane | simp -iota only [k_mk_iff])

theorem k_lampFresh (s : State) (l n : Nat) (h_s : K P s) : K P (lampFresh s l n) := by
  unfold lampFresh
  with_reducible repeat' (first
      | assumption | intro _ | apply k_foldl | apply k_foldl1 | apply k_condGone | apply k_setWave | apply k_setLane
      | apply k_ite | simp -iota only [k_mk_iff] | split | refine k_of_eq (by assumption) ?_)

theorem k_cyclingServe (s : State) (l n : Nat) (h_s : K P s) : K P (cyclingServe s l n) := by
  unfold cyclingServe
  with_reducible repeat' (first
      | assumption | apply k_judgeCycling | apply k_ite | simp -iota only [k_mk_iff] | split
      | refine k_of_eq (by assumption) ?_)

theorem k_tdrResult (s : State) (l n : Nat) (v : Word) (run : Bool) (h_s : K P s) : K P (tdrResult s l n v run) := by
  unfold tdrResult
  with_reducible repeat' (first
      | assumption | apply k_bumpLane | apply k_condIs | apply k_condGone | apply k_condPresent | apply k_bump
      | apply k_bumpBy | apply k_ite | simp -iota only [k_mk_iff] | split | refine k_of_eq (by assumption) ?_)

theorem k_markMissing (s : State) (l : Nat) (h_s : K P s) : K P (markMissing s l) := by
  unfold markMissing
  with_reducible repeat' (first
      | assumption | intro _ | apply k_foldl | apply k_foldl1 | apply k_setLane | apply k_ite | apply k_ite1
      | simp -iota only [k_mk_iff] | split | refine k_of_eq (by assumption) ?_)

theorem k_judgeMissing (s : State) (l a : Nat) (covered : Bool) (h_s : K P s) : K P (judgeMissing s l a covered) := by
  unfold judgeMissing
  with_reducible repeat' (first
      | assumption | apply k_judgeCond | apply k_ite | simp -iota only [k_mk_iff] | split
      | refine k_of_eq (by assumption) ?_)

theorem k_judgeLinks (s : State) (l : Nat) (h_s : K P s) : K P (judgeLinks s l) := by
  unfold judgeLinks
  with_reducible repeat' (first
      | assumption | intro _ | apply k_foldl | apply k_foldl1 | apply k_judgeMissing | apply k_markMissing
      | apply k_judgeCond | apply k_condPresent | apply k_setLane | apply k_ite | apply k_ite1
      | simp -iota only [k_mk_iff] | split | refine k_of_eq (by assumption) ?_)

/-! Lane.lean -/

theorem k_nodeChange (s : State) (l : Nat) (sweeps : Bool) (h_s : K P s) : K P (nodeChange s l sweeps) := by
  unfold nodeChange
  with_reducible repeat' (first
      | assumption | apply k_fire | apply k_ite | simp -iota only [k_mk_iff] | split
      | refine k_of_eq (by assumption) ?_)

theorem k_makeAbsent (s : State) (l n : Nat) (sweeps : Bool := false) (h_s : K P s) :
    K P (makeAbsent s l n sweeps) := by
  unfold makeAbsent
  with_reducible repeat' (first
      | assumption | intro _ | apply k_nodeChange | apply k_setLane | apply k_ite | simp -iota only [k_mk_iff]
      | split | refine k_of_eq (by assumption) ?_)

theorem k_quarantine (s : State) (l k : Nat) (h_s : K P s) : K P (quarantine s l k) := by
  unfold quarantine
  with_reducible repeat' (first
      | assumption | intro _ | apply k_setLane | simp -iota only [k_mk_iff])

theorem k_streamAnswer (s : State) (l key n code : Nat) (h_s : K P s) : K P (streamAnswer s l key n code) := by
  unfold streamAnswer
  with_reducible repeat' (first
      | assumption | intro _ | apply k_mismatch | apply k_complete | apply k_setLane | apply k_ite
      | simp -iota only [k_mk_iff] | split | refine k_of_eq (by assumption) ?_)

theorem k_setLaneSt (s : State) (l : Nat) (st : LaneSt) (h_s : K P s) : K P (setLaneSt s l st) := by
  unfold setLaneSt
  with_reducible repeat' (first
      | assumption | intro _ | apply k_fire1 | apply k_fire | apply k_setLane | apply k_ite
      | simp -iota only [k_mk_iff] | split | refine k_of_eq (by assumption) ?_)

theorem k_enumFinish (s : State) (l : Nat) (e : EnumRun) (h_s : K P s) : K P (enumFinish s l e) := by
  unfold enumFinish
  with_reducible repeat' (first
      | assumption | intro _ | apply k_setLaneSt | apply k_judgeLinks | apply k_complete | apply k_setLane
      | apply k_ite | apply k_ite1 | simp -iota only [k_mk_iff] | split | refine k_of_eq (by assumption) ?_)

theorem k_enqueue (s : State) (l : Nat) (f : DownFrame) (h_s : K P s) : K P (enqueue s l f) := by
  unfold enqueue
  with_reducible repeat' (first
      | assumption | intro _ | apply k_setLane | simp -iota only [k_mk_iff])

theorem k_enumPump (s : State) (l : Nat) (h_s : K P s) : K P (enumPump s l) := by
  unfold enumPump
  with_reducible repeat' (first
      | assumption | intro _ | apply k_foldl | apply k_foldl1 | apply k_enqueue | apply k_enumFinish
      | apply k_setLane | apply k_ite | apply k_ite1 | simp -iota only [k_mk_iff] | split
      | refine k_of_eq (by assumption) ?_)

theorem k_enumEnd (s : State) (l n : Nat) (ok : Bool) (h_s : K P s) : K P (enumEnd s l n ok) := by
  unfold enumEnd
  with_reducible repeat' (first
      | assumption | intro _ | apply k_enumPump | apply k_makeAbsent | apply k_touch | apply k_setLane | apply k_ite
      | simp -iota only [k_mk_iff] | split | refine k_of_eq (by assumption) ?_)

theorem k_cmdDone (s : State) (l : Nat) (c : Cmd) (code : Nat) (rsp : List Byte) (h_s : K P s) :
    K P (cmdDone s l c code rsp) := by
  unfold cmdDone
  with_reducible repeat' (first
      | assumption | intro _ | apply k_enumEnd | apply k_streamAnswer | apply k_judgeLinks | apply k_complete
      | apply k_setLane | apply k_ite | simp -iota only [k_mk_iff] | split | refine k_of_eq (by assumption) ?_)

theorem k_cmdsMismatch (s : State) (l n : Nat) (h_s : K P s) : K P (cmdsMismatch s l n) := by
  unfold cmdsMismatch
  with_reducible repeat' (first
      | assumption | intro _ | apply k_foldl | apply k_foldl1 | apply k_cmdDone | apply k_quarantine
      | apply k_setLane | apply k_ite | apply k_ite1 | simp -iota only [k_mk_iff] | split
      | refine k_of_eq (by assumption) ?_)

theorem k_cmdsDropped (s : State) (l code : Nat) (h_s : K P s) : K P (cmdsDropped s l code) := by
  unfold cmdsDropped
  with_reducible repeat' (first
      | assumption | intro _ | apply k_foldl | apply k_foldl1 | apply k_cmdDone | apply k_setLane
      | simp -iota only [k_mk_iff])

theorem k_startFrame (s : State) (l : Nat) (f : DownFrame) (h_s : K P s) : K P (startFrame s l f) := by
  unfold startFrame
  with_reducible repeat' (first
      | assumption | intro _ | apply k_foldl | apply k_foldl1 | apply k_cmdsMismatch | apply k_makeAbsent
      | apply k_nodeChange | apply k_levelStarted | apply k_markSent | apply k_bumpLane | apply k_tiEnd
      | apply k_setLane | apply k_bump | apply k_bumpBy | apply k_ite | simp -iota only [k_mk_iff] | split
      | refine k_of_eq (by assumption) ?_)

theorem k_startNext (s : State) (l : Nat) (h_s : K P s) : K P (startNext s l) := by
  unfold startNext
  with_reducible repeat' (first
      | assumption | intro _ | apply k_startFrame | apply k_setLane | apply k_ite | simp -iota only [k_mk_iff]
      | split | refine k_of_eq (by assumption) ?_)

theorem k_frameDone (s : State) (l : Nat) (h_s : K P s) : K P (frameDone s l) := by
  unfold frameDone
  with_reducible repeat' (first
      | assumption | intro _ | apply k_startNext | apply k_cmdDone | apply k_quarantine | apply k_setLane
      | simp -iota only [k_mk_iff] | split | refine k_of_eq (by assumption) ?_)

theorem k_cmdStart (s : State) (l : Nat) (h_s : K P s) : K P (cmdStart s l) := by
  unfold cmdStart
  with_reducible repeat' (first
      | assumption | intro _ | apply k_startFrame | apply k_cmdDone | apply k_setLane | apply k_ite
      | simp -iota only [k_mk_iff] | split | refine k_of_eq (by assumption) ?_)

theorem k_cmdExpire (s : State) (l k : Nat) (h_s : K P s) : K P (cmdExpire s l k) := by
  unfold cmdExpire
  with_reducible repeat' (first
      | assumption | apply k_startNext | apply k_cmdDone | apply k_quarantine | apply k_bumpLane | apply k_bump
      | apply k_bumpBy | apply k_ite | simp -iota only [k_mk_iff] | split | refine k_of_eq (by assumption) ?_)

theorem k_tagFree (s : State) (l k : Nat) (h_s : K P s) : K P (tagFree s l k) := by
  unfold tagFree
  with_reducible repeat' (first
      | assumption | intro _ | apply k_setLane | apply k_ite | simp -iota only [k_mk_iff] | split
      | refine k_of_eq (by assumption) ?_)

theorem k_raiseSend (s : State) (l : Nat) (h_s : K P s) : K P (raiseSend s l) := by
  unfold raiseSend
  with_reducible repeat' (first
      | assumption | intro _ | apply k_startNext | apply k_startFrame | apply k_setLane | apply k_ite
      | simp -iota only [k_mk_iff] | split | refine k_of_eq (by assumption) ?_)

theorem k_catchupSend (s : State) (l : Nat) (h_s : K P s) : K P (catchupSend s l) := by
  unfold catchupSend
  with_reducible repeat' (first
      | assumption | intro _ | apply k_startNext | apply k_startFrame | apply k_setLane | apply k_ite
      | simp -iota only [k_mk_iff] | split | refine k_of_eq (by assumption) ?_)

theorem k_gatherSend (s : State) (l : Nat) (h_s : K P s) : K P (gatherSend s l) := by
  unfold gatherSend
  with_reducible repeat' (first
      | assumption | intro _ | apply k_startFrame | apply k_setLane | apply k_ite | simp -iota only [k_mk_iff]
      | split | refine k_of_eq (by assumption) ?_)

theorem k_gatherClose (s : State) (l : Nat) (h_s : K P s) : K P (gatherClose s l) := by
  unfold gatherClose
  with_reducible repeat' (first
      | assumption | intro _ | apply k_foldl | apply k_foldl1 | apply k_gatherSend | apply k_gather
      | apply k_raiseDue | apply k_setLane | apply k_ite | simp -iota only [k_mk_iff] | split
      | refine k_of_eq (by assumption) ?_)

theorem k_gatherRelease (s : State) (l : Nat) (h_s : K P s) : K P (gatherRelease s l) := by
  unfold gatherRelease
  with_reducible repeat' (first
      | assumption | apply k_gatherSend | apply k_ite | simp -iota only [k_mk_iff] | split
      | refine k_of_eq (by assumption) ?_)

theorem k_freeUnits (s : State) (l : Nat) (det : Bool) (n : Nat) (h_s : K P s) : K P (freeUnits s l det n) := by
  unfold freeUnits
  with_reducible repeat' (first
      | assumption | intro _ | apply k_setLane | apply k_ite | simp -iota only [k_mk_iff] | split
      | refine k_of_eq (by assumption) ?_)

theorem k_creditServe (s : State) (l : Nat) (h_s : K P s) : K P (creditServe s l) := by
  unfold creditServe
  with_reducible repeat' (first
      | assumption | apply k_startNext | apply k_enqueue | apply k_ite | simp -iota only [k_mk_iff] | split
      | refine k_of_eq (by assumption) ?_)

theorem k_fileFrame (s : State) (l : Nat) (f : HeldFrame) (h_s : K P s) : K P (fileFrame s l f).1 := by
  unfold fileFrame
  with_reducible repeat' (first
      | assumption | apply k_hwTry | apply k_fire1 | apply k_fire | simp -iota only [k_mk_iff] | split
      | refine k_of_eq (by assumption) ?_)

theorem k_takeHead (s : State) (l : Nat) (f : HeldFrame) (h_s : K P s) : ∀ t, takeHead s l f = some t → K P t := by
  intro t ht
  unfold takeHead at ht
  repeat' split at ht
  all_goals first | (cases ht; done) | (injection ht with ht; subst ht)
  all_goals with_reducible repeat' (first
      | assumption | apply k_lostItems | apply k_takeCurrent | apply k_ite | simp -iota only [k_mk_iff])

theorem k_bulkHolds (s : State) (l : Nat) (h_s : K P s) : K P (bulkHolds s l) := by
  unfold bulkHolds
  with_reducible repeat' (first
      | assumption | intro _ | apply k_setLane | simp -iota only [k_mk_iff] | split
      | refine k_of_eq (by assumption) ?_)

theorem k_bulkMoves (s : State) (l units : Nat) (h_s : K P s) : K P (bulkMoves s l units) := by
  unfold bulkMoves
  with_reducible repeat' (first
      | assumption | intro _ | apply k_freeUnits | apply k_setLane | simp -iota only [k_mk_iff])

theorem k_drainBulk (n : Nat) (s : State) (l : Nat) (h_s : K P s) : K P (drainBulk n s l) := by
  induction n generalizing s with
  | zero => exact h_s
  | succ n ih =>
    unfold drainBulk
    with_reducible repeat' (first
        | assumption | refine k_takeHead _ _ _ ?_ _ (by assumption)
        | apply ih | apply k_setLane | apply k_fileFrame | apply k_bulkMoves | apply k_bulkHolds | apply k_countWait
        | apply k_ite | apply k_ite1 | apply k_ites | apply k_itee | refine k_of_eq (by assumption) ?_
        | simp -iota only [k_mk_iff] | split)

theorem k_drainDet (n : Nat) (s : State) (l : Nat) (h_s : K P s) : K P (drainDet n s l) := by
  induction n generalizing s with
  | zero => exact h_s
  | succ n ih =>
    unfold drainDet
    with_reducible repeat' (first
        | assumption | refine k_takeHead _ _ _ ?_ _ (by assumption)
        | apply ih | apply k_setLane | apply k_fileFrame | apply k_ite | apply k_ite1 | apply k_ites | apply k_itee
        | refine k_of_eq (by assumption) ?_ | simp -iota only [k_mk_iff] | split)

theorem k_drainLane (s : State) (l : Nat) (h_s : K P s) : K P (drainLane s l) := by
  unfold drainLane
  with_reducible repeat' (first
      | assumption | apply k_drainDet | apply k_drainBulk | apply k_drainSums | simp -iota only [k_mk_iff])

theorem k_stallTimer (s : State) (l : Nat) (h_s : K P s) : K P (stallTimer s l) := by
  unfold stallTimer
  with_reducible repeat' (first
      | assumption | intro _ | apply k_setLane | apply k_bumpBy | apply k_ite | simp -iota only [k_mk_iff] | split
      | refine k_of_eq (by assumption) ?_)

theorem k_enumStart (s : State) (l : Nat) (sweep forced : Bool) (order : Option Desc) (hop : Option Nat) (h_s : K P s) :
    K P (enumStart s l sweep forced order hop) := by
  unfold enumStart
  with_reducible repeat' (first
      | assumption | intro _ | apply k_startNext | apply k_enqueue | apply k_setLane | apply k_ite
      | simp -iota only [k_mk_iff] | split | refine k_of_eq (by assumption) ?_)

theorem k_enumDrop (s : State) (l : Nat) (h_s : K P s) : K P (enumDrop s l) := by
  unfold enumDrop
  with_reducible repeat' (first
      | assumption | intro _ | apply k_tiEnd | apply k_setLane | apply k_ite | simp -iota only [k_mk_iff] | split
      | refine k_of_eq (by assumption) ?_)

theorem k_sweepStart (s : State) (l : Nat) (hop : Option Nat) (h_s : K P s) : K P (sweepStart s l hop) := by
  unfold sweepStart
  with_reducible repeat' (first
      | assumption | apply k_enumStart | apply k_ite | simp -iota only [k_mk_iff] | split
      | refine k_of_eq (by assumption) ?_)

theorem k_sweepTimer (s : State) (l : Nat) (h_s : K P s) : K P (sweepTimer s l) := by
  unfold sweepTimer
  with_reducible repeat' (first
      | assumption | intro _ | apply k_sweepStart | apply k_setLane | apply k_ite | simp -iota only [k_mk_iff]
      | split | refine k_of_eq (by assumption) ?_)

theorem k_sweepNow (s : State) (l : Nat) (h_s : K P s) : K P (sweepNow s l) := by
  unfold sweepNow
  with_reducible repeat' (first
      | assumption | apply k_sweepStart | apply k_tiTaken | apply k_tiEnd | apply k_ite | simp -iota only [k_mk_iff]
      | split | refine k_of_eq (by assumption) ?_)

theorem k_syncNow (s : State) (l : Nat) (h_s : K P s) : K P (syncNow s l) := by
  unfold syncNow
  with_reducible repeat' (first
      | assumption | intro _ | apply k_startNext | apply k_tiTaken | apply k_tiEnd | apply k_setLane | apply k_ite
      | simp -iota only [k_mk_iff] | split | refine k_of_eq (by assumption) ?_)

theorem k_syncServe (s : State) (l : Nat) (h_s : K P s) : K P (syncServe s l) := by
  unfold syncServe
  with_reducible repeat' (first
      | assumption | intro _ | apply k_startNext | apply k_setLane | apply k_ite | simp -iota only [k_mk_iff]
      | split | refine k_of_eq (by assumption) ?_)

theorem k_judgeSerial (s : State) (l : Nat) (e : EnumRun) (serial : Dword) (acc : List Nat × List (Nat × Nat)) (h_s : K P s) :
    K P (judgeSerial s l e serial acc).1 := by
  unfold judgeSerial
  with_reducible repeat' (first
      | assumption | intro _ | apply k_bumpLane | apply k_setLane | apply k_bump | apply k_bumpBy | apply k_ite
      | apply k_ite1 | simp -iota only [k_mk_iff] | split | refine k_of_eq (by assumption) ?_)

theorem k_enumClose (s : State) (l : Nat) (h_s : K P s) : K P (enumClose s l) := by
  unfold enumClose
  with_reducible repeat' (first
      | assumption | intro _ | apply k_foldl | apply k_foldl1 | apply k_judgeSerial | apply k_startNext
      | apply k_enumPump | apply k_makeAbsent | apply k_setLane | apply k_ite | apply k_ite1
      | simp -iota only [k_mk_iff] | split | refine k_of_eq (by assumption) ?_)

theorem k_releasesEnd (s : State) (l : Nat) (p : ReleaseWait → Bool) (code : Nat) (h_s : K P s) :
    K P (releasesEnd s l p code) := by
  unfold releasesEnd
  with_reducible repeat' (first
      | assumption | intro _ | apply k_foldl | apply k_foldl1 | apply k_complete | apply k_setLane
      | simp -iota only [k_mk_iff])

theorem k_enumReport (s : State) (l : Nat) (hdr : Dword) (p : List Byte) (h_s : K P s) :
    K P (enumReport s l hdr p) := by
  unfold enumReport
  with_reducible repeat' (first
      | assumption | intro _ | apply k_releasesEnd | apply k_setLane | apply k_ite | simp -iota only [k_mk_iff]
      | split | refine k_of_eq (by assumption) ?_)

theorem k_enumAck (s : State) (l n : Nat) (p : List Byte) (h_s : K P s) : K P (enumAck s l n p) := by
  unfold enumAck
  with_reducible repeat' (first
      | assumption | intro _ | apply k_startNext | apply k_enqueue | apply k_setLane | simp -iota only [k_mk_iff]
      | split | refine k_of_eq (by assumption) ?_)

theorem k_enumDelayAck (s : State) (l n : Nat) (h_s : K P s) : K P (enumDelayAck s l n) := by
  unfold enumDelayAck
  with_reducible repeat' (first
      | assumption | intro _ | apply k_startWindows | apply k_bumpLane | apply k_setLane | apply k_bump
      | apply k_bumpBy | apply k_ite | simp -iota only [k_mk_iff] | split | refine k_of_eq (by assumption) ?_)

theorem k_enumAckTimeout (s : State) (l n : Nat) (h_s : K P s) : K P (enumAckTimeout s l n) := by
  unfold enumAckTimeout
  with_reducible repeat' (first
      | assumption | apply k_startNext | apply k_enumEnd | apply k_bumpLane | apply k_bump | apply k_bumpBy
      | apply k_ite | simp -iota only [k_mk_iff] | split | refine k_of_eq (by assumption) ?_)

theorem k_releaseTimeout (s : State) (l n : Nat) (h_s : K P s) : K P (releaseTimeout s l n) := by
  unfold releaseTimeout
  with_reducible repeat' (first
      | assumption | intro _ | apply k_releasesEnd | simp -iota only [k_mk_iff])

theorem k_rxCounts (s : State) (l type : Nat) (h : Dword) (h_s : K P s) : K P (rxCounts s l type h) := by
  unfold rxCounts
  with_reducible repeat' (first
      | assumption | intro _ | apply k_bumpLane | apply k_setLane | apply k_bump | apply k_bumpBy | apply k_ite
      | simp -iota only [k_mk_iff] | split | refine k_of_eq (by assumption) ?_)

theorem k_fileBulk (s : State) (l : Nat) (f : HeldFrame) (h_s : K P s) : K P (fileBulk s l f) := by
  unfold fileBulk
  with_reducible repeat' (first
      | assumption | intro _ | apply k_drainLane | apply k_setLane | simp -iota only [k_mk_iff])

theorem k_rxDet (s : State) (l : Nat) (f : HeldFrame) (h_s : K P s) : K P (rxDet s l f) := by
  unfold rxDet
  with_reducible repeat' (first
      | assumption | intro _ | apply k_drainLane | apply k_freeUnits | apply k_swathDet | apply k_bumpLane
      | apply k_setLane | apply k_bump | apply k_bumpBy | apply k_ite | simp -iota only [k_mk_iff] | split
      | refine k_of_eq (by assumption) ?_)

theorem k_rxStatus (s : State) (l : Nat) (f : HeldFrame) (h_s : K P s) : K P (rxStatus s l f) := by
  unfold rxStatus
  with_reducible repeat' (first
      | assumption | intro _ | apply k_fileBulk | apply k_freeUnits | apply k_judgeLinks | apply k_noteStatus
      | apply k_statusLevel | apply k_setLane | apply k_ite | simp -iota only [k_mk_iff] | split
      | refine k_of_eq (by assumption) ?_)

theorem k_rxRsp (s : State) (l : Nat) (f : HeldFrame) (h_s : K P s) : K P (rxRsp s l f) := by
  unfold rxRsp
  with_reducible repeat' (first
      | assumption | intro _ | apply k_fileBulk | apply k_freeUnits | apply k_startNext | apply k_cmdDone
      | apply k_quarantine | apply k_tdrResult | apply k_bumpLane | apply k_bump | apply k_bumpBy | apply k_ite
      | simp -iota only [k_mk_iff] | split | refine k_of_eq (by assumption) ?_)

theorem k_rxTake (s : State) (l type : Nat) (f : RxFrame) (h_s : K P s) : K P (rxTake s l type f) := k_setLane h_s _ _

theorem k_rxGo (s : State) (l type : Nat) (f : RxFrame) (h_s : K P s) : K P (rxGo s l type f) := by
  unfold rxGo
  with_reducible repeat' (first
      | assumption | intro _ | apply k_rxRsp | apply k_rxStatus | apply k_rxDet | apply k_fileBulk
      | apply k_rxCounts | apply k_enumDelayAck | apply k_enumAck | apply k_enumReport | apply k_freeUnits
      | apply k_setLane | apply k_ite | simp -iota only [k_mk_iff] | split | refine k_of_eq (by assumption) ?_)

theorem k_rxPoured (s : State) (l : Nat) (f : RxFrame) (h_s : K P s) : K P (rxPoured s l f).1 :=
  k_fifoPour _ _ _ _ (k_bumpLane _ _ _ h_s)

theorem k_rxJudge (s : State) (l type : Nat) (f : RxFrame) (h_s : K P s) : K P (rxJudge s l type f) := by
  unfold rxJudge
  split
  · exact k_bumpLane _ _ _ h_s
  · dsimp only
    have h := k_rxTake s l type f h_s
    generalize rxTake s l type f = u at h
    split
    · exact k_freeUnits _ _ _ _ (k_bumpLane _ _ _ h)
    · exact k_rxGo _ _ _ _ h

theorem k_receive (s : State) (l type : Nat) (f : RxFrame) (h_s : K P s) : K P (receive s l type f) := by
  unfold receive
  split
  · exact h_s
  · exact k_rxJudge _ _ _ _ (k_rxPoured _ _ _ h_s)

theorem k_laneQuiet (s : State) (l code : Nat) (h_s : K P s) : K P (laneQuiet s l code) := by
  unfold laneQuiet
  with_reducible repeat' (first
      | assumption | intro _ | apply k_foldl | apply k_foldl1 | apply k_linkUp | apply k_enumDrop
      | apply k_cmdsDropped | apply k_complete | apply k_tiEnd | apply k_setLane | apply k_ite
      | simp -iota only [k_mk_iff] | split | refine k_of_eq (by assumption) ?_)

theorem k_enterLinking (s : State) (l : Nat) (h_s : K P s) : K P (enterLinking s l) := by
  unfold enterLinking
  with_reducible repeat' (first
      | assumption | intro _ | apply k_setLaneSt | apply k_setLane | apply k_ite | simp -iota only [k_mk_iff]
      | split | refine k_of_eq (by assumption) ?_)

theorem k_castEnds (s : State) (l : Nat) (h_s : K P s) : K P (castEnds s l) := by
  unfold castEnds
  with_reducible repeat' (first
      | assumption | intro _ | apply k_cmdDone | apply k_quarantine | apply k_setLane | simp -iota only [k_mk_iff]
      | split | refine k_of_eq (by assumption) ?_)

theorem k_linkUp (s : State) (l : Nat) (has24 has10 : Bool) (h_s : K P s) : K P (linkUp s l has24 has10) := by
  unfold linkUp
  with_reducible repeat' (first
      | assumption | intro _ | apply k_enumStart | apply k_setLaneSt | apply k_setLane | apply k_ite
      | simp -iota only [k_mk_iff] | split | refine k_of_eq (by assumption) ?_)

theorem k_linkDown (s : State) (l : Nat) (h_s : K P s) : K P (linkDown s l) := by
  unfold linkDown
  with_reducible repeat' (first
      | assumption | intro _ | apply k_castEnds | apply k_enterLinking | apply k_laneQuiet | apply k_judgeLinks
      | apply k_bumpLane | apply k_setLane | apply k_bump | apply k_bumpBy | apply k_ite
      | simp -iota only [k_mk_iff] | split | refine k_of_eq (by assumption) ?_)

theorem k_linkRetry (s : State) (l : Nat) (h_s : K P s) : K P (linkRetry s l) := by
  unfold linkRetry
  with_reducible repeat' (first
      | assumption | apply k_enterLinking | apply k_judgeLinks | apply k_bumpLane | apply k_bump | apply k_bumpBy
      | apply k_ite | simp -iota only [k_mk_iff] | split | refine k_of_eq (by assumption) ?_)

theorem k_missingServe (s : State) (l : Nat) (h_s : K P s) : K P (missingServe s l) := by
  unfold missingServe
  with_reducible repeat' (first
      | assumption | apply k_judgeLinks | apply k_ite | simp -iota only [k_mk_iff] | split
      | refine k_of_eq (by assumption) ?_)

theorem k_orderStart (s : State) (l : Nat) (h_s : K P s) : K P (orderStart s l).s := by
  unfold orderStart
  with_reducible repeat' (first
      | assumption | apply k_enterLinking | simp -iota only [k_mk_iff])

theorem k_orderStop (s : State) (l : Nat) (h_s : K P s) : K P (orderStop s l).s := by
  unfold orderStop
  with_reducible repeat' (first
      | assumption | apply k_castEnds | apply k_laneQuiet | apply k_setLaneSt | apply k_judgeLinks
      | simp -iota only [k_mk_iff])

theorem k_orderEnumerate (s : State) (l : Nat) (d : Desc) (h_s : K P s) : K P (orderEnumerate s l d).s := by
  unfold orderEnumerate
  with_reducible repeat' (first
      | assumption | apply k_enumDrop | apply k_enumStart | apply k_setLaneSt | simp -iota only [k_mk_iff])

theorem k_orderSendCmd (s : State) (l : Nat) (d : Desc) (h_s : K P s) : K P (orderSendCmd s l d).s := by
  unfold orderSendCmd
  with_reducible repeat' (first
      | assumption | intro _ | apply k_setLane | apply k_ite | apply k_ites | simp -iota only [k_mk_iff] | split
      | refine k_of_eq (by assumption) ?_)

theorem k_orderSetStream (s : State) (l : Nat) (d : Desc) (h_s : K P s) : K P (orderSetStream s l d).s := by
  unfold orderSetStream
  with_reducible repeat' (first
      | assumption | intro _ | apply k_foldl | apply k_foldl1 | apply k_startWindows | apply k_bumpLane
      | apply k_setLane | apply k_bump | apply k_bumpBy | apply k_ite | apply k_ites | simp -iota only [k_mk_iff]
      | split | refine k_of_eq (by assumption) ?_)

theorem k_orderRelease (s : State) (l : Nat) (d : Desc) (h_s : K P s) : K P (orderRelease s l d).s := by
  unfold orderRelease
  with_reducible repeat' (first
      | assumption | intro _ | apply k_startNext | apply k_enqueue | apply k_setLane | apply k_ite | apply k_ites
      | simp -iota only [k_mk_iff] | split | refine k_of_eq (by assumption) ?_)

theorem k_orderTdr (s : State) (l : Nat) (v : Word) (h_s : K P s) : K P (orderTdr s l v).s := by
  unfold orderTdr
  with_reducible repeat' (first
      | assumption | apply k_tdrResult | simp -iota only [k_mk_iff])

theorem k_orderLaneClear (s : State) (l : Nat) (h_s : K P s) : K P (orderLaneClear s l).s := by
  unfold orderLaneClear
  with_reducible repeat' (first
      | assumption | apply k_clearRegs | simp -iota only [k_mk_iff])

theorem k_laneBody (l op : Nat) (d : Desc) (v : Word) (s : State) (h_s : K P s) : K P (laneBody l op d v s).s := by
  unfold laneBody
  with_reducible repeat' (first
      | assumption | apply k_orderLaneClear | apply k_orderTdr | apply k_orderRelease | apply k_orderSetStream
      | apply k_orderSendCmd | apply k_orderEnumerate | apply k_orderStop | apply k_orderStart
      | simp -iota only [k_mk_iff] | split | refine k_of_eq (by assumption) ?_)

theorem k_cmdsLost (s : State) (l code : Nat) (h_s : K P s) : K P (cmdsLost s l code) := by
  unfold cmdsLost
  with_reducible repeat' (first
      | assumption | intro _ | apply k_foldl | apply k_foldl1 | apply k_cmdsDropped | apply k_cmdDone
      | apply k_setLane | simp -iota only [k_mk_iff])

theorem k_laneLost (s : State) (l : Nat) (st : LaneSt) (h_s : K P s) : K P (laneLost s l st) := by
  unfold laneLost
  with_reducible repeat' (first
      | assumption | intro _ | apply k_foldl | apply k_foldl1 | apply k_cmdsLost | apply k_laneQuiet
      | apply k_complete | apply k_setLane | apply k_ite | simp -iota only [k_mk_iff] | split
      | refine k_of_eq (by assumption) ?_)

/-! Life.lean -/

theorem k_putOpen (s : State) (i : Nat) (r : Option LifeRec) (h_s : K P s) : K P (putOpen s i r) := by
  unfold putOpen
  with_reducible repeat' (first
      | assumption | intro _ | simp -iota only [k_mk_iff])

theorem k_putRetired (s : State) (j : Nat) (r : Option LifeRec) (h_s : K P s) : K P (putRetired s j r) := by
  unfold putRetired
  with_reducible repeat' (first
      | assumption | intro _ | simp -iota only [k_mk_iff])

theorem k_setOpen (s : State) (i : Nat) (r : Option LifeRec) (h_s : K P s) : K P (setOpen s i r) := by
  delta setOpen
  with_reducible repeat' (first
      | assumption | apply k_putOpen | simp -iota only [k_mk_iff])

theorem k_setRetired (s : State) (j : Nat) (r : Option LifeRec) (h_s : K P s) : K P (setRetired s j r) := by
  delta setRetired
  with_reducible repeat' (first
      | assumption | apply k_putRetired | simp -iota only [k_mk_iff])

theorem k_checkRec (retired : Bool) (s : State) (p : Nat × Option LifeRec) (h_s : K P s) :
    K P (checkRec retired s p) := by
  unfold checkRec
  with_reducible repeat' (first
      | assumption | apply k_putRetired | apply k_putOpen | apply k_momentary | apply k_bump | apply k_bumpBy
      | apply k_ite | apply k_ite1 | simp -iota only [k_mk_iff] | split | refine k_of_eq (by assumption) ?_)

theorem k_checkRecords (s : State) (h_s : K P s) : K P (checkRecords s) := by
  unfold checkRecords
  with_reducible repeat' (first
      | assumption | intro _ | apply k_foldl | apply k_foldl1 | apply k_checkRec | simp -iota only [k_mk_iff])

theorem k_bumpLife (s : State) (off : Nat) (h_s : K P s) : K P (bumpLife s off) := by
  delta bumpLife
  with_reducible repeat' (first
      | assumption | apply k_bump | apply k_bumpBy | simp -iota only [k_mk_iff])

theorem k_writeCap (s : State) (i : Nat) (h_s : K P s) : K P (writeCap s i) := by
  unfold writeCap
  with_reducible repeat' (first
      | assumption | apply k_setCap | apply k_ite | simp -iota only [k_mk_iff] | split
      | refine k_of_eq (by assumption) ?_)

theorem k_notice (s : State) (r : LifeRec) (eol : Bool) (h_s : K P s) : K P (notice s r eol) := by
  unfold notice
  with_reducible repeat' (first
      | assumption | intro _ | apply k_bumpLife | apply k_bump | apply k_bumpBy | apply k_ite
      | simp -iota only [k_mk_iff] | split | refine k_of_eq (by assumption) ?_)

theorem k_settleRec (s : State) (i : Nat) (r : LifeRec) (h_s : K P s) : K P (settleRec s i r) := by
  unfold settleRec
  with_reducible repeat' (first
      | assumption | apply k_notice | apply k_writeCap | apply k_setOpen | apply k_putOpen | apply k_ite
      | simp -iota only [k_mk_iff] | split | refine k_of_eq (by assumption) ?_)

theorem k_energyApply (s : State) (f : Intake) (h_s : K P s) : K P (energyApply s f) := by
  unfold energyApply
  with_reducible repeat' (first
      | assumption | intro _ | apply k_settleRec | apply k_bumpLife | apply k_bankAdd | apply k_bump
      | apply k_bumpBy | apply k_ite | simp -iota only [k_mk_iff] | split | refine k_of_eq (by assumption) ?_)

theorem k_retire (s : State) (r : LifeRec) (reason : Nat) (h_s : K P s) : K P (retire s r reason) := by
  unfold retire
  with_reducible repeat' (first
      | assumption | intro _ | apply k_bumpLife | apply k_setRetired | apply k_putRetired | apply k_bump
      | apply k_bumpBy | apply k_ite | apply k_ite1 | simp -iota only [k_mk_iff] | split
      | refine k_of_eq (by assumption) ?_)

theorem k_closeRec (s : State) (i reason : Nat) (h_s : K P s) : K P (closeRec s i reason) := by
  unfold closeRec
  with_reducible repeat' (first
      | assumption | apply k_retire | apply k_setOpen | apply k_putOpen | simp -iota only [k_mk_iff] | split
      | refine k_of_eq (by assumption) ?_)

theorem k_openNew (s : State) (i : Nat) (r : LifeRec) (h_s : K P s) : K P (openNew s i r) := by
  unfold openNew
  with_reducible repeat' (first
      | assumption | intro _ | apply k_closeRec | apply k_settleRec | apply k_writeCap | apply k_bumpLife
      | apply k_setRetired | apply k_putRetired | apply k_lampFresh | apply k_bump | apply k_bumpBy | apply k_ite
      | apply k_ite1 | simp -iota only [k_mk_iff] | split | refine k_of_eq (by assumption) ?_)

theorem k_idApply (s : State) (f : Intake) (h_s : K P s) : K P (idApply s f) := by
  unfold idApply
  with_reducible repeat' (first
      | assumption | apply k_openNew | apply k_closeRec | apply k_settleRec | apply k_writeCap | apply k_bumpLife
      | apply k_bankAdd | apply k_bump | apply k_bumpBy | apply k_ite | simp -iota only [k_mk_iff] | split
      | refine k_of_eq (by assumption) ?_)

theorem k_intakeServe (s : State) (id : Bool) (h_s : K P s) : K P (intakeServe s id) := by
  unfold intakeServe
  with_reducible repeat' (first
      | assumption | apply k_id | intro _ | apply k_idApply | apply k_energyApply | apply k_ite
      | simp -iota only [k_mk_iff] | split | refine k_of_eq (by assumption) ?_)

theorem k_noticeServe (s : State) (h_s : K P s) : K P (noticeServe s) := by
  unfold noticeServe
  with_reducible repeat' (first
      | assumption | intro _ | apply k_bumpLife | apply k_hwOffer | apply k_fire1 | apply k_fire | apply k_bump
      | apply k_bumpBy | apply k_ite | simp -iota only [k_mk_iff] | split | refine k_of_eq (by assumption) ?_)

theorem k_exportAllStep (n : Nat) (s : State) (h_s : K P s) : K P (exportAllStep n s) := by
  induction n generalizing s with
  | zero => unfold exportAllStep; first | exact h_s | (
      with_reducible repeat' (first
          | assumption | apply k_complete | apply k_hwOffer | apply k_ite
          | apply k_ite1 | apply k_ites | apply k_itee | refine k_of_eq (by assumption) ?_
          | simp -iota only [k_mk_iff] | split))
  | succ n ih =>
    unfold exportAllStep
    with_reducible repeat' (first
        | assumption | apply ih | apply k_complete | apply k_hwOffer
        | apply k_ite | apply k_ite1 | apply k_ites | apply k_itee | refine k_of_eq (by assumption) ?_
        | simp -iota only [k_mk_iff] | split)

theorem k_exportAllServe (s : State) (h_s : K P s) : K P (exportAllServe s) := by
  unfold exportAllServe
  with_reducible repeat' (first
      | assumption | intro _ | apply k_exportAllStep | simp -iota only [k_mk_iff])

theorem k_exportServe (s : State) (h_s : K P s) : K P (exportServe s) := by
  unfold exportServe
  with_reducible repeat' (first
      | assumption | intro _ | apply k_exportAllServe | apply k_setRetired | apply k_putRetired | apply k_hwOffer
      | apply k_ite | simp -iota only [k_mk_iff] | split | refine k_of_eq (by assumption) ?_)

theorem k_recomputeServe (s : State) (h_s : K P s) : K P (recomputeServe s) := by
  unfold recomputeServe
  with_reducible repeat' (first
      | assumption | intro _ | apply k_foldl | apply k_foldl1 | apply k_settleRec | apply k_bumpLife | apply k_bump
      | apply k_bumpBy | apply k_ite | apply k_ite1 | simp -iota only [k_mk_iff] | split
      | refine k_of_eq (by assumption) ?_)

theorem k_capServe (s : State) (h_s : K P s) : K P (capServe s) := by
  unfold capServe
  with_reducible repeat' (first
      | assumption | intro _ | apply k_foldl | apply k_foldl1 | apply k_foldTo | apply k_foldTo1 | apply k_writeCap
      | apply k_ite | simp -iota only [k_mk_iff] | split | refine k_of_eq (by assumption) ?_)

theorem k_capAll (s : State) (h_s : K P s) : K P (capAll s) := by
  unfold capAll
  with_reducible repeat' (first
      | assumption | intro _ | simp -iota only [k_mk_iff])

theorem k_derateAll (s : State) (h_s : K P s) : K P (derateAll s) := by
  unfold derateAll
  with_reducible repeat' (first
      | assumption | intro _ | apply k_foldl | apply k_foldl1 | apply k_capAll | apply k_setOpen | apply k_putOpen
      | apply k_ite | apply k_ite1 | simp -iota only [k_mk_iff] | split | refine k_of_eq (by assumption) ?_)

theorem k_recResult (s : State) (o : Option LifeRec) (h_s : K P s) : K P (recResult s o).s := by
  unfold recResult
  with_reducible repeat' (first
      | assumption | apply k_ite | apply k_ites | simp -iota only [k_mk_iff] | split
      | refine k_of_eq (by assumption) ?_)

theorem k_orderReadRecord (s : State) (d : Desc) (h_s : K P s) : K P (orderReadRecord s d).s := by
  unfold orderReadRecord
  with_reducible repeat' (first
      | assumption | apply k_recResult | simp -iota only [k_mk_iff])

theorem k_orderReadRetired (s : State) (d : Desc) (h_s : K P s) : K P (orderReadRetired s d).s := by
  unfold orderReadRetired
  with_reducible repeat' (first
      | assumption | apply k_recResult | simp -iota only [k_mk_iff])

theorem k_orderRegister (s : State) (d : Desc) (h_s : K P s) : K P (orderRegister s d).s := by
  unfold orderRegister
  with_reducible repeat' (first
      | assumption | apply k_openNew | apply k_setOpen | apply k_putOpen | apply k_ite | apply k_ites
      | simp -iota only [k_mk_iff] | split | refine k_of_eq (by assumption) ?_)

theorem k_orderClose (s : State) (d : Desc) (h_s : K P s) : K P (orderClose s d).s := by
  unfold orderClose
  with_reducible repeat' (first
      | assumption | apply k_closeRec | apply k_writeCap | apply k_bumpLife | apply k_bump | apply k_bumpBy
      | simp -iota only [k_mk_iff] | split | refine k_of_eq (by assumption) ?_)

theorem k_orderExportAll (s : State) (d : Desc) (h_s : K P s) : K P (orderExportAll s d).s := by
  unfold orderExportAll
  with_reducible repeat' (first
      | assumption | intro _ | apply k_exportAllServe | simp -iota only [k_mk_iff])

theorem k_orderLifeClear (s : State) (h_s : K P s) : K P (orderLifeClear s).s := by
  unfold orderLifeClear
  with_reducible repeat' (first
      | assumption | apply k_clearRegs | simp -iota only [k_mk_iff])

theorem k_lifeBody (op : Nat) (d : Desc) (s : State) (h_s : K P s) : K P (lifeBody op d s).s := by
  unfold lifeBody
  with_reducible repeat' (first
      | assumption | apply k_orderLifeClear | apply k_orderExportAll | apply k_orderClose | apply k_orderRegister
      | apply k_orderReadRetired | apply k_orderReadRecord | simp -iota only [k_mk_iff] | split
      | refine k_of_eq (by assumption) ?_)

/-! Stats.lean -/

theorem k_commitDigest (s : State) (k : Nat) (ws : List Dword) (h_s : K P s) : K P (commitDigest s k ws).1 := by
  unfold commitDigest
  with_reducible repeat' (first
      | assumption | apply k_hwTry | apply k_bump | apply k_bumpBy | simp -iota only [k_mk_iff] | split
      | refine k_of_eq (by assumption) ?_)

theorem k_setDomStat (s : State) (d : Nat) (x : DomStat) (h_s : K P s) : K P (State.setDomStat s d x) := by
  unfold State.setDomStat
  with_reducible repeat' (first
      | assumption | intro _ | simp -iota only [k_mk_iff])

theorem k_accrue (s : State) (m : Nat) (h_s : K P s) : K P (accrue s m) := by
  unfold accrue
  with_reducible repeat' (first
      | assumption | exact k_true (by assumption) | intro _ | apply k_foldl | apply k_foldl1 | apply k_bankAdd
      | apply k_setMeadow | apply k_setCore | apply k_bumpBy | apply wf_meadow | apply wf_core | apply wg_core
      | apply we_nil2 | apply wf_nil | apply we_set | apply we_flipBit | apply wg_nil | apply k_ite | simp -iota only [k_mk_iff] | split
      | refine k_of_eq (by assumption) ?_)

theorem k_settleBank (s : State) (k : Nat) (h_s : K P s) : K P (settleBank s k) := by
  unfold settleBank
  with_reducible repeat' (first
      | assumption | apply k_accrue | apply k_noteBlocks | apply k_ite | simp -iota only [k_mk_iff] | split
      | refine k_of_eq (by assumption) ?_)

theorem k_latchBank (s : State) (k stopT : Nat) (h_s : K P s) : K P (latchBank s k stopT) := by
  unfold latchBank
  with_reducible repeat' (first
      | assumption | apply k_settleBank | apply k_setBank | simp -iota only [k_mk_iff])

theorem k_boundary (s : State) (at_ : Nat) (short : Bool) (h_s : K P s) : K P (boundary s at_ short) := by
  unfold boundary
  with_reducible repeat' (first
      | assumption | intro _ | apply k_foldl | apply k_foldl1 | apply k_latchBank | apply k_setDomStat
      | apply k_commitDigest | apply k_fire1 | apply k_fire | apply k_bump | apply k_bumpBy | apply k_setReg
      | apply k_setRegAt | apply k_ite | apply k_ite1 | simp -iota only [k_mk_iff] | split
      | refine k_of_eq (by assumption) ?_)

theorem k_stepBoundary (s : State) (h_s : K P s) : K P (stepBoundary s) := by
  unfold stepBoundary
  with_reducible repeat' (first
      | assumption | intro _ | apply k_boundary | simp -iota only [k_mk_iff])

theorem k_periodBoundary (s : State) (h_s : K P s) : K P (periodBoundary s) := by
  unfold periodBoundary
  with_reducible repeat' (first
      | assumption | intro _ | apply k_boundary | apply k_ite | simp -iota only [k_mk_iff] | split
      | refine k_of_eq (by assumption) ?_)

theorem k_setLength (s : State) (code : Nat) (h_s : K P s) : K P (setLength s code) := by
  unfold setLength
  with_reducible repeat' (first
      | assumption | intro _ | apply k_setReg | apply k_setRegAt | apply k_ite | simp -iota only [k_mk_iff] | split
      | refine k_of_eq (by assumption) ?_)

theorem k_bankDown (s : State) (d : Nat) (orderly : Bool) (h_s : K P s) : K P (bankDown s d orderly) := by
  unfold bankDown
  with_reducible repeat' (first
      | assumption | intro _ | apply k_foldl | apply k_foldl1 | apply k_settleBank | apply k_setDomStat
      | apply k_commitDigest | apply k_setBank | apply k_setReg | apply k_setRegAt | apply k_ite | apply k_ite1
      | simp -iota only [k_mk_iff] | split | refine k_of_eq (by assumption) ?_)

theorem k_bankUp (s : State) (d : Nat) (h_s : K P s) : K P (bankUp s d) := by
  unfold bankUp
  with_reducible repeat' (first
      | assumption | intro _ | apply k_foldl | apply k_foldl1 | apply k_setDomStat | apply k_setBank
      | simp -iota only [k_mk_iff])

theorem k_redigest (s : State) (k : Nat) (h_s : K P s) : K P (redigest s k).1 := by
  unfold redigest
  with_reducible repeat' (first
      | assumption | apply k_setDomStat | apply k_commitDigest | apply k_bump | apply k_bumpBy | apply k_ite
      | apply k_ite1 | simp -iota only [k_mk_iff] | split | refine k_of_eq (by assumption) ?_)

end Sys2Proof.Laws
end

