-- ==== Sys2Proof/Laws/KeepPower.lean ====
section
/-! SUPPORT. What the definitions of cores and meadows, register writes, seams, power, memory channels and the sampler do keeps the queue and the canonical form. -/

set_option linter.all false

namespace Sys2Proof.Laws

open Sys2Proof.Machine

variable {P : List Instr → Prop}

/-! Cores.lean -/

theorem wf_commit (c : CoreState) (w : RegWrite) : (c.commit w).sram = c.sram := by
  cases w with
  | g n v => unfold CoreState.commit; dsimp only; split <;> rfl
  | sr n v => unfold CoreState.commit CoreState.writeSr; dsimp only; split <;> rfl

theorem we_commit (c : CoreState) (w : RegWrite) : (c.commit w).sramErr = c.sramErr := by
  cases w with
  | g n v => unfold CoreState.commit; dsimp only; split <;> rfl
  | sr n v => unfold CoreState.commit CoreState.writeSr; dsimp only; split <;> rfl

theorem wf_commit1 {c : CoreState} {w : RegWrite} (h : eccWf c.sram c.sramErr) : eccWf (c.commit w).sram (c.commit w).sramErr := by
  rw [wf_commit, we_commit]; exact h

theorem err_commits (ws : List RegWrite) (c : CoreState) : (ws.foldl CoreState.commit c).sramErr = c.sramErr := by
  induction ws generalizing c with
  | nil => rfl
  | cons w ws ih => rw [List.foldl_cons, ih, we_commit]

theorem sram_commits (ws : List RegWrite) (c : CoreState) : (ws.foldl CoreState.commit c).sram = c.sram := by
  induction ws generalizing c with
  | nil => rfl
  | cons w ws ih => rw [List.foldl_cons, ih, wf_commit]

theorem wg_commit1 {c : CoreState} {w : RegWrite} (h : twf (fun _ => 0) c.g = true) : twf (fun _ => 0) (c.commit w).g = true := by
  cases w with
  | g n v =>
    show twf (fun _ => 0) (if n = 0 then c else { c with g := tset 0 c.g n.toNat v }).g = true
    by_cases hn : n = 0
    · rw [if_pos hn]; exact h
    · rw [if_neg hn]; exact twf_tset (fun _ => (0 : Word)) _ _ _ h
  | sr n v =>
    have : (c.writeSr n.toNat v).g = c.g := by unfold CoreState.writeSr; split <;> rfl
    show twf (fun _ => 0) (c.writeSr n.toNat v).g = true
    rw [this]; exact h

theorem wg_foldl {c : CoreState} {l : List RegWrite} (h : twf (fun _ => 0) c.g = true) :
    twf (fun _ => 0) (l.foldl CoreState.commit c).g = true := by
  induction l generalizing c with
  | nil => exact h
  | cons w l ih => exact ih (wg_commit1 h)

theorem wg_flush {c : CoreState} (h : twf (fun _ => 0) c.g = true) : twf (fun _ => 0) c.flush.g = true := wg_foldl (wg_foldl h)

theorem wg_shift {c : CoreState} {ws : List RegWrite} (h : twf (fun _ => 0) c.g = true) : twf (fun _ => 0) (c.shift ws).g = true :=
  wg_foldl (c := c) (l := c.w2) h

theorem wf_flush {c : CoreState} (h : eccWf c.sram c.sramErr) : eccWf c.flush.sram c.flush.sramErr := by
  simpa [CoreState.flush, sram_commits, err_commits] using h

theorem wf_shift {c : CoreState} {ws : List RegWrite} (h : eccWf c.sram c.sramErr) : eccWf (c.shift ws).sram (c.shift ws).sramErr := by
  simpa [CoreState.shift, sram_commits, err_commits] using h

theorem k_notePoison (s : State) (r a : Nat) (fetch : Bool) (h_s : K P s) : K P (notePoison s r a fetch) := by
  unfold notePoison
  with_reducible repeat' (first
      | assumption | apply k_fetch | apply k_bumpPriv | apply k_setPriv | apply k_ite | simp -iota only [k_mk_iff]
      | split | refine k_of_eq (by assumption) ?_)

theorem k_localCheck (s : State) (r a : Nat) (fetch : Bool) (h_s : K P s) : K P (localCheck s r a fetch).1 := by
  unfold localCheck
  with_reducible repeat' (first
      | assumption | exact k_true (by assumption) | apply k_fetch | apply k_notePoison | apply k_setCore
      | apply k_bumpPriv | apply wf_core | apply wg_core | apply we_checkWord | apply wf_checkWord | apply we_nil2 | apply wf_nil | apply we_set | apply we_flipBit | apply wg_nil
      | apply k_ite | apply k_ite1 | simp -iota only [k_mk_iff] | split | refine k_of_eq (by assumption) ?_)

theorem k_fetchLost (s : State) (r : Nat) (h_s : K P s) : K P (fetchLost s r) := by
  unfold fetchLost
  with_reducible repeat' (first
      | assumption | apply k_draw | apply k_setPriv | apply k_ite | simp -iota only [k_mk_iff] | split
      | refine k_of_eq (by assumption) ?_)

theorem k_drainOne (s : State) (r : Nat) (h_s : K P s) : K P (drainOne s r) := by
  unfold drainOne
  with_reducible repeat' (first
      | assumption | exact k_true (by assumption) | intro _ | apply k_fetchLost | apply k_localCheck
      | apply k_setCore | apply wf_core | apply wg_core | apply we_sbApply | apply we_nil2 | apply wf_nil | apply we_set | apply we_flipBit | apply wg_nil
      | apply k_ite | apply k_ite1 | simp -iota only [k_mk_iff] | split | refine k_of_eq (by assumption) ?_)

theorem k_drainAll (s : State) (r : Nat) (h_s : K P s) : K P (drainAll s r) := by
  unfold drainAll
  with_reducible repeat' (first
      | assumption | intro _ | apply k_foldTo | apply k_foldTo1 | apply k_drainOne | simp -iota only [k_mk_iff])

theorem k_drainFor (s : State) (r : Nat) (hit : SbEntry → Bool) (h_s : K P s) : K P (drainFor s r hit) := by
  unfold drainFor
  with_reducible repeat' (first
      | assumption | intro _ | apply k_foldTo | apply k_foldTo1 | apply k_drainOne | apply k_ite
      | simp -iota only [k_mk_iff] | split | refine k_of_eq (by assumption) ?_)

theorem k_dropRsv (s : State) (r : Nat) (h_s : K P s) : K P (dropRsv s r) := by
  unfold dropRsv
  with_reducible repeat' (first
      | assumption | exact k_true (by assumption) | intro _ | apply k_setMeadow | apply k_setCore | apply wf_meadow
      | apply wf_core | apply wg_core | apply we_nil2 | apply wf_nil | apply we_set | apply we_flipBit | apply wg_nil | apply k_ite | simp -iota only [k_mk_iff]
      | split | refine k_of_eq (by assumption) ?_)

theorem k_breakRsv (s : State) (m off req : Nat) (h_s : K P s) : K P (breakRsv s m off req) := by
  unfold breakRsv
  with_reducible repeat' (first
      | assumption | exact k_true (by assumption) | intro _ | apply k_setMeadow | apply wf_meadow | apply we_nil2 | apply wf_nil | apply we_set | apply we_flipBit
      | simp -iota only [k_mk_iff])

theorem k_clearRsvs (s : State) (m : Nat) (h_s : K P s) : K P (clearRsvs s m) := by
  unfold clearRsvs
  with_reducible repeat' (first
      | assumption | exact k_true (by assumption) | intro _ | apply k_setMeadow | apply wf_meadow | apply we_nil2 | apply wf_nil | apply we_set | apply we_flipBit
      | simp -iota only [k_mk_iff])

theorem k_trapCore (s : State) (r cause : Nat) (tval tpc : Word) (trep : Nat) (h_s : K P s) :
    K P (trapCore s r cause tval tpc trep) := by
  unfold trapCore
  with_reducible repeat' (first
      | assumption | exact k_true (by assumption) | intro _ | apply k_dropRsv | apply k_drainFor
      | apply k_localCheck | apply k_notePoison | apply k_bankAdd | apply k_setCore | apply k_bumpPriv | apply wf_core | apply wg_core
      | apply wf_flush | apply wg_flush | apply we_nil2 | apply wf_nil | apply we_set | apply we_flipBit | apply wg_nil | apply k_ite | apply k_ite1 | simp -iota only [k_mk_iff]
      | split | refine k_of_eq (by assumption) ?_)

theorem k_trapFault (s : State) (r cause : Nat) (tval tpc : Word) (h_s : K P s) :
    K P (trapFault s r cause tval tpc) := by
  unfold trapFault
  with_reducible repeat' (first
      | assumption | apply k_momentary | simp -iota only [k_mk_iff] | split | refine k_of_eq (by assumption) ?_)

theorem k_takeTrap (s : State) (r cause : Nat) (tval tpc : Word) (trep : Nat) (h_s : K P s) :
    K P (takeTrap s r cause tval tpc trep) := by
  unfold takeTrap
  with_reducible repeat' (first
      | assumption | intro _ | apply k_foldl | apply k_foldl1 | apply k_trapFault | apply k_trapCore
      | simp -iota only [k_mk_iff])

theorem k_syncTrap (s : State) (r cause : Nat) (tval : Word) (less : Nat := 0) (h_s : K P s) :
    K P (syncTrap s r cause tval less) := by
  unfold syncTrap
  with_reducible repeat' (first
      | assumption | apply k_takeTrap | simp -iota only [k_mk_iff] | split | refine k_of_eq (by assumption) ?_)

theorem k_setMeadowSt (s : State) (m : Nat) (st : MeadowSt) (h_s : K P s) : K P (setMeadowSt s m st) := by
  unfold setMeadowSt
  with_reducible repeat' (first
      | assumption | exact k_true (by assumption) | intro _ | apply k_fire1 | apply k_fire | apply k_setMeadow
      | apply wf_meadow | apply we_nil2 | apply wf_nil | apply we_set | apply we_flipBit | apply k_ite | simp -iota only [k_mk_iff] | split
      | refine k_of_eq (by assumption) ?_)

theorem k_clearPriv (s : State) (r : Nat) (h_s : K P s) : K P (clearPriv s r) := by
  unfold clearPriv
  with_reducible repeat' (first
      | assumption | intro _ | apply k_privFilter | simp -iota only [k_mk_iff])

theorem k_coreStop (s : State) (r : Nat) (h_s : K P s) : K P (coreStop s r) := by
  unfold coreStop
  with_reducible repeat' (first
      | assumption | exact k_true (by assumption) | intro _ | apply k_foldl | apply k_foldl1 | apply k_dropRsv
      | apply k_drainAll | apply k_accrue | apply k_qLeave | apply k_tiEnd | apply k_setCore | apply wf_core
      | apply wg_core | apply we_nil2 | apply wf_nil | apply we_set | apply we_flipBit | apply wg_nil | simp -iota only [k_mk_iff])

theorem k_loadCore (s : State) (r : Nat) (h_s : K P s) : K P (loadCore s r) := by
  unfold loadCore
  with_reducible repeat' (first
      | assumption | exact k_true (by assumption) | apply k_clearPriv | apply k_setCore | apply wf_core
      | apply wg_core | apply we_panelMem | apply we_nil2 | apply wf_nil | apply we_set | apply we_flipBit | apply wg_nil | simp -iota only [k_mk_iff] | split
      | refine k_of_eq (by assumption) ?_)

theorem k_loadMeadow (s : State) (m : Nat) (h_s : K P s) : K P (loadMeadow s m) := by
  unfold loadMeadow
  with_reducible repeat' (first
      | assumption | exact k_true (by assumption) | intro _ | apply k_foldl | apply k_foldl1 | apply k_loadCore
      | apply k_coreStop | apply k_clearRsvs | apply k_setMeadow | apply wf_meadow | apply we_panelMem
      | apply we_nil2 | apply wf_nil | apply we_set | apply we_flipBit | simp -iota only [k_mk_iff] | split | refine k_of_eq (by assumption) ?_)

theorem k_meadowLost (s : State) (m : Nat) (h_s : K P s) : K P (meadowLost s m) := by
  unfold meadowLost
  with_reducible repeat' (first
      | assumption | exact k_true (by assumption) | intro _ | apply k_foldl | apply k_foldl1 | apply k_clearPriv
      | apply k_clearRsvs | apply k_dropRsv | apply k_tiLost | apply k_setMeadow | apply k_setCore | apply wf_meadow
      | apply wf_core | apply wg_core | apply we_nil2 | apply wf_nil | apply we_set | apply we_flipBit | apply wg_nil | simp -iota only [k_mk_iff])

theorem k_setDev (s : State) (d : DevSt) (h_s : K P s) : K P (setDev s d) := by
  unfold setDev
  with_reducible repeat' (first
      | assumption | apply k_fire1 | apply k_fire | apply k_ite | simp -iota only [k_mk_iff] | split
      | refine k_of_eq (by assumption) ?_)

theorem k_leaveRest (s : State) (m : Nat) (h_s : K P s) : K P (leaveRest s m) := by
  unfold leaveRest
  with_reducible repeat' (first
      | assumption | apply k_setDev | apply k_setMeadowSt | apply k_accrue | apply k_ite
      | simp -iota only [k_mk_iff] | split | refine k_of_eq (by assumption) ?_)

/-! Regs.lean -/

theorem k_loadReg (count : Bool) (role : Nat) (p : State × Bool) (b : Blk) (i : Nat) (d : RegDesc) (k : Nat) (v : Word) (h_p : K P p.1) :
    K P (loadReg count role p b i d k v).1 := by
  unfold loadReg
  with_reducible repeat' (first
      | assumption | apply k_logClamp | apply k_setReg | apply k_setRegAt | apply k_ite | apply k_ite1
      | simp -iota only [k_mk_iff] | split | refine k_of_eq (by assumption) ?_)

theorem k_loadBlock (count : Bool) (p : Panel) (rel : Nat → Nat) (b : Blk) (i : Nat) (offs : List Nat) (x : State × Bool) (h_x : K P x.1) :
    K P (loadBlock count p rel b i offs x).1 := by
  unfold loadBlock
  with_reducible repeat' (first
      | assumption | intro _ | apply k_foldl | apply k_foldl1 | apply k_loadReg | simp -iota only [k_mk_iff])

theorem k_loadLaneSet (count front : Bool) (p : Panel) (g : Nat) (x : State × Bool) (h_x : K P x.1) :
    K P (loadLaneSet count front p g x).1 := by
  unfold loadLaneSet
  with_reducible repeat' (first
      | assumption | intro _ | apply k_foldl | apply k_foldl1 | apply k_loadBlock | apply k_ite | apply k_ite1
      | simp -iota only [k_mk_iff] | split | refine k_of_eq (by assumption) ?_)

theorem k_loadCalendar (count : Bool) (p : Panel) (g : Nat) (x : State × Bool) (h_x : K P x.1) :
    K P (loadCalendar count p g x).1 := by
  unfold loadCalendar
  with_reducible repeat' (first
      | assumption | apply k_id | intro _ | apply k_foldl | apply k_foldl1 | apply k_loadBlock | apply k_setLane
      | simp -iota only [k_mk_iff])

theorem k_loadUplinks (count : Bool) (p : Panel) (x : State × Bool) (h_x : K P x.1) :
    K P (loadUplinks count p x).1 := by
  unfold loadUplinks
  with_reducible repeat' (first
      | assumption | intro _ | apply k_foldl | apply k_foldl1 | apply k_loadBlock | simp -iota only [k_mk_iff])

theorem k_loadLife (count : Bool) (p : Panel) (x : State × Bool) (h_x : K P x.1) : K P (loadLife count p x).1 := by
  unfold loadLife
  with_reducible repeat' (first
      | assumption | apply k_loadBlock | simp -iota only [k_mk_iff])

/-! Seam.lean -/

theorem k_bumpSeam (s : State) (off : Nat) (h_s : K P s) : K P (State.bumpSeam s off) := by
  delta State.bumpSeam
  with_reducible repeat' (first
      | assumption | apply k_bump | apply k_bumpBy | simp -iota only [k_mk_iff])

theorem k_hungAbsent (s : State) (r addr : Nat) (store : Bool) (h_s : K P s) : K P (hungAbsent s r addr store) := by
  unfold hungAbsent
  with_reducible repeat' (first
      | assumption | exact k_true (by assumption) | intro _ | apply k_bumpSeam | apply k_syncTrap | apply k_setCore
      | apply k_bump | apply k_bumpBy | apply wf_core | apply wg_core | apply we_nil2 | apply wf_nil | apply we_set | apply we_flipBit | apply wg_nil | apply k_ite
      | simp -iota only [k_mk_iff] | split | refine k_of_eq (by assumption) ?_)

theorem k_seamDrop (s : State) (k : Nat) (h_s : K P s) : K P (seamDrop s k) := by
  unfold seamDrop
  with_reducible repeat' (first
      | assumption | intro _ | apply k_foldl | apply k_foldl1 | apply k_lostItems | apply k_valuesDrop
      | apply k_setFifo | apply k_setPulse | apply k_ite | apply k_ite1 | simp -iota only [k_mk_iff] | split
      | refine k_of_eq (by assumption) ?_)

theorem k_severAll (s : State) (cause : Nat) (ks : List Nat) (h_s : K P s) : K P (severAll s cause ks) := by
  unfold severAll
  with_reducible repeat' (first
      | assumption | intro _ | apply k_foldl | apply k_foldl1 | apply k_seamDrop | apply k_hungAbsent
      | apply k_putSeam | apply k_fire | apply k_bumpBy | apply k_ite | apply k_ite1 | simp -iota only [k_mk_iff]
      | split | refine k_of_eq (by assumption) ?_)

theorem k_downAll (s : State) (cause : Nat) (ks : List Nat) (h_s : K P s) : K P (downAll s cause ks) := by
  unfold downAll
  with_reducible repeat' (first
      | assumption | intro _ | apply k_foldl | apply k_foldl1 | apply k_putSeam | simp -iota only [k_mk_iff])

theorem k_releaseSeam (s : State) (k : Nat) (h_s : K P s) : K P (releaseSeam s k) := by
  unfold releaseSeam
  with_reducible repeat' (first
      | assumption | apply k_putSeam | apply k_ite | simp -iota only [k_mk_iff] | split
      | refine k_of_eq (by assumption) ?_)

theorem k_seamLive (s : State) (k : Nat) (h_s : K P s) : K P (seamLive s k) := by
  unfold seamLive
  with_reducible repeat' (first
      | assumption | apply k_putSeam | apply k_condGone | apply k_ite | simp -iota only [k_mk_iff] | split
      | refine k_of_eq (by assumption) ?_)

theorem k_clockStop (s : State) (k : Nat) (h_s : K P s) : K P (clockStop s k) := by
  unfold clockStop
  with_reducible repeat' (first
      | assumption | apply k_putSeam | apply k_setFifo | apply k_ite | simp -iota only [k_mk_iff] | split
      | refine k_of_eq (by assumption) ?_)

theorem k_requestStands (s : State) (k addr : Nat) (h_s : K P s) : K P (requestStands s k addr) := by
  unfold requestStands
  with_reducible repeat' (first
      | assumption | refine k_fifoPut _ _ _ _ ?_ _ (by assumption) | refine k_getD (k_fifoPut _ _ _ _ ?_) ?_
      | apply k_ite | simp -iota only [k_mk_iff] | split | refine k_of_eq (by assumption) ?_)

theorem k_accessTimeout (s : State) (req : Nat) (h_s : K P s) : K P (accessTimeout s req) := by
  unfold accessTimeout
  with_reducible repeat' (first
      | assumption | intro _ | apply k_bumpBy | simp -iota only [k_mk_iff])

/-! Power.lean -/

theorem k_setDomBit (s : State) (d : Nat) (b : Bool) (h_s : K P s) : K P (setDomBit s d b) := by
  unfold setDomBit
  with_reducible repeat' (first
      | assumption | apply k_setFld | apply k_setReg | apply k_setRegAt | apply k_ite | simp -iota only [k_mk_iff]
      | split | refine k_of_eq (by assumption) ?_)

theorem k_setUplSt (s : State) (n st : Nat) (h_s : K P s) : K P (setUplSt s n st) := by
  unfold setUplSt
  with_reducible repeat' (first
      | assumption | intro _ | apply k_fire1 | apply k_fire | apply k_setUpl | apply k_ite
      | simp -iota only [k_mk_iff] | split | refine k_of_eq (by assumption) ?_)

theorem k_uplinkLost (s : State) (n st : Nat) (h_s : K P s) : K P (uplinkLost s n st) := by
  unfold uplinkLost
  with_reducible repeat' (first
      | assumption | intro _ | apply k_setUplSt | apply k_setUpl | simp -iota only [k_mk_iff])

theorem k_laneRegsReset (s : State) (l : Nat) (h_s : K P s) : K P (laneRegsReset s l) := by
  unfold laneRegsReset
  with_reducible repeat' (first
      | assumption | intro _ | apply k_foldl | apply k_foldl1 | apply k_clearWin | apply k_clearRange
      | apply k_setReg | apply k_setRegAt | simp -iota only [k_mk_iff])

theorem k_laneGroupRegs (s : State) (g : Nat) (h_s : K P s) : K P (laneGroupRegs s g) := by
  unfold laneGroupRegs
  with_reducible repeat' (first
      | assumption | intro _ | apply k_foldl | apply k_foldl1 | apply k_laneRegsReset | apply k_loadCalendar
      | apply k_loadLaneSet | simp -iota only [k_mk_iff] | split | refine k_of_eq (by assumption) ?_)

theorem k_meadowCfg (count : Bool) (s : State) (m : Nat) (h_s : K P s) : K P (meadowCfg count s m).1 := by
  unfold meadowCfg
  with_reducible repeat' (first
      | assumption | apply k_loadBlock | apply k_clearWin | apply k_clearRange | apply k_setFld | apply k_setReg
      | apply k_setRegAt | simp -iota only [k_mk_iff] | split | refine k_of_eq (by assumption) ?_)

theorem k_uplinkRegs (s : State) (h_s : K P s) : K P (uplinkRegs s) := by
  unfold uplinkRegs
  with_reducible repeat' (first
      | assumption | intro _ | apply k_foldl | apply k_foldl1 | apply k_loadUplinks | apply k_clearWin
      | apply k_clearRange | simp -iota only [k_mk_iff] | split | refine k_of_eq (by assumption) ?_)

theorem k_laneBegin (s : State) (l : Nat) (h_s : K P s) : K P (laneBegin s l) := by
  unfold laneBegin
  with_reducible repeat' (first
      | assumption | apply k_enterLinking | apply k_setLaneSt | apply k_ite | simp -iota only [k_mk_iff] | split
      | refine k_of_eq (by assumption) ?_)

theorem k_uplinkBegin (s : State) (n : Nat) (h_s : K P s) : K P (uplinkBegin s n) := by
  unfold uplinkBegin
  with_reducible repeat' (first
      | assumption | apply k_setUplSt | apply k_ite | simp -iota only [k_mk_iff] | split
      | refine k_of_eq (by assumption) ?_)

theorem k_blocksBegin (s : State) (d : Nat) (h_s : K P s) : K P (blocksBegin s d) := by
  unfold blocksBegin
  with_reducible repeat' (first
      | assumption | intro _ | apply k_foldl | apply k_foldl1 | apply k_uplinkBegin | apply k_laneBegin
      | apply k_ite | simp -iota only [k_mk_iff] | split | refine k_of_eq (by assumption) ?_)

theorem k_mantleDown (s : State) (code : Nat) (h_s : K P s) : K P (mantleDown s code) := by
  unfold mantleDown
  with_reducible repeat' (first
      | assumption | intro _ | apply k_foldl | apply k_foldl1 | apply k_foldTo | apply k_foldTo1
      | apply k_intakeServe | apply k_complete | apply k0_of | apply And.intro | apply mantleWf_intro
      | apply wf_mstaging | apply wf_slotA | apply wf_slotB | apply we_memWrite | apply wf_memWrite | apply wf_flashWrite
      | exact k_true (by assumption) | apply k_ite | apply k_ite1 | simp -iota only [k_mk_iff]
      | simp -iota only [k_mantle_iff] | split | refine k_of_eq (by assumption) ?_)

theorem k_mantleUp (s : State) (h_s : K P s) : K P (mantleUp s) := by
  unfold mantleUp
  with_reducible repeat' (first
      | assumption | intro _ | apply k_loadLife | apply k_capAll | apply k_checkRecords | apply k_jFlush
      | apply k_clearWin | apply k_clearRange | apply k0_of | apply And.intro | apply mantleWf_intro
      | apply wf_mstaging | apply wf_slotA | apply wf_slotB | apply we_memWrite | apply wf_memWrite | apply wf_flashWrite
      | exact k_true (by assumption) | apply k_ite | apply k_ite1 | simp -iota only [k_mk_iff]
      | simp -iota only [k_mantle_iff] | split | refine k_of_eq (by assumption) ?_)

theorem k_qpwrOff (s : State) (c : Nat) (h_s : K P s) : K P (qpwrOff s c) := by
  unfold qpwrOff
  with_reducible repeat' (first
      | assumption | exact k_true (by assumption) | intro _ | apply k_setChan | apply wf_chan | apply we_nil2 | apply wf_nil | apply we_set | apply we_flipBit
      | simp -iota only [k_mk_iff])

theorem k_blocksStarting (s : State) (d : Nat) (h_s : K P s) : K P (blocksStarting s d) := by
  unfold blocksStarting
  with_reducible repeat' (first
      | assumption | intro _ | apply k_setMeadowSt | apply k_setChanSt | apply k0_of | apply And.intro
      | apply mantleWf_intro | apply wf_mstaging | apply wf_slotA | apply wf_slotB | apply we_memWrite | apply wf_memWrite
      | apply wf_flashWrite | exact k_true (by assumption) | apply k_ite | simp -iota only [k_mk_iff]
      | simp -iota only [k_mantle_iff] | split | refine k_of_eq (by assumption) ?_)

theorem k_blocksFaulted (s : State) (d : Nat) (h_s : K P s) : K P (blocksFaulted s d) := by
  unfold blocksFaulted
  with_reducible repeat' (first
      | assumption | intro _ | apply k_foldl | apply k_foldl1 | apply k_mantleDown | apply k_uplinkLost
      | apply k_setMeadowSt | apply k_laneLost | apply k_setChanSt | apply k_ite | simp -iota only [k_mk_iff]
      | split | refine k_of_eq (by assumption) ?_)

theorem k_beginDom (s : State) (d : Nat) (h_s : K P s) : K P (beginDom s d) := by
  unfold beginDom
  with_reducible repeat' (first
      | assumption | exact k_true (by assumption) | intro _ | apply k_retry | apply k_failed
      | apply k_blocksStarting | apply k_setDomBit | apply k_severAll | apply k_setDom | apply k_setChan
      | apply k_bump | apply k_bumpBy | apply wf_chan | apply we_nil2 | apply wf_nil | apply we_set | apply we_flipBit | apply k_ite | simp -iota only [k_mk_iff]
      | split | refine k_of_eq (by assumption) ?_)

theorem k_startDom (s : State) (d : Nat) (h_s : K P s) : K P (startDom s d) := by
  unfold startDom
  with_reducible repeat' (first
      | assumption | intro _ | apply k_retry | apply k_failed | apply k_beginDom | apply k_blocksStarting
      | apply k_setDomBit | apply k_severAll | apply k_setDom | apply k_ite | simp -iota only [k_mk_iff] | split
      | refine k_of_eq (by assumption) ?_)

theorem k_startWaiting (s : State) (h_s : K P s) : K P (startWaiting s) := by
  unfold startWaiting
  with_reducible repeat' (first
      | assumption | intro _ | apply k_foldl | apply k_foldl1 | apply k_beginDom | apply k_ite
      | simp -iota only [k_mk_iff] | split | refine k_of_eq (by assumption) ?_)

theorem k_wakeAdd (s : State) (d : Nat) (h_s : K P s) : K P (wakeAdd s d) := by
  unfold wakeAdd
  with_reducible repeat' (first
      | assumption | apply k_startDom | apply k_ite | simp -iota only [k_mk_iff] | split
      | refine k_of_eq (by assumption) ?_)

theorem k_setCause (s : State) (hi lo v : Nat) (h_s : K P s) : K P (setCause s hi lo v) := by
  unfold setCause
  with_reducible repeat' (first
      | assumption | apply k_setFld | apply k_setReg | apply k_setRegAt | simp -iota only [k_mk_iff])

theorem k_redirect (s : State) (m : Nat) (h_s : K P s) : K P (redirect s m) := by
  unfold redirect
  with_reducible repeat' (first
      | assumption | apply k_setCause | apply k_wakeAdd | apply k_bump | apply k_bumpBy | apply k_setFld
      | apply k_setReg | apply k_setRegAt | apply k_ite | simp -iota only [k_mk_iff] | split
      | refine k_of_eq (by assumption) ?_)

theorem k_nameMeadow (s : State) (m : Nat) (h_s : K P s) : K P (nameMeadow s m) := by
  unfold nameMeadow
  with_reducible repeat' (first
      | assumption | apply k_redirect | apply k_wakeAdd | apply k_ite | simp -iota only [k_mk_iff] | split
      | refine k_of_eq (by assumption) ?_)

theorem k_stopDom (s : State) (d : Nat) (h_s : K P s) : K P (stopDom s d) := by
  unfold stopDom
  with_reducible repeat' (first
      | assumption | intro _ | apply k_foldl | apply k_foldl1 | apply k_mantleDown | apply k_setUplSt
      | apply k_setMeadowSt | apply k_cmdsLost | apply k_laneQuiet | apply k_setLaneSt | apply k_complete
      | apply k_chanLost | apply k_setChanSt | apply k_setDom | apply k_setLane | apply k_bump | apply k_bumpBy
      | apply k_ite | simp -iota only [k_mk_iff] | split | refine k_of_eq (by assumption) ?_)

theorem k_abortDescent (s : State) (h_s : K P s) : K P (abortDescent s) := by
  unfold abortDescent
  with_reducible repeat' (first
      | assumption | intro _ | apply k_foldl | apply k_foldl1 | apply k_setDev | apply k_bump | apply k_bumpBy
      | simp -iota only [k_mk_iff] | split | refine k_of_eq (by assumption) ?_)

theorem k_descentStep (n : Nat) (s : State) (h_s : K P s) : K P (descentStep n s) := by
  induction n generalizing s with
  | zero => unfold descentStep; first | exact h_s | (
      with_reducible repeat' (first
          | assumption | apply k_abortDescent | apply k_foldl
          | apply k_stopDom | apply k_ite | simp -iota only [k_mk_iff] | split))
  | succ n ih =>
    unfold descentStep
    with_reducible repeat' (first
        | assumption | apply ih | apply k_abortDescent | apply k_foldl
        | apply k_stopDom | apply k_ite | simp -iota only [k_mk_iff] | split)

theorem k_startDescent (s : State) (h_s : K P s) : K P (startDescent s) := by
  unfold startDescent
  with_reducible repeat' (first
      | assumption | intro _ | apply k_foldl | apply k_foldl1 | apply k_descentStep | apply k_stopDom
      | apply k_setDev | apply k_setReg | apply k_setRegAt | simp -iota only [k_mk_iff])

theorem k_judgeDev (s : State) (h_s : K P s) : K P (judgeDev s) := by
  unfold judgeDev
  with_reducible repeat' (first
      | assumption | apply k_startDescent | apply k_setDev | apply k_ite | simp -iota only [k_mk_iff] | split
      | refine k_of_eq (by assumption) ?_)

theorem k_wakeDone (s : State) (w : Wake) (h_s : K P s) : K P (wakeDone s w) := by
  unfold wakeDone
  with_reducible repeat' (first
      | assumption | intro _ | apply k_foldl | apply k_foldl1 | apply k_judgeDev | apply k_setDev | apply k_fire
      | apply k_tiEnd | apply k_ite | simp -iota only [k_mk_iff] | split | refine k_of_eq (by assumption) ?_)

theorem k_wakeStep (n : Nat) (s : State) (h_s : K P s) : K P (wakeStep n s) := by
  induction n generalizing s with
  | zero => unfold wakeStep; first | exact h_s | (
      with_reducible repeat' (first
          | assumption | apply k_foldl | apply k_startDom | apply k_wakeDone
          | apply k_ite
          | simp -iota only [k_mk_iff] | split))
  | succ n ih =>
    unfold wakeStep
    with_reducible repeat' (first
        | assumption | apply ih | apply k_foldl | apply k_startDom
        | apply k_wakeDone | apply k_ite | simp -iota only [k_mk_iff] | split)

theorem k_sequencer (s : State) (h_s : K P s) : K P (sequencer s) := by
  unfold sequencer
  with_reducible repeat' (first
      | assumption | apply k_wakeStep | apply k_judgeDev | apply k_descentStep | simp -iota only [k_mk_iff])

theorem k_endOrders (s : State) (d code : Nat) (h_s : K P s) : K P (endOrders s d code) := by
  unfold endOrders
  with_reducible repeat' (first
      | assumption | intro _ | apply k_foldl | apply k_foldl1 | apply k_failed | apply k_complete | apply k_setDom
      | apply k_ite | simp -iota only [k_mk_iff] | split | refine k_of_eq (by assumption) ?_)

theorem k_failStep (s : State) (d step : Nat) (h_s : K P s) : K P (failStep s d step) := by
  unfold failStep
  with_reducible repeat' (first
      | assumption | intro _ | apply k_retry | apply k_failed | apply k_endOrders | apply k_redirect
      | apply k_blocksFaulted | apply k_setPad | apply k_setDomBit | apply k_downAll | apply k_severAll
      | apply k_condPresent | apply k_journalOrHold | apply k_fire1 | apply k_fire | apply k_setDom | apply k_bump
      | apply k_bumpBy | apply k_setFld | apply k_setReg | apply k_setRegAt | apply k_ite
      | simp -iota only [k_mk_iff] | split | refine k_of_eq (by assumption) ?_)

theorem k_domUp (s : State) (d : Nat) (h_s : K P s) : K P (domUp s d) := by
  unfold domUp
  with_reducible repeat' (first
      | assumption | exact k_true (by assumption) | intro _ | apply k_foldl | apply k_foldl1 | apply k_retry
      | apply k_failed | apply k_endOrders | apply k_sequencer | apply k_stopDom | apply k_mantleUp
      | apply k_blocksBegin | apply k_uplinkRegs | apply k_laneGroupRegs | apply k_setPad | apply k_seamLive
      | apply k_releaseSeam | apply k_loadMeadow | apply k_setMeadowSt | apply k_bankUp | apply k_setBases
      | apply k_momentary | apply k_setDom | apply k_setMeadow | apply k_clearRegs | apply wf_meadow | apply we_nil2 | apply wf_nil | apply we_set | apply we_flipBit
      | apply k_ite | simp -iota only [k_mk_iff] | split | refine k_of_eq (by assumption) ?_)

theorem k_pathLost (s : State) (h_s : K P s) : K P (pathLost s) := by
  unfold pathLost
  with_reducible repeat' (first
      | assumption | intro _ | apply k_foldl | apply k_foldl1 | apply k_failStep | apply k_startWaiting
      | apply k_ite | simp -iota only [k_mk_iff] | split | refine k_of_eq (by assumption) ?_)

theorem k_stepFailed (s : State) (d step : Nat) (h_s : K P s) : K P (stepFailed s d step) := by
  unfold stepFailed
  with_reducible repeat' (first
      | assumption | apply k_pathLost | apply k_failStep | apply k_sequencer | apply k_ite
      | simp -iota only [k_mk_iff] | split | refine k_of_eq (by assumption) ?_)

theorem k_uplsMap {s : State} (h : K P s) (e : BitVec 16) (f : Uplink → Uplink) :
    K P { s with fedEpoch := e, upls := tmap {} f s.upls } :=
  ⟨h.pend, { h.canon with upls := twf_tmap ({} : Uplink) _ _ h.canon.upls }⟩

theorem k_powerGood (s : State) (d : Nat) (h_s : K P s) : K P (powerGood s d) := by
  unfold powerGood
  with_reducible repeat' (first
      | assumption | apply k_uplsMap | exact k_true (by assumption) | intro _ | apply k_stepFailed
      | apply k_sequencer | apply k_startWaiting | apply k_setPad | apply k_releaseSeam | apply k_severAll
      | apply k_setDom | apply k_setChan | apply wf_chan | apply we_nil2 | apply wf_nil | apply we_set | apply we_flipBit | apply k_ite | simp -iota only [k_mk_iff]
      | split | refine k_of_eq (by assumption) ?_)

theorem k_powerGoodTimeout (s : State) (d : Nat) (h_s : K P s) : K P (powerGoodTimeout s d) := by
  unfold powerGoodTimeout
  with_reducible repeat' (first
      | assumption | apply k_stepFailed | apply k_ite | simp -iota only [k_mk_iff] | split
      | refine k_of_eq (by assumption) ?_)

theorem k_retryRestart (s : State) (d : Nat) (h_s : K P s) : K P (retryRestart s d) := by
  unfold retryRestart
  with_reducible repeat' (first
      | assumption | intro _ | apply k_retry | apply k_setDom | apply k_ite | simp -iota only [k_mk_iff] | split
      | refine k_of_eq (by assumption) ?_)

theorem k_pllLock (s : State) (d : Nat) (h_s : K P s) : K P (pllLock s d) := by
  unfold pllLock
  with_reducible repeat' (first
      | assumption | intro _ | apply k_foldl | apply k_foldl1 | apply k_releaseSeam | apply k_setDom | apply k_ite
      | simp -iota only [k_mk_iff] | split | refine k_of_eq (by assumption) ?_)

theorem k_pllTimeout (s : State) (d : Nat) (h_s : K P s) : K P (pllTimeout s d) := by
  unfold pllTimeout
  with_reducible repeat' (first
      | assumption | apply k_stepFailed | apply k_ite | simp -iota only [k_mk_iff] | split
      | refine k_of_eq (by assumption) ?_)

theorem k_calibrated (s : State) (c eye group : Nat) (h_s : K P s) : K P (calibrated s c eye group) := by
  unfold calibrated
  with_reducible repeat' (first
      | assumption | apply k_setReg | apply k_setRegAt | apply k_ite | simp -iota only [k_mk_iff] | split
      | refine k_of_eq (by assumption) ?_)

theorem k_calFault (s : State) (c eye group : Nat) (h_s : K P s) : K P (calFault s c eye group) := by
  unfold calFault
  with_reducible repeat' (first
      | assumption | apply k_condIs | apply k_condGone | apply k_condPresent | apply k_ite
      | simp -iota only [k_mk_iff] | split | refine k_of_eq (by assumption) ?_)

theorem k_recal (s : State) (c eye group : Nat) (h_s : K P s) : K P (recal s c eye group) := by
  unfold recal
  with_reducible repeat' (first
      | assumption | apply k_calFault | apply k_calibrated | apply k_bump | apply k_bumpBy | apply k_ite
      | simp -iota only [k_mk_iff] | split | refine k_of_eq (by assumption) ?_)

theorem k_chanStart (s : State) (c eye group : Nat) (h_s : K P s) : K P (chanStart s c eye group) := by
  unfold chanStart
  with_reducible repeat' (first
      | assumption | exact k_true (by assumption) | intro _ | apply k_calFault | apply k_calibrated | apply k_rebase
      | apply k_chanInit | apply k_setChanSt | apply k_setChan | apply k_setReg | apply k_setRegAt | apply wf_chan
      | apply we_nil2 | apply wf_nil | apply we_set | apply we_flipBit | apply k_ite | simp -iota only [k_mk_iff] | split | refine k_of_eq (by assumption) ?_)

theorem k_ownStart (s : State) (d failed eye group : Nat) (h_s : K P s) : K P (ownStart s d failed eye group) := by
  unfold ownStart
  with_reducible repeat' (first
      | assumption | exact k_true (by assumption) | intro _ | apply k_foldl | apply k_foldl1 | apply k_failed
      | apply k_chanStart | apply k_recal | apply k_stepFailed | apply k_domUp | apply k_seamLive
      | apply k_releaseSeam | apply k_setChan | apply k_bump | apply k_bumpBy | apply wf_chan | apply we_nil2 | apply wf_nil | apply we_set | apply we_flipBit
      | apply k_ite | simp -iota only [k_mk_iff] | split | refine k_of_eq (by assumption) ?_)

theorem k_ownTimeout (s : State) (d : Nat) (h_s : K P s) : K P (ownTimeout s d) := by
  unfold ownTimeout
  with_reducible repeat' (first
      | assumption | apply k_stepFailed | apply k_ite | simp -iota only [k_mk_iff] | split
      | refine k_of_eq (by assumption) ?_)

theorem k_xrefLost (s : State) (h_s : K P s) : K P (xrefLost s) := by
  unfold xrefLost
  with_reducible repeat' (first
      | assumption | exact k_true (by assumption) | intro _ | apply k_foldl | apply k_foldl1 | apply k_retry
      | apply k_failStep | apply k_sequencer | apply k_severAll | apply k_bankDown | apply k_tiLost | apply k_setDom
      | apply k_setChan | apply k_setFld | apply k_setReg | apply k_setRegAt | apply wf_chan | apply we_nil2 | apply wf_nil | apply we_set | apply we_flipBit
      | apply k_ite | simp -iota only [k_mk_iff] | split | refine k_of_eq (by assumption) ?_)

theorem k_xrefReady (s : State) (h_s : K P s) : K P (xrefReady s) := by
  unfold xrefReady
  with_reducible repeat' (first
      | assumption | exact k_true (by assumption) | intro _ | apply k_foldl | apply k_foldl1 | apply k_retry
      | apply k_sequencer | apply k_severAll | apply k_momentary | apply k_setDom | apply k_setChan | apply k_setFld
      | apply k_setReg | apply k_setRegAt | apply wf_chan | apply we_nil2 | apply wf_nil | apply we_set | apply we_flipBit | apply k_ite | simp -iota only [k_mk_iff]
      | split | refine k_of_eq (by assumption) ?_)

theorem k_xrefTimeout (s : State) (h_s : K P s) : K P (xrefTimeout s) := by
  unfold xrefTimeout
  with_reducible repeat' (first
      | assumption | apply k_retry | apply k_xrefLost | apply k_fire1 | apply k_fire | apply k_bump | apply k_bumpBy
      | apply k_ite | simp -iota only [k_mk_iff] | split | refine k_of_eq (by assumption) ?_)

theorem k_xrefStop (s : State) (restarted : Bool) (h_s : K P s) : K P (xrefStop s restarted) := by
  unfold xrefStop
  with_reducible repeat' (first
      | assumption | apply k_xrefLost | apply k_ite | simp -iota only [k_mk_iff] | split
      | refine k_of_eq (by assumption) ?_)

theorem k_coincident (s : State) (m : Nat) (cut : Bool) (h_s : K P s) : K P (coincident s m cut) := by
  unfold coincident
  with_reducible repeat' (first
      | assumption | apply k_bump | apply k_bumpBy | apply k_setFld | apply k_setReg | apply k_setRegAt
      | apply k_ite | simp -iota only [k_mk_iff] | split | refine k_of_eq (by assumption) ?_)

theorem k_abandonOff (s : State) (m : Nat) (h_s : K P s) : K P (abandonOff s m) := by
  unfold abandonOff
  with_reducible repeat' (first
      | assumption | exact k_true (by assumption) | intro _ | apply k_coincident | apply k_judgeDev
      | apply k_setMeadowSt | apply k_setDom | apply k_setMeadow | apply wf_meadow | apply we_nil2 | apply wf_nil | apply we_set | apply we_flipBit
      | simp -iota only [k_mk_iff])

theorem k_qpwrAfter (s : State) (c : Nat) (h_s : K P s) : K P (qpwrAfter s c) := by
  unfold qpwrAfter
  with_reducible repeat' (first
      | assumption | exact k_true (by assumption) | intro _ | apply k_qpwrOff | apply k_setChan | apply wf_chan
      | apply we_nil2 | apply wf_nil | apply we_set | apply we_flipBit | apply k_ite | simp -iota only [k_mk_iff] | split | refine k_of_eq (by assumption) ?_)

theorem k_domOff (s : State) (d : Nat) (h_s : K P s) : K P (domOff s d) := by
  unfold domOff
  with_reducible repeat' (first
      | assumption | intro _ | apply k_foldl | apply k_foldl1 | apply k_qpwrAfter | apply k_endOrders
      | apply k_sequencer | apply k_startDom | apply k_uplinkLost | apply k_setPad | apply k_setDomBit
      | apply k_downAll | apply k_severAll | apply k_meadowLost | apply k_setMeadowSt | apply k_drainAll
      | apply k_bankDown | apply k_accrue | apply k_laneLost | apply k_tiLost | apply k_setDom | apply k_bump
      | apply k_bumpBy | apply k_ite | simp -iota only [k_mk_iff] | split | refine k_of_eq (by assumption) ?_)

theorem k_powerDrained (s : State) (d : Nat) (h_s : K P s) : K P (powerDrained s d) := by
  unfold powerDrained
  with_reducible repeat' (first
      | assumption | apply k_domOff | apply k_abandonOff | apply k_ite | simp -iota only [k_mk_iff] | split
      | refine k_of_eq (by assumption) ?_)

theorem k_descentComplete (s : State) (h_s : K P s) : K P (descentComplete s) := by
  unfold descentComplete
  with_reducible repeat' (first
      | assumption | intro _ | apply k_foldl | apply k_foldl1 | apply k_retry | apply k_qpwrOff | apply k_setDev
      | apply k_bump | apply k_bumpBy | apply k_ite | simp -iota only [k_mk_iff] | split
      | refine k_of_eq (by assumption) ?_)

theorem k_leaveShelf (s : State) (h_s : K P s) : K P (leaveShelf s) := by
  unfold leaveShelf
  with_reducible repeat' (first
      | assumption | apply k_retry | simp -iota only [k_mk_iff] | split | refine k_of_eq (by assumption) ?_)

theorem k_openWake (s : State) (h_s : K P s) : K P (openWake s) := by
  unfold openWake
  with_reducible repeat' (first
      | assumption | intro _ | apply k_leaveShelf | apply k_setDev | apply k_bankAdd | apply k_bump | apply k_bumpBy
      | apply k_setReg | apply k_setRegAt | simp -iota only [k_mk_iff] | split | refine k_of_eq (by assumption) ?_)

theorem k_wakeFire (s : State) (kind : Nat) (note : State → State) (route : Nat) (parts : List Nat) (input : Option Nat) (h_s : K P s) (h_note : ∀ s , K P s → K P (note s)) :
    K P (wakeFire s kind note route parts input) := by
  unfold wakeFire
  with_reducible repeat' (first
      | assumption | apply h_note | intro _ | apply k_foldl | apply k_foldl1 | apply k_openWake | apply k_sequencer
      | apply k_nameMeadow | apply k_setCause | apply k_wakeAdd | apply k_tiTaken | apply k_tiEnd | apply k_bump
      | apply k_bumpBy | apply k_ite | simp -iota only [k_mk_iff] | split | refine k_of_eq (by assumption) ?_)

theorem k_noteLow (kind hi lo v : Nat) (s : State) (h_s : K P s) : K P (noteLow kind hi lo v s) := by
  unfold noteLow
  with_reducible repeat' (first
      | assumption | apply k_setFld | apply k_setReg | apply k_setRegAt | apply k_ite | simp -iota only [k_mk_iff]
      | split | refine k_of_eq (by assumption) ?_)

theorem k_laneWake (s : State) (l : Nat) (pattern : Bool) (h_s : K P s) : K P (laneWake s l pattern) := by
  unfold laneWake
  with_reducible repeat' (first
      | assumption | intro _ | apply k_noteLow | apply k_wakeFire | apply k_ite | simp -iota only [k_mk_iff] | split
      | refine k_of_eq (by assumption) ?_)

theorem k_energyDetect (s : State) (l mv ns : Nat) (h_s : K P s) : K P (energyDetect s l mv ns) := by
  unfold energyDetect
  with_reducible repeat' (first
      | assumption | apply k_laneWake | apply k_ite | simp -iota only [k_mk_iff] | split
      | refine k_of_eq (by assumption) ?_)

theorem k_patternDetect (s : State) (l : Nat) (plus minus : BitVec 64) (h_s : K P s) :
    K P (patternDetect s l plus minus) := by
  unfold patternDetect
  with_reducible repeat' (first
      | assumption | apply k_laneWake | apply k_ite | simp -iota only [k_mk_iff] | split
      | refine k_of_eq (by assumption) ?_)

theorem k_uplinkWake (s : State) (n : Nat) (h_s : K P s) : K P (uplinkWake s n) := by
  unfold uplinkWake
  with_reducible repeat' (first
      | assumption | intro _ | apply k_noteLow | apply k_wakeFire | apply k_ite | simp -iota only [k_mk_iff] | split
      | refine k_of_eq (by assumption) ?_)

theorem k_i2cWake (s : State) (h_s : K P s) : K P (i2cWake s) := by
  unfold i2cWake
  with_reducible repeat' (first
      | assumption | apply k_id | intro _ | apply k_wakeFire | simp -iota only [k_mk_iff])

theorem k_pinWake (s : State) (h_s : K P s) : K P (pinWake s) := by
  unfold pinWake
  with_reducible repeat' (first
      | assumption | apply k_id | intro _ | apply k_wakeFire | apply k_ite | simp -iota only [k_mk_iff] | split
      | refine k_of_eq (by assumption) ?_)

theorem k_alarmWake (s : State) (k : Nat) (h_s : K P s) : K P (alarmWake s k) := by
  unfold alarmWake
  with_reducible repeat' (first
      | assumption | intro _ | apply k_noteLow | apply k_wakeFire | apply k_ite | simp -iota only [k_mk_iff] | split
      | refine k_of_eq (by assumption) ?_)

theorem k_stepWake (s : State) (k route : Nat) (h_s : K P s) : K P (stepWake s k route) := by
  unfold stepWake
  with_reducible repeat' (first
      | assumption | intro _ | apply k_noteLow | apply k_wakeFire | apply k_ite | simp -iota only [k_mk_iff] | split
      | refine k_of_eq (by assumption) ?_)

theorem k_inputWake (s : State) (k : Nat) (h_s : K P s) : K P (inputWake s k) := by
  unfold inputWake
  with_reducible repeat' (first
      | assumption | apply k_id | intro _ | apply k_wakeFire | apply k_tiEnd | apply k_ite
      | simp -iota only [k_mk_iff] | split | refine k_of_eq (by assumption) ?_)

theorem k_enterRest (s : State) (m : Nat) (h_s : K P s) : K P (enterRest s m) := by
  unfold enterRest
  with_reducible repeat' (first
      | assumption | exact k_true (by assumption) | intro _ | apply k_foldl | apply k_foldl1 | apply k_setMeadowSt
      | apply k_clearRsvs | apply k_dropRsv | apply k_setMeadow | apply k_bump | apply k_bumpBy | apply wf_meadow
      | apply we_nil2 | apply wf_nil | apply we_set | apply we_flipBit | simp -iota only [k_mk_iff])

theorem k_sleepJudge (s : State) (m : Nat) (h_s : K P s) : K P (sleepJudge s m) := by
  unfold sleepJudge
  with_reducible repeat' (first
      | assumption | exact k_true (by assumption) | intro _ | apply k_enterRest | apply k_judgeDev | apply k_stopDom
      | apply k_setMeadow | apply wf_meadow | apply we_nil2 | apply wf_nil | apply we_set | apply we_flipBit | apply k_ite | simp -iota only [k_mk_iff] | split
      | refine k_of_eq (by assumption) ?_)

theorem k_levelDone (s : State) (m : Nat) (h_s : K P s) : K P (levelDone s m) := by
  unfold levelDone
  with_reducible repeat' (first
      | assumption | exact k_true (by assumption) | intro _ | apply k_bankAdd | apply k_setMeadow | apply k_bump
      | apply k_bumpBy | apply wf_meadow | apply we_nil2 | apply wf_nil | apply we_set | apply we_flipBit | apply k_ite | simp -iota only [k_mk_iff] | split
      | refine k_of_eq (by assumption) ?_)

theorem k_govWritten (s : State) (m : Nat) (old new : Word) (h_s : K P s) : K P (govWritten s m old new) := by
  unfold govWritten
  with_reducible repeat' (first
      | assumption | exact k_true (by assumption) | intro _ | apply k_goLevel | apply k_setMeadow | apply wf_meadow
      | apply we_nil2 | apply wf_nil | apply we_set | apply we_flipBit | apply k_ite | simp -iota only [k_mk_iff] | split | refine k_of_eq (by assumption) ?_)

theorem k_latExpire (s : State) (m : Nat) (h_s : K P s) : K P (latExpire s m) := by
  unfold latExpire
  with_reducible repeat' (first
      | assumption | exact k_true (by assumption) | intro _ | apply k_goLevel | apply k_setMeadow | apply wf_meadow
      | apply we_nil2 | apply wf_nil | apply we_set | apply we_flipBit | apply k_ite | simp -iota only [k_mk_iff] | split | refine k_of_eq (by assumption) ?_)

theorem k_paceEvent (s : State) (m : Nat) (h_s : K P s) : K P (paceEvent s m) := by
  unfold paceEvent
  with_reducible repeat' (first
      | assumption | exact k_true (by assumption) | intro _ | apply k_tiEnd | apply k_govEvent | apply k_goLevel
      | apply k_setMeadow | apply k_bump | apply k_bumpBy | apply wf_meadow | apply we_nil2 | apply wf_nil | apply we_set | apply we_flipBit | apply k_ite
      | simp -iota only [k_mk_iff] | split | refine k_of_eq (by assumption) ?_)

theorem k_govWindow (s : State) (m busy : Nat) (h_s : K P s) : K P (govWindow s m busy) := by
  unfold govWindow
  with_reducible repeat' (first
      | assumption | exact k_true (by assumption) | intro _ | apply k_goLevel | apply k_setMeadow | apply wf_meadow
      | apply we_nil2 | apply wf_nil | apply we_set | apply we_flipBit | apply k_ite | simp -iota only [k_mk_iff] | split | refine k_of_eq (by assumption) ?_)

theorem k_paceWindow (s : State) (m rate running waiting : Nat) (h_s : K P s) :
    K P (paceWindow s m rate running waiting) := by
  unfold paceWindow
  with_reducible repeat' (first
      | assumption | intro _ | exact k_true (by assumption) | apply k_govWindow | apply k_condPresent
      | apply k_setMeadow | apply k_setReg | apply k_setRegAt | apply wf_meadow | apply we_nil2 | apply wf_nil | apply we_set | apply we_flipBit | apply k_ite
      | simp -iota only [k_mk_iff] | split | refine k_of_eq (by assumption) ?_)

theorem k_paceClear (s : State) (m : Nat) (h_s : K P s) : K P (paceClear s m) := by
  unfold paceClear
  with_reducible repeat' (first
      | assumption | apply k_condGone | apply k_setReg | apply k_setRegAt | simp -iota only [k_mk_iff])

theorem k_padRelease (s : State) (k : Nat) (h_s : K P s) : K P (padRelease s k) := by
  unfold padRelease
  with_reducible repeat' (first
      | assumption | apply k_blocksBegin | apply k_setPad | apply k_ite | simp -iota only [k_mk_iff] | split
      | refine k_of_eq (by assumption) ?_)

theorem k_padWrite (s : State) (k : Nat) (v w : Word) (h_s : K P s) : K P (padWrite s k v w).1 := by
  unfold padWrite
  with_reducible repeat' (first
      | assumption | apply k_padRelease | apply k_setReg | apply k_setRegAt | apply k_ite | apply k_ite1
      | simp -iota only [k_mk_iff] | split | refine k_of_eq (by assumption) ?_)

theorem k_gpioEdge (s : State) (g : Nat) (level : Bool) (h_s : K P s) : K P (gpioEdge s g level) := by
  unfold gpioEdge
  with_reducible repeat' (first
      | assumption | apply k_fire1 | apply k_fire | apply k_setGpioIn | apply k_ite | simp -iota only [k_mk_iff]
      | split | refine k_of_eq (by assumption) ?_)

theorem k_gpioOut (s : State) (g : Nat) (b : Bool) (h_s : K P s) : K P (gpioOut s g b) := by
  unfold gpioOut
  with_reducible repeat' (first
      | assumption | apply k_setFld | apply k_setReg | apply k_setRegAt | apply k_ite | simp -iota only [k_mk_iff]
      | split | refine k_of_eq (by assumption) ?_)

theorem k_gpioAction (s : State) (g : Nat) (h_s : K P s) : K P (gpioAction s g) := by
  unfold gpioAction
  with_reducible repeat' (first
      | assumption | apply k_gpioOut | apply k_tiEnd | apply k_setGpioPulse | apply k_ite
      | simp -iota only [k_mk_iff] | split | refine k_of_eq (by assumption) ?_)

theorem k_gpioPulseEnd (s : State) (g : Nat) (h_s : K P s) : K P (gpioPulseEnd s g) := by
  unfold gpioPulseEnd
  with_reducible repeat' (first
      | assumption | apply k_gpioOut | apply k_setGpioPulse | apply k_ite | simp -iota only [k_mk_iff] | split
      | refine k_of_eq (by assumption) ?_)

theorem k_domWrite (s : State) (d role : Nat) (b : Bool) (h_s : K P s) : K P (domWrite s d role b).1 := by
  unfold domWrite
  with_reducible repeat' (first
      | assumption | intro _ | apply k_sequencer | apply k_stopDom | apply k_startDom | apply k_setDomBit
      | apply k_setDom | apply k_ite | apply k_ite1 | simp -iota only [k_mk_iff] | split
      | refine k_of_eq (by assumption) ?_)

theorem k_domOnWrite (s : State) (hiHalf : Bool) (v : Word) (role : Nat) (h_s : K P s) :
    K P (domOnWrite s hiHalf v role).1 := by
  unfold domOnWrite
  with_reducible repeat' (first
      | assumption | intro _ | apply k_foldl | apply k_foldl1 | apply k_domWrite | apply k_ite | apply k_ite1
      | simp -iota only [k_mk_iff] | split | refine k_of_eq (by assumption) ?_)

theorem k_orderMeadowStart (s : State) (m : Nat) (d : Desc) (h_s : K P s) : K P (orderMeadowStart s m d) := by
  unfold orderMeadowStart
  with_reducible repeat' (first
      | assumption | intro _ | apply k_sequencer | apply k_startDom | apply k_setDom | simp -iota only [k_mk_iff])

theorem k_orderMeadowStop (s : State) (m : Nat) (d : Desc) (h_s : K P s) : K P (orderMeadowStop s m d) := by
  unfold orderMeadowStop
  with_reducible repeat' (first
      | assumption | intro _ | apply k_foldl | apply k_foldl1 | apply k_stopDom | apply k_leaveRest
      | apply k_coreStop | apply k_setDom | apply k_ite | simp -iota only [k_mk_iff] | split
      | refine k_of_eq (by assumption) ?_)

theorem k_orderRetryDomain (s : State) (d : Desc) (h_s : K P s) : K P (orderRetryDomain s d) := by
  unfold orderRetryDomain
  with_reducible repeat' (first
      | assumption | intro _ | apply k_foldl | apply k_foldl1 | apply k_failed | apply k_sequencer
      | apply k_startDom | apply k_setUplSt | apply k_setMeadowSt | apply k_setLaneSt | apply k_condGone
      | apply k_setDom | apply k_ite | simp -iota only [k_mk_iff] | split | refine k_of_eq (by assumption) ?_)

/-! Qdr.lean -/

theorem k_orderFlush (s : State) (d : Desc) (h_s : K P s) : K P (orderFlush s d).s := by
  unfold orderFlush
  with_reducible repeat' (first
      | assumption | apply k_qFlush | apply k_readDesc | apply k_bump | apply k_bumpBy | apply k_ite | apply k_ites
      | simp -iota only [k_mk_iff] | split | refine k_of_eq (by assumption) ?_)

theorem k_orderQueueStatus (s : State) (d : Desc) (h_s : K P s) : K P (orderQueueStatus s d).s := by
  unfold orderQueueStatus
  with_reducible repeat' (first
      | assumption | apply k_readDesc | apply k_ite | apply k_ites | simp -iota only [k_mk_iff] | split
      | refine k_of_eq (by assumption) ?_)

theorem k_orderQueueReset (s : State) (d : Desc) (h_s : K P s) : K P (orderQueueReset s d).s := by
  unfold orderQueueReset
  with_reducible repeat' (first
      | assumption | apply k_offerAgain | apply k_qReset | apply k_readDesc | apply k_ite | apply k_ite1
      | apply k_ites | simp -iota only [k_mk_iff] | split | refine k_of_eq (by assumption) ?_)

theorem k_orderPoolAudit (s : State) (d : Desc) (h_s : K P s) : K P (orderPoolAudit s d).s := by
  unfold orderPoolAudit
  with_reducible repeat' (first
      | assumption | exact k_true (by assumption) | intro _ | apply k_foldl | apply k_foldl1 | apply k_readDesc
      | apply k_setChan | apply wf_chan | apply we_nil2 | apply wf_nil | apply we_set | apply we_flipBit | apply k_ite | apply k_ites | simp -iota only [k_mk_iff]
      | split | refine k_of_eq (by assumption) ?_)

theorem k_orderQengClear (s : State) (h_s : K P s) : K P (orderQengClear s).s := by
  unfold orderQengClear
  with_reducible repeat' (first
      | assumption | apply k_clearRegs | simp -iota only [k_mk_iff])

theorem k_qengBody (op : Nat) (d : Desc) (s : State) (h_s : K P s) : K P (qengBody op d s).s := by
  unfold qengBody
  with_reducible repeat' (first
      | assumption | apply k_orderQengClear | apply k_orderPoolAudit | apply k_orderQueueReset
      | apply k_orderQueueStatus | apply k_orderFlush | simp -iota only [k_mk_iff] | split
      | refine k_of_eq (by assumption) ?_)

theorem k_orderFill (s : State) (c : Nat) (d : Desc) (h_s : K P s) : K P (orderFill s c d).s := by
  unfold orderFill
  with_reducible repeat' (first
      | assumption | exact k_true (by assumption) | intro _ | apply k_setChan | apply k_bump | apply k_bumpBy
      | apply wf_chan | apply we_memZero | apply wf_memZero | apply we_nil2 | apply wf_nil | apply we_set | apply we_flipBit | apply k_ite | apply k_ites | simp -iota only [k_mk_iff]
      | split | refine k_of_eq (by assumption) ?_)

theorem k_orderRecalibrate (s : State) (c eye group : Nat) (h_s : K P s) :
    K P (orderRecalibrate s c eye group).s := by
  unfold orderRecalibrate
  with_reducible repeat' (first
      | assumption | apply k_recal | apply k_bump | apply k_bumpBy | simp -iota only [k_mk_iff])

theorem k_orderQdrClear (s : State) (c : Nat) (h_s : K P s) : K P (orderQdrClear s c).s := by
  unfold orderQdrClear
  with_reducible repeat' (first
      | assumption | apply k_clearRegs | apply k_setFld | apply k_setReg | apply k_setRegAt
      | simp -iota only [k_mk_iff])

theorem k_qdrBody (c op : Nat) (d : Desc) (eye group : Nat) (s : State) (h_s : K P s) :
    K P (qdrBody c op d eye group s).s := by
  unfold qdrBody
  with_reducible repeat' (first
      | assumption | apply k_orderQdrClear | apply k_orderRecalibrate | apply k_orderFill
      | simp -iota only [k_mk_iff] | split | refine k_of_eq (by assumption) ?_)

theorem k_bulkPoisoned (s : State) (c addr : Nat) (who : Option Nat) (h_s : K P s) :
    K P (bulkPoisoned s c addr who) := by
  unfold bulkPoisoned
  with_reducible repeat' (first
      | assumption | apply k_setReg | apply k_setRegAt | simp -iota only [k_mk_iff] | split
      | refine k_of_eq (by assumption) ?_)

theorem k_bulkMarked (s : State) (c : Nat) (fresh : Bool) (h_s : K P s) : K P (bulkMarked s c fresh) := by
  delta bulkMarked
  with_reducible repeat' (first
      | assumption | apply k_fire1 | apply k_fire | apply k_ite | simp -iota only [k_mk_iff] | split
      | refine k_of_eq (by assumption) ?_)

theorem k_bulkCheck (s : State) (c off addr : Nat) (who : Option Nat) (h_s : K P s) :
    K P (bulkCheck s c off addr who).1 := by
  unfold bulkCheck
  with_reducible repeat' (first
      | assumption | exact k_true (by assumption) | apply k_bulkMarked | apply k_bulkPoisoned | apply k_fire1
      | apply k_fire | apply k_setChan | apply k_bump | apply k_bumpBy | apply wf_chan | apply we_checkWord | apply wf_checkWord
      | apply we_nil2 | apply wf_nil | apply we_set | apply we_flipBit | apply k_ite | apply k_ite1 | simp -iota only [k_mk_iff] | split
      | refine k_of_eq (by assumption) ?_)

theorem k_bulkWrite (s : State) (req c o off : Nat) (bs : List Byte) (h_s : K P s) :
    K P (bulkWrite s req c o off bs) := by
  unfold bulkWrite
  with_reducible repeat' (first
      | assumption | exact k_true (by assumption) | intro _ | apply k_bulkCheck | apply k_setChan | apply k_bump
      | apply k_bumpBy | apply wf_chan | apply we_memWrite | apply wf_memWrite | apply we_nil2 | apply wf_nil | apply we_set | apply we_flipBit | apply k_ite | apply k_ite1
      | simp -iota only [k_mk_iff] | split | refine k_of_eq (by assumption) ?_)

theorem k_recalTimer (s : State) (c eye group : Nat) (h_s : K P s) : K P (recalTimer s c eye group) := by
  unfold recalTimer
  with_reducible repeat' (first
      | assumption | exact k_true (by assumption) | intro _ | apply k_recal | apply k_setChan | apply k_bump
      | apply k_bumpBy | apply wf_chan | apply we_nil2 | apply wf_nil | apply we_set | apply we_flipBit | apply k_ite | simp -iota only [k_mk_iff] | split
      | refine k_of_eq (by assumption) ?_)

theorem k_scrubVisit (s : State) (c : Nat) (h_s : K P s) : K P (scrubVisit s c) := by
  unfold scrubVisit
  with_reducible repeat' (first
      | assumption | exact k_true (by assumption) | intro _ | apply k_foldl | apply k_foldl1 | apply k_scrubQueue
      | apply k_setChan | apply k_bump | apply k_bumpBy | apply wf_chan | apply we_nil2 | apply wf_nil | apply we_set | apply we_flipBit | apply k_ite
      | simp -iota only [k_mk_iff] | split | refine k_of_eq (by assumption) ?_)

theorem k_scrubWords (s : State) (c : Nat) (h_s : K P s) : K P (scrubWords s c) := by
  unfold scrubWords
  with_reducible repeat' (first
      | assumption | exact k_true (by assumption) | intro _ | apply k_foldl | apply k_foldl1 | apply k_bulkMarked
      | apply k_bulkPoisoned | apply k_fire1 | apply k_fire | apply k_setChan | apply wf_chan | apply we_checkWord | apply wf_checkWord
      | apply we_nil2 | apply wf_nil | apply we_set | apply we_flipBit | apply k_ite | apply k_ite1 | simp -iota only [k_mk_iff] | split
      | refine k_of_eq (by assumption) ?_)

theorem k_bulkVisit (s : State) (c : Nat) (h_s : K P s) : K P (bulkVisit s c) := by
  unfold bulkVisit
  with_reducible repeat' (first
      | assumption | exact k_true (by assumption) | intro _ | apply k_scrubWords | apply k_setChan | apply k_bump
      | apply k_bumpBy | apply wf_chan | apply we_nil2 | apply wf_nil | apply we_set | apply we_flipBit | apply k_ite | simp -iota only [k_mk_iff] | split
      | refine k_of_eq (by assumption) ?_)

theorem k_flipPool (s : State) (c b k j : Nat) (h_s : K P s) : K P (flipPool s c b k j) := by
  unfold flipPool
  with_reducible repeat' (first
      | assumption | intro _ | apply k_foldl | apply k_foldl1 | apply k_setCons | apply k_setProd | apply k_setQueue
      | apply k_ite | apply k_ite1 | simp -iota only [k_mk_iff] | split | refine k_of_eq (by assumption) ?_)

theorem k_flipChan (s : State) (c k j : Nat) (h_s : K P s) : K P (flipChan s c k j) := by
  unfold flipChan
  with_reducible repeat' (first
      | assumption | exact k_true (by assumption) | intro _ | apply k_flipPool | apply k_setChan | apply k_setQueue
      | apply wf_chan | apply we_nil2 | apply wf_nil | apply we_set | apply we_flipBit | apply k_ite | simp -iota only [k_mk_iff] | split
      | refine k_of_eq (by assumption) ?_)

theorem k_flip (s : State) (u : Upset) (h_s : K P s) : K P (Machine.flip s u) := by
  unfold Machine.flip
  with_reducible repeat' (first
      | assumption | exact k_true (by assumption) | intro _ | apply k_flipChan | apply k_setMeadow | apply k_setCore
      | apply wf_meadow | apply wf_core | apply wg_core | apply we_nil2 | apply wf_nil | apply we_set | apply we_flipBit | apply wg_nil | apply k_ite
      | simp -iota only [k_mk_iff] | split | refine k_of_eq (by assumption) ?_)

theorem k_scrubPass (s : State) (c : Nat) (us : List Upset) (h_s : K P s) : K P (scrubPass s c us) := by
  unfold scrubPass
  with_reducible repeat' (first
      | assumption | intro _ | apply k_foldl | apply k_foldl1 | apply k_flip | apply k_scrubVisit
      | simp -iota only [k_mk_iff])

theorem k_bulkScrub (s : State) (c : Nat) (us : List Upset) (h_s : K P s) : K P (bulkScrub s c us) := by
  unfold bulkScrub
  with_reducible repeat' (first
      | assumption | intro _ | apply k_foldl | apply k_foldl1 | apply k_flip | apply k_bulkVisit
      | simp -iota only [k_mk_iff])

/-! Sampler.lean -/

theorem k_smpStep (s : State) (k code : Nat) (hop : Option Nat) (h_s : K P s) : K P (smpStep s k code hop) := by
  unfold smpStep
  with_reducible repeat' (first
      | assumption | apply k_stepWake | apply k_fire | apply k_bump | apply k_bumpBy | apply k_setReg
      | apply k_setRegAt | apply k_ite | simp -iota only [k_mk_iff] | split | refine k_of_eq (by assumption) ?_)

theorem k_smpEnd (s : State) (x : SmpPass) (h_s : K P s) : K P (smpEnd s x) := by
  unfold smpEnd
  with_reducible repeat' (first
      | assumption | apply k_tiEnd | apply k_bump | apply k_bumpBy | apply k_ite | simp -iota only [k_mk_iff]
      | split | refine k_of_eq (by assumption) ?_)

theorem k_smpOn (s : State) (x : SmpPass) (k : Nat) (h_s : K P s) : K P (smpOn s x k) := by
  unfold smpOn
  with_reducible repeat' (first
      | assumption | apply k_smpEnd | simp -iota only [k_mk_iff] | split | refine k_of_eq (by assumption) ?_)

theorem k_smpConvert (s : State) (x : SmpPass) (h_s : K P s) : K P (smpConvert s x) := by
  unfold smpConvert
  with_reducible repeat' (first
      | assumption | apply k_smpOn | apply k_smpStep | simp -iota only [k_mk_iff])

theorem k_smpFinish (s : State) (h_s : K P s) : K P (smpFinish s) := by
  unfold smpFinish
  with_reducible repeat' (first
      | assumption | intro _ | apply k_foldTo | apply k_foldTo1 | apply k_smpConvert | simp -iota only [k_mk_iff]
      | split | refine k_of_eq (by assumption) ?_)

theorem k_smpPass (s : State) (periodic : Bool) (hop : Option Nat) (volts : List Nat) (h_s : K P s) :
    K P (smpPass s periodic hop volts) := by
  unfold smpPass
  with_reducible repeat' (first
      | assumption | apply k_smpOn | simp -iota only [k_mk_iff])

theorem k_smpNext (s : State) (h_s : K P s) : K P (smpNext s) := by
  unfold smpNext
  with_reducible repeat' (first
      | assumption | simp -iota only [k_mk_iff] | split | refine k_of_eq (by assumption) ?_)

theorem k_smpRunNow (s : State) (volts : List Nat) (h_s : K P s) : K P (smpRunNow s volts) := by
  unfold smpRunNow
  with_reducible repeat' (first
      | assumption | apply k_smpNext | apply k_smpPass | apply k_tiTaken | apply k_bump | apply k_bumpBy
      | apply k_ite | simp -iota only [k_mk_iff] | split | refine k_of_eq (by assumption) ?_)

theorem k_runNow (s : State) (volts : List Nat) (h_s : K P s) : K P (runNow s volts) := by
  unfold runNow
  with_reducible repeat' (first
      | assumption | apply k_smpRunNow | apply k_smpFinish | apply k_ite | simp -iota only [k_mk_iff] | split
      | refine k_of_eq (by assumption) ?_)

theorem k_samplerPass (s : State) (volts : List Nat) (h_s : K P s) : K P (samplerPass s volts) := by
  unfold samplerPass
  with_reducible repeat' (first
      | assumption | apply k_smpRunNow | apply k_smpNext | apply k_smpPass | apply k_smpFinish | apply k_ite
      | simp -iota only [k_mk_iff] | split | refine k_of_eq (by assumption) ?_)

theorem k_smpHeld (s : State) (j : Nat) (b : Bool) (h_s : K P s) : K P (smpHeld s j b) := by
  unfold smpHeld
  with_reducible repeat' (first
      | assumption | intro _ | apply k_smpNext | apply k_tiEnd | apply k_setFld | apply k_setReg | apply k_setRegAt
      | apply k_ite | simp -iota only [k_mk_iff] | split | refine k_of_eq (by assumption) ?_)

theorem k_smpClearSteps (s : State) (h_s : K P s) : K P (smpClearSteps s) := by
  unfold smpClearSteps
  with_reducible repeat' (first
      | assumption | intro _ | apply k_foldTo | apply k_foldTo1 | apply k_setReg | apply k_setRegAt
      | simp -iota only [k_mk_iff])

theorem k_smpClear (s : State) (h_s : K P s) : K P (smpClear s) := by
  unfold smpClear
  with_reducible repeat' (first
      | assumption | intro _ | apply k_foldTo | apply k_foldTo1 | apply k_smpClearSteps | apply k_smpFinish
      | apply k_tiEnd | apply k_setReg | apply k_setRegAt | apply k_ite | simp -iota only [k_mk_iff] | split
      | refine k_of_eq (by assumption) ?_)

theorem k_smpCfgWritten (s : State) (old new : Word) (h_s : K P s) : K P (smpCfgWritten s old new) := by
  unfold smpCfgWritten
  with_reducible repeat' (first
      | assumption | apply k_ite | simp -iota only [k_mk_iff] | split | refine k_of_eq (by assumption) ?_)

theorem k_orderSample (s : State) (uv : Nat) (h_s : K P s) : K P (orderSample s uv).s := by
  unfold orderSample
  with_reducible repeat' (first
      | assumption | simp -iota only [k_mk_iff])

end Sys2Proof.Laws
end

