-- ==== Sys2Proof/Laws/CoreSteps.lean ====
section
/-! SUPPORT. What one instruction of a core comes to: the fetch, the body, the outcome. -/

namespace Sys2Proof.Laws

open Sys2Proof.Machine

/-! Cores by number -/

theorem core_setCore (s : State) (r k : Nat) (x : CoreState) (h : Rising s.cores) :
    (s.setCore r x).core k = if k = r then x else s.core k := tget_tset _ _ _ _ _ h

theorem core_setCore_same (s : State) (r : Nat) (x : CoreState) (h : Rising s.cores) : (s.setCore r x).core r = x := by
  simp [core_setCore _ _ _ _ h]

theorem cores_setCore (s : State) (r : Nat) (x : CoreState) (h : Rising s.cores) : Rising (s.setCore r x).cores :=
  rising_tput _ _ _ h

/-- A core without its local memory. -/
def pipe (c : CoreState) : CoreState := { c with sb := [], sram := [], sramErr := [] }

/-! A core's view of its local memory -/

/-- The byte of an entry that covers an address. -/
def entryByte (e : SbEntry) (a : Nat) : Option Byte := if e.word = a / 8 then e.bytes.getD (a % 8) none else none

theorem localByte_eq (c : CoreState) (a : Nat) :
    localByte c a = (c.sb.reverse.findSome? fun e => entryByte e a).getD (readByte c.sram c.sramErr a) := by
  unfold localByte entryByte
  cases c.sb.reverse.findSome? _ <;> rfl

/-- Memory after the first `n` bytes of an entry have been written. -/
theorem sbApply_from (e : SbEntry) (a : Nat) : ∀ (n : Nat) (m : Table Byte), n ≤ 8 → Rising m →
    let x := (List.range n).foldl (fun m k => match e.bytes.getD k none with | some b => tset 0 m (8 * e.word + k) b | none => m) m
    Rising x ∧ tget 0 x a = if a / 8 = e.word ∧ a % 8 < n then (e.bytes.getD (a % 8) none).getD (tget 0 m a) else tget 0 m a
  | 0, m, _, h => by simp [h]
  | n + 1, m, hn, h => by
    obtain ⟨h1, h2⟩ := sbApply_from e a n m (by omega) h
    rw [List.range_succ, List.foldl_append]
    simp only [List.foldl_cons, List.foldl_nil]
    cases hb : e.bytes.getD n none with
    | none =>
      refine ⟨h1, h2.trans ?_⟩
      by_cases hw : a / 8 = e.word
      · by_cases hk : a % 8 < n
        · rw [if_pos ⟨hw, hk⟩, if_pos ⟨hw, by omega⟩]
        · rw [if_neg (by omega)]
          by_cases hk' : a % 8 = n
          · rw [if_pos ⟨hw, by omega⟩, hk', hb]; rfl
          · rw [if_neg (by omega)]
      · rw [if_neg (by tauto), if_neg (by tauto)]
    | some b =>
      refine ⟨rising_tput _ _ _ h1, ?_⟩
      rw [tget_tset _ _ _ _ _ h1, h2]
      by_cases hw : a / 8 = e.word
      · by_cases hk' : a % 8 = n
        · rw [if_pos (by omega), if_pos ⟨hw, by omega⟩, hk', hb]; rfl
        · rw [if_neg (by omega)]
          by_cases hk : a % 8 < n
          · rw [if_pos ⟨hw, hk⟩, if_pos ⟨hw, by omega⟩]
          · rw [if_neg (by omega), if_neg (by omega)]
      · rw [if_neg (by omega), if_neg (by tauto), if_neg (by tauto)]

theorem sbApply_get (m : Table Byte) (e : SbEntry) (a : Nat) (h : Rising m) :
    tget 0 (sbApply m e) a = (entryByte e a).getD (tget 0 m a) := by
  have x := (sbApply_from e a 8 m (Nat.le_refl _) h).2
  refine Eq.trans x ?_
  unfold entryByte
  by_cases hw : a / 8 = e.word
  · rw [if_pos ⟨hw, Nat.mod_lt _ (by omega)⟩, if_pos hw.symm]
  · rw [if_neg (by tauto), if_neg (fun x => hw x.symm)]; rfl

theorem sbApply_rising (m : Table Byte) (e : SbEntry) (h : Rising m) : Rising (sbApply m e) :=
  (sbApply_from e 0 8 m (Nat.le_refl _) h).1

/-- An entry written over a memory whose word it is in has no error left: reads find the entry's bytes, and the others as before. -/
theorem sbApply_reads (m : Table Byte) (errs : Table (BitVec 72)) (e : SbEntry) (a : Nat) (h : Rising m)
    (he : tget 0 errs e.word = 0 ∨ tget 0 errs e.word = eccMark) :
    readByte (sbApply m e) errs a = (entryByte e a).getD (readByte m errs a) := by
  by_cases hw : e.word = a / 8
  · rw [readByte_settled _ _ _ (hw ▸ he), readByte_settled _ _ _ (hw ▸ he), sbApply_get m e a h]
  · have n : ∀ i, i / 8 = a / 8 → entryByte e i = none := fun i hi => if_neg (by omega)
    rw [n a rfl]
    exact readByte_congr a (fun i hi => by rw [sbApply_get m e i h, n i hi]; rfl) rfl

/-- An entry that holds its whole word, written over it: the word has no error left. -/
theorem sbApply_whole (m : Table Byte) (errs : Table (BitVec 72)) (e : SbEntry) (a : Nat) (h : Rising m) (he : Rising errs)
    (hb : ((List.range 8).all fun k => (e.bytes.getD k none).isSome) = true) :
    readByte (sbApply m e) (tset 0 errs e.word 0) a = (entryByte e a).getD (readByte m errs a) := by
  have t := fun i => tget_tset (0 : BitVec 72) errs e.word i 0 he
  rw [sbApply_reads m _ e a h (by rw [t, if_pos rfl]; exact .inl rfl)]
  by_cases hw : e.word = a / 8
  · have := List.all_eq_true.1 hb (a % 8) (List.mem_range.2 (Nat.mod_lt _ (by omega)))
    obtain ⟨b, hb⟩ := Option.isSome_iff_exists.1 this
    have : entryByte e a = some b := (if_pos hw).trans hb
    rw [this]; rfl
  · have : entryByte e a = none := if_neg hw
    rw [this]
    exact readByte_congr a (fun _ _ => rfl) (by rw [t, if_neg (fun x => hw x.symm)])

/-- The tables of a core's local memory rise. -/
def SramRises (c : CoreState) : Prop := Rising c.sram ∧ Rising c.sramErr

/-- From a state to another, only local memory of core `r` and counters change. -/
structure Stirs (r : Nat) (s t : State) : Prop where
  other : ∀ k, k ≠ r → t.core k = s.core k
  pipe : ∀ k, pipe (t.core k) = pipe (s.core k)
  rising : Rising t.cores
  frame : t = { s with cores := t.cores, priv := t.priv, free := t.free }

/-- As `Stirs`, and no core's view of its memory changes. -/
structure Drains (r : Nat) (s t : State) : Prop extends Stirs r s t where
  bytes : (∀ k, SramRises (s.core k)) → (∀ k, SramRises (t.core k)) ∧ ∀ k a, localByte (t.core k) a = localByte (s.core k) a

theorem stirs_refl (s : State) (r : Nat) (h : Rising s.cores) : Stirs r s s := ⟨fun _ _ => rfl, fun _ => rfl, h, rfl⟩

theorem drains_refl (s : State) (r : Nat) (h : Rising s.cores) : Drains r s s := ⟨stirs_refl s r h, fun x => ⟨x, fun _ _ => rfl⟩⟩

theorem stirs_trans {r : Nat} {s t u : State} (a : Stirs r s t) (b : Stirs r t u) : Stirs r s u :=
  ⟨fun k n => (b.other k n).trans (a.other k n), fun k => (b.pipe k).trans (a.pipe k), b.rising, by rw [b.frame, a.frame]⟩

theorem drains_trans {r : Nat} {s t u : State} (a : Drains r s t) (b : Drains r t u) : Drains r s u :=
  ⟨stirs_trans a.toStirs b.toStirs, fun x => ⟨(b.bytes (a.bytes x).1).1, fun k i => ((b.bytes (a.bytes x).1).2 k i).trans ((a.bytes x).2 k i)⟩⟩

theorem drains_of_cores {r : Nat} {s t : State} (h : Rising s.cores) (e : t.cores = s.cores)
    (f : t = { s with cores := t.cores, priv := t.priv, free := t.free }) : Drains r s t := by
  have c : ∀ k, t.core k = s.core k := fun k => by simp only [State.core, e]
  exact ⟨⟨fun k _ => c k, fun k => by rw [c], e ▸ h, f⟩, fun x => ⟨fun k => by rw [c]; exact x k, fun k a => by rw [c]⟩⟩

theorem stirs_setCore (s : State) (r : Nat) (x : CoreState) (h : Rising s.cores) (e : Laws.pipe x = Laws.pipe (s.core r)) :
    Stirs r s (s.setCore r x) := by
  refine ⟨fun k n => by rw [core_setCore _ _ _ _ h, if_neg n], fun k => ?_, cores_setCore _ _ _ h, rfl⟩
  rw [core_setCore _ _ _ _ h]
  split
  · subst k; exact e
  · rfl

/-- Only core `r`'s own view has to be looked at. -/
theorem drains_of_stirs {s t : State} {r : Nat} (a : Stirs r s t)
    (b : SramRises (s.core r) → SramRises (t.core r) ∧ ∀ i, localByte (t.core r) i = localByte (s.core r) i) : Drains r s t := by
  refine ⟨a, fun y => ⟨fun k => ?_, fun k i => ?_⟩⟩
  all_goals by_cases hk : k = r
  · subst k; exact (b (y r)).1
  · rw [a.other k hk]; exact y k
  · subst k; exact (b (y r)).2 i
  · rw [a.other k hk]

theorem drains_setCore (s : State) (r : Nat) (x : CoreState) (h : Rising s.cores) (e : Laws.pipe x = Laws.pipe (s.core r))
    (b : SramRises (s.core r) → SramRises x ∧ ∀ a, localByte x a = localByte (s.core r) a) : Drains r s (s.setCore r x) :=
  drains_of_stirs (stirs_setCore s r x h e) (by rw [core_setCore_same _ _ _ h]; exact b)

theorem cores_notePoison (s : State) (r a : Nat) (f : Bool) : (notePoison s r a f).cores = s.cores := rfl

theorem frame_notePoison (s : State) (r a : Nat) (f : Bool) :
    notePoison s r a f = { s with cores := (notePoison s r a f).cores, priv := (notePoison s r a f).priv, free := (notePoison s r a f).free } := rfl

/-- What a check of a word of local memory makes of a core: no error, or the mark, is left in the word, and reads find what they found. -/
structure Checks (k : Nat) (c d : CoreState) : Prop where
  sb : d.sb = c.sb
  rises : SramRises c → SramRises d
  settled : SramRises c → tget 0 d.sramErr k = 0 ∨ tget 0 d.sramErr k = eccMark
  reads : SramRises c → ∀ a, readByte d.sram d.sramErr a = readByte c.sram c.sramErr a

/-- A check of a word of local memory. -/
theorem drains_localCheck (s : State) (r a : Nat) (f : Bool) (h : Rising s.cores) :
    Drains r s (localCheck s r a f).1 ∧ Checks (a / 8) (s.core r) ((localCheck s r a f).1.core r) := by
  unfold localCheck
  dsimp only
  split
  · next z => exact ⟨drains_refl s r h, rfl, id, fun _ => .inl z, fun _ _ => rfl⟩
  · generalize hX : ({ s.core r with sram := (checkWord (s.core r).sram (s.core r).sramErr (a / 8)).mem, sramErr := (checkWord (s.core r).sram (s.core r).sramErr (a / 8)).errs } : CoreState) = X
    have hc : (s.setCore r X).core r = X := core_setCore_same _ _ _ h
    have k : Checks (a / 8) (s.core r) X := by
      have q := fun w : SramRises (s.core r) => checkWord_reads (s.core r).sram (s.core r).sramErr (a / 8) w.1 w.2
      rw [← hX]
      exact ⟨rfl, fun w => ⟨(q w).1, (q w).2.1⟩, fun w => (q w).2.2.1, fun w => (q w).2.2.2⟩
    have d : Drains r s (s.setCore r X) := by
      refine drains_setCore s r X h (by rw [← hX]; rfl) fun w => ⟨k.rises w, fun i => ?_⟩
      rw [localByte_eq, localByte_eq, k.sb, k.reads w]
    split
    · exact ⟨d, by rw [hc]; exact k⟩
    · have e : ((s.setCore r X).bumpPriv r CORE_CNT_SRAM_CORR).core r = X := hc
      exact ⟨drains_trans d (drains_of_cores d.rising rfl rfl), by rw [e]; exact k⟩
    · have e : (notePoison (s.setCore r X) r a f).core r = X := hc
      exact ⟨drains_trans d (drains_of_cores d.rising (cores_notePoison ..) (frame_notePoison ..)), by rw [e]; exact k⟩

/-- A drain touches only local memory, and leaves the core's view of it as it was; the oldest entry has gone. -/
theorem drain_gives (s : State) (r : Nat) (h : Rising s.cores) :
    Drains r s (drainOne s r) ∧ ((drainOne s r).core r).sb = (s.core r).sb.tail ∧
      ∀ e, (s.core r).sb.head? = some e → SramRises (s.core r) → ∃ m, Rising m ∧ ((drainOne s r).core r).sram = sbApply m e := by
  unfold drainOne
  dsimp only
  split
  · next e => exact ⟨drains_refl s r h, by rw [e]; rfl, by rw [e]; exact fun _ x => nomatch x⟩
  · next e rest hs =>
    have a : Drains r s (fetchLost s r) := drains_of_cores h rfl rfl
    have ha : (fetchLost s r).core r = s.core r := rfl
    generalize fetchLost s r = u at a ha
    have st : Stirs r s (u.modCore r fun c => { c with sb := rest }) := stirs_trans a.toStirs (stirs_setCore u r _ a.rising rfl)
    have hv : (u.modCore r fun c => { c with sb := rest }).core r = { s.core r with sb := rest } := by
      rw [← ha]; exact core_setCore_same _ _ _ a.rising
    generalize (u.modCore r fun c => { c with sb := rest }) = v at st hv
    -- the entry's word is checked, or its error cleared; then the entry is written
    have last : ∀ w : State, Stirs r s w → (w.core r).sb = rest → (SramRises (s.core r) → SramRises (w.core r) ∧
        ∀ i, readByte (sbApply (w.core r).sram e) (w.core r).sramErr i = (entryByte e i).getD (readByte (s.core r).sram (s.core r).sramErr i)) →
        Drains r s (w.modCore r fun c => { c with sram := sbApply c.sram e }) ∧
          ((w.modCore r fun c => { c with sram := sbApply c.sram e }).core r).sb = (s.core r).sb.tail ∧
          ∀ e', (s.core r).sb.head? = some e' → SramRises (s.core r) →
            ∃ m, Rising m ∧ ((w.modCore r fun c => { c with sram := sbApply c.sram e }).core r).sram = sbApply m e' := by
      intro w sw hb hr
      have hw : (w.modCore r fun c => { c with sram := sbApply c.sram e }).core r = { w.core r with sram := sbApply (w.core r).sram e } :=
        core_setCore_same _ _ _ sw.rising
      refine ⟨drains_of_stirs (stirs_trans sw (stirs_setCore w r _ sw.rising rfl)) fun q => ?_, by rw [hw, hs]; exact hb, fun e' he q => ?_⟩
      rotate_left
      · rw [hs] at he
        obtain rfl : e = e' := by simpa using he
        exact ⟨_, (hr q).1.1, by rw [hw]⟩
      rw [hw]
      refine ⟨⟨sbApply_rising _ _ (hr q).1.1, (hr q).1.2⟩, fun i => ?_⟩
      rw [localByte_eq, localByte_eq]
      dsimp only
      rw [(hr q).2, hb, hs]
      simp only [List.reverse_cons, List.findSome?_append]
      cases rest.reverse.findSome? fun e => entryByte e i <;> simp
    split
    · next full =>
      have hx : (v.modCore r fun c => { c with sramErr := tset 0 c.sramErr e.word 0 }).core r = { v.core r with sramErr := tset 0 (v.core r).sramErr e.word 0 } :=
        core_setCore_same _ _ _ st.rising
      refine last _ (stirs_trans st (stirs_setCore v r _ st.rising rfl)) (by rw [hx, hv]) fun q => ?_
      rw [hx, hv]
      exact ⟨⟨q.1, rising_tput _ _ _ q.2⟩, fun i => sbApply_whole _ _ _ _ q.1 q.2 full⟩
    · obtain ⟨d, k⟩ := drains_localCheck v r (8 * e.word) false st.rising
      rw [hv] at k
      have z : 8 * e.word / 8 = e.word := by omega
      rw [z] at k
      refine last _ (stirs_trans st d.toStirs) k.sb fun q => ⟨k.rises q, fun i => ?_⟩
      rw [sbApply_reads _ _ _ _ (k.rises q).1 (k.settled q), k.reads q]

theorem drains_drainOne (s : State) (r : Nat) (h : Rising s.cores) : Drains r s (drainOne s r) := (drain_gives s r h).1

theorem drains_foldl {α : Type} {r : Nat} (f : State → α → State) (hf : ∀ s a, Rising s.cores → Drains r s (f s a)) (l : List α) (s : State)
    (h : Rising s.cores) : Drains r s (l.foldl f s) := by
  induction l generalizing s with
  | nil => exact drains_refl s r h
  | cons a l ih => exact drains_trans (hf s a h) (ih _ (hf s a h).rising)

theorem drains_drainFor (s : State) (r : Nat) (hit : SbEntry → Bool) (h : Rising s.cores) : Drains r s (drainFor s r hit) := by
  unfold drainFor foldTo
  apply drains_foldl _ _ _ _ h
  intro s _ h
  split
  · exact drains_drainOne s r h
  · exact drains_refl s r h

theorem drains_drainAll (s : State) (r : Nat) (h : Rising s.cores) : Drains r s (drainAll s r) := by
  unfold drainAll foldTo
  exact drains_foldl _ (fun s _ h => drains_drainOne s r h) _ _ h

theorem drains_fetch (s : State) (r : Nat) (h : Rising s.cores) (alone : (s.core r).lockstep = false) : Drains r s (fetch s r).1 := by
  unfold fetch
  dsimp only
  split
  · exact drains_refl s r h
  · have a := drains_drainFor s r (fun e => decide (e.word = (s.core r).pc.toNat / 8)) h
    simp only [pairOf, alone, Bool.false_eq_true, if_false, List.foldl_cons, List.foldl_nil]
    exact drains_trans a (drains_localCheck _ _ _ _ a.rising).1

/-! What the pipe of a core shows -/

theorem greg_of_pipe {c d : CoreState} (h : pipe c = pipe d) (n : Reg) : c.greg n = d.greg n := by
  have : c.g = d.g := by have e := congrArg CoreState.g h; exact e
  simp [CoreState.greg, this]

theorem pc_of_pipe {c d : CoreState} (h : pipe c = pipe d) : c.pc = d.pc := by have e := congrArg CoreState.pc h; exact e
theorem rep_of_pipe {c d : CoreState} (h : pipe c = pipe d) : c.rep = d.rep := by have e := congrArg CoreState.rep h; exact e
theorem lockstep_of_pipe {c d : CoreState} (h : pipe c = pipe d) : c.lockstep = d.lockstep :=
  by have e := congrArg CoreState.lockstep h; exact e
theorem ac0_of_pipe {c d : CoreState} (h : pipe c = pipe d) : c.ac0 = d.ac0 := by have e := congrArg CoreState.ac0 h; exact e
theorem ac1_of_pipe {c d : CoreState} (h : pipe c = pipe d) : c.ac1 = d.ac1 := by have e := congrArg CoreState.ac1 h; exact e

theorem rising_of_canonical {s : State} (h : Canonical s) : Rising s.cores := ((twf_iff _ _).1 h.cores.1).1

theorem drains_ready {s : State} {r : Nat} (h : Ready s r) : Drains r s (fetched s r) :=
  drains_fetch s r (rising_of_canonical h.sound) h.alone

theorem greg_fetched {s : State} {r : Nat} (h : Ready s r) (n : Reg) : gOf (fetched s r) r n = gOf s r n :=
  greg_of_pipe ((drains_ready h).pipe r) n

theorem pc_fetched {s : State} {r : Nat} (h : Ready s r) : pcOf (fetched s r) r = pcOf s r :=
  pc_of_pipe ((drains_ready h).pipe r)

/-! One instruction -/

theorem fetched_alone {s : State} {r : Nat} (h : Ready s r) : ((fetched s r).core r).lockstep = false := by
  rw [lockstep_of_pipe ((drains_ready h).pipe r), h.alone]

theorem fetched_single {s : State} {r : Nat} (h : Ready s r) : ((fetched s r).core r).rep = none := by
  rw [rep_of_pipe ((drains_ready h).pipe r), h.single]

/-- A core that takes its next instruction fetches it, and the work of a legal one is done and its outcome applied. -/
theorem run_ready {s : State} {r : Nat} (h : Ready s r) (w : Word) (again : Bool) (body : Body) :
    runInstr s r w true again body =
      applyOut (body (fetched s r) r).s r w (body (fetched s r) r).carry (body (fetched s r) r).out := by
  have e : fetch s r = (fetched s r, none) := Prod.ext rfl h.served
  unfold runInstr repeated runFirst runBody
  simp [h.runs, h.single, e, fetched_single h, fetched_alone h]

/-- An instruction whose register fields are not legal traps with cause 2 (R323). -/
theorem run_illegal {s : State} {r : Nat} (h : Ready s r) (w : Word) (again : Bool) (body : Body) :
    runInstr s r w false again body = trapOn (fetched s r) r 2 w (pcOf (fetched s r) r) := by
  have e : fetch s r = (fetched s r, none) := Prod.ext rfl h.served
  unfold runInstr repeated runFirst syncTrap trapOn
  simp [h.runs, h.single, e, fetched_single h]

variable {u : State} {r : Nat}

theorem pairOf_alone (a : (u.core r).lockstep = false) : pairOf u r = [r] := by simp [pairOf, a]

theorem applyOut_done (a : (u.core r).lockstep = false) (b : (u.core r).rep = none) (w : Word) (carry : List (Reg × Word))
    (ws : List RegWrite) : applyOut u r w carry (.done ws) = retireOn u r ws := by
  simp only [applyOut, pairOf_alone a, List.foldl_cons, List.foldl_nil, retireOn, State.modCore, CoreState.finish, b]

theorem applyOut_jump (a : (u.core r).lockstep = false) (w : Word) (carry : List (Reg × Word)) (ws : List RegWrite) (t : Word) :
    applyOut u r w carry (.jump ws t) = leapOn u r ws t := by
  simp only [applyOut, pairOf_alone a, List.foldl_cons, List.foldl_nil, leapOn, State.modCore, CoreState.finish]

theorem applyOut_rett (a : (u.core r).lockstep = false) (w : Word) (carry : List (Reg × Word)) (ws : List RegWrite) (t : Word)
    (n : Nat) : applyOut u r w carry (.rett ws t n) = leapOn u r ws t n := by
  simp only [applyOut, pairOf_alone a, List.foldl_cons, List.foldl_nil, leapOn, State.modCore, CoreState.finish]

theorem applyOut_trap (b : (u.core r).rep = none) (w : Word) (carry : List (Reg × Word)) (cause : Nat) (v : Word) (less : Nat) :
    applyOut u r w carry (.trap cause v false less) = trapOn u r cause v (pcOf u r) := by
  simp [applyOut, trapOn, syncTrap, b]

theorem applyOut_trap_next (b : (u.core r).rep = none) (w : Word) (carry : List (Reg × Word)) (cause : Nat) (v : Word) (less : Nat) :
    applyOut u r w carry (.trap cause v true less) = trapOn u r cause v (pcOf u r + 4) := by
  simp [applyOut, trapOn, b]

/-- An instruction that computes register results alone. -/
theorem run_regs {s : State} (h : Ready s r) (w : Word) (again : Bool) (body : Body) (ws : List RegWrite)
    (e : body (fetched s r) r = regsOnly (fetched s r) ws) : runInstr s r w true again body = retireOn (fetched s r) r ws := by
  rw [run_ready h, e]
  exact applyOut_done (fetched_alone h) (fetched_single h) ..

/-- What a function of two registers gives. -/
theorem alu2_gives {s : State} (h : Ready s r) (w : Word) (again : Bool) (rd ra rb : Reg) (f : Word → Word → Word) :
    .next (runInstr s r w true again (alu2 rd ra rb f)) = gives s r rd (f (gOf s r ra) (gOf s r rb)) := by
  rw [run_regs h w again (alu2 rd ra rb f) _ rfl]
  have g := fun n => greg_fetched (r := r) h n
  rw [← g ra, ← g rb]

/-- What a function of one register gives. -/
theorem alu1_gives {s : State} (h : Ready s r) (w : Word) (again : Bool) (rd ra : Reg) (f : Word → Word) :
    .next (runInstr s r w true again (alu1 rd ra f)) = gives s r rd (f (gOf s r ra)) := by
  rw [run_regs h w again (alu1 rd ra f) _ rfl]
  have g := fun n => greg_fetched (r := r) h n
  rw [← g ra]

theorem gives_congr {s : State} {rd : Reg} {v v' : Word} (h : v = v') : gives s r rd v = gives s r rd v' := by rw [h]

/-! Results that arrive -/

/-- The registers of two cores are alike. -/
structure SameRegs (c d : CoreState) : Prop where
  g : c.g = d.g
  cst : c.cst = d.cst
  tvec : c.tvec = d.tvec
  tpc : c.tpc = d.tpc
  tcause : c.tcause = d.tcause
  tval : c.tval = d.tval
  trep : c.trep = d.trep
  qid : c.qid = d.qid

theorem sameRegs_refl (c : CoreState) : SameRegs c c := ⟨rfl, rfl, rfl, rfl, rfl, rfl, rfl, rfl⟩

theorem sameRegs_commit {c d : CoreState} (h : SameRegs c d) (w : RegWrite) : SameRegs (c.commit w) (d.commit w) := by
  cases w with
  | g n v =>
    show SameRegs (if n = 0 then c else { c with g := tset 0 c.g n.toNat v }) (if n = 0 then d else { d with g := tset 0 d.g n.toNat v })
    by_cases hn : n = 0
    · rw [if_pos hn, if_pos hn]; exact h
    · rw [if_neg hn, if_neg hn]
      exact ⟨by simp [h.g], h.cst, h.tvec, h.tpc, h.tcause, h.tval, h.trep, h.qid⟩
  | sr n v =>
    show SameRegs (c.writeSr n.toNat v) (d.writeSr n.toNat v)
    generalize n.toNat = k
    obtain ⟨h1, h2, h3, h4, h5, h6, h7, h8⟩ := h
    unfold CoreState.writeSr
    split <;> constructor <;> simp_all

theorem sameRegs_foldl {c d : CoreState} (h : SameRegs c d) (l : List RegWrite) :
    SameRegs (l.foldl CoreState.commit c) (l.foldl CoreState.commit d) := by
  induction l generalizing c d with
  | nil => exact h
  | cons w l ih => exact ih (sameRegs_commit h w)

/-- What a core is beside its registers. -/
theorem rest_commit (c : CoreState) (w : RegWrite) : (c.commit w).st = c.st ∧ (c.commit w).ac0 = c.ac0 ∧ (c.commit w).ac1 = c.ac1 ∧
    (c.commit w).rsv = c.rsv ∧ (c.commit w).role = c.role ∧ (c.commit w).sb = c.sb ∧ (c.commit w).sram = c.sram ∧
    (c.commit w).pc = c.pc ∧ (c.commit w).w1 = c.w1 ∧ (c.commit w).w2 = c.w2 := by
  cases w with
  | g n v =>
    have e : c.commit (.g n v) = if n = 0 then c else { c with g := tset 0 c.g n.toNat v } := rfl
    rw [e]
    by_cases h : n = 0
    · rw [if_pos h]; simp
    · rw [if_neg h]; simp
  | sr n v =>
    show (c.writeSr n.toNat v).st = c.st ∧ (c.writeSr n.toNat v).ac0 = c.ac0 ∧ (c.writeSr n.toNat v).ac1 = c.ac1 ∧
      (c.writeSr n.toNat v).rsv = c.rsv ∧ (c.writeSr n.toNat v).role = c.role ∧ (c.writeSr n.toNat v).sb = c.sb ∧
      (c.writeSr n.toNat v).sram = c.sram ∧ (c.writeSr n.toNat v).pc = c.pc ∧ (c.writeSr n.toNat v).w1 = c.w1 ∧
      (c.writeSr n.toNat v).w2 = c.w2
    unfold CoreState.writeSr
    split <;> simp

theorem rest_foldl (l : List RegWrite) (c : CoreState) : (l.foldl CoreState.commit c).st = c.st ∧ (l.foldl CoreState.commit c).ac0 = c.ac0 ∧
    (l.foldl CoreState.commit c).ac1 = c.ac1 ∧ (l.foldl CoreState.commit c).rsv = c.rsv ∧ (l.foldl CoreState.commit c).role = c.role ∧
    (l.foldl CoreState.commit c).sb = c.sb ∧ (l.foldl CoreState.commit c).sram = c.sram ∧ (l.foldl CoreState.commit c).pc = c.pc ∧
    (l.foldl CoreState.commit c).w1 = c.w1 ∧ (l.foldl CoreState.commit c).w2 = c.w2 := by
  induction l generalizing c with
  | nil => simp
  | cons w l ih =>
    have a := ih (c.commit w)
    have b := rest_commit c w
    simp only [List.foldl_cons]
    exact ⟨a.1.trans b.1, a.2.1.trans b.2.1, a.2.2.1.trans b.2.2.1, a.2.2.2.1.trans b.2.2.2.1, a.2.2.2.2.1.trans b.2.2.2.2.1,
      a.2.2.2.2.2.1.trans b.2.2.2.2.2.1, a.2.2.2.2.2.2.1.trans b.2.2.2.2.2.2.1, a.2.2.2.2.2.2.2.1.trans b.2.2.2.2.2.2.2.1,
      a.2.2.2.2.2.2.2.2.1.trans b.2.2.2.2.2.2.2.2.1, a.2.2.2.2.2.2.2.2.2.trans b.2.2.2.2.2.2.2.2.2⟩

/-- Once everything has arrived, an executed instruction has added its own results to those before it. -/
theorem flush_shift (c : CoreState) (ws : List RegWrite) : SameRegs (c.shift ws).flush (ws.foldl CoreState.commit c.flush) := by
  have a : ∀ d : CoreState, SameRegs d.flush (d.w1.foldl CoreState.commit (d.w2.foldl CoreState.commit d)) := fun _ =>
    ⟨rfl, rfl, rfl, rfl, rfl, rfl, rfl, rfl⟩
  have e := a (c.shift ws)
  have x : SameRegs (c.shift ws) (c.w2.foldl CoreState.commit c) := ⟨rfl, rfl, rfl, rfl, rfl, rfl, rfl, rfl⟩
  have y := sameRegs_foldl (sameRegs_foldl x c.w1) ws
  have z := sameRegs_foldl (a c) ws
  constructor
  · exact (e.g.trans y.g).trans z.g.symm
  · exact (e.cst.trans y.cst).trans z.cst.symm
  · exact (e.tvec.trans y.tvec).trans z.tvec.symm
  · exact (e.tpc.trans y.tpc).trans z.tpc.symm
  · exact (e.tcause.trans y.tcause).trans z.tcause.symm
  · exact (e.tval.trans y.tval).trans z.tval.symm
  · exact (e.trep.trans y.trep).trans z.trep.symm
  · exact (e.qid.trans y.qid).trans z.qid.symm

theorem greg_commit_g (c : CoreState) (rd n : Reg) (v : Word) (h : Rising c.g) :
    (c.commit (.g rd v)).greg n = if n = 0 then 0 else if n = rd then v else c.greg n := by
  have e : c.commit (.g rd v) = if rd = 0 then c else { c with g := tset 0 c.g rd.toNat v } := rfl
  rw [e]
  unfold CoreState.greg
  by_cases h0 : n = 0
  · rw [if_pos h0, if_pos h0]
  · rw [if_neg h0, if_neg h0]
    by_cases hr : rd = 0
    · rw [if_pos hr, hr, if_neg h0, if_neg h0]
    · rw [if_neg hr, if_neg h0, tget_tset _ _ _ _ _ h]
      by_cases k : n = rd
      · simp [k]
      · have : n.toNat ≠ rd.toNat := fun x => k (BitVec.eq_of_toNat_eq x)
        rw [if_neg this, if_neg k]

theorem sram_rising {s : State} (h : Canonical s) (k : Nat) : SramRises (s.core k) :=
  ⟨((twf_iff _ _).1 (core_wf (s := s) ⟨trivial, h⟩ k).1.1).1, ((twf_iff _ _).1 (core_wf (s := s) ⟨trivial, h⟩ k).1.2).1⟩

theorem flush_g_rising {s : State} (h : Canonical s) (k : Nat) : Rising (s.core k).flush.g :=
  ((twf_iff _ _).1 (wg_flush (core_wf (s := s) ⟨trivial, h⟩ k).2)).1

/-- Two cores alike but for local memory, PC, counts and what runs them flush alike. -/
theorem flush_of_pipe {c d : CoreState} (h : pipe c = pipe d) : SameRegs c.flush d.flush := by
  have e : ∀ c : CoreState, SameRegs c.flush (c.w1.foldl CoreState.commit (c.w2.foldl CoreState.commit c)) := fun _ =>
    ⟨rfl, rfl, rfl, rfl, rfl, rfl, rfl, rfl⟩
  have f : ∀ c : CoreState, SameRegs (pipe c).flush c.flush := fun c => by
    have x : SameRegs (pipe c) c := ⟨rfl, rfl, rfl, rfl, rfl, rfl, rfl, rfl⟩
    have y := sameRegs_foldl (sameRegs_foldl x c.w2) c.w1
    exact ⟨y.g, y.cst, y.tvec, y.tpc, y.tcause, y.tval, y.trep, y.qid⟩
  have a := f c
  have b := f d
  rw [h] at a
  exact ⟨a.g.symm.trans b.g, a.cst.symm.trans b.cst, a.tvec.symm.trans b.tvec, a.tpc.symm.trans b.tpc,
    a.tcause.symm.trans b.tcause, a.tval.symm.trans b.tval, a.trep.symm.trans b.trep, a.qid.symm.trans b.qid⟩

theorem sameRegs_trans {a b c : CoreState} (h : SameRegs a b) (k : SameRegs b c) : SameRegs a c :=
  ⟨h.g.trans k.g, h.cst.trans k.cst, h.tvec.trans k.tvec, h.tpc.trans k.tpc, h.tcause.trans k.tcause, h.tval.trans k.tval,
    h.trep.trans k.trep, h.qid.trans k.qid⟩

theorem flush_pc (c : CoreState) (n : Nat) (v : Word) : SameRegs ({ c with resume := n, pc := v } : CoreState).flush c.flush := by
  have x : SameRegs ({ c with resume := n, pc := v } : CoreState) c := ⟨rfl, rfl, rfl, rfl, rfl, rfl, rfl, rfl⟩
  have y := sameRegs_foldl (sameRegs_foldl x c.w2) c.w1
  exact ⟨y.g, y.cst, y.tvec, y.tpc, y.tcause, y.tval, y.trep, y.qid⟩

theorem core_retireOn (u : State) (r k : Nat) (ws : List RegWrite) (h : Rising u.cores) :
    (retireOn u r ws).core k = if k = r then { (u.core r).shift ws with resume := 0, pc := (u.core r).pc + 4 } else u.core k :=
  core_setCore _ _ _ _ h

/-- What an instruction leaves as it was, once it has completed with one register result. -/
theorem retire_keeps {s : State} (h : Ready s r) (rd : Reg) (v : Word) :
    KeepsAllBut rd s (retireOn (fetched s r) r [.g rd v]) r := by
  have d := drains_ready h
  have hb := d.bytes (sram_rising h.sound)
  have ec := core_retireOn (fetched s r) r r [.g rd v] d.rising
  rw [if_pos rfl] at ec
  have fl : SameRegs ((retireOn (fetched s r) r [.g rd v]).core r).flush ((s.core r).flush.commit (.g rd v)) := by
    rw [ec]
    exact sameRegs_trans (flush_pc ..) (sameRegs_trans (flush_shift ..) (sameRegs_foldl (flush_of_pipe (d.pipe r)) [.g rd v]))
  have sr : ∀ c : CoreState, (c.commit (.g rd v)).cst = c.cst ∧ (c.commit (.g rd v)).tvec = c.tvec ∧ (c.commit (.g rd v)).tpc = c.tpc ∧
      (c.commit (.g rd v)).tcause = c.tcause ∧ (c.commit (.g rd v)).tval = c.tval ∧ (c.commit (.g rd v)).trep = c.trep ∧
      (c.commit (.g rd v)).qid = c.qid := by
    intro c
    have e : c.commit (.g rd v) = if rd = 0 then c else { c with g := tset 0 c.g rd.toNat v } := rfl
    rw [e]; split <;> simp
  have x := sr (s.core r).flush
  have rs := rest_foldl ((fetched s r).core r).w2 ((fetched s r).core r)
  have pp := d.pipe r
  refine ⟨fun n hn => ?_, ?_, ?_, fun a => ?_, fun k hk => ?_, ?_⟩
  · have : ∀ {a b : CoreState}, SameRegs a b → a.greg n = b.greg n := fun h => by simp [CoreState.greg, h.g]
    rw [this fl, greg_commit_g _ _ _ _ (flush_g_rising h.sound r), if_neg hn]
    split
    · next e => simp [CoreState.greg, e]
    · rfl
  · exact ⟨fl.cst.trans x.1, fl.tvec.trans x.2.1, fl.tpc.trans x.2.2.1, fl.tcause.trans x.2.2.2.1, fl.tval.trans x.2.2.2.2.1,
      fl.trep.trans x.2.2.2.2.2.1, fl.qid.trans x.2.2.2.2.2.2⟩
  · rw [ec]
    have q := fun {α : Type} (f : CoreState → α) (hf : ∀ c, f (pipe c) = f c) => (hf _).symm.trans ((congrArg f pp).trans (hf _))
    exact ⟨rs.2.1.trans (q (·.ac0) fun _ => rfl), rs.2.2.1.trans (q (·.ac1) fun _ => rfl), rs.2.2.2.1.trans (q (·.rsv) fun _ => rfl),
      rs.1.trans (q (·.st) fun _ => rfl), rs.2.2.2.2.1.trans (q (·.role) fun _ => rfl)⟩
  · rw [ec]
    refine Eq.trans ?_ (hb.2 r a)
    have e1 : (((fetched s r).core r).shift [.g rd v]).sb = ((fetched s r).core r).sb := rs.2.2.2.2.2.1
    have e2 : (((fetched s r).core r).shift [.g rd v]).sram = ((fetched s r).core r).sram := rs.2.2.2.2.2.2.1
    have e3 : (((fetched s r).core r).shift [.g rd v]).sramErr = ((fetched s r).core r).sramErr := err_commits _ _
    rw [localByte_eq, localByte_eq]
    dsimp only
    rw [e1, e2, e3]
  · rw [core_retireOn _ _ _ _ d.rising, if_neg hk]; exact d.other k hk
  · have e : retireOn (fetched s r) r [.g rd v] = { fetched s r with cores := (retireOn (fetched s r) r [.g rd v]).cores, stats := (retireOn (fetched s r) r [.g rd v]).stats } := rfl
    rw [e, d.frame]

theorem commit_rsv (c : CoreState) (o : Option Nat) (w : RegWrite) :
    ({ c with rsv := o } : CoreState).commit w = { c.commit w with rsv := o } := by
  cases w with
  | g n v =>
    have e : ∀ c : CoreState, c.commit (.g n v) = if n = 0 then c else { c with g := tset 0 c.g n.toNat v } := fun _ => rfl
    rw [e, e]; split <;> rfl
  | sr n v =>
    have e : ∀ c : CoreState, c.commit (.sr n v) = c.writeSr n.toNat v := fun _ => rfl
    rw [e, e]; unfold CoreState.writeSr; split <;> rfl

theorem flush_rsv (c : CoreState) (o : Option Nat) : ({ c with rsv := o } : CoreState).flush = { c.flush with rsv := o } := by
  have f : ∀ (l : List RegWrite) (c : CoreState), l.foldl CoreState.commit { c with rsv := o } = { l.foldl CoreState.commit c with rsv := o } := by
    intro l
    induction l with
    | nil => intro c; rfl
    | cons w l ih => intro c; rw [List.foldl_cons, List.foldl_cons, commit_rsv, ih]
  unfold CoreState.flush
  dsimp only
  rw [f, f]

/-- The core as a trap leaves it, but for what the fetch at the vector does. -/
def trapped (c : CoreState) (cause : Nat) (tval tpc : Word) (trep : Nat) : CoreState :=
  { c with cst := trapCst c.cst, gov := trapCst c.cst, tpc := tpc, tcause := w32 cause, tval := tval, trep := w32 trep,
           pc := c.tvec, rep := none, resume := 0, hang := none }

theorem rest_dropRsv (s : State) (r : Nat) (h : Rising s.cores) : Rising (dropRsv s r).cores ∧
    (dropRsv s r).core r = { s.core r with rsv := none } ∧ (dropRsv s r).prods = s.prods ∧ (dropRsv s r).conss = s.conss ∧
    (dropRsv s r).queues = s.queues := by
  unfold dropRsv
  split
  · next e => exact ⟨h, by rw [← e], rfl, rfl, rfl⟩
  · dsimp only
    split <;> exact ⟨cores_setCore _ _ _ h, core_setCore_same _ _ _ h, rfl, rfl, rfl⟩

theorem localByte_congr {c d : CoreState} (h : c.sb = d.sb) (k : c.sram = d.sram) (e : c.sramErr = d.sramErr) (a : Nat) :
    localByte c a = localByte d a := by
  rw [localByte_eq, localByte_eq, h, k, e]

/-- What taking a trap does to the core and what it leaves. -/
theorem trapCore_gives (s : State) (r cause : Nat) (tval tpc : Word) (trep : Nat) (hc : Canonical s) :
    let t := trapCore s r cause tval tpc trep
    (∃ st, pipe (t.core r) = pipe { trapped { (s.core r).flush with rsv := none } cause tval tpc trep with st := st }) ∧
    (∀ a, localByte (t.core r) a = localByte (s.core r) a) ∧ t.prods = s.prods ∧ t.conss = s.conss ∧ t.queues = s.queues := by
  obtain ⟨hr, hc1, e1, e2, e3⟩ := rest_dropRsv s r (rising_of_canonical hc)
  have sr : ∀ k, SramRises ((dropRsv s r).core k) := sram_rising (k_dropRsv (P := T) s r ⟨trivial, hc⟩).canon
  have hfl : ((dropRsv s r).core r).flush = { (s.core r).flush with rsv := none } := by rw [hc1]; exact flush_rsv _ _
  generalize hX : trapped { (s.core r).flush with rsv := none } cause tval tpc trep = X
  have h2 : Rising ((dropRsv s r).setCore r X).cores := cores_setCore _ _ _ hr
  have sx : X.sb = (s.core r).sb ∧ X.sram = (s.core r).sram ∧ X.sramErr = (s.core r).sramErr := by
    have a := rest_foldl (s.core r).w2 (s.core r)
    have b := rest_foldl (s.core r).w1 ((s.core r).w2.foldl CoreState.commit (s.core r))
    rw [← hX]
    exact ⟨b.2.2.2.2.2.1.trans a.2.2.2.2.2.1, b.2.2.2.2.2.2.1.trans a.2.2.2.2.2.2.1, (err_commits _ _).trans (err_commits _ _)⟩
  have sr2 : ∀ k, SramRises (((dropRsv s r).setCore r X).core k) := fun k => by
    rw [core_setCore _ _ _ _ hr]
    split
    · unfold SramRises; rw [sx.2.1, sx.2.2]; exact sram_rising hc r
    · exact sr k
  have dr := drains_drainFor ((dropRsv s r).setCore r X) r (fun e => decide (e.word = X.pc.toNat / 8)) h2
  have hb := dr.bytes sr2
  have ht : trapCore s r cause tval tpc trep =
      (let u := ((drainFor ((dropRsv s r).setCore r X) r fun e => decide (e.word = X.pc.toNat / 8)).bumpPriv r CORE_CNT_TRAPS).bankAdd (bankMeadow (r / 8)) (3 * (r % 8) + 2) 1
       if localSize ≤ X.pc.toNat then u.modCore r fun c => { c with st := .vectorStop }
       else
        let x := localCheck u r X.pc.toNat true
        if x.2 then x.1.modCore r fun c => { c with st := .vectorStop } else x.1) := by
    rw [← hX]
    unfold trapCore
    dsimp only
    rw [hfl]
    rfl
  intro t
  have ht' : t = _ := ht
  rw [ht']
  dsimp only
  generalize hu : (drainFor ((dropRsv s r).setCore r X) r fun e => decide (e.word = X.pc.toNat / 8)) = u at dr hb
  have q := hb.2 r
  rw [core_setCore_same _ _ _ hr] at q
  -- `w` is the state after the counts, or after the check of the vector's word
  have hv : ∀ w : State, Rising w.cores → (∃ st, pipe (w.core r) = pipe { X with st := st }) → (∀ a, localByte (w.core r) a = localByte X a) →
      (w.prods = s.prods ∧ w.conss = s.conss ∧ w.queues = s.queues) → ∀ b : Bool,
      let v : State := if b then w.modCore r fun c => { c with st := .vectorStop } else w
      (∃ st, pipe (v.core r) = pipe { X with st := st }) ∧ (∀ a, localByte (v.core r) a = localByte (s.core r) a) ∧
        v.prods = s.prods ∧ v.conss = s.conss ∧ v.queues = s.queues := by
    intro w hw hp hl hq b
    have lX : ∀ a, localByte X a = localByte (s.core r) a := localByte_congr sx.1 sx.2.1 sx.2.2
    cases b with
    | false => exact ⟨hp, fun a => (hl a).trans (lX a), hq⟩
    | true =>
      have e : (w.modCore r fun c => { c with st := .vectorStop }).core r = { w.core r with st := .vectorStop } := core_setCore_same _ _ _ hw
      refine ⟨⟨.vectorStop, ?_⟩, fun a => ?_, hq⟩
      · show pipe ((w.modCore r fun c => { c with st := .vectorStop }).core r) = _
        rw [e]
        obtain ⟨st, hp⟩ := hp
        exact congrArg (fun c : CoreState => ({ c with st := .vectorStop } : CoreState)) hp
      · show localByte ((w.modCore r fun c => { c with st := .vectorStop }).core r) a = _
        rw [e, ← lX a, ← hl a]
        exact localByte_congr rfl rfl rfl a
  have fu : u.prods = s.prods ∧ u.conss = s.conss ∧ u.queues = s.queues := by
    rw [dr.frame]; exact ⟨e1, e2, e3⟩
  have pu : pipe (u.core r) = pipe { X with st := X.st } := by rw [dr.pipe r, core_setCore_same _ _ _ hr]
  generalize hw : (u.bumpPriv r CORE_CNT_TRAPS).bankAdd (bankMeadow (r / 8)) (3 * (r % 8) + 2) 1 = w
  have wc : w.cores = u.cores := by rw [← hw]; rfl
  have wk : ∀ k, w.core k = u.core k := fun k => by simp only [State.core, wc]
  have wr : Rising w.cores := wc ▸ dr.rising
  have wf : w.prods = s.prods ∧ w.conss = s.conss ∧ w.queues = s.queues := by rw [← hw]; exact fu
  split
  · exact hv w wr ⟨X.st, by rw [wk]; exact pu⟩ (fun a => by rw [wk]; exact q a) wf true
  · obtain ⟨d, c⟩ := drains_localCheck w r X.pc.toNat true wr
    have sw : ∀ k, SramRises (w.core k) := fun k => by rw [wk]; exact hb.1 k
    refine hv _ d.rising ⟨X.st, by rw [d.pipe r, wk]; exact pu⟩ (fun a => ?_) (by rw [d.frame]; exact wf) _
    rw [(d.bytes sw).2 r a, wk]; exact q a

/-- An offset counts words from the instruction. -/
theorem awayBy_words {n : Nat} (off : BitVec n) (pc : Word) : awayBy pc off = wordsFrom pc off := by
  unfold awayBy wordsFrom
  congr 1
  rw [BitVec.ofInt_mul, BitVec.shiftLeft_eq_mul_twoPow, BitVec.mul_comm]
  rfl

/-- A word that computes a transfer. -/
theorem run_jump {s : State} (h : Ready s r) (w : Word) (body : Body) (ws : List RegWrite) (t : Word)
    (e : body (fetched s r) r = { s := fetched s r, out := .jump ws t }) : (.next (runInstr s r w true false body) : Answer) = jumps s r ws t := by
  rw [run_ready h, e]
  exact congrArg Host.Outcome.next (applyOut_jump (fetched_alone h) ..)

theorem run_trap {s : State} (h : Ready s r) (w : Word) (again : Bool) (body : Body) (cause : Nat) (v : Word) (reqs : List Nat)
    (e : body (fetched s r) r = trapOut (fetched s r) cause v reqs) :
    (.next (runInstr s r w true again body) : Answer) = .next (trapOn (fetched s r) r cause v (pcOf s r)) := by
  rw [run_ready h, e, ← pc_fetched h]
  exact congrArg Host.Outcome.next (applyOut_trap (fetched_single h) ..)

/-- An instruction that leaves the state `u` and transfers, where the core stays by itself. -/
theorem run_jump_from {s : State} (h : Ready s r) (w : Word) (body : Body) (ws : List RegWrite) (t : Word)
    (e : (body (fetched s r) r).out = .jump ws t) (a : Alone (body (fetched s r) r).s r) :
    (.next (runInstr s r w true false body) : Answer) = .next (leapOn (body (fetched s r) r).s r ws t) := by
  rw [run_ready h, e]
  exact congrArg Host.Outcome.next (applyOut_jump a.lock ..)

theorem run_done_from {s : State} (h : Ready s r) (w : Word) (again : Bool) (body : Body) (ws : List RegWrite)
    (e : (body (fetched s r) r).out = .done ws) (a : Alone (body (fetched s r) r).s r) :
    runInstr s r w true again body = retireOn (body (fetched s r) r).s r ws := by
  rw [run_ready h, e]
  exact applyOut_done a.lock a.rep ..

theorem acc_fetched {s : State} (h : Ready s r) (ac : Bool) : accOf (fetched s r) r ac = accOf s r ac := by
  have a := ac0_of_pipe ((drains_ready h).pipe r)
  have b := ac1_of_pipe ((drains_ready h).pipe r)
  unfold accOf
  rw [a, b]

theorem alone_setAcc {u : State} (hr : Rising u.cores) (a : Alone u r) (ac : Bool) (v : Dword) : Alone (setAcc u r ac v) r := by
  unfold setAcc State.modCore
  constructor <;> rw [core_setCore_same _ _ _ hr]
  · cases ac <;> exact a.lock
  · cases ac <;> exact a.rep

theorem alone_fetched {s : State} (h : Ready s r) : Alone (fetched s r) r := ⟨fetched_alone h, fetched_single h⟩

/-- An accumulator operation of two registers. -/
theorem mac_accumulates {s : State} (h : Ready s r) (w : Word) (again : Bool) (ac : Bool) (ra rb : Reg) (f : Dword → Word → Word → Dword) :
    (.next (runInstr s r w true again (macBody ac ra rb f)) : Answer) = accumulates s r ac (f (accOf s r ac) (gOf s r ra) (gOf s r rb)) := by
  have e : macBody ac ra rb f (fetched s r) r = regsOnly (setAcc (fetched s r) r ac (f (accOf s r ac) (gOf s r ra) (gOf s r rb))) [] := by
    have a := acc_fetched h ac
    have b := greg_fetched h ra
    have c := greg_fetched h rb
    unfold gOf at b c
    unfold macBody
    dsimp only
    rw [b, c]
    show regsOnly ((fetched s r).setCore r (((fetched s r).core r).setAcc ac (f (accOf (fetched s r) r ac) _ _))) [] = _
    rw [a]
    rfl
  refine congrArg Host.Outcome.next ((run_done_from h w again _ [] (by rw [e]) ?_).trans (by rw [e]))
  rw [e]
  exact alone_setAcc (drains_ready h).rising (alone_fetched h) ..

/-- An accumulator's part as a register result. -/
theorem readAcc_gives {s : State} (h : Ready s r) (w : Word) (ac : Bool) (rd : Reg) (f : Dword → Word) :
    (.next (runInstr s r w true false (readAcc ac rd f)) : Answer) = gives s r rd (f (accOf s r ac)) := by
  rw [← acc_fetched h ac]
  exact congrArg Host.Outcome.next (run_regs h _ _ _ _ rfl)

theorem base_alone {c : CoreState} (h : c.rep = none) (n : Reg) : c.base n = c.greg n := by simp [CoreState.base, h]

/-- An accumulator operation whose value does not depend on registers. -/
theorem acc_set {s : State} (h : Ready s r) (w : Word) (ac : Bool) (v : Dword) (body : Body)
    (e : body (fetched s r) r = regsOnly (setAcc (fetched s r) r ac v) []) :
    (.next (runInstr s r w true false body) : Answer) = accumulates s r ac v := by
  refine congrArg Host.Outcome.next ((run_done_from h w false _ [] (by rw [e]) ?_).trans (by rw [e]))
  rw [e]
  exact alone_setAcc (drains_ready h).rising (alone_fetched h) ..

theorem acclr_zero (u : State) (r : Nat) (ac : Bool) : u.setCore r ((u.core r).setAcc ac 0) = setAcc u r ac 0 := rfl

theorem run_trap_from {s : State} (h : Ready s r) (w : Word) (again : Bool) (body : Body) (cause : Nat) (v : Word)
    (e : (body (fetched s r) r).out = .trap cause v false 0) (a : Alone (body (fetched s r) r).s r) :
    runInstr s r w true again body = trapOn (body (fetched s r) r).s r cause v (pcOf (body (fetched s r) r).s r) := by
  rw [run_ready h, e]
  exact applyOut_trap a.rep ..

theorem applyOut_rep (a : (u.core r).lockstep = false) (w : Word) (carry : List (Reg × Word)) (n : Nat) :
    applyOut u r w carry (.rep n) =
      countInstr (u.modCore r fun c => if n = 0 then { c.shift [] with resume := 0, pc := c.pc + 8 }
        else { c.shift [] with resume := 0, pc := c.pc + 4, rep := some ⟨n, c.pc, none, []⟩ }) r := by
  simp only [applyOut, pairOf_alone a, List.foldl_cons, List.foldl_nil, State.modCore, CoreState.finish]

theorem applyOut_wait (a : (u.core r).lockstep = false) (w : Word) (carry : List (Reg × Word)) :
    applyOut u r w carry .wait =
      sleepJudge (countInstr (u.modCore r fun c => { c.shift [] with resume := 0, pc := c.pc + 4, st := .waiting, waitFrom := u.uptime }) r) (r / 8) := by
  simp only [applyOut, pairOf_alone a, List.foldl_cons, List.foldl_nil, State.modCore, CoreState.finish]

theorem core_countInstr (s : State) (r k : Nat) : (countInstr s r).core k = s.core k := rfl

theorem core_modCore_same (s : State) (r : Nat) (f : CoreState → CoreState) (h : Rising s.cores) :
    (s.modCore r f).core r = f (s.core r) := core_setCore_same _ _ _ h

/-- A prefix. -/
theorem run_rep {s : State} (h : Ready s r) (w : Word) (body : Body) (n : Nat)
    (e : body (fetched s r) r = { s := fetched s r, out := .rep n }) :
    runInstr s r w true false body =
      countInstr ((fetched s r).modCore r fun c => if n = 0 then { c.shift [] with resume := 0, pc := c.pc + 8 }
        else { c.shift [] with resume := 0, pc := c.pc + 4, rep := some ⟨n, c.pc, none, []⟩ }) r := by
  rw [run_ready h, e]
  exact applyOut_rep (fetched_alone h) ..

theorem commits_still (c : CoreState) (l : List RegWrite) :
    (l.foldl CoreState.commit c).pc = c.pc ∧ (l.foldl CoreState.commit c).rep = c.rep ∧ (l.foldl CoreState.commit c).resume = c.resume ∧
    (l.foldl CoreState.commit c).sb = c.sb ∧ (l.foldl CoreState.commit c).rsv = c.rsv ∧ (l.foldl CoreState.commit c).sram = c.sram ∧
    (l.foldl CoreState.commit c).st = c.st := by
  induction l generalizing c with
  | nil => exact ⟨rfl, rfl, rfl, rfl, rfl, rfl, rfl⟩
  | cons w l ih =>
    obtain ⟨h1, h2, h3, h4, h5, h6, h7⟩ := ih (c.commit w)
    have k : (c.commit w).pc = c.pc ∧ (c.commit w).rep = c.rep ∧ (c.commit w).resume = c.resume ∧ (c.commit w).sb = c.sb ∧
        (c.commit w).rsv = c.rsv ∧ (c.commit w).sram = c.sram ∧ (c.commit w).st = c.st := by
      cases w with
      | g n v =>
        show (if n = 0 then c else { c with g := _ }).pc = _ ∧ _
        by_cases hn : n = 0
        · subst hn; exact ⟨rfl, rfl, rfl, rfl, rfl, rfl, rfl⟩
        · unfold CoreState.commit
          simp only [hn, if_false, and_self]
      | sr n v =>
        unfold CoreState.commit CoreState.writeSr
        dsimp only
        split <;> exact ⟨rfl, rfl, rfl, rfl, rfl, rfl, rfl⟩
    exact ⟨h1.trans k.1, h2.trans k.2.1, h3.trans k.2.2.1, h4.trans k.2.2.2.1, h5.trans k.2.2.2.2.1, h6.trans k.2.2.2.2.2.1, h7.trans k.2.2.2.2.2.2⟩

theorem hang_commits (c : CoreState) (l : List RegWrite) : (l.foldl CoreState.commit c).hang = c.hang := by
  induction l generalizing c with
  | nil => rfl
  | cons w l ih =>
    refine (ih _).trans ?_
    cases w with
    | g n v =>
      by_cases hn : n = 0
      · subst hn; rfl
      · unfold CoreState.commit
        simp only [hn, if_false]
    | sr n v =>
      unfold CoreState.commit CoreState.writeSr
      dsimp only
      split <;> rfl

theorem shift_still (c : CoreState) (ws : List RegWrite) :
    (c.shift ws).pc = c.pc ∧ (c.shift ws).rep = c.rep ∧ (c.shift ws).sb = c.sb ∧ (c.shift ws).rsv = c.rsv ∧ (c.shift ws).sram = c.sram ∧
      (c.shift ws).w1 = ws := by
  have h := commits_still c c.w2
  exact ⟨h.1, h.2.1, h.2.2.2.1, h.2.2.2.2.1, h.2.2.2.2.2.1, rfl⟩

theorem sb_drainAll (s : State) (r : Nat) (h : Rising s.cores) : ((drainAll s r).core r).sb = [] := by
  have one : ∀ (s : State), Rising s.cores → ((drainOne s r).core r).sb = (s.core r).sb.tail := fun s h => (drain_gives s r h).2.1
  have all : ∀ n (s : State), Rising s.cores → (s.core r).sb.length ≤ n → ((foldTo n (fun s _ => drainOne s r) s).core r).sb = [] := by
    intro n
    induction n with
    | zero => intro s h hl; simpa [foldTo] using hl
    | succ n ih =>
      intro s h hl
      have e : foldTo (n + 1) (fun s _ => drainOne s r) s = foldTo n (fun s _ => drainOne s r) (drainOne s r) := by
        unfold foldTo
        rw [List.range_succ_eq_map, List.foldl_cons, List.foldl_map]
      rw [e]
      refine ih _ (drains_drainOne s r h).rising ?_
      rw [one s h]
      simp only [List.length_tail]
      omega
  exact all _ s h (Nat.le_refl _)

/-- What WAIT does, by what it samples. -/
theorem waitBody_of (s : State) (r : Nat) (b : Bool) (h : wakeCond (dropRsv (drainAll s r) r) r = b) :
    waitBody s r = Eff.mk ((dropRsv (drainAll s r) r).modCore r fun c => { c with cst := setBits c.cst 14 14 (bnat b) }) [20] []
      (if b then .done [] else .wait) := by
  subst h
  rfl

/-- An instruction whose effect is known, with the core by itself after it. -/
theorem run_done_of {s : State} (h : Ready s r) (w : Word) (again : Bool) (body : Body) (u : State) (reqs : List Nat)
    (carry : List (Reg × Word)) (ws : List RegWrite) (e : body (fetched s r) r = Eff.mk u reqs carry (.done ws)) (a : Alone u r) :
    (.next (runInstr s r w true again body) : Answer) = .next (retireOn u r ws) := by
  rw [run_ready h, e]
  exact congrArg Host.Outcome.next (applyOut_done a.lock a.rep ..)

theorem run_trap_of {s : State} (h : Ready s r) (w : Word) (again : Bool) (body : Body) (u : State) (reqs : List Nat)
    (carry : List (Reg × Word)) (cause : Nat) (v : Word) (less : Nat) (e : body (fetched s r) r = Eff.mk u reqs carry (.trap cause v false less))
    (a : Alone u r) : (.next (runInstr s r w true again body) : Answer) = .next (trapOn u r cause v (pcOf u r)) := by
  rw [run_ready h, e]
  exact congrArg Host.Outcome.next (applyOut_trap a.rep ..)

/-- A core by itself stays so where no core changes. -/
theorem alone_cores {u v : State} (h : v.cores = u.cores) (a : Alone u r) : Alone v r := by
  constructor <;> unfold State.core <;> rw [h]
  · exact a.lock
  · exact a.rep

/-- With nothing in the store buffer a core sees memory. -/
theorem localByte_empty (c : CoreState) (h : c.sb = []) (a : Nat) : localByte c a = readByte c.sram c.sramErr a := by
  unfold localByte
  rw [h]; rfl

/-- Drains leave the meadows alone, and what runs goes on running. -/
theorem drains_meadow {s t : State} (d : Drains r s t) (m : Nat) : t.meadow m = s.meadow m := by
  unfold State.meadow
  rw [d.frame]

theorem drains_st {s t : State} (d : Drains r s t) (k : Nat) : (t.core k).st = (s.core k).st := by
  have e : (pipe (t.core k)).st = (pipe (s.core k)).st := by rw [d.pipe k]
  exact e

theorem drains_rsv {s t : State} (d : Drains r s t) (k : Nat) : (t.core k).rsv = (s.core k).rsv := by
  have e : (pipe (t.core k)).rsv = (pipe (s.core k)).rsv := by rw [d.pipe k]
  exact e

theorem ready_running {s : State} (h : Ready s r) : (s.core r).st = .running ∧ (s.meadow (r / 8)).st = .active := by
  have := h.runs
  unfold canRun at this
  simp only [Bool.and_eq_true, decide_eq_true_eq] at this
  exact ⟨this.1.1.2, this.1.1.1⟩

/-- What each step of a fold keeps, the fold keeps. -/
theorem foldl_keeps {σ α : Type} (R : σ → Prop) (f : σ → α → σ) (hf : ∀ s a, R s → R (f s a)) (l : List α) (s : σ) (h : R s) :
    R (l.foldl f s) := by
  induction l generalizing s with
  | nil => exact h
  | cons a l ih => exact ih _ (hf s a h)

/-- Core `k` is as in `s` but for the start of its wait. -/
def WaitsOn (s : State) (k : Nat) (u : State) : Prop := Rising u.cores ∧ ∃ w, u.core k = { s.core k with waitFrom := w }

/-- Counting waiting time up to now moves nothing else of a core. -/
theorem core_accrue (s : State) (m k : Nat) (h : Rising s.cores) : WaitsOn s k (accrue s m) := by
  unfold accrue
  dsimp only
  apply foldl_keeps (WaitsOn s k)
  · rintro u c ⟨a, w, b⟩
    split
    · refine ⟨cores_setCore u _ _ a, ?_⟩
      have e := core_setCore u (8 * m + c) k { u.core (8 * m + c) with waitFrom := (u.core (8 * m + c)).waitFrom + (u.uptime - (u.core (8 * m + c)).waitFrom) / 1000 * 1000 } a
      by_cases hk : k = 8 * m + c
      · rw [if_pos hk, ← hk, b] at e
        rw [← hk]
        refine ⟨_, Eq.trans ?_ (e.trans rfl)⟩
        rw [← b]; rfl
      · rw [if_neg hk] at e
        exact ⟨w, e.trans b⟩
    · exact ⟨a, w, b⟩
  · split
    · exact ⟨h, _, rfl⟩
    · exact ⟨h, _, rfl⟩

theorem tfind_above {α : Type} (m : Table α) (k : Nat) (h : ∀ p ∈ m, k < p.1) : tfind m k = none := by
  cases m with
  | nil => rfl
  | cons q m =>
    have := h q (List.mem_cons_self ..)
    unfold tfind
    rw [if_neg (by omega), if_pos this]

/-- A table from which some keys have been taken. -/
theorem tfind_filter {α : Type} (m : Table α) (k : Nat) (f : Nat → Bool) (h : Rising m) :
    tfind (m.filter fun p => f p.1) k = if f k then tfind m k else none := by
  induction m with
  | nil => simp [tfind]
  | cons q m ih =>
    obtain ⟨j, w⟩ := q
    have hm : Rising m := (List.pairwise_cons.1 h).2
    have hl : ∀ p ∈ m, j < p.1 := (List.pairwise_cons.1 h).1
    have lo : k ≤ j → tfind m k = none := fun x => tfind_above m k fun p hp => Nat.lt_of_le_of_lt x (hl p hp)
    rw [List.filter_cons]
    dsimp only
    by_cases hj : f j = true
    · rw [if_pos hj]
      show (if k = j then some w else if k < j then none else tfind (m.filter fun p => f p.1) k) = if f k then (if k = j then some w else if k < j then none else tfind m k) else none
      by_cases hk : k = j
      · rw [if_pos hk, if_pos hk, hk, if_pos hj]
      · rw [if_neg hk, if_neg hk, ih hm]
        by_cases h2 : k < j
        · simp [h2]
        · simp [h2]
    · rw [if_neg hj, ih hm]
      show _ = if f k then (if k = j then some w else if k < j then none else tfind m k) else none
      by_cases hk : k = j
      · rw [hk, if_neg hj, if_neg hj]
      · rw [if_neg hk]
        by_cases h2 : k < j
        · rw [lo (by omega), if_pos h2]
        · rw [if_neg h2]

end Sys2Proof.Laws
end

