-- ==== Sys2Proof/Laws/CoresKept.lean ====
section
/-! SUPPORT. What Hedgerow and the queue engine do leaves every core as it was. -/

set_option linter.all false

namespace Sys2Proof.Laws

open Sys2Proof.Machine

/-- The cores of a state. -/
structure Cores (x : Table CoreState) (s : State) : Prop where
  eq : s.cores = x

variable {cc : Table CoreState}

theorem c_of (s : State) : Cores s.cores s := ⟨rfl⟩

theorem c_mk_iff {s : State} (a_pending : List Instr) (a_uptime : Nat) (a_regs : Table Word) (a_staging : Table Word)
    (a_priv : Table Word) (a_tb : Timebase) (a_queues : Table Queue) (a_qranges : List QRange) (a_qmapped : Bool)
    (a_qapplying : Bool) (a_prods : Table (Option ProdCtx)) (a_conss : Table (Option ConsCtx)) (a_chans : Table Chan)
    (a_starved : Table Bool) (a_lanes : Table Lane) (a_tis : Table TaskIn) (a_delays : Table (Option (Nat × Nat)))
    (a_hmapped : Bool) (a_happlying : Bool) (a_hc2At : Option Nat) (a_hc2Due : Bool) (a_shelfTotal : Nat)
    (a_shelfFrom : Option Nat) (a_life : Life) (a_faults : Table FaultEntry) (a_faultHold : List FaultPkt)
    (a_faultWait : List (Nat × Nat × Dword)) (a_conds : List (Nat × Nat)) (a_faultDue : List (Nat × Nat × Dword))
    (a_going : List (Nat × Nat)) (a_freeing : List Nat) (a_snaps : List Snap) (a_stats : Stats)
    (a_meadows : Table Meadow) (a_doms : Table Domain) (a_dev : DevSt) (a_descent : Nat) (a_restAtDescent : List Nat)
    (a_wake : Option Wake) (a_xref : Xref) (a_padHeld : Table Bool) (a_gpioIn : Table Bool)
    (a_gpioPulse : Table (Option (Nat × Bool))) (a_sampler : Sampler) (a_seams : Table Seam) (a_pulses : Table Pulse)
    (a_crossings : Table Crossing) (a_fifos : Table (List Nat)) (a_seamWaits : List SeamWait)
    (a_seamEnds : List SeamEnd) (a_orders : List OrderRef) (a_orderQ : List OrderRef) (a_heldOrders : List OrderRef)
    (a_heldComps : List HeldCompletion) (a_hwHeld : List (Nat × Nat × Nat)) (a_mantle : Mantle)
    (a_upls : Table Uplink) (a_fedEpoch : BitVec 16) (a_i2c : I2c) (a_boot : Boot) (a_request : Option ReqRun)
    (a_requests : List ReqWaiting) (a_signedRole : Nat) (a_signedSlot : Nat) (a_debugOut : BitVec 34)
    (a_debugWord : Dword) (a_free : Nat) :
    Cores cc (State.mk a_pending a_uptime a_regs a_staging a_priv a_tb a_queues a_qranges a_qmapped a_qapplying
      a_prods a_conss a_chans a_starved a_lanes a_tis a_delays a_hmapped a_happlying a_hc2At a_hc2Due a_shelfTotal
      a_shelfFrom a_life a_faults a_faultHold a_faultWait a_conds a_faultDue a_going a_freeing a_snaps a_stats s.cores
      a_meadows a_doms a_dev a_descent a_restAtDescent a_wake a_xref a_padHeld a_gpioIn a_gpioPulse a_sampler a_seams
      a_pulses a_crossings a_fifos a_seamWaits a_seamEnds a_orders a_orderQ a_heldOrders a_heldComps a_hwHeld a_mantle
      a_upls a_fedEpoch a_i2c a_boot a_request a_requests a_signedRole a_signedSlot a_debugOut a_debugWord a_free) ↔ Cores cc s :=
  ⟨fun h => ⟨h.eq⟩, fun h => ⟨h.eq⟩⟩

theorem c_ite {c : Prop} [Decidable c] {a b : State} (ha : Cores cc a) (hb : Cores cc b) : Cores cc (if c then a else b) := by
  split <;> assumption

theorem c_ite1 {α : Type} {c : Prop} [Decidable c] {a b : State × α} (ha : Cores cc a.1) (hb : Cores cc b.1) :
    Cores cc (if c then a else b).1 := by
  split <;> assumption

theorem c_foldl {α : Type} {s : State} {f : State → α → State} {l : List α} (hs : Cores cc s)
    (hf : ∀ s a, Cores cc s → Cores cc (f s a)) : Cores cc (l.foldl f s) := by
  induction l generalizing s with
  | nil => exact hs
  | cons a l ih => exact ih (hf s a hs)

theorem c_foldl1 {α β : Type} {f : State × β → α → State × β} {l : List α} {y : State × β} (hx : Cores cc y.1)
    (hf : ∀ y a, Cores cc y.1 → Cores cc (f y a).1) : Cores cc (l.foldl f y).1 := by
  induction l generalizing y with
  | nil => exact hx
  | cons a l ih => exact ih (hf y a hx)

theorem c_foldTo {s : State} {f : State → Nat → State} {n : Nat} (hs : Cores cc s) (hf : ∀ s a, Cores cc s → Cores cc (f s a)) :
    Cores cc (foldTo n f s) := c_foldl hs hf

theorem c_foldTo1 {β : Type} {f : State × β → Nat → State × β} {n : Nat} {y : State × β} (hx : Cores cc y.1)
    (hf : ∀ y a, Cores cc y.1 → Cores cc (f y a).1) : Cores cc (foldTo n f y).1 := c_foldl1 hx hf

theorem c_of_eq {α : Type} {y : State × α} {t : State} {r : α} (e : y = (t, r)) (h : Cores cc y.1) : Cores cc t := by
  subst e; exact h

theorem c_setRegAt {s : State} (h : Cores cc s) (a : Nat) (v : Word) : Cores cc (s.setRegAt a v) := ⟨h.eq⟩
theorem c_setLane {s : State} (h : Cores cc s) (k : Nat) (v : Lane) : Cores cc (s.setLane k v) := ⟨h.eq⟩
theorem c_setQueue {s : State} (h : Cores cc s) (k : Nat) (v : Queue) : Cores cc (s.setQueue k v) := ⟨h.eq⟩
theorem c_setTi {s : State} (h : Cores cc s) (k : Nat) (v : TaskIn) : Cores cc (s.setTi k v) := ⟨h.eq⟩
theorem c_setDom {s : State} (h : Cores cc s) (k : Nat) (v : Domain) : Cores cc (s.setDom k v) := ⟨h.eq⟩
theorem c_setUpl {s : State} (h : Cores cc s) (k : Nat) (v : Uplink) : Cores cc (s.setUpl k v) := ⟨h.eq⟩
theorem c_setFault {s : State} (h : Cores cc s) (k : Nat) (v : FaultEntry) : Cores cc (s.setFault k v) := ⟨h.eq⟩
theorem c_setProd {s : State} (h : Cores cc s) (k : Nat) (v : Option ProdCtx) : Cores cc (s.setProd k v) := ⟨h.eq⟩
theorem c_setCons {s : State} (h : Cores cc s) (k : Nat) (v : Option ConsCtx) : Cores cc (s.setCons k v) := ⟨h.eq⟩
theorem c_setPulse {s : State} (h : Cores cc s) (k : Nat) (v : Pulse) : Cores cc (s.setPulse k v) := ⟨h.eq⟩
theorem c_setCrossing {s : State} (h : Cores cc s) (k : Nat) (v : Crossing) : Cores cc (s.setCrossing k v) := ⟨h.eq⟩
theorem c_setFifo {s : State} (h : Cores cc s) (k : Nat) (v : List Nat) : Cores cc (s.setFifo k v) := ⟨h.eq⟩
theorem c_clearRange {s : State} (h : Cores cc s) (k v : Nat) : Cores cc (s.clearRange k v) := ⟨h.eq⟩
theorem c_setChan {s : State} (h : Cores cc s) (k : Nat) (v : Chan) : Cores cc (s.setChan k v) := ⟨h.eq⟩
theorem c_setMeadow {s : State} (h : Cores cc s) (k : Nat) (v : Meadow) : Cores cc (s.setMeadow k v) := ⟨h.eq⟩

/-! Ops.lean -/

theorem c_setReg (s : State) (b : Blk) (i off : Nat) (v : Word) (h_s : Cores cc s) : Cores cc (State.setReg s b i off v) := by
  delta State.setReg
  with_reducible repeat' (first
      | assumption | apply c_setRegAt | simp -iota only [c_mk_iff])

theorem c_setFld (s : State) (b : Blk) (i off hi lo v : Nat) (h_s : Cores cc s) :
    Cores cc (State.setFld s b i off hi lo v) := by
  delta State.setFld
  with_reducible repeat' (first
      | assumption | apply c_setReg | apply c_setRegAt | simp -iota only [c_mk_iff])

theorem c_bumpBy (s : State) (b : Blk) (i off n : Nat) (h_s : Cores cc s) : Cores cc (State.bumpBy s b i off n) := by
  unfold State.bumpBy
  with_reducible repeat' (first
      | assumption | apply c_setReg | apply c_setRegAt | apply c_ite | simp -iota only [c_mk_iff] | split
      | refine c_of_eq (by assumption) ?_)

theorem c_bump (s : State) (b : Blk) (i off : Nat) (h_s : Cores cc s) : Cores cc (State.bump s b i off) := by
  delta State.bump
  with_reducible repeat' (first
      | assumption | apply c_bumpBy | simp -iota only [c_mk_iff])

theorem c_clearRegs (s : State) (b : Blk) (i : Nat) (offs : List Nat) (h_s : Cores cc s) :
    Cores cc (State.clearRegs s b i offs) := by
  unfold State.clearRegs
  with_reducible repeat' (first
      | assumption | intro _ | apply c_foldl | apply c_foldl1 | apply c_setReg | apply c_setRegAt
      | simp -iota only [c_mk_iff])

theorem c_clearWin (s : State) (b : Blk) (i lo hi : Nat) (h_s : Cores cc s) : Cores cc (State.clearWin s b i lo hi) := by
  delta State.clearWin
  with_reducible repeat' (first
      | assumption | apply c_clearRange | simp -iota only [c_mk_iff])

theorem c_advance (s : State) (t : Nat) (h_s : Cores cc s) : Cores cc (State.advance s t) := by
  unfold State.advance
  with_reducible repeat' (first
      | assumption | apply c_ite | simp -iota only [c_mk_iff] | split | refine c_of_eq (by assumption) ?_)

theorem c_draw (s : State) (h_s : Cores cc s) : Cores cc (State.draw s) := by
  unfold State.draw
  with_reducible repeat' (first
      | assumption | simp -iota only [c_mk_iff])

theorem c_setWave (s : State) (l n : Nat) (y : NodeWave) (h_s : Cores cc s) : Cores cc (State.setWave s l n y) := by
  delta State.setWave
  with_reducible repeat' (first
      | assumption | intro _ | apply c_setLane | simp -iota only [c_mk_iff])

theorem c_setBank (s : State) (k : Nat) (x : Bank) (h_s : Cores cc s) : Cores cc (State.setBank s k x) := by
  unfold State.setBank
  with_reducible repeat' (first
      | assumption | intro _ | simp -iota only [c_mk_iff])

theorem c_bankAdd (s : State) (k i n : Nat) (h_s : Cores cc s) : Cores cc (State.bankAdd s k i n) := by
  unfold State.bankAdd
  with_reducible repeat' (first
      | assumption | apply c_setBank | simp -iota only [c_mk_iff])

theorem c_bankMax (s : State) (k i n : Nat) (h_s : Cores cc s) : Cores cc (State.bankMax s k i n) := by
  unfold State.bankMax
  with_reducible repeat' (first
      | assumption | apply c_setBank | simp -iota only [c_mk_iff])

theorem c_logClamp (s : State) (b : Blk) (i reason off role : Nat) (h_s : Cores cc s) :
    Cores cc (State.logClamp s b i reason off role) := by
  unfold State.logClamp
  with_reducible repeat' (first
      | assumption | apply c_setReg | apply c_setRegAt | apply c_ite | simp -iota only [c_mk_iff] | split
      | refine c_of_eq (by assumption) ?_)

/-! Ecc.lean -/



/-! Hedge.lean -/

theorem c_goLevel (s : State) (m g : Nat) (h_s : Cores cc s) : Cores cc (State.goLevel s m g) := by
  unfold State.goLevel
  with_reducible repeat' (first
      | assumption | assumption | intro _ | apply c_setMeadow
      | apply c_ite | simp -iota only [c_mk_iff] | split | refine c_of_eq (by assumption) ?_)

theorem c_govEvent (s : State) (m : Nat) (h_s : Cores cc s) : Cores cc (State.govEvent s m) := by
  unfold State.govEvent
  with_reducible repeat' (first
      | assumption | assumption | intro _ | apply c_goLevel | apply c_setMeadow | apply c_ite | simp -iota only [c_mk_iff] | split | refine c_of_eq (by assumption) ?_)

theorem c_bumpDrop (s : State) (c : Nat) (lost : Bool) (h_s : Cores cc s) : Cores cc (bumpDrop s c lost) := by
  unfold bumpDrop
  with_reducible repeat' (first
      | assumption | apply c_setFld | apply c_setReg | apply c_setRegAt | apply c_ite | simp -iota only [c_mk_iff]
      | split | refine c_of_eq (by assumption) ?_)

theorem c_hc2Report (s : State) (enable : Nat) (h_s : Cores cc s) : Cores cc (hc2Report s enable) := by
  unfold hc2Report
  with_reducible repeat' (first
      | assumption | apply c_ite | simp -iota only [c_mk_iff] | split | refine c_of_eq (by assumption) ?_)

theorem c_lose (s : State) (c : Option Nat) (h_s : Cores cc s) : Cores cc (lose s c) := by
  unfold lose
  with_reducible repeat' (first
      | assumption | apply c_hc2Report | apply c_bumpDrop | apply c_bankAdd | apply c_bump | apply c_bumpBy
      | simp -iota only [c_mk_iff] | split | refine c_of_eq (by assumption) ?_)

theorem c_suppress (s : State) (p : Nat) (h_s : Cores cc s) : Cores cc (suppress s p) := by
  unfold suppress
  with_reducible repeat' (first
      | assumption | apply c_hc2Report | apply c_bumpDrop | apply c_bankAdd | apply c_bump | apply c_bumpBy
      | simp -iota only [c_mk_iff] | split | refine c_of_eq (by assumption) ?_)

theorem c_deliver (s : State) (t hop : Nat) (h_s : Cores cc s) : Cores cc (deliver s t hop) := by
  unfold deliver
  with_reducible repeat' (first
      | assumption | intro _ | apply c_govEvent | apply c_setTi | apply c_ite | simp -iota only [c_mk_iff] | split
      | refine c_of_eq (by assumption) ?_)

theorem c_serveLatch (s : State) (t : Nat) (h_s : Cores cc s) : Cores cc (serveLatch s t) := by
  unfold serveLatch
  with_reducible repeat' (first
      | assumption | intro _ | apply c_deliver | apply c_setTi | simp -iota only [c_mk_iff] | split
      | refine c_of_eq (by assumption) ?_)

theorem c_tiEnd (s : State) (t : Nat) (h_s : Cores cc s) : Cores cc (tiEnd s t) := by
  unfold tiEnd
  with_reducible repeat' (first
      | assumption | intro _ | apply c_serveLatch | apply c_setTi | apply c_ite | simp -iota only [c_mk_iff] | split
      | refine c_of_eq (by assumption) ?_)

theorem c_tiTaken (s : State) (t : Nat) (h_s : Cores cc s) : Cores cc (tiTaken s t) := by
  unfold tiTaken
  with_reducible repeat' (first
      | assumption | intro _ | apply c_setTi | simp -iota only [c_mk_iff])

theorem c_tiRefractoryEnd (s : State) (t : Nat) (h_s : Cores cc s) : Cores cc (tiRefractoryEnd s t) := by
  unfold tiRefractoryEnd
  with_reducible repeat' (first
      | assumption | apply c_serveLatch | apply c_ite | simp -iota only [c_mk_iff] | split
      | refine c_of_eq (by assumption) ?_)

theorem c_arrive (s : State) (c t hop : Nat) (h_s : Cores cc s) : Cores cc (arrive s c t hop) := by
  unfold arrive
  with_reducible repeat' (first
      | assumption | intro _ | apply c_deliver | apply c_lose | apply c_setTi | apply c_bump | apply c_bumpBy
      | apply c_ite | simp -iota only [c_mk_iff] | split | refine c_of_eq (by assumption) ?_)

theorem c_carry (s : State) (c n hop : Nat) (h_s : Cores cc s) : Cores cc (carry s c n hop) := by
  unfold carry
  with_reducible repeat' (first
      | assumption | apply c_arrive | apply c_bankAdd | apply c_bump | apply c_bumpBy | apply c_ite
      | simp -iota only [c_mk_iff] | split | refine c_of_eq (by assumption) ?_)

theorem c_suppressAll (s : State) (evs : List (Nat × Nat)) (h_s : Cores cc s) : Cores cc (suppressAll s evs) := by
  unfold suppressAll
  with_reducible repeat' (first
      | assumption | intro _ | apply c_foldl | apply c_foldl1 | apply c_suppress | simp -iota only [c_mk_iff])

theorem c_carryAll (s : State) (ok : List (Nat × Nat)) (h_s : Cores cc s) : Cores cc (carryAll s ok) := by
  unfold carryAll
  with_reducible repeat' (first
      | assumption | intro _ | apply c_foldl | apply c_foldl1 | apply c_carry | simp -iota only [c_mk_iff])

theorem c_fireRound (s : State) (evs : List (Nat × Nat)) (h_s : Cores cc s) : Cores cc (fireRound s evs) := by
  unfold fireRound
  with_reducible repeat' (first
      | assumption | apply c_carryAll | apply c_suppressAll | simp -iota only [c_mk_iff])

theorem c_hc2Serve (s : State) (h_s : Cores cc s) : Cores cc (hc2Serve s) := by
  unfold hc2Serve
  with_reducible repeat' (first
      | assumption | intro _ | apply c_fireRound | apply c_bump | apply c_bumpBy | apply c_ite
      | simp -iota only [c_mk_iff] | split | refine c_of_eq (by assumption) ?_)

theorem c_bumpMerged (s : State) (k : Nat) (h_s : Cores cc s) : Cores cc (bumpMerged s k) := by
  unfold bumpMerged
  with_reducible repeat' (first
      | assumption | apply c_bump | apply c_bumpBy | apply c_setFld | apply c_setReg | apply c_setRegAt
      | apply c_ite | simp -iota only [c_mk_iff] | split | refine c_of_eq (by assumption) ?_)

theorem c_pulseOffer (s : State) (k p hop : Nat) (h_s : Cores cc s) : Cores cc (pulseOffer s k p hop).1 := by
  unfold pulseOffer
  with_reducible repeat' (first
      | assumption | intro _ | apply c_bumpMerged | apply c_setPulse | apply c_ite | apply c_ite1
      | simp -iota only [c_mk_iff] | split | refine c_of_eq (by assumption) ?_)

theorem c_crossAll (s : State) (evs : List (Nat × Nat)) (h_s : Cores cc s) : Cores cc (crossAll s evs).1 := by
  unfold crossAll
  with_reducible repeat' (first
      | assumption | intro _ | apply c_foldl | apply c_foldl1 | apply c_pulseOffer | apply c_ite | apply c_ite1
      | simp -iota only [c_mk_iff] | split | refine c_of_eq (by assumption) ?_)

theorem c_fire (s : State) (evs : List (Nat × Nat)) (h_s : Cores cc s) : Cores cc (State.fire s evs) := by
  unfold State.fire
  with_reducible repeat' (first
      | assumption | apply c_crossAll | apply c_hc2Serve | apply c_carryAll | apply c_suppressAll
      | simp -iota only [c_mk_iff])

theorem c_pulseStep (x : State × List (Nat × Nat)) (q : Nat × Pulse) (h_x : Cores cc x.1) : Cores cc (pulseStep x q).1 := by
  unfold pulseStep
  with_reducible repeat' (first
      | assumption | apply c_setPulse | apply c_ite | apply c_ite1 | simp -iota only [c_mk_iff] | split
      | refine c_of_eq (by assumption) ?_)

theorem c_crossingStep (s : State) (q : Nat × Crossing) (h_s : Cores cc s) : Cores cc (crossingStep s q) := by
  unfold crossingStep
  with_reducible repeat' (first
      | assumption | apply c_setCrossing | apply c_ite | apply c_ite1 | simp -iota only [c_mk_iff] | split
      | refine c_of_eq (by assumption) ?_)

theorem c_crossDue (s : State) (h_s : Cores cc s) : Cores cc (crossDue s) := by
  unfold crossDue
  with_reducible repeat' (first
      | assumption | intro _ | apply c_foldl | apply c_foldl1 | apply c_crossingStep | apply c_pulseStep
      | apply c_hc2Serve | apply c_carryAll | apply c_ite | apply c_ite1 | simp -iota only [c_mk_iff] | split
      | refine c_of_eq (by assumption) ?_)

theorem c_valueWrite (s : State) (k a : Nat) (h_s : Cores cc s) : Cores cc (valueWrite s k a) := by
  unfold valueWrite
  with_reducible repeat' (first
      | assumption | intro _ | apply c_setCrossing | apply c_bump | apply c_bumpBy | apply c_ite
      | simp -iota only [c_mk_iff] | split | refine c_of_eq (by assumption) ?_)

theorem c_valuesGo (s : State) (k : Nat) (h_s : Cores cc s) : Cores cc (valuesGo s k) := by
  unfold valuesGo
  with_reducible repeat' (first
      | assumption | intro _ | apply c_foldl | apply c_foldl1 | apply c_setCrossing | apply c_ite | apply c_ite1
      | simp -iota only [c_mk_iff] | split | refine c_of_eq (by assumption) ?_)

theorem c_valuesDrop (s : State) (k : Nat) (h_s : Cores cc s) : Cores cc (valuesDrop s k) := by
  unfold valuesDrop
  with_reducible repeat' (first
      | assumption | intro _ | apply c_foldl | apply c_foldl1 | apply c_setCrossing | apply c_ite | apply c_ite1
      | simp -iota only [c_mk_iff] | split | refine c_of_eq (by assumption) ?_)

theorem c_fire1 (s : State) (p : Nat) (h_s : Cores cc s) : Cores cc (State.fire1 s p) := by
  delta State.fire1
  with_reducible repeat' (first
      | assumption | apply c_fire | simp -iota only [c_mk_iff])

theorem c_lostItems (s : State) (k n : Nat) (h_s : Cores cc s) : Cores cc (lostItems s k n) := by
  unfold lostItems
  with_reducible repeat' (first
      | assumption | apply c_bumpBy | apply c_setFld | apply c_setReg | apply c_setRegAt | apply c_ite
      | simp -iota only [c_mk_iff] | split | refine c_of_eq (by assumption) ?_)

theorem c_fifoPut (s : State) (k : Nat) (f : FifoKind) (e : Nat) (h_s : Cores cc s) :
    ∀ t, fifoPut s k f e = some t → Cores cc t := by
  intro t ht
  unfold fifoPut at ht
  repeat' split at ht
  all_goals first | (cases ht; done) | (injection ht with ht; subst ht)
  all_goals with_reducible repeat' (first
      | assumption | apply c_setFifo | apply c_ite | simp -iota only [c_mk_iff] | split
      | refine c_of_eq (by assumption) ?_)

theorem c_fifoDrain (s : State) (k : Nat) (f : FifoKind) (h_s : Cores cc s) : Cores cc (fifoDrain s k f) := by
  unfold fifoDrain
  with_reducible repeat' (first
      | assumption | apply c_setFifo | simp -iota only [c_mk_iff])

theorem c_fifoPour (s : State) (k : Nat) (f : FifoKind) (behind : Nat) (h_s : Cores cc s) :
    Cores cc (fifoPour s k f behind).1 := by
  unfold fifoPour
  with_reducible repeat' (first
      | assumption | apply c_bump | apply c_bumpBy | apply c_ite | apply c_ite1 | simp -iota only [c_mk_iff] | split
      | refine c_of_eq (by assumption) ?_)

theorem c_tiLost (s : State) (t : Nat) (h_s : Cores cc s) : Cores cc (tiLost s t) := by
  unfold tiLost
  with_reducible repeat' (first
      | assumption | apply c_hc2Serve | apply c_lose | apply c_setTi | apply c_ite | simp -iota only [c_mk_iff]
      | split | refine c_of_eq (by assumption) ?_)

theorem c_clearLatch (s : State) (t : Nat) (h_s : Cores cc s) : Cores cc (clearLatch s t) := by
  unfold clearLatch
  with_reducible repeat' (first
      | assumption | intro _ | apply c_setTi | simp -iota only [c_mk_iff])

theorem c_hedgeClear (s : State) (h_s : Cores cc s) : Cores cc (hedgeClear s) := by
  unfold hedgeClear
  with_reducible repeat' (first
      | assumption | intro _ | apply c_foldl | apply c_foldl1 | apply c_setTi | apply c_clearWin
      | apply c_clearRange | simp -iota only [c_mk_iff])

theorem c_unclaim (s : State) (t : Nat) (h_s : Cores cc s) : Cores cc (unclaim s t) := by
  unfold unclaim
  with_reducible repeat' (first
      | assumption | apply c_setReg | apply c_setRegAt | apply c_ite | simp -iota only [c_mk_iff] | split
      | refine c_of_eq (by assumption) ?_)

theorem c_claimChan (s : State) (t c : Nat) (h_s : Cores cc s) : Cores cc (claimChan s t c) := by
  unfold claimChan
  with_reducible repeat' (first
      | assumption | apply c_setReg | apply c_setRegAt | simp -iota only [c_mk_iff])

theorem c_pselSet (s : State) (p : Nat) (v : Word) (role : Nat) (h_s : Cores cc s) : Cores cc (pselSet s p v role).1 := by
  unfold pselSet
  with_reducible repeat' (first
      | assumption | intro _ | apply c_bump | apply c_bumpBy | apply c_setReg | apply c_setRegAt | apply c_ite
      | apply c_ite1 | simp -iota only [c_mk_iff] | split | refine c_of_eq (by assumption) ?_)

theorem c_tselSet (s : State) (t : Nat) (v : Word) (role : Nat) (h_s : Cores cc s) : Cores cc (tselSet s t v role).1 := by
  unfold tselSet
  with_reducible repeat' (first
      | assumption | intro _ | apply c_claimChan | apply c_unclaim | apply c_bump | apply c_bumpBy | apply c_setReg
      | apply c_setRegAt | apply c_ite | apply c_ite1 | simp -iota only [c_mk_iff] | split
      | refine c_of_eq (by assumption) ?_)

theorem c_dropGuarded (s : State) (c : Nat) (h_s : Cores cc s) : Cores cc (dropGuarded s c) := by
  unfold dropGuarded
  with_reducible repeat' (first
      | assumption | intro _ | apply c_foldl | apply c_foldl1 | apply c_unclaim | apply c_bump | apply c_bumpBy
      | apply c_setReg | apply c_setRegAt | apply c_ite | simp -iota only [c_mk_iff] | split
      | refine c_of_eq (by assumption) ?_)

theorem c_chanSet (s : State) (c : Nat) (v : Word) (role : Nat) (h_s : Cores cc s) : Cores cc (chanSet s c v role).1 := by
  unfold chanSet
  with_reducible repeat' (first
      | assumption | apply c_dropGuarded | apply c_setReg | apply c_setRegAt | apply c_ite | apply c_ite1
      | simp -iota only [c_mk_iff] | split | refine c_of_eq (by assumption) ?_)

theorem c_swFire (s : State) (v : Word) (h_s : Cores cc s) : Cores cc (swFire s v) := by
  unfold swFire
  with_reducible repeat' (first
      | assumption | intro _ | apply c_fire | simp -iota only [c_mk_iff])

theorem c_delayStart (s : State) (k : Nat) (h_s : Cores cc s) : Cores cc (delayStart s k) := by
  unfold delayStart
  with_reducible repeat' (first
      | assumption | apply c_tiTaken | apply c_ite | simp -iota only [c_mk_iff] | split
      | refine c_of_eq (by assumption) ?_)

theorem c_delayEnd (s : State) (k : Nat) (h_s : Cores cc s) : Cores cc (delayEnd s k) := by
  unfold delayEnd
  with_reducible repeat' (first
      | assumption | apply c_fire | apply c_tiEnd | apply c_ite | simp -iota only [c_mk_iff]
      | split | refine c_of_eq (by assumption) ?_)

/-! Queue.lean -/

theorem c_freeBlocks (s : State) (q : Nat) (h_s : Cores cc s) : Cores cc (freeBlocks s q) := by
  unfold freeBlocks
  with_reducible repeat' (first
      | assumption | intro _ | apply c_setQueue | apply c_ite | simp -iota only [c_mk_iff] | split
      | refine c_of_eq (by assumption) ?_)

theorem c_takeBlocks (x0 : Nat) (s : State) (c k : Nat) (x3 : List Block) (h_s : Cores cc s) :
    Cores cc (takeBlocks x0 s c k x3).1 := by
  induction x0 generalizing s c k x3 with
  | zero =>
    unfold takeBlocks
    with_reducible repeat' (first
        | assumption | intro _ | apply c_draw | simp -iota only [c_mk_iff] | split
        | refine c_of_eq (by assumption) ?_)
  | succ n ih =>
    unfold takeBlocks
    with_reducible repeat' (first
        | assumption | apply ih | intro _ | apply c_draw | simp -iota only [c_mk_iff] | split
        | refine c_of_eq (by assumption) ?_)

theorem c_noteBlocks (s : State) (c : Nat) (h_s : Cores cc s) : Cores cc (noteBlocks s c) := by
  unfold noteBlocks
  with_reducible repeat' (first
      | assumption | apply c_bankMax | simp -iota only [c_mk_iff])

theorem c_noteStarved (s : State) (h_s : Cores cc s) : Cores cc (noteStarved s) := by
  unfold noteStarved
  with_reducible repeat' (first
      | assumption | intro _ | apply c_foldl | apply c_foldl1 | apply c_fire1 | apply c_fire
      | apply c_ite | simp -iota only [c_mk_iff] | split | refine c_of_eq (by assumption) ?_)

theorem c_countWait (s : State) (q : Nat) (h_s : Cores cc s) : Cores cc (countWait s q) := by
  unfold countWait
  with_reducible repeat' (first
      | assumption | apply c_noteStarved | apply c_bankAdd | apply c_bump | apply c_bumpBy
      | simp -iota only [c_mk_iff])

theorem c_fireWatches (s : State) (q : Nat) (h_s : Cores cc s) : Cores cc (fireWatches s q) := by
  unfold fireWatches
  with_reducible repeat' (first
      | assumption | intro _ | apply c_fire | apply c_ite | simp -iota only [c_mk_iff] | split
      | refine c_of_eq (by assumption) ?_)

theorem c_streamIn (s : State) (q : Nat) (p : Packet) (own : List Block) (h_s : Cores cc s) :
    Cores cc (streamIn s q p own) := by
  unfold streamIn
  with_reducible repeat' (first
      | assumption | intro _ | apply c_takeBlocks | apply c_setQueue | apply c_ite | apply c_ite1
      | simp -iota only [c_mk_iff] | split | refine c_of_eq (by assumption) ?_)

theorem c_commitPkt (s : State) (q : Nat) (p : Packet) (own : List Block := []) (h_s : Cores cc s) :
    Cores cc (commitPkt s q p own) := by
  unfold commitPkt
  with_reducible repeat' (first
      | assumption | apply c_streamIn | apply c_fireWatches | apply c_noteBlocks | apply c_bankAdd
      | simp -iota only [c_mk_iff])

theorem c_hwStore (s : State) (q : Nat) (ws : List Dword) (h_s : Cores cc s) : Cores cc (hwStore s q ws) := by
  unfold hwStore
  with_reducible repeat' (first
      | assumption | intro _ | apply c_foldl | apply c_foldl1 | apply c_commitPkt | apply c_bankAdd | apply c_ite
      | simp -iota only [c_mk_iff] | split | refine c_of_eq (by assumption) ?_)

theorem c_hwTry (s : State) (q : Nat) (ws : List Dword) (h_s : Cores cc s) : Cores cc (hwTry s q ws).1 := by
  unfold hwTry
  with_reducible repeat' (first
      | assumption | apply c_hwStore | apply c_bump | apply c_bumpBy | simp -iota only [c_mk_iff] | split
      | refine c_of_eq (by assumption) ?_)

theorem c_hwOffer (s : State) (k q : Nat) (ws : List Dword) (h_s : Cores cc s) : Cores cc (hwOffer s k q ws).1 := by
  unfold hwOffer
  with_reducible repeat' (first
      | assumption | intro _ | apply c_hwTry | apply c_countWait | apply c_ite | apply c_ite1
      | simp -iota only [c_mk_iff] | split | refine c_of_eq (by assumption) ?_)

theorem c_addDrops (s : State) (q n : Nat) (h_s : Cores cc s) : Cores cc (addDrops s q n) := by
  unfold addDrops
  with_reducible repeat' (first
      | assumption | intro _ | apply c_setQueue | apply c_ite | simp -iota only [c_mk_iff] | split
      | refine c_of_eq (by assumption) ?_)

theorem c_rewindOpen (s : State) (req : Nat) (sw : Swallow) (h_s : Cores cc s) : Cores cc (rewindOpen s req sw) := by
  unfold rewindOpen
  with_reducible repeat' (first
      | assumption | apply c_setProd | apply c_bankAdd | apply c_bump | apply c_bumpBy | apply c_ite
      | simp -iota only [c_mk_iff] | split | refine c_of_eq (by assumption) ?_)

theorem c_closeProd (s : State) (req : Nat) (h_s : Cores cc s) : Cores cc (closeProd s req) := by
  unfold closeProd
  with_reducible repeat' (first
      | assumption | apply c_setProd | simp -iota only [c_mk_iff])

theorem c_bumpOrphan (s : State) (r : Nat) (get : Bool) (h_s : Cores cc s) : Cores cc (bumpOrphan s r get) := by
  unfold bumpOrphan
  with_reducible repeat' (first
      | assumption | apply c_setFld | apply c_setReg | apply c_setRegAt | apply c_ite | simp -iota only [c_mk_iff]
      | split | refine c_of_eq (by assumption) ?_)

theorem c_dropClaim (s : State) (req : Nat) (h_s : Cores cc s) : Cores cc (dropClaim s req) := by
  unfold dropClaim
  with_reducible repeat' (first
      | assumption | apply c_addDrops | apply c_freeBlocks | apply c_setCons | simp -iota only [c_mk_iff] | split
      | refine c_of_eq (by assumption) ?_)

theorem c_orphanOpen (s : State) (req : Nat) (h_s : Cores cc s) : Cores cc (orphanOpen s req) := by
  unfold orphanOpen
  with_reducible repeat' (first
      | assumption | apply c_bumpOrphan | apply c_closeProd | apply c_rewindOpen | simp -iota only [c_mk_iff]
      | split | refine c_of_eq (by assumption) ?_)

theorem c_qSelect (s : State) (req q : Nat) (h_s : Cores cc s) : Cores cc (qSelect s req q) := by
  unfold qSelect
  with_reducible repeat' (first
      | assumption | apply c_orphanOpen | apply c_dropClaim | apply c_bumpOrphan | apply c_ite
      | simp -iota only [c_mk_iff] | split | refine c_of_eq (by assumption) ?_)

theorem c_qLeave (s : State) (req : Nat) (h_s : Cores cc s) : Cores cc (qLeave s req) := by
  unfold qLeave
  with_reducible repeat' (first
      | assumption | apply c_orphanOpen | apply c_dropClaim | apply c_bumpOrphan | simp -iota only [c_mk_iff]
      | split | refine c_of_eq (by assumption) ?_)

theorem c_swallowPush (s : State) (x : ProdCtx) (h_s : Cores cc s) : Cores cc (swallowPush s x) := by
  unfold swallowPush
  with_reducible repeat' (first
      | assumption | apply c_addDrops | apply c_bump | apply c_bumpBy | simp -iota only [c_mk_iff] | split
      | refine c_of_eq (by assumption) ?_)

theorem c_qPush (s : State) (req q : Nat) (w : Dword) (h_s : Cores cc s) : ∀ t, qPush s req q w = some t → Cores cc t := by
  intro t ht
  unfold qPush at ht
  dsimp only at ht
  repeat' split at ht
  all_goals first | (cases ht; done) | (injection ht with ht; subst ht)
  all_goals with_reducible repeat' (first
      | assumption | apply c_swallowPush | apply c_rewindOpen
      | apply c_addDrops | apply c_bumpBy | apply c_commitPkt | apply c_noteBlocks | apply c_bankAdd
      | apply c_setProd | apply c_takeBlocks)

theorem c_qEnd (s : State) (req q : Nat) (h_s : Cores cc s) : Cores cc (qEnd s req q).1 := by
  unfold qEnd
  with_reducible repeat' (first
      | assumption | apply c_closeProd | apply c_commitPkt | apply c_bump | apply c_bumpBy | apply c_ite
      | apply c_ite1 | simp -iota only [c_mk_iff] | split | refine c_of_eq (by assumption) ?_)

theorem c_qRewind (s : State) (req : Nat) (h_s : Cores cc s) : Cores cc (qRewind s req) := by
  unfold qRewind
  with_reducible repeat' (first
      | assumption | apply c_closeProd | apply c_rewindOpen | simp -iota only [c_mk_iff])

theorem c_markWord (s : State) (q : Nat) (h_s : Cores cc s) : Cores cc (markWord s q) := by
  unfold markWord
  with_reducible repeat' (first
      | assumption | apply c_fire1 | apply c_fire | apply c_bump | apply c_bumpBy | simp -iota only [c_mk_iff])

theorem c_noteEcc (s : State) (q : Nat) (e : BitVec 72) (h_s : Cores cc s) : Cores cc (noteEcc s q e) := by
  unfold noteEcc
  with_reducible repeat' (first
      | assumption | intro _ | apply c_markWord | apply c_bankAdd | apply c_setQueue | apply c_bump | apply c_bumpBy
      | apply c_ite | apply c_ite1 | simp -iota only [c_mk_iff] | split | refine c_of_eq (by assumption) ?_)

theorem c_readLink (s : State) (q k : Nat) (h_s : Cores cc s) : Cores cc (readLink s q k) := by
  unfold readLink
  with_reducible repeat' (first
      | assumption | intro _ | apply c_foldl | apply c_foldl1 | apply c_noteEcc | apply c_setQueue | apply c_ite
      | simp -iota only [c_mk_iff] | split | refine c_of_eq (by assumption) ?_)

theorem c_breakQueue (s : State) (q : Nat) (h_s : Cores cc s) : Cores cc (breakQueue s q) := by
  unfold breakQueue
  with_reducible repeat' (first
      | assumption | assumption | intro _ | apply c_foldl | apply c_foldl1 | apply c_dropClaim
      | apply c_rewindOpen | apply c_setChan | apply c_setQueue | apply c_bump | apply c_bumpBy | simp -iota only [c_mk_iff])

theorem c_readDesc (s : State) (q : Nat) (h_s : Cores cc s) : Cores cc (readDesc s q) := by
  unfold readDesc
  with_reducible repeat' (first
      | assumption | intro _ | apply c_foldl | apply c_foldl1 | apply c_breakQueue | apply c_noteEcc
      | apply c_setQueue | apply c_ite | apply c_ite1 | simp -iota only [c_mk_iff] | split
      | refine c_of_eq (by assumption) ?_)

theorem c_popWord (s : State) (q : Nat) (w : QWord) (idx at_ : Nat) (h_s : Cores cc s) :
    Cores cc (popWord s q w idx at_).1 := by
  unfold popWord
  with_reducible repeat' (first
      | assumption | apply c_readLink | apply c_noteEcc | apply c_freeBlocks | apply c_bankAdd | apply c_bump
      | apply c_bumpBy | apply c_ite | apply c_ite1 | simp -iota only [c_mk_iff] | split
      | refine c_of_eq (by assumption) ?_)

theorem c_keepClaim (s : State) (req q : Nat) (rest : List QWord) (idx at_ : Nat) (h_s : Cores cc s) :
    Cores cc (keepClaim s req q rest idx at_) := by
  unfold keepClaim
  with_reducible repeat' (first
      | assumption | apply c_setCons | apply c_ite | simp -iota only [c_mk_iff] | split
      | refine c_of_eq (by assumption) ?_)

theorem c_dropHead (s : State) (q : Nat) (p : Packet) (ps : List Packet) (h_s : Cores cc s) : Cores cc (dropHead s q p ps) := by
  unfold dropHead
  with_reducible repeat' (first
      | assumption | intro _ | apply c_setQueue | simp -iota only [c_mk_iff])

theorem c_qPop (s : State) (req q : Nat) (h_s : Cores cc s) : Cores cc (qPop s req q).1 := by
  unfold qPop
  with_reducible repeat' (first
      | assumption | apply c_dropHead | apply c_keepClaim | apply c_popWord | apply c_dropClaim | apply c_bumpOrphan
      | apply c_bump | apply c_bumpBy | apply c_ite | apply c_ite1 | simp -iota only [c_mk_iff] | split
      | refine c_of_eq (by assumption) ?_)

theorem c_qGet (s : State) (req q : Nat) (h_s : Cores cc s) : Cores cc (qGet s req q).1 := by
  unfold qGet
  with_reducible repeat' (first
      | assumption | apply c_qPop | apply c_readDesc | apply c_ite | apply c_ite1 | simp -iota only [c_mk_iff]
      | split | refine c_of_eq (by assumption) ?_)

theorem c_flushStored (s : State) (q : Nat) (h_s : Cores cc s) : Cores cc (flushStored s q).1 := by
  unfold flushStored
  with_reducible repeat' (first
      | assumption | intro _ | apply c_foldl | apply c_foldl1 | apply c_addDrops | apply c_setCons
      | apply c_setQueue | apply c_bumpBy | simp -iota only [c_mk_iff])

theorem c_qFlush (s : State) (q : Nat) (h_s : Cores cc s) : Cores cc (qFlush s q).1 := by
  unfold qFlush
  with_reducible repeat' (first
      | assumption | intro _ | apply c_foldl | apply c_foldl1 | apply c_flushStored | apply c_addDrops
      | apply c_setProd | apply c_bumpBy | simp -iota only [c_mk_iff] | split | refine c_of_eq (by assumption) ?_)

theorem c_bumpEpoch (s : State) (q : Nat) (h_s : Cores cc s) : Cores cc (bumpEpoch s q) := by
  unfold bumpEpoch
  with_reducible repeat' (first
      | assumption | intro _ | apply c_foldl | apply c_foldl1 | apply c_rewindOpen | apply c_setQueue
      | simp -iota only [c_mk_iff])

theorem c_qReset (s : State) (q : Nat) (h_s : Cores cc s) : Cores cc (qReset s q).1 := by
  unfold qReset
  with_reducible repeat' (first
      | assumption | intro _ | apply c_bumpEpoch | apply c_flushStored | apply c_setQueue
      | simp -iota only [c_mk_iff] | split | refine c_of_eq (by assumption) ?_)

theorem c_scrubBlocks (s : State) (q : Nat) (h_s : Cores cc s) : Cores cc (scrubBlocks s q) := by
  unfold scrubBlocks
  with_reducible repeat' (first
      | assumption | intro _ | apply c_foldl | apply c_foldl1 | apply c_noteEcc | apply c_setCons | apply c_setProd
      | apply c_setQueue | simp -iota only [c_mk_iff])

theorem c_scrubQueue (s : State) (q : Nat) (h_s : Cores cc s) : Cores cc (scrubQueue s q) := by
  unfold scrubQueue
  with_reducible repeat' (first
      | assumption | apply c_scrubBlocks | apply c_readDesc | apply c_ite | simp -iota only [c_mk_iff] | split
      | refine c_of_eq (by assumption) ?_)

theorem c_setChanSt (s : State) (c st : Nat) (h_s : Cores cc s) : Cores cc (setChanSt s c st) := by
  unfold setChanSt
  with_reducible repeat' (first
      | assumption | assumption | intro _ | apply c_fire1 | apply c_fire | apply c_setChan | apply c_ite | simp -iota only [c_mk_iff] | split
      | refine c_of_eq (by assumption) ?_)

theorem c_chanLost (s : State) (c : Nat) (h_s : Cores cc s) : Cores cc (chanLost s c) := by
  unfold chanLost
  with_reducible repeat' (first
      | assumption | intro _ | apply c_foldl | apply c_foldl1 | apply c_dropClaim | apply c_rewindOpen
      | apply c_bumpBy | apply c_ite | apply c_ite1 | simp -iota only [c_mk_iff] | split
      | refine c_of_eq (by assumption) ?_)

theorem c_chanInit (s : State) (c : Nat) (h_s : Cores cc s) : Cores cc (chanInit s c) := by
  unfold chanInit
  with_reducible repeat' (first
      | assumption | assumption | intro _ | apply c_setChan | simp -iota only [c_mk_iff])

theorem c_complete (s : State) (b : Blk) (i op : Nat) (d : Desc) (code result : Nat) (extra : List Dword) (h_s : Cores cc s) :
    Cores cc (complete s b i op d code result extra) := by
  unfold complete
  with_reducible repeat' (first
      | assumption | intro _ | apply c_hwTry | apply c_countWait | apply c_logClamp | apply c_draw | apply c_ite
      | simp -iota only [c_mk_iff] | split | refine c_of_eq (by assumption) ?_)

theorem c_commitHeld (s : State) (req : Nat) (h_s : Cores cc s) : Cores cc (commitHeld s req) := by
  unfold commitHeld
  with_reducible repeat' (first
      | assumption | intro _ | apply c_foldl | apply c_foldl1 | apply c_hwTry | apply c_countWait
      | apply c_noteStarved | apply c_ite | apply c_ite1 | simp -iota only [c_mk_iff] | split
      | refine c_of_eq (by assumption) ?_)

theorem c_rebase (s : State) (h_s : Cores cc s) : Cores cc (rebase s) := by
  unfold rebase
  with_reducible repeat' (first
      | assumption | intro _ | apply c_setReg | apply c_setRegAt | simp -iota only [c_mk_iff])

/-! What follows of the cores themselves -/

theorem cores_foldl {α : Type} (f : State → α → State) (h : ∀ s a, (f s a).cores = s.cores) (l : List α) (s : State) :
    (l.foldl f s).cores = s.cores := (c_foldl (c_of s) fun t a k => ⟨(h t a).trans k.eq⟩).eq

theorem cores_fire (s : State) (evs : List (Nat × Nat)) : (s.fire evs).cores = s.cores := (c_fire s evs (c_of s)).eq
theorem cores_tiEnd (s : State) (t : Nat) : (tiEnd s t).cores = s.cores := (c_tiEnd s t (c_of s)).eq
theorem cores_qSelect (s : State) (req q : Nat) : (qSelect s req q).cores = s.cores := (c_qSelect s req q (c_of s)).eq
theorem cores_qRewind (s : State) (req : Nat) : (qRewind s req).cores = s.cores := (c_qRewind s req (c_of s)).eq
theorem cores_qEnd (s : State) (req q : Nat) : (qEnd s req q).1.cores = s.cores := (c_qEnd s req q (c_of s)).eq
theorem cores_qPop (s : State) (req q : Nat) : (qPop s req q).1.cores = s.cores := (c_qPop s req q (c_of s)).eq
theorem cores_qGet (s : State) (req q : Nat) : (qGet s req q).1.cores = s.cores := (c_qGet s req q (c_of s)).eq
theorem cores_qPush (s t : State) (req q : Nat) (w : Dword) (h : qPush s req q w = some t) : t.cores = s.cores :=
  (c_qPush s req q w (c_of s) t h).eq
theorem cores_qFlush (s : State) (q : Nat) : (qFlush s q).1.cores = s.cores := (c_qFlush s q (c_of s)).eq

end Sys2Proof.Laws
end

