-- ==== Sys2Proof/Laws/Atomics.lean ====
section
/-! SUPPORT. What the atomics come to, case by case. -/

set_option linter.all false

namespace Sys2Proof.Laws

open Sys2Proof.Machine

variable (s : State) (r : Nat) (ra rb rd : Reg) (f : State → Nat → AtPlace → Word → State) (k : Nat)

theorem atomicRead_misaligned (h : ((s.core r).greg ra).toNat % 4 ≠ 0) :
    atomicRead ra f rd k s r = trapOut (drainAll s r) 4 (w32 ((s.core r).greg ra).toNat) [k, ((s.core r).greg ra).toNat] := by
  unfold atomicRead
  dsimp only
  rw [if_pos h]; rfl

theorem atomicRead_nowhere (h : ((s.core r).greg ra).toNat % 4 = 0) (p : atPlace r ((s.core r).greg ra).toNat = none) :
    atomicRead ra f rd k s r = trapOut (drainAll s r) 6 (w32 ((s.core r).greg ra).toNat) [k, ((s.core r).greg ra).toNat] := by
  unfold atomicRead
  dsimp only
  rw [if_neg (fun x => x h), p]; rfl

/-- What a check of a word reports: the word is uncorrectable. -/
theorem checkWord_found (m : Table Byte) (errs : Table (BitVec 72)) (k : Nat) :
    (checkWord m errs k).found = (eccJudge (tget 0 errs k)).1 := by
  unfold checkWord
  dsimp only
  split
  · next z => rw [z]; rfl
  · rfl

theorem localCheck_flag (s : State) (r a : Nat) (f : Bool) : (localCheck s r a f).2 = (s.core r).bad a := by
  unfold localCheck CoreState.bad eccBad
  dsimp only
  rw [checkWord_found]
  split
  · next z => rw [z]; rfl
  · cases (eccJudge (tget 0 (s.core r).sramErr (a / 8))).1 <;> rfl

theorem sramCheck_flag (s : State) (m off req : Nat) : (sramCheck s m off req).2 = sramBad s m off := by
  unfold sramCheck sramBad eccBad
  dsimp only
  rw [checkWord_found]
  split
  · next z => rw [z]; rfl
  · cases (eccJudge (tget 0 (s.meadow m).sramErr (off / 8))).1 <;> rfl

/-- The word at `a` of local SRAM has been read. -/
abbrev readAt (s : State) (r a : Nat) : State := (localCheck (fetchLost s r) r a false).1

theorem atomicRead_own {a : Nat} (h : ((s.core r).greg ra).toNat % 4 = 0) (p : atPlace r ((s.core r).greg ra).toNat = some (.own a))
    (b : ((drainAll s r).core r).bad a = false) :
    atomicRead ra f rd k s r = Eff.mk (f (readAt (drainAll s r) r a) r (.own a) (w32 (leNat (memBytes ((readAt (drainAll s r) r a).core r).sram a 4))))
      [k, ((s.core r).greg ra).toNat] [] (.done [.g rd (w32 (leNat (memBytes ((readAt (drainAll s r) r a).core r).sram a 4)))]) := by
  have rd1 : sramRead (drainAll s r) r a 4 = (readAt (drainAll s r) r a, .val (memBytes ((readAt (drainAll s r) r a).core r).sram a 4)) := by
    unfold sramRead
    have : (localCheck (fetchLost (drainAll s r) r) r a false).2 = false := (localCheck_flag _ _ _ _).trans b
    dsimp only
    rw [this]; rfl
  unfold atomicRead
  dsimp only
  rw [if_neg (fun x => x h), p]
  dsimp only
  rw [rd1]

/-- A running core's meadow is not asleep. -/
theorem sleepJudge_awake (m : Nat) (h : r / 8 = m) (run : (s.core r).st = .running) : sleepJudge s m = s := by
  have : asleep s m = false := by
    unfold asleep
    rw [Bool.and_eq_false_iff]
    left
    rw [List.all_eq_false]
    refine ⟨r, ?_, ?_⟩
    · unfold meadowCores
      rw [List.mem_map]
      exact ⟨r % 8, by simp; omega, by omega⟩
    · rw [run]; simp
  unfold sleepJudge
  rw [this]
  simp

theorem sramDo_served (m role : Nat) (g : State → State × MemEnds) (a : (s.meadow m).st = .active)
    (n : sramRefuses s m r role = false) (h : r / 8 = m) (run : ((g s).1.core r).st = .running) : sramDo s r role m g = g s := by
  have e : sramReach s m r role = (s, .served) := by
    unfold sramReach
    rw [a]
    dsimp only
    rw [n]
    simp only [Bool.false_eq_true, if_false, reduceCtorEq]
    unfold leaveRest
    rw [a]
    simp
  unfold sramDo
  rw [e]
  dsimp only
  rw [sleepJudge_awake _ _ _ h run]

/-- A word of a meadow's SRAM has been read. -/
abbrev sramSeen (s : State) (m off req : Nat) : State := (sramCheck s m off req).1

theorem atomicRead_sram {m off : Nat} (h : ((s.core r).greg ra).toNat % 4 = 0) (p : atPlace r ((s.core r).greg ra).toNat = some (.sram m off))
    (act : ((drainAll s r).meadow m).st = .active) (n : sramRefuses (drainAll s r) m r ((drainAll s r).roleOf r) = false)
    (b : sramBad (drainAll s r) m off = false) (hm : r / 8 = m)
    (run : ((f (sramSeen (drainAll s r) m off r) r (.sram m off) (w32 (leNat (memBytes ((sramSeen (drainAll s r) m off r).meadow m).sram off 4)))).core r).st = .running) :
    atomicRead ra f rd k s r = Eff.mk (f (sramSeen (drainAll s r) m off r) r (.sram m off) (w32 (leNat (memBytes ((sramSeen (drainAll s r) m off r).meadow m).sram off 4))))
      [k, ((s.core r).greg ra).toNat] [] (.done [.g rd (w32 (leNat (memBytes ((sramSeen (drainAll s r) m off r).meadow m).sram off 4)))]) := by
  have g : sramGet (drainAll s r) r m off 4 = (sramSeen (drainAll s r) m off r, .done (memBytes ((sramSeen (drainAll s r) m off r).meadow m).sram off 4)) := by
    unfold sramGet
    dsimp only
    rw [sramCheck_flag, b]; rfl
  unfold atomicRead
  dsimp only
  rw [if_neg (fun x => x h), p]
  dsimp only
  rw [sramDo_served (drainAll s r) r m ((drainAll s r).roleOf r) _ act n hm (by rw [g]; exact run)]
  rw [g]
  rfl

theorem scBody_misaligned (h : ((s.core r).greg ra).toNat % 4 ≠ 0) :
    scBody rd ra rb s r = trapOut (drainAll s r) 5 (w32 ((s.core r).greg ra).toNat) [5, ((s.core r).greg ra).toNat, ((s.core r).greg rb).toNat] := by
  unfold scBody
  dsimp only
  rw [if_pos h]; rfl

theorem scBody_nowhere (h : ((s.core r).greg ra).toNat % 4 = 0) (p : atPlace r ((s.core r).greg ra).toNat = none) :
    scBody rd ra rb s r = trapOut (drainAll s r) 7 (w32 ((s.core r).greg ra).toNat) [5, ((s.core r).greg ra).toNat, ((s.core r).greg rb).toNat] := by
  unfold scBody
  dsimp only
  rw [if_neg (fun x => x h), p]; rfl

theorem scBody_own {a : Nat} (h : ((s.core r).greg ra).toNat % 4 = 0) (p : atPlace r ((s.core r).greg ra).toNat = some (.own a)) :
    scBody rd ra rb s r = Eff.mk (if reserved (drainAll s r) r (.own a) then dropRsv (localPut (drainAll s r) r a (leBytes 4 ((s.core r).greg rb).toNat)) r
        else dropRsv ((drainAll s r).bumpPriv r CORE_CNT_SC_FAIL) r) [5, ((s.core r).greg ra).toNat, ((s.core r).greg rb).toNat] []
      (.done [.g rd (if reserved (drainAll s r) r (.own a) then 0 else 1)]) := by
  unfold scBody
  dsimp only
  rw [if_neg (fun x => x h), p]
  dsimp only
  cases reserved (drainAll s r) r (.own a) <;> rfl

theorem scBody_sram {m off : Nat} (h : ((s.core r).greg ra).toNat % 4 = 0) (p : atPlace r ((s.core r).greg ra).toNat = some (.sram m off))
    (act : ((drainAll s r).meadow m).st = .active) (n : sramRefuses (drainAll s r) m r ((drainAll s r).roleOf r) = false) (hm : r / 8 = m)
    (run : ∀ (t : State), t.cores = (dropRsv (sramPut (drainAll s r) r m off (leBytes 4 ((s.core r).greg rb).toNat)).1 r).cores ∨
      t.cores = (dropRsv ((drainAll s r).bumpPriv r CORE_CNT_SC_FAIL) r).cores → (t.core r).st = .running) :
    scBody rd ra rb s r = Eff.mk (if reserved (drainAll s r) r (.sram m off) then dropRsv (sramPut (drainAll s r) r m off (leBytes 4 ((s.core r).greg rb).toNat)).1 r
        else dropRsv ((drainAll s r).bumpPriv r CORE_CNT_SC_FAIL) r) [5, ((s.core r).greg ra).toNat, ((s.core r).greg rb).toNat] []
      (.done [.g rd (if reserved (drainAll s r) r (.sram m off) then 0 else 1)]) := by
  have e := sramDo_served (drainAll s r) r m ((drainAll s r).roleOf r) (fun u =>
          if reserved u r (.sram m off) then (dropRsv (sramPut u r m off (leBytes 4 ((s.core r).greg rb).toNat)).1 r, .done [0])
          else (dropRsv (u.bumpPriv r CORE_CNT_SC_FAIL) r, .done [1])) act n hm (by
    cases reserved (drainAll s r) r (.sram m off)
    · exact run _ (.inr rfl)
    · exact run _ (.inl rfl))
  unfold scBody
  dsimp only
  rw [if_neg (fun x => x h), p]
  dsimp only
  rw [e]
  cases reserved (drainAll s r) r (.sram m off) <;> rfl

end Sys2Proof.Laws
end

