-- ==== Sys2Proof/Laws/Frames.lean ====
section
/-! SUPPORT. What becomes of a frame that a lane receives. -/

set_option linter.all false

namespace Sys2Proof.Laws

open Sys2Proof.Machine

theorem poured_lane (u : State) (l : Nat) (f : RxFrame) : (rxPoured u l f).1.lane l = u.lane l := by
  unfold rxPoured fifoPour
  split <;> rfl

/-- The FIFO changes nothing of the room for a frame. -/
theorem poured_fits (u : State) (l type : Nat) (f : RxFrame) : rxFits (rxPoured u l f).1 l type (rxOut u l f) = rxFits u l type f := by
  unfold rxFits
  rw [poured_lane]
  rfl

/-- A frame that the lane takes. -/
theorem rx_admitted {u : State} {l type : Nat} {f : RxFrame} (h : Admitted u l type f) :
    receive u l type f = rxGo (rxHeld u l type f) l type (rxOut u l f) := by
  unfold receive rxJudge
  rw [if_neg (by rw [h.receives]; exact Bool.noConfusion), if_neg (by rw [poured_fits, h.fits]; exact Bool.noConfusion)]
  dsimp only
  rw [h.sound]

/-- A frame that the lane does not take, by what fails first. -/
theorem rx_refused (u : State) (l type : Nat) (f : RxFrame) :
    (laneTx u l = false → receive u l type f = u) ∧
    (laneTx u l = true → rxFits u l type f = false → receive u l type f = bumpLane (rxPoured u l f).1 l LANE_CNT_OVERRUN) ∧
    (laneTx u l = true → rxFits u l type f = true → ∀ off, rxFails (rxHeld u l type f) l type (rxOut u l f) = some off →
      receive u l type f = freeUnits (bumpLane (rxHeld u l type f) l off) l (decide (type = 2)) (rxUnits type f.payload)) := by
  refine ⟨fun h => ?_, fun h hf => ?_, fun h hf off e => ?_⟩
  · unfold receive; rw [if_pos h]
  · unfold receive rxJudge
    rw [if_neg (by rw [h]; exact Bool.noConfusion), if_pos (by rw [poured_fits]; exact hf)]
  · unfold receive rxJudge
    rw [if_neg (by rw [h]; exact Bool.noConfusion), if_neg (by rw [poured_fits, hf]; exact Bool.noConfusion)]
    dsimp only
    rw [e]
    rfl

theorem sync_makes {u : State} {l : Nat} (k : laneTx u l = true)
    (k2 : (∀ a, (u.lane l).lastSync = some a → a + syncNs u l ≤ u.uptime) ∨ (u.lane l).lastTx + 1000000000 ≤ u.uptime ∨ (u.lane l).syncPending = true) :
    syncServe u l = startNext (u.modLane l fun x => { x with syncPending := true }) l := by
  unfold syncServe
  dsimp only
  rw [if_pos]
  refine ⟨k, ?_⟩
  obtain h | h := k2
  · refine Or.inl ?_
    cases e : (u.lane l).lastSync with
    | none => rw [Option.all_none]
    | some a => rw [Option.all_some]; exact decide_eq_true (h a e)
  · exact Or.inr h

theorem sync_shut {u : State} {l : Nat} (k : laneTx u l = false) : syncServe u l = startNext u l := by
  unfold syncServe
  dsimp only
  rw [if_neg]
  rintro ⟨h, -⟩
  rw [k] at h
  exact Bool.noConfusion h

theorem sync_early {u : State} {l a : Nat} (k : (u.lane l).lastSync = some a) (k2 : u.uptime < a + syncNs u l)
    (k3 : u.uptime < (u.lane l).lastTx + 1000000000) (k4 : (u.lane l).syncPending = false) : syncServe u l = startNext u l := by
  unfold syncServe
  dsimp only
  rw [if_neg]
  rintro ⟨-, h | h | h⟩
  · rw [k, Option.all_some] at h
    have := of_decide_eq_true h
    omega
  · omega
  · rw [k4] at h
    exact Bool.noConfusion h

/-- A fold whose every step leaves the value as it is. -/
theorem fold_same {α : Type} {a : α} {n : Nat} {f : α → Nat → α} (h : ∀ k, k < n → f a k = a) : foldTo n f a = a := by
  have : ∀ l : List Nat, (∀ k ∈ l, k < n) → l.foldl f a = a := by
    intro l
    induction l with
    | nil => intro _; rfl
    | cons x xs ih =>
      intro hl
      rw [List.foldl_cons, h x (hl x (List.mem_cons_self ..))]
      exact ih fun k hk => hl k (List.mem_cons_of_mem _ hk)
  exact this _ fun k hk => List.mem_range.1 hk

/-- The amplitude that the mode of a lane and what the far end has come to: 0 none. -/
def ampOf (mode : Nat) (has24 has10 : Bool) : Nat :=
  match mode with
  | 1 => if has10 then 1 else 0
  | 2 => if has24 then 2 else 0
  | _ => if has24 then 2 else if has10 then 1 else 0

theorem linkUp_amp {u : State} {l : Nat} {has24 has10 : Bool} (k : (u.lane l).st = .linking) :
    (ampOf (u.lane l).ampAsk has24 has10 = 0 → Machine.linkUp u l has24 has10 = u) ∧
    (∀ amp, ampOf (u.lane l).ampAsk has24 has10 = amp → amp ≠ 0 → Machine.linkUp u l has24 has10 =
      enumStart (setLaneSt (u.modLane l fun x =>
        { stallEnds x u.uptime with
          linkUp := true, ampRes := amp, lpi := x.lpiAsk, anAttempts := 0, bulkUsed := 0, detUsed := 0, bulkLimit := 480,
          detLimit := 8, creditSent := (0, 0), creditAt := 0, creditDirty := none, lastSync := none, held := [] }) l
        .enumerating) l false false none none) := by
  refine ⟨fun h => ?_, fun amp h n => ?_⟩
  · unfold Machine.linkUp
    rw [if_neg (fun h => h k)]
    exact if_pos h
  · subst h
    unfold Machine.linkUp
    rw [if_neg (fun h => h k)]
    exact if_neg n

theorem ampOf_none {a b : Bool} {m : Nat} (ha : a = false) (hb : b = false) : ampOf m a b = 0 := by
  subst ha; subst hb
  unfold ampOf
  split <;> rfl

theorem ampOf_both {b : Bool} {m : Nat} (h : m ≠ 1) : ampOf m true b = 2 := by
  unfold ampOf
  split
  · exact absurd rfl h
  · rfl
  · rfl

theorem ampOf_low {m : Nat} (h : m ≠ 2) : ampOf m false true = 1 := by
  unfold ampOf
  split
  · rfl
  · exact absurd rfl h
  · rfl

end Sys2Proof.Laws
end

