-- ==== Sys2Proof/Laws/KeepMantle.lean ====
section
/-! SUPPORT. What the definitions of Mantle, the uplinks, boot and orders do keeps the queue and the canonical form. -/

set_option linter.all false

namespace Sys2Proof.Laws

open Sys2Proof.Machine

variable {P : List Instr → Prop}

/-! Keys.lean -/

theorem k_setKey (s : State) (i : Nat) (k : KeySlot) (h_s : K P s) : K P (setKey s i k) := by
  unfold setKey
  with_reducible repeat' (first
      | assumption | intro _ | apply k0_of | apply And.intro | apply mantleWf_intro | apply wf_mstaging
      | apply wf_slotA | apply wf_slotB | apply we_memWrite | apply wf_memWrite | apply wf_flashWrite | exact k_true (by assumption)
      | simp -iota only [k_mk_iff] | simp -iota only [k_mantle_iff])

theorem k_bumpUses (s : State) (i : Nat) (h_s : K P s) : K P (bumpUses s i) := by
  unfold bumpUses
  with_reducible repeat' (first
      | assumption | apply k_bump | apply k_bumpBy | simp -iota only [k_mk_iff])

theorem k_countSlot (s : State) (o : Option Nat) (passed : Bool) (h_s : K P s) : K P (countSlot s o passed) := by
  unfold countSlot
  with_reducible repeat' (first
      | assumption | apply k_bumpUses | apply k_bump | apply k_bumpBy | apply k_ite | simp -iota only [k_mk_iff]
      | split | refine k_of_eq (by assumption) ?_)

theorem k_verifyPair (s : State) (m b : List Byte) (h_s : K P s) : K P (verifyPair s m b).1 := by
  unfold verifyPair
  with_reducible repeat' (first
      | assumption | apply k_countSlot | simp -iota only [k_mk_iff])

theorem k_raiseRb (s : State) (n v : Nat) (h_s : K P s) : K P (raiseRb s n v) := by
  unfold raiseRb
  with_reducible repeat' (first
      | assumption | intro _ | apply k0_of | apply And.intro | apply mantleWf_intro | apply wf_mstaging
      | apply wf_slotA | apply wf_slotB | apply we_memWrite | apply wf_memWrite | apply wf_flashWrite | exact k_true (by assumption)
      | apply k_ite | simp -iota only [k_mk_iff] | simp -iota only [k_mantle_iff] | split
      | refine k_of_eq (by assumption) ?_)

/-! Reach.lean -/

theorem k_sramReach (s : State) (m req role : Nat) (h_s : K P s) : K P (sramReach s m req role).1 := by
  unfold sramReach
  with_reducible repeat' (first
      | assumption | apply k_bumpSeam | apply k_leaveRest | apply k_bump | apply k_bumpBy | apply k_ite
      | apply k_ite1 | simp -iota only [k_mk_iff] | split | refine k_of_eq (by assumption) ?_)

theorem k_noteSram (s : State) (m off req : Nat) (h_s : K P s) : K P (noteSram s m off req) := by
  unfold noteSram
  with_reducible repeat' (first
      | assumption | apply k_setReg | apply k_setRegAt | simp -iota only [k_mk_iff])

theorem k_sramCheck (s : State) (m off req : Nat) (h_s : K P s) : K P (sramCheck s m off req).1 := by
  unfold sramCheck
  with_reducible repeat' (first
      | assumption | exact k_true (by assumption) | apply k_noteSram | apply k_setMeadow | apply k_bump
      | apply k_bumpBy | apply wf_meadow | apply we_checkWord | apply wf_checkWord | apply we_nil2 | apply wf_nil | apply we_set | apply we_flipBit | apply k_ite | apply k_ite1
      | simp -iota only [k_mk_iff] | split | refine k_of_eq (by assumption) ?_)

theorem k_srcWord (s : State) (req role addr : Nat) (first : Bool) (h_s : K P s) :
    K P (srcWord s req role addr first).1 := by
  unfold srcWord
  with_reducible repeat' (first
      | assumption | apply k_sramCheck | apply k_sramReach | apply k_bulkCheck | apply k_ite | apply k_ite1
      | simp -iota only [k_mk_iff] | split | refine k_of_eq (by assumption) ?_)

theorem k_srcWords (n : Nat) (s : State) (req role addr : Nat) (b : Bool) (h_s : K P s) :
    K P (srcWords n s req role addr b).1 := by
  induction n generalizing s addr b with
  | zero => exact h_s
  | succ n ih =>
    unfold srcWords
    with_reducible repeat' (first
        | assumption | apply ih | apply k_srcWord | apply k_ite
        | apply k_ite1)

theorem k_srcRead (s : State) (req addr len : Nat) (h_s : K P s) : K P (srcRead s req addr len).1 := by
  unfold srcRead
  with_reducible repeat' (first
      | assumption | intro _ | apply k_foldl | apply k_foldl1 | apply k_srcWords | apply k_sleepJudge | apply k_ite
      | apply k_ite1 | simp -iota only [k_mk_iff] | split | refine k_of_eq (by assumption) ?_)

/-! Pattern.lean -/

theorem k_loadQueueRegs (count : Bool) (p : Panel) (b : Blk) (i : Nat) (offs : List Nat) (x : State × Bool) (h_x : K P x.1) :
    K P (loadQueueRegs count p b i offs x).1 := by
  unfold loadQueueRegs
  with_reducible repeat' (first
      | assumption | intro _ | apply k_foldl | apply k_foldl1 | apply k_loadReg | simp -iota only [k_mk_iff])

theorem k_poolFix (count : Bool) (p : Panel) (c : Nat) (x : State × Bool) (h_x : K P x.1) :
    K P (poolFix count p c x).1 := by
  unfold poolFix
  with_reducible repeat' (first
      | assumption | apply k_logClamp | apply k_setReg | apply k_setRegAt | apply k_ite | apply k_ite1
      | simp -iota only [k_mk_iff] | split | refine k_of_eq (by assumption) ?_)

theorem k_borrowFix (count : Bool) (p : Panel) (c : Nat) (x : State × Bool) (h_x : K P x.1) :
    K P (borrowFix count p c x).1 := by
  unfold borrowFix
  with_reducible repeat' (first
      | assumption | intro _ | apply k_foldl | apply k_foldl1 | apply k_logClamp | apply k_setFld | apply k_setReg
      | apply k_setRegAt | apply k_ite | apply k_ite1 | simp -iota only [k_mk_iff] | split
      | refine k_of_eq (by assumption) ?_)

theorem k_loadQueueMap (count : Bool) (p : Panel) (s : State) (h_s : K P s) : K P (loadQueueMap count p s).1 := by
  unfold loadQueueMap
  with_reducible repeat' (first
      | assumption | intro _ | apply k_foldl | apply k_foldl1 | apply k_borrowFix | apply k_poolFix
      | apply k_loadQueueRegs | apply k_setReg | apply k_setRegAt | simp -iota only [k_mk_iff])

theorem k_countSheets (n : List Sheet) (s : State) (h_s : K P s) : K P (countSheets s n) := by
  induction n generalizing s with
  | nil => unfold countSheets; exact h_s
  | cons a n ih =>
    unfold countSheets
    with_reducible repeat' (first
        | assumption | apply ih | apply k_verifyPair | apply k_ite)

theorem k_countBudget (s : State) (p : Option Panel) (f : Failure) (h_s : K P s) : K P (countBudget s p f) := by
  unfold countBudget
  with_reducible repeat' (first
      | assumption | intro _ | apply k_foldl | apply k_foldl1 | apply k_bump | apply k_bumpBy | apply k_ite
      | simp -iota only [k_mk_iff] | split | refine k_of_eq (by assumption) ?_)

theorem k_countVerified (s : State) (bs : List Byte) (h_s : K P s) : K P (countVerified s bs) := by
  unfold countVerified
  with_reducible repeat' (first
      | assumption | intro _ | apply k_countSheets | apply k_verifyPair | apply k_ite | apply k_ite1
      | simp -iota only [k_mk_iff] | split | refine k_of_eq (by assumption) ?_)

/-! Time.lean -/

theorem k_stepBases (s : State) (h_s : K P s) : K P (stepBases s) := by
  unfold stepBases
  with_reducible repeat' (first
      | assumption | intro _ | apply k_foldl | apply k_foldl1 | apply k_setBases | apply k_ite
      | simp -iota only [k_mk_iff] | split | refine k_of_eq (by assumption) ?_)

theorem k_stepTime (s : State) (now req who : Nat) (free : Bool) (h_s : K P s) :
    K P (stepTime s now req who free) := by
  unfold stepTime
  with_reducible repeat' (first
      | assumption | intro _ | apply k_stepBases | apply k_stepBoundary | apply k_journalOrLose | apply k_fire1
      | apply k_fire | apply k_bump | apply k_bumpBy | apply k_ite | simp -iota only [k_mk_iff] | split
      | refine k_of_eq (by assumption) ?_)

theorem k_orderTimeSet (s : State) (d : Desc) (h_s : K P s) : K P (orderTimeSet s d).s := by
  unfold orderTimeSet
  with_reducible repeat' (first
      | assumption | apply k_stepTime | simp -iota only [k_mk_iff])

theorem k_discWritten (s : State) (old new : Word) (h_s : K P s) : K P (discWritten s old new) := by
  unfold discWritten
  with_reducible repeat' (first
      | assumption | intro _ | apply k_ite | simp -iota only [k_mk_iff] | split | refine k_of_eq (by assumption) ?_)

theorem k_rateWritten (s : State) (v : Word) (h_s : K P s) : K P (rateWritten s v) := by
  unfold rateWritten
  with_reducible repeat' (first
      | assumption | intro _ | simp -iota only [k_mk_iff])

theorem k_utcWritten (s : State) (old : Word) (h_s : K P s) : K P (utcWritten s old) := by
  unfold utcWritten
  with_reducible repeat' (first
      | assumption | intro _ | apply k_ite | simp -iota only [k_mk_iff] | split | refine k_of_eq (by assumption) ?_)

theorem k_ptpSample (s : State) (offset : Int) (h_s : K P s) : K P (ptpSample s offset) := by
  unfold ptpSample
  with_reducible repeat' (first
      | assumption | intro _ | apply k_stepTime | apply k_bump | apply k_bumpBy | apply k_setReg | apply k_setRegAt
      | apply k_ite | simp -iota only [k_mk_iff] | split | refine k_of_eq (by assumption) ?_)

theorem k_ptpMessage (s : State) (n : Nat) (named complete : Bool) (offset : Int) (h_s : K P s) :
    K P (ptpMessage s n named complete offset) := by
  unfold ptpMessage
  with_reducible repeat' (first
      | assumption | apply k_ptpSample | apply k_complete | apply k_bump | apply k_bumpBy | apply k_ite
      | simp -iota only [k_mk_iff] | split | refine k_of_eq (by assumption) ?_)

theorem k_ptpHoldover (s : State) (h_s : K P s) : K P (ptpHoldover s) := by
  unfold ptpHoldover
  with_reducible repeat' (first
      | assumption | intro _ | apply k_bump | apply k_bumpBy | apply k_ite | simp -iota only [k_mk_iff] | split
      | refine k_of_eq (by assumption) ?_)

theorem k_alarmArm (s : State) (k : Nat) (h_s : K P s) : K P (alarmArm s k) := by
  unfold alarmArm
  with_reducible repeat' (first
      | assumption | intro _ | apply k_ite | simp -iota only [k_mk_iff] | split | refine k_of_eq (by assumption) ?_)

theorem k_alarmServe (s : State) (k : Nat) (h_s : K P s) : K P (alarmServe s k) := by
  unfold alarmServe
  with_reducible repeat' (first
      | assumption | intro _ | apply k_alarmWake | apply k_fire1 | apply k_fire | apply k_setFld | apply k_setReg
      | apply k_setRegAt | apply k_ite | simp -iota only [k_mk_iff] | split | refine k_of_eq (by assumption) ?_)

theorem k_ppsServe (s : State) (h_s : K P s) : K P (ppsServe s) := by
  unfold ppsServe
  with_reducible repeat' (first
      | assumption | intro _ | apply k_fire1 | apply k_fire | apply k_ite | simp -iota only [k_mk_iff] | split
      | refine k_of_eq (by assumption) ?_)

theorem k_captureServe (s : State) (k : Nat) (h_s : K P s) : K P (captureServe s k) := by
  unfold captureServe
  with_reducible repeat' (first
      | assumption | apply k_tiEnd | apply k_setReg | apply k_setRegAt | apply k_ite | simp -iota only [k_mk_iff]
      | split | refine k_of_eq (by assumption) ?_)

theorem k_tbLatch (s : State) (h_s : K P s) : K P (tbLatch s) := by
  unfold tbLatch
  with_reducible repeat' (first
      | assumption | intro _ | simp -iota only [k_mk_iff])

theorem k_orderTbClear (s : State) (h_s : K P s) : K P (orderTbClear s).s := by
  unfold orderTbClear
  with_reducible repeat' (first
      | assumption | apply k_clearRegs | simp -iota only [k_mk_iff])

/-! Uplink.lean -/

theorem k_uplBank (s : State) (n i : Nat) (h_s : K P s) : K P (uplBank s n i) := by
  unfold uplBank
  with_reducible repeat' (first
      | assumption | apply k_bankAdd | simp -iota only [k_mk_iff])

theorem k_uplSent (s : State) (n : Nat) (bs : List Byte) (h_s : K P s) : K P (uplSent s n bs) := by
  unfold uplSent
  with_reducible repeat' (first
      | assumption | intro _ | apply k_uplBank | apply k_setUpl | apply k_bump | apply k_bumpBy
      | simp -iota only [k_mk_iff])

theorem k_uplFlap (s : State) (n st : Nat) (h_s : K P s) : K P (uplFlap s n st) := by
  unfold uplFlap
  with_reducible repeat' (first
      | assumption | intro _ | apply k_setUplSt | apply k_setUpl | apply k_ite | simp -iota only [k_mk_iff] | split
      | refine k_of_eq (by assumption) ?_)

theorem k_uplLink (s : State) (n : Nat) (up an : Bool) (h_s : K P s) : K P (uplLink s n up an) := by
  unfold uplLink
  with_reducible repeat' (first
      | assumption | intro _ | apply k_uplFlap | apply k_setUplSt | apply k_setUpl | apply k_ite
      | simp -iota only [k_mk_iff] | split | refine k_of_eq (by assumption) ?_)

theorem k_uplWritten (s : State) (n : Nat) (new : Word) (h_s : K P s) : K P (uplWritten s n new) := by
  unfold uplWritten
  with_reducible repeat' (first
      | assumption | intro _ | apply k_setUplSt | apply k_setUpl | apply k_ite | simp -iota only [k_mk_iff] | split
      | refine k_of_eq (by assumption) ?_)

theorem k_uplReloaded (s : State) (n : Nat) (old : Word) (h_s : K P s) : K P (uplReloaded s n old) := by
  unfold uplReloaded
  with_reducible repeat' (first
      | assumption | apply k_uplWritten | apply k_uplFlap | apply k_ite | simp -iota only [k_mk_iff] | split
      | refine k_of_eq (by assumption) ?_)

theorem k_rxDrop (s : State) (n : Nat) (h_s : K P s) : K P (rxDrop s n) := by
  unfold rxDrop
  with_reducible repeat' (first
      | assumption | apply k_uplBank | apply k_bump | apply k_bumpBy | simp -iota only [k_mk_iff])

theorem k_rxDrainGo (m : Nat) (n : List (Nat × List Dword × Nat)) (s : State) (shut : List Nat) (h_s : K P s) :
    K P (rxDrainGo m n s shut) := by
  induction n generalizing s shut with
  | nil => unfold rxDrainGo; exact h_s
  | cons a n ih =>
    unfold rxDrainGo
    with_reducible repeat' (first
        | assumption | apply ih | apply k_setUpl | apply k_hwTry
        | apply k_ite | apply k_ite1 | apply k_ites | apply k_itee | refine k_of_eq (by assumption) ?_
        | simp -iota only [k_mk_iff] | split)

theorem k_rxDrain (s : State) (n : Nat) (h_s : K P s) : K P (rxDrain s n) := by
  unfold rxDrain
  with_reducible repeat' (first
      | assumption | intro _ | apply k_rxDrainGo | apply k_setUpl | apply k_ite | simp -iota only [k_mk_iff] | split
      | refine k_of_eq (by assumption) ?_)

theorem k_rxFile (s : State) (n i : Nat) (bs : List Byte) (h_s : K P s) : K P (rxFile s n i bs) := by
  unfold rxFile
  with_reducible repeat' (first
      | assumption | intro _ | apply k_rxDrain | apply k_rxDrop | apply k_hwTry | apply k_countWait | apply k_setUpl
      | apply k_ite | apply k_ite1 | simp -iota only [k_mk_iff] | split | refine k_of_eq (by assumption) ?_)

theorem k_crcRewind (s : State) (n : Nat) (bs : List Byte) (h_s : K P s) : K P (crcRewind s n bs) := by
  unfold crcRewind
  with_reducible repeat' (first
      | assumption | apply k_bankAdd | apply k_bump | apply k_bumpBy | apply k_ite | simp -iota only [k_mk_iff]
      | split | refine k_of_eq (by assumption) ?_)

theorem k_uplFrame (s : State) (n : Nat) (f : EthFrame) (h_s : K P s) : K P (uplFrame s n f) := by
  unfold uplFrame
  with_reducible repeat' (first
      | assumption | apply k_crcRewind | apply k_rxFile | apply k_rxDrop | apply k_uplBank | apply k_fifoPour
      | apply k_bump | apply k_bumpBy | apply k_ite | apply k_ite1 | simp -iota only [k_mk_iff] | split
      | refine k_of_eq (by assumption) ?_)

theorem k_takeWords (q : Nat) (s : State) (at_ : Nat) (x2 : List QWord) (h_s : K P s) :
    K P (takeWords q s at_ x2).1 := by
  induction x2 generalizing s at_ with
  | nil =>
    unfold takeWords
    with_reducible repeat' (first
        | assumption | apply k_popWord | apply k_addDrops | simp -iota only [k_mk_iff] | split
        | refine k_of_eq (by assumption) ?_)
  | cons a l ih =>
    unfold takeWords
    with_reducible repeat' (first
        | assumption | apply ih | apply k_popWord | apply k_addDrops | simp -iota only [k_mk_iff] | split
        | refine k_of_eq (by assumption) ?_)

theorem k_hwTake (s : State) (q : Nat) (h_s : K P s) : K P (hwTake s q).1 := by
  unfold hwTake
  with_reducible repeat' (first
      | assumption | apply k_takeWords | apply k_dropHead | apply k_readDesc | apply k_noteStarved
      | apply k_freeBlocks | apply k_bump | apply k_bumpBy | apply k_ite | apply k_ite1 | simp -iota only [k_mk_iff]
      | split | refine k_of_eq (by assumption) ?_)

theorem k_setPeer (s : State) (n p : Nat) (x : Peer) (h_s : K P s) : K P (State.setPeer s n p x) := by
  unfold State.setPeer
  with_reducible repeat' (first
      | assumption | intro _ | apply k_setUpl | simp -iota only [k_mk_iff])

theorem k_loadPeers (s : State) (n : Nat) (data : List Byte) (h_s : K P s) : K P (loadPeers s n data) := by
  unfold loadPeers
  with_reducible repeat' (first
      | assumption | intro _ | apply k_foldl | apply k_foldl1 | apply k_setPeer | simp -iota only [k_mk_iff])

theorem k_clearPeers (s : State) (n : Nat) (h_s : K P s) : K P (clearPeers s n) := by
  unfold clearPeers
  with_reducible repeat' (first
      | assumption | intro _ | apply k_foldl | apply k_foldl1 | apply k_setPeer | simp -iota only [k_mk_iff])

theorem k_handoffLog (s : State) (n : Nat) (sent : Bool) (outcome : Nat) (bs : List Byte) (h_s : K P s) :
    K P (handoffLog s n sent outcome bs) := by
  unfold handoffLog
  with_reducible repeat' (first
      | assumption | apply k_hwTry | apply k_bump | apply k_bumpBy | apply k_ite | simp -iota only [k_mk_iff]
      | split | refine k_of_eq (by assumption) ?_)

theorem k_trackWords (s : State) (n k : Nat) (h_s : K P s) : K P (trackWords s n k).1 := by
  unfold trackWords
  with_reducible repeat' (first
      | assumption | apply k_hwTake | apply k_bump | apply k_bumpBy | apply k_ite | apply k_ite1
      | simp -iota only [k_mk_iff] | split | refine k_of_eq (by assumption) ?_)

theorem k_handoffOut (s : State) (n k : Nat) (h_s : K P s) : K P (handoffOut s n k) := by
  unfold handoffOut
  with_reducible repeat' (first
      | assumption | intro _ | apply k_trackWords | apply k_handoffLog | apply k_setPeer | apply k_uplSent
      | apply k_uplBank | apply k_tiEnd | apply k_bump | apply k_bumpBy | apply k_ite | simp -iota only [k_mk_iff]
      | split | refine k_of_eq (by assumption) ?_)

theorem k_handoffDrop (s : State) (n off outcome : Nat) (bs : List Byte) (h_s : K P s) :
    K P (handoffDrop s n off outcome bs) := by
  unfold handoffDrop
  with_reducible repeat' (first
      | assumption | apply k_handoffLog | apply k_bump | apply k_bumpBy | simp -iota only [k_mk_iff])

theorem k_trackPacket (s : State) (n : Nat) (ws : List Dword) (h_s : K P s) : K P (trackPacket s n ws).1 := by
  unfold trackPacket
  with_reducible repeat' (first
      | assumption | apply k_draw | simp -iota only [k_mk_iff])

theorem k_handoffTake (s : State) (n p : Nat) (bs : List Byte) (h_s : K P s) : K P (handoffTake s n p bs) := by
  unfold handoffTake
  with_reducible repeat' (first
      | assumption | apply k_trackPacket | apply k_handoffLog | apply k_setPeer | apply k_uplBank | apply k_hwTry
      | apply k_fire | apply k_bump | apply k_bumpBy | apply k_ite | simp -iota only [k_mk_iff] | split
      | refine k_of_eq (by assumption) ?_)

theorem k_handoffRx (s : State) (n : Nat) (f : Datagram) (h_s : K P s) : K P (handoffRx s n f) := by
  unfold handoffRx
  with_reducible repeat' (first
      | assumption | apply k_handoffTake | apply k_handoffDrop | apply k_ite | simp -iota only [k_mk_iff] | split
      | refine k_of_eq (by assumption) ?_)

theorem k_ptpStamp (s : State) (bs : List Byte) (a : Nat) (h_s : K P s) : K P (ptpStamp s bs a).1 := by
  unfold ptpStamp
  with_reducible repeat' (first
      | assumption | apply k_draw | apply k_ite | apply k_ite1 | simp -iota only [k_mk_iff] | split
      | refine k_of_eq (by assumption) ?_)

theorem k_sendRaw (s : State) (n : Nat) (ws : List Dword) (h_s : K P s) : K P (sendRaw s n ws) := by
  unfold sendRaw
  with_reducible repeat' (first
      | assumption | intro _ | apply k_ptpStamp | apply k_uplSent | apply k_fire1 | apply k_fire | apply k_bump
      | apply k_bumpBy | apply k_setReg | apply k_setRegAt | apply k_ite | simp -iota only [k_mk_iff] | split
      | refine k_of_eq (by assumption) ?_)

theorem k_sendWrap (s : State) (n j q : Nat) (ws : List Dword) (h_s : K P s) : K P (sendWrap s n j q ws) := by
  unfold sendWrap
  with_reducible repeat' (first
      | assumption | intro _ | apply k_foldTo | apply k_foldTo1 | apply k_uplSent | apply k_setUpl
      | simp -iota only [k_mk_iff])

theorem k_exportSend (s : State) (n j : Nat) (h_s : K P s) : K P (exportSend s n j) := by
  unfold exportSend
  with_reducible repeat' (first
      | assumption | intro _ | apply k_sendWrap | apply k_sendRaw | apply k_hwTake | apply k_setUpl | apply k_ite
      | simp -iota only [k_mk_iff] | split | refine k_of_eq (by assumption) ?_)

theorem k_respond (s : State) (n : Nat) (data : List Byte) (h_s : K P s) : K P (respond s n data) := by
  unfold respond
  with_reducible repeat' (first
      | assumption | apply k_uplSent | simp -iota only [k_mk_iff])

theorem k_mgmtDenied (s : State) (n : Nat) (h_s : K P s) : K P (mgmtDenied s n) := by
  unfold mgmtDenied
  with_reducible repeat' (first
      | assumption | apply k_respond | apply k_bump | apply k_bumpBy | simp -iota only [k_mk_iff])

theorem k_mgmtStage (s : State) (n off : Nat) (bs : List Byte) (h_s : K P s) : K P (mgmtStage s n off bs) := by
  unfold mgmtStage
  with_reducible repeat' (first
      | assumption | intro _ | apply k_mgmtDenied | apply k_respond | apply k_bump | apply k_bumpBy
      | apply we_memWrite | apply wf_memWrite | apply k_setStagingWord | apply k0_of | apply And.intro | apply mantleWf_intro
      | apply wf_mstaging | apply wf_slotA | apply wf_slotB | apply wf_flashWrite | exact k_true (by assumption)
      | apply k_ite | simp -iota only [k_mk_iff] | simp -iota only [k_mantle_iff] | split
      | refine k_of_eq (by assumption) ?_)

theorem k_orderUplClear (s : State) (n : Nat) (h_s : K P s) : K P (orderUplClear s n).s := by
  unfold orderUplClear
  with_reducible repeat' (first
      | assumption | apply k_clearRegs | simp -iota only [k_mk_iff])

/-! Store.lean -/

theorem k_afterWrite (s : State) (b : Blk) (i : Nat) (d : RegDesc) (k : Nat) (old new : Word) (h_s : K P s) :
    K P (afterWrite s b i d k old new) := by
  unfold afterWrite
  with_reducible repeat' (first
      | assumption | apply k_uplWritten | apply k_alarmArm | apply k_utcWritten | apply k_rateWritten
      | apply k_discWritten | apply k_smpCfgWritten | apply k_govWritten | apply k_sleepJudge | apply k_sequencer
      | apply k_derateAll | apply k_limitWritten | apply k_ovrWritten | apply k_ite | simp -iota only [k_mk_iff]
      | split | refine k_of_eq (by assumption) ?_)

theorem k_clampClear (s : State) (b : Blk) (i : Nat) (h_s : K P s) : K P (clampClear s b i) := by
  unfold clampClear
  with_reducible repeat' (first
      | assumption | apply k_setReg | apply k_setRegAt | simp -iota only [k_mk_iff])

theorem k_storeReg (s : State) (b : Blk) (i : Nat) (d : RegDesc) (k role : Nat) (v : Word) (h_s : K P s) :
    K P (storeReg s b i d k role v).1 := by
  unfold storeReg
  with_reducible repeat' (first
      | assumption | apply k_clampClear | apply k_afterWrite | apply k_domOnWrite | apply k_padWrite
      | apply k_paceClear | apply k_swFire | apply k_chanSet | apply k_tselSet | apply k_pselSet | apply k_setReg
      | apply k_setRegAt | apply k_ite | apply k_ite1 | simp -iota only [k_mk_iff] | split
      | refine k_of_eq (by assumption) ?_)

/-! Commit.lean -/

theorem k_setInForce (s : State) (source : Nat) (pending : Bool) (p : Panel) (h_s : K P s) :
    K P (setInForce s source pending p) := by
  unfold setInForce
  with_reducible repeat' (first
      | assumption | intro _ | apply k_foldl | apply k_foldl1 | apply k0_of | apply And.intro | apply mantleWf_intro
      | apply wf_mstaging | apply wf_slotA | apply wf_slotB | apply we_memWrite | apply wf_memWrite | apply wf_flashWrite
      | exact k_true (by assumption) | simp -iota only [k_mk_iff] | simp -iota only [k_mantle_iff])

theorem k_countClamp (s : State) (b : Blk) (i reason off role : Nat) (clamped : Bool) (h_s : K P s) :
    K P (countClamp s b i reason off role clamped).1 := by
  unfold countClamp
  with_reducible repeat' (first
      | assumption | apply k_logClamp | apply k_ite | apply k_ite1 | simp -iota only [k_mk_iff] | split
      | refine k_of_eq (by assumption) ?_)

theorem k_takeEntries (s : State) (role : Nat) (isRights : Bool) (es : List Dword) (h_s : K P s) :
    K P (takeEntries s role isRights es).1 := by
  unfold takeEntries
  with_reducible repeat' (first
      | assumption | intro _ | apply k_foldl | apply k_foldl1 | apply k_logClamp | apply k_ite | apply k_ite1
      | simp -iota only [k_mk_iff] | split | refine k_of_eq (by assumption) ?_)

theorem k_commitRights (s : State) (p : Panel) (h_s : K P s) : K P (commitRights s p).1 := by
  unfold commitRights
  with_reducible repeat' (first
      | assumption | intro _ | apply k_takeEntries | apply k0_of | apply And.intro | apply mantleWf_intro
      | apply wf_mstaging | apply wf_slotA | apply wf_slotB | apply we_memWrite | apply wf_memWrite | apply wf_flashWrite
      | exact k_true (by assumption) | simp -iota only [k_mk_iff] | simp -iota only [k_mantle_iff])

theorem k_commitFirmware (s : State) (p : Panel) (h_s : K P s) : K P (commitFirmware s p).1 := by
  unfold commitFirmware
  with_reducible repeat' (first
      | assumption | intro _ | apply k_takeEntries | apply k0_of | apply And.intro | apply mantleWf_intro
      | apply wf_mstaging | apply wf_slotA | apply wf_slotB | apply we_memWrite | apply wf_memWrite | apply wf_flashWrite
      | exact k_true (by assumption) | simp -iota only [k_mk_iff] | simp -iota only [k_mantle_iff] | split
      | refine k_of_eq (by assumption) ?_)

theorem k_enrol (s : State) (req i : Nat) (k : KeySlot) (h_s : K P s) : K P (enrol s req i k) := by
  unfold enrol
  with_reducible repeat' (first
      | assumption | apply k_setKey | apply k_journalOrLose | apply k_ite | simp -iota only [k_mk_iff] | split
      | refine k_of_eq (by assumption) ?_)

theorem k_takeTable (s : State) (req base n : Nat) (data : List Byte) (h_s : K P s) :
    K P (takeTable s req base n data) := by
  unfold takeTable
  with_reducible repeat' (first
      | assumption | intro _ | apply k_foldTo | apply k_foldTo1 | apply k_enrol | apply k_ite
      | simp -iota only [k_mk_iff] | split | refine k_of_eq (by assumption) ?_)

theorem k_commitKeys (s : State) (req : Nat) (p : Panel) (h_s : K P s) : K P (commitKeys s req p).1 := by
  unfold commitKeys
  with_reducible repeat' (first
      | assumption | apply k_takeTable | apply k_ite | apply k_ite1 | simp -iota only [k_mk_iff] | split
      | refine k_of_eq (by assumption) ?_)

theorem k_loadDomOn (boot : Bool) (held : List Nat) (s : State) (hiHalf : Bool) (v : Word) (role : Nat) (h_s : K P s) :
    K P (loadDomOn boot held s hiHalf v role).1 := by
  unfold loadDomOn
  with_reducible repeat' (first
      | assumption | intro _ | apply k_foldl | apply k_foldl1 | apply k_domOnWrite | apply k_setReg
      | apply k_setRegAt | apply k_ite | apply k_ite1 | simp -iota only [k_mk_iff] | split
      | refine k_of_eq (by assumption) ?_)

theorem k_loadPolicyReg (boot : Bool) (held : List Nat) (role : Nat) (x : State × Bool) (b : Blk) (i : Nat) (d : RegDesc) (k : Nat) (v : Word) (h_x : K P x.1) :
    K P (loadPolicyReg boot held role x b i d k v).1 := by
  unfold loadPolicyReg
  with_reducible repeat' (first
      | assumption | apply k_loadDomOn | apply k_countClamp | apply k_afterWrite | apply k_padWrite
      | apply k_loadReg | apply k_ite | apply k_ite1 | simp -iota only [k_mk_iff] | split
      | refine k_of_eq (by assumption) ?_)

theorem k_commitPolicy (boot : Bool) (held : List Nat) (s : State) (p : Panel) (h_s : K P s) :
    K P (commitPolicy boot held s p).1 := by
  unfold commitPolicy
  with_reducible repeat' (first
      | assumption | intro _ | apply k_foldl | apply k_foldl1 | apply k_loadPolicyReg | simp -iota only [k_mk_iff])

theorem k_queueChanged (old : State) (s : State) (q : Nat) (h_old : K P old) (h_s : K P s) :
    K P (queueChanged old s q) := by
  unfold queueChanged
  with_reducible repeat' (first
      | assumption | apply k_offerAgain | apply k_bumpEpoch | apply k_flushStored | apply k_ite | apply k_ite1
      | simp -iota only [k_mk_iff] | split | refine k_of_eq (by assumption) ?_)

theorem k_commitQueueMap (s : State) (p : Panel) (h_s : K P s) : K P (commitQueueMap s p).1 := by
  unfold commitQueueMap
  with_reducible repeat' (first
      | assumption | intro _ | apply k_foldl | apply k_foldl1 | apply k_queueChanged | apply k_loadQueueMap
      | apply k_noteStarved | simp -iota only [k_mk_iff])

theorem k_clearSelectors (role : Nat) (s : State) (h_s : K P s) : K P (clearSelectors role s) := by
  unfold clearSelectors
  with_reducible repeat' (first
      | assumption | intro _ | apply k_foldTo | apply k_foldTo1 | apply k_unclaim | apply k_setReg
      | apply k_setRegAt | apply k_ite | simp -iota only [k_mk_iff] | split | refine k_of_eq (by assumption) ?_)

theorem k_loadHedgeChans (p : Panel) (x : State × Bool) (h_x : K P x.1) : K P (loadHedgeChans p x).1 := by
  unfold loadHedgeChans
  with_reducible repeat' (first
      | assumption | intro _ | apply k_foldl | apply k_foldl1 | apply k_countClamp | apply k_setReg
      | apply k_setRegAt | apply k_ite | apply k_ite1 | simp -iota only [k_mk_iff] | split
      | refine k_of_eq (by assumption) ?_)

theorem k_loadSelectors (p : Panel) (base n : Nat) (kept : State → Nat → Bool) (set : State → Nat → Word → Nat → State × Nat) (x : State × Bool) (h_set : ∀ s a0 a1 a2, K P s → K P (set s a0 a1 a2).1) (h_x : K P x.1) :
    K P (loadSelectors p base n kept set x).1 := by
  unfold loadSelectors
  with_reducible repeat' (first
      | assumption | apply h_set | intro _ | apply k_foldl | apply k_foldl1 | apply k_countClamp | apply k_ite
      | apply k_ite1 | simp -iota only [k_mk_iff] | split | refine k_of_eq (by assumption) ?_)

theorem k_commitHedge (s : State) (p : Panel) (h_s : K P s) : K P (commitHedge s p).1 := by
  unfold commitHedge
  with_reducible repeat' (first
      | assumption | intro _ | apply k_loadSelectors | apply k_loadHedgeChans | apply k_clearSelectors
      | apply k_loadBlock | apply k_tselSet | apply k_pselSet | simp -iota only [k_mk_iff])

theorem k_commitLife (s : State) (p : Panel) (h_s : K P s) : K P (commitLife s p).1 := by
  unfold commitLife
  with_reducible repeat' (first
      | assumption | intro _ | apply k_loadLife | apply k_capAll | apply k_ite | apply k_ite1
      | simp -iota only [k_mk_iff] | split | refine k_of_eq (by assumption) ?_)

theorem k_commitSampler (s : State) (p : Panel) (h_s : K P s) : K P (commitSampler s p).1 := by
  unfold commitSampler
  with_reducible repeat' (first
      | assumption | apply k_smpCfgWritten | apply k_smpClearSteps | apply k_smpFinish | apply k_loadBlock
      | simp -iota only [k_mk_iff])

theorem k_loadWithEffect (p : Panel) (b : Blk) (i : Nat) (offs : List Nat) (x : State × Bool) (h_x : K P x.1) :
    K P (loadWithEffect p b i offs x).1 := by
  unfold loadWithEffect
  with_reducible repeat' (first
      | assumption | intro _ | apply k_foldl | apply k_foldl1 | apply k_afterWrite | apply k_loadReg
      | simp -iota only [k_mk_iff])

theorem k_commitPeers (p : Panel) (offs : List Nat) (x : State × Bool) (h_x : K P x.1) :
    K P (commitPeers p offs x).1 := by
  unfold commitPeers
  with_reducible repeat' (first
      | assumption | intro _ | apply k_foldl | apply k_foldl1 | apply k_loadWithEffect | apply k_clearPeers
      | apply k_loadPeers | simp -iota only [k_mk_iff] | split | refine k_of_eq (by assumption) ?_)

theorem k_commitUplinks (s : State) (p : Panel) (h_s : K P s) : K P (commitUplinks s p).1 := by
  unfold commitUplinks
  with_reducible repeat' (first
      | assumption | intro _ | apply k_foldl | apply k_foldl1 | apply k_commitPeers | apply k_uplReloaded
      | apply k_loadUplinks | apply k_ite | apply k_ite1 | simp -iota only [k_mk_iff] | split
      | refine k_of_eq (by assumption) ?_)

theorem k_laneSwap (old s : State) (l : Nat) (h_old : K P old) (h_s : K P s) : K P (laneSwap old s l) := by
  unfold laneSwap
  with_reducible repeat' (first
      | assumption | intro _ | apply k_foldl | apply k_foldl1 | apply k_sweepStart | apply k_startNext
      | apply k_enumPump | apply k_enqueue | apply k_makeAbsent | apply k_limitWritten | apply k_touchAll
      | apply k_setLane | apply k_ite | apply k_ite1 | simp -iota only [k_mk_iff] | split
      | refine k_of_eq (by assumption) ?_)

theorem k_commitLaneSet (s : State) (p : Panel) (h_s : K P s) : K P (commitLaneSet s p).1 := by
  unfold commitLaneSet
  with_reducible repeat' (first
      | assumption | intro _ | apply k_foldl | apply k_foldl1 | apply k_laneSwap | apply k_setInForce
      | apply k_loadLaneSet | apply k_setLane | apply k_ite | apply k_ite1 | simp -iota only [k_mk_iff] | split
      | refine k_of_eq (by assumption) ?_)

theorem k_bootLaneParams (s : State) (p : Panel) (h_s : K P s) : K P (bootLaneParams s p).1 := by
  unfold bootLaneParams
  with_reducible repeat' (first
      | assumption | intro _ | apply k_foldl | apply k_foldl1 | apply k_loadBlock | simp -iota only [k_mk_iff])

theorem k_commitCalendar (s : State) (p : Panel) (h_s : K P s) : K P (commitCalendar s p).1 := by
  unfold commitCalendar
  with_reducible repeat' (first
      | assumption | intro _ | apply k_foldl | apply k_foldl1 | apply k_loadCalendar | apply k_setBases
      | simp -iota only [k_mk_iff])

theorem k_commitMeadow (s : State) (m : Nat) (h_s : K P s) : K P (commitMeadow s m).1 := by
  unfold commitMeadow
  with_reducible repeat' (first
      | assumption | apply k_meadowCfg | apply k_loadMeadow | apply k_setMeadowSt | apply k_ite | apply k_ite1
      | simp -iota only [k_mk_iff] | split | refine k_of_eq (by assumption) ?_)

theorem k_stopCores (s : State) (m mask : Nat) (h_s : K P s) : K P (stopCores s m mask) := by
  unfold stopCores
  with_reducible repeat' (first
      | assumption | intro _ | apply k_foldl | apply k_foldl1 | apply k_leaveRest | apply k_coreStop
      | simp -iota only [k_mk_iff])

theorem k_loadCores (s : State) (m mask : Nat) (h_s : K P s) : K P (loadCores s m mask) := by
  unfold loadCores
  with_reducible repeat' (first
      | assumption | intro _ | apply k_foldl | apply k_foldl1 | apply k_loadCore | apply k_setFld | apply k_setReg
      | apply k_setRegAt | simp -iota only [k_mk_iff])

theorem k_reloadCores (s : State) (m mask : Nat) (h_s : K P s) : K P (reloadCores s m mask) := by
  unfold reloadCores
  with_reducible repeat' (first
      | assumption | apply k_loadCores | apply k_stopCores | simp -iota only [k_mk_iff])

theorem k_beginPanel (s : State) (p : Panel) (h_s : K P s) : K P (beginPanel s p) := by
  unfold beginPanel
  with_reducible repeat' (first
      | assumption | intro _ | apply k_foldl | apply k_foldl1 | apply k_leaveRest | apply k_coreStop
      | apply k_setMeadowSt | apply k_clearRsvs | apply k_accrue | apply k_setLane | apply k_ite
      | simp -iota only [k_mk_iff] | split | refine k_of_eq (by assumption) ?_)

theorem k_commitPanel (req : Nat) (held : List Nat) (s : State) (p : Panel) (h_s : K P s) :
    K P (commitPanel req held s p).1 := by
  unfold commitPanel
  with_reducible repeat' (first
      | assumption | apply k_reloadCores | apply k_commitMeadow | apply k_commitCalendar | apply k_commitLaneSet
      | apply k_commitUplinks | apply k_commitSampler | apply k_commitLife | apply k_commitHedge
      | apply k_commitQueueMap | apply k_commitPolicy | apply k_commitKeys | apply k_commitFirmware
      | apply k_commitRights | apply k_ite | apply k_ite1 | simp -iota only [k_mk_iff] | split
      | refine k_of_eq (by assumption) ?_)

theorem k_bootPanel (s : State) (p : Panel) (h_s : K P s) : K P (bootPanel s p) := by
  unfold bootPanel
  with_reducible repeat' (first
      | assumption | apply k_bootLaneParams | apply k_commitPeers | apply k_commitSampler | apply k_commitLife
      | apply k_commitHedge | apply k_commitQueueMap | apply k_commitPolicy | apply k_commitKeys
      | apply k_commitRights | apply k_meadowCfg | apply k_setFld | apply k_setReg | apply k_setRegAt | apply k_ite
      | apply k_ite1 | simp -iota only [k_mk_iff] | split | refine k_of_eq (by assumption) ?_)

theorem k_raiseCounters (s : State) (ps : List Panel) (h_s : K P s) : K P (raiseCounters s ps) := by
  unfold raiseCounters
  with_reducible repeat' (first
      | assumption | intro _ | apply k_foldl | apply k_foldl1 | apply k_raiseRb | simp -iota only [k_mk_iff])

theorem k_flashTry (s : State) (h_s : K P s) : K P (flashTry s).1 := by
  unfold flashTry
  with_reducible repeat' (first
      | assumption | apply k_draw | simp -iota only [k_mk_iff])

theorem k_keepCopy (s : State) (bs : List Byte) (h_s : K P s) : K P (keepCopy s bs).1 := by
  unfold keepCopy
  with_reducible repeat' (first
      | assumption | intro _ | apply k_flashTry | apply k0_of | apply And.intro | apply mantleWf_intro
      | apply wf_mstaging | apply wf_slotA | apply wf_slotB | apply we_memWrite | apply wf_memWrite | apply wf_flashWrite
      | exact k_true (by assumption) | apply k_ite | apply k_ite1 | simp -iota only [k_mk_iff]
      | simp -iota only [k_mantle_iff] | split | refine k_of_eq (by assumption) ?_)

theorem k_orderStageCopy (s : State) (d : Desc) (h_s : K P s) : K P (orderStageCopy s d).s := by
  unfold orderStageCopy
  with_reducible repeat' (first
      | assumption | intro _ | apply k0_of | apply And.intro | apply mantleWf_intro | apply wf_mstaging
      | apply wf_slotA | apply wf_slotB | apply we_memWrite | apply wf_memWrite | apply wf_flashWrite | exact k_true (by assumption)
      | simp -iota only [k_mk_iff] | simp -iota only [k_mantle_iff])

theorem k_copyOver (s : State) (d : Desc) (h_s : K P s) : K P (copyOver s d) := by
  unfold copyOver
  with_reducible repeat' (first
      | assumption | intro _ | apply k_srcRead | apply k_complete | apply we_memWrite | apply wf_memWrite | apply k_setStagingWord
      | apply k0_of | apply And.intro | apply mantleWf_intro | apply wf_mstaging | apply wf_slotA | apply wf_slotB
      | apply wf_flashWrite | exact k_true (by assumption) | simp -iota only [k_mk_iff]
      | simp -iota only [k_mantle_iff])

theorem k_applyRead (s : State) (d : Desc) (h_s : K P s) : K P (applyRead s d).1 := by
  unfold applyRead
  with_reducible repeat' (first
      | assumption | apply k_srcRead | apply k_ite | apply k_ite1 | simp -iota only [k_mk_iff] | split
      | refine k_of_eq (by assumption) ?_)

theorem k_applyPre (s : State) (d : Desc) (h_s : K P s) : K P (applyPre s d).1 := by
  unfold applyPre
  with_reducible repeat' (first
      | assumption | intro _ | apply k_applyRead | apply k_ite | apply k_ite1 | simp -iota only [k_mk_iff] | split
      | refine k_of_eq (by assumption) ?_)

theorem k_orderApply (s : State) (d : Desc) (h_s : K P s) : K P (orderApply s d).s := by
  unfold orderApply
  with_reducible repeat' (first
      | assumption | intro _ | apply k_applyPre | apply k0_of | apply And.intro | apply mantleWf_intro
      | apply wf_mstaging | apply wf_slotA | apply wf_slotB | apply we_memWrite | apply wf_memWrite | apply wf_flashWrite
      | exact k_true (by assumption) | apply k_ite | apply k_ite1 | apply k_ites | simp -iota only [k_mk_iff]
      | simp -iota only [k_mantle_iff] | split | refine k_of_eq (by assumption) ?_)

theorem k_noteApply (s : State) (d : Desc) (code result : Nat) (h_s : K P s) : K P (noteApply s d code result) := by
  unfold noteApply
  with_reducible repeat' (first
      | assumption | intro _ | apply k_bump | apply k_bumpBy | apply k0_of | apply And.intro | apply mantleWf_intro
      | apply wf_mstaging | apply wf_slotA | apply wf_slotB | apply we_memWrite | apply wf_memWrite | apply wf_flashWrite
      | exact k_true (by assumption) | apply k_ite | simp -iota only [k_mk_iff] | simp -iota only [k_mantle_iff]
      | split | refine k_of_eq (by assumption) ?_)

theorem k_orderMantleClear (s : State) (h_s : K P s) : K P (orderMantleClear s).s := by
  unfold orderMantleClear
  with_reducible repeat' (first
      | assumption | intro _ | apply k_clearRegs | apply k0_of | apply And.intro | apply mantleWf_intro
      | apply wf_mstaging | apply wf_slotA | apply wf_slotB | apply we_memWrite | apply wf_memWrite | apply wf_flashWrite
      | exact k_true (by assumption) | simp -iota only [k_mk_iff] | simp -iota only [k_mantle_iff])

/-! Security.lean -/

theorem k_debugExpiry (s : State) (h_s : K P s) : K P (debugExpiry s) := by
  unfold debugExpiry
  with_reducible repeat' (first
      | assumption | intro _ | apply k_journalOrLose | apply k0_of | apply And.intro | apply mantleWf_intro
      | apply wf_mstaging | apply wf_slotA | apply wf_slotB | apply we_memWrite | apply wf_memWrite | apply wf_flashWrite
      | exact k_true (by assumption) | apply k_ite | simp -iota only [k_mk_iff] | simp -iota only [k_mantle_iff]
      | split | refine k_of_eq (by assumption) ?_)

theorem k_orderClaim (s : State) (d : Desc) (h_s : K P s) : K P (orderClaim s d).s := by
  unfold orderClaim
  with_reducible repeat' (first
      | assumption | intro _ | apply k_foldl | apply k_foldl1 | apply k_setKey | apply k_bump | apply k_bumpBy
      | apply k0_of | apply And.intro | apply mantleWf_intro | apply wf_mstaging | apply wf_slotA | apply wf_slotB
      | apply we_memWrite | apply wf_memWrite | apply wf_flashWrite | exact k_true (by assumption) | apply k_ite | apply k_ites
      | simp -iota only [k_mk_iff] | simp -iota only [k_mantle_iff] | split | refine k_of_eq (by assumption) ?_)

theorem k_fragCommit (n : Nat) (s : State) (h_s : K P s) : K P (fragCommit n s) := by
  induction n generalizing s with
  | zero => unfold fragCommit; first | exact h_s | (
      with_reducible repeat' (first
          | assumption | exact k_true (by assumption) | apply k_hwOffer | apply k0_of | apply And.intro
          | apply mantleWf_intro | apply wf_mstaging | apply wf_slotA | apply wf_slotB | apply k_ite | apply k_ite1
          | apply k_ites | apply k_itee | refine k_of_eq (by assumption) ?_ | simp -iota only [k_mk_iff]
          | simp -iota only [k_mantle_iff] | split))
  | succ n ih =>
    unfold fragCommit
    with_reducible repeat' (first
        | assumption | exact k_true (by assumption) | apply ih | apply k_hwOffer | apply k0_of
        | apply And.intro | apply mantleWf_intro | apply wf_mstaging | apply wf_slotA | apply wf_slotB | apply k_ite
        | apply k_ite1 | apply k_ites | apply k_itee | refine k_of_eq (by assumption) ?_ | simp -iota only [k_mk_iff]
        | simp -iota only [k_mantle_iff] | split)

theorem k_fragServe (s : State) (h_s : K P s) : K P (fragServe s) := by
  unfold fragServe
  with_reducible repeat' (first
      | assumption | intro _ | apply k_fragCommit | apply k_complete | apply k_fire1 | apply k_fire | apply k0_of
      | apply And.intro | apply mantleWf_intro | apply wf_mstaging | apply wf_slotA | apply wf_slotB
      | apply we_memWrite | apply wf_memWrite | apply wf_flashWrite | exact k_true (by assumption) | apply k_ite
      | simp -iota only [k_mk_iff] | simp -iota only [k_mantle_iff] | split | refine k_of_eq (by assumption) ?_)

theorem k_sendFragments (s : State) (op kind : Nat) (d : Desc) (bs : List Byte) (h_s : K P s) :
    K P (sendFragments s op kind d bs).s := by
  unfold sendFragments
  with_reducible repeat' (first
      | assumption | intro _ | apply k_fragServe | apply k0_of | apply And.intro | apply mantleWf_intro
      | apply wf_mstaging | apply wf_slotA | apply wf_slotB | apply we_memWrite | apply wf_memWrite | apply wf_flashWrite
      | exact k_true (by assumption) | simp -iota only [k_mk_iff] | simp -iota only [k_mantle_iff])

theorem k_orderAttest (s : State) (d : Desc) (h_s : K P s) : K P (orderAttest s d).s := by
  unfold orderAttest
  with_reducible repeat' (first
      | assumption | apply k_sendFragments | apply k_bump | apply k_bumpBy | simp -iota only [k_mk_iff])

theorem k_orderDeviceCert (s : State) (d : Desc) (h_s : K P s) : K P (orderDeviceCert s d).s := by
  unfold orderDeviceCert
  with_reducible repeat' (first
      | assumption | apply k_sendFragments | simp -iota only [k_mk_iff])

theorem k_orderChallenge (s : State) (h_s : K P s) : K P (orderChallenge s).s := by
  unfold orderChallenge
  with_reducible repeat' (first
      | assumption | intro _ | apply k_draw | apply k0_of | apply And.intro | apply mantleWf_intro
      | apply wf_mstaging | apply wf_slotA | apply wf_slotB | apply we_memWrite | apply wf_memWrite | apply wf_flashWrite
      | exact k_true (by assumption) | simp -iota only [k_mk_iff] | simp -iota only [k_mantle_iff])

theorem k_tokenSigned (s : State) (t : List Byte) (h_s : K P s) : K P (tokenSigned s t).1 := by
  unfold tokenSigned
  with_reducible repeat' (first
      | assumption | apply k_verifyPair | simp -iota only [k_mk_iff])

theorem k_tokenJudge (s : State) (t : List Byte) (h_s : K P s) : K P (tokenJudge s t).1 := by
  unfold tokenJudge
  with_reducible repeat' (first
      | assumption | apply k_tokenSigned | apply k_ite | apply k_ite1 | simp -iota only [k_mk_iff] | split
      | refine k_of_eq (by assumption) ?_)

theorem k_orderUnlock (s : State) (d : Desc) (h_s : K P s) : K P (orderUnlock s d).s := by
  unfold orderUnlock
  with_reducible repeat' (first
      | assumption | intro _ | apply k_tokenJudge | apply k_fire1 | apply k_fire | apply k_bump | apply k_bumpBy
      | apply k0_of | apply And.intro | apply mantleWf_intro | apply wf_mstaging | apply wf_slotA | apply wf_slotB
      | apply we_memWrite | apply wf_memWrite | apply wf_flashWrite | exact k_true (by assumption) | apply k_ite | apply k_ite1
      | apply k_ites | simp -iota only [k_mk_iff] | simp -iota only [k_mantle_iff] | split
      | refine k_of_eq (by assumption) ?_)

theorem k_resetLocks (s : State) (h_s : K P s) : K P (resetLocks s) := by
  unfold resetLocks
  with_reducible repeat' (first
      | assumption | apply k_journalOrLose | apply k_ite | simp -iota only [k_mk_iff] | split
      | refine k_of_eq (by assumption) ?_)

theorem k_orderLock (s : State) (h_s : K P s) : K P (orderLock s).s := by
  unfold orderLock
  with_reducible repeat' (first
      | assumption | intro _ | apply k0_of | apply And.intro | apply mantleWf_intro | apply wf_mstaging
      | apply wf_slotA | apply wf_slotB | apply we_memWrite | apply wf_memWrite | apply wf_flashWrite | exact k_true (by assumption)
      | apply k_ite | apply k_ites | simp -iota only [k_mk_iff] | simp -iota only [k_mantle_iff] | split
      | refine k_of_eq (by assumption) ?_)

theorem k_orderRevoke (s : State) (d : Desc) (h_s : K P s) : K P (orderRevoke s d).s := by
  unfold orderRevoke
  with_reducible repeat' (first
      | assumption | intro _ | apply k0_of | apply And.intro | apply mantleWf_intro | apply wf_mstaging
      | apply wf_slotA | apply wf_slotB | apply we_memWrite | apply wf_memWrite | apply wf_flashWrite | exact k_true (by assumption)
      | apply k_ite | apply k_ites | simp -iota only [k_mk_iff] | simp -iota only [k_mantle_iff] | split
      | refine k_of_eq (by assumption) ?_)

theorem k_orderRootStep (s : State) (h_s : K P s) : K P (orderRootStep s).s := by
  unfold orderRootStep
  with_reducible repeat' (first
      | assumption | intro _ | apply k0_of | apply And.intro | apply mantleWf_intro | apply wf_mstaging
      | apply wf_slotA | apply wf_slotB | apply we_memWrite | apply wf_memWrite | apply wf_flashWrite | exact k_true (by assumption)
      | apply k_ite | apply k_ites | simp -iota only [k_mk_iff] | simp -iota only [k_mantle_iff] | split
      | refine k_of_eq (by assumption) ?_)

theorem k_orderJournalRead (s : State) (d : Desc) (h_s : K P s) : K P (orderJournalRead s d).s := by
  unfold orderJournalRead
  with_reducible repeat' (first
      | assumption | intro _ | simp -iota only [k_mk_iff] | split | refine k_of_eq (by assumption) ?_)

theorem k_orderQuiesce (s : State) (h_s : K P s) : K P (orderQuiesce s).s := by
  unfold orderQuiesce
  with_reducible repeat' (first
      | assumption | apply k_fire1 | apply k_fire | simp -iota only [k_mk_iff])

theorem k_orderMakerDiag (s : State) (h_s : K P s) : K P (orderMakerDiag s).s := by
  unfold orderMakerDiag
  with_reducible repeat' (first
      | assumption | apply k_fire1 | apply k_fire | simp -iota only [k_mk_iff])

/-! Boot.lean -/

theorem k_powerOnReset (s : State) (b : Bool) (l : List TornRec) (h : K P s) : K P (powerOnReset s b l) :=
  ⟨h.pend, ⟨rfl, rfl, rfl, rfl, rfl, rfl, ⟨rfl, by simp [powerOnReset]⟩, rfl, rfl, rfl, rfl, rfl, ⟨rfl, by simp [powerOnReset]⟩,
    ⟨rfl, by simp [powerOnReset]⟩, rfl, rfl, h.canon.gpioIn, rfl, rfl, rfl, rfl, rfl,
    ⟨h.canon.mantle.1, h.canon.mantle.2.1, h.canon.mantle.2.2⟩, rfl⟩⟩

theorem all_tmap {α : Type} [DecidableEq α] {Q : α → Prop} {m : Table α} {d : α} {f : α → α} (hf : ∀ x, Q (f x)) :
    ∀ p ∈ tmap d f m, Q p.2 := by
  intro p hp
  simp only [tmap, List.mem_filterMap] at hp
  obtain ⟨a, _, e⟩ := hp
  split at e
  · cases e
  · cases e; exact hf _

theorem k_afterReset (s : State) (k : Nat) (skip : List Nat) (h : K P s) : K P (afterReset s k skip) :=
  ⟨h.pend, ⟨twf_filter _ _ _ h.canon.regs, rfl, rfl, rfl, rfl, rfl,
    ⟨twf_tmap ({} : Chan) (fun x => { gen := x.gen }) _ h.canon.chans.1, all_tmap (m := s.chans) (d := {}) (f := fun x => { gen := x.gen }) (Q := fun (x : Chan) => eccWf x.bulk x.bulkErr)
      fun _ => ⟨rfl, rfl⟩⟩, rfl,
    twf_tmap ({} : Lane) (fun x => { nodes := keepInc x.nodes }) _ h.canon.lanes, h.canon.tis, h.canon.delays, h.canon.faults,
    ⟨rfl, by simp [afterReset]⟩, ⟨rfl, by simp [afterReset]⟩,
    rfl, rfl, h.canon.gpioIn, rfl, rfl, rfl, rfl, rfl, ⟨h.canon.mantle.1, h.canon.mantle.2.1, h.canon.mantle.2.2⟩,
    twf_tmap ({} : Uplink) (fun x => { peers := x.peers }) _ h.canon.upls⟩⟩

theorem k_deviceReset (s : State) (k : Nat) (skip : List Nat) (h_s : K P s) : K P (deviceReset s k skip) := by
  unfold deviceReset
  with_reducible apply k_ite
  · simp -iota only [k_mk_iff]
    exact h_s
  · with_reducible repeat' (first
        | assumption | intro _ | apply k_afterReset | apply k_foldl | apply k_leaveShelf | apply k_resetLocks | apply k_bankDown
        | apply k_tiLost | apply k_condGone | apply k_tiEnd)

theorem k_resetRelease (s : State) (bootsel : BitVec 2) (maddr : BitVec 3) (install : Bool) (h_s : K P s) :
    K P (resetRelease s bootsel maddr install) := by
  unfold resetRelease
  with_reducible repeat' (first
      | assumption | intro _ | apply k_beginDom | apply k_ite | simp -iota only [k_mk_iff] | split
      | refine k_of_eq (by assumption) ?_)

theorem k_orderDeviceReset (s : State) (h_s : K P s) : K P (orderDeviceReset s).s := by
  unfold orderDeviceReset
  with_reducible repeat' (first
      | assumption | intro _ | simp -iota only [k_mk_iff])

theorem k_deviceResetTimer (s : State) (h_s : K P s) : K P (deviceResetTimer s) := by
  unfold deviceResetTimer
  with_reducible repeat' (first
      | assumption | intro _ | apply k_deviceReset | apply k_ite | simp -iota only [k_mk_iff] | split
      | refine k_of_eq (by assumption) ?_)

theorem k_slotFailed (s : State) (k c : Nat) (h_s : K P s) : K P (slotFailed s k c) := by
  unfold slotFailed
  with_reducible repeat' (first
      | assumption | intro _ | apply k_ite | simp -iota only [k_mk_iff] | split | refine k_of_eq (by assumption) ?_)

theorem k_pickSlot (n : List Nat) (s : State) (h_s : K P s) : K P (pickSlot s n) := by
  induction n generalizing s with
  | nil =>
    unfold pickSlot
    with_reducible repeat' (first
        | assumption | exact k_true (by assumption) | apply k0_of | apply And.intro | apply mantleWf_intro
        | apply wf_mstaging | apply wf_slotA | apply wf_slotB | apply k_ite | simp -iota only [k_mk_iff]
        | simp -iota only [k_mantle_iff])
  | cons a n ih =>
    unfold pickSlot
    with_reducible repeat' (first
        | assumption | exact k_true (by assumption) | apply ih | apply k_verifyPair | apply k_slotFailed
        | apply k_ite
        | simp -iota only [k_mk_iff])

theorem k_chooseSlot (s : State) (h_s : K P s) : K P (chooseSlot s) := by
  unfold chooseSlot
  with_reducible repeat' (first
      | assumption | intro _ | apply k_pickSlot | simp -iota only [k_mk_iff])

theorem k_romVerify (s : State) (h_s : K P s) : K P (romVerify s) := by
  unfold romVerify
  with_reducible repeat' (first
      | assumption | intro _ | apply k_foldTo | apply k_foldTo1 | apply k_chooseSlot | apply k_raiseRb
      | apply k_bump | apply k_bumpBy | apply k_ite | simp -iota only [k_mk_iff] | split
      | refine k_of_eq (by assumption) ?_)

theorem k_putEntries (s : State) (xs : List (Nat × InForce)) (h_s : K P s) : K P (putEntries s xs) := by
  unfold putEntries
  with_reducible repeat' (first
      | assumption | intro _ | apply k_foldl | apply k_foldl1 | apply k0_of | apply And.intro | apply mantleWf_intro
      | apply wf_mstaging | apply wf_slotA | apply wf_slotB | apply we_memWrite | apply wf_memWrite | apply wf_flashWrite
      | exact k_true (by assumption) | simp -iota only [k_mk_iff] | simp -iota only [k_mantle_iff])

theorem k_startSet (s : State) (ds : List Nat) (h_s : K P s) : K P (startSet s ds) := by
  unfold startSet
  with_reducible repeat' (first
      | assumption | intro _ | apply k_foldl | apply k_foldl1 | apply k_startDom | apply k_ite
      | simp -iota only [k_mk_iff] | split | refine k_of_eq (by assumption) ?_)

theorem k_unfittedOff (role : Nat) (s : State) (h_s : K P s) : K P (unfittedOff role s) := by
  unfold unfittedOff
  with_reducible repeat' (first
      | assumption | intro _ | apply k_foldl | apply k_foldl1 | apply k_setDomBit | apply k_logClamp | apply k_ite
      | simp -iota only [k_mk_iff] | split | refine k_of_eq (by assumption) ?_)

theorem k_bootStage1 (s : State) (h_s : K P s) : K P (bootStage1 s) := by
  unfold bootStage1
  with_reducible repeat' (first
      | assumption | intro _ | apply k_foldl | apply k_foldl1 | apply k_foldTo | apply k_foldTo1
      | apply k_unfittedOff | apply k_startSet | apply k_putEntries | apply k_slotFailed | apply k_raiseCounters
      | apply k_bootPanel | apply k_countSheets | apply k_setReg | apply k_setRegAt | apply k_ite | apply k_ite1
      | simp -iota only [k_mk_iff] | split | refine k_of_eq (by assumption) ?_)

theorem k_bootStage2 (s : State) (h_s : K P s) : K P (bootStage2 s) := by
  unfold bootStage2
  with_reducible repeat' (first
      | assumption | intro _ | apply k_foldl | apply k_foldl1 | apply k_startSet | apply k_putEntries
      | apply k_slotFailed | apply k_raiseCounters | apply k_bootPanel | apply k_countSheets | apply k_sequencer
      | apply k_journalOrLose | apply k_ite | apply k_ite1 | simp -iota only [k_mk_iff] | split
      | refine k_of_eq (by assumption) ?_)

theorem k_bootFallback (s : State) (h_s : K P s) : K P (bootFallback s) := by
  unfold bootFallback
  with_reducible repeat' (first
      | assumption | apply k_chooseSlot | apply k_deviceReset | apply k_ite | simp -iota only [k_mk_iff] | split
      | refine k_of_eq (by assumption) ?_)

theorem k_setSeal (s : State) (k : Nat) (b : Bool) (h_s : K P s) : K P (setSeal s k b) := by
  unfold setSeal
  with_reducible repeat' (first
      | assumption | intro _ | apply k0_of | apply And.intro | apply mantleWf_intro | apply wf_mstaging
      | apply wf_slotA | apply wf_slotB | apply we_memWrite | apply wf_memWrite | apply wf_flashWrite | exact k_true (by assumption)
      | apply k_ite | simp -iota only [k_mk_iff] | simp -iota only [k_mantle_iff] | split
      | refine k_of_eq (by assumption) ?_)

theorem k_orderSlotWrite (s : State) (d : Desc) (h_s : K P s) : K P (orderSlotWrite s d).s := by
  unfold orderSlotWrite
  with_reducible repeat' (first
      | assumption | intro _ | apply k_setSeal | apply k_flashTry | apply k0_of | apply And.intro
      | apply mantleWf_intro | apply wf_mstaging | apply wf_slotA | apply wf_slotB | apply we_memWrite | apply wf_memWrite
      | apply wf_flashWrite | exact k_true (by assumption) | apply k_ite | apply k_ite1 | apply k_ites
      | simp -iota only [k_mk_iff] | simp -iota only [k_mantle_iff] | split | refine k_of_eq (by assumption) ?_)

theorem k_orderSlotSeal (s : State) (d : Desc) (h_s : K P s) : K P (orderSlotSeal s d).s := by
  unfold orderSlotSeal
  with_reducible repeat' (first
      | assumption | intro _ | apply k_setSeal | apply k_flashTry | apply k_countVerified | apply k0_of
      | apply And.intro | apply mantleWf_intro | apply wf_mstaging | apply wf_slotA | apply wf_slotB
      | apply we_memWrite | apply wf_memWrite | apply wf_flashWrite | exact k_true (by assumption) | apply k_ite | apply k_ite1
      | apply k_ites | simp -iota only [k_mk_iff] | simp -iota only [k_mantle_iff] | split
      | refine k_of_eq (by assumption) ?_)

/-! Islands.lean -/

theorem k_islandLost (s : State) (k : Nat) (cut : Bool) (h_s : K P s) : K P (islandLost s k cut) := by
  unfold islandLost
  with_reducible repeat' (first
      | assumption | exact k_true (by assumption) | intro _ | apply k_uplFlap | apply k_bumpLane | apply k_setChan
      | apply k_bump | apply k_bumpBy | apply wf_chan | apply we_nil2 | apply wf_nil | apply we_set | apply we_flipBit | apply k_ite | simp -iota only [k_mk_iff]
      | split | refine k_of_eq (by assumption) ?_)

theorem k_seamWatchdog (s : State) (k rx tx : Nat) (h_s : K P s) : K P (seamWatchdog s k rx tx) := by
  unfold seamWatchdog
  with_reducible repeat' (first
      | assumption | apply k_islandLost | apply k_severAll | apply k_bumpSeam | apply k_condPresent
      | apply k_setFifo | apply k_bump | apply k_bumpBy | apply k_ite | apply k_ite1 | simp -iota only [k_mk_iff]
      | split | refine k_of_eq (by assumption) ?_)

theorem k_islandRelease (s : State) (k : Nat) (h_s : K P s) : K P (islandRelease s k) := by
  unfold islandRelease
  with_reducible repeat' (first
      | assumption | apply k_releaseSeam | apply k_ite | simp -iota only [k_mk_iff] | split
      | refine k_of_eq (by assumption) ?_)

theorem k_orderSeamClear (s : State) (h_s : K P s) : K P (orderSeamClear s).s := by
  unfold orderSeamClear
  with_reducible repeat' (first
      | assumption | apply k_clearRegs | simp -iota only [k_mk_iff])

/-! Orders.lean -/

theorem k_freeMeas (s : State) (b : Blk) (op : Nat) (h_s : K P s) : K P (freeMeas s b op).1 := by
  unfold freeMeas
  with_reducible repeat' (first
      | assumption | apply k_draw | apply k_ite | apply k_ite1 | simp -iota only [k_mk_iff] | split
      | refine k_of_eq (by assumption) ?_)

theorem k_orderSetPeriod (s : State) (d : Desc) (h_s : K P s) : K P (orderSetPeriod s d).s := by
  unfold orderSetPeriod
  with_reducible repeat' (first
      | assumption | apply k_setLength | apply k_ite | apply k_ites | simp -iota only [k_mk_iff] | split
      | refine k_of_eq (by assumption) ?_)

theorem k_orderRedigest (s : State) (d : Desc) (h_s : K P s) : K P (orderRedigest s d).s := by
  unfold orderRedigest
  with_reducible repeat' (first
      | assumption | apply k_redigest | apply k_ite | apply k_ite1 | apply k_ites | simp -iota only [k_mk_iff]
      | split | refine k_of_eq (by assumption) ?_)

theorem k_noEntry (s : State) (h_s : K P s) : K P (noEntry s).s := by
  unfold noEntry
  with_reducible repeat' (first
      | assumption | apply k_bump | apply k_bumpBy | simp -iota only [k_mk_iff])

theorem k_orderAckFault (s : State) (d : Desc) (h_s : K P s) : K P (orderAckFault s d).s := by
  unfold orderAckFault
  with_reducible repeat' (first
      | assumption | apply k_noEntry | apply k_ackFault | apply k_ite | apply k_ite1 | apply k_ites
      | simp -iota only [k_mk_iff] | split | refine k_of_eq (by assumption) ?_)

theorem k_orderReadFault (s : State) (d : Desc) (h_s : K P s) : K P (orderReadFault s d).s := by
  unfold orderReadFault
  with_reducible repeat' (first
      | assumption | apply k_noEntry | simp -iota only [k_mk_iff] | split | refine k_of_eq (by assumption) ?_)

theorem k_orderForceClear (s : State) (d : Desc) (h_s : K P s) : K P (orderForceClear s d).s := by
  unfold orderForceClear
  with_reducible repeat' (first
      | assumption | apply k_noEntry | apply k_freeLater | simp -iota only [k_mk_iff] | split
      | refine k_of_eq (by assumption) ?_)

theorem k_orderSnapshot (s : State) (d : Desc) (h_s : K P s) : K P (orderSnapshot s d).s := by
  unfold orderSnapshot
  with_reducible repeat' (first
      | assumption | intro _ | apply k_snapServe | simp -iota only [k_mk_iff])

theorem k_orderFltClear (s : State) (h_s : K P s) : K P (orderFltClear s).s := by
  unfold orderFltClear
  with_reducible repeat' (first
      | assumption | apply k_clearRegs | simp -iota only [k_mk_iff])

theorem k_statBody (op : Nat) (d : Desc) (s : State) (h_s : K P s) : K P (statBody op d s).s := by
  unfold statBody
  with_reducible repeat' (first
      | assumption | apply k_orderFltClear | apply k_orderSnapshot | apply k_orderForceClear
      | apply k_orderReadFault | apply k_orderAckFault | apply k_orderRedigest | apply k_orderSetPeriod
      | simp -iota only [k_mk_iff] | split | refine k_of_eq (by assumption) ?_)

theorem k_orderClearPending (s : State) (d : Desc) (h_s : K P s) : K P (orderClearPending s d).s := by
  unfold orderClearPending
  with_reducible repeat' (first
      | assumption | apply k_clearLatch | apply k_ite | apply k_ites | simp -iota only [k_mk_iff] | split
      | refine k_of_eq (by assumption) ?_)

theorem k_orderHedgeClear (s : State) (h_s : K P s) : K P (orderHedgeClear s).s := by
  unfold orderHedgeClear
  with_reducible repeat' (first
      | assumption | apply k_hedgeClear | simp -iota only [k_mk_iff])

theorem k_imageRead (s : State) (h_s : K P s) : K P (imageRead s).1 := by
  unfold imageRead
  with_reducible repeat' (first
      | assumption | apply k_draw | apply k_ite | apply k_ite1 | simp -iota only [k_mk_iff] | split
      | refine k_of_eq (by assumption) ?_)

theorem k_orderReload (s : State) (m : Nat) (d : Desc) (h_s : K P s) : K P (orderReload s m d).s := by
  unfold orderReload
  with_reducible repeat' (first
      | assumption | apply k_imageRead | apply k_loadCores | apply k_stopCores | apply k_ite | apply k_ite1
      | apply k_ites | simp -iota only [k_mk_iff] | split | refine k_of_eq (by assumption) ?_)

theorem k_orderMeadowClear (s : State) (m : Nat) (h_s : K P s) : K P (orderMeadowClear s m).s := by
  unfold orderMeadowClear
  with_reducible repeat' (first
      | assumption | apply k_clearRegs | apply k_setFld | apply k_setReg | apply k_setRegAt
      | simp -iota only [k_mk_iff])

theorem k_meadowBody (m op : Nat) (d : Desc) (s : State) (h_s : K P s) : K P (meadowBody m op d s).s := by
  unfold meadowBody
  with_reducible repeat' (first
      | assumption | apply k_orderMeadowClear | apply k_orderReload | apply k_orderMeadowStop
      | apply k_orderMeadowStart | simp -iota only [k_mk_iff] | split | refine k_of_eq (by assumption) ?_)

theorem k_orderPowerClear (s : State) (h_s : K P s) : K P (orderPowerClear s).s := by
  unfold orderPowerClear
  with_reducible repeat' (first
      | assumption | apply k_clearRegs | simp -iota only [k_mk_iff])

theorem k_orderWakeClear (s : State) (h_s : K P s) : K P (orderWakeClear s).s := by
  unfold orderWakeClear
  with_reducible repeat' (first
      | assumption | apply k_clearRegs | simp -iota only [k_mk_iff])

theorem k_heathBody (op : Nat) (d : Desc) (uv : Nat) (s : State) (h_s : K P s) : K P (heathBody op d uv s).s := by
  unfold heathBody
  with_reducible repeat' (first
      | assumption | apply k_orderWakeClear | apply k_orderPowerClear | apply k_orderTbClear | apply k_orderTimeSet
      | apply k_orderSample | apply k_orderRetryDomain | simp -iota only [k_mk_iff] | split
      | refine k_of_eq (by assumption) ?_)

theorem k_mantleBody (op : Nat) (d : Desc) (s : State) (h_s : K P s) : K P (mantleBody op d s).s := by
  unfold mantleBody
  with_reducible repeat' (first
      | assumption | apply k_orderSlotSeal | apply k_orderSlotWrite | apply k_orderMakerDiag | apply k_orderQuiesce
      | apply k_orderJournalRead | apply k_orderRootStep | apply k_orderRevoke | apply k_orderLock
      | apply k_orderUnlock | apply k_orderChallenge | apply k_orderDeviceCert | apply k_orderAttest
      | apply k_orderClaim | apply k_orderMantleClear | apply k_orderApply | apply k_orderStageCopy
      | simp -iota only [k_mk_iff] | split | refine k_of_eq (by assumption) ?_)

theorem k_orderBody (b : Blk) (i op : Nat) (d : Desc) (m : Meas) (s : State) (h_s : K P s) :
    K P (orderBody b i op d m s).s := by
  unfold orderBody
  with_reducible repeat' (first
      | assumption | apply k_mantleBody | apply k_heathBody | apply k_meadowBody | apply k_orderHedgeClear
      | apply k_orderClearPending | apply k_statBody | apply k_orderSeamClear | apply k_orderDeviceReset
      | apply k_orderUplClear | apply k_qdrBody | apply k_qengBody | apply k_lifeBody | apply k_laneBody
      | apply k_ite | apply k_ites | simp -iota only [k_mk_iff] | split | refine k_of_eq (by assumption) ?_)

theorem k_writeActs (s : State) (acts : List JAct) (h_s : K P s) : K P (writeActs s acts) := by
  unfold writeActs
  with_reducible repeat' (first
      | assumption | intro _ | apply k_foldl | apply k_foldl1 | apply k_journalOrLose | apply k_journal
      | simp -iota only [k_mk_iff] | split | refine k_of_eq (by assumption) ?_)

theorem k_orderOver (s : State) (b : Blk) (i op : Nat) (d : Desc) (code : Nat) (result : Nat := 0) (extra : List Dword := []) (h_s : K P s) :
    K P (orderOver s b i op d code result extra) := by
  unfold orderOver
  with_reducible repeat' (first
      | assumption | apply k_noteApply | apply k_complete | apply k_ite | simp -iota only [k_mk_iff] | split
      | refine k_of_eq (by assumption) ?_)

theorem k_orderEnd (r : OrderRes) (b : Blk) (i op : Nat) (d : Desc) (h_r : K P r.s) : K P (orderEnd r b i op d) := by
  unfold orderEnd
  with_reducible repeat' (first
      | assumption | apply k_orderOver | simp -iota only [k_mk_iff] | split | refine k_of_eq (by assumption) ?_)

theorem k_orderAct (s : State) (b : Blk) (i op : Nat) (d : Desc) (m : Meas) (journaled : Bool) (h_s : K P s) :
    K P (orderAct s b i op d m journaled) := by
  unfold orderAct
  with_reducible repeat' (first
      | assumption | apply k_orderEnd | apply k_writeActs | apply k_orderBody | apply k_ite
      | simp -iota only [k_mk_iff] | split | refine k_of_eq (by assumption) ?_)

theorem k_orderFrom4 (s : State) (b : Blk) (i op : Nat) (d : Desc) (m : Meas) (h_s : K P s) :
    K P (orderFrom4 s b i op d m) := by
  unfold orderFrom4
  with_reducible repeat' (first
      | assumption | intro _ | apply k_foldl | apply k_foldl1 | apply k_orderAct | apply k_orderEnd
      | apply k_orderOver | apply k_orderBody | apply k_applyPre | apply k_journalOrHold | apply k_jFlush
      | apply k_bump | apply k_bumpBy | apply k_ite | simp -iota only [k_mk_iff] | split
      | refine k_of_eq (by assumption) ?_)

theorem k_holdOrder (s : State) (b : Blk) (i op : Nat) (d : Desc) (ds : List Nat) (h_s : K P s) :
    K P (holdOrder s b i op d ds) := by
  unfold holdOrder
  with_reducible repeat' (first
      | assumption | intro _ | apply k_foldl | apply k_foldl1 | apply k_sequencer | apply k_startDom | apply k_ite
      | simp -iota only [k_mk_iff] | split | refine k_of_eq (by assumption) ?_)

theorem k_orderFrom3 (s : State) (b : Blk) (i op : Nat) (d : Desc) (m : Meas) (h_s : K P s) :
    K P (orderFrom3 s b i op d m) := by
  unfold orderFrom3
  with_reducible repeat' (first
      | assumption | apply k_holdOrder | apply k_orderFrom4 | apply k_orderOver | apply k_ite
      | simp -iota only [k_mk_iff] | split | refine k_of_eq (by assumption) ?_)

theorem k_orderFrom1 (s : State) (b : Blk) (i op : Nat) (d : Desc) (m : Meas) (h_s : K P s) :
    K P (orderFrom1 s b i op d m) := by
  unfold orderFrom1
  with_reducible repeat' (first
      | assumption | apply k_orderFrom3 | apply k_orderOver | apply k_deny | apply k_ite
      | simp -iota only [k_mk_iff] | split | refine k_of_eq (by assumption) ?_)

theorem k_orderBegin (s : State) (o : OrderRef) (m : Meas) (h_s : K P s) : K P (orderBegin s o m) := by
  unfold orderBegin
  with_reducible repeat' (first
      | assumption | intro _ | apply k_orderFrom1 | apply k0_of | apply And.intro | apply mantleWf_intro
      | apply wf_mstaging | apply wf_slotA | apply wf_slotB | apply we_memWrite | apply wf_memWrite | apply wf_flashWrite
      | exact k_true (by assumption) | apply k_ite | simp -iota only [k_mk_iff] | simp -iota only [k_mantle_iff]
      | split | refine k_of_eq (by assumption) ?_)

theorem k_submit (s : State) (b : Blk) (i op : Nat) (d : Desc) (m : Meas) (h_s : K P s) :
    K P (submit s b i op d m) := by
  unfold submit
  with_reducible repeat' (first
      | assumption | intro _ | apply k_orderBegin | apply k_ite | simp -iota only [k_mk_iff] | split
      | refine k_of_eq (by assumption) ?_)

theorem k_submitFree (s : State) (b : Blk) (i op : Nat) (d : Desc) (h_s : K P s) : K P (submitFree s b i op d) := by
  unfold submitFree
  with_reducible repeat' (first
      | assumption | apply k_submit | apply k_freeMeas | simp -iota only [k_mk_iff])

theorem k_applyOver (s : State) (d : Desc) (code result : Nat) (h_s : K P s) : K P (applyOver s d code result) := by
  unfold applyOver
  with_reducible repeat' (first
      | assumption | intro _ | apply k_foldTo | apply k_foldTo1 | apply k_noteApply | apply k_sleepJudge
      | apply k_sequencer | apply k_complete | apply k0_of | apply And.intro | apply mantleWf_intro
      | apply wf_mstaging | apply wf_slotA | apply wf_slotB | apply we_memWrite | apply wf_memWrite | apply wf_flashWrite
      | exact k_true (by assumption) | simp -iota only [k_mk_iff] | simp -iota only [k_mantle_iff])

theorem k_applyFails (s : State) (d : Desc) (code result : Nat) (h_s : K P s) : K P (applyFails s d code result) := by
  unfold applyFails
  with_reducible repeat' (first
      | assumption | apply k_applyOver | apply k_writeActs | apply k_ite | simp -iota only [k_mk_iff] | split
      | refine k_of_eq (by assumption) ?_)

theorem k_applyVerify (s : State) (j : Job) (h_s : K P s) : K P (applyVerify s j) := by
  unfold applyVerify
  with_reducible repeat' (first
      | assumption | intro _ | apply k_applyFails | apply k_applyOver | apply k_countVerified | apply k_countBudget
      | apply k0_of | apply And.intro | apply mantleWf_intro | apply wf_mstaging | apply wf_slotA | apply wf_slotB
      | apply we_memWrite | apply wf_memWrite | apply wf_flashWrite | exact k_true (by assumption) | apply k_ite
      | simp -iota only [k_mk_iff] | simp -iota only [k_mantle_iff] | split | refine k_of_eq (by assumption) ?_)

theorem k_panelNext (s : State) (j : Job) (h_s : K P s) : K P (panelNext s j) := by
  unfold panelNext
  with_reducible repeat' (first
      | assumption | intro _ | apply k_beginPanel | apply k0_of | apply And.intro | apply mantleWf_intro
      | apply wf_mstaging | apply wf_slotA | apply wf_slotB | apply we_memWrite | apply wf_memWrite | apply wf_flashWrite
      | exact k_true (by assumption) | simp -iota only [k_mk_iff] | simp -iota only [k_mantle_iff] | split
      | refine k_of_eq (by assumption) ?_)

theorem k_commitRest (s : State) (j : Job) (h_s : K P s) : K P (commitRest s j).1 := by
  unfold commitRest
  with_reducible repeat' (first
      | assumption | intro _ | apply k_foldl | apply k_foldl1 | apply k_commitPanel | apply k_beginPanel
      | simp -iota only [k_mk_iff] | split | refine k_of_eq (by assumption) ?_)

theorem k_applyKeep (s : State) (j : Job) (h_s : K P s) : K P (applyKeep s j) := by
  unfold applyKeep
  with_reducible repeat' (first
      | assumption | intro _ | apply k_foldl | apply k_foldl1 | apply k_commitRest | apply k_panelNext
      | apply k_applyFails | apply k_writeActs | apply k_keepCopy | apply k_setInForce | apply k_fire1
      | apply k_fire | apply k0_of | apply And.intro | apply mantleWf_intro | apply wf_mstaging | apply wf_slotA
      | apply wf_slotB | apply we_memWrite | apply wf_memWrite | apply wf_flashWrite | exact k_true (by assumption) | apply k_ite
      | apply k_ite1 | simp -iota only [k_mk_iff] | simp -iota only [k_mantle_iff] | split
      | refine k_of_eq (by assumption) ?_)

theorem k_applyCommit (s : State) (j : Job) (h_s : K P s) : K P (applyCommit s j) := by
  unfold applyCommit
  with_reducible repeat' (first
      | assumption | intro _ | apply k_panelNext | apply k_applyOver | apply k_raiseCounters | apply k_commitPanel
      | apply k_fire1 | apply k_fire | apply k_bankAdd | apply k_bumpBy | apply k_ite | apply k_ite1
      | simp -iota only [k_mk_iff] | split | refine k_of_eq (by assumption) ?_)

theorem k_jobEnds (s : State) (j : Job) (h_s : K P s) : K P (jobEnds s j) := by
  unfold jobEnds
  with_reducible repeat' (first
      | assumption | apply k_applyCommit | apply k_applyKeep | apply k_applyVerify | apply k_copyOver
      | simp -iota only [k_mk_iff] | split | refine k_of_eq (by assumption) ?_)

theorem k_goOn (x0 : Nat) (s : State) (x2 : Nat) (h_s : K P s) : K P (goOn x0 s x2) := by
  induction x0 generalizing s x2 with
  | zero =>
    unfold goOn
    with_reducible repeat' (first
        | assumption | apply k_jobEnds | apply k_smpConvert | apply k_upTo | apply k_ite
        | simp -iota only [k_mk_iff] | split | refine k_of_eq (by assumption) ?_)
  | succ n ih =>
    unfold goOn
    with_reducible repeat' (first
        | assumption | apply ih | apply k_jobEnds | apply k_smpConvert | apply k_upTo | apply k_ite
        | simp -iota only [k_mk_iff] | split | refine k_of_eq (by assumption) ?_)

theorem k_reach (s : State) (t : Nat) (h_s : K P s) : K P (State.reach s t) := by
  unfold State.reach
  with_reducible repeat' (first
      | assumption | apply k_goOn | apply k_upTo | simp -iota only [k_mk_iff])

theorem k_recheck (s : State) (req : Nat) (h_s : K P s) : K P (recheck s req) := by
  unfold recheck
  with_reducible repeat' (first
      | assumption | intro _ | apply k_foldl | apply k_foldl1 | apply k_orderFrom3 | apply k_freeMeas | apply k_ite
      | apply k_ite1 | simp -iota only [k_mk_iff] | split | refine k_of_eq (by assumption) ?_)

theorem k_mantleNext (s : State) (h_s : K P s) : K P (mantleNext s) := by
  unfold mantleNext
  with_reducible repeat' (first
      | assumption | intro _ | apply k_orderFrom1 | apply k0_of | apply And.intro | apply mantleWf_intro
      | apply wf_mstaging | apply wf_slotA | apply wf_slotB | apply we_memWrite | apply wf_memWrite | apply wf_flashWrite
      | exact k_true (by assumption) | apply k_ite | simp -iota only [k_mk_iff] | simp -iota only [k_mantle_iff]
      | split | refine k_of_eq (by assumption) ?_)

theorem k_turnNext (s : State) (h_s : K P s) : K P (turnNext s) := by
  unfold turnNext
  with_reducible repeat' (first
      | assumption | intro _ | apply k_orderBegin | apply k_freeMeas | simp -iota only [k_mk_iff] | split
      | refine k_of_eq (by assumption) ?_)

theorem k_markEnds (s : State) (h_s : K P s) : K P (markEnds s) := by
  unfold markEnds
  with_reducible repeat' (first
      | assumption | intro _ | apply k_foldTo | apply k_foldTo1 | apply k_tiEnd | apply k_ite
      | simp -iota only [k_mk_iff] | split | refine k_of_eq (by assumption) ?_)

theorem k_orderPump (s : State) (h_s : K P s) : K P (orderPump s) := by
  unfold orderPump
  with_reducible repeat' (first
      | assumption | intro _ | apply k_foldTo | apply k_foldTo1 | apply k_markEnds | apply k_turnNext
      | apply k_mantleNext | apply k_fragServe | simp -iota only [k_mk_iff])

theorem k_journalMark (s : State) (k : Nat) (h_s : K P s) : K P (journalMark s k) := by
  unfold journalMark
  with_reducible repeat' (first
      | assumption | apply k_submit | apply k_tiTaken | apply k_ite | simp -iota only [k_mk_iff] | split
      | refine k_of_eq (by assumption) ?_)

end Sys2Proof.Laws
end

