-- ==== Sys2Proof/Laws/KeepInstr.lean ====
section
/-! SUPPORT. What the definitions of accesses, core instructions and signed requests do keeps the queue and the canonical form. -/

set_option linter.all false

namespace Sys2Proof.Laws

open Sys2Proof.Machine

variable {P : List Instr → Prop}

/-! Access.lean -/

theorem k_readEffect (s : State) (b : Blk) (d : RegDesc) (k : Nat) (h_s : K P s) : K P (readEffect s b d k) := by
  unfold readEffect
  with_reducible repeat' (first
      | assumption | apply k_tbLatch | apply k_draw | apply k_ite | simp -iota only [k_mk_iff] | split
      | refine k_of_eq (by assumption) ?_)

theorem k_ctlRead (s : State) (addr : Nat) (h_s : K P s) : K P (ctlRead s addr).1 := by
  unfold ctlRead
  with_reducible repeat' (first
      | assumption | apply k_readEffect | apply k_bumpSeam | apply k_accrue | apply k_bump | apply k_bumpBy
      | apply k_ite | apply k_ite1 | simp -iota only [k_mk_iff] | split | refine k_of_eq (by assumption) ?_)

theorem k_setStaged (s : State) (b : Blk) (i req k : Nat) (v : Word) (h_s : K P s) :
    K P (State.setStaged s b i req k v) := by
  delta State.setStaged
  with_reducible repeat' (first
      | assumption | apply k_setStagingWord | simp -iota only [k_mk_iff])

theorem k_orderWrite (s : State) (b : Blk) (i k req : Nat) (v : Word) (h_s : K P s) :
    K P (orderWrite s b i k req v).1 := by
  unfold orderWrite
  with_reducible repeat' (first
      | assumption | apply k_setStaged | apply k_submitFree | apply k_setStagingWord | apply k_ite | apply k_ite1
      | simp -iota only [k_mk_iff] | split | refine k_of_eq (by assumption) ?_)

theorem k_noteWrite (s : State) (req : Nat) (b : Blk) (i off reason : Nat) (h_s : K P s) :
    K P (noteWrite s req b i off reason) := by
  unfold noteWrite
  with_reducible repeat' (first
      | assumption | apply k_deny | apply k_logClamp | apply k_ite | simp -iota only [k_mk_iff] | split
      | refine k_of_eq (by assumption) ?_)

theorem k_crossValue (s : State) (b : Blk) (i off : Nat) (h_s : K P s) : K P (crossValue s b i off) := by
  unfold crossValue
  with_reducible repeat' (first
      | assumption | apply k_valueWrite | apply k_ite | simp -iota only [k_mk_iff] | split
      | refine k_of_eq (by assumption) ?_)

theorem k_regWrite (s : State) (req : Nat) (b : Blk) (i : Nat) (d : RegDesc) (k : Nat) (v : Word) (h_s : K P s) :
    K P (regWrite s req b i d k v).1 := by
  unfold regWrite
  with_reducible repeat' (first
      | assumption | apply k_crossValue | apply k_noteWrite | apply k_storeReg | apply k_journal | apply k_logClamp
      | apply k_bump | apply k_bumpBy | apply k_ite | apply k_ite1 | simp -iota only [k_mk_iff] | split
      | refine k_of_eq (by assumption) ?_)

theorem k_ctlWrite (s : State) (req addr : Nat) (v : Word) (h_s : K P s) : K P (ctlWrite s req addr v).1 := by
  unfold ctlWrite
  with_reducible repeat' (first
      | assumption | apply k_regWrite | apply k_orderWrite | apply k_bumpSeam | apply k_denyWrite | apply k_bump
      | apply k_bumpBy | apply k_ite | apply k_ite1 | simp -iota only [k_mk_iff] | split
      | refine k_of_eq (by assumption) ?_)

theorem k_sramDo (s : State) (req role m : Nat) (f : State → State × MemEnds) (h_s : K P s) (h_f : ∀ s , K P s → K P (f s).1) :
    K P (sramDo s req role m f).1 := by
  unfold sramDo
  with_reducible repeat' (first
      | assumption | apply h_f | apply k_sramReach | apply k_sleepJudge | simp -iota only [k_mk_iff] | split
      | refine k_of_eq (by assumption) ?_)

theorem k_sramGet (s : State) (req m off n : Nat) (h_s : K P s) : K P (sramGet s req m off n).1 := by
  unfold sramGet
  with_reducible repeat' (first
      | assumption | apply k_sramCheck | apply k_ite | apply k_ite1 | simp -iota only [k_mk_iff] | split
      | refine k_of_eq (by assumption) ?_)

theorem k_sramPut (s : State) (req m off : Nat) (bs : List Byte) (h_s : K P s) : K P (sramPut s req m off bs).1 := by
  unfold sramPut
  with_reducible repeat' (first
      | assumption | exact k_true (by assumption) | intro _ | apply k_sramCheck | apply k_breakRsv
      | apply k_setMeadow | apply wf_meadow | apply we_memWrite | apply wf_memWrite | apply we_nil2 | apply wf_nil | apply we_set | apply we_flipBit | simp -iota only [k_mk_iff])

theorem k_sramLoad (s : State) (req role m off n : Nat) (h_s : K P s) : K P (sramLoad s req role m off n).1 := by
  unfold sramLoad
  with_reducible repeat' (first
      | assumption | intro _ | apply k_sramGet | apply k_sramDo | simp -iota only [k_mk_iff])

theorem k_sramStore (s : State) (req role m off : Nat) (bs : List Byte) (h_s : K P s) :
    K P (sramStore s req role m off bs).1 := by
  unfold sramStore
  with_reducible repeat' (first
      | assumption | intro _ | apply k_sramPut | apply k_sramDo | simp -iota only [k_mk_iff])

theorem k_bulkFault (s : State) (c : Nat) (h_s : K P s) : K P (bulkFault s c) := by
  delta bulkFault
  with_reducible repeat' (first
      | assumption | apply k_bump | apply k_bumpBy | simp -iota only [k_mk_iff])

theorem k_bulkLoad (s : State) (req off n : Nat) (h_s : K P s) : K P (bulkLoad s req off n).1 := by
  unfold bulkLoad
  with_reducible repeat' (first
      | assumption | apply k_bulkFault | apply k_bulkCheck | apply k_bump | apply k_bumpBy | apply k_ite
      | apply k_ite1 | simp -iota only [k_mk_iff] | split | refine k_of_eq (by assumption) ?_)

theorem k_bulkStore (s : State) (req off : Nat) (bs : List Byte) (h_s : K P s) : K P (bulkStore s req off bs).1 := by
  unfold bulkStore
  with_reducible repeat' (first
      | assumption | apply k_bulkFault | apply k_bulkWrite | apply k_bump | apply k_bumpBy | apply k_ite
      | apply k_ite1 | simp -iota only [k_mk_iff] | split | refine k_of_eq (by assumption) ?_)

/-! CoreRun.lean -/

theorem k_fetch (s : State) (r : Nat) (h_s : K P s) : K P (fetch s r).1 := by
  unfold fetch
  with_reducible repeat' (first
      | assumption | intro _ | apply k_foldl | apply k_foldl1 | apply k_drainFor | apply k_localCheck | apply k_ite
      | apply k_ite1 | simp -iota only [k_mk_iff] | split | refine k_of_eq (by assumption) ?_)

theorem wf_finish {c : CoreState} {w : Word} {t : Nat} {l : List (Reg × Word)} {o : Out} (h : eccWf c.sram c.sramErr) :
    eccWf (c.finish w t l o).sram (c.finish w t l o).sramErr := by
  cases o <;> unfold CoreState.finish <;> dsimp only
  all_goals repeat' (first | with_reducible assumption | with_reducible apply wf_shift | split)

theorem wg_finish {c : CoreState} {w : Word} {t : Nat} {l : List (Reg × Word)} {o : Out} (h : twf (fun _ => 0) c.g = true) :
    twf (fun _ => 0) (c.finish w t l o).g = true := by
  cases o <;> unfold CoreState.finish <;> dsimp only
  all_goals repeat' (first | with_reducible assumption | with_reducible apply wg_shift | split)

theorem k_countInstr (s : State) (r : Nat) (h_s : K P s) : K P (countInstr s r) := by
  delta countInstr
  with_reducible repeat' (first
      | assumption | apply k_bankAdd | simp -iota only [k_mk_iff])

theorem k_killFetched (s : State) (r : Nat) (h_s : K P s) : K P (killFetched s r) := by
  unfold killFetched
  with_reducible repeat' (first
      | assumption | apply k_draw | apply k_setPriv | apply k_ite | simp -iota only [k_mk_iff] | split
      | refine k_of_eq (by assumption) ?_)

theorem k_noteHang (s : State) (h : Hang) (h_s : K P s) : K P (noteHang s h) := by
  unfold noteHang
  with_reducible repeat' (first
      | assumption | intro _ | apply k_requestStands | apply k_bumpSeam | apply k_countWait | apply k_bump
      | apply k_bumpBy | apply k_ite | apply k_ite1 | simp -iota only [k_mk_iff] | split
      | refine k_of_eq (by assumption) ?_)

theorem k_applyOut (s : State) (r : Nat) (w : Word) (carry : List (Reg × Word)) (o : Out) (h_s : K P s) :
    K P (applyOut s r w carry o) := by
  unfold applyOut
  with_reducible repeat' (first
      | assumption | exact k_true (by assumption) | intro _ | apply k_foldl | apply k_foldl1 | apply k_noteHang
      | apply k_killFetched | apply k_countInstr | apply k_sleepJudge | apply k_syncTrap | apply k_takeTrap
      | apply k_carry | apply k_bankAdd | apply k_setCore | apply wf_core | apply wg_core | apply wf_shift
      | apply wg_shift | apply wf_finish | apply wg_finish | apply we_nil2 | apply wf_nil | apply we_set | apply we_flipBit | apply wg_nil | apply k_ite
      | simp -iota only [k_mk_iff] | split | refine k_of_eq (by assumption) ?_)

theorem k_mismatch (s : State) (r : Nat) (h_s : K P s) : K P (mismatch s r) := by
  unfold mismatch
  with_reducible repeat' (first
      | assumption | exact k_true (by assumption) | intro _ | apply k_foldl | apply k_foldl1 | apply k_sleepJudge
      | apply k_syncTrap | apply k_trapFault | apply k_setCore | apply k_setPriv | apply wf_core | apply wg_core
      | apply wf_flush | apply wg_flush | apply we_nil2 | apply wf_nil | apply we_set | apply we_flipBit | apply wg_nil | apply k_ite | simp -iota only [k_mk_iff]
      | split | refine k_of_eq (by assumption) ?_)

theorem k_runBody (s : State) (r : Nat) (w : Word) (body : Body) (h_s : K P s) (h_body : ∀ (Q : List Instr → Prop) s r, K Q s → K Q (body s r).s) :
    K P (runBody s r w body) := by
  unfold runBody
  with_reducible repeat' (first
      | assumption | apply h_body | exact k_true (by assumption) | apply k_mismatch | apply k_applyOut
      | apply k_carry | apply k_setCore | apply wf_core | apply wg_core | apply we_nil2 | apply wf_nil | apply we_set | apply we_flipBit | apply wg_nil | apply k_ite
      | simp -iota only [k_mk_iff] | split | refine k_of_eq (by assumption) ?_)

theorem k_runFirst (s : State) (r : Nat) (w : Word) (ok again : Bool) (body : Body) (h_s : K P s) (h_body : ∀ (Q : List Instr → Prop) s r, K Q s → K Q (body s r).s) :
    K P (runFirst s r w ok again body) := by
  unfold runFirst
  with_reducible repeat' (first
      | assumption | apply h_body | intro _ | exact k_true (by assumption) | apply k_foldl | apply k_foldl1
      | apply k_runBody | apply k_fetch | apply k_sleepJudge | apply k_syncTrap | apply k_takeTrap | apply k_setCore
      | apply wf_core | apply wg_core | apply we_nil2 | apply wf_nil | apply we_set | apply we_flipBit | apply wg_nil | apply k_ite | simp -iota only [k_mk_iff]
      | split | refine k_of_eq (by assumption) ?_)

theorem k_runInstr (s : State) (r : Nat) (w : Word) (ok again : Bool) (body : Body) (h_s : K P s) (h_body : ∀ (Q : List Instr → Prop) s r, K Q s → K Q (body s r).s) :
    K P (runInstr s r w ok again body) := by
  unfold runInstr
  with_reducible repeat' (first
      | assumption | apply h_body | intro _ | apply k_runFirst | apply k_runBody | apply k_ite
      | simp -iota only [k_mk_iff] | split | refine k_of_eq (by assumption) ?_)

theorem k_privClear (s : State) (r : Nat) (h_s : K P s) : K P (privClear s r) := by
  unfold privClear
  with_reducible repeat' (first
      | assumption | intro _ | apply k_privFilter | simp -iota only [k_mk_iff])

theorem k_privWrite (s : State) (r off : Nat) (v : Word) (h_s : K P s) : K P (privWrite s r off v) := by
  unfold privWrite
  with_reducible repeat' (first
      | assumption | apply k_privClear | apply k_ite | simp -iota only [k_mk_iff] | split
      | refine k_of_eq (by assumption) ?_)

theorem k_sramRead (s : State) (r a n : Nat) (h_s : K P s) : K P (sramRead s r a n).1 := by
  unfold sramRead
  with_reducible repeat' (first
      | assumption | apply k_fetchLost | apply k_localCheck | apply k_ite | apply k_ite1
      | simp -iota only [k_mk_iff] | split | refine k_of_eq (by assumption) ?_)

theorem k_localLoad (s : State) (r a n : Nat) (h_s : K P s) : K P (localLoad s r a n).1 := by
  unfold localLoad
  with_reducible repeat' (first
      | assumption | intro _ | apply k_sramRead | apply k_drainFor | apply k_bumpPriv | simp -iota only [k_mk_iff]
      | split | refine k_of_eq (by assumption) ?_)

theorem k_gotMem (a : Nat) (store : Bool) (x : State × MemEnds) (h_x : K P x.1) : K P (gotMem a store x).1 := by
  unfold gotMem
  with_reducible repeat' (first
      | assumption | apply k_ite | apply k_ite1 | simp -iota only [k_mk_iff] | split
      | refine k_of_eq (by assumption) ?_)

theorem k_coreLoad (s : State) (r a n : Nat) (h_s : K P s) : K P (coreLoad s r a n).1 := by
  have hc := k_ctlRead s a h_s
  unfold coreLoad
  generalize ctlRead s a = x at hc ⊢
  obtain ⟨u, e⟩ := x
  with_reducible apply k_ite1
  · exact h_s
  · generalize place r a = p
    cases p <;> dsimp only
    · exact k_localLoad _ _ _ _ h_s
    · exact k_gotMem _ _ _ (k_sramLoad _ _ _ _ _ _ h_s)
    · exact k_gotMem _ _ _ (k_bulkLoad _ _ _ _ h_s)
    · with_reducible apply k_ite1
      · exact h_s
      · cases e <;> exact hc
    · with_reducible apply k_ite1 <;> exact h_s
    · exact h_s

theorem k_sbStore (s : State) (r a : Nat) (bs : List Byte) (h_s : K P s) : K P (sbStore s r a bs) := by
  unfold sbStore
  with_reducible repeat' (first
      | assumption | exact k_true (by assumption) | intro _ | apply k_drainOne | apply k_setCore | apply k_bumpPriv
      | apply wf_core | apply wg_core | apply we_nil2 | apply wf_nil | apply we_set | apply we_flipBit | apply wg_nil | apply k_ite | simp -iota only [k_mk_iff]
      | split | refine k_of_eq (by assumption) ?_)

theorem k_storeIntoCode (s : State) (r a : Nat) (h_s : K P s) : K P (storeIntoCode s r a) := by
  unfold storeIntoCode
  with_reducible repeat' (first
      | assumption | apply k_draw | apply k_bumpPriv | apply k_setPriv | apply k_ite | simp -iota only [k_mk_iff]
      | split | refine k_of_eq (by assumption) ?_)

theorem k_coreStore (s : State) (r a : Nat) (bs : List Byte) (h_s : K P s) : K P (coreStore s r a bs).1 := by
  unfold coreStore
  with_reducible repeat' (first
      | assumption | apply k_storeIntoCode | apply k_sbStore | apply k_gotMem | apply k_privWrite
      | apply k_bulkStore | apply k_sramStore | apply k_ctlWrite | apply k_drainAll | apply k_ite | apply k_ite1
      | simp -iota only [k_mk_iff] | split | refine k_of_eq (by assumption) ?_)

theorem k_failed (s : State) (l : List Nat) (g : Got) (h_s : K P s) : K P (failed s l g).s := by
  cases g <;> exact h_s

theorem k_asyncTrap (s : State) (r cause : Nat) (tval : Word) (h_s : K P s) : K P (asyncTrap s r cause tval) := by
  unfold asyncTrap
  with_reducible repeat' (first
      | assumption | apply k_sleepJudge | apply k_takeTrap | simp -iota only [k_mk_iff] | split
      | refine k_of_eq (by assumption) ?_)

/-! IsaAlu.lean -/

theorem k_alu2 (rd ra rb : Reg) (f : Word → Word → Word) (s : State) (r : Nat) (h_s : K P s) :
    K P (alu2 rd ra rb f s r).s := by
  unfold alu2
  with_reducible repeat' (first
      | assumption | intro _ | simp -iota only [k_mk_iff])

theorem k_alu1 (rd ra : Reg) (f : Word → Word) (s : State) (r : Nat) (h_s : K P s) : K P (alu1 rd ra f s r).s := by
  unfold alu1
  with_reducible repeat' (first
      | assumption | intro _ | simp -iota only [k_mk_iff])

theorem k_execAdd (r : Nat) (rd ra rb : Reg) (s : State) (h_s : K P s) : AK P (execAdd r rd ra rb s) := by
  unfold execAdd
  with_reducible repeat' (first
      | assumption | apply ak_answer | intro _ | apply k_alu2 | apply k_runInstr | simp -iota only [k_mk_iff])

theorem k_execSub (r : Nat) (rd ra rb : Reg) (s : State) (h_s : K P s) : AK P (execSub r rd ra rb s) := by
  unfold execSub
  with_reducible repeat' (first
      | assumption | apply ak_answer | intro _ | apply k_alu2 | apply k_runInstr | simp -iota only [k_mk_iff])

theorem k_execAnd (r : Nat) (rd ra rb : Reg) (s : State) (h_s : K P s) : AK P (execAnd r rd ra rb s) := by
  unfold execAnd
  with_reducible repeat' (first
      | assumption | apply ak_answer | intro _ | apply k_alu2 | apply k_runInstr | simp -iota only [k_mk_iff])

theorem k_execOr (r : Nat) (rd ra rb : Reg) (s : State) (h_s : K P s) : AK P (execOr r rd ra rb s) := by
  unfold execOr
  with_reducible repeat' (first
      | assumption | apply ak_answer | intro _ | apply k_alu2 | apply k_runInstr | simp -iota only [k_mk_iff])

theorem k_execXor (r : Nat) (rd ra rb : Reg) (s : State) (h_s : K P s) : AK P (execXor r rd ra rb s) := by
  unfold execXor
  with_reducible repeat' (first
      | assumption | apply ak_answer | intro _ | apply k_alu2 | apply k_runInstr | simp -iota only [k_mk_iff])

theorem k_execNor (r : Nat) (rd ra rb : Reg) (s : State) (h_s : K P s) : AK P (execNor r rd ra rb s) := by
  unfold execNor
  with_reducible repeat' (first
      | assumption | apply ak_answer | intro _ | apply k_alu2 | apply k_runInstr | simp -iota only [k_mk_iff])

theorem k_execSlt (r : Nat) (rd ra rb : Reg) (s : State) (h_s : K P s) : AK P (execSlt r rd ra rb s) := by
  unfold execSlt
  with_reducible repeat' (first
      | assumption | apply ak_answer | intro _ | apply k_alu2 | apply k_runInstr | apply k_ite
      | simp -iota only [k_mk_iff] | split | refine k_of_eq (by assumption) ?_)

theorem k_execSltu (r : Nat) (rd ra rb : Reg) (s : State) (h_s : K P s) : AK P (execSltu r rd ra rb s) := by
  unfold execSltu
  with_reducible repeat' (first
      | assumption | apply ak_answer | intro _ | apply k_alu2 | apply k_runInstr | apply k_ite
      | simp -iota only [k_mk_iff] | split | refine k_of_eq (by assumption) ?_)

theorem k_execSll (r : Nat) (rd ra rb : Reg) (s : State) (h_s : K P s) : AK P (execSll r rd ra rb s) := by
  unfold execSll
  with_reducible repeat' (first
      | assumption | apply ak_answer | intro _ | apply k_alu2 | apply k_runInstr | simp -iota only [k_mk_iff])

theorem k_execSrl (r : Nat) (rd ra rb : Reg) (s : State) (h_s : K P s) : AK P (execSrl r rd ra rb s) := by
  unfold execSrl
  with_reducible repeat' (first
      | assumption | apply ak_answer | intro _ | apply k_alu2 | apply k_runInstr | simp -iota only [k_mk_iff])

theorem k_execSra (r : Nat) (rd ra rb : Reg) (s : State) (h_s : K P s) : AK P (execSra r rd ra rb s) := by
  unfold execSra
  with_reducible repeat' (first
      | assumption | apply ak_answer | intro _ | apply k_alu2 | apply k_runInstr | simp -iota only [k_mk_iff])

theorem k_execMul (r : Nat) (rd ra rb : Reg) (s : State) (h_s : K P s) : AK P (execMul r rd ra rb s) := by
  unfold execMul
  with_reducible repeat' (first
      | assumption | apply ak_answer | intro _ | apply k_alu2 | apply k_runInstr | simp -iota only [k_mk_iff])

theorem k_execMulh (r : Nat) (rd ra rb : Reg) (s : State) (h_s : K P s) : AK P (execMulh r rd ra rb s) := by
  unfold execMulh
  with_reducible repeat' (first
      | assumption | apply ak_answer | intro _ | apply k_alu2 | apply k_runInstr | simp -iota only [k_mk_iff])

theorem k_execMulhu (r : Nat) (rd ra rb : Reg) (s : State) (h_s : K P s) : AK P (execMulhu r rd ra rb s) := by
  unfold execMulhu
  with_reducible repeat' (first
      | assumption | apply ak_answer | intro _ | apply k_alu2 | apply k_runInstr | simp -iota only [k_mk_iff])

theorem k_execDiv (r : Nat) (rd ra rb : Reg) (s : State) (h_s : K P s) : AK P (execDiv r rd ra rb s) := by
  unfold execDiv
  with_reducible repeat' (first
      | assumption | apply ak_answer | intro _ | apply k_alu2 | apply k_runInstr | simp -iota only [k_mk_iff])

theorem k_execDivu (r : Nat) (rd ra rb : Reg) (s : State) (h_s : K P s) : AK P (execDivu r rd ra rb s) := by
  unfold execDivu
  with_reducible repeat' (first
      | assumption | apply ak_answer | intro _ | apply k_alu2 | apply k_runInstr | simp -iota only [k_mk_iff])

theorem k_execRem (r : Nat) (rd ra rb : Reg) (s : State) (h_s : K P s) : AK P (execRem r rd ra rb s) := by
  unfold execRem
  with_reducible repeat' (first
      | assumption | apply ak_answer | intro _ | apply k_alu2 | apply k_runInstr | simp -iota only [k_mk_iff])

theorem k_execRemu (r : Nat) (rd ra rb : Reg) (s : State) (h_s : K P s) : AK P (execRemu r rd ra rb s) := by
  unfold execRemu
  with_reducible repeat' (first
      | assumption | apply ak_answer | intro _ | apply k_alu2 | apply k_runInstr | simp -iota only [k_mk_iff])

theorem k_execMin (r : Nat) (rd ra rb : Reg) (s : State) (h_s : K P s) : AK P (execMin r rd ra rb s) := by
  unfold execMin
  with_reducible repeat' (first
      | assumption | apply ak_answer | intro _ | apply k_alu2 | apply k_runInstr | apply k_ite
      | simp -iota only [k_mk_iff] | split | refine k_of_eq (by assumption) ?_)

theorem k_execMax (r : Nat) (rd ra rb : Reg) (s : State) (h_s : K P s) : AK P (execMax r rd ra rb s) := by
  unfold execMax
  with_reducible repeat' (first
      | assumption | apply ak_answer | intro _ | apply k_alu2 | apply k_runInstr | apply k_ite
      | simp -iota only [k_mk_iff] | split | refine k_of_eq (by assumption) ?_)

theorem k_execMinu (r : Nat) (rd ra rb : Reg) (s : State) (h_s : K P s) : AK P (execMinu r rd ra rb s) := by
  unfold execMinu
  with_reducible repeat' (first
      | assumption | apply ak_answer | intro _ | apply k_alu2 | apply k_runInstr | apply k_ite
      | simp -iota only [k_mk_iff] | split | refine k_of_eq (by assumption) ?_)

theorem k_execMaxu (r : Nat) (rd ra rb : Reg) (s : State) (h_s : K P s) : AK P (execMaxu r rd ra rb s) := by
  unfold execMaxu
  with_reducible repeat' (first
      | assumption | apply ak_answer | intro _ | apply k_alu2 | apply k_runInstr | apply k_ite
      | simp -iota only [k_mk_iff] | split | refine k_of_eq (by assumption) ?_)

theorem k_execSlli (r : Nat) (rd ra : Reg) (sh : BitVec 5) (s : State) (h_s : K P s) :
    AK P (execSlli r rd ra sh s) := by
  unfold execSlli
  with_reducible repeat' (first
      | assumption | apply ak_answer | intro _ | apply k_alu1 | apply k_runInstr | simp -iota only [k_mk_iff])

theorem k_execSrli (r : Nat) (rd ra : Reg) (sh : BitVec 5) (s : State) (h_s : K P s) :
    AK P (execSrli r rd ra sh s) := by
  unfold execSrli
  with_reducible repeat' (first
      | assumption | apply ak_answer | intro _ | apply k_alu1 | apply k_runInstr | simp -iota only [k_mk_iff])

theorem k_execSrai (r : Nat) (rd ra : Reg) (sh : BitVec 5) (s : State) (h_s : K P s) :
    AK P (execSrai r rd ra sh s) := by
  unfold execSrai
  with_reducible repeat' (first
      | assumption | apply ak_answer | intro _ | apply k_alu1 | apply k_runInstr | simp -iota only [k_mk_iff])

theorem k_execClz (r : Nat) (rd ra : Reg) (s : State) (h_s : K P s) : AK P (execClz r rd ra s) := by
  unfold execClz
  with_reducible repeat' (first
      | assumption | apply ak_answer | intro _ | apply k_alu1 | apply k_runInstr | simp -iota only [k_mk_iff])

theorem k_execSextb (r : Nat) (rd ra : Reg) (s : State) (h_s : K P s) : AK P (execSextb r rd ra s) := by
  unfold execSextb
  with_reducible repeat' (first
      | assumption | apply ak_answer | intro _ | apply k_alu1 | apply k_runInstr | simp -iota only [k_mk_iff])

theorem k_execSexth (r : Nat) (rd ra : Reg) (s : State) (h_s : K P s) : AK P (execSexth r rd ra s) := by
  unfold execSexth
  with_reducible repeat' (first
      | assumption | apply ak_answer | intro _ | apply k_alu1 | apply k_runInstr | simp -iota only [k_mk_iff])

theorem k_execAddi (r : Nat) (rd ra : Reg) (imm : BitVec 16) (s : State) (h_s : K P s) :
    AK P (execAddi r rd ra imm s) := by
  unfold execAddi
  with_reducible repeat' (first
      | assumption | apply ak_answer | intro _ | apply k_alu1 | apply k_runInstr | simp -iota only [k_mk_iff])

theorem k_execAndi (r : Nat) (rd ra : Reg) (imm : BitVec 16) (s : State) (h_s : K P s) :
    AK P (execAndi r rd ra imm s) := by
  unfold execAndi
  with_reducible repeat' (first
      | assumption | apply ak_answer | intro _ | apply k_alu1 | apply k_runInstr | simp -iota only [k_mk_iff])

theorem k_execOri (r : Nat) (rd ra : Reg) (imm : BitVec 16) (s : State) (h_s : K P s) :
    AK P (execOri r rd ra imm s) := by
  unfold execOri
  with_reducible repeat' (first
      | assumption | apply ak_answer | intro _ | apply k_alu1 | apply k_runInstr | simp -iota only [k_mk_iff])

theorem k_execXori (r : Nat) (rd ra : Reg) (imm : BitVec 16) (s : State) (h_s : K P s) :
    AK P (execXori r rd ra imm s) := by
  unfold execXori
  with_reducible repeat' (first
      | assumption | apply ak_answer | intro _ | apply k_alu1 | apply k_runInstr | simp -iota only [k_mk_iff])

theorem k_execSlti (r : Nat) (rd ra : Reg) (imm : BitVec 16) (s : State) (h_s : K P s) :
    AK P (execSlti r rd ra imm s) := by
  unfold execSlti
  with_reducible repeat' (first
      | assumption | apply ak_answer | intro _ | apply k_alu1 | apply k_runInstr | apply k_ite
      | simp -iota only [k_mk_iff] | split | refine k_of_eq (by assumption) ?_)

theorem k_execSltiu (r : Nat) (rd ra : Reg) (imm : BitVec 16) (s : State) (h_s : K P s) :
    AK P (execSltiu r rd ra imm s) := by
  unfold execSltiu
  with_reducible repeat' (first
      | assumption | apply ak_answer | intro _ | apply k_alu1 | apply k_runInstr | apply k_ite
      | simp -iota only [k_mk_iff] | split | refine k_of_eq (by assumption) ?_)

theorem k_execLui (r : Nat) (rd : Reg) (imm : BitVec 16) (s : State) (h_s : K P s) : AK P (execLui r rd imm s) := by
  unfold execLui
  with_reducible repeat' (first
      | assumption | apply ak_answer | intro _ | apply k_runInstr | simp -iota only [k_mk_iff])

/-! IsaMac.lean -/

theorem wf_setAcc {c : CoreState} {b : Bool} {v : Dword} (h : eccWf c.sram c.sramErr) : eccWf (c.setAcc b v).sram (c.setAcc b v).sramErr := by
  unfold CoreState.setAcc; split <;> exact h

theorem wg_setAcc {c : CoreState} {b : Bool} {v : Dword} (h : twf (fun _ => 0) c.g = true) : twf (fun _ => 0) (c.setAcc b v).g = true := by
  unfold CoreState.setAcc; split <;> exact h

theorem k_macBody (ac : Bool) (ra rb : Reg) (f : Dword → Word → Word → Dword) (s : State) (r : Nat) (h_s : K P s) :
    K P (macBody ac ra rb f s r).s := by
  unfold macBody
  with_reducible repeat' (first
      | assumption | exact k_true (by assumption) | intro _ | apply k_setCore | apply wf_core | apply wg_core
      | apply wf_setAcc | apply wg_setAcc | apply we_nil2 | apply wf_nil | apply we_set | apply we_flipBit | apply wg_nil | simp -iota only [k_mk_iff])

theorem k_readAcc (ac : Bool) (rd : Reg) (f : Dword → Word) (s : State) (r : Nat) (h_s : K P s) :
    K P (readAcc ac rd f s r).s := by
  unfold readAcc
  with_reducible repeat' (first
      | assumption | intro _ | simp -iota only [k_mk_iff])

theorem k_macLoad (s : State) (r a : Nat) (h_s : K P s) : K P (macLoad s r a).1 := by
  unfold macLoad
  with_reducible repeat' (first
      | assumption | intro _ | apply k_coreLoad | apply k_drainAll | apply k_bumpPriv | apply k_ite | apply k_ite1
      | simp -iota only [k_mk_iff] | split | refine k_of_eq (by assumption) ?_)

theorem k_macMem (ac : Bool) (ra rb : Reg) (f : Dword → Word → Word → Dword) (s : State) (r : Nat) (h_s : K P s) :
    K P (macMem ac ra rb f s r).s := by
  unfold macMem
  dsimp only
  with_reducible repeat' (first
      | assumption | exact k_true (by assumption) | apply k_macLoad | apply k_failed | apply k_setCore
      | apply wf_setAcc | apply wg_setAcc | apply wf_core | apply wg_core | apply k_ite | simp -iota only [k_mk_iff] | split)

theorem k_execMacs (r : Nat) (ac : Bool) (ra rb : Reg) (s : State) (h_s : K P s) : AK P (execMacs r ac ra rb s) := by
  unfold execMacs
  with_reducible repeat' (first
      | assumption | apply ak_answer | intro _ | apply k_macBody | apply k_runInstr | apply k_ite
      | simp -iota only [k_mk_iff] | split | refine k_of_eq (by assumption) ?_)

theorem k_execMacu (r : Nat) (ac : Bool) (ra rb : Reg) (s : State) (h_s : K P s) : AK P (execMacu r ac ra rb s) := by
  unfold execMacu
  with_reducible repeat' (first
      | assumption | apply ak_answer | intro _ | apply k_macBody | apply k_runInstr | apply k_ite
      | simp -iota only [k_mk_iff] | split | refine k_of_eq (by assumption) ?_)

theorem k_execMsus (r : Nat) (ac : Bool) (ra rb : Reg) (s : State) (h_s : K P s) : AK P (execMsus r ac ra rb s) := by
  unfold execMsus
  with_reducible repeat' (first
      | assumption | apply ak_answer | intro _ | apply k_macBody | apply k_runInstr | apply k_ite
      | simp -iota only [k_mk_iff] | split | refine k_of_eq (by assumption) ?_)

theorem k_execMuls (r : Nat) (ac : Bool) (ra rb : Reg) (s : State) (h_s : K P s) : AK P (execMuls r ac ra rb s) := by
  unfold execMuls
  with_reducible repeat' (first
      | assumption | apply ak_answer | intro _ | apply k_macBody | apply k_runInstr | apply k_ite
      | simp -iota only [k_mk_iff] | split | refine k_of_eq (by assumption) ?_)

theorem k_execMacx (r : Nat) (ac : Bool) (ra rb : Reg) (s : State) (h_s : K P s) : AK P (execMacx r ac ra rb s) := by
  unfold execMacx
  with_reducible repeat' (first
      | assumption | apply ak_answer | intro _ | apply k_macBody | apply k_runInstr | apply k_ite
      | simp -iota only [k_mk_iff] | split | refine k_of_eq (by assumption) ?_)

theorem k_macmBody (ac : Bool) (ra rb : Reg) (s : State) (r : Nat) (h_s : K P s) : K P (macmBody ac ra rb s r).s := by
  unfold macmBody
  with_reducible repeat' (first
      | assumption | intro _ | apply k_macMem | simp -iota only [k_mk_iff])

theorem k_execMacm (r : Nat) (ac : Bool) (ra rb : Reg) (s : State) (h_s : K P s) : AK P (execMacm r ac ra rb s) := by
  unfold execMacm
  with_reducible repeat' (first
      | assumption | apply ak_answer | intro _ | apply k_macmBody | apply k_runInstr | apply k_ite
      | simp -iota only [k_mk_iff] | split | refine k_of_eq (by assumption) ?_)

theorem k_msumBody (ac : Bool) (ra rb : Reg) (s : State) (r : Nat) (h_s : K P s) : K P (msumBody ac ra rb s r).s := by
  unfold msumBody
  with_reducible repeat' (first
      | assumption | intro _ | apply k_macMem | simp -iota only [k_mk_iff])

theorem k_execMsum (r : Nat) (ac : Bool) (ra rb : Reg) (s : State) (h_s : K P s) : AK P (execMsum r ac ra rb s) := by
  unfold execMsum
  with_reducible repeat' (first
      | assumption | apply ak_answer | intro _ | apply k_msumBody | apply k_runInstr | apply k_ite
      | simp -iota only [k_mk_iff] | split | refine k_of_eq (by assumption) ?_)

theorem k_execMtac (r : Nat) (ac : Bool) (ra rb : Reg) (s : State) (h_s : K P s) : AK P (execMtac r ac ra rb s) := by
  unfold execMtac
  with_reducible repeat' (first
      | assumption | apply ak_answer | intro _ | apply k_macBody | apply k_runInstr | apply k_ite
      | simp -iota only [k_mk_iff] | split | refine k_of_eq (by assumption) ?_)

theorem k_execMfacl (r : Nat) (ac : Bool) (rd : Reg) (s : State) (h_s : K P s) : AK P (execMfacl r ac rd s) := by
  unfold execMfacl
  with_reducible repeat' (first
      | assumption | apply ak_answer | intro _ | apply k_readAcc | apply k_runInstr | apply k_ite
      | simp -iota only [k_mk_iff] | split | refine k_of_eq (by assumption) ?_)

theorem k_execMfach (r : Nat) (ac : Bool) (rd : Reg) (s : State) (h_s : K P s) : AK P (execMfach r ac rd s) := by
  unfold execMfach
  with_reducible repeat' (first
      | assumption | apply ak_answer | intro _ | apply k_readAcc | apply k_runInstr | apply k_ite
      | simp -iota only [k_mk_iff] | split | refine k_of_eq (by assumption) ?_)

theorem k_execMfacs (r : Nat) (ac : Bool) (rd : Reg) (sh : BitVec 5) (s : State) (h_s : K P s) :
    AK P (execMfacs r ac rd sh s) := by
  unfold execMfacs
  with_reducible repeat' (first
      | assumption | apply ak_answer | intro _ | apply k_readAcc | apply k_runInstr | apply k_ite
      | simp -iota only [k_mk_iff] | split | refine k_of_eq (by assumption) ?_)

theorem k_execAcclr (r : Nat) (ac : Bool) (s : State) (h_s : K P s) : AK P (execAcclr r ac s) := by
  unfold execAcclr
  with_reducible repeat' (first
      | assumption | apply ak_answer | intro _ | exact k_true (by assumption) | apply k_runInstr | apply k_setCore
      | apply wf_core | apply wg_core | apply wf_setAcc | apply wg_setAcc | apply we_nil2 | apply wf_nil | apply we_set | apply we_flipBit | apply wg_nil
      | apply k_ite | simp -iota only [k_mk_iff] | split | refine k_of_eq (by assumption) ?_)

/-! IsaMem.lean -/

theorem k_loadBody (post : Bool) (n : Nat) (ext : Word → Word) (rd ra : Reg) (imm : BitVec 16) (s : State) (r : Nat) (h_s : K P s) :
    K P (loadBody post n ext rd ra imm s r).s := by
  unfold loadBody
  with_reducible repeat' (first
      | assumption | intro _ | apply k_failed | apply k_coreLoad | apply k_carry | apply k_ite | apply k_ite1
      | apply k_itee | simp -iota only [k_mk_iff] | split | refine k_of_eq (by assumption) ?_)

theorem k_storeBody (post : Bool) (n : Nat) (rs ra : Reg) (imm : BitVec 16) (s : State) (r : Nat) (h_s : K P s) :
    K P (storeBody post n rs ra imm s r).s := by
  unfold storeBody
  with_reducible repeat' (first
      | assumption | intro _ | apply k_failed | apply k_coreStore | apply k_carry | apply k_ite | apply k_ite1
      | apply k_itee | simp -iota only [k_mk_iff] | split | refine k_of_eq (by assumption) ?_)

theorem k_localPut (s : State) (r a : Nat) (bs : List Byte) (h_s : K P s) : K P (localPut s r a bs) := by
  unfold localPut
  with_reducible repeat' (first
      | assumption | exact k_true (by assumption) | intro _ | apply k_localCheck | apply k_setCore | apply wf_core
      | apply wg_core | apply we_memWrite | apply wf_memWrite | apply we_nil2 | apply wf_nil | apply we_set | apply we_flipBit | apply wg_nil | simp -iota only [k_mk_iff])

theorem k_atomicRead (ra : Reg) (f : State → Nat → AtPlace → Word → State) (rd : Reg) (kind : Nat) (s : State) (r : Nat) (h_s : K P s)
    (hf : ∀ s r p w, K P s → K P (f s r p w)) : K P (atomicRead ra f rd kind s r).s := by
  have hd := k_drainAll s r h_s
  unfold atomicRead
  dsimp only
  generalize drainAll s r = d at hd ⊢
  generalize hg : (if ((s.core r).greg ra).toNat % 4 ≠ 0 then (d, Got.trap 4 ((s.core r).greg ra).toNat) else _) = g
  have hgot : K P g.1 := by
    subst hg
    with_reducible apply k_ite1
    · exact hd
    · generalize atPlace r ((s.core r).greg ra).toNat = p
      rcases p with _ | (a | ⟨m, off⟩) <;> dsimp only
      · exact hd
      · have hs := k_sramRead d r a 4 hd
        generalize sramRead d r a 4 = x at hs ⊢
        obtain ⟨u, e⟩ := x
        cases e <;> first | exact hs | exact hf _ _ _ _ hs
      · refine k_gotMem _ _ _ (k_sramDo _ _ _ _ _ hd fun u hu => ?_)
        have hs := k_sramGet u r m off 4 hu
        generalize sramGet u r m off 4 = x at hs ⊢
        obtain ⟨u, e⟩ := x
        cases e <;> first | exact hs | exact hf _ _ _ _ hs
  obtain ⟨u, e⟩ := g
  cases e <;> exact hgot

theorem k_tasPut (s : State) (r : Nat) (p : AtPlace) (x_ : Word) (h_s : K P s) : K P (tasPut s r p x_) := by
  unfold tasPut
  with_reducible repeat' (first
      | assumption | apply k_localPut | apply k_sramPut | simp -iota only [k_mk_iff] | split
      | refine k_of_eq (by assumption) ?_)

theorem k_reserve (s : State) (r : Nat) (p : AtPlace) (x_ : Word) (h_s : K P s) : K P (reserve s r p x_) := by
  unfold reserve
  with_reducible repeat' (first
      | assumption | exact k_true (by assumption) | intro _ | apply k_dropRsv | apply k_setMeadow | apply k_setCore
      | apply k_bump | apply k_bumpBy | apply wf_meadow | apply wf_core | apply wg_core | apply we_nil2 | apply wf_nil | apply we_set | apply we_flipBit
      | apply wg_nil | apply k_ite | simp -iota only [k_mk_iff] | split | refine k_of_eq (by assumption) ?_)

theorem k_tasBody (rd ra : Reg) (s : State) (r : Nat) (h_s : K P s) : K P (tasBody rd ra s r).s := by
  unfold tasBody
  with_reducible repeat' (first
      | assumption | intro _ | apply k_tasPut | apply k_atomicRead | simp -iota only [k_mk_iff])

theorem k_lrBody (rd ra : Reg) (s : State) (r : Nat) (h_s : K P s) : K P (lrBody rd ra s r).s := by
  unfold lrBody
  with_reducible repeat' (first
      | assumption | intro _ | apply k_reserve | apply k_atomicRead | simp -iota only [k_mk_iff])

theorem k_scBody (rd ra rb : Reg) (s : State) (r : Nat) (h_s : K P s) : K P (scBody rd ra rb s r).s := by
  unfold scBody
  with_reducible repeat' (first
      | assumption | intro _ | apply k_localPut | apply k_failed | apply k_gotMem | apply k_sramPut | apply k_sramDo
      | apply k_dropRsv | apply k_drainAll | apply k_bumpPriv | apply k_ite | apply k_ite1 | apply k_itee
      | simp -iota only [k_mk_iff] | split | refine k_of_eq (by assumption) ?_)

theorem k_execTas (r : Nat) (rd ra : Reg) (s : State) (h_s : K P s) : AK P (execTas r rd ra s) := by
  unfold execTas
  with_reducible repeat' (first
      | assumption | apply ak_answer | intro _ | apply k_tasBody | apply k_runInstr | simp -iota only [k_mk_iff])

theorem k_execLrW (r : Nat) (rd ra : Reg) (s : State) (h_s : K P s) : AK P (execLrW r rd ra s) := by
  unfold execLrW
  with_reducible repeat' (first
      | assumption | apply ak_answer | intro _ | apply k_lrBody | apply k_runInstr | simp -iota only [k_mk_iff])

theorem k_execScW (r : Nat) (rd ra rb : Reg) (s : State) (h_s : K P s) : AK P (execScW r rd ra rb s) := by
  unfold execScW
  with_reducible repeat' (first
      | assumption | apply ak_answer | intro _ | apply k_scBody | apply k_runInstr | simp -iota only [k_mk_iff])

/-! IsaFlow.lean -/

theorem k_branchBody (ra rb : Reg) (off : BitVec 16) (taken : Word → Word → Bool) (s : State) (r : Nat) (h_s : K P s) :
    K P (branchBody ra rb off taken s r).s := by
  unfold branchBody
  with_reducible repeat' (first
      | assumption | intro _ | apply k_ite | apply k_itee | simp -iota only [k_mk_iff] | split
      | refine k_of_eq (by assumption) ?_)

theorem k_execBeq (r : Nat) (ra rb : Reg) (off : BitVec 16) (s : State) (h_s : K P s) :
    AK P (execBeq r ra rb off s) := by
  unfold execBeq
  with_reducible repeat' (first
      | assumption | apply ak_answer | intro _ | apply k_branchBody | apply k_runInstr | simp -iota only [k_mk_iff])

theorem k_execBne (r : Nat) (ra rb : Reg) (off : BitVec 16) (s : State) (h_s : K P s) :
    AK P (execBne r ra rb off s) := by
  unfold execBne
  with_reducible repeat' (first
      | assumption | apply ak_answer | intro _ | apply k_branchBody | apply k_runInstr | simp -iota only [k_mk_iff])

theorem k_execBlt (r : Nat) (ra rb : Reg) (off : BitVec 16) (s : State) (h_s : K P s) :
    AK P (execBlt r ra rb off s) := by
  unfold execBlt
  with_reducible repeat' (first
      | assumption | apply ak_answer | intro _ | apply k_branchBody | apply k_runInstr | simp -iota only [k_mk_iff])

theorem k_execBge (r : Nat) (ra rb : Reg) (off : BitVec 16) (s : State) (h_s : K P s) :
    AK P (execBge r ra rb off s) := by
  unfold execBge
  with_reducible repeat' (first
      | assumption | apply ak_answer | intro _ | apply k_branchBody | apply k_runInstr | simp -iota only [k_mk_iff])

theorem k_execBltu (r : Nat) (ra rb : Reg) (off : BitVec 16) (s : State) (h_s : K P s) :
    AK P (execBltu r ra rb off s) := by
  unfold execBltu
  with_reducible repeat' (first
      | assumption | apply ak_answer | intro _ | apply k_branchBody | apply k_runInstr | simp -iota only [k_mk_iff])

theorem k_execBgeu (r : Nat) (ra rb : Reg) (off : BitVec 16) (s : State) (h_s : K P s) :
    AK P (execBgeu r ra rb off s) := by
  unfold execBgeu
  with_reducible repeat' (first
      | assumption | apply ak_answer | intro _ | apply k_branchBody | apply k_runInstr | simp -iota only [k_mk_iff])

theorem k_execJ (r : Nat) (off : BitVec 26) (s : State) (h_s : K P s) : AK P (execJ r off s) := by
  unfold execJ
  with_reducible repeat' (first
      | assumption | apply ak_answer | intro _ | apply k_runInstr | simp -iota only [k_mk_iff])

theorem k_execJal (r : Nat) (off : BitVec 26) (s : State) (h_s : K P s) : AK P (execJal r off s) := by
  unfold execJal
  with_reducible repeat' (first
      | assumption | apply ak_answer | intro _ | apply k_runInstr | simp -iota only [k_mk_iff])

theorem k_jumpReg (ra : Reg) (link : Word → List RegWrite) (s : State) (r : Nat) (h_s : K P s) :
    K P (jumpReg ra link s r).s := by
  unfold jumpReg
  with_reducible repeat' (first
      | assumption | intro _ | apply k_ite | apply k_itee | simp -iota only [k_mk_iff] | split
      | refine k_of_eq (by assumption) ?_)

theorem k_execJr (r : Nat) (ra : Reg) (s : State) (h_s : K P s) : AK P (execJr r ra s) := by
  unfold execJr
  with_reducible repeat' (first
      | assumption | apply ak_answer | intro _ | apply k_jumpReg | apply k_runInstr | simp -iota only [k_mk_iff])

theorem k_execJalr (r : Nat) (rd ra : Reg) (s : State) (h_s : K P s) : AK P (execJalr r rd ra s) := by
  unfold execJalr
  with_reducible repeat' (first
      | assumption | apply ak_answer | intro _ | apply k_jumpReg | apply k_runInstr | simp -iota only [k_mk_iff])

theorem k_storeSlots (r : Nat) (n : List (Nat × Word × Word)) (s : State) (h_s : K P s) : K P (storeSlots r n s).1 := by
  induction n generalizing s with
  | nil => unfold storeSlots; exact h_s
  | cons a n ih =>
    unfold storeSlots
    with_reducible repeat' (first
        | assumption | apply ih | apply k_coreStore | apply k_ite | simp -iota only [k_mk_iff]
        | split)

theorem k_loadSlots (r : Nat) (n : List Nat) (s : State) (h_s : K P s) : K P (loadSlots r n s).1 := by
  induction n generalizing s with
  | nil => unfold loadSlots; exact h_s
  | cons a n ih =>
    unfold loadSlots
    with_reducible repeat' (first
        | assumption | apply ih | apply k_coreLoad | apply k_ite | simp -iota only [k_mk_iff]
        | split)

theorem k_callBody (mask : BitVec 8) (off : BitVec 18) (s : State) (r : Nat) (h_s : K P s) :
    K P (callBody mask off s r).s := by
  unfold callBody
  with_reducible repeat' (first
      | assumption | intro _ | apply k_storeSlots | apply k_failed | apply k_ite | apply k_ite1 | apply k_itee
      | simp -iota only [k_mk_iff] | split | refine k_of_eq (by assumption) ?_)

theorem k_retBody (mask : BitVec 8) (s : State) (r : Nat) (h_s : K P s) : K P (retBody mask s r).s := by
  unfold retBody
  with_reducible repeat' (first
      | assumption | intro _ | apply k_loadSlots | apply k_failed | apply k_ite | apply k_ite1 | apply k_itee
      | simp -iota only [k_mk_iff] | split | refine k_of_eq (by assumption) ?_)

theorem k_execCall (r : Nat) (mask : BitVec 8) (off : BitVec 18) (s : State) (h_s : K P s) :
    AK P (execCall r mask off s) := by
  unfold execCall
  with_reducible repeat' (first
      | assumption | apply ak_answer | intro _ | apply k_callBody | apply k_runInstr | simp -iota only [k_mk_iff])

theorem k_execRet (r : Nat) (mask : BitVec 8) (s : State) (h_s : K P s) : AK P (execRet r mask s) := by
  unfold execRet
  with_reducible repeat' (first
      | assumption | apply ak_answer | intro _ | apply k_retBody | apply k_runInstr | simp -iota only [k_mk_iff])

/-! IsaQueue.lean -/

theorem k_qselBody (ra : Reg) (s : State) (r : Nat) (h_s : K P s) : K P (qselBody ra s r).s := by
  unfold qselBody
  with_reducible repeat' (first
      | assumption | intro _ | apply k_qSelect | simp -iota only [k_mk_iff])

theorem k_qputBody (ra : Reg) (s : State) (r : Nat) (h_s : K P s) : K P (qputBody ra s r).s := by
  unfold qputBody
  with_reducible repeat' (first
      | assumption | intro _ | refine k_qPush _ _ _ _ ?_ _ (by assumption) | refine k_getD (k_qPush _ _ _ _ ?_) ?_
      | simp -iota only [k_mk_iff] | split | refine k_of_eq (by assumption) ?_)

theorem k_qendBody (rd : Reg) (s : State) (r : Nat) (h_s : K P s) : K P (qendBody rd s r).s := by
  unfold qendBody
  with_reducible repeat' (first
      | assumption | intro _ | apply k_qEnd | simp -iota only [k_mk_iff])

theorem k_qrwdBody (s : State) (r : Nat) (h_s : K P s) : K P (qrwdBody s r).s := by
  unfold qrwdBody
  with_reducible repeat' (first
      | assumption | intro _ | apply k_qRewind | simp -iota only [k_mk_iff])

theorem k_qgetBody (rd : Reg) (s : State) (r : Nat) (h_s : K P s) : K P (qgetBody rd s r).s := by
  unfold qgetBody
  with_reducible repeat' (first
      | assumption | intro _ | apply k_qGet | apply k_ite | apply k_ite1 | apply k_itee | simp -iota only [k_mk_iff]
      | split | refine k_of_eq (by assumption) ?_)

theorem k_qcntBody (rd : Reg) (kind : Nat) (f : State → Nat → Nat) (s : State) (r : Nat) (h_s : K P s) :
    K P (qcntBody rd kind f s r).s := h_s

theorem k_qflBody (s : State) (r : Nat) (h_s : K P s) : K P (qflBody s r).s := by
  unfold qflBody
  with_reducible repeat' (first
      | assumption | intro _ | apply k_qFlush | apply k_rewindOpen | apply k_bump | apply k_bumpBy | apply wf_flush
      | apply wg_flush | apply k_ite | apply k_ite1 | apply k_itee | simp -iota only [k_mk_iff] | split
      | refine k_of_eq (by assumption) ?_)

theorem k_execQcnt (r : Nat) (rd : Reg) (s : State) (h_s : K P s) : AK P (execQcnt r rd s) := by
  unfold execQcnt
  with_reducible repeat' (first
      | assumption | apply ak_answer | intro _ | apply k_qcntBody | apply k_runInstr | simp -iota only [k_mk_iff])

theorem k_execQcntw (r : Nat) (rd : Reg) (s : State) (h_s : K P s) : AK P (execQcntw r rd s) := by
  unfold execQcntw
  with_reducible repeat' (first
      | assumption | apply ak_answer | intro _ | apply k_qcntBody | apply k_runInstr | simp -iota only [k_mk_iff])

/-! IsaSys.lean -/

theorem k_waitBody (s : State) (r : Nat) (h_s : K P s) : K P (waitBody s r).s := by
  unfold waitBody
  with_reducible repeat' (first
      | assumption | exact k_true (by assumption) | intro _ | apply k_dropRsv | apply k_drainAll | apply k_setCore
      | apply wf_core | apply wg_core | apply we_nil2 | apply wf_nil | apply we_set | apply we_flipBit | apply wg_nil | apply k_ite | apply k_itee
      | simp -iota only [k_mk_iff] | split | refine k_of_eq (by assumption) ?_)

theorem k_rettBody (s : State) (r : Nat) (h_s : K P s) : K P (rettBody s r).s := by
  unfold rettBody
  with_reducible repeat' (first
      | assumption | intro _ | simp -iota only [k_mk_iff])

theorem k_mtsrBody (sr : BitVec 5) (ra : Reg) (s : State) (r : Nat) (h_s : K P s) : K P (mtsrBody sr ra s r).s := by
  unfold mtsrBody
  with_reducible repeat' (first
      | assumption | intro _ | apply k_qselBody | apply k_ite | apply k_itee | simp -iota only [k_mk_iff] | split
      | refine k_of_eq (by assumption) ?_)

theorem k_evackBody (j : BitVec 2) (s : State) (r : Nat) (h_s : K P s) : K P (evackBody j s r).s := by
  unfold evackBody
  with_reducible repeat' (first
      | assumption | intro _ | apply k_tiEnd | apply k_ite | apply k_itee | simp -iota only [k_mk_iff] | split
      | refine k_of_eq (by assumption) ?_)

theorem k_repBody (m : Bool) (ra : Reg) (cnt : BitVec 10) (s : State) (r : Nat) (h_s : K P s) :
    K P (repBody m ra cnt s r).s := by
  unfold repBody
  with_reducible repeat' (first
      | assumption | intro _ | apply k_ite | apply k_itee | simp -iota only [k_mk_iff] | split
      | refine k_of_eq (by assumption) ?_)

theorem k_execNop (r : Nat) (s : State) (h_s : K P s) : AK P (execNop r s) := by
  unfold execNop
  with_reducible repeat' (first
      | assumption | apply ak_answer | intro _ | apply k_runInstr | simp -iota only [k_mk_iff])

theorem k_execWait (r : Nat) (s : State) (h_s : K P s) : AK P (execWait r s) := by
  unfold execWait
  with_reducible repeat' (first
      | assumption | apply ak_answer | intro _ | apply k_waitBody | apply k_runInstr | simp -iota only [k_mk_iff])

theorem k_execSvc (r : Nat) (code : BitVec 10) (s : State) (h_s : K P s) : AK P (execSvc r code s) := by
  unfold execSvc
  with_reducible repeat' (first
      | assumption | apply ak_answer | intro _ | apply k_runInstr | simp -iota only [k_mk_iff])

theorem k_execBrk (r : Nat) (code : BitVec 10) (s : State) (h_s : K P s) : AK P (execBrk r code s) := by
  unfold execBrk
  with_reducible repeat' (first
      | assumption | apply ak_answer | intro _ | apply k_runInstr | simp -iota only [k_mk_iff])

theorem k_execRett (r : Nat) (s : State) (h_s : K P s) : AK P (execRett r s) := by
  unfold execRett
  with_reducible repeat' (first
      | assumption | apply ak_answer | intro _ | apply k_rettBody | apply k_runInstr | simp -iota only [k_mk_iff])

theorem k_execMfsr (r : Nat) (rd : Reg) (sr : BitVec 5) (s : State) (h_s : K P s) : AK P (execMfsr r rd sr s) := by
  unfold execMfsr
  with_reducible repeat' (first
      | assumption | apply ak_answer | intro _ | apply k_runInstr | simp -iota only [k_mk_iff])

theorem k_execMtsr (r : Nat) (sr : BitVec 5) (ra : Reg) (s : State) (h_s : K P s) : AK P (execMtsr r sr ra s) := by
  unfold execMtsr
  with_reducible repeat' (first
      | assumption | apply ak_answer | intro _ | apply k_mtsrBody | apply k_runInstr | simp -iota only [k_mk_iff])

theorem k_execSync (r : Nat) (s : State) (h_s : K P s) : AK P (execSync r s) := by
  unfold execSync
  with_reducible repeat' (first
      | assumption | apply ak_answer | intro _ | apply k_runInstr | apply k_drainAll | simp -iota only [k_mk_iff])

theorem k_execEvack (r : Nat) (j : BitVec 2) (s : State) (h_s : K P s) : AK P (execEvack r j s) := by
  unfold execEvack
  with_reducible repeat' (first
      | assumption | apply ak_answer | intro _ | apply k_evackBody | apply k_runInstr | simp -iota only [k_mk_iff])

theorem k_execRep (r : Nat) (m : Bool) (ra : Reg) (cnt : BitVec 10) (s : State) (h_s : K P s) :
    AK P (execRep r m ra cnt s) := by
  unfold execRep
  with_reducible repeat' (first
      | assumption | apply ak_answer | intro _ | apply k_repBody | apply k_runInstr | apply k_ite
      | simp -iota only [k_mk_iff] | split | refine k_of_eq (by assumption) ?_)

theorem k_execIllegalInstruction (r : Nat) (w : Word) (s : State) (h_s : K P s) :
    AK P (execIllegalInstruction r w s) := by
  unfold execIllegalInstruction
  with_reducible repeat' (first
      | assumption | apply ak_answer | intro _ | apply k_runInstr | apply k_ite | simp -iota only [k_mk_iff] | split
      | refine k_of_eq (by assumption) ?_)

theorem k_execHedgerowEventInputTrap (r : Nat) (s : State) (h_s : K P s) : AK P (execHedgerowEventInputTrap r s) := by
  unfold execHedgerowEventInputTrap
  with_reducible repeat' (first
      | assumption | apply ak_answer | apply k_asyncTrap | apply k_ite | simp -iota only [k_mk_iff] | split
      | refine k_of_eq (by assumption) ?_)

theorem k_execMeadowMailboxTrap (r : Nat) (s : State) (h_s : K P s) : AK P (execMeadowMailboxTrap r s) := by
  unfold execMeadowMailboxTrap
  with_reducible repeat' (first
      | assumption | apply ak_answer | apply k_asyncTrap | apply k_ite | simp -iota only [k_mk_iff] | split
      | refine k_of_eq (by assumption) ?_)

theorem k_execStoreBufferDrain (r : Nat) (s : State) (h_s : K P s) : AK P (execStoreBufferDrain r s) := by
  unfold execStoreBufferDrain
  with_reducible repeat' (first
      | assumption | apply ak_answer | intro _ | apply k_foldl | apply k_foldl1 | apply k_drainOne | apply k_ite
      | simp -iota only [k_mk_iff] | split | refine k_of_eq (by assumption) ?_)

theorem k_execCoreCntClear (r : Nat) (s : State) (h_s : K P s) : AK P (execCoreCntClear r s) := by
  unfold execCoreCntClear
  with_reducible repeat' (first
      | assumption | apply ak_answer | apply k_privWrite | simp -iota only [k_mk_iff])

theorem k_wakeCore (s : State) (r : Nat) (woke : Bool) (h_s : K P s) : K P (wakeCore s r woke) := by
  unfold wakeCore
  with_reducible repeat' (first
      | assumption | exact k_true (by assumption) | intro _ | apply k_foldl | apply k_foldl1 | apply k_accrue
      | apply k_setCore | apply wf_core | apply wg_core | apply we_nil2 | apply wf_nil | apply we_set | apply we_flipBit | apply wg_nil | apply k_ite
      | simp -iota only [k_mk_iff] | split | refine k_of_eq (by assumption) ?_)

theorem k_waitWake (s : State) (r : Nat) (h_s : K P s) : K P (waitWake s r) := by
  unfold waitWake
  with_reducible repeat' (first
      | assumption | apply k_wakeCore | apply k_abandonOff | apply k_coincident | apply k_leaveRest | apply k_ite
      | simp -iota only [k_mk_iff] | split | refine k_of_eq (by assumption) ?_)

theorem k_execWaitWake (t r : Nat) (s : State) (h_s : K P s) : AK P (execWaitWake t r s) := by
  unfold execWaitWake
  with_reducible repeat' (first
      | assumption | apply ak_answer | apply k_waitWake | apply k_reach | simp -iota only [k_mk_iff])

/-- The work of an instruction that keeps the relation. -/
structure Good (b : Body) : Prop where
  keeps : ∀ (Q : List Instr → Prop) s r, K Q s → K Q (b s r).s

/-- Every work that an option names keeps the relation. -/
structure Goods (o : Option Body) : Prop where
  each : ∀ b, o = some b → Good b

theorem goods_none : Goods none := ⟨fun _ e => nomatch e⟩
theorem goods_some {b : Body} (h : Good b) : Goods (some b) := ⟨fun _ e => Option.some.inj e ▸ h⟩
theorem goods_ite {c : Prop} [Decidable c] {a b : Option Body} (ha : Goods a) (hb : Goods b) : Goods (if c then a else b) := by
  split <;> assumption

theorem good_loadBody (x0 : Bool) (x1 : Nat) (x2 : Word → Word) (x3 x4 : Reg) (x5 : BitVec 16) : Good (loadBody x0 x1 x2 x3 x4 x5) := ⟨fun _ _ _ => k_loadBody _ _ _ _ _ _ _ _⟩
theorem good_storeBody (x0 : Bool) (x1 : Nat) (x2 x3 : Reg) (x4 : BitVec 16) : Good (storeBody x0 x1 x2 x3 x4) := ⟨fun _ _ _ => k_storeBody _ _ _ _ _ _ _⟩
theorem good_macmBody (x0 : Bool) (x1 x2 : Reg) : Good (macmBody x0 x1 x2) := ⟨fun _ _ _ => k_macmBody _ _ _ _ _⟩
theorem good_msumBody (x0 : Bool) (x1 x2 : Reg) : Good (msumBody x0 x1 x2) := ⟨fun _ _ _ => k_msumBody _ _ _ _ _⟩
theorem good_callBody (x0 : BitVec 8) (x1 : BitVec 18) : Good (callBody x0 x1) := ⟨fun _ _ _ => k_callBody _ _ _ _⟩
theorem good_retBody (x0 : BitVec 8) : Good (retBody x0) := ⟨fun _ _ _ => k_retBody _ _ _⟩
theorem good_qputBody (x0 : Reg) : Good (qputBody x0) := ⟨fun _ _ _ => k_qputBody _ _ _⟩
theorem good_qgetBody (x0 : Reg) : Good (qgetBody x0) := ⟨fun _ _ _ => k_qgetBody _ _ _⟩
theorem good_qflBody  : Good qflBody := ⟨fun _ _ _ => k_qflBody _ _⟩
theorem good_tasBody (x0 x1 : Reg) : Good (tasBody x0 x1) := ⟨fun _ _ _ => k_tasBody _ _ _ _⟩
theorem good_lrBody (x0 x1 : Reg) : Good (lrBody x0 x1) := ⟨fun _ _ _ => k_lrBody _ _ _ _⟩
theorem good_scBody (x0 x1 x2 : Reg) : Good (scBody x0 x1 x2) := ⟨fun _ _ _ => k_scBody _ _ _ _ _⟩

/-- The work of every instruction that can wait keeps the relation. -/
theorem k_bodyOf (w : Word) : Goods (bodyOf w) := by
  unfold bodyOf
  dsimp only
  with_reducible repeat' (first
      | apply goods_none | apply goods_ite | apply goods_some | apply good_loadBody | apply good_storeBody
      | apply good_macmBody | apply good_msumBody | apply good_callBody | apply good_retBody | apply good_qputBody
      | apply good_qgetBody | apply good_qflBody | apply good_tasBody | apply good_lrBody | apply good_scBody | split)

theorem k_retry (s : State) (r : Nat) (h_s : K P s) : K P (retry s r) := by
  unfold retry
  split
  · exact h_s
  · split
    · exact h_s
    · rename_i b hb
      dsimp only
      with_reducible apply k_ite
      · exact h_s
      · refine k_runBody _ _ _ _ ?_ ((k_bodyOf _).each _ hb).keeps
        with_reducible repeat' (first
            | assumption | exact k_true (by assumption) | intro _ | apply k_foldl | apply k_setCore | apply wf_core | apply wg_core)

theorem k_pushRelease (s : State) (r : Nat) (h_s : K P s) : K P (pushRelease s r) := by
  unfold pushRelease
  with_reducible repeat' (first
      | assumption | apply k_retry | apply k_noteStarved | apply k_ite | simp -iota only [k_mk_iff] | split
      | refine k_of_eq (by assumption) ?_)

theorem k_retryAll (s : State) (h_s : K P s) : K P (retryAll s) := by
  unfold retryAll
  with_reducible repeat' (first
      | assumption | intro _ | apply k_foldl | apply k_foldl1 | apply k_retry | apply k_ite | apply k_ite1
      | simp -iota only [k_mk_iff] | split | refine k_of_eq (by assumption) ?_)

theorem k_sentinelFire (s : State) (r : Nat) (h_s : K P s) : K P (sentinelFire s r) := by
  unfold sentinelFire
  with_reducible repeat' (first
      | assumption | exact k_true (by assumption) | intro _ | apply k_foldl | apply k_foldl1 | apply k_sleepJudge
      | apply k_syncTrap | apply k_noteStarved | apply k_setCore | apply k_bump | apply k_bumpBy | apply wf_core
      | apply wg_core | apply we_nil2 | apply wf_nil | apply we_set | apply we_flipBit | apply wg_nil | apply k_ite | simp -iota only [k_mk_iff] | split
      | refine k_of_eq (by assumption) ?_)

/-! Requests.lean -/

theorem k_waitAtSeam (s : State) (req addr : Nat) (v : Option Word) (h_s : K P s) :
    K P (waitAtSeam s req addr v) := by
  unfold waitAtSeam
  with_reducible repeat' (first
      | assumption | intro _ | apply k_bumpSeam | apply k_bump | apply k_bumpBy | apply k_ite
      | simp -iota only [k_mk_iff] | split | refine k_of_eq (by assumption) ?_)

theorem k_seamServe (s : State) (w : SeamWait) (h_s : K P s) : K P (seamServe s w) := by
  unfold seamServe
  with_reducible repeat' (first
      | assumption | intro _ | apply k_ctlWrite | apply k_ctlRead | apply k_ite | apply k_ite1
      | simp -iota only [k_mk_iff] | split | refine k_of_eq (by assumption) ?_)

theorem k_seamPump (s : State) (h_s : K P s) : K P (seamPump s) := by
  unfold seamPump
  with_reducible repeat' (first
      | assumption | intro _ | apply k_foldl | apply k_foldl1 | apply k_seamServe | simp -iota only [k_mk_iff])

theorem k_filePut (s : State) (p : Nat) (bs : List Byte) (h_s : K P s) : K P (filePut s p bs) := by
  unfold filePut
  with_reducible repeat' (first
      | assumption | apply we_memWrite | apply wf_memWrite | simp -iota only [k_mk_iff])

theorem k_answerRequest (s : State) (port code ran : Nat) (outs : List (Nat × Dword)) (slot : Option Nat) (h_s : K P s) :
    K P (answerRequest s port code ran outs slot) := by
  unfold answerRequest
  with_reducible repeat' (first
      | assumption | intro _ | apply k_filePut | apply k_respond | apply k_ite | apply k_ite1
      | simp -iota only [k_mk_iff] | split | refine k_of_eq (by assumption) ?_)

theorem k_judgeRequest (s : State) (w : ReqWaiting) (h_s : K P s) : K P (judgeRequest s w).1 := by
  unfold judgeRequest
  with_reducible repeat' (first
      | assumption | intro _ | apply k_verifyPair | apply k0_of | apply And.intro | apply mantleWf_intro
      | apply wf_mstaging | apply wf_slotA | apply wf_slotB | apply we_memWrite | apply wf_memWrite | apply wf_flashWrite
      | exact k_true (by assumption) | apply k_ite | apply k_ite1 | simp -iota only [k_mk_iff]
      | simp -iota only [k_mantle_iff] | split | refine k_of_eq (by assumption) ?_)

theorem k_actEnds (s : State) (q : ReqRun) (code : Nat) (w : Dword) (h_s : K P s) : K P (actEnds s q code w) := by
  unfold actEnds
  with_reducible repeat' (first
      | assumption | intro _ | apply k_ite | simp -iota only [k_mk_iff] | split | refine k_of_eq (by assumption) ?_)

theorem k_readWords (n : Nat) (s : State) (a : Nat) (h_s : K P s) : K P (readWords n s a).1 := by
  induction n generalizing s a with
  | zero => exact h_s
  | succ n ih =>
    unfold readWords
    with_reducible repeat' (first
        | assumption | apply ih | apply k_ctlRead | apply k_ite | simp -iota only [k_mk_iff]
        | split)

theorem k_actBegin (s : State) (q : ReqRun) (a : ReqAct) (h_s : K P s) : K P (actBegin s q a) := by
  have held : ∀ (v : Option Word) (at_ : Nat), K P (match islandAt s at_ with
      | some _ => { waitAtSeam s q.port at_ v with request := some { q with wait := .access } }
      | none => s) := by
    intro v at_
    split
    · simp -iota only [k_mk_iff]
      exact k_waitAtSeam _ _ _ _ h_s
    · exact h_s
  have hw := k_ctlWrite s q.port a.addr (w32 (leAt a.args 0 4)) h_s
  have hr := k_readWords (leAt a.args 0 2) s a.addr h_s
  unfold actBegin
  dsimp only
  generalize ctlWrite s q.port a.addr (w32 (leAt a.args 0 4)) = x at hw ⊢
  generalize readWords (leAt a.args 0 2) s a.addr = y at hr ⊢
  obtain ⟨u, e⟩ := x
  obtain ⟨v, f, ws⟩ := y
  split
  · cases e <;> dsimp only <;> first | exact held _ _ | exact k_actEnds _ _ _ _ hw
  · split
    with_reducible repeat' (first
        | assumption | intro _ | apply k_submitFree | apply k_foldl | apply k_setStaged
        | apply k_actEnds | apply k_ite | simp -iota only [k_mk_iff] | split)
  · cases f <;> dsimp only <;> first | exact held _ _ | exact k_actEnds _ _ _ _ hr

theorem k_actWait (s : State) (q : ReqRun) (a : ReqAct) (h_s : K P s) : K P (actWait s q a) := by
  unfold actWait
  with_reducible repeat' (first
      | assumption | intro _ | apply k_actBegin | apply k_actEnds | apply k_hwTake | apply k_ite | apply k_ite1
      | simp -iota only [k_mk_iff] | split | refine k_of_eq (by assumption) ?_)

theorem k_requestStep (s : State) (h_s : K P s) : K P (requestStep s) := by
  unfold requestStep
  with_reducible repeat' (first
      | assumption | intro _ | apply k_actWait | apply k_judgeRequest | apply k_answerRequest | apply k_ite
      | apply k_ite1 | simp -iota only [k_mk_iff] | split | refine k_of_eq (by assumption) ?_)

theorem k_requestPump (s : State) (h_s : K P s) : K P (requestPump s) := by
  unfold requestPump
  with_reducible repeat' (first
      | assumption | intro _ | apply k_foldTo | apply k_foldTo1 | apply k_requestStep | simp -iota only [k_mk_iff]
      | split | refine k_of_eq (by assumption) ?_)

theorem k_takeRequest (s : State) (port off len : Nat) (h_s : K P s) : K P (takeRequest s port off len) := by
  unfold takeRequest
  with_reducible repeat' (first
      | assumption | intro _ | apply k_answerRequest | apply k_ite | simp -iota only [k_mk_iff] | split
      | refine k_of_eq (by assumption) ?_)

theorem k_openRead (s : State) (addr : Nat) (h_s : K P s) : K P (openRead s addr).1 := by
  unfold openRead
  with_reducible repeat' (first
      | assumption | apply k_ctlRead | apply k_ite | apply k_ite1 | simp -iota only [k_mk_iff] | split
      | refine k_of_eq (by assumption) ?_)

theorem k_openReads (n : Nat) (s : State) (a : Nat) (h_s : K P s) : K P (openReads n s a).1 := by
  induction n generalizing s a with
  | zero => exact h_s
  | succ n ih =>
    unfold openReads
    with_reducible repeat' (first
        | assumption | apply ih | apply k_openRead | apply k_ite | simp -iota only [k_mk_iff]
        | split)

theorem k_uplRead (s : State) (n addr count : Nat) (h_s : K P s) : K P (uplRead s n addr count) := by
  unfold uplRead
  with_reducible repeat' (first
      | assumption | intro _ | apply k_openReads | apply k_mgmtDenied | apply k_respond | apply k_setUpl
      | apply k_bump | apply k_bumpBy | apply k_ite | apply k_ite1 | simp -iota only [k_mk_iff] | split
      | refine k_of_eq (by assumption) ?_)

theorem k_submitRequest (s : State) (port off len : Nat) (h_s : K P s) : K P (submitRequest s port off len) := by
  unfold submitRequest
  with_reducible repeat' (first
      | assumption | apply k_takeRequest | apply k_bump | apply k_bumpBy | apply k_ite | simp -iota only [k_mk_iff]
      | split | refine k_of_eq (by assumption) ?_)

theorem k_rdAddrWrite (s : State) (addr : Word) (h_s : K P s) : K P (rdAddrWrite s addr) := by
  unfold rdAddrWrite
  with_reducible repeat' (first
      | assumption | apply k_openRead | apply k_filePut | apply k_ite | apply k_ite1 | simp -iota only [k_mk_iff]
      | split | refine k_of_eq (by assumption) ?_)

theorem k_stgFlush (s : State) (bs : List Byte) (h_s : K P s) : K P (stgFlush s bs) := by
  unfold stgFlush
  with_reducible repeat' (first
      | assumption | intro _ | apply k_filePut | apply we_memWrite | apply wf_memWrite | apply k_setStagingWord | apply k0_of
      | apply And.intro | apply mantleWf_intro | apply wf_mstaging | apply wf_slotA | apply wf_slotB
      | apply wf_flashWrite | exact k_true (by assumption) | apply k_ite | simp -iota only [k_mk_iff]
      | simp -iota only [k_mantle_iff] | split | refine k_of_eq (by assumption) ?_)

theorem k_stgBytes (n : List Byte) (s : State) (h_s : K P s) : K P (stgBytes n s) := by
  induction n generalizing s with
  | nil => unfold stgBytes; first | exact h_s | (
      with_reducible repeat' (first
          | assumption | apply k_stgFlush | apply k_ite | simp -iota only [k_mk_iff] | split))
  | cons a n ih =>
    unfold stgBytes
    with_reducible repeat' (first
        | assumption | apply ih | apply k_stgFlush | apply k_ite | simp -iota only [k_mk_iff]
        | split)

theorem k_stgDataWrite (s : State) (off : Option (BitVec 24)) (bs : List Byte) (h_s : K P s) :
    K P (stgDataWrite s off bs) := by
  unfold stgDataWrite
  with_reducible repeat' (first
      | assumption | apply k_stgBytes | apply k_filePut | apply k_ite | simp -iota only [k_mk_iff] | split
      | refine k_of_eq (by assumption) ?_)

theorem k_subLenWrite (s : State) (off : BitVec 24) (len : Word) (h_s : K P s) : K P (subLenWrite s off len) := by
  unfold subLenWrite
  with_reducible repeat' (first
      | assumption | intro _ | apply k_takeRequest | apply k_filePut | apply k_ite | simp -iota only [k_mk_iff]
      | split | refine k_of_eq (by assumption) ?_)

theorem k_captured (s : State) (data : Word) (h_s : K P s) : K P (captured s data) := by
  unfold captured
  with_reducible repeat' (first
      | assumption | apply k_draw | simp -iota only [k_mk_iff])

theorem k_capturedFree (s : State) (h_s : K P s) : K P (capturedFree s) := by
  unfold capturedFree
  with_reducible repeat' (first
      | assumption | apply k_captured | apply k_draw | simp -iota only [k_mk_iff])

theorem k_capturedLocked (s : State) (h_s : K P s) : K P (capturedLocked s) := by
  unfold capturedLocked
  with_reducible repeat' (first
      | assumption | simp -iota only [k_mk_iff])

theorem k_debugHalt (s : State) (r : Nat) (h_s : K P s) : K P (debugHalt s r) := by
  unfold debugHalt
  with_reducible repeat' (first
      | assumption | exact k_true (by assumption) | intro _ | apply k_foldl | apply k_foldl1 | apply k_accrue
      | apply k_setCore | apply wf_core | apply wg_core | apply wf_flush | apply wg_flush | apply we_nil2 | apply wf_nil | apply we_set | apply we_flipBit
      | apply wg_nil | apply k_ite | simp -iota only [k_mk_iff] | split | refine k_of_eq (by assumption) ?_)

theorem k_debugResume (s : State) (r : Nat) (h_s : K P s) : K P (debugResume s r) := by
  unfold debugResume
  with_reducible repeat' (first
      | assumption | exact k_true (by assumption) | intro _ | apply k_foldl | apply k_foldl1 | apply k_debugHalt
      | apply k_setCore | apply wf_core | apply wg_core | apply we_nil2 | apply wf_nil | apply we_set | apply we_flipBit | apply wg_nil | apply k_ite
      | simp -iota only [k_mk_iff] | split | refine k_of_eq (by assumption) ?_)

theorem k_debugReadLocal (s : State) (r a : Nat) (h_s : K P s) : K P (debugReadLocal s r a) := by
  unfold debugReadLocal
  with_reducible repeat' (first
      | assumption | apply k_debugHalt | apply k_capturedFree | apply k_captured | apply k_drainAll
      | apply k_localCheck | apply k_ite | apply k_ite1 | simp -iota only [k_mk_iff] | split
      | refine k_of_eq (by assumption) ?_)

theorem k_debugWriteLocal (s : State) (r a : Nat) (v : Word) (h_s : K P s) : K P (debugWriteLocal s r a v) := by
  unfold debugWriteLocal
  with_reducible repeat' (first
      | assumption | apply k_debugHalt | apply k_capturedFree | apply k_localPut | apply k_dropRsv
      | apply k_drainAll | apply k_ite | simp -iota only [k_mk_iff] | split | refine k_of_eq (by assumption) ?_)

theorem k_debugRead (s : State) (a : Nat) (h_s : K P s) : K P (debugRead s a) := by
  have hc := k_ctlRead s (a / 4 * 4) h_s
  unfold debugRead
  dsimp only
  generalize ctlRead s (a / 4 * 4) = x at hc ⊢
  obtain ⟨u, e⟩ := x
  generalize place 411 (a / 4 * 4) = p
  cases p <;> dsimp only
  case ctl => cases e <;> first | exact k_captured _ _ hc | exact k_waitAtSeam _ _ _ _ h_s | exact k_capturedFree _ hc
  case sram m off =>
    have hm := k_sramLoad s 411 (s.roleOf 411) m off 4 h_s
    generalize sramLoad s 411 (s.roleOf 411) m off 4 = y at hm ⊢
    obtain ⟨v, f⟩ := y
    with_reducible apply k_ite
    · exact k_capturedFree _ h_s
    · cases f <;> first | exact k_captured _ _ hm | exact k_capturedFree _ hm
  all_goals exact k_capturedFree _ h_s

theorem k_debugWrite (s : State) (a : Nat) (v : Word) (h_s : K P s) : K P (debugWrite s a v) := by
  unfold debugWrite
  with_reducible repeat' (first
      | assumption | apply k_capturedFree | apply k_waitAtSeam | apply k_sramStore | apply k_ctlWrite | apply k_ite
      | apply k_ite1 | simp -iota only [k_mk_iff] | split | refine k_of_eq (by assumption) ?_)

theorem k_debugPop (s : State) (h_s : K P s) : K P (debugPop s) := by
  unfold debugPop
  with_reducible repeat' (first
      | assumption | apply k_capturedFree | apply k_qGet | apply k_draw | simp -iota only [k_mk_iff] | split
      | refine k_of_eq (by assumption) ?_)

theorem k_debugStep (s : State) (op : DebugOp) (h_s : K P s) : K P (debugStep s op) := by
  unfold debugStep
  with_reducible repeat' (first
      | assumption | exact k_true (by assumption) | intro _ | apply k_debugPop | apply k_debugWrite
      | apply k_debugRead | apply k_debugWriteLocal | apply k_debugReadLocal | apply k_debugResume
      | apply k_debugHalt | apply k_capturedLocked | apply k_capturedFree | apply k_captured | apply k_setCore
      | apply wf_core | apply wg_core | apply wf_commit1 | apply wg_commit1 | apply we_nil2 | apply wf_nil | apply we_set | apply we_flipBit | apply wg_nil
      | apply k_ite | simp -iota only [k_mk_iff] | split | refine k_of_eq (by assumption) ?_)

theorem k_debugPump (s : State) (h_s : K P s) : K P (debugPump s) := by
  unfold debugPump
  with_reducible repeat' (first
      | assumption | intro _ | apply k_capturedFree | apply k_captured | apply k_ite | simp -iota only [k_mk_iff]
      | split | refine k_of_eq (by assumption) ?_)

/-! Settle.lean -/

theorem k_settleOnce (s : State) (h_s : K P s) : K P (settleOnce s) := by
  unfold settleOnce
  with_reducible repeat' (first
      | assumption | intro _ | apply k_foldTo | apply k_foldTo1 | apply k_debugPump | apply k_requestPump
      | apply k_seamPump | apply k_retryAll | apply k_orderPump | apply k_rxDrain | apply k_raiseDue
      | apply k_noteStarved | apply k_ite | simp -iota only [k_mk_iff] | split | refine k_of_eq (by assumption) ?_)

theorem k_settle (s : State) (h_s : K P s) : K P (settle s) := by
  unfold settle
  with_reducible repeat' (first
      | assumption | intro _ | apply k_foldTo | apply k_foldTo1 | apply k_settleOnce | simp -iota only [k_mk_iff])

theorem k_answer (s : State) (h_s : K P s) : AK P (answer s) := by
  delta answer
  with_reducible repeat' (first
      | assumption | apply ak_answer | apply k_settle | simp -iota only [k_mk_iff])

theorem k_answerAt (s : State) (t : Nat) (f : State → State) (h_s : K P s) (h_f : ∀ s , K P s → K P (f s)) :
    AK P (answerAt s t f) := by
  delta answerAt
  with_reducible repeat' (first
      | assumption | apply ak_answer | apply h_f | apply k_answer | apply k_settle | apply k_reach
      | simp -iota only [k_mk_iff])

theorem k_within (c : Bool) (s t : State) (h_s : K P s) (h_t : K P t) : K P (within c s t) := by
  delta within
  with_reducible repeat' (first
      | assumption | apply k_ite | simp -iota only [k_mk_iff] | split | refine k_of_eq (by assumption) ?_)

end Sys2Proof.Laws
end

