-- ==== Sys2Proof/Laws/KeepCmds.lean ====
section
/-! SUPPORT. What the definitions of every command do keeps the queue and the canonical form. -/

set_option linter.all false

namespace Sys2Proof.Laws

open Sys2Proof.Machine

variable {P : List Instr → Prop}

/-! CmdRegs.lean -/

theorem k_cmdWrite (s : State) (req addr : Nat) (v : Word) (h_s : K P s) : K P (cmdWrite s req addr v) := by
  unfold cmdWrite
  with_reducible repeat' (first
      | assumption | apply k_waitAtSeam | apply k_ctlWrite | apply k_ite | apply k_ite1 | simp -iota only [k_mk_iff]
      | split | refine k_of_eq (by assumption) ?_)

theorem k_execRegisterWrite (req : Nat) (addr : Nat) (v : Word) (s : State) (h_s : K P s) :
    AK P (execRegisterWrite req addr v s) := by
  unfold execRegisterWrite
  with_reducible repeat' (first
      | assumption | apply ak_answer | apply k_cmdWrite | apply k_answer | apply k_settle
      | simp -iota only [k_mk_iff])

theorem k_execClampLogClear (req : Nat) (blk : Blk) (inst : Nat) (s : State) (h_s : K P s) :
    AK P (execClampLogClear req blk inst s) := by
  unfold execClampLogClear
  with_reducible repeat' (first
      | assumption | apply ak_answer | apply k_cmdWrite | apply k_within | apply k_answer | apply k_settle
      | apply k_ite | simp -iota only [k_mk_iff] | split | refine k_of_eq (by assumption) ?_)

theorem k_execCompletionCommit (req : Nat) (s : State) (h_s : K P s) : AK P (execCompletionCommit req s) := by
  unfold execCompletionCommit
  with_reducible repeat' (first
      | assumption | apply ak_answer | apply k_answer | apply k_settle | apply k_commitHeld
      | simp -iota only [k_mk_iff])

theorem k_execHeldOrderRecheck (req : Nat) (s : State) (h_s : K P s) : AK P (execHeldOrderRecheck req s) := by
  unfold execHeldOrderRecheck
  with_reducible repeat' (first
      | assumption | apply ak_answer | apply k_answer | apply k_settle | apply k_recheck
      | simp -iota only [k_mk_iff])

/-! CmdLane.lean -/

theorem k_execDataRx (t : Nat) (lane : Nat) (f : RxFrame) (s : State) (h_s : K P s) :
    AK P (execDataRx t lane f s) := by
  unfold execDataRx
  with_reducible repeat' (first
      | assumption | apply ak_answer | intro _ | apply k_within | apply k_answerAt | apply k_answer | apply k_settle
      | apply k_reach | apply k_receive | apply k_ite | simp -iota only [k_mk_iff] | split
      | refine k_of_eq (by assumption) ?_)

theorem k_execDetRx (t : Nat) (lane : Nat) (f : RxFrame) (s : State) (h_s : K P s) : AK P (execDetRx t lane f s) := by
  unfold execDetRx
  with_reducible repeat' (first
      | assumption | apply ak_answer | intro _ | apply k_within | apply k_answerAt | apply k_answer | apply k_settle
      | apply k_reach | apply k_receive | apply k_ite | simp -iota only [k_mk_iff] | split
      | refine k_of_eq (by assumption) ?_)

theorem k_execFltRx (t : Nat) (lane : Nat) (f : RxFrame) (s : State) (h_s : K P s) : AK P (execFltRx t lane f s) := by
  unfold execFltRx
  with_reducible repeat' (first
      | assumption | apply ak_answer | intro _ | apply k_within | apply k_answerAt | apply k_answer | apply k_settle
      | apply k_reach | apply k_receive | apply k_ite | simp -iota only [k_mk_iff] | split
      | refine k_of_eq (by assumption) ?_)

theorem k_execRspRx (t : Nat) (lane : Nat) (f : RxFrame) (s : State) (h_s : K P s) : AK P (execRspRx t lane f s) := by
  unfold execRspRx
  with_reducible repeat' (first
      | assumption | apply ak_answer | intro _ | apply k_within | apply k_answerAt | apply k_answer | apply k_settle
      | apply k_reach | apply k_receive | apply k_ite | simp -iota only [k_mk_iff] | split
      | refine k_of_eq (by assumption) ?_)

theorem k_execIdRx (t : Nat) (lane : Nat) (f : RxFrame) (s : State) (h_s : K P s) : AK P (execIdRx t lane f s) := by
  unfold execIdRx
  with_reducible repeat' (first
      | assumption | apply ak_answer | intro _ | apply k_within | apply k_answerAt | apply k_answer | apply k_settle
      | apply k_reach | apply k_receive | apply k_ite | simp -iota only [k_mk_iff] | split
      | refine k_of_eq (by assumption) ?_)

theorem k_execEnergyRx (t : Nat) (lane : Nat) (f : RxFrame) (s : State) (h_s : K P s) :
    AK P (execEnergyRx t lane f s) := by
  unfold execEnergyRx
  with_reducible repeat' (first
      | assumption | apply ak_answer | intro _ | apply k_within | apply k_answerAt | apply k_answer | apply k_settle
      | apply k_reach | apply k_receive | apply k_ite | simp -iota only [k_mk_iff] | split
      | refine k_of_eq (by assumption) ?_)

theorem k_execStatusRx (t : Nat) (lane : Nat) (f : RxFrame) (s : State) (h_s : K P s) :
    AK P (execStatusRx t lane f s) := by
  unfold execStatusRx
  with_reducible repeat' (first
      | assumption | apply ak_answer | intro _ | apply k_within | apply k_answerAt | apply k_answer | apply k_settle
      | apply k_reach | apply k_receive | apply k_ite | simp -iota only [k_mk_iff] | split
      | refine k_of_eq (by assumption) ?_)

theorem k_execEnumReportRx (t : Nat) (lane : Nat) (f : RxFrame) (s : State) (h_s : K P s) :
    AK P (execEnumReportRx t lane f s) := by
  unfold execEnumReportRx
  with_reducible repeat' (first
      | assumption | apply ak_answer | intro _ | apply k_within | apply k_answerAt | apply k_answer | apply k_settle
      | apply k_reach | apply k_receive | apply k_ite | simp -iota only [k_mk_iff] | split
      | refine k_of_eq (by assumption) ?_)

theorem k_execEnumAckRx (t : Nat) (lane : Nat) (f : RxFrame) (s : State) (h_s : K P s) :
    AK P (execEnumAckRx t lane f s) := by
  unfold execEnumAckRx
  with_reducible repeat' (first
      | assumption | apply ak_answer | intro _ | apply k_within | apply k_answerAt | apply k_answer | apply k_settle
      | apply k_reach | apply k_receive | apply k_ite | simp -iota only [k_mk_iff] | split
      | refine k_of_eq (by assumption) ?_)

theorem k_execDelayAckRx (t : Nat) (lane : Nat) (f : RxFrame) (s : State) (h_s : K P s) :
    AK P (execDelayAckRx t lane f s) := by
  unfold execDelayAckRx
  with_reducible repeat' (first
      | assumption | apply ak_answer | intro _ | apply k_within | apply k_answerAt | apply k_answer | apply k_settle
      | apply k_reach | apply k_receive | apply k_ite | simp -iota only [k_mk_iff] | split
      | refine k_of_eq (by assumption) ?_)

theorem k_execBulkFileRelease (t : Nat) (lane : Nat) (s : State) (h_s : K P s) :
    AK P (execBulkFileRelease t lane s) := by
  unfold execBulkFileRelease
  with_reducible repeat' (first
      | assumption | apply ak_answer | intro _ | apply k_within | apply k_answerAt | apply k_answer | apply k_settle
      | apply k_reach | apply k_drainLane | apply k_ite | simp -iota only [k_mk_iff] | split
      | refine k_of_eq (by assumption) ?_)

theorem k_execCreditStallTimer (t : Nat) (lane : Nat) (s : State) (h_s : K P s) :
    AK P (execCreditStallTimer t lane s) := by
  unfold execCreditStallTimer
  with_reducible repeat' (first
      | assumption | apply ak_answer | intro _ | apply k_within | apply k_answerAt | apply k_answer | apply k_settle
      | apply k_reach | apply k_stallTimer | apply k_ite | simp -iota only [k_mk_iff] | split
      | refine k_of_eq (by assumption) ?_)

theorem k_execCreditSend (t : Nat) (lane : Nat) (s : State) (h_s : K P s) : AK P (execCreditSend t lane s) := by
  unfold execCreditSend
  with_reducible repeat' (first
      | assumption | apply ak_answer | intro _ | apply k_within | apply k_answerAt | apply k_answer | apply k_settle
      | apply k_reach | apply k_creditServe | apply k_ite | simp -iota only [k_mk_iff] | split
      | refine k_of_eq (by assumption) ?_)

theorem k_execSyncSend (t : Nat) (lane : Nat) (s : State) (h_s : K P s) : AK P (execSyncSend t lane s) := by
  unfold execSyncSend
  with_reducible repeat' (first
      | assumption | apply ak_answer | intro _ | apply k_within | apply k_answerAt | apply k_answer | apply k_settle
      | apply k_reach | apply k_syncServe | apply k_ite | simp -iota only [k_mk_iff] | split
      | refine k_of_eq (by assumption) ?_)

theorem k_execSyncNow (t : Nat) (lane : Nat) (s : State) (h_s : K P s) : AK P (execSyncNow t lane s) := by
  unfold execSyncNow
  with_reducible repeat' (first
      | assumption | apply ak_answer | intro _ | apply k_within | apply k_answerAt | apply k_answer | apply k_settle
      | apply k_reach | apply k_syncNow | apply k_ite | simp -iota only [k_mk_iff] | split
      | refine k_of_eq (by assumption) ?_)

theorem k_execEnumWindowClose (t : Nat) (lane : Nat) (s : State) (h_s : K P s) :
    AK P (execEnumWindowClose t lane s) := by
  unfold execEnumWindowClose
  with_reducible repeat' (first
      | assumption | apply ak_answer | intro _ | apply k_within | apply k_answerAt | apply k_answer | apply k_settle
      | apply k_reach | apply k_enumClose | apply k_ite | simp -iota only [k_mk_iff] | split
      | refine k_of_eq (by assumption) ?_)

theorem k_execSweepTimer (t : Nat) (lane : Nat) (s : State) (h_s : K P s) : AK P (execSweepTimer t lane s) := by
  unfold execSweepTimer
  with_reducible repeat' (first
      | assumption | apply ak_answer | intro _ | apply k_within | apply k_answerAt | apply k_answer | apply k_settle
      | apply k_reach | apply k_sweepTimer | apply k_ite | simp -iota only [k_mk_iff] | split
      | refine k_of_eq (by assumption) ?_)

theorem k_execSweepNow (t : Nat) (lane : Nat) (s : State) (h_s : K P s) : AK P (execSweepNow t lane s) := by
  unfold execSweepNow
  with_reducible repeat' (first
      | assumption | apply ak_answer | intro _ | apply k_within | apply k_answerAt | apply k_answer | apply k_settle
      | apply k_reach | apply k_sweepNow | apply k_ite | simp -iota only [k_mk_iff] | split
      | refine k_of_eq (by assumption) ?_)

theorem k_execCmdSend (t : Nat) (lane : Nat) (s : State) (h_s : K P s) : AK P (execCmdSend t lane s) := by
  unfold execCmdSend
  with_reducible repeat' (first
      | assumption | apply ak_answer | intro _ | apply k_within | apply k_answerAt | apply k_answer | apply k_settle
      | apply k_reach | apply k_cmdStart | apply k_ite | simp -iota only [k_mk_iff] | split
      | refine k_of_eq (by assumption) ?_)

theorem k_execCmdTimeout (t : Nat) (lane : Nat) (tag : Nat) (s : State) (h_s : K P s) :
    AK P (execCmdTimeout t lane tag s) := by
  unfold execCmdTimeout
  with_reducible repeat' (first
      | assumption | apply ak_answer | intro _ | apply k_within | apply k_answerAt | apply k_answer | apply k_settle
      | apply k_reach | apply k_cmdExpire | apply k_ite | simp -iota only [k_mk_iff] | split
      | refine k_of_eq (by assumption) ?_)

theorem k_execTagQuarantineEnd (t : Nat) (lane : Nat) (tag : Nat) (s : State) (h_s : K P s) :
    AK P (execTagQuarantineEnd t lane tag s) := by
  unfold execTagQuarantineEnd
  with_reducible repeat' (first
      | assumption | apply ak_answer | intro _ | apply k_within | apply k_answerAt | apply k_answer | apply k_settle
      | apply k_reach | apply k_tagFree | apply k_ite | simp -iota only [k_mk_iff] | split
      | refine k_of_eq (by assumption) ?_)

theorem k_execReleaseReportTimeout (t : Nat) (lane : Nat) (n : Nat) (s : State) (h_s : K P s) :
    AK P (execReleaseReportTimeout t lane n s) := by
  unfold execReleaseReportTimeout
  with_reducible repeat' (first
      | assumption | apply ak_answer | intro _ | apply k_within | apply k_answerAt | apply k_answer | apply k_settle
      | apply k_reach | apply k_releaseTimeout | apply k_ite | simp -iota only [k_mk_iff] | split
      | refine k_of_eq (by assumption) ?_)

theorem k_execLinkUp (t : Nat) (lane : Nat) (has24 : Bool) (has10 : Bool) (s : State) (h_s : K P s) :
    AK P (execLinkUp t lane has24 has10 s) := by
  unfold execLinkUp
  with_reducible repeat' (first
      | assumption | apply ak_answer | intro _ | apply k_within | apply k_answerAt | apply k_answer | apply k_settle
      | apply k_reach | apply k_linkUp | apply k_ite | simp -iota only [k_mk_iff] | split
      | refine k_of_eq (by assumption) ?_)

theorem k_execLinkDown (t : Nat) (lane : Nat) (s : State) (h_s : K P s) : AK P (execLinkDown t lane s) := by
  unfold execLinkDown
  with_reducible repeat' (first
      | assumption | apply ak_answer | intro _ | apply k_within | apply k_answerAt | apply k_answer | apply k_settle
      | apply k_reach | apply k_linkDown | apply k_ite | simp -iota only [k_mk_iff] | split
      | refine k_of_eq (by assumption) ?_)

theorem k_execLinkAttemptTimeout (t : Nat) (lane : Nat) (s : State) (h_s : K P s) :
    AK P (execLinkAttemptTimeout t lane s) := by
  unfold execLinkAttemptTimeout
  with_reducible repeat' (first
      | assumption | apply ak_answer | intro _ | apply k_within | apply k_answerAt | apply k_answer | apply k_settle
      | apply k_reach | apply k_linkRetry | apply k_ite | simp -iota only [k_mk_iff] | split
      | refine k_of_eq (by assumption) ?_)

theorem k_execLaneStart (lane : Nat) (d : Desc) (s : State) (h_s : K P s) : AK P (execLaneStart lane d s) := by
  unfold execLaneStart
  with_reducible repeat' (first
      | assumption | apply ak_answer | apply k_within | apply k_answer | apply k_settle | apply k_submit
      | apply k_ite | simp -iota only [k_mk_iff] | split | refine k_of_eq (by assumption) ?_)

theorem k_execLaneStop (lane : Nat) (d : Desc) (s : State) (h_s : K P s) : AK P (execLaneStop lane d s) := by
  unfold execLaneStop
  with_reducible repeat' (first
      | assumption | apply ak_answer | apply k_within | apply k_answer | apply k_settle | apply k_submit
      | apply k_ite | simp -iota only [k_mk_iff] | split | refine k_of_eq (by assumption) ?_)

theorem k_execLaneEnumerate (lane : Nat) (d : Desc) (s : State) (h_s : K P s) :
    AK P (execLaneEnumerate lane d s) := by
  unfold execLaneEnumerate
  with_reducible repeat' (first
      | assumption | apply ak_answer | apply k_within | apply k_answer | apply k_settle | apply k_submit
      | apply k_ite | simp -iota only [k_mk_iff] | split | refine k_of_eq (by assumption) ?_)

theorem k_execSendCmd (lane : Nat) (d : Desc) (s : State) (h_s : K P s) : AK P (execSendCmd lane d s) := by
  unfold execSendCmd
  with_reducible repeat' (first
      | assumption | apply ak_answer | apply k_within | apply k_answer | apply k_settle | apply k_submit
      | apply k_ite | simp -iota only [k_mk_iff] | split | refine k_of_eq (by assumption) ?_)

theorem k_execSetStream (lane : Nat) (d : Desc) (s : State) (h_s : K P s) : AK P (execSetStream lane d s) := by
  unfold execSetStream
  with_reducible repeat' (first
      | assumption | apply ak_answer | apply k_within | apply k_answer | apply k_settle | apply k_submit
      | apply k_ite | simp -iota only [k_mk_iff] | split | refine k_of_eq (by assumption) ?_)

theorem k_execReleaseNode (lane : Nat) (d : Desc) (s : State) (h_s : K P s) : AK P (execReleaseNode lane d s) := by
  unfold execReleaseNode
  with_reducible repeat' (first
      | assumption | apply ak_answer | apply k_within | apply k_answer | apply k_settle | apply k_submit
      | apply k_ite | simp -iota only [k_mk_iff] | split | refine k_of_eq (by assumption) ?_)

theorem k_execLineTdr (lane : Nat) (d : Desc) (result : Word) (s : State) (h_s : K P s) :
    AK P (execLineTdr lane d result s) := by
  unfold execLineTdr
  with_reducible repeat' (first
      | assumption | apply ak_answer | apply k_within | apply k_answer | apply k_settle | apply k_submit
      | apply k_ite | simp -iota only [k_mk_iff] | split | refine k_of_eq (by assumption) ?_)

theorem k_execLaneCountersClear (lane : Nat) (d : Desc) (s : State) (h_s : K P s) :
    AK P (execLaneCountersClear lane d s) := by
  unfold execLaneCountersClear
  with_reducible repeat' (first
      | assumption | apply ak_answer | apply k_within | apply k_answer | apply k_settle | apply k_submit
      | apply k_ite | simp -iota only [k_mk_iff] | split | refine k_of_eq (by assumption) ?_)

theorem k_execLaneEnergyDetect (t : Nat) (seen : LaneEnergy) (s : State) (h_s : K P s) :
    AK P (execLaneEnergyDetect t seen s) := by
  unfold execLaneEnergyDetect
  with_reducible repeat' (first
      | assumption | apply ak_answer | intro _ | apply k_within | apply k_answerAt | apply k_answer | apply k_settle
      | apply k_reach | apply k_energyDetect | apply k_ite | simp -iota only [k_mk_iff] | split
      | refine k_of_eq (by assumption) ?_)

theorem k_execLaneWakePattern (t : Nat) (seen : LaneSymbols) (s : State) (h_s : K P s) :
    AK P (execLaneWakePattern t seen s) := by
  unfold execLaneWakePattern
  with_reducible repeat' (first
      | assumption | apply ak_answer | intro _ | apply k_within | apply k_answerAt | apply k_answer | apply k_settle
      | apply k_reach | apply k_patternDetect | apply k_ite | simp -iota only [k_mk_iff] | split
      | refine k_of_eq (by assumption) ?_)

theorem k_execFrameLeft (t : Nat) (lane : Nat) (s : State) (h_s : K P s) : AK P (execFrameLeft t lane s) := by
  unfold execFrameLeft
  with_reducible repeat' (first
      | assumption | apply ak_answer | intro _ | apply k_within | apply k_answerAt | apply k_answer | apply k_settle
      | apply k_reach | apply k_frameDone | apply k_ite | simp -iota only [k_mk_iff] | split
      | refine k_of_eq (by assumption) ?_)

theorem k_execEnumAckTimeout (t : Nat) (lane : Nat) (n : Nat) (s : State) (h_s : K P s) :
    AK P (execEnumAckTimeout t lane n s) := by
  unfold execEnumAckTimeout
  with_reducible repeat' (first
      | assumption | apply ak_answer | intro _ | apply k_within | apply k_answerAt | apply k_answer | apply k_settle
      | apply k_reach | apply k_enumAckTimeout | apply k_ite | simp -iota only [k_mk_iff] | split
      | refine k_of_eq (by assumption) ?_)

/-! CmdSwath.lean -/

theorem k_execRaiseFrameSend (t : Nat) (lane : Nat) (s : State) (h_s : K P s) :
    AK P (execRaiseFrameSend t lane s) := by
  unfold execRaiseFrameSend
  with_reducible repeat' (first
      | assumption | apply ak_answer | intro _ | apply k_within | apply k_answerAt | apply k_answer | apply k_settle
      | apply k_reach | apply k_raiseSend | apply k_ite | simp -iota only [k_mk_iff] | split
      | refine k_of_eq (by assumption) ?_)

theorem k_execGatherWindowClose (t : Nat) (lane : Nat) (s : State) (h_s : K P s) :
    AK P (execGatherWindowClose t lane s) := by
  unfold execGatherWindowClose
  with_reducible repeat' (first
      | assumption | apply ak_answer | intro _ | apply k_within | apply k_answerAt | apply k_answer | apply k_settle
      | apply k_reach | apply k_gatherClose | apply k_ite | simp -iota only [k_mk_iff] | split
      | refine k_of_eq (by assumption) ?_)

theorem k_execGatherCapRelease (t : Nat) (lane : Nat) (s : State) (h_s : K P s) :
    AK P (execGatherCapRelease t lane s) := by
  unfold execGatherCapRelease
  with_reducible repeat' (first
      | assumption | apply ak_answer | intro _ | apply k_within | apply k_answerAt | apply k_answer | apply k_settle
      | apply k_reach | apply k_gatherRelease | apply k_ite | simp -iota only [k_mk_iff] | split
      | refine k_of_eq (by assumption) ?_)

theorem k_execCatchupFrameSend (t : Nat) (lane : Nat) (s : State) (h_s : K P s) :
    AK P (execCatchupFrameSend t lane s) := by
  unfold execCatchupFrameSend
  with_reducible repeat' (first
      | assumption | apply ak_answer | intro _ | apply k_within | apply k_answerAt | apply k_answer | apply k_settle
      | apply k_reach | apply k_catchupSend | apply k_ite | simp -iota only [k_mk_iff] | split
      | refine k_of_eq (by assumption) ?_)

theorem k_execHoldExpiry (t : Nat) (lane : Nat) (s : State) (h_s : K P s) : AK P (execHoldExpiry t lane s) := by
  unfold execHoldExpiry
  with_reducible repeat' (first
      | assumption | apply ak_answer | intro _ | apply k_within | apply k_answerAt | apply k_answer | apply k_settle
      | apply k_reach | apply k_holdExpire | apply k_ite | simp -iota only [k_mk_iff] | split
      | refine k_of_eq (by assumption) ?_)

theorem k_execFadeEnd (t : Nat) (lane : Nat) (s : State) (h_s : K P s) : AK P (execFadeEnd t lane s) := by
  unfold execFadeEnd
  with_reducible repeat' (first
      | assumption | apply ak_answer | intro _ | apply k_within | apply k_answerAt | apply k_answer | apply k_settle
      | apply k_reach | apply k_fadeEnd | apply k_ite | simp -iota only [k_mk_iff] | split
      | refine k_of_eq (by assumption) ?_)

theorem k_execEntry (t : Nat) (lane : Nat) (k : Nat) (s : State) (h_s : K P s) : AK P (execEntry t lane k s) := by
  unfold execEntry
  with_reducible repeat' (first
      | assumption | apply ak_answer | intro _ | apply k_within | apply k_answerAt | apply k_answer | apply k_settle
      | apply k_reach | apply k_entryServe | apply k_ite | simp -iota only [k_mk_iff] | split
      | refine k_of_eq (by assumption) ?_)

theorem k_execOverrideEnd (t : Nat) (lane : Nat) (s : State) (h_s : K P s) : AK P (execOverrideEnd t lane s) := by
  unfold execOverrideEnd
  with_reducible repeat' (first
      | assumption | apply ak_answer | intro _ | apply k_within | apply k_answerAt | apply k_answer | apply k_settle
      | apply k_reach | apply k_overrideServe | apply k_ite | simp -iota only [k_mk_iff] | split
      | refine k_of_eq (by assumption) ?_)

theorem k_execCalendarOccurrence (t : Nat) (lane : Nat) (s : State) (h_s : K P s) :
    AK P (execCalendarOccurrence t lane s) := by
  unfold execCalendarOccurrence
  with_reducible repeat' (first
      | assumption | apply ak_answer | intro _ | apply k_within | apply k_answerAt | apply k_answer | apply k_settle
      | apply k_reach | apply k_calendarServe | apply k_ite | simp -iota only [k_mk_iff] | split
      | refine k_of_eq (by assumption) ?_)

theorem k_execSunCompute (t : Nat) (lane : Nat) (s : State) (h_s : K P s) : AK P (execSunCompute t lane s) := by
  unfold execSunCompute
  with_reducible repeat' (first
      | assumption | apply ak_answer | intro _ | apply k_within | apply k_answerAt | apply k_answer | apply k_settle
      | apply k_reach | apply k_sunServe | apply k_ite | simp -iota only [k_mk_iff] | split
      | refine k_of_eq (by assumption) ?_)

theorem k_execSwParamWrite (req : Nat) (lane : Nat) (second : Bool) (v : Word) (s : State) (h_s : K P s) :
    AK P (execSwParamWrite req lane second v s) := by
  unfold execSwParamWrite
  with_reducible repeat' (first
      | assumption | apply ak_answer | apply k_cmdWrite | apply k_within | apply k_answer | apply k_settle
      | apply k_ite | simp -iota only [k_mk_iff] | split | refine k_of_eq (by assumption) ?_)

theorem k_execSwLimitWrite (req : Nat) (lane : Nat) (v : Word) (s : State) (h_s : K P s) :
    AK P (execSwLimitWrite req lane v s) := by
  unfold execSwLimitWrite
  with_reducible repeat' (first
      | assumption | apply ak_answer | apply k_cmdWrite | apply k_within | apply k_answer | apply k_settle
      | apply k_ite | simp -iota only [k_mk_iff] | split | refine k_of_eq (by assumption) ?_)

theorem k_execOverrideWrite (req : Nat) (lane : Nat) (node : Nat) (isEnd : Bool) (v : Word) (s : State) (h_s : K P s) :
    AK P (execOverrideWrite req lane node isEnd v s) := by
  unfold execOverrideWrite
  with_reducible repeat' (first
      | assumption | apply ak_answer | apply k_cmdWrite | apply k_within | apply k_answer | apply k_settle
      | apply k_ite | simp -iota only [k_mk_iff] | split | refine k_of_eq (by assumption) ?_)

/-! CmdHedge.lean -/

theorem k_execProducerFire (events : List (Nat × Nat)) (s : State) (h_s : K P s) :
    AK P (execProducerFire events s) := by
  unfold execProducerFire
  with_reducible repeat' (first
      | assumption | apply ak_answer | apply k_answer | apply k_settle | apply k_fire | simp -iota only [k_mk_iff])

theorem k_execTaskEnd (t : Nat) (ti : Nat) (s : State) (h_s : K P s) : AK P (execTaskEnd t ti s) := by
  unfold execTaskEnd
  with_reducible repeat' (first
      | assumption | apply ak_answer | intro _ | apply k_within | apply k_answerAt | apply k_answer | apply k_settle
      | apply k_reach | apply k_tiEnd | apply k_ite | simp -iota only [k_mk_iff] | split
      | refine k_of_eq (by assumption) ?_)

theorem k_execRefractoryEnd (t : Nat) (ti : Nat) (s : State) (h_s : K P s) : AK P (execRefractoryEnd t ti s) := by
  unfold execRefractoryEnd
  with_reducible repeat' (first
      | assumption | apply ak_answer | intro _ | apply k_within | apply k_answerAt | apply k_answer | apply k_settle
      | apply k_reach | apply k_tiRefractoryEnd | apply k_ite | simp -iota only [k_mk_iff] | split
      | refine k_of_eq (by assumption) ?_)

theorem k_execHedgeDelayIn (t : Nat) (k : Nat) (s : State) (h_s : K P s) : AK P (execHedgeDelayIn t k s) := by
  unfold execHedgeDelayIn
  with_reducible repeat' (first
      | assumption | apply ak_answer | intro _ | apply k_within | apply k_answerAt | apply k_answer | apply k_settle
      | apply k_reach | apply k_delayStart | apply k_ite | simp -iota only [k_mk_iff] | split
      | refine k_of_eq (by assumption) ?_)

theorem k_execHedgeDelayExpiry (t : Nat) (k : Nat) (s : State) (h_s : K P s) : AK P (execHedgeDelayExpiry t k s) := by
  unfold execHedgeDelayExpiry
  with_reducible repeat' (first
      | assumption | apply ak_answer | intro _ | apply k_within | apply k_answerAt | apply k_answer | apply k_settle
      | apply k_reach | apply k_delayEnd | apply k_ite | simp -iota only [k_mk_iff] | split
      | refine k_of_eq (by assumption) ?_)

theorem k_execHedgeSwFire (req : Nat) (v : Word) (s : State) (h_s : K P s) : AK P (execHedgeSwFire req v s) := by
  unfold execHedgeSwFire
  with_reducible repeat' (first
      | assumption | apply ak_answer | apply k_cmdWrite | apply k_answer | apply k_settle
      | simp -iota only [k_mk_iff])

theorem k_execSelectorWrite (req : Nat) (task : Bool) (i : Nat) (v : Word) (s : State) (h_s : K P s) :
    AK P (execSelectorWrite req task i v s) := by
  unfold execSelectorWrite
  with_reducible repeat' (first
      | assumption | apply ak_answer | apply k_cmdWrite | apply k_within | apply k_answer | apply k_settle
      | apply k_ite | simp -iota only [k_mk_iff] | split | refine k_of_eq (by assumption) ?_)

theorem k_execChannelWrite (req : Nat) (c : Nat) (v : Word) (s : State) (h_s : K P s) :
    AK P (execChannelWrite req c v s) := by
  unfold execChannelWrite
  with_reducible repeat' (first
      | assumption | apply ak_answer | apply k_cmdWrite | apply k_within | apply k_answer | apply k_settle
      | apply k_ite | simp -iota only [k_mk_iff] | split | refine k_of_eq (by assumption) ?_)

theorem k_execHc2Report (t : Nat) (s : State) (h_s : K P s) : AK P (execHc2Report t s) := by
  unfold execHc2Report
  with_reducible repeat' (first
      | assumption | apply ak_answer | intro _ | apply k_answerAt | apply k_answer | apply k_settle | apply k_reach
      | apply k_hc2Serve | simp -iota only [k_mk_iff])

theorem k_execClearPending (d : Desc) (s : State) (h_s : K P s) : AK P (execClearPending d s) := by
  unfold execClearPending
  with_reducible repeat' (first
      | assumption | apply ak_answer | apply k_answer | apply k_settle | apply k_submit | simp -iota only [k_mk_iff])

theorem k_execHedgeCountersClear (d : Desc) (s : State) (h_s : K P s) : AK P (execHedgeCountersClear d s) := by
  unfold execHedgeCountersClear
  with_reducible repeat' (first
      | assumption | apply ak_answer | apply k_answer | apply k_settle | apply k_submit | simp -iota only [k_mk_iff])

theorem k_execJournalMarkInput (t : Nat) (k : Nat) (s : State) (h_s : K P s) : AK P (execJournalMarkInput t k s) := by
  unfold execJournalMarkInput
  with_reducible repeat' (first
      | assumption | apply ak_answer | intro _ | apply k_answerAt | apply k_answer | apply k_settle
      | apply k_journalMark | apply k_reach | simp -iota only [k_mk_iff])

/-! CmdQueue.lean -/

theorem k_laneFiled (s : State) (l type : Nat) (h_s : K P s) : K P (laneFiled s l type) := by
  unfold laneFiled
  with_reducible repeat' (first
      | assumption | apply k_fire1 | apply k_fire | simp -iota only [k_mk_iff] | split
      | refine k_of_eq (by assumption) ?_)

theorem k_hwCommit (s : State) (req q : Nat) (ws : List Dword) (h_s : K P s) : K P (hwCommit s req q ws) := by
  unfold hwCommit
  with_reducible repeat' (first
      | assumption | apply k_laneFiled | apply k_hwOffer | apply k_ite | apply k_ite1 | simp -iota only [k_mk_iff]
      | split | refine k_of_eq (by assumption) ?_)

theorem k_execHwPacketCommit (req : Nat) (q : Nat) (words : List Dword) (s : State) (h_s : K P s) :
    AK P (execHwPacketCommit req q words s) := by
  unfold execHwPacketCommit
  with_reducible repeat' (first
      | assumption | apply ak_answer | apply k_hwCommit | apply k_answer | apply k_settle
      | simp -iota only [k_mk_iff])

theorem k_execFlush (d : Desc) (s : State) (h_s : K P s) : AK P (execFlush d s) := by
  unfold execFlush
  with_reducible repeat' (first
      | assumption | apply ak_answer | apply k_answer | apply k_settle | apply k_submit | simp -iota only [k_mk_iff])

theorem k_execQueueStatus (d : Desc) (s : State) (h_s : K P s) : AK P (execQueueStatus d s) := by
  unfold execQueueStatus
  with_reducible repeat' (first
      | assumption | apply ak_answer | apply k_answer | apply k_settle | apply k_submit | simp -iota only [k_mk_iff])

theorem k_execQueueReset (d : Desc) (s : State) (h_s : K P s) : AK P (execQueueReset d s) := by
  unfold execQueueReset
  with_reducible repeat' (first
      | assumption | apply ak_answer | apply k_answer | apply k_settle | apply k_submit | simp -iota only [k_mk_iff])

theorem k_execPoolAudit (d : Desc) (s : State) (h_s : K P s) : AK P (execPoolAudit d s) := by
  unfold execPoolAudit
  with_reducible repeat' (first
      | assumption | apply ak_answer | apply k_answer | apply k_settle | apply k_submit | simp -iota only [k_mk_iff])

theorem k_execQengCountersClear (d : Desc) (s : State) (h_s : K P s) : AK P (execQengCountersClear d s) := by
  unfold execQengCountersClear
  with_reducible repeat' (first
      | assumption | apply ak_answer | apply k_answer | apply k_settle | apply k_submit | simp -iota only [k_mk_iff])

theorem k_execScrubPass (t : Nat) (run : ScrubRun) (s : State) (h_s : K P s) :
    AK P (execScrubPass t run s) := by
  unfold execScrubPass
  with_reducible repeat' (first
      | assumption | apply ak_answer | intro _ | apply k_within | apply k_answerAt | apply k_answer | apply k_settle
      | apply k_reach | apply k_scrubPass | apply k_ite | simp -iota only [k_mk_iff] | split
      | refine k_of_eq (by assumption) ?_)

theorem k_execRecalTimer (t : Nat) (ch : Nat) (eye : Nat) (group : Nat) (s : State) (h_s : K P s) :
    AK P (execRecalTimer t ch eye group s) := by
  unfold execRecalTimer
  with_reducible repeat' (first
      | assumption | apply ak_answer | intro _ | apply k_within | apply k_answerAt | apply k_answer | apply k_settle
      | apply k_reach | apply k_recalTimer | apply k_ite | simp -iota only [k_mk_iff] | split
      | refine k_of_eq (by assumption) ?_)

theorem k_execBulkScrubPass (t : Nat) (run : ScrubRun) (s : State) (h_s : K P s) :
    AK P (execBulkScrubPass t run s) := by
  unfold execBulkScrubPass
  with_reducible repeat' (first
      | assumption | apply ak_answer | intro _ | apply k_within | apply k_answerAt | apply k_answer | apply k_settle
      | apply k_reach | apply k_bulkScrub | apply k_ite | simp -iota only [k_mk_iff] | split
      | refine k_of_eq (by assumption) ?_)

theorem k_execRecalibrate (ch : Nat) (d : Desc) (eye : Nat) (group : Nat) (s : State) (h_s : K P s) :
    AK P (execRecalibrate ch d eye group s) := by
  unfold execRecalibrate
  with_reducible repeat' (first
      | assumption | apply ak_answer | apply k_within | apply k_answer | apply k_settle | apply k_submit
      | apply k_ite | simp -iota only [k_mk_iff] | split | refine k_of_eq (by assumption) ?_)

theorem k_execFill (ch : Nat) (d : Desc) (s : State) (h_s : K P s) : AK P (execFill ch d s) := by
  unfold execFill
  with_reducible repeat' (first
      | assumption | apply ak_answer | apply k_within | apply k_answer | apply k_settle | apply k_submit
      | apply k_ite | simp -iota only [k_mk_iff] | split | refine k_of_eq (by assumption) ?_)

theorem k_execQdrCountersClear (ch : Nat) (d : Desc) (s : State) (h_s : K P s) :
    AK P (execQdrCountersClear ch d s) := by
  unfold execQdrCountersClear
  with_reducible repeat' (first
      | assumption | apply ak_answer | apply k_within | apply k_answer | apply k_settle | apply k_submit
      | apply k_ite | simp -iota only [k_mk_iff] | split | refine k_of_eq (by assumption) ?_)

/-! CmdLife.lean -/

theorem k_execLifeIdApply (t : Nat) (s : State) (h_s : K P s) : AK P (execLifeIdApply t s) := by
  unfold execLifeIdApply
  with_reducible repeat' (first
      | assumption | apply ak_answer | intro _ | apply k_answerAt | apply k_answer | apply k_settle | apply k_reach
      | apply k_intakeServe | simp -iota only [k_mk_iff])

theorem k_execLifeEnergyApply (t : Nat) (s : State) (h_s : K P s) : AK P (execLifeEnergyApply t s) := by
  unfold execLifeEnergyApply
  with_reducible repeat' (first
      | assumption | apply ak_answer | intro _ | apply k_answerAt | apply k_answer | apply k_settle | apply k_reach
      | apply k_intakeServe | simp -iota only [k_mk_iff])

theorem k_execLifeNoticeCommit (t : Nat) (s : State) (h_s : K P s) : AK P (execLifeNoticeCommit t s) := by
  unfold execLifeNoticeCommit
  with_reducible repeat' (first
      | assumption | apply ak_answer | intro _ | apply k_answerAt | apply k_answer | apply k_settle | apply k_reach
      | apply k_noticeServe | simp -iota only [k_mk_iff])

theorem k_execLifeExport (t : Nat) (s : State) (h_s : K P s) : AK P (execLifeExport t s) := by
  unfold execLifeExport
  with_reducible repeat' (first
      | assumption | apply ak_answer | intro _ | apply k_answerAt | apply k_answer | apply k_settle | apply k_reach
      | apply k_exportServe | simp -iota only [k_mk_iff])

theorem k_execLifeModelRecompute (t : Nat) (s : State) (h_s : K P s) : AK P (execLifeModelRecompute t s) := by
  unfold execLifeModelRecompute
  with_reducible repeat' (first
      | assumption | apply ak_answer | intro _ | apply k_answerAt | apply k_answer | apply k_settle | apply k_reach
      | apply k_recomputeServe | simp -iota only [k_mk_iff])

theorem k_execCapRefresh (t : Nat) (s : State) (h_s : K P s) : AK P (execCapRefresh t s) := by
  unfold execCapRefresh
  with_reducible repeat' (first
      | assumption | apply ak_answer | intro _ | apply k_answerAt | apply k_answer | apply k_settle | apply k_reach
      | apply k_capServe | simp -iota only [k_mk_iff])

theorem k_execReadRecord (d : Desc) (s : State) (h_s : K P s) : AK P (execReadRecord d s) := by
  unfold execReadRecord
  with_reducible repeat' (first
      | assumption | apply ak_answer | apply k_answer | apply k_settle | apply k_submit | simp -iota only [k_mk_iff])

theorem k_execReadRetired (d : Desc) (s : State) (h_s : K P s) : AK P (execReadRetired d s) := by
  unfold execReadRetired
  with_reducible repeat' (first
      | assumption | apply ak_answer | apply k_answer | apply k_settle | apply k_submit | simp -iota only [k_mk_iff])

theorem k_execRegisterModule (d : Desc) (s : State) (h_s : K P s) : AK P (execRegisterModule d s) := by
  unfold execRegisterModule
  with_reducible repeat' (first
      | assumption | apply ak_answer | apply k_answer | apply k_settle | apply k_submit | simp -iota only [k_mk_iff])

theorem k_execCloseRecord (d : Desc) (s : State) (h_s : K P s) : AK P (execCloseRecord d s) := by
  unfold execCloseRecord
  with_reducible repeat' (first
      | assumption | apply ak_answer | apply k_answer | apply k_settle | apply k_submit | simp -iota only [k_mk_iff])

theorem k_execExportAll (d : Desc) (s : State) (h_s : K P s) : AK P (execExportAll d s) := by
  unfold execExportAll
  with_reducible repeat' (first
      | assumption | apply ak_answer | apply k_answer | apply k_settle | apply k_submit | simp -iota only [k_mk_iff])

theorem k_execLifeCountersClear (d : Desc) (s : State) (h_s : K P s) : AK P (execLifeCountersClear d s) := by
  unfold execLifeCountersClear
  with_reducible repeat' (first
      | assumption | apply ak_answer | apply k_answer | apply k_settle | apply k_submit | simp -iota only [k_mk_iff])

/-! CmdStats.lean -/

theorem k_userServe (s : State) (k : Nat) (h_s : K P s) : K P (userServe s k) := by
  unfold userServe
  with_reducible repeat' (first
      | assumption | apply k_tiEnd | apply k_bankAdd | apply k_ite | simp -iota only [k_mk_iff] | split
      | refine k_of_eq (by assumption) ?_)

theorem k_execWindowSummary (t : Nat) (lane : Nat) (n : Nat) (s : State) (h_s : K P s) :
    AK P (execWindowSummary t lane n s) := by
  unfold execWindowSummary
  with_reducible repeat' (first
      | assumption | apply ak_answer | intro _ | apply k_within | apply k_answerAt | apply k_answer | apply k_settle
      | apply k_reach | apply k_windowTimeout | apply k_ite | simp -iota only [k_mk_iff] | split
      | refine k_of_eq (by assumption) ?_)

theorem k_execCyclingClear (t : Nat) (lane : Nat) (n : Nat) (s : State) (h_s : K P s) :
    AK P (execCyclingClear t lane n s) := by
  unfold execCyclingClear
  with_reducible repeat' (first
      | assumption | apply ak_answer | intro _ | apply k_within | apply k_answerAt | apply k_answer | apply k_settle
      | apply k_reach | apply k_cyclingServe | apply k_ite | simp -iota only [k_mk_iff] | split
      | refine k_of_eq (by assumption) ?_)

theorem k_execNodeMissingTimeout (t : Nat) (lane : Nat) (s : State) (h_s : K P s) :
    AK P (execNodeMissingTimeout t lane s) := by
  unfold execNodeMissingTimeout
  with_reducible repeat' (first
      | assumption | apply ak_answer | intro _ | apply k_within | apply k_answerAt | apply k_answer | apply k_settle
      | apply k_reach | apply k_missingServe | apply k_ite | simp -iota only [k_mk_iff] | split
      | refine k_of_eq (by assumption) ?_)

theorem k_execLinkingBreakTimeout (t : Nat) (lane : Nat) (s : State) (h_s : K P s) :
    AK P (execLinkingBreakTimeout t lane s) := by
  unfold execLinkingBreakTimeout
  with_reducible repeat' (first
      | assumption | apply ak_answer | intro _ | apply k_within | apply k_answerAt | apply k_answer | apply k_settle
      | apply k_reach | apply k_missingServe | apply k_ite | simp -iota only [k_mk_iff] | split
      | refine k_of_eq (by assumption) ?_)

theorem k_execFaultPacketCommit (t : Nat) (s : State) (h_s : K P s) : AK P (execFaultPacketCommit t s) := by
  unfold execFaultPacketCommit
  with_reducible repeat' (first
      | assumption | apply ak_answer | intro _ | apply k_answerAt | apply k_answer | apply k_settle | apply k_reach
      | apply k_faultCommit | simp -iota only [k_mk_iff])

theorem k_execAckFault (d : Desc) (s : State) (h_s : K P s) : AK P (execAckFault d s) := by
  unfold execAckFault
  with_reducible repeat' (first
      | assumption | apply ak_answer | apply k_answer | apply k_settle | apply k_submit | simp -iota only [k_mk_iff])

theorem k_execReadFault (d : Desc) (s : State) (h_s : K P s) : AK P (execReadFault d s) := by
  unfold execReadFault
  with_reducible repeat' (first
      | assumption | apply ak_answer | apply k_answer | apply k_settle | apply k_submit | simp -iota only [k_mk_iff])

theorem k_execSnapshot (d : Desc) (s : State) (h_s : K P s) : AK P (execSnapshot d s) := by
  unfold execSnapshot
  with_reducible repeat' (first
      | assumption | apply ak_answer | apply k_answer | apply k_settle | apply k_submit | simp -iota only [k_mk_iff])

theorem k_execForceClear (d : Desc) (s : State) (h_s : K P s) : AK P (execForceClear d s) := by
  unfold execForceClear
  with_reducible repeat' (first
      | assumption | apply ak_answer | apply k_answer | apply k_settle | apply k_submit | simp -iota only [k_mk_iff])

theorem k_execFltCountersClear (d : Desc) (s : State) (h_s : K P s) : AK P (execFltCountersClear d s) := by
  unfold execFltCountersClear
  with_reducible repeat' (first
      | assumption | apply ak_answer | apply k_answer | apply k_settle | apply k_submit | simp -iota only [k_mk_iff])

theorem k_execSetPeriod (d : Desc) (s : State) (h_s : K P s) : AK P (execSetPeriod d s) := by
  unfold execSetPeriod
  with_reducible repeat' (first
      | assumption | apply ak_answer | apply k_answer | apply k_settle | apply k_submit | simp -iota only [k_mk_iff])

theorem k_execRedigest (d : Desc) (s : State) (h_s : K P s) : AK P (execRedigest d s) := by
  unfold execRedigest
  with_reducible repeat' (first
      | assumption | apply ak_answer | apply k_answer | apply k_settle | apply k_submit | simp -iota only [k_mk_iff])

theorem k_execPeriodBoundary (t : Nat) (s : State) (h_s : K P s) : AK P (execPeriodBoundary t s) := by
  unfold execPeriodBoundary
  with_reducible repeat' (first
      | assumption | apply ak_answer | intro _ | apply k_answerAt | apply k_answer | apply k_settle | apply k_reach
      | apply k_periodBoundary | simp -iota only [k_mk_iff])

theorem k_execUserCount (t : Nat) (k : Nat) (s : State) (h_s : K P s) : AK P (execUserCount t k s) := by
  unfold execUserCount
  with_reducible repeat' (first
      | assumption | apply ak_answer | intro _ | apply k_userServe | apply k_answerAt | apply k_answer
      | apply k_settle | apply k_reach | simp -iota only [k_mk_iff])

/-! CmdPower.lean -/

theorem k_pathReady (s : State) (h_s : K P s) : K P (pathReady s) := by
  unfold pathReady
  with_reducible repeat' (first
      | assumption | intro _ | apply k_sequencer | apply k0_of | apply And.intro | apply mantleWf_intro
      | apply wf_mstaging | apply wf_slotA | apply wf_slotB | apply we_memWrite | apply wf_memWrite | apply wf_flashWrite
      | exact k_true (by assumption) | apply k_ite | simp -iota only [k_mk_iff] | simp -iota only [k_mantle_iff]
      | split | refine k_of_eq (by assumption) ?_)

theorem k_execPaceWindowEnd (t : Nat) (m : Nat) (rate : Nat) (running : Nat) (waiting : Nat) (s : State) (h_s : K P s) :
    AK P (execPaceWindowEnd t m rate running waiting s) := by
  unfold execPaceWindowEnd
  with_reducible repeat' (first
      | assumption | apply ak_answer | intro _ | apply k_within | apply k_answerAt | apply k_answer | apply k_settle
      | apply k_reach | apply k_paceWindow | apply k_ite | simp -iota only [k_mk_iff] | split
      | refine k_of_eq (by assumption) ?_)

theorem k_execPaceMinClear (req : Nat) (m : Nat) (s : State) (h_s : K P s) : AK P (execPaceMinClear req m s) := by
  unfold execPaceMinClear
  with_reducible repeat' (first
      | assumption | apply ak_answer | apply k_cmdWrite | apply k_within | apply k_answer | apply k_settle
      | apply k_ite | simp -iota only [k_mk_iff] | split | refine k_of_eq (by assumption) ?_)

theorem k_execReloadCore (m : Nat) (d : Desc) (s : State) (h_s : K P s) : AK P (execReloadCore m d s) := by
  unfold execReloadCore
  with_reducible repeat' (first
      | assumption | apply ak_answer | apply k_within | apply k_answer | apply k_settle | apply k_submit
      | apply k_ite | simp -iota only [k_mk_iff] | split | refine k_of_eq (by assumption) ?_)

theorem k_execMeadowCountersClear (m : Nat) (d : Desc) (s : State) (h_s : K P s) :
    AK P (execMeadowCountersClear m d s) := by
  unfold execMeadowCountersClear
  with_reducible repeat' (first
      | assumption | apply ak_answer | apply k_within | apply k_answer | apply k_settle | apply k_submit
      | apply k_ite | simp -iota only [k_mk_iff] | split | refine k_of_eq (by assumption) ?_)

theorem k_execMeadowStart (m : Nat) (d : Desc) (s : State) (h_s : K P s) : AK P (execMeadowStart m d s) := by
  unfold execMeadowStart
  with_reducible repeat' (first
      | assumption | apply ak_answer | apply k_within | apply k_answer | apply k_settle | apply k_submit
      | apply k_ite | simp -iota only [k_mk_iff] | split | refine k_of_eq (by assumption) ?_)

theorem k_execMeadowStop (m : Nat) (d : Desc) (s : State) (h_s : K P s) : AK P (execMeadowStop m d s) := by
  unfold execMeadowStop
  with_reducible repeat' (first
      | assumption | apply ak_answer | apply k_within | apply k_answer | apply k_settle | apply k_submit
      | apply k_ite | simp -iota only [k_mk_iff] | split | refine k_of_eq (by assumption) ?_)

theorem k_execDomainSwitchOn (req : Nat) (dom : Nat) (s : State) (h_s : K P s) :
    AK P (execDomainSwitchOn req dom s) := by
  unfold execDomainSwitchOn
  with_reducible repeat' (first
      | assumption | apply ak_answer | apply k_cmdWrite | apply k_within | apply k_answer | apply k_settle
      | apply k_ite | simp -iota only [k_mk_iff] | split | refine k_of_eq (by assumption) ?_)

theorem k_execDomainSwitchOff (req : Nat) (dom : Nat) (s : State) (h_s : K P s) :
    AK P (execDomainSwitchOff req dom s) := by
  unfold execDomainSwitchOff
  with_reducible repeat' (first
      | assumption | apply ak_answer | apply k_cmdWrite | apply k_within | apply k_answer | apply k_settle
      | apply k_ite | simp -iota only [k_mk_iff] | split | refine k_of_eq (by assumption) ?_)

theorem k_execPowerDownDrained (t : Nat) (dom : Nat) (s : State) (h_s : K P s) :
    AK P (execPowerDownDrained t dom s) := by
  unfold execPowerDownDrained
  with_reducible repeat' (first
      | assumption | apply ak_answer | intro _ | apply k_within | apply k_answerAt | apply k_answer | apply k_settle
      | apply k_reach | apply k_powerDrained | apply k_ite | simp -iota only [k_mk_iff] | split
      | refine k_of_eq (by assumption) ?_)

theorem k_execPowerGood (t : Nat) (dom : Nat) (s : State) (h_s : K P s) : AK P (execPowerGood t dom s) := by
  unfold execPowerGood
  with_reducible repeat' (first
      | assumption | apply ak_answer | intro _ | apply k_within | apply k_answerAt | apply k_answer | apply k_settle
      | apply k_reach | apply k_powerGood | apply k_ite | simp -iota only [k_mk_iff] | split
      | refine k_of_eq (by assumption) ?_)

theorem k_execPowerGoodTimeout (t : Nat) (dom : Nat) (s : State) (h_s : K P s) :
    AK P (execPowerGoodTimeout t dom s) := by
  unfold execPowerGoodTimeout
  with_reducible repeat' (first
      | assumption | apply ak_answer | intro _ | apply k_within | apply k_answerAt | apply k_answer | apply k_settle
      | apply k_reach | apply k_powerGoodTimeout | apply k_ite | simp -iota only [k_mk_iff] | split
      | refine k_of_eq (by assumption) ?_)

theorem k_execXrefReady (t : Nat) (s : State) (h_s : K P s) : AK P (execXrefReady t s) := by
  unfold execXrefReady
  with_reducible repeat' (first
      | assumption | apply ak_answer | intro _ | apply k_answerAt | apply k_answer | apply k_settle | apply k_reach
      | apply k_xrefReady | simp -iota only [k_mk_iff])

theorem k_execXrefTimeout (t : Nat) (s : State) (h_s : K P s) : AK P (execXrefTimeout t s) := by
  unfold execXrefTimeout
  with_reducible repeat' (first
      | assumption | apply ak_answer | intro _ | apply k_answerAt | apply k_answer | apply k_settle | apply k_reach
      | apply k_xrefTimeout | simp -iota only [k_mk_iff])

theorem k_execPllLock (t : Nat) (dom : Nat) (s : State) (h_s : K P s) : AK P (execPllLock t dom s) := by
  unfold execPllLock
  with_reducible repeat' (first
      | assumption | apply ak_answer | intro _ | apply k_within | apply k_answerAt | apply k_answer | apply k_settle
      | apply k_reach | apply k_pllLock | apply k_ite | simp -iota only [k_mk_iff] | split
      | refine k_of_eq (by assumption) ?_)

theorem k_execPllLockTimeout (t : Nat) (dom : Nat) (s : State) (h_s : K P s) : AK P (execPllLockTimeout t dom s) := by
  unfold execPllLockTimeout
  with_reducible repeat' (first
      | assumption | apply ak_answer | intro _ | apply k_within | apply k_answerAt | apply k_answer | apply k_settle
      | apply k_reach | apply k_pllTimeout | apply k_ite | simp -iota only [k_mk_iff] | split
      | refine k_of_eq (by assumption) ?_)

theorem k_execOwnStartDone (t : Nat) (dom : Nat) (failed : Nat) (eye : Nat) (group : Nat) (s : State) (h_s : K P s) :
    AK P (execOwnStartDone t dom failed eye group s) := by
  unfold execOwnStartDone
  with_reducible repeat' (first
      | assumption | apply ak_answer | intro _ | apply k_within | apply k_answerAt | apply k_answer | apply k_settle
      | apply k_failed | apply k_reach | apply k_ownStart | apply k_ite | simp -iota only [k_mk_iff] | split
      | refine k_of_eq (by assumption) ?_)

theorem k_execOwnStartTimeout (t : Nat) (dom : Nat) (s : State) (h_s : K P s) :
    AK P (execOwnStartTimeout t dom s) := by
  unfold execOwnStartTimeout
  with_reducible repeat' (first
      | assumption | apply ak_answer | intro _ | apply k_within | apply k_answerAt | apply k_answer | apply k_settle
      | apply k_reach | apply k_ownTimeout | apply k_ite | simp -iota only [k_mk_iff] | split
      | refine k_of_eq (by assumption) ?_)

theorem k_execRetryRestart (t : Nat) (dom : Nat) (s : State) (h_s : K P s) : AK P (execRetryRestart t dom s) := by
  unfold execRetryRestart
  with_reducible repeat' (first
      | assumption | apply ak_answer | intro _ | apply k_within | apply k_answerAt | apply k_answer | apply k_settle
      | apply k_reach | apply k_retryRestart | apply k_ite | simp -iota only [k_mk_iff] | split
      | refine k_of_eq (by assumption) ?_)

theorem k_execDevModeWrite (req : Nat) (v : Word) (s : State) (h_s : K P s) : AK P (execDevModeWrite req v s) := by
  unfold execDevModeWrite
  with_reducible repeat' (first
      | assumption | apply ak_answer | apply k_cmdWrite | apply k_answer | apply k_settle
      | simp -iota only [k_mk_iff])

theorem k_execDescentComplete (t : Nat) (s : State) (h_s : K P s) : AK P (execDescentComplete t s) := by
  unfold execDescentComplete
  with_reducible repeat' (first
      | assumption | apply ak_answer | intro _ | apply k_answerAt | apply k_answer | apply k_settle | apply k_reach
      | apply k_descentComplete | simp -iota only [k_mk_iff])

theorem k_execLevelChangeDone (t : Nat) (m : Nat) (s : State) (h_s : K P s) : AK P (execLevelChangeDone t m s) := by
  unfold execLevelChangeDone
  with_reducible repeat' (first
      | assumption | apply ak_answer | intro _ | apply k_within | apply k_answerAt | apply k_answer | apply k_settle
      | apply k_reach | apply k_levelDone | apply k_ite | simp -iota only [k_mk_iff] | split
      | refine k_of_eq (by assumption) ?_)

theorem k_execLatHoldExpiry (t : Nat) (m : Nat) (s : State) (h_s : K P s) : AK P (execLatHoldExpiry t m s) := by
  unfold execLatHoldExpiry
  with_reducible repeat' (first
      | assumption | apply ak_answer | intro _ | apply k_within | apply k_answerAt | apply k_answer | apply k_settle
      | apply k_reach | apply k_latExpire | apply k_ite | simp -iota only [k_mk_iff] | split
      | refine k_of_eq (by assumption) ?_)

theorem k_execPaceEvent (t : Nat) (m : Nat) (s : State) (h_s : K P s) : AK P (execPaceEvent t m s) := by
  unfold execPaceEvent
  with_reducible repeat' (first
      | assumption | apply ak_answer | intro _ | apply k_within | apply k_answerAt | apply k_answer | apply k_settle
      | apply k_reach | apply k_paceEvent | apply k_ite | simp -iota only [k_mk_iff] | split
      | refine k_of_eq (by assumption) ?_)

theorem k_execGovWrite (req : Nat) (m : Nat) (v : Word) (s : State) (h_s : K P s) :
    AK P (execGovWrite req m v s) := by
  unfold execGovWrite
  with_reducible repeat' (first
      | assumption | apply ak_answer | apply k_cmdWrite | apply k_within | apply k_answer | apply k_settle
      | apply k_ite | simp -iota only [k_mk_iff] | split | refine k_of_eq (by assumption) ?_)

theorem k_execRetryDomain (d : Desc) (s : State) (h_s : K P s) : AK P (execRetryDomain d s) := by
  unfold execRetryDomain
  with_reducible repeat' (first
      | assumption | apply ak_answer | apply k_answer | apply k_settle | apply k_submit | simp -iota only [k_mk_iff])

theorem k_execHeathCountersClear (d : Desc) (s : State) (h_s : K P s) : AK P (execHeathCountersClear d s) := by
  unfold execHeathCountersClear
  with_reducible repeat' (first
      | assumption | apply ak_answer | apply k_answer | apply k_settle | apply k_submit | simp -iota only [k_mk_iff])

theorem k_execXrefStop (t : Nat) (restarted : Bool) (s : State) (h_s : K P s) :
    AK P (execXrefStop t restarted s) := by
  unfold execXrefStop
  with_reducible repeat' (first
      | assumption | apply ak_answer | intro _ | apply k_answerAt | apply k_answer | apply k_settle | apply k_reach
      | apply k_xrefStop | simp -iota only [k_mk_iff])

theorem k_execImageReloadPathReady (t : Nat) (s : State) (h_s : K P s) : AK P (execImageReloadPathReady t s) := by
  unfold execImageReloadPathReady
  with_reducible repeat' (first
      | assumption | apply ak_answer | intro _ | apply k_pathReady | apply k_answerAt | apply k_answer
      | apply k_settle | apply k_reach | simp -iota only [k_mk_iff])

/-! CmdPins.lean -/

theorem k_execPadGroupRelease (req : Nat) (k : Nat) (s : State) (h_s : K P s) :
    AK P (execPadGroupRelease req k s) := by
  unfold execPadGroupRelease
  with_reducible repeat' (first
      | assumption | apply ak_answer | apply k_cmdWrite | apply k_within | apply k_answer | apply k_settle
      | apply k_ite | simp -iota only [k_mk_iff] | split | refine k_of_eq (by assumption) ?_)

theorem k_execGpioEdge (t : Nat) (g : Nat) (level : Bool) (s : State) (h_s : K P s) :
    AK P (execGpioEdge t g level s) := by
  unfold execGpioEdge
  with_reducible repeat' (first
      | assumption | apply ak_answer | intro _ | apply k_within | apply k_answerAt | apply k_answer | apply k_settle
      | apply k_reach | apply k_gpioEdge | apply k_ite | simp -iota only [k_mk_iff] | split
      | refine k_of_eq (by assumption) ?_)

theorem k_execGpioAction (t : Nat) (g : Nat) (s : State) (h_s : K P s) : AK P (execGpioAction t g s) := by
  unfold execGpioAction
  with_reducible repeat' (first
      | assumption | apply ak_answer | intro _ | apply k_within | apply k_answerAt | apply k_answer | apply k_settle
      | apply k_reach | apply k_gpioAction | apply k_ite | simp -iota only [k_mk_iff] | split
      | refine k_of_eq (by assumption) ?_)

theorem k_execGpioPulseEnd (t : Nat) (g : Nat) (s : State) (h_s : K P s) : AK P (execGpioPulseEnd t g s) := by
  unfold execGpioPulseEnd
  with_reducible repeat' (first
      | assumption | apply ak_answer | intro _ | apply k_within | apply k_answerAt | apply k_answer | apply k_settle
      | apply k_reach | apply k_gpioPulseEnd | apply k_ite | simp -iota only [k_mk_iff] | split
      | refine k_of_eq (by assumption) ?_)

theorem k_execUplinkEnergy (t : Nat) (n : Nat) (s : State) (h_s : K P s) : AK P (execUplinkEnergy t n s) := by
  unfold execUplinkEnergy
  with_reducible repeat' (first
      | assumption | apply ak_answer | intro _ | apply k_within | apply k_answerAt | apply k_answer | apply k_settle
      | apply k_reach | apply k_uplinkWake | apply k_ite | simp -iota only [k_mk_iff] | split
      | refine k_of_eq (by assumption) ?_)

theorem k_execWakePin (t : Nat) (s : State) (h_s : K P s) : AK P (execWakePin t s) := by
  unfold execWakePin
  with_reducible repeat' (first
      | assumption | apply ak_answer | intro _ | apply k_answerAt | apply k_answer | apply k_settle | apply k_reach
      | apply k_pinWake | simp -iota only [k_mk_iff])

theorem k_execWakeInput (t : Nat) (k : Nat) (s : State) (h_s : K P s) : AK P (execWakeInput t k s) := by
  unfold execWakeInput
  with_reducible repeat' (first
      | assumption | apply ak_answer | intro _ | apply k_within | apply k_answerAt | apply k_answer | apply k_settle
      | apply k_reach | apply k_inputWake | apply k_ite | simp -iota only [k_mk_iff] | split
      | refine k_of_eq (by assumption) ?_)

theorem k_execSamplerPass (t : Nat) (volts : List Nat) (s : State) (h_s : K P s) :
    AK P (execSamplerPass t volts s) := by
  unfold execSamplerPass
  with_reducible repeat' (first
      | assumption | apply ak_answer | intro _ | apply k_answerAt | apply k_answer | apply k_settle | apply k_reach
      | apply k_samplerPass | simp -iota only [k_mk_iff])

theorem k_execRunNow (t : Nat) (volts : List Nat) (s : State) (h_s : K P s) : AK P (execRunNow t volts s) := by
  unfold execRunNow
  with_reducible repeat' (first
      | assumption | apply ak_answer | intro _ | apply k_answerAt | apply k_answer | apply k_settle | apply k_reach
      | apply k_runNow | simp -iota only [k_mk_iff])

theorem k_execSamplerHold (t : Nat) (s : State) (h_s : K P s) : AK P (execSamplerHold t s) := by
  unfold execSamplerHold
  with_reducible repeat' (first
      | assumption | apply ak_answer | intro _ | apply k_answerAt | apply k_answer | apply k_settle | apply k_reach
      | apply k_smpHeld | simp -iota only [k_mk_iff])

theorem k_execSamplerRelease (t : Nat) (s : State) (h_s : K P s) : AK P (execSamplerRelease t s) := by
  unfold execSamplerRelease
  with_reducible repeat' (first
      | assumption | apply ak_answer | intro _ | apply k_answerAt | apply k_answer | apply k_settle | apply k_reach
      | apply k_smpHeld | simp -iota only [k_mk_iff])

theorem k_execClearCounts (t : Nat) (s : State) (h_s : K P s) : AK P (execClearCounts t s) := by
  unfold execClearCounts
  with_reducible repeat' (first
      | assumption | apply ak_answer | intro _ | apply k_answerAt | apply k_answer | apply k_settle | apply k_reach
      | apply k_smpClear | simp -iota only [k_mk_iff])

theorem k_execSample (d : Desc) (uv : Nat) (s : State) (h_s : K P s) : AK P (execSample d uv s) := by
  unfold execSample
  with_reducible repeat' (first
      | assumption | apply ak_answer | apply k_answer | apply k_settle | apply k_submit | simp -iota only [k_mk_iff])

theorem k_execWakeCountersClear (d : Desc) (s : State) (h_s : K P s) : AK P (execWakeCountersClear d s) := by
  unfold execWakeCountersClear
  with_reducible repeat' (first
      | assumption | apply ak_answer | apply k_answer | apply k_settle | apply k_submit | simp -iota only [k_mk_iff])

theorem k_execI2cAddressMatch (t : Nat) (s : State) (h_s : K P s) : AK P (execI2cAddressMatch t s) := by
  unfold execI2cAddressMatch
  with_reducible repeat' (first
      | assumption | apply ak_answer | intro _ | apply k_answerAt | apply k_answer | apply k_settle | apply k_reach
      | apply k_i2cWake | simp -iota only [k_mk_iff])

/-! CmdSeam.lean -/

theorem k_clockReturn (s : State) (k : Nat) (h_s : K P s) : K P (clockReturn s k) := by
  unfold clockReturn
  with_reducible repeat' (first
      | assumption | apply k_putSeam | apply k_fifoDrain | apply k_valuesGo | apply k_ite
      | simp -iota only [k_mk_iff] | split | refine k_of_eq (by assumption) ?_)

theorem k_execSeamWatchdog (t : Nat) (seen : SeamSeen) (s : State) (h_s : K P s) :
    AK P (execSeamWatchdog t seen s) := by
  unfold execSeamWatchdog
  with_reducible repeat' (first
      | assumption | apply ak_answer | intro _ | apply k_within | apply k_answerAt | apply k_answer | apply k_settle
      | apply k_reach | apply k_seamWatchdog | apply k_ite | simp -iota only [k_mk_iff] | split
      | refine k_of_eq (by assumption) ?_)

theorem k_execIslandRelease (t : Nat) (sm : Nat) (s : State) (h_s : K P s) : AK P (execIslandRelease t sm s) := by
  unfold execIslandRelease
  with_reducible repeat' (first
      | assumption | apply ak_answer | intro _ | apply k_within | apply k_answerAt | apply k_answer | apply k_settle
      | apply k_reach | apply k_islandRelease | apply k_ite | simp -iota only [k_mk_iff] | split
      | refine k_of_eq (by assumption) ?_)

theorem k_execSeamRealign (t : Nat) (sm : Nat) (s : State) (h_s : K P s) : AK P (execSeamRealign t sm s) := by
  unfold execSeamRealign
  with_reducible repeat' (first
      | assumption | apply ak_answer | intro _ | apply k_within | apply k_answerAt | apply k_answer | apply k_settle
      | apply k_reach | apply k_seamLive | apply k_ite | simp -iota only [k_mk_iff] | split
      | refine k_of_eq (by assumption) ?_)

theorem k_execIslandClockStop (t : Nat) (sm : Nat) (s : State) (h_s : K P s) : AK P (execIslandClockStop t sm s) := by
  unfold execIslandClockStop
  with_reducible repeat' (first
      | assumption | apply ak_answer | intro _ | apply k_within | apply k_answerAt | apply k_answer | apply k_settle
      | apply k_reach | apply k_clockStop | apply k_ite | simp -iota only [k_mk_iff] | split
      | refine k_of_eq (by assumption) ?_)

theorem k_execIslandClockReturn (t : Nat) (sm : Nat) (s : State) (h_s : K P s) :
    AK P (execIslandClockReturn t sm s) := by
  unfold execIslandClockReturn
  with_reducible repeat' (first
      | assumption | apply ak_answer | intro _ | apply k_clockReturn | apply k_within | apply k_answerAt
      | apply k_answer | apply k_settle | apply k_reach | apply k_ite | simp -iota only [k_mk_iff] | split
      | refine k_of_eq (by assumption) ?_)

theorem k_execSeamAccessTimeout (t : Nat) (req : Nat) (s : State) (h_s : K P s) :
    AK P (execSeamAccessTimeout t req s) := by
  unfold execSeamAccessTimeout
  with_reducible repeat' (first
      | assumption | apply ak_answer | intro _ | apply k_answerAt | apply k_answer | apply k_settle | apply k_reach
      | apply k_accessTimeout | simp -iota only [k_mk_iff])

theorem k_execSeamCountersClear (d : Desc) (s : State) (h_s : K P s) : AK P (execSeamCountersClear d s) := by
  unfold execSeamCountersClear
  with_reducible repeat' (first
      | assumption | apply ak_answer | apply k_answer | apply k_settle | apply k_submit | simp -iota only [k_mk_iff])

/-! CmdMantle.lean -/

theorem k_execStageCopy (d : Desc) (s : State) (h_s : K P s) : AK P (execStageCopy d s) := by
  unfold execStageCopy
  with_reducible repeat' (first
      | assumption | apply ak_answer | apply k_answer | apply k_settle | apply k_submit | simp -iota only [k_mk_iff])

theorem k_execApply (d : Desc) (s : State) (h_s : K P s) : AK P (execApply d s) := by
  unfold execApply
  with_reducible repeat' (first
      | assumption | apply ak_answer | apply k_answer | apply k_settle | apply k_submit | simp -iota only [k_mk_iff])

theorem k_execMantleCountersClear (d : Desc) (s : State) (h_s : K P s) : AK P (execMantleCountersClear d s) := by
  unfold execMantleCountersClear
  with_reducible repeat' (first
      | assumption | apply ak_answer | apply k_answer | apply k_settle | apply k_submit | simp -iota only [k_mk_iff])

theorem k_execClaim (d : Desc) (s : State) (h_s : K P s) : AK P (execClaim d s) := by
  unfold execClaim
  with_reducible repeat' (first
      | assumption | apply ak_answer | apply k_answer | apply k_settle | apply k_submit | simp -iota only [k_mk_iff])

theorem k_execAttest (d : Desc) (s : State) (h_s : K P s) : AK P (execAttest d s) := by
  unfold execAttest
  with_reducible repeat' (first
      | assumption | apply ak_answer | apply k_answer | apply k_settle | apply k_submit | simp -iota only [k_mk_iff])

theorem k_execDeviceCert (d : Desc) (s : State) (h_s : K P s) : AK P (execDeviceCert d s) := by
  unfold execDeviceCert
  with_reducible repeat' (first
      | assumption | apply ak_answer | apply k_answer | apply k_settle | apply k_submit | simp -iota only [k_mk_iff])

theorem k_execDebugChallenge (d : Desc) (s : State) (h_s : K P s) : AK P (execDebugChallenge d s) := by
  unfold execDebugChallenge
  with_reducible repeat' (first
      | assumption | apply ak_answer | apply k_answer | apply k_settle | apply k_submit | simp -iota only [k_mk_iff])

theorem k_execDebugUnlock (d : Desc) (s : State) (h_s : K P s) : AK P (execDebugUnlock d s) := by
  unfold execDebugUnlock
  with_reducible repeat' (first
      | assumption | apply ak_answer | apply k_answer | apply k_settle | apply k_submit | simp -iota only [k_mk_iff])

theorem k_execDebugLock (d : Desc) (s : State) (h_s : K P s) : AK P (execDebugLock d s) := by
  unfold execDebugLock
  with_reducible repeat' (first
      | assumption | apply ak_answer | apply k_answer | apply k_settle | apply k_submit | simp -iota only [k_mk_iff])

theorem k_execJournalMark (d : Desc) (s : State) (h_s : K P s) : AK P (execJournalMark d s) := by
  unfold execJournalMark
  with_reducible repeat' (first
      | assumption | apply ak_answer | apply k_answer | apply k_settle | apply k_submit | simp -iota only [k_mk_iff])

theorem k_execJournalRead (d : Desc) (s : State) (h_s : K P s) : AK P (execJournalRead d s) := by
  unfold execJournalRead
  with_reducible repeat' (first
      | assumption | apply ak_answer | apply k_answer | apply k_settle | apply k_submit | simp -iota only [k_mk_iff])

theorem k_execRevokeMakerSlot (d : Desc) (s : State) (h_s : K P s) : AK P (execRevokeMakerSlot d s) := by
  unfold execRevokeMakerSlot
  with_reducible repeat' (first
      | assumption | apply ak_answer | apply k_answer | apply k_settle | apply k_submit | simp -iota only [k_mk_iff])

theorem k_execRootStep (d : Desc) (s : State) (h_s : K P s) : AK P (execRootStep d s) := by
  unfold execRootStep
  with_reducible repeat' (first
      | assumption | apply ak_answer | apply k_answer | apply k_settle | apply k_submit | simp -iota only [k_mk_iff])

theorem k_execQuiesceAll (d : Desc) (s : State) (h_s : K P s) : AK P (execQuiesceAll d s) := by
  unfold execQuiesceAll
  with_reducible repeat' (first
      | assumption | apply ak_answer | apply k_answer | apply k_settle | apply k_submit | simp -iota only [k_mk_iff])

theorem k_execMakerDiag (d : Desc) (s : State) (h_s : K P s) : AK P (execMakerDiag d s) := by
  unfold execMakerDiag
  with_reducible repeat' (first
      | assumption | apply ak_answer | apply k_answer | apply k_settle | apply k_submit | simp -iota only [k_mk_iff])

theorem k_execSlotWrite (d : Desc) (s : State) (h_s : K P s) : AK P (execSlotWrite d s) := by
  unfold execSlotWrite
  with_reducible repeat' (first
      | assumption | apply ak_answer | apply k_answer | apply k_settle | apply k_submit | simp -iota only [k_mk_iff])

theorem k_execSlotSeal (d : Desc) (s : State) (h_s : K P s) : AK P (execSlotSeal d s) := by
  unfold execSlotSeal
  with_reducible repeat' (first
      | assumption | apply ak_answer | apply k_answer | apply k_settle | apply k_submit | simp -iota only [k_mk_iff])

theorem k_execDebugExpiry (t : Nat) (s : State) (h_s : K P s) : AK P (execDebugExpiry t s) := by
  unfold execDebugExpiry
  with_reducible repeat' (first
      | assumption | apply ak_answer | intro _ | apply k_answerAt | apply k_answer | apply k_settle | apply k_reach
      | apply k_debugExpiry | simp -iota only [k_mk_iff])

theorem k_execJournalExport (t : Nat) (s : State) (h_s : K P s) : AK P (execJournalExport t s) := by
  unfold execJournalExport
  with_reducible repeat' (first
      | assumption | apply ak_answer | intro _ | apply k_answerAt | apply k_answer | apply k_settle | apply k_reach
      | apply k_journalExport | simp -iota only [k_mk_iff])

theorem k_execJournalHeldFlush (t : Nat) (s : State) (h_s : K P s) : AK P (execJournalHeldFlush t s) := by
  unfold execJournalHeldFlush
  with_reducible repeat' (first
      | assumption | apply ak_answer | intro _ | apply k_answerAt | apply k_answer | apply k_settle | apply k_reach
      | apply k_jFlush | simp -iota only [k_mk_iff])

theorem k_execDebugAccess (t : Nat) (op : DebugOp) (s : State) (h_s : K P s) : AK P (execDebugAccess t op s) := by
  unfold execDebugAccess
  with_reducible repeat' (first
      | assumption | apply ak_answer | intro _ | apply k_answerAt | apply k_answer | apply k_settle
      | apply k_debugStep | apply k_reach | simp -iota only [k_mk_iff])

/-! CmdUplink.lean -/

theorem k_execUplinkFrameRx (t : Nat) (n : Nat) (f : EthFrame) (s : State) (h_s : K P s) :
    AK P (execUplinkFrameRx t n f s) := by
  unfold execUplinkFrameRx
  with_reducible repeat' (first
      | assumption | apply ak_answer | intro _ | apply k_within | apply k_answerAt | apply k_answer | apply k_settle
      | apply k_reach | apply k_uplFrame | apply k_ite | simp -iota only [k_mk_iff] | split
      | refine k_of_eq (by assumption) ?_)

theorem k_execPtpMessageRx (t : Nat) (n : Nat) (named : Bool) (complete : Bool) (offset : Int) (s : State) (h_s : K P s) :
    AK P (execPtpMessageRx t n named complete offset s) := by
  unfold execPtpMessageRx
  with_reducible repeat' (first
      | assumption | apply ak_answer | intro _ | apply k_within | apply k_answerAt | apply k_answer | apply k_settle
      | apply k_reach | apply k_ptpMessage | apply k_complete | apply k_ite | simp -iota only [k_mk_iff] | split
      | refine k_of_eq (by assumption) ?_)

theorem k_execPtpHoldover (t : Nat) (s : State) (h_s : K P s) : AK P (execPtpHoldover t s) := by
  unfold execPtpHoldover
  with_reducible repeat' (first
      | assumption | apply ak_answer | intro _ | apply k_answerAt | apply k_answer | apply k_settle | apply k_reach
      | apply k_ptpHoldover | simp -iota only [k_mk_iff])

theorem k_execHandoffRx (t : Nat) (n : Nat) (f : Datagram) (s : State) (h_s : K P s) :
    AK P (execHandoffRx t n f s) := by
  unfold execHandoffRx
  with_reducible repeat' (first
      | assumption | apply ak_answer | intro _ | apply k_within | apply k_answerAt | apply k_answer | apply k_settle
      | apply k_reach | apply k_handoffRx | apply k_ite | simp -iota only [k_mk_iff] | split
      | refine k_of_eq (by assumption) ?_)

theorem k_execHandoffOut (t : Nat) (n : Nat) (k : Nat) (s : State) (h_s : K P s) : AK P (execHandoffOut t n k s) := by
  unfold execHandoffOut
  with_reducible repeat' (first
      | assumption | apply ak_answer | intro _ | apply k_within | apply k_answerAt | apply k_answer | apply k_settle
      | apply k_reach | apply k_handoffOut | apply k_ite | simp -iota only [k_mk_iff] | split
      | refine k_of_eq (by assumption) ?_)

theorem k_execExportSend (t : Nat) (n : Nat) (j : Nat) (s : State) (h_s : K P s) : AK P (execExportSend t n j s) := by
  unfold execExportSend
  with_reducible repeat' (first
      | assumption | apply ak_answer | intro _ | apply k_within | apply k_answerAt | apply k_answer | apply k_settle
      | apply k_reach | apply k_exportSend | apply k_ite | simp -iota only [k_mk_iff] | split
      | refine k_of_eq (by assumption) ?_)

theorem k_execWriteStaging (n : Nat) (off : Nat) (bytes : List Byte) (s : State) (h_s : K P s) :
    AK P (execWriteStaging n off bytes s) := by
  unfold execWriteStaging
  with_reducible repeat' (first
      | assumption | apply ak_answer | apply k_within | apply k_answer | apply k_settle | apply k_mgmtStage
      | apply k_ite | simp -iota only [k_mk_iff] | split | refine k_of_eq (by assumption) ?_)

theorem k_execSubmit (t : Nat) (port : Nat) (off : Nat) (len : Nat) (s : State) (h_s : K P s) :
    AK P (execSubmit t port off len s) := by
  unfold execSubmit
  with_reducible repeat' (first
      | assumption | apply ak_answer | intro _ | apply k_answerAt | apply k_answer | apply k_settle
      | apply k_submitRequest | apply k_reach | simp -iota only [k_mk_iff])

theorem k_execRead (t : Nat) (n : Nat) (addr : Nat) (count : Nat) (s : State) (h_s : K P s) :
    AK P (execRead t n addr count s) := by
  unfold execRead
  with_reducible repeat' (first
      | assumption | apply ak_answer | intro _ | apply k_within | apply k_answerAt | apply k_answer | apply k_settle
      | apply k_uplRead | apply k_reach | apply k_ite | simp -iota only [k_mk_iff] | split
      | refine k_of_eq (by assumption) ?_)

theorem k_execUplinkLinkChange (t : Nat) (n : Nat) (up : Bool) (an : Bool) (s : State) (h_s : K P s) :
    AK P (execUplinkLinkChange t n up an s) := by
  unfold execUplinkLinkChange
  with_reducible repeat' (first
      | assumption | apply ak_answer | intro _ | apply k_within | apply k_answerAt | apply k_answer | apply k_settle
      | apply k_reach | apply k_uplLink | apply k_ite | simp -iota only [k_mk_iff] | split
      | refine k_of_eq (by assumption) ?_)

theorem k_execUplinkCountersClear (n : Nat) (d : Desc) (s : State) (h_s : K P s) :
    AK P (execUplinkCountersClear n d s) := by
  unfold execUplinkCountersClear
  with_reducible repeat' (first
      | assumption | apply ak_answer | apply k_within | apply k_answer | apply k_settle | apply k_submit
      | apply k_ite | simp -iota only [k_mk_iff] | split | refine k_of_eq (by assumption) ?_)

theorem k_execTimeSet (d : Desc) (s : State) (h_s : K P s) : AK P (execTimeSet d s) := by
  unfold execTimeSet
  with_reducible repeat' (first
      | assumption | apply ak_answer | apply k_answer | apply k_settle | apply k_submit | simp -iota only [k_mk_iff])

theorem k_execTbCountersClear (d : Desc) (s : State) (h_s : K P s) : AK P (execTbCountersClear d s) := by
  unfold execTbCountersClear
  with_reducible repeat' (first
      | assumption | apply ak_answer | apply k_answer | apply k_settle | apply k_submit | simp -iota only [k_mk_iff])

theorem k_execAlarm (t : Nat) (k : Nat) (s : State) (h_s : K P s) : AK P (execAlarm t k s) := by
  unfold execAlarm
  with_reducible repeat' (first
      | assumption | apply ak_answer | intro _ | apply k_within | apply k_answerAt | apply k_answer | apply k_settle
      | apply k_reach | apply k_alarmServe | apply k_ite | simp -iota only [k_mk_iff] | split
      | refine k_of_eq (by assumption) ?_)

theorem k_execPps (t : Nat) (s : State) (h_s : K P s) : AK P (execPps t s) := by
  unfold execPps
  with_reducible repeat' (first
      | assumption | apply ak_answer | intro _ | apply k_answerAt | apply k_answer | apply k_settle | apply k_reach
      | apply k_ppsServe | simp -iota only [k_mk_iff])

theorem k_execCapture (t : Nat) (k : Nat) (s : State) (h_s : K P s) : AK P (execCapture t k s) := by
  unfold execCapture
  with_reducible repeat' (first
      | assumption | apply ak_answer | intro _ | apply k_within | apply k_answerAt | apply k_answer | apply k_settle
      | apply k_reach | apply k_captureServe | apply k_ite | simp -iota only [k_mk_iff] | split
      | refine k_of_eq (by assumption) ?_)

theorem k_execTbRateWrite (req : Nat) (v : Word) (s : State) (h_s : K P s) : AK P (execTbRateWrite req v s) := by
  unfold execTbRateWrite
  with_reducible repeat' (first
      | assumption | apply ak_answer | apply k_cmdWrite | apply k_answer | apply k_settle
      | simp -iota only [k_mk_iff])

theorem k_execTbSecLoRead (t : Nat) (req : Nat) (s : State) (h_s : K P s) : AK P (execTbSecLoRead t req s) := by
  unfold execTbSecLoRead
  with_reducible repeat' (first
      | assumption | apply ak_answer | intro _ | apply k_answerAt | apply k_answer | apply k_settle
      | apply k_ctlRead | apply k_reach | simp -iota only [k_mk_iff])

theorem k_execRdAddrWrite (addr : Word) (s : State) (h_s : K P s) : AK P (execRdAddrWrite addr s) := by
  unfold execRdAddrWrite
  with_reducible repeat' (first
      | assumption | apply ak_answer | apply k_answer | apply k_settle | apply k_rdAddrWrite
      | simp -iota only [k_mk_iff])

theorem k_execStgDataWrite (off : Option (BitVec 24)) (bytes : List Byte) (s : State) (h_s : K P s) :
    AK P (execStgDataWrite off bytes s) := by
  unfold execStgDataWrite
  with_reducible repeat' (first
      | assumption | apply ak_answer | apply k_answer | apply k_settle | apply k_stgDataWrite
      | simp -iota only [k_mk_iff])

theorem k_execSubLenWrite (t : Nat) (off : BitVec 24) (len : Word) (s : State) (h_s : K P s) :
    AK P (execSubLenWrite t off len s) := by
  unfold execSubLenWrite
  with_reducible repeat' (first
      | assumption | apply ak_answer | intro _ | apply k_answerAt | apply k_answer | apply k_settle
      | apply k_subLenWrite | apply k_reach | simp -iota only [k_mk_iff])

/-! CmdBoot.lean -/

theorem k_execPowerOnReset (t : Nat) (loss : PowerLoss) (s : State) (h_s : K P s) :
    AK P (execPowerOnReset t loss s) := by
  unfold execPowerOnReset
  with_reducible repeat' (first
      | assumption | apply ak_answer | intro _ | apply k_answerAt | apply k_answer | apply k_settle | apply k_reach
      | apply k_powerOnReset | simp -iota only [k_mk_iff])

theorem k_execResetN (t : Nat) (s : State) (h_s : K P s) : AK P (execResetN t s) := by
  unfold execResetN
  with_reducible repeat' (first
      | assumption | apply ak_answer | intro _ | apply k_answerAt | apply k_answer | apply k_settle | apply k_reach
      | apply k_deviceReset | simp -iota only [k_mk_iff])

theorem k_execDeviceReset (d : Desc) (s : State) (h_s : K P s) : AK P (execDeviceReset d s) := by
  unfold execDeviceReset
  with_reducible repeat' (first
      | assumption | apply ak_answer | apply k_answer | apply k_settle | apply k_submit | simp -iota only [k_mk_iff])

theorem k_execDeviceResetTimer (t : Nat) (s : State) (h_s : K P s) : AK P (execDeviceResetTimer t s) := by
  unfold execDeviceResetTimer
  with_reducible repeat' (first
      | assumption | apply ak_answer | intro _ | apply k_answerAt | apply k_answer | apply k_settle | apply k_reach
      | apply k_deviceResetTimer | simp -iota only [k_mk_iff])

theorem k_execMantleRomVerify (t : Nat) (s : State) (h_s : K P s) : AK P (execMantleRomVerify t s) := by
  unfold execMantleRomVerify
  with_reducible repeat' (first
      | assumption | apply ak_answer | intro _ | apply k_answerAt | apply k_answer | apply k_settle | apply k_reach
      | apply k_romVerify | simp -iota only [k_mk_iff])

theorem k_execBootStage1 (t : Nat) (s : State) (h_s : K P s) : AK P (execBootStage1 t s) := by
  unfold execBootStage1
  with_reducible repeat' (first
      | assumption | apply ak_answer | intro _ | apply k_answerAt | apply k_answer | apply k_settle | apply k_reach
      | apply k_bootStage1 | simp -iota only [k_mk_iff])

theorem k_execBootStage2 (t : Nat) (s : State) (h_s : K P s) : AK P (execBootStage2 t s) := by
  unfold execBootStage2
  with_reducible repeat' (first
      | assumption | apply ak_answer | intro _ | apply k_answerAt | apply k_answer | apply k_settle | apply k_reach
      | apply k_bootStage2 | simp -iota only [k_mk_iff])

theorem k_execBootFallback (t : Nat) (s : State) (h_s : K P s) : AK P (execBootFallback t s) := by
  unfold execBootFallback
  with_reducible repeat' (first
      | assumption | apply ak_answer | intro _ | apply k_answerAt | apply k_answer | apply k_settle | apply k_reach
      | apply k_bootFallback | simp -iota only [k_mk_iff])

theorem k_execResetRelease (t : Nat) (bootsel : BitVec 2) (maddr : BitVec 3) (install : Bool) (s : State) (h_s : K P s) :
    AK P (execResetRelease t bootsel maddr install s) := by
  unfold execResetRelease
  with_reducible repeat' (first
      | assumption | apply ak_answer | intro _ | apply k_answerAt | apply k_answer | apply k_settle | apply k_reach
      | apply k_resetRelease | simp -iota only [k_mk_iff])

/-! CmdCore.lean -/

theorem k_settleCtl (s : State) (r : Nat) (post : Bool) (ra : Reg) (imm : BitVec 16) (x : State) (h_s : K P s) (h_x : K P x) :
    K P (settleCtl s r post ra imm x) := by
  unfold settleCtl
  with_reducible repeat' (first
      | assumption | apply k_settle | apply k_ite | simp -iota only [k_mk_iff] | split
      | refine k_of_eq (by assumption) ?_)

theorem k_execLb (r : Nat) (rd ra : Reg) (imm : BitVec 16) (s : State) (h_s : K P s) :
    AK P (execLb r rd ra imm s) := by
  unfold execLb
  with_reducible repeat' (first
      | assumption | apply ak_answer | intro _ | apply k_settleCtl | apply k_loadBody | apply k_runInstr
      | simp -iota only [k_mk_iff])

theorem k_execLbu (r : Nat) (rd ra : Reg) (imm : BitVec 16) (s : State) (h_s : K P s) :
    AK P (execLbu r rd ra imm s) := by
  unfold execLbu
  with_reducible repeat' (first
      | assumption | apply ak_answer | apply k_id | intro _ | apply k_settleCtl | apply k_loadBody
      | apply k_runInstr | simp -iota only [k_mk_iff])

theorem k_execLh (r : Nat) (rd ra : Reg) (imm : BitVec 16) (s : State) (h_s : K P s) :
    AK P (execLh r rd ra imm s) := by
  unfold execLh
  with_reducible repeat' (first
      | assumption | apply ak_answer | intro _ | apply k_settleCtl | apply k_loadBody | apply k_runInstr
      | simp -iota only [k_mk_iff])

theorem k_execLhu (r : Nat) (rd ra : Reg) (imm : BitVec 16) (s : State) (h_s : K P s) :
    AK P (execLhu r rd ra imm s) := by
  unfold execLhu
  with_reducible repeat' (first
      | assumption | apply ak_answer | apply k_id | intro _ | apply k_settleCtl | apply k_loadBody
      | apply k_runInstr | simp -iota only [k_mk_iff])

theorem k_execLw (r : Nat) (rd ra : Reg) (imm : BitVec 16) (s : State) (h_s : K P s) :
    AK P (execLw r rd ra imm s) := by
  unfold execLw
  with_reducible repeat' (first
      | assumption | apply ak_answer | apply k_id | intro _ | apply k_settleCtl | apply k_loadBody
      | apply k_runInstr | simp -iota only [k_mk_iff])

theorem k_execLbuP (r : Nat) (rd ra : Reg) (imm : BitVec 16) (s : State) (h_s : K P s) :
    AK P (execLbuP r rd ra imm s) := by
  unfold execLbuP
  with_reducible repeat' (first
      | assumption | apply ak_answer | apply k_id | intro _ | apply k_settleCtl | apply k_loadBody
      | apply k_runInstr | simp -iota only [k_mk_iff])

theorem k_execLhuP (r : Nat) (rd ra : Reg) (imm : BitVec 16) (s : State) (h_s : K P s) :
    AK P (execLhuP r rd ra imm s) := by
  unfold execLhuP
  with_reducible repeat' (first
      | assumption | apply ak_answer | apply k_id | intro _ | apply k_settleCtl | apply k_loadBody
      | apply k_runInstr | simp -iota only [k_mk_iff])

theorem k_execLwP (r : Nat) (rd ra : Reg) (imm : BitVec 16) (s : State) (h_s : K P s) :
    AK P (execLwP r rd ra imm s) := by
  unfold execLwP
  with_reducible repeat' (first
      | assumption | apply ak_answer | apply k_id | intro _ | apply k_settleCtl | apply k_loadBody
      | apply k_runInstr | simp -iota only [k_mk_iff])

theorem k_execSb (r : Nat) (rd ra : Reg) (imm : BitVec 16) (s : State) (h_s : K P s) :
    AK P (execSb r rd ra imm s) := by
  unfold execSb
  with_reducible repeat' (first
      | assumption | apply ak_answer | intro _ | apply k_settleCtl | apply k_storeBody | apply k_runInstr
      | simp -iota only [k_mk_iff])

theorem k_execSh (r : Nat) (rd ra : Reg) (imm : BitVec 16) (s : State) (h_s : K P s) :
    AK P (execSh r rd ra imm s) := by
  unfold execSh
  with_reducible repeat' (first
      | assumption | apply ak_answer | intro _ | apply k_settleCtl | apply k_storeBody | apply k_runInstr
      | simp -iota only [k_mk_iff])

theorem k_execSw (r : Nat) (rd ra : Reg) (imm : BitVec 16) (s : State) (h_s : K P s) :
    AK P (execSw r rd ra imm s) := by
  unfold execSw
  with_reducible repeat' (first
      | assumption | apply ak_answer | intro _ | apply k_settleCtl | apply k_storeBody | apply k_runInstr
      | simp -iota only [k_mk_iff])

theorem k_execSbP (r : Nat) (rd ra : Reg) (imm : BitVec 16) (s : State) (h_s : K P s) :
    AK P (execSbP r rd ra imm s) := by
  unfold execSbP
  with_reducible repeat' (first
      | assumption | apply ak_answer | intro _ | apply k_settleCtl | apply k_storeBody | apply k_runInstr
      | simp -iota only [k_mk_iff])

theorem k_execShP (r : Nat) (rd ra : Reg) (imm : BitVec 16) (s : State) (h_s : K P s) :
    AK P (execShP r rd ra imm s) := by
  unfold execShP
  with_reducible repeat' (first
      | assumption | apply ak_answer | intro _ | apply k_settleCtl | apply k_storeBody | apply k_runInstr
      | simp -iota only [k_mk_iff])

theorem k_execSwP (r : Nat) (rd ra : Reg) (imm : BitVec 16) (s : State) (h_s : K P s) :
    AK P (execSwP r rd ra imm s) := by
  unfold execSwP
  with_reducible repeat' (first
      | assumption | apply ak_answer | intro _ | apply k_settleCtl | apply k_storeBody | apply k_runInstr
      | simp -iota only [k_mk_iff])

theorem k_execQsel (r : Nat) (ra : Reg) (s : State) (h_s : K P s) : AK P (execQsel r ra s) := by
  unfold execQsel
  with_reducible repeat' (first
      | assumption | apply ak_answer | intro _ | apply k_settle | apply k_qselBody | apply k_runInstr
      | simp -iota only [k_mk_iff])

theorem k_execQput (r : Nat) (ra : Reg) (s : State) (h_s : K P s) : AK P (execQput r ra s) := by
  unfold execQput
  with_reducible repeat' (first
      | assumption | apply ak_answer | intro _ | apply k_settle | apply k_qputBody | apply k_runInstr
      | simp -iota only [k_mk_iff])

theorem k_execQend (r : Nat) (rd : Reg) (s : State) (h_s : K P s) : AK P (execQend r rd s) := by
  unfold execQend
  with_reducible repeat' (first
      | assumption | apply ak_answer | intro _ | apply k_settle | apply k_qendBody | apply k_runInstr
      | simp -iota only [k_mk_iff])

theorem k_execQrwd (r : Nat) (s : State) (h_s : K P s) : AK P (execQrwd r s) := by
  unfold execQrwd
  with_reducible repeat' (first
      | assumption | apply ak_answer | intro _ | apply k_settle | apply k_qrwdBody | apply k_runInstr
      | simp -iota only [k_mk_iff])

theorem k_execQget (r : Nat) (rd : Reg) (s : State) (h_s : K P s) : AK P (execQget r rd s) := by
  unfold execQget
  with_reducible repeat' (first
      | assumption | apply ak_answer | intro _ | apply k_settle | apply k_qgetBody | apply k_runInstr
      | simp -iota only [k_mk_iff])

theorem k_execQfl (r : Nat) (s : State) (h_s : K P s) : AK P (execQfl r s) := by
  unfold execQfl
  with_reducible repeat' (first
      | assumption | apply ak_answer | intro _ | apply k_settle | apply k_qflBody | apply k_runInstr
      | simp -iota only [k_mk_iff])

theorem k_execPushRelease (r : Nat) (s : State) (h_s : K P s) : AK P (execPushRelease r s) := by
  unfold execPushRelease
  with_reducible repeat' (first
      | assumption | apply ak_answer | apply k_answer | apply k_settle | apply k_pushRelease | apply k_ite
      | simp -iota only [k_mk_iff] | split | refine k_of_eq (by assumption) ?_)

theorem k_execSentinelFire (t r : Nat) (s : State) (h_s : K P s) : AK P (execSentinelFire t r s) := by
  unfold execSentinelFire
  with_reducible repeat' (first
      | assumption | apply ak_answer | apply k_answer | apply k_settle | apply k_sentinelFire | apply k_reach
      | apply k_ite | simp -iota only [k_mk_iff] | split | refine k_of_eq (by assumption) ?_)

end Sys2Proof.Laws
end

