-- ==== Sys2Proof/Laws/KeepExec.lean ====
section
/-! SUPPORT. Every command leaves the queue as it is and every table canonical. -/

set_option linter.all false

namespace Sys2Proof.Laws

open Sys2Proof.Machine

/-- The queue is no table. -/
theorem canonical_pending {s : State} (h : Canonical s) (q : List Instr) : Canonical { s with pending := q } := by
  cases h
  constructor <;> assumption

theorem ak_exec {P : List Instr → Prop} (i : Instr) (s : State) (h : K P s) : AK P (exec i s) := by
  cases i with
  | registerWrite req addr v => exact k_execRegisterWrite req addr v s h
  | clampLogClear req blk inst => exact k_execClampLogClear req blk inst s h
  | completionCommit req => exact k_execCompletionCommit req s h
  | heldOrderRecheck req => exact k_execHeldOrderRecheck req s h
  | paceWindowEnd t m rate running waiting => exact k_execPaceWindowEnd t m rate running waiting s h
  | paceMinClear req m => exact k_execPaceMinClear req m s h
  | dataRx t lane f => exact k_execDataRx t lane f s h
  | detRx t lane f => exact k_execDetRx t lane f s h
  | fltRx t lane f => exact k_execFltRx t lane f s h
  | rspRx t lane f => exact k_execRspRx t lane f s h
  | idRx t lane f => exact k_execIdRx t lane f s h
  | energyRx t lane f => exact k_execEnergyRx t lane f s h
  | statusRx t lane f => exact k_execStatusRx t lane f s h
  | enumReportRx t lane f => exact k_execEnumReportRx t lane f s h
  | enumAckRx t lane f => exact k_execEnumAckRx t lane f s h
  | delayAckRx t lane f => exact k_execDelayAckRx t lane f s h
  | bulkFileRelease t lane => exact k_execBulkFileRelease t lane s h
  | creditStallTimer t lane => exact k_execCreditStallTimer t lane s h
  | creditSend t lane => exact k_execCreditSend t lane s h
  | syncSend t lane => exact k_execSyncSend t lane s h
  | syncNow t lane => exact k_execSyncNow t lane s h
  | enumWindowClose t lane => exact k_execEnumWindowClose t lane s h
  | sweepTimer t lane => exact k_execSweepTimer t lane s h
  | sweepNow t lane => exact k_execSweepNow t lane s h
  | cmdSend t lane => exact k_execCmdSend t lane s h
  | cmdTimeout t lane tag => exact k_execCmdTimeout t lane tag s h
  | tagQuarantineEnd t lane tag => exact k_execTagQuarantineEnd t lane tag s h
  | releaseReportTimeout t lane n => exact k_execReleaseReportTimeout t lane n s h
  | linkUp t lane has24 has10 => exact k_execLinkUp t lane has24 has10 s h
  | linkDown t lane => exact k_execLinkDown t lane s h
  | linkAttemptTimeout t lane => exact k_execLinkAttemptTimeout t lane s h
  | laneStart lane d => exact k_execLaneStart lane d s h
  | laneStop lane d => exact k_execLaneStop lane d s h
  | laneEnumerate lane d => exact k_execLaneEnumerate lane d s h
  | sendCmd lane d => exact k_execSendCmd lane d s h
  | setStream lane d => exact k_execSetStream lane d s h
  | releaseNode lane d => exact k_execReleaseNode lane d s h
  | lineTdr lane d result => exact k_execLineTdr lane d result s h
  | laneCountersClear lane d => exact k_execLaneCountersClear lane d s h
  | laneEnergyDetect t seen => exact k_execLaneEnergyDetect t seen s h
  | laneWakePattern t seen => exact k_execLaneWakePattern t seen s h
  | raiseFrameSend t lane => exact k_execRaiseFrameSend t lane s h
  | gatherWindowClose t lane => exact k_execGatherWindowClose t lane s h
  | gatherCapRelease t lane => exact k_execGatherCapRelease t lane s h
  | catchupFrameSend t lane => exact k_execCatchupFrameSend t lane s h
  | holdExpiry t lane => exact k_execHoldExpiry t lane s h
  | fadeEnd t lane => exact k_execFadeEnd t lane s h
  | entry t lane k => exact k_execEntry t lane k s h
  | overrideEnd t lane => exact k_execOverrideEnd t lane s h
  | calendarOccurrence t lane => exact k_execCalendarOccurrence t lane s h
  | sunCompute t lane => exact k_execSunCompute t lane s h
  | swParamWrite req lane second v => exact k_execSwParamWrite req lane second v s h
  | swLimitWrite req lane v => exact k_execSwLimitWrite req lane v s h
  | overrideWrite req lane node isEnd v => exact k_execOverrideWrite req lane node isEnd v s h
  | producerFire events => exact k_execProducerFire events s h
  | taskEnd t ti => exact k_execTaskEnd t ti s h
  | refractoryEnd t ti => exact k_execRefractoryEnd t ti s h
  | hedgeDelayIn t k => exact k_execHedgeDelayIn t k s h
  | hedgeDelayExpiry t k => exact k_execHedgeDelayExpiry t k s h
  | hedgeSwFire req v => exact k_execHedgeSwFire req v s h
  | selectorWrite req task k v => exact k_execSelectorWrite req task k v s h
  | channelWrite req c v => exact k_execChannelWrite req c v s h
  | hc2Report t => exact k_execHc2Report t s h
  | clearPending d => exact k_execClearPending d s h
  | hedgeCountersClear d => exact k_execHedgeCountersClear d s h
  | journalMarkInput t k => exact k_execJournalMarkInput t k s h
  | qsel r ra => exact k_execQsel r ra s h
  | qput r ra => exact k_execQput r ra s h
  | qend r rd => exact k_execQend r rd s h
  | qrwd r => exact k_execQrwd r s h
  | qget r rd => exact k_execQget r rd s h
  | qcnt r rd => exact k_execQcnt r rd s h
  | qcntw r rd => exact k_execQcntw r rd s h
  | qfl r => exact k_execQfl r s h
  | pushRelease r => exact k_execPushRelease r s h
  | hwPacketCommit req q words => exact k_execHwPacketCommit req q words s h
  | flush d => exact k_execFlush d s h
  | queueStatus d => exact k_execQueueStatus d s h
  | queueReset d => exact k_execQueueReset d s h
  | poolAudit d => exact k_execPoolAudit d s h
  | qengCountersClear d => exact k_execQengCountersClear d s h
  | scrubPass t run => exact k_execScrubPass t run s h
  | recalTimer t ch eye group => exact k_execRecalTimer t ch eye group s h
  | recalibrate ch d eye group => exact k_execRecalibrate ch d eye group s h
  | fill ch d => exact k_execFill ch d s h
  | qdrCountersClear ch d => exact k_execQdrCountersClear ch d s h
  | bulkScrubPass t run => exact k_execBulkScrubPass t run s h
  | lifeIdApply t => exact k_execLifeIdApply t s h
  | lifeEnergyApply t => exact k_execLifeEnergyApply t s h
  | lifeNoticeCommit t => exact k_execLifeNoticeCommit t s h
  | lifeExport t => exact k_execLifeExport t s h
  | lifeModelRecompute t => exact k_execLifeModelRecompute t s h
  | capRefresh t => exact k_execCapRefresh t s h
  | readRecord d => exact k_execReadRecord d s h
  | readRetired d => exact k_execReadRetired d s h
  | registerModule d => exact k_execRegisterModule d s h
  | closeRecord d => exact k_execCloseRecord d s h
  | exportAll d => exact k_execExportAll d s h
  | lifeCountersClear d => exact k_execLifeCountersClear d s h
  | windowSummary t lane n => exact k_execWindowSummary t lane n s h
  | cyclingClear t lane n => exact k_execCyclingClear t lane n s h
  | nodeMissingTimeout t lane => exact k_execNodeMissingTimeout t lane s h
  | linkingBreakTimeout t lane => exact k_execLinkingBreakTimeout t lane s h
  | faultPacketCommit t => exact k_execFaultPacketCommit t s h
  | ackFault d => exact k_execAckFault d s h
  | readFault d => exact k_execReadFault d s h
  | snapshot d => exact k_execSnapshot d s h
  | forceClear d => exact k_execForceClear d s h
  | fltCountersClear d => exact k_execFltCountersClear d s h
  | periodBoundary t => exact k_execPeriodBoundary t s h
  | setPeriod d => exact k_execSetPeriod d s h
  | redigest d => exact k_execRedigest d s h
  | userCount t k => exact k_execUserCount t k s h
  | add r rd ra rb => exact k_execAdd r rd ra rb s h
  | sub r rd ra rb => exact k_execSub r rd ra rb s h
  | and r rd ra rb => exact k_execAnd r rd ra rb s h
  | or r rd ra rb => exact k_execOr r rd ra rb s h
  | xor r rd ra rb => exact k_execXor r rd ra rb s h
  | nor r rd ra rb => exact k_execNor r rd ra rb s h
  | slt r rd ra rb => exact k_execSlt r rd ra rb s h
  | sltu r rd ra rb => exact k_execSltu r rd ra rb s h
  | sll r rd ra rb => exact k_execSll r rd ra rb s h
  | srl r rd ra rb => exact k_execSrl r rd ra rb s h
  | sra r rd ra rb => exact k_execSra r rd ra rb s h
  | slli r rd ra sh => exact k_execSlli r rd ra sh s h
  | srli r rd ra sh => exact k_execSrli r rd ra sh s h
  | srai r rd ra sh => exact k_execSrai r rd ra sh s h
  | mul r rd ra rb => exact k_execMul r rd ra rb s h
  | mulh r rd ra rb => exact k_execMulh r rd ra rb s h
  | mulhu r rd ra rb => exact k_execMulhu r rd ra rb s h
  | div r rd ra rb => exact k_execDiv r rd ra rb s h
  | divu r rd ra rb => exact k_execDivu r rd ra rb s h
  | rem r rd ra rb => exact k_execRem r rd ra rb s h
  | remu r rd ra rb => exact k_execRemu r rd ra rb s h
  | min r rd ra rb => exact k_execMin r rd ra rb s h
  | max r rd ra rb => exact k_execMax r rd ra rb s h
  | minu r rd ra rb => exact k_execMinu r rd ra rb s h
  | maxu r rd ra rb => exact k_execMaxu r rd ra rb s h
  | clz r rd ra => exact k_execClz r rd ra s h
  | sextb r rd ra => exact k_execSextb r rd ra s h
  | sexth r rd ra => exact k_execSexth r rd ra s h
  | addi r rd ra imm => exact k_execAddi r rd ra imm s h
  | andi r rd ra imm => exact k_execAndi r rd ra imm s h
  | ori r rd ra imm => exact k_execOri r rd ra imm s h
  | xori r rd ra imm => exact k_execXori r rd ra imm s h
  | slti r rd ra imm => exact k_execSlti r rd ra imm s h
  | sltiu r rd ra imm => exact k_execSltiu r rd ra imm s h
  | lui r rd imm => exact k_execLui r rd imm s h
  | lb r rd ra imm => exact k_execLb r rd ra imm s h
  | lbu r rd ra imm => exact k_execLbu r rd ra imm s h
  | lh r rd ra imm => exact k_execLh r rd ra imm s h
  | lhu r rd ra imm => exact k_execLhu r rd ra imm s h
  | lw r rd ra imm => exact k_execLw r rd ra imm s h
  | lbuP r rd ra imm => exact k_execLbuP r rd ra imm s h
  | lhuP r rd ra imm => exact k_execLhuP r rd ra imm s h
  | lwP r rd ra imm => exact k_execLwP r rd ra imm s h
  | sb r rd ra imm => exact k_execSb r rd ra imm s h
  | sh r rd ra imm => exact k_execSh r rd ra imm s h
  | sw r rd ra imm => exact k_execSw r rd ra imm s h
  | sbP r rd ra imm => exact k_execSbP r rd ra imm s h
  | shP r rd ra imm => exact k_execShP r rd ra imm s h
  | swP r rd ra imm => exact k_execSwP r rd ra imm s h
  | beq r ra rb off => exact k_execBeq r ra rb off s h
  | bne r ra rb off => exact k_execBne r ra rb off s h
  | blt r ra rb off => exact k_execBlt r ra rb off s h
  | bge r ra rb off => exact k_execBge r ra rb off s h
  | bltu r ra rb off => exact k_execBltu r ra rb off s h
  | bgeu r ra rb off => exact k_execBgeu r ra rb off s h
  | j r off => exact k_execJ r off s h
  | jal r off => exact k_execJal r off s h
  | jr r ra => exact k_execJr r ra s h
  | jalr r rd ra => exact k_execJalr r rd ra s h
  | call r mask off => exact k_execCall r mask off s h
  | ret r mask => exact k_execRet r mask s h
  | macs r ac ra rb => exact k_execMacs r ac ra rb s h
  | macu r ac ra rb => exact k_execMacu r ac ra rb s h
  | msus r ac ra rb => exact k_execMsus r ac ra rb s h
  | muls r ac ra rb => exact k_execMuls r ac ra rb s h
  | macx r ac ra rb => exact k_execMacx r ac ra rb s h
  | macm r ac ra rb => exact k_execMacm r ac ra rb s h
  | msum r ac ra rb => exact k_execMsum r ac ra rb s h
  | mtac r ac ra rb => exact k_execMtac r ac ra rb s h
  | mfacl r ac rd => exact k_execMfacl r ac rd s h
  | mfach r ac rd => exact k_execMfach r ac rd s h
  | mfacs r ac rd sh => exact k_execMfacs r ac rd sh s h
  | acclr r ac => exact k_execAcclr r ac s h
  | tas r rd ra => exact k_execTas r rd ra s h
  | lrW r rd ra => exact k_execLrW r rd ra s h
  | scW r rd ra rb => exact k_execScW r rd ra rb s h
  | nop r => exact k_execNop r s h
  | wait r => exact k_execWait r s h
  | waitWake t r => exact k_execWaitWake t r s h
  | svc r code => exact k_execSvc r code s h
  | brk r code => exact k_execBrk r code s h
  | rett r => exact k_execRett r s h
  | mfsr r rd sr => exact k_execMfsr r rd sr s h
  | mtsr r sr ra => exact k_execMtsr r sr ra s h
  | sync r => exact k_execSync r s h
  | evack r j => exact k_execEvack r j s h
  | rep r m ra cnt => exact k_execRep r m ra cnt s h
  | illegalInstruction r w => exact k_execIllegalInstruction r w s h
  | hedgerowEventInputTrap r => exact k_execHedgerowEventInputTrap r s h
  | meadowMailboxTrap r => exact k_execMeadowMailboxTrap r s h
  | storeBufferDrain r => exact k_execStoreBufferDrain r s h
  | coreCntClear r => exact k_execCoreCntClear r s h
  | sentinelFire t r => exact k_execSentinelFire t r s h
  | reloadCore m d => exact k_execReloadCore m d s h
  | meadowCountersClear m d => exact k_execMeadowCountersClear m d s h
  | domainSwitchOn req dom => exact k_execDomainSwitchOn req dom s h
  | domainSwitchOff req dom => exact k_execDomainSwitchOff req dom s h
  | powerDownDrained t dom => exact k_execPowerDownDrained t dom s h
  | powerGood t dom => exact k_execPowerGood t dom s h
  | powerGoodTimeout t dom => exact k_execPowerGoodTimeout t dom s h
  | xrefReady t => exact k_execXrefReady t s h
  | xrefTimeout t => exact k_execXrefTimeout t s h
  | pllLock t dom => exact k_execPllLock t dom s h
  | pllLockTimeout t dom => exact k_execPllLockTimeout t dom s h
  | ownStartDone t dom failed eye group => exact k_execOwnStartDone t dom failed eye group s h
  | ownStartTimeout t dom => exact k_execOwnStartTimeout t dom s h
  | retryRestart t dom => exact k_execRetryRestart t dom s h
  | devModeWrite req v => exact k_execDevModeWrite req v s h
  | descentComplete t => exact k_execDescentComplete t s h
  | levelChangeDone t m => exact k_execLevelChangeDone t m s h
  | latHoldExpiry t m => exact k_execLatHoldExpiry t m s h
  | paceEvent t m => exact k_execPaceEvent t m s h
  | govWrite req m v => exact k_execGovWrite req m v s h
  | retryDomain d => exact k_execRetryDomain d s h
  | heathCountersClear d => exact k_execHeathCountersClear d s h
  | meadowStart m d => exact k_execMeadowStart m d s h
  | meadowStop m d => exact k_execMeadowStop m d s h
  | padGroupRelease req k => exact k_execPadGroupRelease req k s h
  | gpioEdge t g level => exact k_execGpioEdge t g level s h
  | gpioAction t g => exact k_execGpioAction t g s h
  | gpioPulseEnd t g => exact k_execGpioPulseEnd t g s h
  | uplinkEnergy t n => exact k_execUplinkEnergy t n s h
  | wakePin t => exact k_execWakePin t s h
  | wakeInput t k => exact k_execWakeInput t k s h
  | xrefStop t restarted => exact k_execXrefStop t restarted s h
  | samplerPass t volts => exact k_execSamplerPass t volts s h
  | runNow t volts => exact k_execRunNow t volts s h
  | samplerHold t => exact k_execSamplerHold t s h
  | samplerRelease t => exact k_execSamplerRelease t s h
  | clearCounts t => exact k_execClearCounts t s h
  | sample d uv => exact k_execSample d uv s h
  | wakeCountersClear d => exact k_execWakeCountersClear d s h
  | seamWatchdog t seen => exact k_execSeamWatchdog t seen s h
  | islandRelease t sm => exact k_execIslandRelease t sm s h
  | seamRealign t sm => exact k_execSeamRealign t sm s h
  | islandClockStop t sm => exact k_execIslandClockStop t sm s h
  | islandClockReturn t sm => exact k_execIslandClockReturn t sm s h
  | seamAccessTimeout t req => exact k_execSeamAccessTimeout t req s h
  | seamCountersClear d => exact k_execSeamCountersClear d s h
  | stageCopy d => exact k_execStageCopy d s h
  | apply d => exact k_execApply d s h
  | mantleCountersClear d => exact k_execMantleCountersClear d s h
  | claim d => exact k_execClaim d s h
  | attest d => exact k_execAttest d s h
  | deviceCert d => exact k_execDeviceCert d s h
  | debugChallenge d => exact k_execDebugChallenge d s h
  | debugUnlock d => exact k_execDebugUnlock d s h
  | debugLock d => exact k_execDebugLock d s h
  | debugExpiry t => exact k_execDebugExpiry t s h
  | journalMark d => exact k_execJournalMark d s h
  | journalRead d => exact k_execJournalRead d s h
  | revokeMakerSlot d => exact k_execRevokeMakerSlot d s h
  | rootStep d => exact k_execRootStep d s h
  | quiesceAll d => exact k_execQuiesceAll d s h
  | makerDiag d => exact k_execMakerDiag d s h
  | journalExport t => exact k_execJournalExport t s h
  | journalHeldFlush t => exact k_execJournalHeldFlush t s h
  | uplinkFrameRx t n f => exact k_execUplinkFrameRx t n f s h
  | ptpMessageRx t n named complete offset => exact k_execPtpMessageRx t n named complete offset s h
  | ptpHoldover t => exact k_execPtpHoldover t s h
  | handoffRx t n f => exact k_execHandoffRx t n f s h
  | handoffOut t n k => exact k_execHandoffOut t n k s h
  | exportSend t n j => exact k_execExportSend t n j s h
  | writeStaging n off bytes => exact k_execWriteStaging n off bytes s h
  | submit t port off len => exact k_execSubmit t port off len s h
  | read t n addr count => exact k_execRead t n addr count s h
  | uplinkLinkChange t n up an => exact k_execUplinkLinkChange t n up an s h
  | uplinkCountersClear n d => exact k_execUplinkCountersClear n d s h
  | timeSet d => exact k_execTimeSet d s h
  | tbCountersClear d => exact k_execTbCountersClear d s h
  | alarm t k => exact k_execAlarm t k s h
  | pps t => exact k_execPps t s h
  | capture t k => exact k_execCapture t k s h
  | tbRateWrite req v => exact k_execTbRateWrite req v s h
  | tbSecLoRead t req => exact k_execTbSecLoRead t req s h
  | i2cAddressMatch t => exact k_execI2cAddressMatch t s h
  | rdAddrWrite addr => exact k_execRdAddrWrite addr s h
  | stgDataWrite off bytes => exact k_execStgDataWrite off bytes s h
  | subLenWrite t off len => exact k_execSubLenWrite t off len s h
  | powerOnReset t loss => exact k_execPowerOnReset t loss s h
  | resetN t => exact k_execResetN t s h
  | deviceReset d => exact k_execDeviceReset d s h
  | deviceResetTimer t => exact k_execDeviceResetTimer t s h
  | mantleRomVerify t => exact k_execMantleRomVerify t s h
  | bootStage1 t => exact k_execBootStage1 t s h
  | bootStage2 t => exact k_execBootStage2 t s h
  | bootFallback t => exact k_execBootFallback t s h
  | slotWrite d => exact k_execSlotWrite d s h
  | slotSeal d => exact k_execSlotSeal d s h
  | enumAckTimeout t lane n => exact k_execEnumAckTimeout t lane n s h
  | debugAccess t op => exact k_execDebugAccess t op s h
  | frameLeft t lane => exact k_execFrameLeft t lane s h
  | imageReloadPathReady t => exact k_execImageReloadPathReady t s h
  | resetRelease t bootsel maddr install => exact k_execResetRelease t bootsel maddr install s h

end Sys2Proof.Laws
end

