-- ==== Sys2Proof/Laws/Orders.lean ====
section
/-! SUPPORT. What becomes of an order, from its submission on. -/

set_option linter.all false

namespace Sys2Proof.Laws

open Sys2Proof.Machine

/-- An order that the port takes and that finds its requester's turn and Mantle free goes to step 1. -/
theorem submit_begins {s : State} {b : Blk} {i op : Nat} {d : Desc} (m : Meas) (h0 : submits d.req b op = true)
    (h1 : orderStalls s b i d.req = false) (h2 : orderOpen s b i d.req = false)
    (h3 : mantleBusy s b = false) : submit s b i op d m = orderFrom1 (opened s b i op d) b i op d m := by
  unfold submit
  rw [h0, h1, h2]
  show orderBegin s ⟨b, i, op, d⟩ m = _
  unfold orderBegin
  have h4 : mantleBusy ({ s with orders := s.orders ++ [⟨b, i, op, d⟩] } : State) b = false := h3
  dsimp only
  rw [if_neg (by rw [h4]; exact Bool.false_ne_true)]

theorem orderOver_plain {u : State} {b : Blk} {i op : Nat} {d : Desc} (c r : Nat) (x : List Dword) (h : ¬(b = .mantle ∧ op = 2)) :
    orderOver u b i op d c r x = complete u b i op d c r x := by
  unfold orderOver
  rw [if_neg (fun k => h ⟨k.1, k.2.1⟩)]

theorem orderEnd_fin {u : State} {b : Blk} {i op : Nat} {d : Desc} (c r : Nat) (x : List Dword) (h : ¬(b = .mantle ∧ op = 2)) :
    orderEnd (fin u c r x) b i op d = complete u b i op d c r x := by
  show orderOver u b i op d c r x = _
  unfold orderOver
  rw [if_neg (fun k => h ⟨k.1, k.2.1⟩)]

/-- A requester whose right is found submits orders. -/
theorem right_submits {u : State} {b : Blk} {i op : Nat} {d : Desc} (h : orderRight u b i op d = true) : submits d.req b op = true := by
  unfold orderRight at h
  simp only [Bool.and_eq_true] at h
  exact h.1.1.1

theorem from1_taken {u : State} {b : Blk} {i op : Nat} {d : Desc} (m : Meas) (h1 : orderForm u b op d = true) (h2 : orderRight u b i op d = true) :
    orderFrom1 u b i op d m = orderFrom3 u b i op d m := by
  unfold orderFrom1
  rw [h1, h2]
  rfl

/-- An order that goes through does its block's work, and its answer becomes the completion. -/
theorem submit_taken {s : State} {b : Blk} {i op : Nat} {d : Desc} (m : Meas) (h : Taken s b i op d) (h2 : ¬(b = .mantle ∧ op = 2))
    (h3 : ¬(b = .heath ∧ op = 0x10 ∧ d.target.toNat = 49)) :
    submit s b i op d m = orderEnd (orderBody b i op d m (logged s b i op d m)) b i op d := by
  rw [submit_begins m (right_submits h.right) h.flows h.turn h.free, from1_taken m h.form h.right]
  unfold orderFrom3
  rw [h.legal]
  dsimp only
  have aw : (orderJournaled b op d && d.wake && !(opened s b i op d).domOn 49 && decide (((opened s b i op d).dom 49).st ≠ .faulted)) = false := by
    have := h.awake
    cases hj : orderJournaled b op d <;> cases hw : d.wake
    · rfl
    · rfl
    · rfl
    · rw [hw] at this
      have e : (!(opened s b i op d).domOn 49) = false := this
      rw [e]; rfl
  rw [aw]
  show orderFrom4 (opened s b i op d) b i op d m = _
  unfold orderFrom4 logged
  rw [if_neg h2]
  cases hj : orderJournaled b op d
  · rfl
  · rw [if_neg (by intro k; exact Bool.noConfusion k), if_neg h3, h.room hj]
    rfl

/-- The command of an order submits it. -/
theorem exec_order {c : Instr} {o : OrderRef} {m : Meas} (s : State) (h : orderIn c = some (o, m)) :
    exec c s = answer (submit s o.blk o.inst o.op o.d m) := by
  cases c with
  | laneStart l d =>
    have e : (if l < 144 then some ((⟨.lane, l, 1, d⟩ : OrderRef), ({} : Meas)) else none) = some (o, m) := h
    split at e
    · next k =>
      injection e with e; injection e with e1 e2; subst e1; subst e2
      exact congrArg answer (if_pos (decide_eq_true k))
    · exact nomatch e
  | laneStop l d =>
    have e : (if l < 144 then some ((⟨.lane, l, 2, d⟩ : OrderRef), ({} : Meas)) else none) = some (o, m) := h
    split at e
    · next k =>
      injection e with e; injection e with e1 e2; subst e1; subst e2
      exact congrArg answer (if_pos (decide_eq_true k))
    · exact nomatch e
  | laneEnumerate l d =>
    have e : (if l < 144 then some ((⟨.lane, l, 3, d⟩ : OrderRef), ({} : Meas)) else none) = some (o, m) := h
    split at e
    · next k =>
      injection e with e; injection e with e1 e2; subst e1; subst e2
      exact congrArg answer (if_pos (decide_eq_true k))
    · exact nomatch e
  | sendCmd l d =>
    have e : (if l < 144 then some ((⟨.lane, l, 4, d⟩ : OrderRef), ({} : Meas)) else none) = some (o, m) := h
    split at e
    · next k =>
      injection e with e; injection e with e1 e2; subst e1; subst e2
      exact congrArg answer (if_pos (decide_eq_true k))
    · exact nomatch e
  | setStream l d =>
    have e : (if l < 144 then some ((⟨.lane, l, 5, d⟩ : OrderRef), ({} : Meas)) else none) = some (o, m) := h
    split at e
    · next k =>
      injection e with e; injection e with e1 e2; subst e1; subst e2
      exact congrArg answer (if_pos (decide_eq_true k))
    · exact nomatch e
  | releaseNode l d =>
    have e : (if l < 144 then some ((⟨.lane, l, 6, d⟩ : OrderRef), ({} : Meas)) else none) = some (o, m) := h
    split at e
    · next k =>
      injection e with e; injection e with e1 e2; subst e1; subst e2
      exact congrArg answer (if_pos (decide_eq_true k))
    · exact nomatch e
  | lineTdr l d v =>
    have e : (if l < 144 then some ((⟨.lane, l, 7, d⟩ : OrderRef), ({ tdr := v } : Meas)) else none) = some (o, m) := h
    split at e
    · next k =>
      injection e with e; injection e with e1 e2; subst e1; subst e2
      exact congrArg answer (if_pos (decide_eq_true k))
    · exact nomatch e
  | laneCountersClear l d =>
    have e : (if l < 144 then some ((⟨.lane, l, 8, d⟩ : OrderRef), ({} : Meas)) else none) = some (o, m) := h
    split at e
    · next k =>
      injection e with e; injection e with e1 e2; subst e1; subst e2
      exact congrArg answer (if_pos (decide_eq_true k))
    · exact nomatch e
  | clearPending d =>
    have e : some ((⟨.hedge, 0, 2, d⟩ : OrderRef), ({} : Meas)) = some (o, m) := h
    injection e with e; injection e with e1 e2; subst e1; subst e2
    rfl
  | hedgeCountersClear d =>
    have e : some ((⟨.hedge, 0, 1, d⟩ : OrderRef), ({} : Meas)) = some (o, m) := h
    injection e with e; injection e with e1 e2; subst e1; subst e2
    rfl
  | flush d =>
    have e : some ((⟨.qeng, 0, 1, d⟩ : OrderRef), ({} : Meas)) = some (o, m) := h
    injection e with e; injection e with e1 e2; subst e1; subst e2
    rfl
  | queueStatus d =>
    have e : some ((⟨.qeng, 0, 2, d⟩ : OrderRef), ({} : Meas)) = some (o, m) := h
    injection e with e; injection e with e1 e2; subst e1; subst e2
    rfl
  | queueReset d =>
    have e : some ((⟨.qeng, 0, 3, d⟩ : OrderRef), ({} : Meas)) = some (o, m) := h
    injection e with e; injection e with e1 e2; subst e1; subst e2
    rfl
  | poolAudit d =>
    have e : some ((⟨.qeng, 0, 4, d⟩ : OrderRef), ({} : Meas)) = some (o, m) := h
    injection e with e; injection e with e1 e2; subst e1; subst e2
    rfl
  | qengCountersClear d =>
    have e : some ((⟨.qeng, 0, 5, d⟩ : OrderRef), ({} : Meas)) = some (o, m) := h
    injection e with e; injection e with e1 e2; subst e1; subst e2
    rfl
  | recalibrate l d e g =>
    have e : (if l < 4 then some ((⟨.qdr, l, 2, d⟩ : OrderRef), ({ eye := e, group := g } : Meas)) else none) = some (o, m) := h
    split at e
    · next k =>
      injection e with e; injection e with e1 e2; subst e1; subst e2
      exact congrArg answer (if_pos (decide_eq_true k))
    · exact nomatch e
  | fill l d =>
    have e : (if l < 4 then some ((⟨.qdr, l, 1, d⟩ : OrderRef), ({} : Meas)) else none) = some (o, m) := h
    split at e
    · next k =>
      injection e with e; injection e with e1 e2; subst e1; subst e2
      exact congrArg answer (if_pos (decide_eq_true k))
    · exact nomatch e
  | qdrCountersClear l d =>
    have e : (if l < 4 then some ((⟨.qdr, l, 3, d⟩ : OrderRef), ({} : Meas)) else none) = some (o, m) := h
    split at e
    · next k =>
      injection e with e; injection e with e1 e2; subst e1; subst e2
      exact congrArg answer (if_pos (decide_eq_true k))
    · exact nomatch e
  | readRecord d =>
    have e : some ((⟨.life, 0, 1, d⟩ : OrderRef), ({} : Meas)) = some (o, m) := h
    injection e with e; injection e with e1 e2; subst e1; subst e2
    rfl
  | readRetired d =>
    have e : some ((⟨.life, 0, 2, d⟩ : OrderRef), ({} : Meas)) = some (o, m) := h
    injection e with e; injection e with e1 e2; subst e1; subst e2
    rfl
  | registerModule d =>
    have e : some ((⟨.life, 0, 3, d⟩ : OrderRef), ({} : Meas)) = some (o, m) := h
    injection e with e; injection e with e1 e2; subst e1; subst e2
    rfl
  | closeRecord d =>
    have e : some ((⟨.life, 0, 4, d⟩ : OrderRef), ({} : Meas)) = some (o, m) := h
    injection e with e; injection e with e1 e2; subst e1; subst e2
    rfl
  | exportAll d =>
    have e : some ((⟨.life, 0, 5, d⟩ : OrderRef), ({} : Meas)) = some (o, m) := h
    injection e with e; injection e with e1 e2; subst e1; subst e2
    rfl
  | lifeCountersClear d =>
    have e : some ((⟨.life, 0, 6, d⟩ : OrderRef), ({} : Meas)) = some (o, m) := h
    injection e with e; injection e with e1 e2; subst e1; subst e2
    rfl
  | ackFault d =>
    have e : some ((⟨.stat, 0, 64, d⟩ : OrderRef), ({} : Meas)) = some (o, m) := h
    injection e with e; injection e with e1 e2; subst e1; subst e2
    rfl
  | readFault d =>
    have e : some ((⟨.stat, 0, 65, d⟩ : OrderRef), ({} : Meas)) = some (o, m) := h
    injection e with e; injection e with e1 e2; subst e1; subst e2
    rfl
  | snapshot d =>
    have e : some ((⟨.stat, 0, 66, d⟩ : OrderRef), ({} : Meas)) = some (o, m) := h
    injection e with e; injection e with e1 e2; subst e1; subst e2
    rfl
  | forceClear d =>
    have e : some ((⟨.stat, 0, 67, d⟩ : OrderRef), ({} : Meas)) = some (o, m) := h
    injection e with e; injection e with e1 e2; subst e1; subst e2
    rfl
  | fltCountersClear d =>
    have e : some ((⟨.stat, 0, 68, d⟩ : OrderRef), ({} : Meas)) = some (o, m) := h
    injection e with e; injection e with e1 e2; subst e1; subst e2
    rfl
  | setPeriod d =>
    have e : some ((⟨.stat, 0, 1, d⟩ : OrderRef), ({} : Meas)) = some (o, m) := h
    injection e with e; injection e with e1 e2; subst e1; subst e2
    rfl
  | redigest d =>
    have e : some ((⟨.stat, 0, 2, d⟩ : OrderRef), ({} : Meas)) = some (o, m) := h
    injection e with e; injection e with e1 e2; subst e1; subst e2
    rfl
  | reloadCore l d =>
    have e : (if l < 32 then some ((⟨.meadow, l, 1, d⟩ : OrderRef), ({} : Meas)) else none) = some (o, m) := h
    split at e
    · next k =>
      injection e with e; injection e with e1 e2; subst e1; subst e2
      exact congrArg answer (if_pos (decide_eq_true k))
    · exact nomatch e
  | meadowCountersClear l d =>
    have e : (if l < 32 then some ((⟨.meadow, l, 2, d⟩ : OrderRef), ({} : Meas)) else none) = some (o, m) := h
    split at e
    · next k =>
      injection e with e; injection e with e1 e2; subst e1; subst e2
      exact congrArg answer (if_pos (decide_eq_true k))
    · exact nomatch e
  | meadowStart l d =>
    have e : (if l < 32 then some ((⟨.meadow, l, 32, d⟩ : OrderRef), ({} : Meas)) else none) = some (o, m) := h
    split at e
    · next k =>
      injection e with e; injection e with e1 e2; subst e1; subst e2
      exact congrArg answer (if_pos (decide_eq_true k))
    · exact nomatch e
  | meadowStop l d =>
    have e : (if l < 32 then some ((⟨.meadow, l, 33, d⟩ : OrderRef), ({} : Meas)) else none) = some (o, m) := h
    split at e
    · next k =>
      injection e with e; injection e with e1 e2; subst e1; subst e2
      exact congrArg answer (if_pos (decide_eq_true k))
    · exact nomatch e
  | retryDomain d =>
    have e : some ((⟨.heath, 0, 16, d⟩ : OrderRef), ({} : Meas)) = some (o, m) := h
    injection e with e; injection e with e1 e2; subst e1; subst e2
    rfl
  | heathCountersClear d =>
    have e : some ((⟨.heath, 0, 17, d⟩ : OrderRef), ({} : Meas)) = some (o, m) := h
    injection e with e; injection e with e1 e2; subst e1; subst e2
    rfl
  | sample d v =>
    have e : some ((⟨.heath, 0, 49, d⟩ : OrderRef), ({ uv := v } : Meas)) = some (o, m) := h
    injection e with e; injection e with e1 e2; subst e1; subst e2
    rfl
  | wakeCountersClear d =>
    have e : some ((⟨.heath, 0, 48, d⟩ : OrderRef), ({} : Meas)) = some (o, m) := h
    injection e with e; injection e with e1 e2; subst e1; subst e2
    rfl
  | timeSet d =>
    have e : some ((⟨.heath, 0, 64, d⟩ : OrderRef), ({} : Meas)) = some (o, m) := h
    injection e with e; injection e with e1 e2; subst e1; subst e2
    rfl
  | tbCountersClear d =>
    have e : some ((⟨.heath, 0, 65, d⟩ : OrderRef), ({} : Meas)) = some (o, m) := h
    injection e with e; injection e with e1 e2; subst e1; subst e2
    rfl
  | seamCountersClear d =>
    have e : some ((⟨.seam, 0, 1, d⟩ : OrderRef), ({} : Meas)) = some (o, m) := h
    injection e with e; injection e with e1 e2; subst e1; subst e2
    rfl
  | uplinkCountersClear l d =>
    have e : (if l < 4 then some ((⟨.upl, l, 1, d⟩ : OrderRef), ({} : Meas)) else none) = some (o, m) := h
    split at e
    · next k =>
      injection e with e; injection e with e1 e2; subst e1; subst e2
      exact congrArg answer (if_pos (decide_eq_true k))
    · exact nomatch e
  | deviceReset d =>
    have e : some ((⟨.pad, 0, 1, d⟩ : OrderRef), ({} : Meas)) = some (o, m) := h
    injection e with e; injection e with e1 e2; subst e1; subst e2
    rfl
  | stageCopy d =>
    have e : some ((⟨.mantle, 0, 1, d⟩ : OrderRef), ({} : Meas)) = some (o, m) := h
    injection e with e; injection e with e1 e2; subst e1; subst e2
    rfl
  | apply d =>
    have e : some ((⟨.mantle, 0, 2, d⟩ : OrderRef), ({} : Meas)) = some (o, m) := h
    injection e with e; injection e with e1 e2; subst e1; subst e2
    rfl
  | mantleCountersClear d =>
    have e : some ((⟨.mantle, 0, 3, d⟩ : OrderRef), ({} : Meas)) = some (o, m) := h
    injection e with e; injection e with e1 e2; subst e1; subst e2
    rfl
  | claim d =>
    have e : some ((⟨.mantle, 0, 16, d⟩ : OrderRef), ({} : Meas)) = some (o, m) := h
    injection e with e; injection e with e1 e2; subst e1; subst e2
    rfl
  | attest d =>
    have e : some ((⟨.mantle, 0, 17, d⟩ : OrderRef), ({} : Meas)) = some (o, m) := h
    injection e with e; injection e with e1 e2; subst e1; subst e2
    rfl
  | deviceCert d =>
    have e : some ((⟨.mantle, 0, 18, d⟩ : OrderRef), ({} : Meas)) = some (o, m) := h
    injection e with e; injection e with e1 e2; subst e1; subst e2
    rfl
  | debugChallenge d =>
    have e : some ((⟨.mantle, 0, 19, d⟩ : OrderRef), ({} : Meas)) = some (o, m) := h
    injection e with e; injection e with e1 e2; subst e1; subst e2
    rfl
  | debugUnlock d =>
    have e : some ((⟨.mantle, 0, 20, d⟩ : OrderRef), ({} : Meas)) = some (o, m) := h
    injection e with e; injection e with e1 e2; subst e1; subst e2
    rfl
  | debugLock d =>
    have e : some ((⟨.mantle, 0, 21, d⟩ : OrderRef), ({} : Meas)) = some (o, m) := h
    injection e with e; injection e with e1 e2; subst e1; subst e2
    rfl
  | journalMark d =>
    have e : some ((⟨.mantle, 0, 22, d⟩ : OrderRef), ({} : Meas)) = some (o, m) := h
    injection e with e; injection e with e1 e2; subst e1; subst e2
    rfl
  | journalRead d =>
    have e : some ((⟨.mantle, 0, 23, d⟩ : OrderRef), ({} : Meas)) = some (o, m) := h
    injection e with e; injection e with e1 e2; subst e1; subst e2
    rfl
  | revokeMakerSlot d =>
    have e : some ((⟨.mantle, 0, 24, d⟩ : OrderRef), ({} : Meas)) = some (o, m) := h
    injection e with e; injection e with e1 e2; subst e1; subst e2
    rfl
  | rootStep d =>
    have e : some ((⟨.mantle, 0, 25, d⟩ : OrderRef), ({} : Meas)) = some (o, m) := h
    injection e with e; injection e with e1 e2; subst e1; subst e2
    rfl
  | quiesceAll d =>
    have e : some ((⟨.mantle, 0, 26, d⟩ : OrderRef), ({} : Meas)) = some (o, m) := h
    injection e with e; injection e with e1 e2; subst e1; subst e2
    rfl
  | makerDiag d =>
    have e : some ((⟨.mantle, 0, 27, d⟩ : OrderRef), ({} : Meas)) = some (o, m) := h
    injection e with e; injection e with e1 e2; subst e1; subst e2
    rfl
  | slotWrite d =>
    have e : some ((⟨.mantle, 0, 32, d⟩ : OrderRef), ({} : Meas)) = some (o, m) := h
    injection e with e; injection e with e1 e2; subst e1; subst e2
    rfl
  | slotSeal d =>
    have e : some ((⟨.mantle, 0, 33, d⟩ : OrderRef), ({} : Meas)) = some (o, m) := h
    injection e with e; injection e with e1 e2; subst e1; subst e2
    rfl
  | _ => exact nomatch (show (none : Option (OrderRef × Meas)) = some (o, m) from h)

/-- An order that goes through, by its command. -/
theorem taken_runs {c : Instr} {o : OrderRef} {m : Meas} (s : State) (hc : orderIn c = some (o, m)) (h : Taken s o.blk o.inst o.op o.d)
    (h2 : ¬(o.blk = .mantle ∧ o.op = 2)) (h3 : ¬(o.blk = .heath ∧ o.op = 0x10 ∧ o.d.target.toNat = 49)) :
    exec c s = answer (orderEnd (orderBody o.blk o.inst o.op o.d m (logged s o.blk o.inst o.op o.d m)) o.blk o.inst o.op o.d) := by
  rw [exec_order s hc, submit_taken m h h2 h3]

/-- An order that goes through and completes at once, by its command. -/
theorem taken_gives {c : Instr} {o : OrderRef} {m : Meas} (s : State) (hc : orderIn c = some (o, m)) (h : Taken s o.blk o.inst o.op o.d)
    (h2 : ¬(o.blk = .mantle ∧ o.op = 2)) (h3 : ¬(o.blk = .heath ∧ o.op = 0x10 ∧ o.d.target.toNat = 49)) {u : State} {code r : Nat} {x : List Dword} {j : Nat}
    (hb : orderBody o.blk o.inst o.op o.d m (logged s o.blk o.inst o.op o.d m) = { s := u, code := some code, result := r, extra := x, jcode := j }) :
    exec c s = orderDone u o.blk o.inst o.op o.d code r x := by
  rw [exec_order s hc, submit_taken m h h2 h3, hb]
  refine congrArg answer ?_
  show orderOver u o.blk o.inst o.op o.d code r x = _
  unfold orderOver
  rw [if_neg (fun k => h2 ⟨k.1, k.2.1⟩)]

/-- An order that goes through and that its block completes later, by its command. -/
theorem taken_goes {c : Instr} {o : OrderRef} {m : Meas} (s : State) (hc : orderIn c = some (o, m)) (h : Taken s o.blk o.inst o.op o.d)
    (h2 : ¬(o.blk = .mantle ∧ o.op = 2)) (h3 : ¬(o.blk = .heath ∧ o.op = 0x10 ∧ o.d.target.toNat = 49)) {u : State} {r : Nat} {x : List Dword} {j : Nat}
    (hb : orderBody o.blk o.inst o.op o.d m (logged s o.blk o.inst o.op o.d m) = { s := u, code := none, result := r, extra := x, jcode := j }) :
    exec c s = answer u := by
  rw [exec_order s hc, submit_taken m h h2 h3, hb]
  rfl

end Sys2Proof.Laws
end

