-- ==== Sys2Proof/Laws/PerInstr.lean ====
section
/-! SUPPORT. One lemma for each constructor: a well-formed command names a requester that there is. -/

namespace Sys2Proof.Laws

/-- A well-formed command that carries a requester number carries one of the 512 (R42). -/
def RequesterInRange.Statement (i : Instr) : Prop := i.wf = true → ∀ n, i.asker = some n → n < 512

theorem RequesterInRange.registerWrite (req : Nat) (addr : Nat) (v : Word) : RequesterInRange.Statement (.registerWrite req addr v) := by
  intro hw who eq
  have same : req = who := Option.some.inj eq
  have fits : req < 512 ∧ addr < 2 ^ 32 := of_decide_eq_true hw
  omega

theorem RequesterInRange.clampLogClear (req : Nat) (blk : Blk) (inst : Nat) : RequesterInRange.Statement (.clampLogClear req blk inst) := by
  intro hw who eq
  have same : req = who := Option.some.inj eq
  have fits : req < 512 ∧ inst < (Machine.blkWindow blk).2.2 := of_decide_eq_true hw
  omega

theorem RequesterInRange.completionCommit (req : Nat) : RequesterInRange.Statement (.completionCommit req) := by
  intro hw who eq
  have same : req = who := Option.some.inj eq
  have fits : req < 512 := of_decide_eq_true hw
  omega

theorem RequesterInRange.heldOrderRecheck (req : Nat) : RequesterInRange.Statement (.heldOrderRecheck req) := by
  intro hw who eq
  have same : req = who := Option.some.inj eq
  have fits : req < 512 := of_decide_eq_true hw
  omega

theorem RequesterInRange.paceWindowEnd (t : Nat) (m : Nat) (rate : Nat) (running : Nat) (waiting : Nat) : RequesterInRange.Statement (.paceWindowEnd t m rate running waiting) := by
  intro _ _ h
  exact nomatch h

theorem RequesterInRange.paceMinClear (req : Nat) (m : Nat) : RequesterInRange.Statement (.paceMinClear req m) := by
  intro hw who eq
  have same : req = who := Option.some.inj eq
  have fits : req < 512 ∧ m < 32 := of_decide_eq_true hw
  omega

theorem RequesterInRange.dataRx (t : Nat) (lane : Nat) (f : RxFrame) : RequesterInRange.Statement (.dataRx t lane f) := by
  intro _ _ h
  exact nomatch h

theorem RequesterInRange.detRx (t : Nat) (lane : Nat) (f : RxFrame) : RequesterInRange.Statement (.detRx t lane f) := by
  intro _ _ h
  exact nomatch h

theorem RequesterInRange.fltRx (t : Nat) (lane : Nat) (f : RxFrame) : RequesterInRange.Statement (.fltRx t lane f) := by
  intro _ _ h
  exact nomatch h

theorem RequesterInRange.rspRx (t : Nat) (lane : Nat) (f : RxFrame) : RequesterInRange.Statement (.rspRx t lane f) := by
  intro _ _ h
  exact nomatch h

theorem RequesterInRange.idRx (t : Nat) (lane : Nat) (f : RxFrame) : RequesterInRange.Statement (.idRx t lane f) := by
  intro _ _ h
  exact nomatch h

theorem RequesterInRange.energyRx (t : Nat) (lane : Nat) (f : RxFrame) : RequesterInRange.Statement (.energyRx t lane f) := by
  intro _ _ h
  exact nomatch h

theorem RequesterInRange.statusRx (t : Nat) (lane : Nat) (f : RxFrame) : RequesterInRange.Statement (.statusRx t lane f) := by
  intro _ _ h
  exact nomatch h

theorem RequesterInRange.enumReportRx (t : Nat) (lane : Nat) (f : RxFrame) : RequesterInRange.Statement (.enumReportRx t lane f) := by
  intro _ _ h
  exact nomatch h

theorem RequesterInRange.enumAckRx (t : Nat) (lane : Nat) (f : RxFrame) : RequesterInRange.Statement (.enumAckRx t lane f) := by
  intro _ _ h
  exact nomatch h

theorem RequesterInRange.delayAckRx (t : Nat) (lane : Nat) (f : RxFrame) : RequesterInRange.Statement (.delayAckRx t lane f) := by
  intro _ _ h
  exact nomatch h

theorem RequesterInRange.bulkFileRelease (t : Nat) (lane : Nat) : RequesterInRange.Statement (.bulkFileRelease t lane) := by
  intro _ _ h
  exact nomatch h

theorem RequesterInRange.creditStallTimer (t : Nat) (lane : Nat) : RequesterInRange.Statement (.creditStallTimer t lane) := by
  intro _ _ h
  exact nomatch h

theorem RequesterInRange.creditSend (t : Nat) (lane : Nat) : RequesterInRange.Statement (.creditSend t lane) := by
  intro _ _ h
  exact nomatch h

theorem RequesterInRange.syncSend (t : Nat) (lane : Nat) : RequesterInRange.Statement (.syncSend t lane) := by
  intro _ _ h
  exact nomatch h

theorem RequesterInRange.syncNow (t : Nat) (lane : Nat) : RequesterInRange.Statement (.syncNow t lane) := by
  intro _ _ h
  exact nomatch h

theorem RequesterInRange.enumWindowClose (t : Nat) (lane : Nat) : RequesterInRange.Statement (.enumWindowClose t lane) := by
  intro _ _ h
  exact nomatch h

theorem RequesterInRange.sweepTimer (t : Nat) (lane : Nat) : RequesterInRange.Statement (.sweepTimer t lane) := by
  intro _ _ h
  exact nomatch h

theorem RequesterInRange.sweepNow (t : Nat) (lane : Nat) : RequesterInRange.Statement (.sweepNow t lane) := by
  intro _ _ h
  exact nomatch h

theorem RequesterInRange.cmdSend (t : Nat) (lane : Nat) : RequesterInRange.Statement (.cmdSend t lane) := by
  intro _ _ h
  exact nomatch h

theorem RequesterInRange.cmdTimeout (t : Nat) (lane : Nat) (tag : Nat) : RequesterInRange.Statement (.cmdTimeout t lane tag) := by
  intro _ _ h
  exact nomatch h

theorem RequesterInRange.tagQuarantineEnd (t : Nat) (lane : Nat) (tag : Nat) : RequesterInRange.Statement (.tagQuarantineEnd t lane tag) := by
  intro _ _ h
  exact nomatch h

theorem RequesterInRange.releaseReportTimeout (t : Nat) (lane : Nat) (n : Nat) : RequesterInRange.Statement (.releaseReportTimeout t lane n) := by
  intro _ _ h
  exact nomatch h

theorem RequesterInRange.linkUp (t : Nat) (lane : Nat) (has24 : Bool) (has10 : Bool) : RequesterInRange.Statement (.linkUp t lane has24 has10) := by
  intro _ _ h
  exact nomatch h

theorem RequesterInRange.linkDown (t : Nat) (lane : Nat) : RequesterInRange.Statement (.linkDown t lane) := by
  intro _ _ h
  exact nomatch h

theorem RequesterInRange.linkAttemptTimeout (t : Nat) (lane : Nat) : RequesterInRange.Statement (.linkAttemptTimeout t lane) := by
  intro _ _ h
  exact nomatch h

theorem RequesterInRange.laneStart (lane : Nat) (d : Desc) : RequesterInRange.Statement (.laneStart lane d) := by
  intro hw who eq
  have same : d.req = who := Option.some.inj eq
  have fits : lane < 144 ∧ d.req < 512 := of_decide_eq_true hw
  omega

theorem RequesterInRange.laneStop (lane : Nat) (d : Desc) : RequesterInRange.Statement (.laneStop lane d) := by
  intro hw who eq
  have same : d.req = who := Option.some.inj eq
  have fits : lane < 144 ∧ d.req < 512 := of_decide_eq_true hw
  omega

theorem RequesterInRange.laneEnumerate (lane : Nat) (d : Desc) : RequesterInRange.Statement (.laneEnumerate lane d) := by
  intro hw who eq
  have same : d.req = who := Option.some.inj eq
  have fits : lane < 144 ∧ d.req < 512 := of_decide_eq_true hw
  omega

theorem RequesterInRange.sendCmd (lane : Nat) (d : Desc) : RequesterInRange.Statement (.sendCmd lane d) := by
  intro hw who eq
  have same : d.req = who := Option.some.inj eq
  have fits : lane < 144 ∧ d.req < 512 := of_decide_eq_true hw
  omega

theorem RequesterInRange.setStream (lane : Nat) (d : Desc) : RequesterInRange.Statement (.setStream lane d) := by
  intro hw who eq
  have same : d.req = who := Option.some.inj eq
  have fits : lane < 144 ∧ d.req < 512 := of_decide_eq_true hw
  omega

theorem RequesterInRange.releaseNode (lane : Nat) (d : Desc) : RequesterInRange.Statement (.releaseNode lane d) := by
  intro hw who eq
  have same : d.req = who := Option.some.inj eq
  have fits : lane < 144 ∧ d.req < 512 := of_decide_eq_true hw
  omega

theorem RequesterInRange.lineTdr (lane : Nat) (d : Desc) (result : Word) : RequesterInRange.Statement (.lineTdr lane d result) := by
  intro hw who eq
  have same : d.req = who := Option.some.inj eq
  have fits : lane < 144 ∧ d.req < 512 := of_decide_eq_true hw
  omega

theorem RequesterInRange.laneCountersClear (lane : Nat) (d : Desc) : RequesterInRange.Statement (.laneCountersClear lane d) := by
  intro hw who eq
  have same : d.req = who := Option.some.inj eq
  have fits : lane < 144 ∧ d.req < 512 := of_decide_eq_true hw
  omega

theorem RequesterInRange.laneEnergyDetect (t : Nat) (seen : LaneEnergy) : RequesterInRange.Statement (.laneEnergyDetect t seen) := by
  intro _ _ h
  exact nomatch h

theorem RequesterInRange.laneWakePattern (t : Nat) (seen : LaneSymbols) : RequesterInRange.Statement (.laneWakePattern t seen) := by
  intro _ _ h
  exact nomatch h

theorem RequesterInRange.raiseFrameSend (t : Nat) (lane : Nat) : RequesterInRange.Statement (.raiseFrameSend t lane) := by
  intro _ _ h
  exact nomatch h

theorem RequesterInRange.gatherWindowClose (t : Nat) (lane : Nat) : RequesterInRange.Statement (.gatherWindowClose t lane) := by
  intro _ _ h
  exact nomatch h

theorem RequesterInRange.gatherCapRelease (t : Nat) (lane : Nat) : RequesterInRange.Statement (.gatherCapRelease t lane) := by
  intro _ _ h
  exact nomatch h

theorem RequesterInRange.catchupFrameSend (t : Nat) (lane : Nat) : RequesterInRange.Statement (.catchupFrameSend t lane) := by
  intro _ _ h
  exact nomatch h

theorem RequesterInRange.holdExpiry (t : Nat) (lane : Nat) : RequesterInRange.Statement (.holdExpiry t lane) := by
  intro _ _ h
  exact nomatch h

theorem RequesterInRange.fadeEnd (t : Nat) (lane : Nat) : RequesterInRange.Statement (.fadeEnd t lane) := by
  intro _ _ h
  exact nomatch h

theorem RequesterInRange.entry (t : Nat) (lane : Nat) (k : Nat) : RequesterInRange.Statement (.entry t lane k) := by
  intro _ _ h
  exact nomatch h

theorem RequesterInRange.overrideEnd (t : Nat) (lane : Nat) : RequesterInRange.Statement (.overrideEnd t lane) := by
  intro _ _ h
  exact nomatch h

theorem RequesterInRange.calendarOccurrence (t : Nat) (lane : Nat) : RequesterInRange.Statement (.calendarOccurrence t lane) := by
  intro _ _ h
  exact nomatch h

theorem RequesterInRange.sunCompute (t : Nat) (lane : Nat) : RequesterInRange.Statement (.sunCompute t lane) := by
  intro _ _ h
  exact nomatch h

theorem RequesterInRange.swParamWrite (req : Nat) (lane : Nat) (second : Bool) (v : Word) : RequesterInRange.Statement (.swParamWrite req lane second v) := by
  intro hw who eq
  have same : req = who := Option.some.inj eq
  have fits : req < 512 ∧ lane < 144 := of_decide_eq_true hw
  omega

theorem RequesterInRange.swLimitWrite (req : Nat) (lane : Nat) (v : Word) : RequesterInRange.Statement (.swLimitWrite req lane v) := by
  intro hw who eq
  have same : req = who := Option.some.inj eq
  have fits : req < 512 ∧ lane < 144 := of_decide_eq_true hw
  omega

theorem RequesterInRange.overrideWrite (req : Nat) (lane : Nat) (node : Nat) (isEnd : Bool) (v : Word) : RequesterInRange.Statement (.overrideWrite req lane node isEnd v) := by
  intro hw who eq
  have same : req = who := Option.some.inj eq
  have fits : req < 512 ∧ lane < 144 ∧ node ≤ 128 := of_decide_eq_true hw
  omega

theorem RequesterInRange.producerFire (events : List (Nat × Nat)) : RequesterInRange.Statement (.producerFire events) := by
  intro _ _ h
  exact nomatch h

theorem RequesterInRange.taskEnd (t : Nat) (ti : Nat) : RequesterInRange.Statement (.taskEnd t ti) := by
  intro _ _ h
  exact nomatch h

theorem RequesterInRange.refractoryEnd (t : Nat) (ti : Nat) : RequesterInRange.Statement (.refractoryEnd t ti) := by
  intro _ _ h
  exact nomatch h

theorem RequesterInRange.hedgeDelayIn (t : Nat) (k : Nat) : RequesterInRange.Statement (.hedgeDelayIn t k) := by
  intro _ _ h
  exact nomatch h

theorem RequesterInRange.hedgeDelayExpiry (t : Nat) (k : Nat) : RequesterInRange.Statement (.hedgeDelayExpiry t k) := by
  intro _ _ h
  exact nomatch h

theorem RequesterInRange.hedgeSwFire (req : Nat) (v : Word) : RequesterInRange.Statement (.hedgeSwFire req v) := by
  intro hw who eq
  have same : req = who := Option.some.inj eq
  have fits : req < 512 := of_decide_eq_true hw
  omega

theorem RequesterInRange.selectorWrite (req : Nat) (task : Bool) (i : Nat) (v : Word) : RequesterInRange.Statement (.selectorWrite req task i v) := by
  intro hw who eq
  have same : req = who := Option.some.inj eq
  have fits : req < 512 ∧ (i < if task then 2880 else 2352) := of_decide_eq_true hw
  omega

theorem RequesterInRange.channelWrite (req : Nat) (c : Nat) (v : Word) : RequesterInRange.Statement (.channelWrite req c v) := by
  intro hw who eq
  have same : req = who := Option.some.inj eq
  have fits : req < 512 ∧ c < 2048 := of_decide_eq_true hw
  omega

theorem RequesterInRange.hc2Report (t : Nat) : RequesterInRange.Statement (.hc2Report t) := by
  intro _ _ h
  exact nomatch h

theorem RequesterInRange.clearPending (d : Desc) : RequesterInRange.Statement (.clearPending d) := by
  intro hw who eq
  have same : d.req = who := Option.some.inj eq
  have fits : d.req < 512 := of_decide_eq_true hw
  omega

theorem RequesterInRange.hedgeCountersClear (d : Desc) : RequesterInRange.Statement (.hedgeCountersClear d) := by
  intro hw who eq
  have same : d.req = who := Option.some.inj eq
  have fits : d.req < 512 := of_decide_eq_true hw
  omega

theorem RequesterInRange.journalMarkInput (t : Nat) (k : Nat) : RequesterInRange.Statement (.journalMarkInput t k) := by
  intro _ _ h
  exact nomatch h

theorem RequesterInRange.qsel (r : Nat) (ra : Reg) : RequesterInRange.Statement (.qsel r ra) := by
  intro hw who eq
  have same : r = who := Option.some.inj eq
  have fits : r < 256 := of_decide_eq_true hw
  omega

theorem RequesterInRange.qput (r : Nat) (ra : Reg) : RequesterInRange.Statement (.qput r ra) := by
  intro hw who eq
  have same : r = who := Option.some.inj eq
  have fits : r < 256 := of_decide_eq_true hw
  omega

theorem RequesterInRange.qend (r : Nat) (rd : Reg) : RequesterInRange.Statement (.qend r rd) := by
  intro hw who eq
  have same : r = who := Option.some.inj eq
  have fits : r < 256 := of_decide_eq_true hw
  omega

theorem RequesterInRange.qrwd (r : Nat) : RequesterInRange.Statement (.qrwd r) := by
  intro hw who eq
  have same : r = who := Option.some.inj eq
  have fits : r < 256 := of_decide_eq_true hw
  omega

theorem RequesterInRange.qget (r : Nat) (rd : Reg) : RequesterInRange.Statement (.qget r rd) := by
  intro hw who eq
  have same : r = who := Option.some.inj eq
  have fits : r < 256 := of_decide_eq_true hw
  omega

theorem RequesterInRange.qcnt (r : Nat) (rd : Reg) : RequesterInRange.Statement (.qcnt r rd) := by
  intro hw who eq
  have same : r = who := Option.some.inj eq
  have fits : r < 256 := of_decide_eq_true hw
  omega

theorem RequesterInRange.qcntw (r : Nat) (rd : Reg) : RequesterInRange.Statement (.qcntw r rd) := by
  intro hw who eq
  have same : r = who := Option.some.inj eq
  have fits : r < 256 := of_decide_eq_true hw
  omega

theorem RequesterInRange.qfl (r : Nat) : RequesterInRange.Statement (.qfl r) := by
  intro hw who eq
  have same : r = who := Option.some.inj eq
  have fits : r < 256 := of_decide_eq_true hw
  omega

theorem RequesterInRange.pushRelease (r : Nat) : RequesterInRange.Statement (.pushRelease r) := by
  intro hw who eq
  have same : r = who := Option.some.inj eq
  have fits : r < 256 := of_decide_eq_true hw
  omega

theorem RequesterInRange.hwPacketCommit (req : Nat) (q : Nat) (words : List Dword) : RequesterInRange.Statement (.hwPacketCommit req q words) := by
  intro hw who eq
  have same : req = who := Option.some.inj eq
  have fits : req < 512 ∧ words.length ≤ 256 ∧ q < 2 ^ 20 := of_decide_eq_true hw
  omega

theorem RequesterInRange.flush (d : Desc) : RequesterInRange.Statement (.flush d) := by
  intro hw who eq
  have same : d.req = who := Option.some.inj eq
  have fits : d.req < 512 := of_decide_eq_true hw
  omega

theorem RequesterInRange.queueStatus (d : Desc) : RequesterInRange.Statement (.queueStatus d) := by
  intro hw who eq
  have same : d.req = who := Option.some.inj eq
  have fits : d.req < 512 := of_decide_eq_true hw
  omega

theorem RequesterInRange.queueReset (d : Desc) : RequesterInRange.Statement (.queueReset d) := by
  intro hw who eq
  have same : d.req = who := Option.some.inj eq
  have fits : d.req < 512 := of_decide_eq_true hw
  omega

theorem RequesterInRange.poolAudit (d : Desc) : RequesterInRange.Statement (.poolAudit d) := by
  intro hw who eq
  have same : d.req = who := Option.some.inj eq
  have fits : d.req < 512 := of_decide_eq_true hw
  omega

theorem RequesterInRange.qengCountersClear (d : Desc) : RequesterInRange.Statement (.qengCountersClear d) := by
  intro hw who eq
  have same : d.req = who := Option.some.inj eq
  have fits : d.req < 512 := of_decide_eq_true hw
  omega

theorem RequesterInRange.scrubPass (t : Nat) (run : ScrubRun) : RequesterInRange.Statement (.scrubPass t run) := by
  intro _ _ h
  exact nomatch h

theorem RequesterInRange.recalTimer (t : Nat) (ch : Nat) (eye : Nat) (group : Nat) : RequesterInRange.Statement (.recalTimer t ch eye group) := by
  intro _ _ h
  exact nomatch h

theorem RequesterInRange.recalibrate (ch : Nat) (d : Desc) (eye : Nat) (group : Nat) : RequesterInRange.Statement (.recalibrate ch d eye group) := by
  intro hw who eq
  have same : d.req = who := Option.some.inj eq
  have fits : ch < 4 ∧ d.req < 512 := of_decide_eq_true hw
  omega

theorem RequesterInRange.fill (ch : Nat) (d : Desc) : RequesterInRange.Statement (.fill ch d) := by
  intro hw who eq
  have same : d.req = who := Option.some.inj eq
  have fits : ch < 4 ∧ d.req < 512 := of_decide_eq_true hw
  omega

theorem RequesterInRange.qdrCountersClear (ch : Nat) (d : Desc) : RequesterInRange.Statement (.qdrCountersClear ch d) := by
  intro hw who eq
  have same : d.req = who := Option.some.inj eq
  have fits : ch < 4 ∧ d.req < 512 := of_decide_eq_true hw
  omega

theorem RequesterInRange.bulkScrubPass (t : Nat) (run : ScrubRun) : RequesterInRange.Statement (.bulkScrubPass t run) := by
  intro _ _ h
  exact nomatch h

theorem RequesterInRange.lifeIdApply (t : Nat) : RequesterInRange.Statement (.lifeIdApply t) := by
  intro _ _ h
  exact nomatch h

theorem RequesterInRange.lifeEnergyApply (t : Nat) : RequesterInRange.Statement (.lifeEnergyApply t) := by
  intro _ _ h
  exact nomatch h

theorem RequesterInRange.lifeNoticeCommit (t : Nat) : RequesterInRange.Statement (.lifeNoticeCommit t) := by
  intro _ _ h
  exact nomatch h

theorem RequesterInRange.lifeExport (t : Nat) : RequesterInRange.Statement (.lifeExport t) := by
  intro _ _ h
  exact nomatch h

theorem RequesterInRange.lifeModelRecompute (t : Nat) : RequesterInRange.Statement (.lifeModelRecompute t) := by
  intro _ _ h
  exact nomatch h

theorem RequesterInRange.capRefresh (t : Nat) : RequesterInRange.Statement (.capRefresh t) := by
  intro _ _ h
  exact nomatch h

theorem RequesterInRange.readRecord (d : Desc) : RequesterInRange.Statement (.readRecord d) := by
  intro hw who eq
  have same : d.req = who := Option.some.inj eq
  have fits : d.req < 512 := of_decide_eq_true hw
  omega

theorem RequesterInRange.readRetired (d : Desc) : RequesterInRange.Statement (.readRetired d) := by
  intro hw who eq
  have same : d.req = who := Option.some.inj eq
  have fits : d.req < 512 := of_decide_eq_true hw
  omega

theorem RequesterInRange.registerModule (d : Desc) : RequesterInRange.Statement (.registerModule d) := by
  intro hw who eq
  have same : d.req = who := Option.some.inj eq
  have fits : d.req < 512 := of_decide_eq_true hw
  omega

theorem RequesterInRange.closeRecord (d : Desc) : RequesterInRange.Statement (.closeRecord d) := by
  intro hw who eq
  have same : d.req = who := Option.some.inj eq
  have fits : d.req < 512 := of_decide_eq_true hw
  omega

theorem RequesterInRange.exportAll (d : Desc) : RequesterInRange.Statement (.exportAll d) := by
  intro hw who eq
  have same : d.req = who := Option.some.inj eq
  have fits : d.req < 512 := of_decide_eq_true hw
  omega

theorem RequesterInRange.lifeCountersClear (d : Desc) : RequesterInRange.Statement (.lifeCountersClear d) := by
  intro hw who eq
  have same : d.req = who := Option.some.inj eq
  have fits : d.req < 512 := of_decide_eq_true hw
  omega

theorem RequesterInRange.windowSummary (t : Nat) (lane : Nat) (n : Nat) : RequesterInRange.Statement (.windowSummary t lane n) := by
  intro _ _ h
  exact nomatch h

theorem RequesterInRange.cyclingClear (t : Nat) (lane : Nat) (n : Nat) : RequesterInRange.Statement (.cyclingClear t lane n) := by
  intro _ _ h
  exact nomatch h

theorem RequesterInRange.nodeMissingTimeout (t : Nat) (lane : Nat) : RequesterInRange.Statement (.nodeMissingTimeout t lane) := by
  intro _ _ h
  exact nomatch h

theorem RequesterInRange.linkingBreakTimeout (t : Nat) (lane : Nat) : RequesterInRange.Statement (.linkingBreakTimeout t lane) := by
  intro _ _ h
  exact nomatch h

theorem RequesterInRange.faultPacketCommit (t : Nat) : RequesterInRange.Statement (.faultPacketCommit t) := by
  intro _ _ h
  exact nomatch h

theorem RequesterInRange.ackFault (d : Desc) : RequesterInRange.Statement (.ackFault d) := by
  intro hw who eq
  have same : d.req = who := Option.some.inj eq
  have fits : d.req < 512 := of_decide_eq_true hw
  omega

theorem RequesterInRange.readFault (d : Desc) : RequesterInRange.Statement (.readFault d) := by
  intro hw who eq
  have same : d.req = who := Option.some.inj eq
  have fits : d.req < 512 := of_decide_eq_true hw
  omega

theorem RequesterInRange.snapshot (d : Desc) : RequesterInRange.Statement (.snapshot d) := by
  intro hw who eq
  have same : d.req = who := Option.some.inj eq
  have fits : d.req < 512 := of_decide_eq_true hw
  omega

theorem RequesterInRange.forceClear (d : Desc) : RequesterInRange.Statement (.forceClear d) := by
  intro hw who eq
  have same : d.req = who := Option.some.inj eq
  have fits : d.req < 512 := of_decide_eq_true hw
  omega

theorem RequesterInRange.fltCountersClear (d : Desc) : RequesterInRange.Statement (.fltCountersClear d) := by
  intro hw who eq
  have same : d.req = who := Option.some.inj eq
  have fits : d.req < 512 := of_decide_eq_true hw
  omega

theorem RequesterInRange.periodBoundary (t : Nat) : RequesterInRange.Statement (.periodBoundary t) := by
  intro _ _ h
  exact nomatch h

theorem RequesterInRange.setPeriod (d : Desc) : RequesterInRange.Statement (.setPeriod d) := by
  intro hw who eq
  have same : d.req = who := Option.some.inj eq
  have fits : d.req < 512 := of_decide_eq_true hw
  omega

theorem RequesterInRange.redigest (d : Desc) : RequesterInRange.Statement (.redigest d) := by
  intro hw who eq
  have same : d.req = who := Option.some.inj eq
  have fits : d.req < 512 := of_decide_eq_true hw
  omega

theorem RequesterInRange.userCount (t : Nat) (k : Nat) : RequesterInRange.Statement (.userCount t k) := by
  intro _ _ h
  exact nomatch h

theorem RequesterInRange.add (r : Nat) (rd : Reg) (ra : Reg) (rb : Reg) : RequesterInRange.Statement (.add r rd ra rb) := by
  intro hw who eq
  have same : r = who := Option.some.inj eq
  have fits : r < 256 := of_decide_eq_true hw
  omega

theorem RequesterInRange.sub (r : Nat) (rd : Reg) (ra : Reg) (rb : Reg) : RequesterInRange.Statement (.sub r rd ra rb) := by
  intro hw who eq
  have same : r = who := Option.some.inj eq
  have fits : r < 256 := of_decide_eq_true hw
  omega

theorem RequesterInRange.and (r : Nat) (rd : Reg) (ra : Reg) (rb : Reg) : RequesterInRange.Statement (.and r rd ra rb) := by
  intro hw who eq
  have same : r = who := Option.some.inj eq
  have fits : r < 256 := of_decide_eq_true hw
  omega

theorem RequesterInRange.or (r : Nat) (rd : Reg) (ra : Reg) (rb : Reg) : RequesterInRange.Statement (.or r rd ra rb) := by
  intro hw who eq
  have same : r = who := Option.some.inj eq
  have fits : r < 256 := of_decide_eq_true hw
  omega

theorem RequesterInRange.xor (r : Nat) (rd : Reg) (ra : Reg) (rb : Reg) : RequesterInRange.Statement (.xor r rd ra rb) := by
  intro hw who eq
  have same : r = who := Option.some.inj eq
  have fits : r < 256 := of_decide_eq_true hw
  omega

theorem RequesterInRange.nor (r : Nat) (rd : Reg) (ra : Reg) (rb : Reg) : RequesterInRange.Statement (.nor r rd ra rb) := by
  intro hw who eq
  have same : r = who := Option.some.inj eq
  have fits : r < 256 := of_decide_eq_true hw
  omega

theorem RequesterInRange.slt (r : Nat) (rd : Reg) (ra : Reg) (rb : Reg) : RequesterInRange.Statement (.slt r rd ra rb) := by
  intro hw who eq
  have same : r = who := Option.some.inj eq
  have fits : r < 256 := of_decide_eq_true hw
  omega

theorem RequesterInRange.sltu (r : Nat) (rd : Reg) (ra : Reg) (rb : Reg) : RequesterInRange.Statement (.sltu r rd ra rb) := by
  intro hw who eq
  have same : r = who := Option.some.inj eq
  have fits : r < 256 := of_decide_eq_true hw
  omega

theorem RequesterInRange.sll (r : Nat) (rd : Reg) (ra : Reg) (rb : Reg) : RequesterInRange.Statement (.sll r rd ra rb) := by
  intro hw who eq
  have same : r = who := Option.some.inj eq
  have fits : r < 256 := of_decide_eq_true hw
  omega

theorem RequesterInRange.srl (r : Nat) (rd : Reg) (ra : Reg) (rb : Reg) : RequesterInRange.Statement (.srl r rd ra rb) := by
  intro hw who eq
  have same : r = who := Option.some.inj eq
  have fits : r < 256 := of_decide_eq_true hw
  omega

theorem RequesterInRange.sra (r : Nat) (rd : Reg) (ra : Reg) (rb : Reg) : RequesterInRange.Statement (.sra r rd ra rb) := by
  intro hw who eq
  have same : r = who := Option.some.inj eq
  have fits : r < 256 := of_decide_eq_true hw
  omega

theorem RequesterInRange.slli (r : Nat) (rd : Reg) (ra : Reg) (sh : BitVec 5) : RequesterInRange.Statement (.slli r rd ra sh) := by
  intro hw who eq
  have same : r = who := Option.some.inj eq
  have fits : r < 256 := of_decide_eq_true hw
  omega

theorem RequesterInRange.srli (r : Nat) (rd : Reg) (ra : Reg) (sh : BitVec 5) : RequesterInRange.Statement (.srli r rd ra sh) := by
  intro hw who eq
  have same : r = who := Option.some.inj eq
  have fits : r < 256 := of_decide_eq_true hw
  omega

theorem RequesterInRange.srai (r : Nat) (rd : Reg) (ra : Reg) (sh : BitVec 5) : RequesterInRange.Statement (.srai r rd ra sh) := by
  intro hw who eq
  have same : r = who := Option.some.inj eq
  have fits : r < 256 := of_decide_eq_true hw
  omega

theorem RequesterInRange.mul (r : Nat) (rd : Reg) (ra : Reg) (rb : Reg) : RequesterInRange.Statement (.mul r rd ra rb) := by
  intro hw who eq
  have same : r = who := Option.some.inj eq
  have fits : r < 256 := of_decide_eq_true hw
  omega

theorem RequesterInRange.mulh (r : Nat) (rd : Reg) (ra : Reg) (rb : Reg) : RequesterInRange.Statement (.mulh r rd ra rb) := by
  intro hw who eq
  have same : r = who := Option.some.inj eq
  have fits : r < 256 := of_decide_eq_true hw
  omega

theorem RequesterInRange.mulhu (r : Nat) (rd : Reg) (ra : Reg) (rb : Reg) : RequesterInRange.Statement (.mulhu r rd ra rb) := by
  intro hw who eq
  have same : r = who := Option.some.inj eq
  have fits : r < 256 := of_decide_eq_true hw
  omega

theorem RequesterInRange.div (r : Nat) (rd : Reg) (ra : Reg) (rb : Reg) : RequesterInRange.Statement (.div r rd ra rb) := by
  intro hw who eq
  have same : r = who := Option.some.inj eq
  have fits : r < 256 := of_decide_eq_true hw
  omega

theorem RequesterInRange.divu (r : Nat) (rd : Reg) (ra : Reg) (rb : Reg) : RequesterInRange.Statement (.divu r rd ra rb) := by
  intro hw who eq
  have same : r = who := Option.some.inj eq
  have fits : r < 256 := of_decide_eq_true hw
  omega

theorem RequesterInRange.rem (r : Nat) (rd : Reg) (ra : Reg) (rb : Reg) : RequesterInRange.Statement (.rem r rd ra rb) := by
  intro hw who eq
  have same : r = who := Option.some.inj eq
  have fits : r < 256 := of_decide_eq_true hw
  omega

theorem RequesterInRange.remu (r : Nat) (rd : Reg) (ra : Reg) (rb : Reg) : RequesterInRange.Statement (.remu r rd ra rb) := by
  intro hw who eq
  have same : r = who := Option.some.inj eq
  have fits : r < 256 := of_decide_eq_true hw
  omega

theorem RequesterInRange.min (r : Nat) (rd : Reg) (ra : Reg) (rb : Reg) : RequesterInRange.Statement (.min r rd ra rb) := by
  intro hw who eq
  have same : r = who := Option.some.inj eq
  have fits : r < 256 := of_decide_eq_true hw
  omega

theorem RequesterInRange.max (r : Nat) (rd : Reg) (ra : Reg) (rb : Reg) : RequesterInRange.Statement (.max r rd ra rb) := by
  intro hw who eq
  have same : r = who := Option.some.inj eq
  have fits : r < 256 := of_decide_eq_true hw
  omega

theorem RequesterInRange.minu (r : Nat) (rd : Reg) (ra : Reg) (rb : Reg) : RequesterInRange.Statement (.minu r rd ra rb) := by
  intro hw who eq
  have same : r = who := Option.some.inj eq
  have fits : r < 256 := of_decide_eq_true hw
  omega

theorem RequesterInRange.maxu (r : Nat) (rd : Reg) (ra : Reg) (rb : Reg) : RequesterInRange.Statement (.maxu r rd ra rb) := by
  intro hw who eq
  have same : r = who := Option.some.inj eq
  have fits : r < 256 := of_decide_eq_true hw
  omega

theorem RequesterInRange.clz (r : Nat) (rd : Reg) (ra : Reg) : RequesterInRange.Statement (.clz r rd ra) := by
  intro hw who eq
  have same : r = who := Option.some.inj eq
  have fits : r < 256 := of_decide_eq_true hw
  omega

theorem RequesterInRange.sextb (r : Nat) (rd : Reg) (ra : Reg) : RequesterInRange.Statement (.sextb r rd ra) := by
  intro hw who eq
  have same : r = who := Option.some.inj eq
  have fits : r < 256 := of_decide_eq_true hw
  omega

theorem RequesterInRange.sexth (r : Nat) (rd : Reg) (ra : Reg) : RequesterInRange.Statement (.sexth r rd ra) := by
  intro hw who eq
  have same : r = who := Option.some.inj eq
  have fits : r < 256 := of_decide_eq_true hw
  omega

theorem RequesterInRange.addi (r : Nat) (rd : Reg) (ra : Reg) (imm : BitVec 16) : RequesterInRange.Statement (.addi r rd ra imm) := by
  intro hw who eq
  have same : r = who := Option.some.inj eq
  have fits : r < 256 := of_decide_eq_true hw
  omega

theorem RequesterInRange.andi (r : Nat) (rd : Reg) (ra : Reg) (imm : BitVec 16) : RequesterInRange.Statement (.andi r rd ra imm) := by
  intro hw who eq
  have same : r = who := Option.some.inj eq
  have fits : r < 256 := of_decide_eq_true hw
  omega

theorem RequesterInRange.ori (r : Nat) (rd : Reg) (ra : Reg) (imm : BitVec 16) : RequesterInRange.Statement (.ori r rd ra imm) := by
  intro hw who eq
  have same : r = who := Option.some.inj eq
  have fits : r < 256 := of_decide_eq_true hw
  omega

theorem RequesterInRange.xori (r : Nat) (rd : Reg) (ra : Reg) (imm : BitVec 16) : RequesterInRange.Statement (.xori r rd ra imm) := by
  intro hw who eq
  have same : r = who := Option.some.inj eq
  have fits : r < 256 := of_decide_eq_true hw
  omega

theorem RequesterInRange.slti (r : Nat) (rd : Reg) (ra : Reg) (imm : BitVec 16) : RequesterInRange.Statement (.slti r rd ra imm) := by
  intro hw who eq
  have same : r = who := Option.some.inj eq
  have fits : r < 256 := of_decide_eq_true hw
  omega

theorem RequesterInRange.sltiu (r : Nat) (rd : Reg) (ra : Reg) (imm : BitVec 16) : RequesterInRange.Statement (.sltiu r rd ra imm) := by
  intro hw who eq
  have same : r = who := Option.some.inj eq
  have fits : r < 256 := of_decide_eq_true hw
  omega

theorem RequesterInRange.lui (r : Nat) (rd : Reg) (imm : BitVec 16) : RequesterInRange.Statement (.lui r rd imm) := by
  intro hw who eq
  have same : r = who := Option.some.inj eq
  have fits : r < 256 := of_decide_eq_true hw
  omega

theorem RequesterInRange.lb (r : Nat) (rd : Reg) (ra : Reg) (imm : BitVec 16) : RequesterInRange.Statement (.lb r rd ra imm) := by
  intro hw who eq
  have same : r = who := Option.some.inj eq
  have fits : r < 256 := of_decide_eq_true hw
  omega

theorem RequesterInRange.lbu (r : Nat) (rd : Reg) (ra : Reg) (imm : BitVec 16) : RequesterInRange.Statement (.lbu r rd ra imm) := by
  intro hw who eq
  have same : r = who := Option.some.inj eq
  have fits : r < 256 := of_decide_eq_true hw
  omega

theorem RequesterInRange.lh (r : Nat) (rd : Reg) (ra : Reg) (imm : BitVec 16) : RequesterInRange.Statement (.lh r rd ra imm) := by
  intro hw who eq
  have same : r = who := Option.some.inj eq
  have fits : r < 256 := of_decide_eq_true hw
  omega

theorem RequesterInRange.lhu (r : Nat) (rd : Reg) (ra : Reg) (imm : BitVec 16) : RequesterInRange.Statement (.lhu r rd ra imm) := by
  intro hw who eq
  have same : r = who := Option.some.inj eq
  have fits : r < 256 := of_decide_eq_true hw
  omega

theorem RequesterInRange.lw (r : Nat) (rd : Reg) (ra : Reg) (imm : BitVec 16) : RequesterInRange.Statement (.lw r rd ra imm) := by
  intro hw who eq
  have same : r = who := Option.some.inj eq
  have fits : r < 256 := of_decide_eq_true hw
  omega

theorem RequesterInRange.lbuP (r : Nat) (rd : Reg) (ra : Reg) (imm : BitVec 16) : RequesterInRange.Statement (.lbuP r rd ra imm) := by
  intro hw who eq
  have same : r = who := Option.some.inj eq
  have fits : r < 256 := of_decide_eq_true hw
  omega

theorem RequesterInRange.lhuP (r : Nat) (rd : Reg) (ra : Reg) (imm : BitVec 16) : RequesterInRange.Statement (.lhuP r rd ra imm) := by
  intro hw who eq
  have same : r = who := Option.some.inj eq
  have fits : r < 256 := of_decide_eq_true hw
  omega

theorem RequesterInRange.lwP (r : Nat) (rd : Reg) (ra : Reg) (imm : BitVec 16) : RequesterInRange.Statement (.lwP r rd ra imm) := by
  intro hw who eq
  have same : r = who := Option.some.inj eq
  have fits : r < 256 := of_decide_eq_true hw
  omega

theorem RequesterInRange.sb (r : Nat) (rd : Reg) (ra : Reg) (imm : BitVec 16) : RequesterInRange.Statement (.sb r rd ra imm) := by
  intro hw who eq
  have same : r = who := Option.some.inj eq
  have fits : r < 256 := of_decide_eq_true hw
  omega

theorem RequesterInRange.sh (r : Nat) (rd : Reg) (ra : Reg) (imm : BitVec 16) : RequesterInRange.Statement (.sh r rd ra imm) := by
  intro hw who eq
  have same : r = who := Option.some.inj eq
  have fits : r < 256 := of_decide_eq_true hw
  omega

theorem RequesterInRange.sw (r : Nat) (rd : Reg) (ra : Reg) (imm : BitVec 16) : RequesterInRange.Statement (.sw r rd ra imm) := by
  intro hw who eq
  have same : r = who := Option.some.inj eq
  have fits : r < 256 := of_decide_eq_true hw
  omega

theorem RequesterInRange.sbP (r : Nat) (rd : Reg) (ra : Reg) (imm : BitVec 16) : RequesterInRange.Statement (.sbP r rd ra imm) := by
  intro hw who eq
  have same : r = who := Option.some.inj eq
  have fits : r < 256 := of_decide_eq_true hw
  omega

theorem RequesterInRange.shP (r : Nat) (rd : Reg) (ra : Reg) (imm : BitVec 16) : RequesterInRange.Statement (.shP r rd ra imm) := by
  intro hw who eq
  have same : r = who := Option.some.inj eq
  have fits : r < 256 := of_decide_eq_true hw
  omega

theorem RequesterInRange.swP (r : Nat) (rd : Reg) (ra : Reg) (imm : BitVec 16) : RequesterInRange.Statement (.swP r rd ra imm) := by
  intro hw who eq
  have same : r = who := Option.some.inj eq
  have fits : r < 256 := of_decide_eq_true hw
  omega

theorem RequesterInRange.beq (r : Nat) (ra : Reg) (rb : Reg) (off : BitVec 16) : RequesterInRange.Statement (.beq r ra rb off) := by
  intro hw who eq
  have same : r = who := Option.some.inj eq
  have fits : r < 256 := of_decide_eq_true hw
  omega

theorem RequesterInRange.bne (r : Nat) (ra : Reg) (rb : Reg) (off : BitVec 16) : RequesterInRange.Statement (.bne r ra rb off) := by
  intro hw who eq
  have same : r = who := Option.some.inj eq
  have fits : r < 256 := of_decide_eq_true hw
  omega

theorem RequesterInRange.blt (r : Nat) (ra : Reg) (rb : Reg) (off : BitVec 16) : RequesterInRange.Statement (.blt r ra rb off) := by
  intro hw who eq
  have same : r = who := Option.some.inj eq
  have fits : r < 256 := of_decide_eq_true hw
  omega

theorem RequesterInRange.bge (r : Nat) (ra : Reg) (rb : Reg) (off : BitVec 16) : RequesterInRange.Statement (.bge r ra rb off) := by
  intro hw who eq
  have same : r = who := Option.some.inj eq
  have fits : r < 256 := of_decide_eq_true hw
  omega

theorem RequesterInRange.bltu (r : Nat) (ra : Reg) (rb : Reg) (off : BitVec 16) : RequesterInRange.Statement (.bltu r ra rb off) := by
  intro hw who eq
  have same : r = who := Option.some.inj eq
  have fits : r < 256 := of_decide_eq_true hw
  omega

theorem RequesterInRange.bgeu (r : Nat) (ra : Reg) (rb : Reg) (off : BitVec 16) : RequesterInRange.Statement (.bgeu r ra rb off) := by
  intro hw who eq
  have same : r = who := Option.some.inj eq
  have fits : r < 256 := of_decide_eq_true hw
  omega

theorem RequesterInRange.j (r : Nat) (off : BitVec 26) : RequesterInRange.Statement (.j r off) := by
  intro hw who eq
  have same : r = who := Option.some.inj eq
  have fits : r < 256 := of_decide_eq_true hw
  omega

theorem RequesterInRange.jal (r : Nat) (off : BitVec 26) : RequesterInRange.Statement (.jal r off) := by
  intro hw who eq
  have same : r = who := Option.some.inj eq
  have fits : r < 256 := of_decide_eq_true hw
  omega

theorem RequesterInRange.jr (r : Nat) (ra : Reg) : RequesterInRange.Statement (.jr r ra) := by
  intro hw who eq
  have same : r = who := Option.some.inj eq
  have fits : r < 256 := of_decide_eq_true hw
  omega

theorem RequesterInRange.jalr (r : Nat) (rd : Reg) (ra : Reg) : RequesterInRange.Statement (.jalr r rd ra) := by
  intro hw who eq
  have same : r = who := Option.some.inj eq
  have fits : r < 256 := of_decide_eq_true hw
  omega

theorem RequesterInRange.call (r : Nat) (mask : BitVec 8) (off : BitVec 18) : RequesterInRange.Statement (.call r mask off) := by
  intro hw who eq
  have same : r = who := Option.some.inj eq
  have fits : r < 256 := of_decide_eq_true hw
  omega

theorem RequesterInRange.ret (r : Nat) (mask : BitVec 8) : RequesterInRange.Statement (.ret r mask) := by
  intro hw who eq
  have same : r = who := Option.some.inj eq
  have fits : r < 256 := of_decide_eq_true hw
  omega

theorem RequesterInRange.macs (r : Nat) (ac : Bool) (ra : Reg) (rb : Reg) : RequesterInRange.Statement (.macs r ac ra rb) := by
  intro hw who eq
  have same : r = who := Option.some.inj eq
  have fits : r < 256 := of_decide_eq_true hw
  omega

theorem RequesterInRange.macu (r : Nat) (ac : Bool) (ra : Reg) (rb : Reg) : RequesterInRange.Statement (.macu r ac ra rb) := by
  intro hw who eq
  have same : r = who := Option.some.inj eq
  have fits : r < 256 := of_decide_eq_true hw
  omega

theorem RequesterInRange.msus (r : Nat) (ac : Bool) (ra : Reg) (rb : Reg) : RequesterInRange.Statement (.msus r ac ra rb) := by
  intro hw who eq
  have same : r = who := Option.some.inj eq
  have fits : r < 256 := of_decide_eq_true hw
  omega

theorem RequesterInRange.muls (r : Nat) (ac : Bool) (ra : Reg) (rb : Reg) : RequesterInRange.Statement (.muls r ac ra rb) := by
  intro hw who eq
  have same : r = who := Option.some.inj eq
  have fits : r < 256 := of_decide_eq_true hw
  omega

theorem RequesterInRange.macx (r : Nat) (ac : Bool) (ra : Reg) (rb : Reg) : RequesterInRange.Statement (.macx r ac ra rb) := by
  intro hw who eq
  have same : r = who := Option.some.inj eq
  have fits : r < 256 := of_decide_eq_true hw
  omega

theorem RequesterInRange.macm (r : Nat) (ac : Bool) (ra : Reg) (rb : Reg) : RequesterInRange.Statement (.macm r ac ra rb) := by
  intro hw who eq
  have same : r = who := Option.some.inj eq
  have fits : r < 256 := of_decide_eq_true hw
  omega

theorem RequesterInRange.msum (r : Nat) (ac : Bool) (ra : Reg) (rb : Reg) : RequesterInRange.Statement (.msum r ac ra rb) := by
  intro hw who eq
  have same : r = who := Option.some.inj eq
  have fits : r < 256 := of_decide_eq_true hw
  omega

theorem RequesterInRange.mtac (r : Nat) (ac : Bool) (ra : Reg) (rb : Reg) : RequesterInRange.Statement (.mtac r ac ra rb) := by
  intro hw who eq
  have same : r = who := Option.some.inj eq
  have fits : r < 256 := of_decide_eq_true hw
  omega

theorem RequesterInRange.mfacl (r : Nat) (ac : Bool) (rd : Reg) : RequesterInRange.Statement (.mfacl r ac rd) := by
  intro hw who eq
  have same : r = who := Option.some.inj eq
  have fits : r < 256 := of_decide_eq_true hw
  omega

theorem RequesterInRange.mfach (r : Nat) (ac : Bool) (rd : Reg) : RequesterInRange.Statement (.mfach r ac rd) := by
  intro hw who eq
  have same : r = who := Option.some.inj eq
  have fits : r < 256 := of_decide_eq_true hw
  omega

theorem RequesterInRange.mfacs (r : Nat) (ac : Bool) (rd : Reg) (sh : BitVec 5) : RequesterInRange.Statement (.mfacs r ac rd sh) := by
  intro hw who eq
  have same : r = who := Option.some.inj eq
  have fits : r < 256 := of_decide_eq_true hw
  omega

theorem RequesterInRange.acclr (r : Nat) (ac : Bool) : RequesterInRange.Statement (.acclr r ac) := by
  intro hw who eq
  have same : r = who := Option.some.inj eq
  have fits : r < 256 := of_decide_eq_true hw
  omega

theorem RequesterInRange.tas (r : Nat) (rd : Reg) (ra : Reg) : RequesterInRange.Statement (.tas r rd ra) := by
  intro hw who eq
  have same : r = who := Option.some.inj eq
  have fits : r < 256 := of_decide_eq_true hw
  omega

theorem RequesterInRange.lrW (r : Nat) (rd : Reg) (ra : Reg) : RequesterInRange.Statement (.lrW r rd ra) := by
  intro hw who eq
  have same : r = who := Option.some.inj eq
  have fits : r < 256 := of_decide_eq_true hw
  omega

theorem RequesterInRange.scW (r : Nat) (rd : Reg) (ra : Reg) (rb : Reg) : RequesterInRange.Statement (.scW r rd ra rb) := by
  intro hw who eq
  have same : r = who := Option.some.inj eq
  have fits : r < 256 := of_decide_eq_true hw
  omega

theorem RequesterInRange.nop (r : Nat) : RequesterInRange.Statement (.nop r) := by
  intro hw who eq
  have same : r = who := Option.some.inj eq
  have fits : r < 256 := of_decide_eq_true hw
  omega

theorem RequesterInRange.wait (r : Nat) : RequesterInRange.Statement (.wait r) := by
  intro hw who eq
  have same : r = who := Option.some.inj eq
  have fits : r < 256 := of_decide_eq_true hw
  omega

theorem RequesterInRange.waitWake (t : Nat) (r : Nat) : RequesterInRange.Statement (.waitWake t r) := by
  intro hw who eq
  have same : r = who := Option.some.inj eq
  have fits : r < 256 := of_decide_eq_true hw
  omega

theorem RequesterInRange.svc (r : Nat) (code : BitVec 10) : RequesterInRange.Statement (.svc r code) := by
  intro hw who eq
  have same : r = who := Option.some.inj eq
  have fits : r < 256 := of_decide_eq_true hw
  omega

theorem RequesterInRange.brk (r : Nat) (code : BitVec 10) : RequesterInRange.Statement (.brk r code) := by
  intro hw who eq
  have same : r = who := Option.some.inj eq
  have fits : r < 256 := of_decide_eq_true hw
  omega

theorem RequesterInRange.rett (r : Nat) : RequesterInRange.Statement (.rett r) := by
  intro hw who eq
  have same : r = who := Option.some.inj eq
  have fits : r < 256 := of_decide_eq_true hw
  omega

theorem RequesterInRange.mfsr (r : Nat) (rd : Reg) (sr : BitVec 5) : RequesterInRange.Statement (.mfsr r rd sr) := by
  intro hw who eq
  have same : r = who := Option.some.inj eq
  have fits : r < 256 := of_decide_eq_true hw
  omega

theorem RequesterInRange.mtsr (r : Nat) (sr : BitVec 5) (ra : Reg) : RequesterInRange.Statement (.mtsr r sr ra) := by
  intro hw who eq
  have same : r = who := Option.some.inj eq
  have fits : r < 256 := of_decide_eq_true hw
  omega

theorem RequesterInRange.sync (r : Nat) : RequesterInRange.Statement (.sync r) := by
  intro hw who eq
  have same : r = who := Option.some.inj eq
  have fits : r < 256 := of_decide_eq_true hw
  omega

theorem RequesterInRange.evack (r : Nat) (j : BitVec 2) : RequesterInRange.Statement (.evack r j) := by
  intro hw who eq
  have same : r = who := Option.some.inj eq
  have fits : r < 256 := of_decide_eq_true hw
  omega

theorem RequesterInRange.rep (r : Nat) (m : Bool) (ra : Reg) (cnt : BitVec 10) : RequesterInRange.Statement (.rep r m ra cnt) := by
  intro hw who eq
  have same : r = who := Option.some.inj eq
  have fits : r < 256 := of_decide_eq_true hw
  omega

theorem RequesterInRange.illegalInstruction (r : Nat) (w : Word) : RequesterInRange.Statement (.illegalInstruction r w) := by
  intro hw who eq
  have same : r = who := Option.some.inj eq
  have fits : r < 256 := of_decide_eq_true hw
  omega

theorem RequesterInRange.hedgerowEventInputTrap (r : Nat) : RequesterInRange.Statement (.hedgerowEventInputTrap r) := by
  intro hw who eq
  have same : r = who := Option.some.inj eq
  have fits : r < 256 := of_decide_eq_true hw
  omega

theorem RequesterInRange.meadowMailboxTrap (r : Nat) : RequesterInRange.Statement (.meadowMailboxTrap r) := by
  intro hw who eq
  have same : r = who := Option.some.inj eq
  have fits : r < 256 := of_decide_eq_true hw
  omega

theorem RequesterInRange.storeBufferDrain (r : Nat) : RequesterInRange.Statement (.storeBufferDrain r) := by
  intro hw who eq
  have same : r = who := Option.some.inj eq
  have fits : r < 256 := of_decide_eq_true hw
  omega

theorem RequesterInRange.coreCntClear (r : Nat) : RequesterInRange.Statement (.coreCntClear r) := by
  intro hw who eq
  have same : r = who := Option.some.inj eq
  have fits : r < 256 := of_decide_eq_true hw
  omega

theorem RequesterInRange.sentinelFire (t : Nat) (r : Nat) : RequesterInRange.Statement (.sentinelFire t r) := by
  intro hw who eq
  have same : r = who := Option.some.inj eq
  have fits : r < 256 := of_decide_eq_true hw
  omega

theorem RequesterInRange.reloadCore (m : Nat) (d : Desc) : RequesterInRange.Statement (.reloadCore m d) := by
  intro hw who eq
  have same : d.req = who := Option.some.inj eq
  have fits : m < 32 ∧ d.req < 512 := of_decide_eq_true hw
  omega

theorem RequesterInRange.meadowCountersClear (m : Nat) (d : Desc) : RequesterInRange.Statement (.meadowCountersClear m d) := by
  intro hw who eq
  have same : d.req = who := Option.some.inj eq
  have fits : m < 32 ∧ d.req < 512 := of_decide_eq_true hw
  omega

theorem RequesterInRange.domainSwitchOn (req : Nat) (dom : Nat) : RequesterInRange.Statement (.domainSwitchOn req dom) := by
  intro hw who eq
  have same : req = who := Option.some.inj eq
  have fits : req < 512 ∧ dom < 50 := of_decide_eq_true hw
  omega

theorem RequesterInRange.domainSwitchOff (req : Nat) (dom : Nat) : RequesterInRange.Statement (.domainSwitchOff req dom) := by
  intro hw who eq
  have same : req = who := Option.some.inj eq
  have fits : req < 512 ∧ dom < 50 := of_decide_eq_true hw
  omega

theorem RequesterInRange.powerDownDrained (t : Nat) (dom : Nat) : RequesterInRange.Statement (.powerDownDrained t dom) := by
  intro _ _ h
  exact nomatch h

theorem RequesterInRange.powerGood (t : Nat) (dom : Nat) : RequesterInRange.Statement (.powerGood t dom) := by
  intro _ _ h
  exact nomatch h

theorem RequesterInRange.powerGoodTimeout (t : Nat) (dom : Nat) : RequesterInRange.Statement (.powerGoodTimeout t dom) := by
  intro _ _ h
  exact nomatch h

theorem RequesterInRange.xrefReady (t : Nat) : RequesterInRange.Statement (.xrefReady t) := by
  intro _ _ h
  exact nomatch h

theorem RequesterInRange.xrefTimeout (t : Nat) : RequesterInRange.Statement (.xrefTimeout t) := by
  intro _ _ h
  exact nomatch h

theorem RequesterInRange.pllLock (t : Nat) (dom : Nat) : RequesterInRange.Statement (.pllLock t dom) := by
  intro _ _ h
  exact nomatch h

theorem RequesterInRange.pllLockTimeout (t : Nat) (dom : Nat) : RequesterInRange.Statement (.pllLockTimeout t dom) := by
  intro _ _ h
  exact nomatch h

theorem RequesterInRange.ownStartDone (t : Nat) (dom : Nat) (failed : Nat) (eye : Nat) (group : Nat) : RequesterInRange.Statement (.ownStartDone t dom failed eye group) := by
  intro _ _ h
  exact nomatch h

theorem RequesterInRange.ownStartTimeout (t : Nat) (dom : Nat) : RequesterInRange.Statement (.ownStartTimeout t dom) := by
  intro _ _ h
  exact nomatch h

theorem RequesterInRange.retryRestart (t : Nat) (dom : Nat) : RequesterInRange.Statement (.retryRestart t dom) := by
  intro _ _ h
  exact nomatch h

theorem RequesterInRange.devModeWrite (req : Nat) (v : Word) : RequesterInRange.Statement (.devModeWrite req v) := by
  intro hw who eq
  have same : req = who := Option.some.inj eq
  have fits : req < 512 := of_decide_eq_true hw
  omega

theorem RequesterInRange.descentComplete (t : Nat) : RequesterInRange.Statement (.descentComplete t) := by
  intro _ _ h
  exact nomatch h

theorem RequesterInRange.levelChangeDone (t : Nat) (m : Nat) : RequesterInRange.Statement (.levelChangeDone t m) := by
  intro _ _ h
  exact nomatch h

theorem RequesterInRange.latHoldExpiry (t : Nat) (m : Nat) : RequesterInRange.Statement (.latHoldExpiry t m) := by
  intro _ _ h
  exact nomatch h

theorem RequesterInRange.paceEvent (t : Nat) (m : Nat) : RequesterInRange.Statement (.paceEvent t m) := by
  intro _ _ h
  exact nomatch h

theorem RequesterInRange.govWrite (req : Nat) (m : Nat) (v : Word) : RequesterInRange.Statement (.govWrite req m v) := by
  intro hw who eq
  have same : req = who := Option.some.inj eq
  have fits : req < 512 ∧ m < 32 := of_decide_eq_true hw
  omega

theorem RequesterInRange.retryDomain (d : Desc) : RequesterInRange.Statement (.retryDomain d) := by
  intro hw who eq
  have same : d.req = who := Option.some.inj eq
  have fits : d.req < 512 := of_decide_eq_true hw
  omega

theorem RequesterInRange.heathCountersClear (d : Desc) : RequesterInRange.Statement (.heathCountersClear d) := by
  intro hw who eq
  have same : d.req = who := Option.some.inj eq
  have fits : d.req < 512 := of_decide_eq_true hw
  omega

theorem RequesterInRange.meadowStart (m : Nat) (d : Desc) : RequesterInRange.Statement (.meadowStart m d) := by
  intro hw who eq
  have same : d.req = who := Option.some.inj eq
  have fits : m < 32 ∧ d.req < 512 := of_decide_eq_true hw
  omega

theorem RequesterInRange.meadowStop (m : Nat) (d : Desc) : RequesterInRange.Statement (.meadowStop m d) := by
  intro hw who eq
  have same : d.req = who := Option.some.inj eq
  have fits : m < 32 ∧ d.req < 512 := of_decide_eq_true hw
  omega

theorem RequesterInRange.padGroupRelease (req : Nat) (k : Nat) : RequesterInRange.Statement (.padGroupRelease req k) := by
  intro hw who eq
  have same : req = who := Option.some.inj eq
  have fits : req < 512 ∧ k < 18 := of_decide_eq_true hw
  omega

theorem RequesterInRange.gpioEdge (t : Nat) (g : Nat) (level : Bool) : RequesterInRange.Statement (.gpioEdge t g level) := by
  intro _ _ h
  exact nomatch h

theorem RequesterInRange.gpioAction (t : Nat) (g : Nat) : RequesterInRange.Statement (.gpioAction t g) := by
  intro _ _ h
  exact nomatch h

theorem RequesterInRange.gpioPulseEnd (t : Nat) (g : Nat) : RequesterInRange.Statement (.gpioPulseEnd t g) := by
  intro _ _ h
  exact nomatch h

theorem RequesterInRange.uplinkEnergy (t : Nat) (n : Nat) : RequesterInRange.Statement (.uplinkEnergy t n) := by
  intro _ _ h
  exact nomatch h

theorem RequesterInRange.wakePin (t : Nat) : RequesterInRange.Statement (.wakePin t) := by
  intro _ _ h
  exact nomatch h

theorem RequesterInRange.wakeInput (t : Nat) (k : Nat) : RequesterInRange.Statement (.wakeInput t k) := by
  intro _ _ h
  exact nomatch h

theorem RequesterInRange.xrefStop (t : Nat) (restarted : Bool) : RequesterInRange.Statement (.xrefStop t restarted) := by
  intro _ _ h
  exact nomatch h

theorem RequesterInRange.samplerPass (t : Nat) (volts : List Nat) : RequesterInRange.Statement (.samplerPass t volts) := by
  intro _ _ h
  exact nomatch h

theorem RequesterInRange.runNow (t : Nat) (volts : List Nat) : RequesterInRange.Statement (.runNow t volts) := by
  intro _ _ h
  exact nomatch h

theorem RequesterInRange.samplerHold (t : Nat) : RequesterInRange.Statement (.samplerHold t) := by
  intro _ _ h
  exact nomatch h

theorem RequesterInRange.samplerRelease (t : Nat) : RequesterInRange.Statement (.samplerRelease t) := by
  intro _ _ h
  exact nomatch h

theorem RequesterInRange.clearCounts (t : Nat) : RequesterInRange.Statement (.clearCounts t) := by
  intro _ _ h
  exact nomatch h

theorem RequesterInRange.sample (d : Desc) (uv : Nat) : RequesterInRange.Statement (.sample d uv) := by
  intro hw who eq
  have same : d.req = who := Option.some.inj eq
  have fits : d.req < 512 := of_decide_eq_true hw
  omega

theorem RequesterInRange.wakeCountersClear (d : Desc) : RequesterInRange.Statement (.wakeCountersClear d) := by
  intro hw who eq
  have same : d.req = who := Option.some.inj eq
  have fits : d.req < 512 := of_decide_eq_true hw
  omega

theorem RequesterInRange.seamWatchdog (t : Nat) (seen : SeamSeen) : RequesterInRange.Statement (.seamWatchdog t seen) := by
  intro _ _ h
  exact nomatch h

theorem RequesterInRange.islandRelease (t : Nat) (sm : Nat) : RequesterInRange.Statement (.islandRelease t sm) := by
  intro _ _ h
  exact nomatch h

theorem RequesterInRange.seamRealign (t : Nat) (sm : Nat) : RequesterInRange.Statement (.seamRealign t sm) := by
  intro _ _ h
  exact nomatch h

theorem RequesterInRange.islandClockStop (t : Nat) (sm : Nat) : RequesterInRange.Statement (.islandClockStop t sm) := by
  intro _ _ h
  exact nomatch h

theorem RequesterInRange.islandClockReturn (t : Nat) (sm : Nat) : RequesterInRange.Statement (.islandClockReturn t sm) := by
  intro _ _ h
  exact nomatch h

theorem RequesterInRange.seamAccessTimeout (t : Nat) (req : Nat) : RequesterInRange.Statement (.seamAccessTimeout t req) := by
  intro hw who eq
  have same : req = who := Option.some.inj eq
  have fits : req < 512 := of_decide_eq_true hw
  omega

theorem RequesterInRange.seamCountersClear (d : Desc) : RequesterInRange.Statement (.seamCountersClear d) := by
  intro hw who eq
  have same : d.req = who := Option.some.inj eq
  have fits : d.req < 512 := of_decide_eq_true hw
  omega

theorem RequesterInRange.stageCopy (d : Desc) : RequesterInRange.Statement (.stageCopy d) := by
  intro hw who eq
  have same : d.req = who := Option.some.inj eq
  have fits : d.req < 512 := of_decide_eq_true hw
  omega

theorem RequesterInRange.apply (d : Desc) : RequesterInRange.Statement (.apply d) := by
  intro hw who eq
  have same : d.req = who := Option.some.inj eq
  have fits : d.req < 512 := of_decide_eq_true hw
  omega

theorem RequesterInRange.mantleCountersClear (d : Desc) : RequesterInRange.Statement (.mantleCountersClear d) := by
  intro hw who eq
  have same : d.req = who := Option.some.inj eq
  have fits : d.req < 512 := of_decide_eq_true hw
  omega

theorem RequesterInRange.claim (d : Desc) : RequesterInRange.Statement (.claim d) := by
  intro hw who eq
  have same : d.req = who := Option.some.inj eq
  have fits : d.req < 512 := of_decide_eq_true hw
  omega

theorem RequesterInRange.attest (d : Desc) : RequesterInRange.Statement (.attest d) := by
  intro hw who eq
  have same : d.req = who := Option.some.inj eq
  have fits : d.req < 512 := of_decide_eq_true hw
  omega

theorem RequesterInRange.deviceCert (d : Desc) : RequesterInRange.Statement (.deviceCert d) := by
  intro hw who eq
  have same : d.req = who := Option.some.inj eq
  have fits : d.req < 512 := of_decide_eq_true hw
  omega

theorem RequesterInRange.debugChallenge (d : Desc) : RequesterInRange.Statement (.debugChallenge d) := by
  intro hw who eq
  have same : d.req = who := Option.some.inj eq
  have fits : d.req < 512 := of_decide_eq_true hw
  omega

theorem RequesterInRange.debugUnlock (d : Desc) : RequesterInRange.Statement (.debugUnlock d) := by
  intro hw who eq
  have same : d.req = who := Option.some.inj eq
  have fits : d.req < 512 := of_decide_eq_true hw
  omega

theorem RequesterInRange.debugLock (d : Desc) : RequesterInRange.Statement (.debugLock d) := by
  intro hw who eq
  have same : d.req = who := Option.some.inj eq
  have fits : d.req < 512 := of_decide_eq_true hw
  omega

theorem RequesterInRange.debugExpiry (t : Nat) : RequesterInRange.Statement (.debugExpiry t) := by
  intro _ _ h
  exact nomatch h

theorem RequesterInRange.journalMark (d : Desc) : RequesterInRange.Statement (.journalMark d) := by
  intro hw who eq
  have same : d.req = who := Option.some.inj eq
  have fits : d.req < 512 := of_decide_eq_true hw
  omega

theorem RequesterInRange.journalRead (d : Desc) : RequesterInRange.Statement (.journalRead d) := by
  intro hw who eq
  have same : d.req = who := Option.some.inj eq
  have fits : d.req < 512 := of_decide_eq_true hw
  omega

theorem RequesterInRange.revokeMakerSlot (d : Desc) : RequesterInRange.Statement (.revokeMakerSlot d) := by
  intro hw who eq
  have same : d.req = who := Option.some.inj eq
  have fits : d.req < 512 := of_decide_eq_true hw
  omega

theorem RequesterInRange.rootStep (d : Desc) : RequesterInRange.Statement (.rootStep d) := by
  intro hw who eq
  have same : d.req = who := Option.some.inj eq
  have fits : d.req < 512 := of_decide_eq_true hw
  omega

theorem RequesterInRange.quiesceAll (d : Desc) : RequesterInRange.Statement (.quiesceAll d) := by
  intro hw who eq
  have same : d.req = who := Option.some.inj eq
  have fits : d.req < 512 := of_decide_eq_true hw
  omega

theorem RequesterInRange.makerDiag (d : Desc) : RequesterInRange.Statement (.makerDiag d) := by
  intro hw who eq
  have same : d.req = who := Option.some.inj eq
  have fits : d.req < 512 := of_decide_eq_true hw
  omega

theorem RequesterInRange.journalExport (t : Nat) : RequesterInRange.Statement (.journalExport t) := by
  intro _ _ h
  exact nomatch h

theorem RequesterInRange.journalHeldFlush (t : Nat) : RequesterInRange.Statement (.journalHeldFlush t) := by
  intro _ _ h
  exact nomatch h

theorem RequesterInRange.uplinkFrameRx (t : Nat) (n : Nat) (f : EthFrame) : RequesterInRange.Statement (.uplinkFrameRx t n f) := by
  intro _ _ h
  exact nomatch h

theorem RequesterInRange.ptpMessageRx (t : Nat) (n : Nat) (named : Bool) (complete : Bool) (offset : Int) : RequesterInRange.Statement (.ptpMessageRx t n named complete offset) := by
  intro _ _ h
  exact nomatch h

theorem RequesterInRange.ptpHoldover (t : Nat) : RequesterInRange.Statement (.ptpHoldover t) := by
  intro _ _ h
  exact nomatch h

theorem RequesterInRange.handoffRx (t : Nat) (n : Nat) (f : Datagram) : RequesterInRange.Statement (.handoffRx t n f) := by
  intro _ _ h
  exact nomatch h

theorem RequesterInRange.handoffOut (t : Nat) (n : Nat) (k : Nat) : RequesterInRange.Statement (.handoffOut t n k) := by
  intro _ _ h
  exact nomatch h

theorem RequesterInRange.exportSend (t : Nat) (n : Nat) (j : Nat) : RequesterInRange.Statement (.exportSend t n j) := by
  intro _ _ h
  exact nomatch h

theorem RequesterInRange.writeStaging (n : Nat) (off : Nat) (bytes : List Byte) : RequesterInRange.Statement (.writeStaging n off bytes) := by
  intro _ _ h
  exact nomatch h

theorem RequesterInRange.submit (t : Nat) (port : Nat) (off : Nat) (len : Nat) : RequesterInRange.Statement (.submit t port off len) := by
  intro _ _ h
  exact nomatch h

theorem RequesterInRange.read (t : Nat) (n : Nat) (addr : Nat) (count : Nat) : RequesterInRange.Statement (.read t n addr count) := by
  intro _ _ h
  exact nomatch h

theorem RequesterInRange.uplinkLinkChange (t : Nat) (n : Nat) (up : Bool) (an : Bool) : RequesterInRange.Statement (.uplinkLinkChange t n up an) := by
  intro _ _ h
  exact nomatch h

theorem RequesterInRange.uplinkCountersClear (n : Nat) (d : Desc) : RequesterInRange.Statement (.uplinkCountersClear n d) := by
  intro hw who eq
  have same : d.req = who := Option.some.inj eq
  have fits : d.req < 512 ∧ n < 4 := of_decide_eq_true hw
  omega

theorem RequesterInRange.timeSet (d : Desc) : RequesterInRange.Statement (.timeSet d) := by
  intro hw who eq
  have same : d.req = who := Option.some.inj eq
  have fits : d.req < 512 := of_decide_eq_true hw
  omega

theorem RequesterInRange.tbCountersClear (d : Desc) : RequesterInRange.Statement (.tbCountersClear d) := by
  intro hw who eq
  have same : d.req = who := Option.some.inj eq
  have fits : d.req < 512 := of_decide_eq_true hw
  omega

theorem RequesterInRange.alarm (t : Nat) (k : Nat) : RequesterInRange.Statement (.alarm t k) := by
  intro _ _ h
  exact nomatch h

theorem RequesterInRange.pps (t : Nat) : RequesterInRange.Statement (.pps t) := by
  intro _ _ h
  exact nomatch h

theorem RequesterInRange.capture (t : Nat) (k : Nat) : RequesterInRange.Statement (.capture t k) := by
  intro _ _ h
  exact nomatch h

theorem RequesterInRange.tbRateWrite (req : Nat) (v : Word) : RequesterInRange.Statement (.tbRateWrite req v) := by
  intro hw who eq
  have same : req = who := Option.some.inj eq
  have fits : req < 512 := of_decide_eq_true hw
  omega

theorem RequesterInRange.tbSecLoRead (t : Nat) (req : Nat) : RequesterInRange.Statement (.tbSecLoRead t req) := by
  intro hw who eq
  have same : req = who := Option.some.inj eq
  have fits : req < 512 := of_decide_eq_true hw
  omega

theorem RequesterInRange.i2cAddressMatch (t : Nat) : RequesterInRange.Statement (.i2cAddressMatch t) := by
  intro _ _ h
  exact nomatch h

theorem RequesterInRange.rdAddrWrite (addr : Word) : RequesterInRange.Statement (.rdAddrWrite addr) := by
  intro _ _ h
  exact nomatch h

theorem RequesterInRange.stgDataWrite (off : Option (BitVec 24)) (bytes : List Byte) : RequesterInRange.Statement (.stgDataWrite off bytes) := by
  intro _ _ h
  exact nomatch h

theorem RequesterInRange.subLenWrite (t : Nat) (off : BitVec 24) (len : Word) : RequesterInRange.Statement (.subLenWrite t off len) := by
  intro _ _ h
  exact nomatch h

theorem RequesterInRange.powerOnReset (t : Nat) (loss : PowerLoss) : RequesterInRange.Statement (.powerOnReset t loss) := by
  intro _ _ h
  exact nomatch h

theorem RequesterInRange.resetN (t : Nat) : RequesterInRange.Statement (.resetN t) := by
  intro _ _ h
  exact nomatch h

theorem RequesterInRange.deviceReset (d : Desc) : RequesterInRange.Statement (.deviceReset d) := by
  intro hw who eq
  have same : d.req = who := Option.some.inj eq
  have fits : d.req < 512 := of_decide_eq_true hw
  omega

theorem RequesterInRange.deviceResetTimer (t : Nat) : RequesterInRange.Statement (.deviceResetTimer t) := by
  intro _ _ h
  exact nomatch h

theorem RequesterInRange.mantleRomVerify (t : Nat) : RequesterInRange.Statement (.mantleRomVerify t) := by
  intro _ _ h
  exact nomatch h

theorem RequesterInRange.bootStage1 (t : Nat) : RequesterInRange.Statement (.bootStage1 t) := by
  intro _ _ h
  exact nomatch h

theorem RequesterInRange.bootStage2 (t : Nat) : RequesterInRange.Statement (.bootStage2 t) := by
  intro _ _ h
  exact nomatch h

theorem RequesterInRange.bootFallback (t : Nat) : RequesterInRange.Statement (.bootFallback t) := by
  intro _ _ h
  exact nomatch h

theorem RequesterInRange.slotWrite (d : Desc) : RequesterInRange.Statement (.slotWrite d) := by
  intro hw who eq
  have same : d.req = who := Option.some.inj eq
  have fits : d.req < 512 := of_decide_eq_true hw
  omega

theorem RequesterInRange.slotSeal (d : Desc) : RequesterInRange.Statement (.slotSeal d) := by
  intro hw who eq
  have same : d.req = who := Option.some.inj eq
  have fits : d.req < 512 := of_decide_eq_true hw
  omega

theorem RequesterInRange.enumAckTimeout (t : Nat) (lane : Nat) (n : Nat) : RequesterInRange.Statement (.enumAckTimeout t lane n) := by
  intro _ _ h
  exact nomatch h

theorem RequesterInRange.debugAccess (t : Nat) (op : DebugOp) : RequesterInRange.Statement (.debugAccess t op) := by
  intro _ _ h
  exact nomatch h

theorem RequesterInRange.frameLeft (t : Nat) (lane : Nat) : RequesterInRange.Statement (.frameLeft t lane) := by
  intro _ _ h
  exact nomatch h

theorem RequesterInRange.imageReloadPathReady (t : Nat) : RequesterInRange.Statement (.imageReloadPathReady t) := by
  intro _ _ h
  exact nomatch h

theorem RequesterInRange.resetRelease (t : Nat) (bootsel : BitVec 2) (maddr : BitVec 3) (install : Bool) : RequesterInRange.Statement (.resetRelease t bootsel maddr install) := by
  intro _ _ h
  exact nomatch h

end Sys2Proof.Laws
end

