-- ==== Sys2Proof/Laws/Queues.lean ====
section
/-! SUPPORT. The contexts and packets that queue operations leave. -/

set_option linter.all false

namespace Sys2Proof.Laws

open Sys2Proof.Machine

theorem prod_setProd (s : State) (r : Nat) (x : Option ProdCtx) (h : Rising s.prods) : (s.setProd r x).prod r = x := by
  unfold State.prod State.setProd
  exact (tget_tset none s.prods r r x h).trans (if_pos rfl)

theorem cons_setCons (s : State) (r : Nat) (x : Option ConsCtx) (h : Rising s.conss) : (s.setCons r x).cons r = x := by
  unfold State.cons State.setCons
  exact (tget_tset none s.conss r r x h).trans (if_pos rfl)

theorem rising_rewindOpen (s : State) (r : Nat) (sw : Swallow) (h : Rising s.prods) : Rising (rewindOpen s r sw).prods := by
  unfold rewindOpen
  split
  · split
    · exact rising_tput _ _ _ h
    · exact h
  · exact h

theorem conss_rewindOpen (s : State) (r : Nat) (sw : Swallow) : (rewindOpen s r sw).conss = s.conss := by
  unfold rewindOpen
  split
  · split <;> rfl
  · rfl

theorem prods_bumpOrphan (s : State) (r : Nat) (g : Bool) : (bumpOrphan s r g).prods = s.prods ∧ (bumpOrphan s r g).conss = s.conss := by
  cases g <;> exact ⟨rfl, rfl⟩

/-- Allocating blocks only draws. -/
theorem takeBlocks_keeps (n : Nat) (s : State) (c k : Nat) (acc : List Block) :
    (takeBlocks n s c k acc).1.prods = s.prods ∧ (takeBlocks n s c k acc).1.queues = s.queues := by
  induction n generalizing s k acc with
  | zero => exact ⟨rfl, rfl⟩
  | succ n ih => exact ih s.draw (k + 1) _

/-- What a pop gives of a word. -/
theorem popWord_gives (s : State) (q : Nat) (w : QWord) (idx a : Nat) :
    (popWord s q w idx a).2 = if w.poison then .poisoned q idx else .item w.read := by
  unfold popWord
  dsimp only
  split <;> rfl

theorem freeBlocks_gives (s : State) (q : Nat) : freeBlocks s q = { s with queues := (freeBlocks s q).queues } := by
  unfold freeBlocks
  split <;> rfl

theorem prods_freeBlocks (s : State) (q : Nat) : (freeBlocks s q).prods = s.prods ∧ (freeBlocks s q).conss = s.conss := by
  rw [freeBlocks_gives]; exact ⟨rfl, rfl⟩

theorem prods_dropClaim (s : State) (r : Nat) : (dropClaim s r).prods = s.prods := by
  unfold dropClaim
  split
  · exact (prods_freeBlocks ..).1
  · rfl

theorem prod_orphanOpen (s : State) (r : Nat) (h : Rising s.prods) : (orphanOpen s r).prod r = none := by
  unfold orphanOpen
  split
  · unfold State.prod
    rw [(prods_bumpOrphan _ _ _).1]
    exact prod_setProd _ _ _ (rising_rewindOpen _ _ _ h)
  · next e => exact e

theorem conss_orphanOpen (s : State) (r : Nat) : (orphanOpen s r).conss = s.conss := by
  unfold orphanOpen
  split
  · rw [(prods_bumpOrphan _ _ _).2]
    exact conss_rewindOpen _ _ _
  · rfl

theorem prod_qSelect (s : State) (r q : Nat) (h : Rising s.prods) : (qSelect s r q).prod r = none := by
  have a := prod_orphanOpen s r h
  unfold qSelect
  dsimp only
  split
  · split
    · exact a
    · unfold State.prod
      rw [(prods_bumpOrphan _ _ _).1, prods_dropClaim]
      exact a
  · exact a

theorem cons_dropClaim (s : State) (r : Nat) (h : Rising s.conss) : (dropClaim s r).cons r = none := by
  unfold dropClaim
  split
  · unfold State.cons
    rw [(prods_freeBlocks ..).2]
    exact cons_setCons _ _ _ h
  · next e => exact e

/-- QSEL keeps a claim on the queue it selects, and no other. -/
theorem cons_qSelect (s : State) (r q : Nat) (h : Rising s.conss) : (qSelect s r q).cons r = (s.cons r).filter fun x => decide (x.q = q) := by
  have a : (orphanOpen s r).cons r = s.cons r := by unfold State.cons; rw [conss_orphanOpen]
  unfold qSelect
  dsimp only
  rw [a]
  cases e : s.cons r with
  | none => exact a.trans e
  | some x =>
    dsimp only
    by_cases hq : x.q = q
    · rw [if_pos hq, a, e]
      exact (show (some x).filter (fun x => decide (x.q = q)) = some x by simp [hq]).symm
    · rw [if_neg hq]
      have n : (some x).filter (fun x => decide (x.q = q)) = none := by simp [hq]
      rw [n]
      unfold State.cons
      rw [(prods_bumpOrphan _ _ _).2]
      exact cons_dropClaim _ _ ((conss_orphanOpen s r).symm ▸ h)

theorem cores_countWait (s : State) (q : Nat) : (countWait s q).cores = s.cores := by
  unfold countWait noteStarved
  rw [cores_foldl]
  · rfl
  · intro s c
    dsimp only
    split
    · exact cores_fire _ _
    · rfl

theorem curQid_of_pipe {c d : CoreState} (h : pipe c = pipe d) : c.curQid = d.curQid := by
  have a := congrArg CoreState.w1 h
  have b := congrArg CoreState.w2 h
  have e := congrArg CoreState.qid h
  have a' : c.w1 = d.w1 := a
  have b' : c.w2 = d.w2 := b
  have e' : c.qid = d.qid := e
  unfold CoreState.curQid
  rw [a', b', e']

theorem queue_modQueue (s : State) (q : Nat) (f : Queue → Queue) (h : Rising s.queues) : (s.modQueue q f).queue q = f (s.queue q) :=
  (tget_tset _ s.queues q q _ h).trans (if_pos rfl)

/-- Nothing stored is left after a flush. -/
theorem pkts_qFlush (s : State) (q : Nat) (h : Rising s.queues) : ((qFlush s q).1.queue q).pkts = [] := by
  have hb : ∀ (t : State) n, t.queues = s.queues → Rising (addDrops t q n).queues ∧ True := fun t n e => ⟨rising_tput _ _ _ (e ▸ h), trivial⟩
  let R : State → Prop := fun t => Rising t.queues ∧ (t.queue q).pkts = []
  have drops : ∀ (t : State) n, R t → R (addDrops t q n) := by
    rintro t n ⟨a, b⟩
    refine ⟨rising_tput _ _ _ a, ?_⟩
    unfold addDrops
    rw [queue_modQueue _ _ _ a]
    exact b
  have st : R (flushStored s q).1 := by
    unfold flushStored
    dsimp only
    have k : ((consOf s q).foldl (fun s r => s.setCons r none) s).queues = s.queues :=
      foldl_keeps (fun t : State => t.queues = s.queues) (fun s r => s.setCons r none) (fun t a e => e) _ _ rfl
    generalize (consOf s q).foldl (fun s r => s.setCons r none) s = t at k
    have ht : Rising t.queues := k ▸ h
    have m : R (t.modQueue q fun x => { x with pkts := [], base := 0, blocks := [] }) := ⟨rising_tput _ _ _ ht, by rw [queue_modQueue _ _ _ ht]⟩
    exact drops _ _ m
  unfold qFlush
  dsimp only
  refine (drops _ _ ?_).2
  apply foldl_keeps R _ _ _ _ st
  intro t a e
  split
  · exact e
  · exact e

end Sys2Proof.Laws
end

