-- ==== Sys2Proof/Laws/Registers.lean ====
section
/-! SUPPORT. What a write of a register comes to. -/

set_option linter.all false

namespace Sys2Proof.Laws

open Sys2Proof.Machine

theorem ctl_done {s u : State} {req addr : Nat} {v w : Word} (h : ctlWrite s req addr v = (u, .done w)) : cmdWrite s req addr v = u := by
  unfold cmdWrite; rw [h]; rfl

theorem ctl_denied {s u : State} {req addr : Nat} {v : Word} (h : ctlWrite s req addr v = (u, .denied)) : cmdWrite s req addr v = u := by
  unfold cmdWrite; rw [h]; rfl

theorem ctl_full {s u : State} {req addr : Nat} {v : Word} (h : ctlWrite s req addr v = (u, .full)) : cmdWrite s req addr v = u := by
  unfold cmdWrite; rw [h]; rfl

theorem ctl_absent {s u : State} {req addr : Nat} {v : Word} (h : ctlWrite s req addr v = (u, .absent)) : cmdWrite s req addr v = u := by
  unfold cmdWrite; rw [h]; rfl

theorem ctl_waits {s u : State} {req addr : Nat} {v : Word} (h : ctlWrite s req addr v = (u, .waits)) :
    cmdWrite s req addr v = if 256 ≤ req then waitAtSeam s req addr (some v) else s := by
  unfold cmdWrite; rw [h]; rfl

/-- A write of a register that its gate lets through and its requester may write. -/
theorem ctl_open {s : State} {req addr : Nat} {b : Blk} {i k : Nat} {d : RegDesc} (v : Word) (hn : named addr = some (b, i, d, k))
    (hg : gate s b i (d.off + d.stride * k) addr = .open_) (ha : d.acc ≠ .ro) (hr : writeRight s req b i d k = true) :
    ctlWrite s req addr v = if d.hook = .order then orderWrite s b i k req v else regWrite s req b i d k v := by
  unfold ctlWrite
  rw [hn]
  dsimp only
  rw [hg]
  dsimp only
  rw [if_neg ha, if_pos hr]

/-- A permitted write of a register that is neither an order port nor journaled. -/
theorem may_write {s : State} {req addr : Nat} {b : Blk} {i k : Nat} {d : RegDesc} (v : Word) (hn : named addr = some (b, i, d, k))
    (hm : mayWrite s req addr = true) (ha : d.acc ≠ .ro) (ho : d.hook ≠ .order) (hj : regJournaled d = false) :
    cmdWrite s req addr v =
      crossValue (noteWrite (storeReg s b i d k (s.roleOf req) v).1 req b i (d.off + d.stride * k) (storeReg s b i d k (s.roleOf req) v).2)
        b i (d.off + d.stride * k) := by
  unfold mayWrite at hm
  rw [hn] at hm
  dsimp only at hm
  have hg : gate s b i (d.off + d.stride * k) addr = .open_ := by
    cases e : gate s b i (d.off + d.stride * k) addr
    all_goals first | rfl | (rw [e] at hm; exact nomatch hm)
  rw [hg] at hm
  refine ctl_done (w := w32 (storeReg s b i d k (s.roleOf req) v).2) ?_
  rw [ctl_open v hn hg ha hm, if_neg ho]
  unfold regWrite
  dsimp only
  rw [hj]
  rfl

/-- One step of the search for a window. -/
theorem window_step (addr : Nat) (b : Blk) (l : List Blk) (f : Blk → Option (Blk × Nat × Nat))
    (hf : ∀ b, f b = if (blkWindow b).1 ≤ addr ∧ addr < (blkWindow b).1 + (blkWindow b).2.1 * (blkWindow b).2.2 then
      some (b, (addr - (blkWindow b).1) / (blkWindow b).2.1, (addr - (blkWindow b).1) % (blkWindow b).2.1) else none) :
    (¬((blkWindow b).1 ≤ addr ∧ addr < (blkWindow b).1 + (blkWindow b).2.1 * (blkWindow b).2.2) → (b :: l).findSome? f = l.findSome? f) ∧
    ((blkWindow b).1 ≤ addr ∧ addr < (blkWindow b).1 + (blkWindow b).2.1 * (blkWindow b).2.2 →
      (b :: l).findSome? f = some (b, (addr - (blkWindow b).1) / (blkWindow b).2.1, (addr - (blkWindow b).1) % (blkWindow b).2.1)) := by
  refine ⟨fun h => ?_, fun h => ?_⟩
  · rw [List.findSome?_cons, hf, if_neg h]
  · rw [List.findSome?_cons, hf, if_pos h]

/-- The window a control address of a block instance lies in. -/
theorem blkOf_regAddr (b : Blk) (i off : Nat) (hi : i < (blkWindow b).2.2) (ho : off < (blkWindow b).2.1) : blkOf (regAddr b i off) = some (b, i, off) := by
  have st := fun b' l => window_step (regAddr b i off) b' l (fun b' => match blkWindow b' with
    | (base, size, n) => if base ≤ regAddr b i off ∧ regAddr b i off < base + size * n then some (b', (regAddr b i off - base) / size, (regAddr b i off - base) % size) else none)
    (fun b' => rfl)
  show List.findSome? _ allBlks = _
  unfold allBlks
  cases b <;> simp only [blkWindow] at hi ho <;>
    (repeat (first
      | rw [(st _ _).1 (by simp only [blkWindow, regAddr]; omega)]
      | rw [(st _ _).2 (by simp only [blkWindow, regAddr]; omega)])) <;>
    (refine congrArg some (Prod.ext rfl (Prod.ext ?_ ?_)) <;> simp only [blkWindow, regAddr] <;> omega)

theorem named_regAddr (b : Blk) (i off : Nat) (hi : i < (blkWindow b).2.2) (ho : off < (blkWindow b).2.1) :
    named (regAddr b i off) = (findReg (blkRegs b) off).map fun x => (b, i, x.1, x.2) := by
  unfold named
  rw [blkOf_regAddr b i off hi ho]

theorem findReg_cons (d : RegDesc) (rs : List RegDesc) (off : Nat) :
    (¬(d.off ≤ off ∧ (off - d.off) % d.stride = 0 ∧ (off - d.off) / d.stride < d.count) → findReg (d :: rs) off = findReg rs off) ∧
    (d.off ≤ off ∧ (off - d.off) % d.stride = 0 ∧ (off - d.off) / d.stride < d.count → findReg (d :: rs) off = some (d, (off - d.off) / d.stride)) := by
  unfold findReg
  refine ⟨fun h => ?_, fun h => ?_⟩
  · rw [List.findSome?_cons, if_neg h]
  · rw [List.findSome?_cons, if_pos h]

/-- A permitted write of a journaled register. -/
theorem may_write_journaled {s : State} {req addr : Nat} {b : Blk} {i k : Nat} {d : RegDesc} (v : Word) (hn : named addr = some (b, i, d, k))
    (hm : mayWrite s req addr = true) (ha : d.acc ≠ .ro) (ho : d.hook ≠ .order) (hj : regJournaled d = true) :
    (journalReady s = true → cmdWrite s req addr v =
      (let role := s.roleOf req
       let off := d.off + d.stride * k
       let a := mkAct s req 0x1000 (w32 (regAddr b i off - 0xE0000000)) (d64 (s.reg b i off).toNat) (d64 ((storeReg s b i d k role v).1.reg b i off).toNat) 0 (blkType b % 256)
       let y := storeReg (journal s a) b i d k role v
       crossValue (noteWrite y.1 req b i off y.2) b i off)) ∧
    (journalReady s = false → cmdWrite s req addr v = (s.bump .mantle 0 MANTLE_JR_CNT_FULL).logClamp b i 2 (d.off + d.stride * k) (s.roleOf req)) := by
  unfold mayWrite at hm
  rw [hn] at hm
  dsimp only at hm
  have hg : gate s b i (d.off + d.stride * k) addr = .open_ := by
    cases e : gate s b i (d.off + d.stride * k) addr
    all_goals first | rfl | (rw [e] at hm; exact nomatch hm)
  rw [hg] at hm
  have co := ctl_open v hn hg ha hm
  rw [if_neg ho] at co
  unfold regWrite at co
  dsimp only at co
  rw [if_pos hj] at co
  refine ⟨fun r => ?_, fun r => ?_⟩
  · rw [if_pos r] at co
    exact ctl_done co
  · rw [if_neg (by rw [r]; exact Bool.noConfusion)] at co
    exact ctl_full co

theorem hedge_chan (k : Nat) (h : k < 2048) : findReg (blkRegs .hedge) (HEDGE_CHAN + 4 * k) = some (⟨0x1000, 2048, 4, .rw, 12, 0x0, [⟨0, 0, .rw, .any⟩, ⟨1, 1, .rw, .any⟩], .hchan⟩, k) := by
  show findReg (hedgeRegs0 ++ _) (0x1000 + 4 * k) = _
  unfold hedgeRegs0
  simp only [List.cons_append, List.nil_append]
  iterate 16 rw [(findReg_cons _ _ _).1 (by dsimp only; omega)]
  rw [(findReg_cons _ _ _).2 (by dsimp only; omega)]
  refine congrArg some (Prod.ext rfl ?_)
  dsimp only
  omega

theorem hedge_psel (k : Nat) (h : k < 2352) : findReg (blkRegs .hedge) (HEDGE_PSEL + 4 * k) = some (⟨0x4000, 2352, 4, .rw, 12, 0x0, [⟨10, 0, .rw, .any⟩, ⟨11, 11, .rw, .any⟩, ⟨18, 17, .ro, .any⟩], .psel⟩, k) := by
  show findReg (hedgeRegs0 ++ _) (0x4000 + 4 * k) = _
  unfold hedgeRegs0
  simp only [List.cons_append, List.nil_append]
  iterate 17 rw [(findReg_cons _ _ _).1 (by dsimp only; omega)]
  rw [(findReg_cons _ _ _).2 (by dsimp only; omega)]
  refine congrArg some (Prod.ext rfl ?_)
  dsimp only
  omega

theorem hedge_tsel (k : Nat) (h : k < 2880) : findReg (blkRegs .hedge) (HEDGE_TSEL + 4 * k) = some (⟨0x8000, 2880, 4, .rw, 12, 0x0, [⟨10, 0, .rw, .any⟩, ⟨11, 11, .rw, .any⟩, ⟨16, 12, .rw, (.range 0 21)⟩, ⟨18, 17, .ro, .any⟩], .tsel⟩, k) := by
  show findReg (hedgeRegs0 ++ _) (0x8000 + 4 * k) = _
  unfold hedgeRegs0
  simp only [List.cons_append, List.nil_append]
  iterate 18 rw [(findReg_cons _ _ _).1 (by dsimp only; omega)]
  rw [(findReg_cons _ _ _).2 (by dsimp only; omega)]
  refine congrArg some (Prod.ext rfl ?_)
  dsimp only
  omega

set_option maxRecDepth 20000 in
theorem lane_ovr_all : ((List.range 129).all fun n => [true, false].all fun e => (findReg (blkRegs .lane) (ovrOff n e)).all fun x =>
    regJournaled x.1 && decide (x.1.acc ≠ .ro ∧ x.1.hook ≠ .order ∧ ovrOff n e = x.1.off + x.1.stride * x.2)) = true := by decide

theorem lane_ovr (node : Nat) (e : Bool) (h : node ≤ 128) (d : RegDesc) (k : Nat) (hf : findReg (blkRegs .lane) (ovrOff node e) = some (d, k)) :
    regJournaled d = true ∧ d.acc ≠ .ro ∧ d.hook ≠ .order ∧ ovrOff node e = d.off + d.stride * k := by
  have a := List.all_eq_true.1 lane_ovr_all node (List.mem_range.2 (by omega))
  have b := List.all_eq_true.1 a e (by cases e <;> decide)
  rw [hf] at b
  have c := Bool.and_eq_true_iff.1 (show (regJournaled d && decide (d.acc ≠ .ro ∧ d.hook ≠ .order ∧ ovrOff node e = d.off + d.stride * k)) = true from b)
  have f := of_decide_eq_true c.2
  exact ⟨c.1, f.1, f.2.1, f.2.2⟩

theorem named_paceMin (m : Nat) (h : m < 32) : named (regAddr .meadow m MEADOW_PACE_MIN) = some (.meadow, m, ⟨0x104, 1, 4, .rw, 12, 0xFFFF, [⟨31, 31, .wo, .any⟩], .paceMin⟩, 0) :=
  (named_regAddr .meadow m MEADOW_PACE_MIN h (by decide)).trans rfl

theorem named_gov (m : Nat) (h : m < 32) : named (regAddr .meadow m MEADOW_GOV) = some (.meadow, m, ⟨0x204, 1, 4, .rw, 12, 0x2850701, [⟨1, 0, .rw, (.enum [0, 1, 2] 1)⟩, ⟨6, 4, .rw, .any⟩, ⟨10, 8, .rw, .any⟩, ⟨19, 12, .rw, (.range 1 100)⟩, ⟨27, 20, .rw, (.range 0 99)⟩], .gov⟩, 0) :=
  (named_regAddr .meadow m MEADOW_GOV h (by decide)).trans rfl

theorem named_swLimit (m : Nat) (h : m < 144) : named (regAddr .lane m LANE_SW_LIMIT) = some (.lane, m, ⟨0x40C, 1, 4, .rw, 12, 0x9623E8, [⟨9, 0, .rw, (.range 0 1000)⟩, ⟨13, 10, .rw, (.range 1 8)⟩, ⟨23, 14, .rw, (.range 1 600)⟩], .swLimit⟩, 0) :=
  (named_regAddr .lane m LANE_SW_LIMIT h (by decide)).trans rfl

theorem named_domLo : named (regAddr .heath 0 HEATH_DOM_ON_LO) = some (.heath, 0, ⟨0x1000, 1, 4, .rw, 12, 0x0, [⟨31, 0, .rw, .any⟩], .domOn⟩, 0) :=
  (named_regAddr .heath 0 HEATH_DOM_ON_LO (by decide) (by decide)).trans rfl

theorem named_domHi : named (regAddr .heath 0 HEATH_DOM_ON_HI) = some (.heath, 0, ⟨0x1004, 1, 4, .rw, 12, 0x0, [⟨17, 0, .rw, .any⟩], .domOn⟩, 0) :=
  (named_regAddr .heath 0 HEATH_DOM_ON_HI (by decide) (by decide)).trans rfl

theorem named_devMode : named (regAddr .heath 0 HEATH_DEV_MODE) = some (.heath, 0, ⟨0x1010, 1, 4, .rw, 12, 0x0, [⟨1, 0, .rw, .any⟩], .devMode⟩, 0) :=
  (named_regAddr .heath 0 HEATH_DEV_MODE (by decide) (by decide)).trans rfl

theorem named_tbRate : named (regAddr .heath 0 HEATH_TB_RATE) = some (.heath, 0, ⟨0x2018, 1, 4, .rw, 12, 0x0, [⟨31, 0, .rw, .any⟩], .tbRate⟩, 0) :=
  (named_regAddr .heath 0 HEATH_TB_RATE (by decide) (by decide)).trans rfl

theorem named_swFire : named (regAddr .hedge 0 HEDGE_SW_FIRE) = some (.hedge, 0, ⟨0x180, 1, 4, .wo, 12, 0x0, [⟨15, 0, .wo, .any⟩, ⟨18, 16, .wo, .any⟩], .swFire⟩, 0) :=
  (named_regAddr .hedge 0 HEDGE_SW_FIRE (by decide) (by decide)).trans rfl

theorem named_clampLog (b : Blk) (i : Nat) (h : i < (blkWindow b).2.2) : named (regAddr b i BLOCK_CLAMP_LOG) = some (b, i, ⟨0xF0, 1, 4, .rw, 12, 0x0, [⟨31, 31, .wo, .any⟩], .clampLog⟩, 0) := by
  cases b <;> exact (named_regAddr _ i BLOCK_CLAMP_LOG h (by decide)).trans rfl

theorem named_padGrp (k : Nat) (h : k < 18) : named (regAddr .pad 0 (PAD_GRP + 4 * k)) = some (.pad, 0, ⟨0x100, 18, 4, .rw, 12, 0x3, [⟨0, 0, .rw, .any⟩, ⟨1, 1, .rw, .any⟩, ⟨2, 2, .ro, .any⟩, ⟨3, 3, .wo, .any⟩], .padGrp⟩, k) := by
  have fr : ∀ k, k < 18 → findReg (blkRegs .pad) (PAD_GRP + 4 * k) = some (⟨0x100, 18, 4, .rw, 12, 0x3, [⟨0, 0, .rw, .any⟩, ⟨1, 1, .rw, .any⟩, ⟨2, 2, .ro, .any⟩, ⟨3, 3, .wo, .any⟩], .padGrp⟩, k) := by decide
  rw [named_regAddr .pad 0 _ (by decide) (by show 0x100 + 4 * k < 0x10000; omega), fr k h]
  rfl

theorem named_tsel (k : Nat) (h : k < 2880) : named (regAddr .hedge 0 (HEDGE_TSEL + 4 * k)) = some (.hedge, 0, ⟨0x8000, 2880, 4, .rw, 12, 0x0, [⟨10, 0, .rw, .any⟩, ⟨11, 11, .rw, .any⟩, ⟨16, 12, .rw, (.range 0 21)⟩, ⟨18, 17, .ro, .any⟩], .tsel⟩, k) := by
  rw [named_regAddr .hedge 0 _ (by decide) (by show 0x8000 + 4 * k < 0x100000; omega), hedge_tsel k h]
  rfl

theorem named_psel (k : Nat) (h : k < 2352) : named (regAddr .hedge 0 (HEDGE_PSEL + 4 * k)) = some (.hedge, 0, ⟨0x4000, 2352, 4, .rw, 12, 0x0, [⟨10, 0, .rw, .any⟩, ⟨11, 11, .rw, .any⟩, ⟨18, 17, .ro, .any⟩], .psel⟩, k) := by
  rw [named_regAddr .hedge 0 _ (by decide) (by show 0x4000 + 4 * k < 0x100000; omega), hedge_psel k h]
  rfl

theorem named_chan (k : Nat) (h : k < 2048) : named (regAddr .hedge 0 (HEDGE_CHAN + 4 * k)) = some (.hedge, 0, ⟨0x1000, 2048, 4, .rw, 12, 0x0, [⟨0, 0, .rw, .any⟩, ⟨1, 1, .rw, .any⟩], .hchan⟩, k) := by
  rw [named_regAddr .hedge 0 _ (by decide) (by show 0x1000 + 4 * k < 0x100000; omega), hedge_chan k h]
  rfl

/-- A register that acts where it stands has no value to cross. -/
theorem cross_none {b : Blk} {i off : Nat} (s : State) (h : valueSeam b i off = none) : crossValue s b i off = s := by
  unfold crossValue
  rw [h]

/-- As `may_write`, at a register's own address. -/
theorem may_at {s : State} {req : Nat} {b : Blk} {i off k : Nat} {d : RegDesc} (v : Word) (hn : named (regAddr b i off) = some (b, i, d, k))
    (he : off = d.off + d.stride * k) (hm : mayWrite s req (regAddr b i off) = true) (ha : decide (d.acc = .ro) = false) (ho : decide (d.hook = .order) = false)
    (hj : regJournaled d = false) : cmdWrite s req (regAddr b i off) v =
      crossValue (noteWrite (storeReg s b i d k (s.roleOf req) v).1 req b i off (storeReg s b i d k (s.roleOf req) v).2) b i off := by
  subst he
  exact may_write v hn hm (of_decide_eq_false ha) (of_decide_eq_false ho) hj

theorem lane_param (second : Bool) (d : RegDesc) (k : Nat) (hf : findReg (blkRegs .lane) (if second then LANE_SW_PARAM2 else LANE_SW_PARAM) = some (d, k)) :
    regJournaled d = true ∧ d.acc ≠ .ro ∧ d.hook ≠ .order ∧ (if second then LANE_SW_PARAM2 else LANE_SW_PARAM) = d.off + d.stride * k := by
  have a : ([true, false].all fun e => (findReg (blkRegs .lane) (if e then LANE_SW_PARAM2 else LANE_SW_PARAM)).all fun x =>
      regJournaled x.1 && decide (x.1.acc ≠ .ro ∧ x.1.hook ≠ .order ∧ (if e then LANE_SW_PARAM2 else LANE_SW_PARAM) = x.1.off + x.1.stride * x.2)) = true := by decide
  have b := List.all_eq_true.1 a second (by cases second <;> decide)
  rw [hf] at b
  have c := Bool.and_eq_true_iff.1 (show (regJournaled d && decide (d.acc ≠ .ro ∧ d.hook ≠ .order ∧ (if second then LANE_SW_PARAM2 else LANE_SW_PARAM) = d.off + d.stride * k)) = true from b)
  have f := of_decide_eq_true c.2
  exact ⟨c.1, f.1, f.2.1, f.2.2⟩

end Sys2Proof.Laws
end

