-- ==== Sys2Proof/Laws/Seams.lean ====
section
/-! SUPPORT. Everything that an offered pulse, a written value and an entry of a FIFO can do at a seam. -/

namespace Sys2Proof.Laws

open Sys2Proof.Machine

/-- A pulse joins the one that waits, or waits for the acknowledge in progress, or flips the toggle and crosses (R465). -/
theorem pulseOffer_does (s : State) (k p hop : Nat) :
    (∃ h, (s.pulse p).pending = some h ∧
        pulseOffer s k p hop = (bumpMerged (s.setPulse p { s.pulse p with pending := some (max h hop) }) k, false)) ∨
      ((s.pulse p).pending = none ∧ phaseRuns s (s.pulse p).ackEnd = true ∧
        pulseOffer s k p hop = (s.setPulse p { s.pulse p with pending := some hop }, false)) ∨
      ((s.pulse p).pending = none ∧ phaseRuns s (s.pulse p).ackEnd = false ∧
        pulseOffer s k p hop = (s.setPulse p { toggle := !(s.pulse p).toggle, ackEnd := some (s.uptime + ackNs s k) }, true)) := by
  cases h : (s.pulse p).pending with
  | some x => exact .inl ⟨x, rfl, by simp [pulseOffer, h]⟩
  | none => cases e : phaseRuns s (s.pulse p).ackEnd <;> simp [pulseOffer, h, e]

/-- A value replaces the one that waits, or waits for its crossing, or crosses (R466, R470). -/
theorem valueWrite_does (s : State) (k a : Nat) :
    ((s.crossing a).waiting = true ∧ valueWrite s k a = s.bump .seam 0 SEAM_CNT_SUPERSEDED) ∨
      ((s.crossing a).waiting = false ∧ (phaseRuns s (s.crossing a).ackEnd = true ∨ seamStopped s k = true) ∧
        valueWrite s k a = s.setCrossing a { s.crossing a with seam := k, waiting := true }) ∨
      ((s.crossing a).waiting = false ∧ phaseRuns s (s.crossing a).ackEnd = false ∧ seamStopped s k = false ∧
        valueWrite s k a = s.setCrossing a
          { seam := k, take := !(s.crossing a).take, ackEnd := some (s.uptime + ackNs s k), waiting := false }) := by
  cases w : (s.crossing a).waiting with
  | true => simp [valueWrite, w]
  | false =>
    cases e : phaseRuns s (s.crossing a).ackEnd <;> cases f : seamStopped s k <;> simp [valueWrite, w, e, f, Crossing.go]

/-- A FIFO takes an entry exactly when it is not full, behind those that stand (R467, R468). -/
theorem fifoPut_does (s : State) (k : Nat) (f : FifoKind) (e : Nat) :
    fifoPut s k f e =
      if fifoDepth k f ≤ (fifoHas s k f).length then none else some (s.setFifo (fifoKey k f) (fifoHas s k f ++ [e])) := by
  simp [fifoPut, fifoFull]

/-- A frame that overflows its FIFO counts once and is cut; any other passes and changes nothing (R468). -/
theorem fifoPour_does (s : State) (k : Nat) (f : FifoKind) (behind : Nat) :
    (fifoDepth k f < (fifoHas s k f).length + behind ∧ fifoPour s k f behind = (s.bump .seam 0 SEAM_CNT_OVERFLOW, true)) ∨
      ((fifoHas s k f).length + behind ≤ fifoDepth k f ∧ fifoPour s k f behind = (s, false)) := by
  by_cases h : fifoDepth k f < (fifoHas s k f).length + behind
  · simp [fifoPour, h]
  · exact .inr ⟨by omega, by simp [fifoPour, h]⟩

end Sys2Proof.Laws
end

