-- ==== Sys2Proof/Laws/State.lean ====
section
/-! SUPPORT. For each update of the state, what it writes and that every other field is as before, so that no proof unfolds an update,
and that what is written at a key is read back there and nowhere else. -/

namespace Sys2Proof.Laws

open Sys2Proof.Machine

@[simp] theorem setLane_fields (s : State) (l : Nat) (x : Lane) :
    (s.setLane l x).lanes = tset {} s.lanes l x ∧ (s.setLane l x).pending = s.pending ∧ (s.setLane l x).uptime = s.uptime ∧
    (s.setLane l x).regs = s.regs ∧ (s.setLane l x).staging = s.staging ∧ (s.setLane l x).priv = s.priv ∧
    (s.setLane l x).tb = s.tb ∧ (s.setLane l x).queues = s.queues ∧ (s.setLane l x).qranges = s.qranges ∧
    (s.setLane l x).qmapped = s.qmapped ∧ (s.setLane l x).qapplying = s.qapplying ∧ (s.setLane l x).prods = s.prods ∧
    (s.setLane l x).conss = s.conss ∧ (s.setLane l x).chans = s.chans ∧ (s.setLane l x).starved = s.starved ∧
    (s.setLane l x).tis = s.tis ∧ (s.setLane l x).delays = s.delays ∧ (s.setLane l x).hmapped = s.hmapped ∧
    (s.setLane l x).happlying = s.happlying ∧ (s.setLane l x).hc2At = s.hc2At ∧ (s.setLane l x).hc2Due = s.hc2Due ∧
    (s.setLane l x).shelfTotal = s.shelfTotal ∧ (s.setLane l x).shelfFrom = s.shelfFrom ∧ (s.setLane l x).life = s.life ∧
    (s.setLane l x).faults = s.faults ∧ (s.setLane l x).faultHold = s.faultHold ∧ (s.setLane l x).faultWait = s.faultWait ∧
    (s.setLane l x).conds = s.conds ∧ (s.setLane l x).faultDue = s.faultDue ∧ (s.setLane l x).going = s.going ∧
    (s.setLane l x).freeing = s.freeing ∧ (s.setLane l x).snaps = s.snaps ∧ (s.setLane l x).stats = s.stats ∧
    (s.setLane l x).cores = s.cores ∧ (s.setLane l x).meadows = s.meadows ∧ (s.setLane l x).doms = s.doms ∧
    (s.setLane l x).dev = s.dev ∧ (s.setLane l x).descent = s.descent ∧ (s.setLane l x).restAtDescent = s.restAtDescent ∧
    (s.setLane l x).wake = s.wake ∧ (s.setLane l x).xref = s.xref ∧ (s.setLane l x).padHeld = s.padHeld ∧
    (s.setLane l x).gpioIn = s.gpioIn ∧ (s.setLane l x).gpioPulse = s.gpioPulse ∧ (s.setLane l x).sampler = s.sampler ∧
    (s.setLane l x).seams = s.seams ∧ (s.setLane l x).pulses = s.pulses ∧ (s.setLane l x).crossings = s.crossings ∧
    (s.setLane l x).fifos = s.fifos ∧ (s.setLane l x).seamWaits = s.seamWaits ∧ (s.setLane l x).seamEnds = s.seamEnds ∧
    (s.setLane l x).orders = s.orders ∧ (s.setLane l x).orderQ = s.orderQ ∧ (s.setLane l x).heldOrders = s.heldOrders ∧
    (s.setLane l x).heldComps = s.heldComps ∧ (s.setLane l x).hwHeld = s.hwHeld ∧ (s.setLane l x).mantle = s.mantle ∧
    (s.setLane l x).upls = s.upls ∧ (s.setLane l x).fedEpoch = s.fedEpoch ∧ (s.setLane l x).i2c = s.i2c ∧
    (s.setLane l x).boot = s.boot ∧ (s.setLane l x).request = s.request ∧ (s.setLane l x).requests = s.requests ∧
    (s.setLane l x).signedRole = s.signedRole ∧ (s.setLane l x).signedSlot = s.signedSlot ∧
    (s.setLane l x).debugOut = s.debugOut ∧ (s.setLane l x).debugWord = s.debugWord ∧ (s.setLane l x).free = s.free := by
  and_intros <;> rfl

theorem setLane_reads (s : State) (l : Nat) (x : Lane) (j : Nat) (h : Rising s.lanes) :
    (s.setLane l x).lane j = if j = l then x else s.lane j :=
  tget_tset _ _ _ _ _ h

@[simp] theorem setPulse_fields (s : State) (p : Nat) (x : Pulse) :
    (s.setPulse p x).pulses = tset {} s.pulses p x ∧ (s.setPulse p x).pending = s.pending ∧
    (s.setPulse p x).uptime = s.uptime ∧ (s.setPulse p x).regs = s.regs ∧ (s.setPulse p x).staging = s.staging ∧
    (s.setPulse p x).priv = s.priv ∧ (s.setPulse p x).tb = s.tb ∧ (s.setPulse p x).queues = s.queues ∧
    (s.setPulse p x).qranges = s.qranges ∧ (s.setPulse p x).qmapped = s.qmapped ∧ (s.setPulse p x).qapplying = s.qapplying ∧
    (s.setPulse p x).prods = s.prods ∧ (s.setPulse p x).conss = s.conss ∧ (s.setPulse p x).chans = s.chans ∧
    (s.setPulse p x).starved = s.starved ∧ (s.setPulse p x).lanes = s.lanes ∧ (s.setPulse p x).tis = s.tis ∧
    (s.setPulse p x).delays = s.delays ∧ (s.setPulse p x).hmapped = s.hmapped ∧ (s.setPulse p x).happlying = s.happlying ∧
    (s.setPulse p x).hc2At = s.hc2At ∧ (s.setPulse p x).hc2Due = s.hc2Due ∧ (s.setPulse p x).shelfTotal = s.shelfTotal ∧
    (s.setPulse p x).shelfFrom = s.shelfFrom ∧ (s.setPulse p x).life = s.life ∧ (s.setPulse p x).faults = s.faults ∧
    (s.setPulse p x).faultHold = s.faultHold ∧ (s.setPulse p x).faultWait = s.faultWait ∧ (s.setPulse p x).conds = s.conds ∧
    (s.setPulse p x).faultDue = s.faultDue ∧ (s.setPulse p x).going = s.going ∧ (s.setPulse p x).freeing = s.freeing ∧
    (s.setPulse p x).snaps = s.snaps ∧ (s.setPulse p x).stats = s.stats ∧ (s.setPulse p x).cores = s.cores ∧
    (s.setPulse p x).meadows = s.meadows ∧ (s.setPulse p x).doms = s.doms ∧ (s.setPulse p x).dev = s.dev ∧
    (s.setPulse p x).descent = s.descent ∧ (s.setPulse p x).restAtDescent = s.restAtDescent ∧
    (s.setPulse p x).wake = s.wake ∧ (s.setPulse p x).xref = s.xref ∧ (s.setPulse p x).padHeld = s.padHeld ∧
    (s.setPulse p x).gpioIn = s.gpioIn ∧ (s.setPulse p x).gpioPulse = s.gpioPulse ∧ (s.setPulse p x).sampler = s.sampler ∧
    (s.setPulse p x).seams = s.seams ∧ (s.setPulse p x).crossings = s.crossings ∧ (s.setPulse p x).fifos = s.fifos ∧
    (s.setPulse p x).seamWaits = s.seamWaits ∧ (s.setPulse p x).seamEnds = s.seamEnds ∧ (s.setPulse p x).orders = s.orders ∧
    (s.setPulse p x).orderQ = s.orderQ ∧ (s.setPulse p x).heldOrders = s.heldOrders ∧
    (s.setPulse p x).heldComps = s.heldComps ∧ (s.setPulse p x).hwHeld = s.hwHeld ∧ (s.setPulse p x).mantle = s.mantle ∧
    (s.setPulse p x).upls = s.upls ∧ (s.setPulse p x).fedEpoch = s.fedEpoch ∧ (s.setPulse p x).i2c = s.i2c ∧
    (s.setPulse p x).boot = s.boot ∧ (s.setPulse p x).request = s.request ∧ (s.setPulse p x).requests = s.requests ∧
    (s.setPulse p x).signedRole = s.signedRole ∧ (s.setPulse p x).signedSlot = s.signedSlot ∧
    (s.setPulse p x).debugOut = s.debugOut ∧ (s.setPulse p x).debugWord = s.debugWord ∧ (s.setPulse p x).free = s.free := by
  and_intros <;> rfl

theorem setPulse_reads (s : State) (p : Nat) (x : Pulse) (j : Nat) (h : Rising s.pulses) :
    (s.setPulse p x).pulse j = if j = p then x else s.pulse j :=
  tget_tset _ _ _ _ _ h

@[simp] theorem setCrossing_fields (s : State) (a : Nat) (x : Crossing) :
    (s.setCrossing a x).crossings = tset {} s.crossings a x ∧ (s.setCrossing a x).pending = s.pending ∧
    (s.setCrossing a x).uptime = s.uptime ∧ (s.setCrossing a x).regs = s.regs ∧ (s.setCrossing a x).staging = s.staging ∧
    (s.setCrossing a x).priv = s.priv ∧ (s.setCrossing a x).tb = s.tb ∧ (s.setCrossing a x).queues = s.queues ∧
    (s.setCrossing a x).qranges = s.qranges ∧ (s.setCrossing a x).qmapped = s.qmapped ∧
    (s.setCrossing a x).qapplying = s.qapplying ∧ (s.setCrossing a x).prods = s.prods ∧ (s.setCrossing a x).conss = s.conss ∧
    (s.setCrossing a x).chans = s.chans ∧ (s.setCrossing a x).starved = s.starved ∧ (s.setCrossing a x).lanes = s.lanes ∧
    (s.setCrossing a x).tis = s.tis ∧ (s.setCrossing a x).delays = s.delays ∧ (s.setCrossing a x).hmapped = s.hmapped ∧
    (s.setCrossing a x).happlying = s.happlying ∧ (s.setCrossing a x).hc2At = s.hc2At ∧
    (s.setCrossing a x).hc2Due = s.hc2Due ∧ (s.setCrossing a x).shelfTotal = s.shelfTotal ∧
    (s.setCrossing a x).shelfFrom = s.shelfFrom ∧ (s.setCrossing a x).life = s.life ∧ (s.setCrossing a x).faults = s.faults ∧
    (s.setCrossing a x).faultHold = s.faultHold ∧ (s.setCrossing a x).faultWait = s.faultWait ∧
    (s.setCrossing a x).conds = s.conds ∧ (s.setCrossing a x).faultDue = s.faultDue ∧ (s.setCrossing a x).going = s.going ∧
    (s.setCrossing a x).freeing = s.freeing ∧ (s.setCrossing a x).snaps = s.snaps ∧ (s.setCrossing a x).stats = s.stats ∧
    (s.setCrossing a x).cores = s.cores ∧ (s.setCrossing a x).meadows = s.meadows ∧ (s.setCrossing a x).doms = s.doms ∧
    (s.setCrossing a x).dev = s.dev ∧ (s.setCrossing a x).descent = s.descent ∧
    (s.setCrossing a x).restAtDescent = s.restAtDescent ∧ (s.setCrossing a x).wake = s.wake ∧
    (s.setCrossing a x).xref = s.xref ∧ (s.setCrossing a x).padHeld = s.padHeld ∧ (s.setCrossing a x).gpioIn = s.gpioIn ∧
    (s.setCrossing a x).gpioPulse = s.gpioPulse ∧ (s.setCrossing a x).sampler = s.sampler ∧
    (s.setCrossing a x).seams = s.seams ∧ (s.setCrossing a x).pulses = s.pulses ∧ (s.setCrossing a x).fifos = s.fifos ∧
    (s.setCrossing a x).seamWaits = s.seamWaits ∧ (s.setCrossing a x).seamEnds = s.seamEnds ∧
    (s.setCrossing a x).orders = s.orders ∧ (s.setCrossing a x).orderQ = s.orderQ ∧
    (s.setCrossing a x).heldOrders = s.heldOrders ∧ (s.setCrossing a x).heldComps = s.heldComps ∧
    (s.setCrossing a x).hwHeld = s.hwHeld ∧ (s.setCrossing a x).mantle = s.mantle ∧ (s.setCrossing a x).upls = s.upls ∧
    (s.setCrossing a x).fedEpoch = s.fedEpoch ∧ (s.setCrossing a x).i2c = s.i2c ∧ (s.setCrossing a x).boot = s.boot ∧
    (s.setCrossing a x).request = s.request ∧ (s.setCrossing a x).requests = s.requests ∧
    (s.setCrossing a x).signedRole = s.signedRole ∧ (s.setCrossing a x).signedSlot = s.signedSlot ∧
    (s.setCrossing a x).debugOut = s.debugOut ∧ (s.setCrossing a x).debugWord = s.debugWord ∧
    (s.setCrossing a x).free = s.free := by
  and_intros <;> rfl

theorem setCrossing_reads (s : State) (a : Nat) (x : Crossing) (j : Nat) (h : Rising s.crossings) :
    (s.setCrossing a x).crossing j = if j = a then x else s.crossing j :=
  tget_tset _ _ _ _ _ h

@[simp] theorem setFifo_fields (s : State) (k : Nat) (x : List Nat) :
    (s.setFifo k x).fifos = tset [] s.fifos k x ∧ (s.setFifo k x).pending = s.pending ∧ (s.setFifo k x).uptime = s.uptime ∧
    (s.setFifo k x).regs = s.regs ∧ (s.setFifo k x).staging = s.staging ∧ (s.setFifo k x).priv = s.priv ∧
    (s.setFifo k x).tb = s.tb ∧ (s.setFifo k x).queues = s.queues ∧ (s.setFifo k x).qranges = s.qranges ∧
    (s.setFifo k x).qmapped = s.qmapped ∧ (s.setFifo k x).qapplying = s.qapplying ∧ (s.setFifo k x).prods = s.prods ∧
    (s.setFifo k x).conss = s.conss ∧ (s.setFifo k x).chans = s.chans ∧ (s.setFifo k x).starved = s.starved ∧
    (s.setFifo k x).lanes = s.lanes ∧ (s.setFifo k x).tis = s.tis ∧ (s.setFifo k x).delays = s.delays ∧
    (s.setFifo k x).hmapped = s.hmapped ∧ (s.setFifo k x).happlying = s.happlying ∧ (s.setFifo k x).hc2At = s.hc2At ∧
    (s.setFifo k x).hc2Due = s.hc2Due ∧ (s.setFifo k x).shelfTotal = s.shelfTotal ∧ (s.setFifo k x).shelfFrom = s.shelfFrom ∧
    (s.setFifo k x).life = s.life ∧ (s.setFifo k x).faults = s.faults ∧ (s.setFifo k x).faultHold = s.faultHold ∧
    (s.setFifo k x).faultWait = s.faultWait ∧ (s.setFifo k x).conds = s.conds ∧ (s.setFifo k x).faultDue = s.faultDue ∧
    (s.setFifo k x).going = s.going ∧ (s.setFifo k x).freeing = s.freeing ∧ (s.setFifo k x).snaps = s.snaps ∧
    (s.setFifo k x).stats = s.stats ∧ (s.setFifo k x).cores = s.cores ∧ (s.setFifo k x).meadows = s.meadows ∧
    (s.setFifo k x).doms = s.doms ∧ (s.setFifo k x).dev = s.dev ∧ (s.setFifo k x).descent = s.descent ∧
    (s.setFifo k x).restAtDescent = s.restAtDescent ∧ (s.setFifo k x).wake = s.wake ∧ (s.setFifo k x).xref = s.xref ∧
    (s.setFifo k x).padHeld = s.padHeld ∧ (s.setFifo k x).gpioIn = s.gpioIn ∧ (s.setFifo k x).gpioPulse = s.gpioPulse ∧
    (s.setFifo k x).sampler = s.sampler ∧ (s.setFifo k x).seams = s.seams ∧ (s.setFifo k x).pulses = s.pulses ∧
    (s.setFifo k x).crossings = s.crossings ∧ (s.setFifo k x).seamWaits = s.seamWaits ∧
    (s.setFifo k x).seamEnds = s.seamEnds ∧ (s.setFifo k x).orders = s.orders ∧ (s.setFifo k x).orderQ = s.orderQ ∧
    (s.setFifo k x).heldOrders = s.heldOrders ∧ (s.setFifo k x).heldComps = s.heldComps ∧ (s.setFifo k x).hwHeld = s.hwHeld ∧
    (s.setFifo k x).mantle = s.mantle ∧ (s.setFifo k x).upls = s.upls ∧ (s.setFifo k x).fedEpoch = s.fedEpoch ∧
    (s.setFifo k x).i2c = s.i2c ∧ (s.setFifo k x).boot = s.boot ∧ (s.setFifo k x).request = s.request ∧
    (s.setFifo k x).requests = s.requests ∧ (s.setFifo k x).signedRole = s.signedRole ∧
    (s.setFifo k x).signedSlot = s.signedSlot ∧ (s.setFifo k x).debugOut = s.debugOut ∧
    (s.setFifo k x).debugWord = s.debugWord ∧ (s.setFifo k x).free = s.free := by
  and_intros <;> rfl

theorem setFifo_reads (s : State) (k : Nat) (x : List Nat) (j : Nat) (h : Rising s.fifos) :
    (s.setFifo k x).fifo j = if j = k then x else s.fifo j :=
  tget_tset _ _ _ _ _ h

@[simp] theorem setQueue_fields (s : State) (q : Nat) (x : Queue) :
    (s.setQueue q x).queues = tset {} s.queues q x ∧ (s.setQueue q x).pending = s.pending ∧
    (s.setQueue q x).uptime = s.uptime ∧ (s.setQueue q x).regs = s.regs ∧ (s.setQueue q x).staging = s.staging ∧
    (s.setQueue q x).priv = s.priv ∧ (s.setQueue q x).tb = s.tb ∧ (s.setQueue q x).qranges = s.qranges ∧
    (s.setQueue q x).qmapped = s.qmapped ∧ (s.setQueue q x).qapplying = s.qapplying ∧ (s.setQueue q x).prods = s.prods ∧
    (s.setQueue q x).conss = s.conss ∧ (s.setQueue q x).chans = s.chans ∧ (s.setQueue q x).starved = s.starved ∧
    (s.setQueue q x).lanes = s.lanes ∧ (s.setQueue q x).tis = s.tis ∧ (s.setQueue q x).delays = s.delays ∧
    (s.setQueue q x).hmapped = s.hmapped ∧ (s.setQueue q x).happlying = s.happlying ∧ (s.setQueue q x).hc2At = s.hc2At ∧
    (s.setQueue q x).hc2Due = s.hc2Due ∧ (s.setQueue q x).shelfTotal = s.shelfTotal ∧
    (s.setQueue q x).shelfFrom = s.shelfFrom ∧ (s.setQueue q x).life = s.life ∧ (s.setQueue q x).faults = s.faults ∧
    (s.setQueue q x).faultHold = s.faultHold ∧ (s.setQueue q x).faultWait = s.faultWait ∧ (s.setQueue q x).conds = s.conds ∧
    (s.setQueue q x).faultDue = s.faultDue ∧ (s.setQueue q x).going = s.going ∧ (s.setQueue q x).freeing = s.freeing ∧
    (s.setQueue q x).snaps = s.snaps ∧ (s.setQueue q x).stats = s.stats ∧ (s.setQueue q x).cores = s.cores ∧
    (s.setQueue q x).meadows = s.meadows ∧ (s.setQueue q x).doms = s.doms ∧ (s.setQueue q x).dev = s.dev ∧
    (s.setQueue q x).descent = s.descent ∧ (s.setQueue q x).restAtDescent = s.restAtDescent ∧
    (s.setQueue q x).wake = s.wake ∧ (s.setQueue q x).xref = s.xref ∧ (s.setQueue q x).padHeld = s.padHeld ∧
    (s.setQueue q x).gpioIn = s.gpioIn ∧ (s.setQueue q x).gpioPulse = s.gpioPulse ∧ (s.setQueue q x).sampler = s.sampler ∧
    (s.setQueue q x).seams = s.seams ∧ (s.setQueue q x).pulses = s.pulses ∧ (s.setQueue q x).crossings = s.crossings ∧
    (s.setQueue q x).fifos = s.fifos ∧ (s.setQueue q x).seamWaits = s.seamWaits ∧ (s.setQueue q x).seamEnds = s.seamEnds ∧
    (s.setQueue q x).orders = s.orders ∧ (s.setQueue q x).orderQ = s.orderQ ∧ (s.setQueue q x).heldOrders = s.heldOrders ∧
    (s.setQueue q x).heldComps = s.heldComps ∧ (s.setQueue q x).hwHeld = s.hwHeld ∧ (s.setQueue q x).mantle = s.mantle ∧
    (s.setQueue q x).upls = s.upls ∧ (s.setQueue q x).fedEpoch = s.fedEpoch ∧ (s.setQueue q x).i2c = s.i2c ∧
    (s.setQueue q x).boot = s.boot ∧ (s.setQueue q x).request = s.request ∧ (s.setQueue q x).requests = s.requests ∧
    (s.setQueue q x).signedRole = s.signedRole ∧ (s.setQueue q x).signedSlot = s.signedSlot ∧
    (s.setQueue q x).debugOut = s.debugOut ∧ (s.setQueue q x).debugWord = s.debugWord ∧ (s.setQueue q x).free = s.free := by
  and_intros <;> rfl

theorem setQueue_reads (s : State) (q : Nat) (x : Queue) (j : Nat) (h : Rising s.queues) :
    (s.setQueue q x).queue j = if j = q then x else s.queue j :=
  tget_tset _ _ _ _ _ h

@[simp] theorem setChan_fields (s : State) (c : Nat) (x : Chan) :
    (s.setChan c x).chans = tset {} s.chans c x ∧ (s.setChan c x).pending = s.pending ∧ (s.setChan c x).uptime = s.uptime ∧
    (s.setChan c x).regs = s.regs ∧ (s.setChan c x).staging = s.staging ∧ (s.setChan c x).priv = s.priv ∧
    (s.setChan c x).tb = s.tb ∧ (s.setChan c x).queues = s.queues ∧ (s.setChan c x).qranges = s.qranges ∧
    (s.setChan c x).qmapped = s.qmapped ∧ (s.setChan c x).qapplying = s.qapplying ∧ (s.setChan c x).prods = s.prods ∧
    (s.setChan c x).conss = s.conss ∧ (s.setChan c x).starved = s.starved ∧ (s.setChan c x).lanes = s.lanes ∧
    (s.setChan c x).tis = s.tis ∧ (s.setChan c x).delays = s.delays ∧ (s.setChan c x).hmapped = s.hmapped ∧
    (s.setChan c x).happlying = s.happlying ∧ (s.setChan c x).hc2At = s.hc2At ∧ (s.setChan c x).hc2Due = s.hc2Due ∧
    (s.setChan c x).shelfTotal = s.shelfTotal ∧ (s.setChan c x).shelfFrom = s.shelfFrom ∧ (s.setChan c x).life = s.life ∧
    (s.setChan c x).faults = s.faults ∧ (s.setChan c x).faultHold = s.faultHold ∧ (s.setChan c x).faultWait = s.faultWait ∧
    (s.setChan c x).conds = s.conds ∧ (s.setChan c x).faultDue = s.faultDue ∧ (s.setChan c x).going = s.going ∧
    (s.setChan c x).freeing = s.freeing ∧ (s.setChan c x).snaps = s.snaps ∧ (s.setChan c x).stats = s.stats ∧
    (s.setChan c x).cores = s.cores ∧ (s.setChan c x).meadows = s.meadows ∧ (s.setChan c x).doms = s.doms ∧
    (s.setChan c x).dev = s.dev ∧ (s.setChan c x).descent = s.descent ∧ (s.setChan c x).restAtDescent = s.restAtDescent ∧
    (s.setChan c x).wake = s.wake ∧ (s.setChan c x).xref = s.xref ∧ (s.setChan c x).padHeld = s.padHeld ∧
    (s.setChan c x).gpioIn = s.gpioIn ∧ (s.setChan c x).gpioPulse = s.gpioPulse ∧ (s.setChan c x).sampler = s.sampler ∧
    (s.setChan c x).seams = s.seams ∧ (s.setChan c x).pulses = s.pulses ∧ (s.setChan c x).crossings = s.crossings ∧
    (s.setChan c x).fifos = s.fifos ∧ (s.setChan c x).seamWaits = s.seamWaits ∧ (s.setChan c x).seamEnds = s.seamEnds ∧
    (s.setChan c x).orders = s.orders ∧ (s.setChan c x).orderQ = s.orderQ ∧ (s.setChan c x).heldOrders = s.heldOrders ∧
    (s.setChan c x).heldComps = s.heldComps ∧ (s.setChan c x).hwHeld = s.hwHeld ∧ (s.setChan c x).mantle = s.mantle ∧
    (s.setChan c x).upls = s.upls ∧ (s.setChan c x).fedEpoch = s.fedEpoch ∧ (s.setChan c x).i2c = s.i2c ∧
    (s.setChan c x).boot = s.boot ∧ (s.setChan c x).request = s.request ∧ (s.setChan c x).requests = s.requests ∧
    (s.setChan c x).signedRole = s.signedRole ∧ (s.setChan c x).signedSlot = s.signedSlot ∧
    (s.setChan c x).debugOut = s.debugOut ∧ (s.setChan c x).debugWord = s.debugWord ∧ (s.setChan c x).free = s.free := by
  and_intros <;> rfl

theorem setChan_reads (s : State) (c : Nat) (x : Chan) (j : Nat) (h : Rising s.chans) :
    (s.setChan c x).chan j = if j = c then x else s.chan j :=
  tget_tset _ _ _ _ _ h

@[simp] theorem setProd_fields (s : State) (r : Nat) (x : Option ProdCtx) :
    (s.setProd r x).prods = tset none s.prods r x ∧ (s.setProd r x).pending = s.pending ∧ (s.setProd r x).uptime = s.uptime ∧
    (s.setProd r x).regs = s.regs ∧ (s.setProd r x).staging = s.staging ∧ (s.setProd r x).priv = s.priv ∧
    (s.setProd r x).tb = s.tb ∧ (s.setProd r x).queues = s.queues ∧ (s.setProd r x).qranges = s.qranges ∧
    (s.setProd r x).qmapped = s.qmapped ∧ (s.setProd r x).qapplying = s.qapplying ∧ (s.setProd r x).conss = s.conss ∧
    (s.setProd r x).chans = s.chans ∧ (s.setProd r x).starved = s.starved ∧ (s.setProd r x).lanes = s.lanes ∧
    (s.setProd r x).tis = s.tis ∧ (s.setProd r x).delays = s.delays ∧ (s.setProd r x).hmapped = s.hmapped ∧
    (s.setProd r x).happlying = s.happlying ∧ (s.setProd r x).hc2At = s.hc2At ∧ (s.setProd r x).hc2Due = s.hc2Due ∧
    (s.setProd r x).shelfTotal = s.shelfTotal ∧ (s.setProd r x).shelfFrom = s.shelfFrom ∧ (s.setProd r x).life = s.life ∧
    (s.setProd r x).faults = s.faults ∧ (s.setProd r x).faultHold = s.faultHold ∧ (s.setProd r x).faultWait = s.faultWait ∧
    (s.setProd r x).conds = s.conds ∧ (s.setProd r x).faultDue = s.faultDue ∧ (s.setProd r x).going = s.going ∧
    (s.setProd r x).freeing = s.freeing ∧ (s.setProd r x).snaps = s.snaps ∧ (s.setProd r x).stats = s.stats ∧
    (s.setProd r x).cores = s.cores ∧ (s.setProd r x).meadows = s.meadows ∧ (s.setProd r x).doms = s.doms ∧
    (s.setProd r x).dev = s.dev ∧ (s.setProd r x).descent = s.descent ∧ (s.setProd r x).restAtDescent = s.restAtDescent ∧
    (s.setProd r x).wake = s.wake ∧ (s.setProd r x).xref = s.xref ∧ (s.setProd r x).padHeld = s.padHeld ∧
    (s.setProd r x).gpioIn = s.gpioIn ∧ (s.setProd r x).gpioPulse = s.gpioPulse ∧ (s.setProd r x).sampler = s.sampler ∧
    (s.setProd r x).seams = s.seams ∧ (s.setProd r x).pulses = s.pulses ∧ (s.setProd r x).crossings = s.crossings ∧
    (s.setProd r x).fifos = s.fifos ∧ (s.setProd r x).seamWaits = s.seamWaits ∧ (s.setProd r x).seamEnds = s.seamEnds ∧
    (s.setProd r x).orders = s.orders ∧ (s.setProd r x).orderQ = s.orderQ ∧ (s.setProd r x).heldOrders = s.heldOrders ∧
    (s.setProd r x).heldComps = s.heldComps ∧ (s.setProd r x).hwHeld = s.hwHeld ∧ (s.setProd r x).mantle = s.mantle ∧
    (s.setProd r x).upls = s.upls ∧ (s.setProd r x).fedEpoch = s.fedEpoch ∧ (s.setProd r x).i2c = s.i2c ∧
    (s.setProd r x).boot = s.boot ∧ (s.setProd r x).request = s.request ∧ (s.setProd r x).requests = s.requests ∧
    (s.setProd r x).signedRole = s.signedRole ∧ (s.setProd r x).signedSlot = s.signedSlot ∧
    (s.setProd r x).debugOut = s.debugOut ∧ (s.setProd r x).debugWord = s.debugWord ∧ (s.setProd r x).free = s.free := by
  and_intros <;> rfl

theorem setProd_reads (s : State) (r : Nat) (x : Option ProdCtx) (j : Nat) (h : Rising s.prods) :
    (s.setProd r x).prod j = if j = r then x else s.prod j :=
  tget_tset _ _ _ _ _ h

@[simp] theorem setCons_fields (s : State) (r : Nat) (x : Option ConsCtx) :
    (s.setCons r x).conss = tset none s.conss r x ∧ (s.setCons r x).pending = s.pending ∧ (s.setCons r x).uptime = s.uptime ∧
    (s.setCons r x).regs = s.regs ∧ (s.setCons r x).staging = s.staging ∧ (s.setCons r x).priv = s.priv ∧
    (s.setCons r x).tb = s.tb ∧ (s.setCons r x).queues = s.queues ∧ (s.setCons r x).qranges = s.qranges ∧
    (s.setCons r x).qmapped = s.qmapped ∧ (s.setCons r x).qapplying = s.qapplying ∧ (s.setCons r x).prods = s.prods ∧
    (s.setCons r x).chans = s.chans ∧ (s.setCons r x).starved = s.starved ∧ (s.setCons r x).lanes = s.lanes ∧
    (s.setCons r x).tis = s.tis ∧ (s.setCons r x).delays = s.delays ∧ (s.setCons r x).hmapped = s.hmapped ∧
    (s.setCons r x).happlying = s.happlying ∧ (s.setCons r x).hc2At = s.hc2At ∧ (s.setCons r x).hc2Due = s.hc2Due ∧
    (s.setCons r x).shelfTotal = s.shelfTotal ∧ (s.setCons r x).shelfFrom = s.shelfFrom ∧ (s.setCons r x).life = s.life ∧
    (s.setCons r x).faults = s.faults ∧ (s.setCons r x).faultHold = s.faultHold ∧ (s.setCons r x).faultWait = s.faultWait ∧
    (s.setCons r x).conds = s.conds ∧ (s.setCons r x).faultDue = s.faultDue ∧ (s.setCons r x).going = s.going ∧
    (s.setCons r x).freeing = s.freeing ∧ (s.setCons r x).snaps = s.snaps ∧ (s.setCons r x).stats = s.stats ∧
    (s.setCons r x).cores = s.cores ∧ (s.setCons r x).meadows = s.meadows ∧ (s.setCons r x).doms = s.doms ∧
    (s.setCons r x).dev = s.dev ∧ (s.setCons r x).descent = s.descent ∧ (s.setCons r x).restAtDescent = s.restAtDescent ∧
    (s.setCons r x).wake = s.wake ∧ (s.setCons r x).xref = s.xref ∧ (s.setCons r x).padHeld = s.padHeld ∧
    (s.setCons r x).gpioIn = s.gpioIn ∧ (s.setCons r x).gpioPulse = s.gpioPulse ∧ (s.setCons r x).sampler = s.sampler ∧
    (s.setCons r x).seams = s.seams ∧ (s.setCons r x).pulses = s.pulses ∧ (s.setCons r x).crossings = s.crossings ∧
    (s.setCons r x).fifos = s.fifos ∧ (s.setCons r x).seamWaits = s.seamWaits ∧ (s.setCons r x).seamEnds = s.seamEnds ∧
    (s.setCons r x).orders = s.orders ∧ (s.setCons r x).orderQ = s.orderQ ∧ (s.setCons r x).heldOrders = s.heldOrders ∧
    (s.setCons r x).heldComps = s.heldComps ∧ (s.setCons r x).hwHeld = s.hwHeld ∧ (s.setCons r x).mantle = s.mantle ∧
    (s.setCons r x).upls = s.upls ∧ (s.setCons r x).fedEpoch = s.fedEpoch ∧ (s.setCons r x).i2c = s.i2c ∧
    (s.setCons r x).boot = s.boot ∧ (s.setCons r x).request = s.request ∧ (s.setCons r x).requests = s.requests ∧
    (s.setCons r x).signedRole = s.signedRole ∧ (s.setCons r x).signedSlot = s.signedSlot ∧
    (s.setCons r x).debugOut = s.debugOut ∧ (s.setCons r x).debugWord = s.debugWord ∧ (s.setCons r x).free = s.free := by
  and_intros <;> rfl

theorem setCons_reads (s : State) (r : Nat) (x : Option ConsCtx) (j : Nat) (h : Rising s.conss) :
    (s.setCons r x).cons j = if j = r then x else s.cons j :=
  tget_tset _ _ _ _ _ h

@[simp] theorem setTi_fields (s : State) (k : Nat) (x : TaskIn) :
    (s.setTi k x).tis = tset {} s.tis k x ∧ (s.setTi k x).pending = s.pending ∧ (s.setTi k x).uptime = s.uptime ∧
    (s.setTi k x).regs = s.regs ∧ (s.setTi k x).staging = s.staging ∧ (s.setTi k x).priv = s.priv ∧ (s.setTi k x).tb = s.tb ∧
    (s.setTi k x).queues = s.queues ∧ (s.setTi k x).qranges = s.qranges ∧ (s.setTi k x).qmapped = s.qmapped ∧
    (s.setTi k x).qapplying = s.qapplying ∧ (s.setTi k x).prods = s.prods ∧ (s.setTi k x).conss = s.conss ∧
    (s.setTi k x).chans = s.chans ∧ (s.setTi k x).starved = s.starved ∧ (s.setTi k x).lanes = s.lanes ∧
    (s.setTi k x).delays = s.delays ∧ (s.setTi k x).hmapped = s.hmapped ∧ (s.setTi k x).happlying = s.happlying ∧
    (s.setTi k x).hc2At = s.hc2At ∧ (s.setTi k x).hc2Due = s.hc2Due ∧ (s.setTi k x).shelfTotal = s.shelfTotal ∧
    (s.setTi k x).shelfFrom = s.shelfFrom ∧ (s.setTi k x).life = s.life ∧ (s.setTi k x).faults = s.faults ∧
    (s.setTi k x).faultHold = s.faultHold ∧ (s.setTi k x).faultWait = s.faultWait ∧ (s.setTi k x).conds = s.conds ∧
    (s.setTi k x).faultDue = s.faultDue ∧ (s.setTi k x).going = s.going ∧ (s.setTi k x).freeing = s.freeing ∧
    (s.setTi k x).snaps = s.snaps ∧ (s.setTi k x).stats = s.stats ∧ (s.setTi k x).cores = s.cores ∧
    (s.setTi k x).meadows = s.meadows ∧ (s.setTi k x).doms = s.doms ∧ (s.setTi k x).dev = s.dev ∧
    (s.setTi k x).descent = s.descent ∧ (s.setTi k x).restAtDescent = s.restAtDescent ∧ (s.setTi k x).wake = s.wake ∧
    (s.setTi k x).xref = s.xref ∧ (s.setTi k x).padHeld = s.padHeld ∧ (s.setTi k x).gpioIn = s.gpioIn ∧
    (s.setTi k x).gpioPulse = s.gpioPulse ∧ (s.setTi k x).sampler = s.sampler ∧ (s.setTi k x).seams = s.seams ∧
    (s.setTi k x).pulses = s.pulses ∧ (s.setTi k x).crossings = s.crossings ∧ (s.setTi k x).fifos = s.fifos ∧
    (s.setTi k x).seamWaits = s.seamWaits ∧ (s.setTi k x).seamEnds = s.seamEnds ∧ (s.setTi k x).orders = s.orders ∧
    (s.setTi k x).orderQ = s.orderQ ∧ (s.setTi k x).heldOrders = s.heldOrders ∧ (s.setTi k x).heldComps = s.heldComps ∧
    (s.setTi k x).hwHeld = s.hwHeld ∧ (s.setTi k x).mantle = s.mantle ∧ (s.setTi k x).upls = s.upls ∧
    (s.setTi k x).fedEpoch = s.fedEpoch ∧ (s.setTi k x).i2c = s.i2c ∧ (s.setTi k x).boot = s.boot ∧
    (s.setTi k x).request = s.request ∧ (s.setTi k x).requests = s.requests ∧ (s.setTi k x).signedRole = s.signedRole ∧
    (s.setTi k x).signedSlot = s.signedSlot ∧ (s.setTi k x).debugOut = s.debugOut ∧ (s.setTi k x).debugWord = s.debugWord ∧
    (s.setTi k x).free = s.free := by
  and_intros <;> rfl

theorem setTi_reads (s : State) (k : Nat) (x : TaskIn) (j : Nat) (h : Rising s.tis) :
    (s.setTi k x).ti j = if j = k then x else s.ti j :=
  tget_tset _ _ _ _ _ h

@[simp] theorem setCore_fields (s : State) (r : Nat) (x : CoreState) :
    (s.setCore r x).cores = tset {} s.cores r x ∧ (s.setCore r x).pending = s.pending ∧ (s.setCore r x).uptime = s.uptime ∧
    (s.setCore r x).regs = s.regs ∧ (s.setCore r x).staging = s.staging ∧ (s.setCore r x).priv = s.priv ∧
    (s.setCore r x).tb = s.tb ∧ (s.setCore r x).queues = s.queues ∧ (s.setCore r x).qranges = s.qranges ∧
    (s.setCore r x).qmapped = s.qmapped ∧ (s.setCore r x).qapplying = s.qapplying ∧ (s.setCore r x).prods = s.prods ∧
    (s.setCore r x).conss = s.conss ∧ (s.setCore r x).chans = s.chans ∧ (s.setCore r x).starved = s.starved ∧
    (s.setCore r x).lanes = s.lanes ∧ (s.setCore r x).tis = s.tis ∧ (s.setCore r x).delays = s.delays ∧
    (s.setCore r x).hmapped = s.hmapped ∧ (s.setCore r x).happlying = s.happlying ∧ (s.setCore r x).hc2At = s.hc2At ∧
    (s.setCore r x).hc2Due = s.hc2Due ∧ (s.setCore r x).shelfTotal = s.shelfTotal ∧ (s.setCore r x).shelfFrom = s.shelfFrom ∧
    (s.setCore r x).life = s.life ∧ (s.setCore r x).faults = s.faults ∧ (s.setCore r x).faultHold = s.faultHold ∧
    (s.setCore r x).faultWait = s.faultWait ∧ (s.setCore r x).conds = s.conds ∧ (s.setCore r x).faultDue = s.faultDue ∧
    (s.setCore r x).going = s.going ∧ (s.setCore r x).freeing = s.freeing ∧ (s.setCore r x).snaps = s.snaps ∧
    (s.setCore r x).stats = s.stats ∧ (s.setCore r x).meadows = s.meadows ∧ (s.setCore r x).doms = s.doms ∧
    (s.setCore r x).dev = s.dev ∧ (s.setCore r x).descent = s.descent ∧ (s.setCore r x).restAtDescent = s.restAtDescent ∧
    (s.setCore r x).wake = s.wake ∧ (s.setCore r x).xref = s.xref ∧ (s.setCore r x).padHeld = s.padHeld ∧
    (s.setCore r x).gpioIn = s.gpioIn ∧ (s.setCore r x).gpioPulse = s.gpioPulse ∧ (s.setCore r x).sampler = s.sampler ∧
    (s.setCore r x).seams = s.seams ∧ (s.setCore r x).pulses = s.pulses ∧ (s.setCore r x).crossings = s.crossings ∧
    (s.setCore r x).fifos = s.fifos ∧ (s.setCore r x).seamWaits = s.seamWaits ∧ (s.setCore r x).seamEnds = s.seamEnds ∧
    (s.setCore r x).orders = s.orders ∧ (s.setCore r x).orderQ = s.orderQ ∧ (s.setCore r x).heldOrders = s.heldOrders ∧
    (s.setCore r x).heldComps = s.heldComps ∧ (s.setCore r x).hwHeld = s.hwHeld ∧ (s.setCore r x).mantle = s.mantle ∧
    (s.setCore r x).upls = s.upls ∧ (s.setCore r x).fedEpoch = s.fedEpoch ∧ (s.setCore r x).i2c = s.i2c ∧
    (s.setCore r x).boot = s.boot ∧ (s.setCore r x).request = s.request ∧ (s.setCore r x).requests = s.requests ∧
    (s.setCore r x).signedRole = s.signedRole ∧ (s.setCore r x).signedSlot = s.signedSlot ∧
    (s.setCore r x).debugOut = s.debugOut ∧ (s.setCore r x).debugWord = s.debugWord ∧ (s.setCore r x).free = s.free := by
  and_intros <;> rfl

theorem setCore_reads (s : State) (r : Nat) (x : CoreState) (j : Nat) (h : Rising s.cores) :
    (s.setCore r x).core j = if j = r then x else s.core j :=
  tget_tset _ _ _ _ _ h

@[simp] theorem setMeadow_fields (s : State) (m : Nat) (x : Meadow) :
    (s.setMeadow m x).meadows = tset {} s.meadows m x ∧ (s.setMeadow m x).pending = s.pending ∧
    (s.setMeadow m x).uptime = s.uptime ∧ (s.setMeadow m x).regs = s.regs ∧ (s.setMeadow m x).staging = s.staging ∧
    (s.setMeadow m x).priv = s.priv ∧ (s.setMeadow m x).tb = s.tb ∧ (s.setMeadow m x).queues = s.queues ∧
    (s.setMeadow m x).qranges = s.qranges ∧ (s.setMeadow m x).qmapped = s.qmapped ∧
    (s.setMeadow m x).qapplying = s.qapplying ∧ (s.setMeadow m x).prods = s.prods ∧ (s.setMeadow m x).conss = s.conss ∧
    (s.setMeadow m x).chans = s.chans ∧ (s.setMeadow m x).starved = s.starved ∧ (s.setMeadow m x).lanes = s.lanes ∧
    (s.setMeadow m x).tis = s.tis ∧ (s.setMeadow m x).delays = s.delays ∧ (s.setMeadow m x).hmapped = s.hmapped ∧
    (s.setMeadow m x).happlying = s.happlying ∧ (s.setMeadow m x).hc2At = s.hc2At ∧ (s.setMeadow m x).hc2Due = s.hc2Due ∧
    (s.setMeadow m x).shelfTotal = s.shelfTotal ∧ (s.setMeadow m x).shelfFrom = s.shelfFrom ∧
    (s.setMeadow m x).life = s.life ∧ (s.setMeadow m x).faults = s.faults ∧ (s.setMeadow m x).faultHold = s.faultHold ∧
    (s.setMeadow m x).faultWait = s.faultWait ∧ (s.setMeadow m x).conds = s.conds ∧ (s.setMeadow m x).faultDue = s.faultDue ∧
    (s.setMeadow m x).going = s.going ∧ (s.setMeadow m x).freeing = s.freeing ∧ (s.setMeadow m x).snaps = s.snaps ∧
    (s.setMeadow m x).stats = s.stats ∧ (s.setMeadow m x).cores = s.cores ∧ (s.setMeadow m x).doms = s.doms ∧
    (s.setMeadow m x).dev = s.dev ∧ (s.setMeadow m x).descent = s.descent ∧
    (s.setMeadow m x).restAtDescent = s.restAtDescent ∧ (s.setMeadow m x).wake = s.wake ∧ (s.setMeadow m x).xref = s.xref ∧
    (s.setMeadow m x).padHeld = s.padHeld ∧ (s.setMeadow m x).gpioIn = s.gpioIn ∧ (s.setMeadow m x).gpioPulse = s.gpioPulse ∧
    (s.setMeadow m x).sampler = s.sampler ∧ (s.setMeadow m x).seams = s.seams ∧ (s.setMeadow m x).pulses = s.pulses ∧
    (s.setMeadow m x).crossings = s.crossings ∧ (s.setMeadow m x).fifos = s.fifos ∧
    (s.setMeadow m x).seamWaits = s.seamWaits ∧ (s.setMeadow m x).seamEnds = s.seamEnds ∧
    (s.setMeadow m x).orders = s.orders ∧ (s.setMeadow m x).orderQ = s.orderQ ∧ (s.setMeadow m x).heldOrders = s.heldOrders ∧
    (s.setMeadow m x).heldComps = s.heldComps ∧ (s.setMeadow m x).hwHeld = s.hwHeld ∧ (s.setMeadow m x).mantle = s.mantle ∧
    (s.setMeadow m x).upls = s.upls ∧ (s.setMeadow m x).fedEpoch = s.fedEpoch ∧ (s.setMeadow m x).i2c = s.i2c ∧
    (s.setMeadow m x).boot = s.boot ∧ (s.setMeadow m x).request = s.request ∧ (s.setMeadow m x).requests = s.requests ∧
    (s.setMeadow m x).signedRole = s.signedRole ∧ (s.setMeadow m x).signedSlot = s.signedSlot ∧
    (s.setMeadow m x).debugOut = s.debugOut ∧ (s.setMeadow m x).debugWord = s.debugWord ∧ (s.setMeadow m x).free = s.free := by
  and_intros <;> rfl

theorem setMeadow_reads (s : State) (m : Nat) (x : Meadow) (j : Nat) (h : Rising s.meadows) :
    (s.setMeadow m x).meadow j = if j = m then x else s.meadow j :=
  tget_tset _ _ _ _ _ h

@[simp] theorem setDom_fields (s : State) (d : Nat) (x : Domain) :
    (s.setDom d x).doms = tset {} s.doms d x ∧ (s.setDom d x).pending = s.pending ∧ (s.setDom d x).uptime = s.uptime ∧
    (s.setDom d x).regs = s.regs ∧ (s.setDom d x).staging = s.staging ∧ (s.setDom d x).priv = s.priv ∧
    (s.setDom d x).tb = s.tb ∧ (s.setDom d x).queues = s.queues ∧ (s.setDom d x).qranges = s.qranges ∧
    (s.setDom d x).qmapped = s.qmapped ∧ (s.setDom d x).qapplying = s.qapplying ∧ (s.setDom d x).prods = s.prods ∧
    (s.setDom d x).conss = s.conss ∧ (s.setDom d x).chans = s.chans ∧ (s.setDom d x).starved = s.starved ∧
    (s.setDom d x).lanes = s.lanes ∧ (s.setDom d x).tis = s.tis ∧ (s.setDom d x).delays = s.delays ∧
    (s.setDom d x).hmapped = s.hmapped ∧ (s.setDom d x).happlying = s.happlying ∧ (s.setDom d x).hc2At = s.hc2At ∧
    (s.setDom d x).hc2Due = s.hc2Due ∧ (s.setDom d x).shelfTotal = s.shelfTotal ∧ (s.setDom d x).shelfFrom = s.shelfFrom ∧
    (s.setDom d x).life = s.life ∧ (s.setDom d x).faults = s.faults ∧ (s.setDom d x).faultHold = s.faultHold ∧
    (s.setDom d x).faultWait = s.faultWait ∧ (s.setDom d x).conds = s.conds ∧ (s.setDom d x).faultDue = s.faultDue ∧
    (s.setDom d x).going = s.going ∧ (s.setDom d x).freeing = s.freeing ∧ (s.setDom d x).snaps = s.snaps ∧
    (s.setDom d x).stats = s.stats ∧ (s.setDom d x).cores = s.cores ∧ (s.setDom d x).meadows = s.meadows ∧
    (s.setDom d x).dev = s.dev ∧ (s.setDom d x).descent = s.descent ∧ (s.setDom d x).restAtDescent = s.restAtDescent ∧
    (s.setDom d x).wake = s.wake ∧ (s.setDom d x).xref = s.xref ∧ (s.setDom d x).padHeld = s.padHeld ∧
    (s.setDom d x).gpioIn = s.gpioIn ∧ (s.setDom d x).gpioPulse = s.gpioPulse ∧ (s.setDom d x).sampler = s.sampler ∧
    (s.setDom d x).seams = s.seams ∧ (s.setDom d x).pulses = s.pulses ∧ (s.setDom d x).crossings = s.crossings ∧
    (s.setDom d x).fifos = s.fifos ∧ (s.setDom d x).seamWaits = s.seamWaits ∧ (s.setDom d x).seamEnds = s.seamEnds ∧
    (s.setDom d x).orders = s.orders ∧ (s.setDom d x).orderQ = s.orderQ ∧ (s.setDom d x).heldOrders = s.heldOrders ∧
    (s.setDom d x).heldComps = s.heldComps ∧ (s.setDom d x).hwHeld = s.hwHeld ∧ (s.setDom d x).mantle = s.mantle ∧
    (s.setDom d x).upls = s.upls ∧ (s.setDom d x).fedEpoch = s.fedEpoch ∧ (s.setDom d x).i2c = s.i2c ∧
    (s.setDom d x).boot = s.boot ∧ (s.setDom d x).request = s.request ∧ (s.setDom d x).requests = s.requests ∧
    (s.setDom d x).signedRole = s.signedRole ∧ (s.setDom d x).signedSlot = s.signedSlot ∧
    (s.setDom d x).debugOut = s.debugOut ∧ (s.setDom d x).debugWord = s.debugWord ∧ (s.setDom d x).free = s.free := by
  and_intros <;> rfl

theorem setDom_reads (s : State) (d : Nat) (x : Domain) (j : Nat) (h : Rising s.doms) :
    (s.setDom d x).dom j = if j = d then x else s.dom j :=
  tget_tset _ _ _ _ _ h

@[simp] theorem setUpl_fields (s : State) (n : Nat) (x : Uplink) :
    (s.setUpl n x).upls = tset {} s.upls n x ∧ (s.setUpl n x).pending = s.pending ∧ (s.setUpl n x).uptime = s.uptime ∧
    (s.setUpl n x).regs = s.regs ∧ (s.setUpl n x).staging = s.staging ∧ (s.setUpl n x).priv = s.priv ∧
    (s.setUpl n x).tb = s.tb ∧ (s.setUpl n x).queues = s.queues ∧ (s.setUpl n x).qranges = s.qranges ∧
    (s.setUpl n x).qmapped = s.qmapped ∧ (s.setUpl n x).qapplying = s.qapplying ∧ (s.setUpl n x).prods = s.prods ∧
    (s.setUpl n x).conss = s.conss ∧ (s.setUpl n x).chans = s.chans ∧ (s.setUpl n x).starved = s.starved ∧
    (s.setUpl n x).lanes = s.lanes ∧ (s.setUpl n x).tis = s.tis ∧ (s.setUpl n x).delays = s.delays ∧
    (s.setUpl n x).hmapped = s.hmapped ∧ (s.setUpl n x).happlying = s.happlying ∧ (s.setUpl n x).hc2At = s.hc2At ∧
    (s.setUpl n x).hc2Due = s.hc2Due ∧ (s.setUpl n x).shelfTotal = s.shelfTotal ∧ (s.setUpl n x).shelfFrom = s.shelfFrom ∧
    (s.setUpl n x).life = s.life ∧ (s.setUpl n x).faults = s.faults ∧ (s.setUpl n x).faultHold = s.faultHold ∧
    (s.setUpl n x).faultWait = s.faultWait ∧ (s.setUpl n x).conds = s.conds ∧ (s.setUpl n x).faultDue = s.faultDue ∧
    (s.setUpl n x).going = s.going ∧ (s.setUpl n x).freeing = s.freeing ∧ (s.setUpl n x).snaps = s.snaps ∧
    (s.setUpl n x).stats = s.stats ∧ (s.setUpl n x).cores = s.cores ∧ (s.setUpl n x).meadows = s.meadows ∧
    (s.setUpl n x).doms = s.doms ∧ (s.setUpl n x).dev = s.dev ∧ (s.setUpl n x).descent = s.descent ∧
    (s.setUpl n x).restAtDescent = s.restAtDescent ∧ (s.setUpl n x).wake = s.wake ∧ (s.setUpl n x).xref = s.xref ∧
    (s.setUpl n x).padHeld = s.padHeld ∧ (s.setUpl n x).gpioIn = s.gpioIn ∧ (s.setUpl n x).gpioPulse = s.gpioPulse ∧
    (s.setUpl n x).sampler = s.sampler ∧ (s.setUpl n x).seams = s.seams ∧ (s.setUpl n x).pulses = s.pulses ∧
    (s.setUpl n x).crossings = s.crossings ∧ (s.setUpl n x).fifos = s.fifos ∧ (s.setUpl n x).seamWaits = s.seamWaits ∧
    (s.setUpl n x).seamEnds = s.seamEnds ∧ (s.setUpl n x).orders = s.orders ∧ (s.setUpl n x).orderQ = s.orderQ ∧
    (s.setUpl n x).heldOrders = s.heldOrders ∧ (s.setUpl n x).heldComps = s.heldComps ∧ (s.setUpl n x).hwHeld = s.hwHeld ∧
    (s.setUpl n x).mantle = s.mantle ∧ (s.setUpl n x).fedEpoch = s.fedEpoch ∧ (s.setUpl n x).i2c = s.i2c ∧
    (s.setUpl n x).boot = s.boot ∧ (s.setUpl n x).request = s.request ∧ (s.setUpl n x).requests = s.requests ∧
    (s.setUpl n x).signedRole = s.signedRole ∧ (s.setUpl n x).signedSlot = s.signedSlot ∧
    (s.setUpl n x).debugOut = s.debugOut ∧ (s.setUpl n x).debugWord = s.debugWord ∧ (s.setUpl n x).free = s.free := by
  and_intros <;> rfl

theorem setUpl_reads (s : State) (n : Nat) (x : Uplink) (j : Nat) (h : Rising s.upls) :
    (s.setUpl n x).upl j = if j = n then x else s.upl j :=
  tget_tset _ _ _ _ _ h

@[simp] theorem setFault_fields (s : State) (e : Nat) (x : FaultEntry) :
    (s.setFault e x).faults = tset {} s.faults e x ∧ (s.setFault e x).pending = s.pending ∧
    (s.setFault e x).uptime = s.uptime ∧ (s.setFault e x).regs = s.regs ∧ (s.setFault e x).staging = s.staging ∧
    (s.setFault e x).priv = s.priv ∧ (s.setFault e x).tb = s.tb ∧ (s.setFault e x).queues = s.queues ∧
    (s.setFault e x).qranges = s.qranges ∧ (s.setFault e x).qmapped = s.qmapped ∧ (s.setFault e x).qapplying = s.qapplying ∧
    (s.setFault e x).prods = s.prods ∧ (s.setFault e x).conss = s.conss ∧ (s.setFault e x).chans = s.chans ∧
    (s.setFault e x).starved = s.starved ∧ (s.setFault e x).lanes = s.lanes ∧ (s.setFault e x).tis = s.tis ∧
    (s.setFault e x).delays = s.delays ∧ (s.setFault e x).hmapped = s.hmapped ∧ (s.setFault e x).happlying = s.happlying ∧
    (s.setFault e x).hc2At = s.hc2At ∧ (s.setFault e x).hc2Due = s.hc2Due ∧ (s.setFault e x).shelfTotal = s.shelfTotal ∧
    (s.setFault e x).shelfFrom = s.shelfFrom ∧ (s.setFault e x).life = s.life ∧ (s.setFault e x).faultHold = s.faultHold ∧
    (s.setFault e x).faultWait = s.faultWait ∧ (s.setFault e x).conds = s.conds ∧ (s.setFault e x).faultDue = s.faultDue ∧
    (s.setFault e x).going = s.going ∧ (s.setFault e x).freeing = s.freeing ∧ (s.setFault e x).snaps = s.snaps ∧
    (s.setFault e x).stats = s.stats ∧ (s.setFault e x).cores = s.cores ∧ (s.setFault e x).meadows = s.meadows ∧
    (s.setFault e x).doms = s.doms ∧ (s.setFault e x).dev = s.dev ∧ (s.setFault e x).descent = s.descent ∧
    (s.setFault e x).restAtDescent = s.restAtDescent ∧ (s.setFault e x).wake = s.wake ∧ (s.setFault e x).xref = s.xref ∧
    (s.setFault e x).padHeld = s.padHeld ∧ (s.setFault e x).gpioIn = s.gpioIn ∧ (s.setFault e x).gpioPulse = s.gpioPulse ∧
    (s.setFault e x).sampler = s.sampler ∧ (s.setFault e x).seams = s.seams ∧ (s.setFault e x).pulses = s.pulses ∧
    (s.setFault e x).crossings = s.crossings ∧ (s.setFault e x).fifos = s.fifos ∧ (s.setFault e x).seamWaits = s.seamWaits ∧
    (s.setFault e x).seamEnds = s.seamEnds ∧ (s.setFault e x).orders = s.orders ∧ (s.setFault e x).orderQ = s.orderQ ∧
    (s.setFault e x).heldOrders = s.heldOrders ∧ (s.setFault e x).heldComps = s.heldComps ∧
    (s.setFault e x).hwHeld = s.hwHeld ∧ (s.setFault e x).mantle = s.mantle ∧ (s.setFault e x).upls = s.upls ∧
    (s.setFault e x).fedEpoch = s.fedEpoch ∧ (s.setFault e x).i2c = s.i2c ∧ (s.setFault e x).boot = s.boot ∧
    (s.setFault e x).request = s.request ∧ (s.setFault e x).requests = s.requests ∧
    (s.setFault e x).signedRole = s.signedRole ∧ (s.setFault e x).signedSlot = s.signedSlot ∧
    (s.setFault e x).debugOut = s.debugOut ∧ (s.setFault e x).debugWord = s.debugWord ∧ (s.setFault e x).free = s.free := by
  and_intros <;> rfl

theorem setFault_reads (s : State) (e : Nat) (x : FaultEntry) (j : Nat) (h : Rising s.faults) :
    (s.setFault e x).fault j = if j = e then x else s.fault j :=
  tget_tset _ _ _ _ _ h

@[simp] theorem setRegAt_fields (s : State) (a : Nat) (v : Word) :
    (s.setRegAt a v).pending = s.pending ∧ (s.setRegAt a v).uptime = s.uptime ∧ (s.setRegAt a v).staging = s.staging ∧
    (s.setRegAt a v).priv = s.priv ∧ (s.setRegAt a v).tb = s.tb ∧ (s.setRegAt a v).queues = s.queues ∧
    (s.setRegAt a v).qranges = s.qranges ∧ (s.setRegAt a v).qmapped = s.qmapped ∧ (s.setRegAt a v).qapplying = s.qapplying ∧
    (s.setRegAt a v).prods = s.prods ∧ (s.setRegAt a v).conss = s.conss ∧ (s.setRegAt a v).chans = s.chans ∧
    (s.setRegAt a v).starved = s.starved ∧ (s.setRegAt a v).lanes = s.lanes ∧ (s.setRegAt a v).tis = s.tis ∧
    (s.setRegAt a v).delays = s.delays ∧ (s.setRegAt a v).hmapped = s.hmapped ∧ (s.setRegAt a v).happlying = s.happlying ∧
    (s.setRegAt a v).hc2At = s.hc2At ∧ (s.setRegAt a v).hc2Due = s.hc2Due ∧ (s.setRegAt a v).shelfTotal = s.shelfTotal ∧
    (s.setRegAt a v).shelfFrom = s.shelfFrom ∧ (s.setRegAt a v).life = s.life ∧ (s.setRegAt a v).faults = s.faults ∧
    (s.setRegAt a v).faultHold = s.faultHold ∧ (s.setRegAt a v).faultWait = s.faultWait ∧ (s.setRegAt a v).conds = s.conds ∧
    (s.setRegAt a v).faultDue = s.faultDue ∧ (s.setRegAt a v).going = s.going ∧ (s.setRegAt a v).freeing = s.freeing ∧
    (s.setRegAt a v).snaps = s.snaps ∧ (s.setRegAt a v).stats = s.stats ∧ (s.setRegAt a v).cores = s.cores ∧
    (s.setRegAt a v).meadows = s.meadows ∧ (s.setRegAt a v).doms = s.doms ∧ (s.setRegAt a v).dev = s.dev ∧
    (s.setRegAt a v).descent = s.descent ∧ (s.setRegAt a v).restAtDescent = s.restAtDescent ∧
    (s.setRegAt a v).wake = s.wake ∧ (s.setRegAt a v).xref = s.xref ∧ (s.setRegAt a v).padHeld = s.padHeld ∧
    (s.setRegAt a v).gpioIn = s.gpioIn ∧ (s.setRegAt a v).gpioPulse = s.gpioPulse ∧ (s.setRegAt a v).sampler = s.sampler ∧
    (s.setRegAt a v).seams = s.seams ∧ (s.setRegAt a v).pulses = s.pulses ∧ (s.setRegAt a v).crossings = s.crossings ∧
    (s.setRegAt a v).fifos = s.fifos ∧ (s.setRegAt a v).seamWaits = s.seamWaits ∧ (s.setRegAt a v).seamEnds = s.seamEnds ∧
    (s.setRegAt a v).orders = s.orders ∧ (s.setRegAt a v).orderQ = s.orderQ ∧ (s.setRegAt a v).heldOrders = s.heldOrders ∧
    (s.setRegAt a v).heldComps = s.heldComps ∧ (s.setRegAt a v).hwHeld = s.hwHeld ∧ (s.setRegAt a v).mantle = s.mantle ∧
    (s.setRegAt a v).upls = s.upls ∧ (s.setRegAt a v).fedEpoch = s.fedEpoch ∧ (s.setRegAt a v).i2c = s.i2c ∧
    (s.setRegAt a v).boot = s.boot ∧ (s.setRegAt a v).request = s.request ∧ (s.setRegAt a v).requests = s.requests ∧
    (s.setRegAt a v).signedRole = s.signedRole ∧ (s.setRegAt a v).signedSlot = s.signedSlot ∧
    (s.setRegAt a v).debugOut = s.debugOut ∧ (s.setRegAt a v).debugWord = s.debugWord ∧ (s.setRegAt a v).free = s.free := by
  and_intros <;> rfl

@[simp] theorem clearRange_fields (s : State) (a b : Nat) :
    (s.clearRange a b).pending = s.pending ∧ (s.clearRange a b).uptime = s.uptime ∧ (s.clearRange a b).staging = s.staging ∧
    (s.clearRange a b).priv = s.priv ∧ (s.clearRange a b).tb = s.tb ∧ (s.clearRange a b).queues = s.queues ∧
    (s.clearRange a b).qranges = s.qranges ∧ (s.clearRange a b).qmapped = s.qmapped ∧
    (s.clearRange a b).qapplying = s.qapplying ∧ (s.clearRange a b).prods = s.prods ∧ (s.clearRange a b).conss = s.conss ∧
    (s.clearRange a b).chans = s.chans ∧ (s.clearRange a b).starved = s.starved ∧ (s.clearRange a b).lanes = s.lanes ∧
    (s.clearRange a b).tis = s.tis ∧ (s.clearRange a b).delays = s.delays ∧ (s.clearRange a b).hmapped = s.hmapped ∧
    (s.clearRange a b).happlying = s.happlying ∧ (s.clearRange a b).hc2At = s.hc2At ∧ (s.clearRange a b).hc2Due = s.hc2Due ∧
    (s.clearRange a b).shelfTotal = s.shelfTotal ∧ (s.clearRange a b).shelfFrom = s.shelfFrom ∧
    (s.clearRange a b).life = s.life ∧ (s.clearRange a b).faults = s.faults ∧ (s.clearRange a b).faultHold = s.faultHold ∧
    (s.clearRange a b).faultWait = s.faultWait ∧ (s.clearRange a b).conds = s.conds ∧
    (s.clearRange a b).faultDue = s.faultDue ∧ (s.clearRange a b).going = s.going ∧ (s.clearRange a b).freeing = s.freeing ∧
    (s.clearRange a b).snaps = s.snaps ∧ (s.clearRange a b).stats = s.stats ∧ (s.clearRange a b).cores = s.cores ∧
    (s.clearRange a b).meadows = s.meadows ∧ (s.clearRange a b).doms = s.doms ∧ (s.clearRange a b).dev = s.dev ∧
    (s.clearRange a b).descent = s.descent ∧ (s.clearRange a b).restAtDescent = s.restAtDescent ∧
    (s.clearRange a b).wake = s.wake ∧ (s.clearRange a b).xref = s.xref ∧ (s.clearRange a b).padHeld = s.padHeld ∧
    (s.clearRange a b).gpioIn = s.gpioIn ∧ (s.clearRange a b).gpioPulse = s.gpioPulse ∧
    (s.clearRange a b).sampler = s.sampler ∧ (s.clearRange a b).seams = s.seams ∧ (s.clearRange a b).pulses = s.pulses ∧
    (s.clearRange a b).crossings = s.crossings ∧ (s.clearRange a b).fifos = s.fifos ∧
    (s.clearRange a b).seamWaits = s.seamWaits ∧ (s.clearRange a b).seamEnds = s.seamEnds ∧
    (s.clearRange a b).orders = s.orders ∧ (s.clearRange a b).orderQ = s.orderQ ∧
    (s.clearRange a b).heldOrders = s.heldOrders ∧ (s.clearRange a b).heldComps = s.heldComps ∧
    (s.clearRange a b).hwHeld = s.hwHeld ∧ (s.clearRange a b).mantle = s.mantle ∧ (s.clearRange a b).upls = s.upls ∧
    (s.clearRange a b).fedEpoch = s.fedEpoch ∧ (s.clearRange a b).i2c = s.i2c ∧ (s.clearRange a b).boot = s.boot ∧
    (s.clearRange a b).request = s.request ∧ (s.clearRange a b).requests = s.requests ∧
    (s.clearRange a b).signedRole = s.signedRole ∧ (s.clearRange a b).signedSlot = s.signedSlot ∧
    (s.clearRange a b).debugOut = s.debugOut ∧ (s.clearRange a b).debugWord = s.debugWord ∧ (s.clearRange a b).free = s.free := by
  and_intros <;> rfl

@[simp] theorem setPriv_fields (s : State) (r a : Nat) (v : Word) :
    (s.setPriv r a v).pending = s.pending ∧ (s.setPriv r a v).uptime = s.uptime ∧ (s.setPriv r a v).regs = s.regs ∧
    (s.setPriv r a v).staging = s.staging ∧ (s.setPriv r a v).tb = s.tb ∧ (s.setPriv r a v).queues = s.queues ∧
    (s.setPriv r a v).qranges = s.qranges ∧ (s.setPriv r a v).qmapped = s.qmapped ∧
    (s.setPriv r a v).qapplying = s.qapplying ∧ (s.setPriv r a v).prods = s.prods ∧ (s.setPriv r a v).conss = s.conss ∧
    (s.setPriv r a v).chans = s.chans ∧ (s.setPriv r a v).starved = s.starved ∧ (s.setPriv r a v).lanes = s.lanes ∧
    (s.setPriv r a v).tis = s.tis ∧ (s.setPriv r a v).delays = s.delays ∧ (s.setPriv r a v).hmapped = s.hmapped ∧
    (s.setPriv r a v).happlying = s.happlying ∧ (s.setPriv r a v).hc2At = s.hc2At ∧ (s.setPriv r a v).hc2Due = s.hc2Due ∧
    (s.setPriv r a v).shelfTotal = s.shelfTotal ∧ (s.setPriv r a v).shelfFrom = s.shelfFrom ∧
    (s.setPriv r a v).life = s.life ∧ (s.setPriv r a v).faults = s.faults ∧ (s.setPriv r a v).faultHold = s.faultHold ∧
    (s.setPriv r a v).faultWait = s.faultWait ∧ (s.setPriv r a v).conds = s.conds ∧ (s.setPriv r a v).faultDue = s.faultDue ∧
    (s.setPriv r a v).going = s.going ∧ (s.setPriv r a v).freeing = s.freeing ∧ (s.setPriv r a v).snaps = s.snaps ∧
    (s.setPriv r a v).stats = s.stats ∧ (s.setPriv r a v).cores = s.cores ∧ (s.setPriv r a v).meadows = s.meadows ∧
    (s.setPriv r a v).doms = s.doms ∧ (s.setPriv r a v).dev = s.dev ∧ (s.setPriv r a v).descent = s.descent ∧
    (s.setPriv r a v).restAtDescent = s.restAtDescent ∧ (s.setPriv r a v).wake = s.wake ∧ (s.setPriv r a v).xref = s.xref ∧
    (s.setPriv r a v).padHeld = s.padHeld ∧ (s.setPriv r a v).gpioIn = s.gpioIn ∧ (s.setPriv r a v).gpioPulse = s.gpioPulse ∧
    (s.setPriv r a v).sampler = s.sampler ∧ (s.setPriv r a v).seams = s.seams ∧ (s.setPriv r a v).pulses = s.pulses ∧
    (s.setPriv r a v).crossings = s.crossings ∧ (s.setPriv r a v).fifos = s.fifos ∧
    (s.setPriv r a v).seamWaits = s.seamWaits ∧ (s.setPriv r a v).seamEnds = s.seamEnds ∧
    (s.setPriv r a v).orders = s.orders ∧ (s.setPriv r a v).orderQ = s.orderQ ∧ (s.setPriv r a v).heldOrders = s.heldOrders ∧
    (s.setPriv r a v).heldComps = s.heldComps ∧ (s.setPriv r a v).hwHeld = s.hwHeld ∧ (s.setPriv r a v).mantle = s.mantle ∧
    (s.setPriv r a v).upls = s.upls ∧ (s.setPriv r a v).fedEpoch = s.fedEpoch ∧ (s.setPriv r a v).i2c = s.i2c ∧
    (s.setPriv r a v).boot = s.boot ∧ (s.setPriv r a v).request = s.request ∧ (s.setPriv r a v).requests = s.requests ∧
    (s.setPriv r a v).signedRole = s.signedRole ∧ (s.setPriv r a v).signedSlot = s.signedSlot ∧
    (s.setPriv r a v).debugOut = s.debugOut ∧ (s.setPriv r a v).debugWord = s.debugWord ∧ (s.setPriv r a v).free = s.free := by
  and_intros <;> rfl

@[simp] theorem putSeam_fields (s : State) (k : Nat) (x : Seam) :
    (s.putSeam k x).pending = s.pending ∧ (s.putSeam k x).uptime = s.uptime ∧ (s.putSeam k x).regs = s.regs ∧
    (s.putSeam k x).staging = s.staging ∧ (s.putSeam k x).priv = s.priv ∧ (s.putSeam k x).tb = s.tb ∧
    (s.putSeam k x).queues = s.queues ∧ (s.putSeam k x).qranges = s.qranges ∧ (s.putSeam k x).qmapped = s.qmapped ∧
    (s.putSeam k x).qapplying = s.qapplying ∧ (s.putSeam k x).prods = s.prods ∧ (s.putSeam k x).conss = s.conss ∧
    (s.putSeam k x).chans = s.chans ∧ (s.putSeam k x).starved = s.starved ∧ (s.putSeam k x).lanes = s.lanes ∧
    (s.putSeam k x).tis = s.tis ∧ (s.putSeam k x).delays = s.delays ∧ (s.putSeam k x).hmapped = s.hmapped ∧
    (s.putSeam k x).happlying = s.happlying ∧ (s.putSeam k x).hc2At = s.hc2At ∧ (s.putSeam k x).hc2Due = s.hc2Due ∧
    (s.putSeam k x).shelfTotal = s.shelfTotal ∧ (s.putSeam k x).shelfFrom = s.shelfFrom ∧ (s.putSeam k x).life = s.life ∧
    (s.putSeam k x).faults = s.faults ∧ (s.putSeam k x).faultHold = s.faultHold ∧ (s.putSeam k x).faultWait = s.faultWait ∧
    (s.putSeam k x).conds = s.conds ∧ (s.putSeam k x).faultDue = s.faultDue ∧ (s.putSeam k x).going = s.going ∧
    (s.putSeam k x).freeing = s.freeing ∧ (s.putSeam k x).snaps = s.snaps ∧ (s.putSeam k x).stats = s.stats ∧
    (s.putSeam k x).cores = s.cores ∧ (s.putSeam k x).meadows = s.meadows ∧ (s.putSeam k x).doms = s.doms ∧
    (s.putSeam k x).dev = s.dev ∧ (s.putSeam k x).descent = s.descent ∧ (s.putSeam k x).restAtDescent = s.restAtDescent ∧
    (s.putSeam k x).wake = s.wake ∧ (s.putSeam k x).xref = s.xref ∧ (s.putSeam k x).padHeld = s.padHeld ∧
    (s.putSeam k x).gpioIn = s.gpioIn ∧ (s.putSeam k x).gpioPulse = s.gpioPulse ∧ (s.putSeam k x).sampler = s.sampler ∧
    (s.putSeam k x).pulses = s.pulses ∧ (s.putSeam k x).crossings = s.crossings ∧ (s.putSeam k x).fifos = s.fifos ∧
    (s.putSeam k x).seamWaits = s.seamWaits ∧ (s.putSeam k x).seamEnds = s.seamEnds ∧ (s.putSeam k x).orders = s.orders ∧
    (s.putSeam k x).orderQ = s.orderQ ∧ (s.putSeam k x).heldOrders = s.heldOrders ∧ (s.putSeam k x).heldComps = s.heldComps ∧
    (s.putSeam k x).hwHeld = s.hwHeld ∧ (s.putSeam k x).mantle = s.mantle ∧ (s.putSeam k x).upls = s.upls ∧
    (s.putSeam k x).fedEpoch = s.fedEpoch ∧ (s.putSeam k x).i2c = s.i2c ∧ (s.putSeam k x).boot = s.boot ∧
    (s.putSeam k x).request = s.request ∧ (s.putSeam k x).requests = s.requests ∧ (s.putSeam k x).signedRole = s.signedRole ∧
    (s.putSeam k x).signedSlot = s.signedSlot ∧ (s.putSeam k x).debugOut = s.debugOut ∧
    (s.putSeam k x).debugWord = s.debugWord ∧ (s.putSeam k x).free = s.free := by
  and_intros <;> rfl

@[simp] theorem setBank_fields (s : State) (k : Nat) (x : Bank) :
    (s.setBank k x).pending = s.pending ∧ (s.setBank k x).uptime = s.uptime ∧ (s.setBank k x).regs = s.regs ∧
    (s.setBank k x).staging = s.staging ∧ (s.setBank k x).priv = s.priv ∧ (s.setBank k x).tb = s.tb ∧
    (s.setBank k x).queues = s.queues ∧ (s.setBank k x).qranges = s.qranges ∧ (s.setBank k x).qmapped = s.qmapped ∧
    (s.setBank k x).qapplying = s.qapplying ∧ (s.setBank k x).prods = s.prods ∧ (s.setBank k x).conss = s.conss ∧
    (s.setBank k x).chans = s.chans ∧ (s.setBank k x).starved = s.starved ∧ (s.setBank k x).lanes = s.lanes ∧
    (s.setBank k x).tis = s.tis ∧ (s.setBank k x).delays = s.delays ∧ (s.setBank k x).hmapped = s.hmapped ∧
    (s.setBank k x).happlying = s.happlying ∧ (s.setBank k x).hc2At = s.hc2At ∧ (s.setBank k x).hc2Due = s.hc2Due ∧
    (s.setBank k x).shelfTotal = s.shelfTotal ∧ (s.setBank k x).shelfFrom = s.shelfFrom ∧ (s.setBank k x).life = s.life ∧
    (s.setBank k x).faults = s.faults ∧ (s.setBank k x).faultHold = s.faultHold ∧ (s.setBank k x).faultWait = s.faultWait ∧
    (s.setBank k x).conds = s.conds ∧ (s.setBank k x).faultDue = s.faultDue ∧ (s.setBank k x).going = s.going ∧
    (s.setBank k x).freeing = s.freeing ∧ (s.setBank k x).snaps = s.snaps ∧ (s.setBank k x).cores = s.cores ∧
    (s.setBank k x).meadows = s.meadows ∧ (s.setBank k x).doms = s.doms ∧ (s.setBank k x).dev = s.dev ∧
    (s.setBank k x).descent = s.descent ∧ (s.setBank k x).restAtDescent = s.restAtDescent ∧ (s.setBank k x).wake = s.wake ∧
    (s.setBank k x).xref = s.xref ∧ (s.setBank k x).padHeld = s.padHeld ∧ (s.setBank k x).gpioIn = s.gpioIn ∧
    (s.setBank k x).gpioPulse = s.gpioPulse ∧ (s.setBank k x).sampler = s.sampler ∧ (s.setBank k x).seams = s.seams ∧
    (s.setBank k x).pulses = s.pulses ∧ (s.setBank k x).crossings = s.crossings ∧ (s.setBank k x).fifos = s.fifos ∧
    (s.setBank k x).seamWaits = s.seamWaits ∧ (s.setBank k x).seamEnds = s.seamEnds ∧ (s.setBank k x).orders = s.orders ∧
    (s.setBank k x).orderQ = s.orderQ ∧ (s.setBank k x).heldOrders = s.heldOrders ∧ (s.setBank k x).heldComps = s.heldComps ∧
    (s.setBank k x).hwHeld = s.hwHeld ∧ (s.setBank k x).mantle = s.mantle ∧ (s.setBank k x).upls = s.upls ∧
    (s.setBank k x).fedEpoch = s.fedEpoch ∧ (s.setBank k x).i2c = s.i2c ∧ (s.setBank k x).boot = s.boot ∧
    (s.setBank k x).request = s.request ∧ (s.setBank k x).requests = s.requests ∧ (s.setBank k x).signedRole = s.signedRole ∧
    (s.setBank k x).signedSlot = s.signedSlot ∧ (s.setBank k x).debugOut = s.debugOut ∧
    (s.setBank k x).debugWord = s.debugWord ∧ (s.setBank k x).free = s.free := by
  and_intros <;> rfl

@[simp] theorem setDomStat_fields (s : State) (d : Nat) (x : DomStat) :
    (s.setDomStat d x).pending = s.pending ∧ (s.setDomStat d x).uptime = s.uptime ∧ (s.setDomStat d x).regs = s.regs ∧
    (s.setDomStat d x).staging = s.staging ∧ (s.setDomStat d x).priv = s.priv ∧ (s.setDomStat d x).tb = s.tb ∧
    (s.setDomStat d x).queues = s.queues ∧ (s.setDomStat d x).qranges = s.qranges ∧ (s.setDomStat d x).qmapped = s.qmapped ∧
    (s.setDomStat d x).qapplying = s.qapplying ∧ (s.setDomStat d x).prods = s.prods ∧ (s.setDomStat d x).conss = s.conss ∧
    (s.setDomStat d x).chans = s.chans ∧ (s.setDomStat d x).starved = s.starved ∧ (s.setDomStat d x).lanes = s.lanes ∧
    (s.setDomStat d x).tis = s.tis ∧ (s.setDomStat d x).delays = s.delays ∧ (s.setDomStat d x).hmapped = s.hmapped ∧
    (s.setDomStat d x).happlying = s.happlying ∧ (s.setDomStat d x).hc2At = s.hc2At ∧ (s.setDomStat d x).hc2Due = s.hc2Due ∧
    (s.setDomStat d x).shelfTotal = s.shelfTotal ∧ (s.setDomStat d x).shelfFrom = s.shelfFrom ∧
    (s.setDomStat d x).life = s.life ∧ (s.setDomStat d x).faults = s.faults ∧ (s.setDomStat d x).faultHold = s.faultHold ∧
    (s.setDomStat d x).faultWait = s.faultWait ∧ (s.setDomStat d x).conds = s.conds ∧
    (s.setDomStat d x).faultDue = s.faultDue ∧ (s.setDomStat d x).going = s.going ∧ (s.setDomStat d x).freeing = s.freeing ∧
    (s.setDomStat d x).snaps = s.snaps ∧ (s.setDomStat d x).cores = s.cores ∧ (s.setDomStat d x).meadows = s.meadows ∧
    (s.setDomStat d x).doms = s.doms ∧ (s.setDomStat d x).dev = s.dev ∧ (s.setDomStat d x).descent = s.descent ∧
    (s.setDomStat d x).restAtDescent = s.restAtDescent ∧ (s.setDomStat d x).wake = s.wake ∧
    (s.setDomStat d x).xref = s.xref ∧ (s.setDomStat d x).padHeld = s.padHeld ∧ (s.setDomStat d x).gpioIn = s.gpioIn ∧
    (s.setDomStat d x).gpioPulse = s.gpioPulse ∧ (s.setDomStat d x).sampler = s.sampler ∧
    (s.setDomStat d x).seams = s.seams ∧ (s.setDomStat d x).pulses = s.pulses ∧ (s.setDomStat d x).crossings = s.crossings ∧
    (s.setDomStat d x).fifos = s.fifos ∧ (s.setDomStat d x).seamWaits = s.seamWaits ∧
    (s.setDomStat d x).seamEnds = s.seamEnds ∧ (s.setDomStat d x).orders = s.orders ∧ (s.setDomStat d x).orderQ = s.orderQ ∧
    (s.setDomStat d x).heldOrders = s.heldOrders ∧ (s.setDomStat d x).heldComps = s.heldComps ∧
    (s.setDomStat d x).hwHeld = s.hwHeld ∧ (s.setDomStat d x).mantle = s.mantle ∧ (s.setDomStat d x).upls = s.upls ∧
    (s.setDomStat d x).fedEpoch = s.fedEpoch ∧ (s.setDomStat d x).i2c = s.i2c ∧ (s.setDomStat d x).boot = s.boot ∧
    (s.setDomStat d x).request = s.request ∧ (s.setDomStat d x).requests = s.requests ∧
    (s.setDomStat d x).signedRole = s.signedRole ∧ (s.setDomStat d x).signedSlot = s.signedSlot ∧
    (s.setDomStat d x).debugOut = s.debugOut ∧ (s.setDomStat d x).debugWord = s.debugWord ∧ (s.setDomStat d x).free = s.free := by
  and_intros <;> rfl

@[simp] theorem draw_fields (s : State)  :
    (s.draw).free = s.free + 1 ∧ (s.draw).pending = s.pending ∧ (s.draw).uptime = s.uptime ∧ (s.draw).regs = s.regs ∧
    (s.draw).staging = s.staging ∧ (s.draw).priv = s.priv ∧ (s.draw).tb = s.tb ∧ (s.draw).queues = s.queues ∧
    (s.draw).qranges = s.qranges ∧ (s.draw).qmapped = s.qmapped ∧ (s.draw).qapplying = s.qapplying ∧
    (s.draw).prods = s.prods ∧ (s.draw).conss = s.conss ∧ (s.draw).chans = s.chans ∧ (s.draw).starved = s.starved ∧
    (s.draw).lanes = s.lanes ∧ (s.draw).tis = s.tis ∧ (s.draw).delays = s.delays ∧ (s.draw).hmapped = s.hmapped ∧
    (s.draw).happlying = s.happlying ∧ (s.draw).hc2At = s.hc2At ∧ (s.draw).hc2Due = s.hc2Due ∧
    (s.draw).shelfTotal = s.shelfTotal ∧ (s.draw).shelfFrom = s.shelfFrom ∧ (s.draw).life = s.life ∧
    (s.draw).faults = s.faults ∧ (s.draw).faultHold = s.faultHold ∧ (s.draw).faultWait = s.faultWait ∧
    (s.draw).conds = s.conds ∧ (s.draw).faultDue = s.faultDue ∧ (s.draw).going = s.going ∧ (s.draw).freeing = s.freeing ∧
    (s.draw).snaps = s.snaps ∧ (s.draw).stats = s.stats ∧ (s.draw).cores = s.cores ∧ (s.draw).meadows = s.meadows ∧
    (s.draw).doms = s.doms ∧ (s.draw).dev = s.dev ∧ (s.draw).descent = s.descent ∧ (s.draw).restAtDescent = s.restAtDescent ∧
    (s.draw).wake = s.wake ∧ (s.draw).xref = s.xref ∧ (s.draw).padHeld = s.padHeld ∧ (s.draw).gpioIn = s.gpioIn ∧
    (s.draw).gpioPulse = s.gpioPulse ∧ (s.draw).sampler = s.sampler ∧ (s.draw).seams = s.seams ∧ (s.draw).pulses = s.pulses ∧
    (s.draw).crossings = s.crossings ∧ (s.draw).fifos = s.fifos ∧ (s.draw).seamWaits = s.seamWaits ∧
    (s.draw).seamEnds = s.seamEnds ∧ (s.draw).orders = s.orders ∧ (s.draw).orderQ = s.orderQ ∧
    (s.draw).heldOrders = s.heldOrders ∧ (s.draw).heldComps = s.heldComps ∧ (s.draw).hwHeld = s.hwHeld ∧
    (s.draw).mantle = s.mantle ∧ (s.draw).upls = s.upls ∧ (s.draw).fedEpoch = s.fedEpoch ∧ (s.draw).i2c = s.i2c ∧
    (s.draw).boot = s.boot ∧ (s.draw).request = s.request ∧ (s.draw).requests = s.requests ∧
    (s.draw).signedRole = s.signedRole ∧ (s.draw).signedSlot = s.signedSlot ∧ (s.draw).debugOut = s.debugOut ∧
    (s.draw).debugWord = s.debugWord := by
  and_intros <;> rfl

/-- A change of a lane, as of every part of the state that one key names, is read back. -/
theorem modLane_reads (s : State) (l : Nat) (f : Lane → Lane) (j : Nat) (h : Rising s.lanes) :
    (s.modLane l f).lane j = if j = l then f (s.lane l) else s.lane j := setLane_reads _ _ _ _ h

theorem modQueue_reads (s : State) (q : Nat) (f : Queue → Queue) (j : Nat) (h : Rising s.queues) :
    (s.modQueue q f).queue j = if j = q then f (s.queue q) else s.queue j := setQueue_reads _ _ _ _ h

theorem modCore_reads (s : State) (r : Nat) (f : CoreState → CoreState) (j : Nat) (h : Rising s.cores) :
    (s.modCore r f).core j = if j = r then f (s.core r) else s.core j := setCore_reads _ _ _ _ h

theorem modDom_reads (s : State) (d : Nat) (f : Domain → Domain) (j : Nat) (h : Rising s.doms) :
    (s.modDom d f).dom j = if j = d then f (s.dom d) else s.dom j := setDom_reads _ _ _ _ h

end Sys2Proof.Laws
end

