-- ==== Sys2Proof/Laws/Spec.lean ====
section
/-! SUPPORT. Everything a proof about the machine may want: this file only brings the law files together. -/
end

