-- ==== Sys2Proof/Tests/Slice0.lean ====
section
/-! SUPPORT. Tests: ill-formed commands that the checks refuse, small steps, and for each statement with hypotheses a state that meets
them. -/

set_option maxRecDepth 20000

namespace Sys2Proof.Tests

open Sys2Proof.Machine Sys2Proof.Laws

/-! Well-formedness: for each check a command that fails it and no other -/

theorem test_wf_refuses_1 : ([.registerWrite 512 0 0,
    .registerWrite 0 (2 ^ 32) 0,
    .clampLogClear 512 .heath 0,
    .completionCommit 512,
    .heldOrderRecheck 512,
    .paceWindowEnd 0 32 0 0 0,
    .paceMinClear 512 0,
    .paceMinClear 0 32,
    .dataRx 0 144 { hdr := 0, payload := [], fcs := 0 },
    .detRx 0 144 { hdr := 0, payload := [], fcs := 0 },
    .fltRx 0 144 { hdr := 0, payload := [], fcs := 0 },
    .rspRx 0 144 { hdr := 0, payload := [], fcs := 0 },
    .idRx 0 144 { hdr := 0, payload := [], fcs := 0 },
    .energyRx 0 144 { hdr := 0, payload := [], fcs := 0 },
    .statusRx 0 144 { hdr := 0, payload := [], fcs := 0 },
    .enumReportRx 0 144 { hdr := 0, payload := [], fcs := 0 },
    .enumAckRx 0 144 { hdr := 0, payload := [], fcs := 0 },
    .delayAckRx 0 144 { hdr := 0, payload := [], fcs := 0 },
    .bulkFileRelease 0 144,
    .creditStallTimer 0 144,
    .creditSend 0 144,
    .syncSend 0 144,
    .syncNow 0 144,
    .enumWindowClose 0 144,
    .sweepTimer 0 144,
    .sweepNow 0 144,
    .cmdSend 0 144,
    .cmdTimeout 0 144 0,
    .cmdTimeout 0 0 64,
    .tagQuarantineEnd 0 144 0,
    .tagQuarantineEnd 0 0 64,
    .releaseReportTimeout 0 144 0,
    .linkUp 0 144 false false,
    .linkDown 0 144,
    .linkAttemptTimeout 0 144,
    .laneStart 144 { req := 0 },
    .laneStart 0 { req := 512 },
    .laneStop 144 { req := 0 },
    .laneStop 0 { req := 512 },
    .laneEnumerate 144 { req := 0 }] : List Instr).all (fun i => !i.wf) = true := by decide

theorem test_wf_refuses_2 : ([.laneEnumerate 0 { req := 512 },
    .sendCmd 144 { req := 0 },
    .sendCmd 0 { req := 512 },
    .setStream 144 { req := 0 },
    .setStream 0 { req := 512 },
    .releaseNode 144 { req := 0 },
    .releaseNode 0 { req := 512 },
    .lineTdr 144 { req := 0 } 0,
    .lineTdr 0 { req := 512 } 0,
    .laneCountersClear 144 { req := 0 },
    .laneCountersClear 0 { req := 512 },
    .laneEnergyDetect 0 { lane := 144 },
    .laneWakePattern 0 { lane := 144 },
    .raiseFrameSend 0 144,
    .gatherWindowClose 0 144,
    .gatherCapRelease 0 144,
    .catchupFrameSend 0 144,
    .holdExpiry 0 144,
    .fadeEnd 0 144,
    .entry 0 144 0,
    .entry 0 0 3,
    .overrideEnd 0 144,
    .calendarOccurrence 0 144,
    .sunCompute 0 144,
    .swParamWrite 512 0 false 0,
    .swParamWrite 0 144 false 0,
    .swLimitWrite 512 0 0,
    .swLimitWrite 0 144 0,
    .overrideWrite 512 0 0 false 0,
    .overrideWrite 0 144 0 false 0,
    .taskEnd 0 2880,
    .refractoryEnd 0 2880,
    .hedgeDelayIn 0 16,
    .hedgeDelayExpiry 0 16,
    .hedgeSwFire 512 0,
    .selectorWrite 512 false 0 0,
    .channelWrite 512 0 0,
    .channelWrite 0 2048 0,
    .clearPending { req := 512 },
    .hedgeCountersClear { req := 512 }] : List Instr).all (fun i => !i.wf) = true := by decide

theorem test_wf_refuses_3 : ([.journalMarkInput 0 4,
    .qsel 256 0,
    .qput 256 0,
    .qend 256 0,
    .qrwd 256,
    .qget 256 0,
    .qcnt 256 0,
    .qcntw 256 0,
    .qfl 256,
    .pushRelease 256,
    .hwPacketCommit 512 0 [],
    .hwPacketCommit 0 (2 ^ 20) [],
    .flush { req := 512 },
    .queueStatus { req := 512 },
    .queueReset { req := 512 },
    .poolAudit { req := 512 },
    .qengCountersClear { req := 512 },
    .scrubPass 0 { ch := 4 },
    .recalTimer 0 4 0 0,
    .recalibrate 4 { req := 0 } 0 0,
    .recalibrate 0 { req := 512 } 0 0,
    .fill 4 { req := 0 },
    .fill 0 { req := 512 },
    .qdrCountersClear 4 { req := 0 },
    .qdrCountersClear 0 { req := 512 },
    .bulkScrubPass 0 { ch := 4 },
    .readRecord { req := 512 },
    .readRetired { req := 512 },
    .registerModule { req := 512 },
    .closeRecord { req := 512 },
    .exportAll { req := 512 },
    .lifeCountersClear { req := 512 },
    .windowSummary 0 144 0,
    .cyclingClear 0 144 0,
    .nodeMissingTimeout 0 144,
    .linkingBreakTimeout 0 144,
    .ackFault { req := 512 },
    .readFault { req := 512 },
    .snapshot { req := 512 },
    .forceClear { req := 512 }] : List Instr).all (fun i => !i.wf) = true := by decide

theorem test_wf_refuses_4 : ([.fltCountersClear { req := 512 },
    .setPeriod { req := 512 },
    .redigest { req := 512 },
    .userCount 0 8,
    .add 256 0 0 0,
    .sub 256 0 0 0,
    .and 256 0 0 0,
    .or 256 0 0 0,
    .xor 256 0 0 0,
    .nor 256 0 0 0,
    .slt 256 0 0 0,
    .sltu 256 0 0 0,
    .sll 256 0 0 0,
    .srl 256 0 0 0,
    .sra 256 0 0 0,
    .slli 256 0 0 0,
    .srli 256 0 0 0,
    .srai 256 0 0 0,
    .mul 256 0 0 0,
    .mulh 256 0 0 0,
    .mulhu 256 0 0 0,
    .div 256 0 0 0,
    .divu 256 0 0 0,
    .rem 256 0 0 0,
    .remu 256 0 0 0,
    .min 256 0 0 0,
    .max 256 0 0 0,
    .minu 256 0 0 0,
    .maxu 256 0 0 0,
    .clz 256 0 0,
    .sextb 256 0 0,
    .sexth 256 0 0,
    .addi 256 0 0 0,
    .andi 256 0 0 0,
    .ori 256 0 0 0,
    .xori 256 0 0 0,
    .slti 256 0 0 0,
    .sltiu 256 0 0 0,
    .lui 256 0 0,
    .lb 256 0 0 0] : List Instr).all (fun i => !i.wf) = true := by decide

theorem test_wf_refuses_5 : ([.lbu 256 0 0 0,
    .lh 256 0 0 0,
    .lhu 256 0 0 0,
    .lw 256 0 0 0,
    .lbuP 256 0 0 0,
    .lhuP 256 0 0 0,
    .lwP 256 0 0 0,
    .sb 256 0 0 0,
    .sh 256 0 0 0,
    .sw 256 0 0 0,
    .sbP 256 0 0 0,
    .shP 256 0 0 0,
    .swP 256 0 0 0,
    .beq 256 0 0 0,
    .bne 256 0 0 0,
    .blt 256 0 0 0,
    .bge 256 0 0 0,
    .bltu 256 0 0 0,
    .bgeu 256 0 0 0,
    .j 256 0,
    .jal 256 0,
    .jr 256 0,
    .jalr 256 0 0,
    .call 256 0 0,
    .ret 256 0,
    .macs 256 false 0 0,
    .macu 256 false 0 0,
    .msus 256 false 0 0,
    .muls 256 false 0 0,
    .macx 256 false 0 0,
    .macm 256 false 0 0,
    .msum 256 false 0 0,
    .mtac 256 false 0 0,
    .mfacl 256 false 0,
    .mfach 256 false 0,
    .mfacs 256 false 0 0,
    .acclr 256 false,
    .tas 256 0 0,
    .lrW 256 0 0,
    .scW 256 0 0 0] : List Instr).all (fun i => !i.wf) = true := by decide

theorem test_wf_refuses_6 : ([.nop 256,
    .wait 256,
    .waitWake 0 256,
    .svc 256 0,
    .brk 256 0,
    .rett 256,
    .mfsr 256 0 0,
    .mtsr 256 0 0,
    .sync 256,
    .evack 256 0,
    .rep 256 false 0 0,
    .illegalInstruction 256 0,
    .hedgerowEventInputTrap 256,
    .meadowMailboxTrap 256,
    .storeBufferDrain 256,
    .coreCntClear 256,
    .sentinelFire 0 256,
    .reloadCore 32 { req := 0 },
    .reloadCore 0 { req := 512 },
    .meadowCountersClear 32 { req := 0 },
    .meadowCountersClear 0 { req := 512 },
    .domainSwitchOn 512 0,
    .domainSwitchOn 0 50,
    .domainSwitchOff 512 0,
    .domainSwitchOff 0 50,
    .powerDownDrained 0 50,
    .powerGood 0 50,
    .powerGoodTimeout 0 50,
    .pllLock 0 50,
    .pllLockTimeout 0 50,
    .ownStartDone 0 50 0 0 0,
    .ownStartTimeout 0 50,
    .retryRestart 0 50,
    .devModeWrite 512 0,
    .levelChangeDone 0 32,
    .latHoldExpiry 0 32,
    .paceEvent 0 32,
    .govWrite 512 0 0,
    .govWrite 0 32 0,
    .retryDomain { req := 512 }] : List Instr).all (fun i => !i.wf) = true := by decide

theorem test_wf_refuses_7 : ([.heathCountersClear { req := 512 },
    .meadowStart 32 { req := 0 },
    .meadowStart 0 { req := 512 },
    .meadowStop 32 { req := 0 },
    .meadowStop 0 { req := 512 },
    .padGroupRelease 512 0,
    .padGroupRelease 0 18,
    .gpioEdge 0 64 false,
    .gpioAction 0 64,
    .gpioPulseEnd 0 64,
    .uplinkEnergy 0 4,
    .wakeInput 0 16,
    .sample { req := 512 } 0,
    .wakeCountersClear { req := 512 },
    .seamWatchdog 0 { sm := 203 },
    .islandRelease 0 203,
    .seamRealign 0 203,
    .islandClockStop 0 203,
    .islandClockReturn 0 203,
    .seamAccessTimeout 0 512,
    .seamCountersClear { req := 512 },
    .stageCopy { req := 512 },
    .apply { req := 512 },
    .mantleCountersClear { req := 512 },
    .claim { req := 512 },
    .attest { req := 512 },
    .deviceCert { req := 512 },
    .debugChallenge { req := 512 },
    .debugUnlock { req := 512 },
    .debugLock { req := 512 },
    .journalMark { req := 512 },
    .journalRead { req := 512 },
    .revokeMakerSlot { req := 512 },
    .rootStep { req := 512 },
    .quiesceAll { req := 512 },
    .makerDiag { req := 512 },
    .uplinkFrameRx 0 4 { bytes := [], fcs := 0 },
    .ptpMessageRx 0 4 false false 0,
    .handoffRx 0 4 { srcAddr := 0, srcPort := 0, payload := [] },
    .handoffOut 0 4 0] : List Instr).all (fun i => !i.wf) = true := by decide

theorem test_wf_refuses_8 : ([.handoffOut 0 0 64,
    .exportSend 0 4 0,
    .exportSend 0 0 16,
    .writeStaging 4 0 [],
    .submit 0 4 0 0,
    .read 0 4 0 0,
    .uplinkLinkChange 0 4 false false,
    .uplinkCountersClear 0 { req := 512 },
    .uplinkCountersClear 4 { req := 0 },
    .timeSet { req := 512 },
    .tbCountersClear { req := 512 },
    .alarm 0 8,
    .capture 0 16,
    .tbRateWrite 512 0,
    .tbSecLoRead 0 512,
    .deviceReset { req := 512 },
    .slotWrite { req := 512 },
    .slotSeal { req := 512 },
    .enumAckTimeout 0 144 0,
    .frameLeft 0 144,
    .clampLogClear 0 .heath 1,
    .clampLogClear 0 .lane 144,
    .overrideWrite 0 0 129 false 0,
    .producerFire [(2352, 0)],
    .selectorWrite 0 true 2880 0,
    .selectorWrite 0 false 2352 0,
    .hwPacketCommit 0 0 (List.replicate 257 0),
    .submit 0 4 0 0,
    .submit 0 409 0 0] : List Instr).all (fun i => !i.wf) = true := by decide

/-! Small steps, with results worked out by hand from the rules -/

/-- Core 9 of an active meadow runs from address 0 with the given registers. -/
def oneCore (g : Table Word) : State :=
  { meadows := [(1, { st := .active })], cores := [(9, { st := .running, g := g, sram := [(64, 0x80)] })] }

/-- The state a command leads to. -/
def after (c : Instr) (s : State) : State := match exec c s with | .next t => t | _ => s

/-- R324: a sum wraps at 32 bits. -/
theorem test_add_wraps : ((after (.add 9 3 1 2) (oneCore [(1, 0xFFFFFFFF), (2, 2)])).core 9).w1 = [.g 3 1] := by decide +kernel

/-- R316: g0 takes no value. -/
theorem test_g0_discards : ((after (.addi 9 0 1 5) (oneCore [(1, 7)])).core 9).greg 0 = 0 := by decide +kernel

/-- R330: a byte load extends the sign of its byte. -/
theorem test_lb_sign : ((after (.lb 9 3 1 0) (oneCore [(1, 64)])).core 9).w1 = [.g 3 0xFFFFFF80] := by decide +kernel

/-- R332: a jump links the address after it. -/
theorem test_jal_links : ((after (.jal 9 4) (oneCore [])).core 9).w1 = [.g 31 4] := by decide +kernel

/-- Log entry 1: with no command waiting the block idles. -/
theorem test_idle : step State.reset = .next State.reset := by rfl

/-- R157: two wrong bits are never taken for one. -/
theorem test_two_bits : eccJudge (BitVec.ofNat 72 (2 ^ 7 + 2 ^ 66)) = (.bad, BitVec.ofNat 72 (2 ^ 7 + 2 ^ 66)) := by decide +kernel

/-- R158: a poisoned word reads as uncorrectable, and stays so. -/
theorem test_poison_stays : (eccRead 5 eccMark).1 = .bad ∧ (eccRead 5 eccMark).2.2 = eccMark := by decide +kernel

/-- R63: the check sequence of IEEE 802.3 over the nine digits 1 to 9. -/
theorem test_crc32 : crc32 [0x31, 0x32, 0x33, 0x34, 0x35, 0x36, 0x37, 0x38, 0x39] = 0xCBF43926 := by decide +kernel

/-- R246: the check code of the nine digits 1 to 9. -/
theorem test_crc16 : crc16 [0x31, 0x32, 0x33, 0x34, 0x35, 0x36, 0x37, 0x38, 0x39] = 0x29B1 := by decide +kernel

/-- R455: full scale and half scale of a conversion. -/
theorem test_adc : adcCode 1800000 = 4095 ∧ adcCode 900000 = 2048 := by decide

/-- R465: a second pulse within the acknowledge waits, and a third joins it with the greater hop count. -/
theorem test_pulse_merges :
    let s := (pulseOffer (pulseOffer (pulseOffer State.reset 44 1896 0).1 44 1896 1).1 44 1896 3).1
    (s.pulse 1896).pending = some 3 ∧ s.reg .seam 0 SEAM_CNT_MERGED = 1 := by decide +kernel

/-- R466: a value that waits is replaced by a later one. -/
theorem test_value_superseded :
    (valueWrite (valueWrite (valueWrite State.reset 32 5) 32 5) 32 5).reg .seam 0 SEAM_CNT_SUPERSEDED = 1 := by decide +kernel


/-! States that meet the hypotheses of the statements -/

/-- A running core 0 of an active meadow 0, with a few registers. -/
def wCore : State :=
  { cores := [(0, { st := .running, g := [(3, 0x80000000#32), (4, 0xFFFFFFFF#32), (5, 0x20#32), (29, 0x100#32)] })],
    meadows := [(0, { st := .active })], doms := [(0, { st := .on })] }

theorem wCore_ready : Ready wCore 0 :=
  ⟨by constructor <;> first | decide | (unfold coresWf eccWf; decide) | (unfold meadowsWf eccWf; decide) | (unfold chansWf eccWf; decide) | (unfold mantleWf; decide), by decide, by decide, by decide, by decide⟩

/-- As `wCore` with a stack pointer and a link register that cannot be used. -/
def wOdd : State :=
  { cores := [(0, { st := .running, g := [(5, 0x20#32), (29, 0x101#32), (31, 0x10002#32)] })],
    meadows := [(0, { st := .active })], doms := [(0, { st := .on })] }

theorem wOdd_ready : Ready wOdd 0 :=
  ⟨by constructor <;> first | decide | (unfold coresWf eccWf; decide) | (unfold meadowsWf eccWf; decide) | (unfold chansWf eccWf; decide) | (unfold mantleWf; decide), by decide, by decide, by decide, by decide⟩

/-- As `wCore` with a stack pointer that is no multiple of 8. -/
def wBend : State :=
  { cores := [(0, { st := .running, g := [(29, 0x104#32)] })], meadows := [(0, { st := .active })], doms := [(0, { st := .on })] }

theorem wBend_ready : Ready wBend 0 :=
  ⟨by constructor <;> first | decide | (unfold coresWf eccWf; decide) | (unfold meadowsWf eccWf; decide) | (unfold chansWf eccWf; decide) | (unfold mantleWf; decide), by decide, by decide, by decide, by decide⟩

/-- A running core of role installer that has selected its own mailbox, which its class lets it push and pop. -/
def wQueue : State :=
  { (({ cores := [(0, { st := .running, role := 2, qid := 0xD8200#32, g := [(4, 0x41#32)] })], meadows := [(0, { st := .active })],
        doms := [(0, { st := .on })], chans := [(0, { st := 3, pool := 1000 })], qmapped := true } : State).setReg .qeng 0 0x1040 0x040010#32).setReg .qeng 0
      0x1044 0x300010#32 with free := 0 }

theorem wQueue_ready : Ready wQueue 0 :=
  ⟨by constructor <;> first | decide | (unfold coresWf eccWf; decide) | (unfold meadowsWf eccWf; decide) | (unfold chansWf eccWf; decide) | (unfold mantleWf; decide), by decide, by decide, by decide, by decide⟩

/-- The same with a packet in the mailbox. -/
def wMail : State := { wQueue with queues := [(0xD8200, { pkts := [[⟨0x0140, 0⟩, ⟨7, 0⟩]] })] }

theorem wMail_ready : Ready wMail 0 :=
  ⟨by constructor <;> first | decide | (unfold coresWf eccWf; decide) | (unfold meadowsWf eccWf; decide) | (unfold chansWf eccWf; decide) | (unfold mantleWf; decide), by decide, by decide, by decide, by decide⟩
/-- A block in which everything is on: the lanes 0 (operating, node 1 assigned) and 1 (stopped), the channels, the life engine, the loader and meadow 0. -/
def wAll : State :=
  { cores := [(9, { role := 3 })], lanes := [(0, { st := .operating, nodes := [(1, { assigned := true })] }), (1, { st := .stopped })],
    chans := [(0, { st := 3, pool := 1000 }), (1, { st := 3, pool := 1000 }), (2, { st := 3, pool := 1000 }), (3, { st := 3, pool := 1000 })], qmapped := true,
    life := { st := 3 }, mantle := { st := 3, reloadReady := true }, meadows := [(0, { st := .active })],
    doms := [(0, { st := .on }), (2, { st := .faulted }), (32, { st := .on }), (44, { st := .on }), (45, { st := .on }), (46, { st := .on }), (47, { st := .on }),
             (48, { st := .on }), (49, { st := .on })], tb := { st := 1 }, boot := { installEn := true, slot := 1 },
    seams := [(0, { st := .live, cause := 0 }), (32, { st := .live, cause := 0 }), (44, { st := .live, cause := 0 }), (45, { st := .live, cause := 0 }), (46, { st := .live, cause := 0 }), (47, { st := .live, cause := 0 }), (48, { st := .live, cause := 0 }), (49, { st := .live, cause := 0 })] }

/-- A descriptor of requester 9, a core of role maker. -/
def wDesc (target : Word) (arg : Dword) : Desc := { req := 9, tag := 7, target := target, arg := arg }

/-- A DATA frame of node 1 whose check sequence is right. -/
def wFrame : RxFrame :=
  let f : RxFrame := { codingErr := false, hdr := 0x800000150, payload := [0, 0, 0, 0, 0, 0, 0, 0], fcs := 0 }
  { f with fcs := crc32 (leBytes 8 (f.header 1).toNat ++ f.payload) }

/-! AluRegister -/

theorem witness_AluRegister : Ready wCore 0 := wCore_ready

/-! DivisionResults -/

theorem witness_DivisionResults : Ready wCore 0 := wCore_ready
theorem witness_DivisionResults_overflow : gOf wCore 0 3 = 0x80000000#32 ∧ gOf wCore 0 4 = 0xFFFFFFFF#32 := by decide

/-! AluImmediate -/

theorem witness_AluImmediate : Ready wCore 0 := wCore_ready

/-! AluFrame -/

theorem witness_AluFrame : Ready wCore 0 := wCore_ready

/-! Visibility -/

theorem witness_Visibility : Canonical wCore := wCore_ready.sound

/-! TrapEntry -/

theorem witness_TrapEntry : Canonical wCore := wCore_ready.sound

/-! SoftwareTraps -/

theorem witness_SoftwareTraps : Ready wCore 0 ∧ legalWord 0 = false ∧ 8 < (31 : BitVec 5).toNat ∧
    (if true then (1 : Reg) ≠ 0 else (0 : BitVec 10) ≠ 0) := ⟨wCore_ready, by decide, by decide, by decide⟩

/-! Transfers -/

theorem witness_Transfers : Ready wCore 0 ∧ (gOf wCore 0 5).toNat % 4 = 0 ∧ (gOf wCore 0 5).toNat < 65536 ∧
    ((gOf wCore 0 3).toNat % 4 ≠ 0 ∨ 65536 ≤ (gOf wCore 0 3).toNat) := ⟨wCore_ready, by decide, by decide, by decide⟩
theorem witness_Transfers_ret : Ready wOdd 0 ∧ ((gOf wOdd 0 31).toNat % 4 ≠ 0 ∨ 65536 ≤ (gOf wOdd 0 31).toNat) :=
  ⟨wOdd_ready, by decide⟩

/-! CallRet -/

theorem witness_CallRet : Ready wCore 0 ∧ (gOf wCore 0 29).toNat % 8 = 0 ∧
    (storeSlots 0 [(0xF8, 0, 0)] (fetched wCore 0)).2 = .val [] ∧
    (gOf wCore 0 31).toNat % 4 = 0 ∧ (gOf wCore 0 31).toNat < 65536 ∧
    (loadSlots 0 [0x100, 0x104] (fetched wCore 0)).2 = .val [0, 0, 0, 0, 0, 0, 0, 0] := by
  refine ⟨wCore_ready, ?_⟩; decide
theorem witness_CallRet_alone : Alone (storeSlots 0 [(0xF8, 0, 0)] (fetched wCore 0)).1 0 ∧
    Alone (loadSlots 0 [0x100, 0x104] (fetched wCore 0)).1 0 := by
  refine ⟨⟨?_, ?_⟩, ⟨?_, ?_⟩⟩ <;> decide
theorem witness_CallRet_misaligned : Ready wBend 0 ∧ (gOf wBend 0 29).toNat % 8 ≠ 0 ∧ (gOf wBend 0 31).toNat % 4 = 0 ∧
    (gOf wBend 0 31).toNat < 65536 := ⟨wBend_ready, by decide⟩

/-! MacGroup -/

theorem witness_MacGroup : Ready wCore 0 := wCore_ready

/-! MacMemory -/

theorem witness_MacMemory : Ready wCore 0 ∧ (3 : Reg) ≠ 5 ∧
    (macLoad (fetched wCore 0) 0 0x20).2 = .val [0, 0, 0, 0] ∧
    (macLoad (macLoad (fetched wCore 0) 0 0x20).1 0 0x100).2 = .val [0, 0, 0, 0] ∧
    (macLoad (fetched wCore 0) 0 0xFFFFFFFF).2 = .trap 4 0xFFFFFFFF ∧
    (macLoad (macLoad (fetched wCore 0) 0 0x20).1 0 0xFFFFFFFF).2 = .trap 4 0xFFFFFFFF := by
  refine ⟨wCore_ready, by decide, by decide, by decide, by decide, by decide⟩
theorem witness_MacMemory_alone : Alone (macLoad (macLoad (fetched wCore 0) 0 0x20).1 0 0x100).1 0 ∧
    Alone (setAcc (macLoad (macLoad (fetched wCore 0) 0 0x20).1 0 0x100).1 0 false 5) 0 ∧
    Alone (macLoad (fetched wCore 0) 0 0xFFFFFFFF).1 0 := by
  refine ⟨⟨?_, ?_⟩, ⟨?_, ?_⟩, ⟨?_, ?_⟩⟩ <;> decide

/-! LoadsStores -/

theorem witness_LoadsStores : Ready wCore 0 ∧ (1 : Reg) ≠ 5 ∧ (coreLoad (fetched wCore 0) 0 (gOf wCore 0 5).toNat 4).2 = .val [0, 0, 0, 0] ∧
    (coreLoad (fetched wCore 0) 0 (gOf wCore 0 5).toNat 2).2 = .val [0, 0] ∧ (coreLoad (fetched wCore 0) 0 (gOf wCore 0 5).toNat 1).2 = .val [0] ∧
    (coreStore (fetched wCore 0) 0 (gOf wCore 0 5).toNat (leBytes 4 7)).2 = .val [] := by
  refine ⟨wCore_ready, by decide, by decide, by decide, by decide, by decide⟩
theorem witness_LoadsStores_alone : Alone (coreLoad (fetched wCore 0) 0 0x20 4).1 0 ∧ Alone (coreStore (fetched wCore 0) 0 0x20 (leBytes 4 7)).1 0 := by
  refine ⟨⟨?_, ?_⟩, ⟨?_, ?_⟩⟩ <;> decide

/-! AccessTraps -/

theorem witness_AccessTraps : Ready wCore 0 ∧ (1 : Reg) ≠ 4 ∧ (coreLoad (fetched wCore 0) 0 (gOf wCore 0 4).toNat 4).2 = .trap 4 0xFFFFFFFF ∧
    (coreStore (fetched wCore 0) 0 (gOf wCore 0 4).toNat (leBytes 4 7)).2 = .trap 5 0xFFFFFFFF ∧
    (coreLoad (fetched wCore 0) 0 (gOf wCore 0 4).toNat 1).2 = .trap 6 0xFFFFFFFF ∧
    (coreStore (fetched wCore 0) 0 (gOf wCore 0 4).toNat (leBytes 1 7)).2 = .trap 7 0xFFFFFFFF := by
  refine ⟨wCore_ready, by decide, by decide, by decide, by decide, by decide⟩
theorem witness_AccessTraps_places : place 0 0x20000 = .nothing ∧ place 0 0xE0000000 = .ctl ∧ place 0 0xF0000100 = .priv 0x100 := by decide
theorem witness_AccessTraps_alone : Alone (coreLoad (fetched wCore 0) 0 0xFFFFFFFF 4).1 0 ∧ Alone (coreStore (fetched wCore 0) 0 0xFFFFFFFF (leBytes 4 7)).1 0 := by
  refine ⟨⟨?_, ?_⟩, ⟨?_, ?_⟩⟩ <;> decide

/-! LocalMemory -/

theorem witness_LocalMemory : Canonical wCore ∧ ([1, 2, 3, 4] : List Byte).length = 4 ∧ 0x20 % 4 = 0 ∧
    (coreLoad wCore 0 0x20 4).2 = .val [0, 0, 0, 0] := ⟨wCore_ready.sound, by decide, by decide, by decide⟩

/-! SpecialRegisters -/

theorem witness_SpecialRegisters : Ready wCore 0 ∧ (5#5).toNat < 6 ∧ 8 < (9#5).toNat := ⟨wCore_ready, by decide, by decide⟩

/-! SystemGroup -/

theorem witness_SystemGroup : Ready wCore 0 ∧ wakeCond (dropRsv (drainAll (fetched wCore 0) 0) 0) 0 = false := ⟨wCore_ready, by decide⟩

/-! Repeats -/

theorem witness_Repeats : Ready wCore 0 ∧ (wCore.core 0).resume = 0 ∧ gOf wCore 0 5 ≠ 0 ∧ gOf wCore 0 1 = 0 ∧
    1 < (⟨2, 0, none, []⟩ : RepSt).left ∧ (⟨1, 0, none, []⟩ : RepSt).left ≤ 1 ∧ (⟨2, 0, none, []⟩ : RepSt).body = none :=
  ⟨wCore_ready, by decide, by decide, by decide, by decide, by decide, rfl⟩

def wLatch : State := { wCore with cores := [(0, { st := .running, resume := 3 })] }
theorem witness_Repeats_fetch : (fetch (wCore.modCore 0 fun c => { c with rep := some ⟨2, 0, none, []⟩ }) 0).2 = none := by decide
theorem witness_Repeats_latch : (wLatch.core 0).resume ≠ 0 := by decide

/-! AtomicsLocal -/

theorem witness_AtomicsLocal : Ready wCore 0 ∧ (gOf wCore 0 5).toNat % 4 = 0 ∧ (gOf wCore 0 5).toNat < 0x10000 ∧
    ((drainAll (fetched wCore 0) 0).core 0).bad (gOf wCore 0 5).toNat = false ∧ (wCore.core 0).rsv ≠ some ((gOf wCore 0 5).toNat / 16 * 16) :=
  ⟨wCore_ready, by decide, by decide, by decide, by decide⟩

/-- As `wCore`, with a reservation on the granule of 0x20. -/
def wReserved : State := { wCore with cores := [(0, { st := .running, g := [(5, 0x20#32)], rsv := some 0x20 })] }
theorem witness_AtomicsLocal_reserved : (wReserved.core 0).rsv = some ((gOf wReserved 0 5).toNat / 16 * 16) ∧ canRun wReserved 0 = true := by decide

/-! AtomicsElsewhere -/

theorem witness_AtomicsElsewhere : Ready wOdd 0 ∧ (gOf wOdd 0 29).toNat % 4 ≠ 0 ∧ (gOf wOdd 0 1).toNat % 4 = 0 ∧ atPlace 0 0x40000000 = none ∧
    atPlace 0 0x08000010 = some (.sram 0 0x10) := ⟨wOdd_ready, by decide, by decide, by decide, by decide⟩

/-- A core with the address of a word of its own meadow's SRAM in g5. -/
def wShared : State := { wCore with cores := [(0, { st := .running, g := [(5, 0x08000010#32)] })] }
theorem witness_AtomicsElsewhere_sram : atPlace 0 (gOf wShared 0 5).toNat = some (.sram 0 0x10) ∧
    sramRefuses (drainAll (fetched wShared 0) 0) 0 0 ((drainAll (fetched wShared 0) 0).roleOf 0) = false ∧
    sramBad (drainAll (fetched wShared 0) 0) 0 0x10 = false ∧ reserved (drainAll (fetched wShared 0) 0) 0 (.sram 0 0x10) = false := by decide

/-! AsynchronousTraps -/

/-- A core with IE and EVE bit 1 set whose event input 1 has an event. -/
def wEvent : State := { wCore with cores := [(0, { st := .running, gov := 0x21#32 })], tis := [(1, { phase := .busy, lastHop := 2 })] }
theorem witness_AsynchronousTraps : canRun wEvent 0 = true ∧ bit (wEvent.core 0).gov 0 = true ∧
    (bit (wEvent.core 0).gov 5 && evpBit wEvent 0 1) = true ∧ (bit (wEvent.core 0).gov 4 && evpBit wEvent 0 0) = false := by decide
theorem witness_AsynchronousTraps_none : canRun wCore 0 = true ∧ bit (wCore.core 0).gov 0 = false ∧
    ((List.range 4).all fun i => !(bit (wCore.core 0).gov (4 + i) && evpBit wCore 0 i)) = true := by decide

/-! CoreHousekeeping -/

theorem witness_CoreHousekeeping : Canonical wCore ∧ (wCore.core 0).lockstep = false ∧ (wCore.core 0).upper = false ∧ wCore.roleOf 0 < 2 :=
  ⟨wCore_ready.sound, by decide, by decide, by decide⟩

/-- A waiting core of role installer whose event input 0 is enabled and busy, with a byte in its store buffer. -/
def wSleeper : State :=
  { wCore with cores := [(0, { st := .waiting, cst := 0x10#32, role := 2, sb := [⟨4, [none, some 7]⟩] })], tis := [(0, { phase := .busy })] }
theorem witness_CoreHousekeeping_wake : 2 ≤ wSleeper.roleOf 0 ∧ ((wSleeper.reach 5).core 0).st = .waiting ∧ ((wSleeper.reach 5).core 0).upper = false ∧
    ((wSleeper.reach 5).core 0).lockstep = false ∧ wakeCond (wSleeper.reach 5) 0 = true ∧ ((wSleeper.reach 5).meadow 0).st = .active := by decide
theorem witness_CoreHousekeeping_drain : (wSleeper.core 0).sb.head? = some ⟨4, [none, some 7]⟩ ∧ 33 / 8 = 4 ∧ ([none, some 7] : List (Option Byte)).getD (33 % 8) none = some 7 ∧
    twf (fun _ => ({} : CoreState)) wSleeper.cores = true := by decide
theorem witness_CoreHousekeeping_still : ((wCore.reach 5).core 0).st ≠ .waiting := by decide

/-! QueueProducing -/

theorem witness_QueueProducing : Ready wCore 0 ∧ (4#5).getLsbD 0 = false ∧ (5#5).getLsbD 0 = true ∧ (fetched wCore 0).prod 0 = none ∧
    pushRoom (fetched wCore 0) 0 ((wCore.core 0).curQid) = .refused ∧ isRaw (fetched wCore 0) 0 = false := ⟨wCore_ready, by decide, by decide, by decide, by decide, by decide⟩
theorem witness_QueueProducing_room : Ready wQueue 0 ∧ (fetched wQueue 0).prod 0 = none ∧ pushRoom (fetched wQueue 0) 0 (wQueue.core 0).curQid = .ok ∧
    isRaw (fetched wQueue 0) (wQueue.core 0).curQid = false := ⟨wQueue_ready, by decide, by decide, by decide⟩

/-- The same with a packet open, and with its channel away. -/
def wOpen : State := { wQueue with prods := [(0, some ⟨0xD8200, [⟨0x41, 0⟩], .none, []⟩)] }
theorem witness_QueueProducing_open : canRun wOpen 0 = true ∧ (fetched wOpen 0).prod 0 = some ⟨0xD8200, [⟨0x41, 0⟩], .none, []⟩ ∧
    pushRoom (fetched wOpen 0) 0 (wOpen.core 0).curQid = .ok ∧ 0x40 ≤ bits (0x41 : Dword) 7 0 := by decide
def wAway : State := { wQueue with chans := [] }
theorem witness_QueueProducing_wait : canRun wAway 0 = true ∧ (fetched wAway 0).prod 0 = none ∧ pushRoom (fetched wAway 0) 0 (wAway.core 0).curQid = .unavail := by decide

/-! QueueConsuming -/

theorem witness_QueueConsuming : Ready wCore 0 ∧ (4#5).getLsbD 0 = false ∧ (5#5).getLsbD 0 = true ∧
    (fetched wCore 0).chanAvail (chanOf (wCore.core 0).curQid) = false ∧ qRefused (fetched wCore 0) 0 (wCore.core 0).curQid false = true :=
  ⟨wCore_ready, by decide, by decide, by decide, by decide⟩
theorem witness_QueueConsuming_packet : Ready wMail 0 ∧ readDesc (fetched wMail 0) (wMail.core 0).curQid = fetched wMail 0 ∧ (fetched wMail 0).chanAvail (chanOf (wMail.core 0).curQid) = true ∧
    qRefused (fetched wMail 0) 0 (wMail.core 0).curQid false = false ∧ ((fetched wMail 0).chan (chanOf (wMail.core 0).curQid)).paused = false ∧
    (fetched wMail 0).cons 0 = none ∧ ((fetched wMail 0).queue (wMail.core 0).curQid).pkts = [⟨0x0140, 0⟩, ⟨7, 0⟩] :: [] :=
  ⟨wMail_ready, by decide, by decide, by decide, by decide, by decide, by decide⟩

/-! WaitsInMemory -/

/-- A core whose QPUT waits for the channel of its mailbox, with its sentinel at 10 microseconds. -/
def wStuck : State :=
  ({ wQueue with
     cores := [(0, { st := .running, role := 2, qid := 0xD8200#32, g := [(4, 0x41#32)], hang := some ⟨.push 0xD8200 0x41, encQ 0 4 1, 0⟩ })],
     chans := [], uptime := 20000 } : State).setReg .heath 0 HEATH_SENTINEL 0x2000A#32
theorem witness_WaitsInMemory : (wStuck.core 0).hang = some ⟨.push (wStuck.core 0).curQid (gOf wStuck 0 5 ++ gOf wStuck 0 4), encQ 0 4 1, 0⟩ ∧
    twf (fun _ => ({} : CoreState)) wStuck.cores = true ∧ (qPush (wStuck.modCore 0 fun c => { c with hang := none }) 0 0xD8200 0x41).isNone = true := by decide
theorem witness_WaitsInMemory_sentinel : bit (wStuck.reg .heath 0 HEATH_SENTINEL) 17 = true ∧
    0 + bits (wStuck.reg .heath 0 HEATH_SENTINEL) 16 0 * 1000 ≤ wStuck.uptime ∧ (wStuck.core 0).upper = false ∧ (wStuck.core 0).lockstep = false := by decide

/-! OrdersGoThrough -/

theorem witness_OrdersGoThrough : orderIn (.laneStart 1 (wDesc 0 0)) = some (⟨.lane, 1, 1, wDesc 0 0⟩, {}) ∧ Taken wAll .lane 1 1 (wDesc 0 0) ∧
    (orderBody .lane 1 1 (wDesc 0 0) {} (logged wAll .lane 1 1 (wDesc 0 0) {})).code = some 0 :=
  ⟨rfl, by constructor <;> decide, rfl⟩
theorem witness_OrdersGoThrough_later : Taken wAll .lane 0 3 (wDesc 0 0) ∧
    (orderBody .lane 0 3 (wDesc 0 0) {} (logged wAll .lane 0 3 (wDesc 0 0) {})).code = none :=
  ⟨by constructor <;> decide, rfl⟩

/-! OrdersTurnedAway -/

theorem witness_OrdersTurnedAway_form : orderIn (.laneStart 1 (wDesc 1 0)) = some (⟨.lane, 1, 1, wDesc 1 0⟩, {}) ∧ orderStalls wAll .lane 1 9 = false ∧
    orderOpen wAll .lane 1 9 = false ∧ mantleBusy wAll .lane = false ∧ orderForm (opened wAll .lane 1 1 (wDesc 1 0)) .lane 1 (wDesc 1 0) = false := ⟨rfl, by decide, by decide, by decide, by decide⟩
theorem witness_OrdersTurnedAway_never : submits 300 .lane 1 = false ∧ submits 9 .lane 1 = true := by decide
theorem witness_OrdersTurnedAway_right : orderForm (opened wAll .lane 1 1 { wDesc 0 0 with req := 5 }) .lane 1 { wDesc 0 0 with req := 5 } = true ∧
    orderRight (opened wAll .lane 1 1 { wDesc 0 0 with req := 5 }) .lane 1 1 { wDesc 0 0 with req := 5 } = false := by decide
theorem witness_OrdersTurnedAway_state : verdict (opened wAll .lane 0 1 (wDesc 0 0)) .lane 0 1 (wDesc 0 0) = .ends cNotNow := by decide
theorem witness_OrdersTurnedAway_hold : verdict (opened wAll .lane 60 1 { wDesc 0 0 with wake := true }) .lane 60 1 { wDesc 0 0 with wake := true } = .hold [37] := by decide
theorem witness_OrdersTurnedAway_full : verdict (opened { wAll with mantle := { st := 0 } } .lane 1 1 (wDesc 0 0)) .lane 1 1 (wDesc 0 0) = .go ∧
    orderJournaled .lane 1 (wDesc 0 0) = true ∧ journalReady (opened { wAll with mantle := { st := 0 } } .lane 1 1 (wDesc 0 0)) = false := by decide
theorem witness_OrdersTurnedAway_turn : orderOpen (opened wAll .lane 1 1 (wDesc 0 0)) .lane 1 9 = true ∧
    orderStalls (opened wAll .lane 1 1 (wDesc 0 0)) .lane 1 9 = false := by decide
theorem witness_OrdersTurnedAway_stall : orderStalls { wAll with heldComps := [⟨.lane, 1, 9, [], false⟩] } .lane 1 9 = true := by decide

/-! LaneOrders -/

theorem witness_LaneOrders : Taken wAll .lane 1 1 (wDesc 0 0) ∧ Taken wAll .lane 0 2 (wDesc 0 0) ∧ Taken wAll .lane 0 3 (wDesc 0 0) ∧ Taken wAll .lane 0 4 (wDesc 1 2) ∧
    Taken wAll .lane 0 5 (wDesc 1 0) ∧ Taken wAll .lane 0 6 (wDesc 1 0) ∧ Taken wAll .lane 1 7 (wDesc 0 0) ∧ Taken wAll .lane 0 8 (wDesc 0 0) := by
  refine ⟨?_, ?_, ?_, ?_, ?_, ?_, ?_, ?_⟩ <;> constructor <;> decide
theorem witness_LaneOrders_nodes : ((logged wAll .lane 0 4 (wDesc 1 2) {}).node 0 1).assigned = true ∧ ((logged wAll .lane 0 4 (wDesc 2 2) {}).node 0 2).assigned = false := by decide
theorem witness_LaneOrders_none : Taken wAll .lane 0 4 (wDesc 2 2) ∧ Taken wAll .lane 0 5 (wDesc 129 0) ∧ Taken wAll .lane 0 6 (wDesc 128 0) := by
  refine ⟨?_, ?_, ?_⟩ <;> constructor <;> decide

/-! ChannelOrders -/

theorem witness_ChannelOrders : Taken wAll .qeng 0 1 (wDesc 0 0) ∧ Taken wAll .qeng 0 2 (wDesc 0xFFFFF 0) ∧ Taken wAll .qeng 0 3 (wDesc 0 0) ∧ Taken wAll .qeng 0 4 (wDesc 3 0) ∧
    Taken wAll .qeng 0 5 (wDesc 0 0) ∧ Taken wAll .qdr 0 1 (wDesc 0 8) ∧ Taken wAll .qdr 3 2 (wDesc 0 0) ∧ Taken wAll .qdr 0 3 (wDesc 0 0) := by
  refine ⟨?_, ?_, ?_, ?_, ?_, ?_, ?_, ?_⟩ <;> constructor <;> decide

/-! LifeOrders -/

theorem witness_LifeOrders : Taken wAll .life 0 1 (wDesc 1 0) ∧ Taken wAll .life 0 2 (wDesc 4095 0) ∧ Taken wAll .life 0 3 (wDesc 0x8F80 5) ∧ Taken wAll .life 0 4 (wDesc 1 0) ∧
    Taken wAll .life 0 5 (wDesc 0 0) ∧ Taken wAll .life 0 6 (wDesc 0 0) := by
  refine ⟨?_, ?_, ?_, ?_, ?_, ?_⟩ <;> constructor <;> decide
theorem witness_LifeOrders_open : openRec (logged { wAll with life := { st := 3, open_ := [(posIdx 0 1, some (recOf (posIdx 0 1) []))] } } .life 0 3 (wDesc 1 9) {}) (posIdx 0 1) = some (recOf (posIdx 0 1) []) ∧
    openRec (logged wAll .life 0 3 (wDesc 1 9) {}) (posIdx 0 1) = none := by decide

/-! StatOrders -/

theorem witness_StatOrders : Taken wAll .stat 0 0x40 (wDesc 0 0) ∧ Taken wAll .stat 0 0x41 (wDesc 0xFFFF 0) ∧ Taken wAll .stat 0 0x42 (wDesc 0 0) ∧ Taken wAll .stat 0 0x43 (wDesc 0 0) ∧
    Taken wAll .stat 0 0x44 (wDesc 0 0) ∧ Taken wAll .stat 0 1 (wDesc 0 6) ∧ Taken wAll .stat 0 1 (wDesc 0 7) ∧ Taken wAll .stat 0 2 (wDesc (w32 ((bankInfo 0).1 + 256 * (bankInfo 0).2.1)) 0) := by
  refine ⟨?_, ?_, ?_, ?_, ?_, ?_, ?_, ?_⟩ <;> constructor <;> decide
theorem witness_StatOrders_entry : (targetEntry { wAll with faults := [(0, { st := .raised })] } 0).isSome = true ∧ targetEntry wAll 0 = none := by decide

/-! PowerOrders -/

theorem witness_PowerOrders : Taken wAll .meadow 0 1 (wDesc 7 0) ∧ Taken wAll .meadow 31 2 (wDesc 0 0) ∧ Taken wAll .meadow 1 0x20 (wDesc 0 0) ∧ Taken wAll .meadow 0 0x21 (wDesc 0 0) ∧
    Taken wAll .heath 0 0x10 (wDesc 2 0) ∧ Taken wAll .heath 0 0x11 (wDesc 0 0) ∧ Taken wAll .heath 0 0x30 (wDesc 0 0) ∧ Taken wAll .heath 0 0x31 (wDesc 15 0) := by
  refine ⟨?_, ?_, ?_, ?_, ?_, ?_, ?_, ?_⟩ <;> constructor <;> decide
theorem witness_PowerOrders_more : Taken wAll .heath 0 0x40 (wDesc 0 0) ∧ Taken wAll .heath 0 0x41 (wDesc 0 0) ∧ Taken wAll .pad 0 1 (wDesc 0 0) ∧ Taken wAll .seam 0 1 (wDesc 0 0) ∧
    Taken wAll .upl 3 1 (wDesc 0 0) ∧ Taken wAll .hedge 0 2 (wDesc 2879 0) ∧ Taken wAll .hedge 0 1 (wDesc 0 0) := by
  refine ⟨?_, ?_, ?_, ?_, ?_, ?_, ?_⟩ <;> constructor <;> decide

/-! SecurityOrders -/

/-- The same block with an installer key in slot 4: it is claimed. -/
def wClaimed : State := { wAll with mantle := { wAll.mantle with keys := [(4, { st := 1 })] } }
theorem witness_SecurityOrders : Taken wAll .mantle 0 0x10 (wDesc 0 0) ∧ Taken wAll .mantle 0 0x11 (wDesc 0 0) ∧ Taken wAll .mantle 0 0x12 (wDesc 0 0) ∧ Taken wClaimed .mantle 0 0x13 (wDesc 0 0) ∧
    Taken wClaimed .mantle 0 0x14 (wDesc 0 0) ∧ Taken wAll .mantle 0 0x15 (wDesc 0 0) := by
  refine ⟨?_, ?_, ?_, ?_, ?_, ?_⟩ <;> constructor <;> decide
theorem witness_SecurityOrders_more : Taken wAll .mantle 0 0x16 (wDesc 0 0) ∧ Taken wAll .mantle 0 0x17 (wDesc 0 0) ∧ Taken wAll .mantle 0 0x18 (wDesc 3 0) ∧ Taken wAll .mantle 0 0x19 (wDesc 0 0) ∧
    Taken wAll .mantle 0 0x1A (wDesc 0 0) ∧ Taken wAll .mantle 0 0x1B (wDesc 0 0) := by
  refine ⟨?_, ?_, ?_, ?_, ?_, ?_⟩ <;> constructor <;> decide

/-! LoaderOrders -/

theorem witness_LoaderOrders : Taken wAll .mantle 0 1 (wDesc 0 0x810000000) ∧ Taken wAll .mantle 0 3 (wDesc 0 0) ∧ Taken wAll .mantle 0 0x20 (wDesc 0x40000000 0) ∧ Taken wAll .mantle 0 0x21 (wDesc 1 0) := by
  refine ⟨?_, ?_, ?_, ?_⟩ <;> constructor <;> decide

/-! ApplySequence -/

theorem witness_ApplySequence : orderStalls wAll .mantle 0 9 = false ∧ orderOpen wAll .mantle 0 9 = false ∧ mantleBusy wAll .mantle = false ∧
    orderForm (opened wAll .mantle 0 2 (wDesc 0 0x20)) .mantle 2 (wDesc 0 0x20) = true ∧ orderRight (opened wAll .mantle 0 2 (wDesc 0 0x20)) .mantle 0 2 (wDesc 0 0x20) = true ∧
    verdict (opened wAll .mantle 0 2 (wDesc 0 0x20)) .mantle 0 2 (wDesc 0 0x20) = .go ∧ (applyPre (opened wAll .mantle 0 2 (wDesc 0 0x20)) (wDesc 0 0x20)).2.2.isSome = true := by decide
theorem witness_ApplySequence_job : (judgeBundle wAll []).isSome = true := by decide +kernel

/-! HeldThings -/

theorem witness_HeldThings : (wAll.heldComps.filter fun h => decide (h.req = 9)) = [] ∧
    ((({ wAll with heldComps := [⟨.lane, 0, 9, [1, 2], false⟩] } : State).heldComps.filter fun h => decide (h.req = 9))).length = 1 ∧ wAll.dev ≠ .descending ∧ wAll.dev ≠ .waking ∧
    ((({ wAll with heldOrders := [⟨.lane, 1, 1, wDesc 0 0⟩] } : State).heldOrders.filter fun o => decide (o.d.req = 9))).length = 1 := by decide

/-! RegisterWrites -/

theorem witness_RegisterWrites : (named 0xFFFFFFFF).isNone = true ∧ (named (regAddr .heath 0 HEATH_DEV_MODE)).isSome = true ∧
    mayWrite wAll 9 (regAddr .heath 0 HEATH_DEV_MODE) = true ∧ mayWrite wAll 9 (regAddr .lane 0 LANE_SW_PARAM) = true ∧ journalReady wAll = true := by decide
theorem witness_RegisterWrites_gate : gate wAll .lane 60 LANE_CFG (regAddr .lane 60 LANE_CFG) = .absent ∧
    gate { wAll with seams := [(32, { st := .stopped, cause := 0 })] } .lane 0 LANE_CFG (regAddr .lane 0 LANE_CFG) = .waits := by decide
theorem witness_RegisterWrites_deny : mayWrite wAll 5 (regAddr .heath 0 HEATH_DEV_MODE) = false ∧ gate wAll .heath 0 HEATH_DEV_MODE (regAddr .heath 0 HEATH_DEV_MODE) = .open_ := by decide

/-! NamedWrites -/

theorem witness_NamedWrites : (List.range 32).all (fun m => mayWrite wAll 9 (regAddr .meadow m BLOCK_CLAMP_LOG)) = true ∧ mayWrite wAll 9 (regAddr .heath 0 (domReg 49)) = true ∧
    mayWrite wAll 9 (regAddr .heath 0 HEATH_DEV_MODE) = true ∧ mayWrite wAll 9 (regAddr .meadow 0 MEADOW_GOV) = true ∧ mayWrite wAll 9 (regAddr .meadow 31 MEADOW_PACE_MIN) = true ∧
    mayWrite wAll 9 (regAddr .lane 0 LANE_SW_LIMIT) = true ∧ mayWrite wAll 9 (regAddr .heath 0 HEATH_TB_RATE) = true ∧ mayWrite wAll 9 (regAddr .pad 0 (PAD_GRP + 4 * 17)) = true := by decide
theorem witness_NamedWrites_more : mayWrite wAll 9 (regAddr .hedge 0 HEDGE_SW_FIRE) = true ∧ mayWrite wAll 9 (regAddr .hedge 0 (HEDGE_TSEL + 4 * 2879)) = true ∧
    mayWrite wAll 9 (regAddr .hedge 0 (HEDGE_PSEL + 4 * 2351)) = true ∧ mayWrite wAll 9 (regAddr .hedge 0 (HEDGE_CHAN + 4 * 2047)) = true ∧
    mayWrite wAll 9 (regAddr .lane 0 LANE_SW_PARAM) = true ∧ mayWrite wAll 9 (regAddr .lane 0 (ovrOff 128 true)) = true ∧ mayWrite wAll 9 (regAddr .lane 11 (ovrOff 0 false)) = true := by decide
theorem witness_NamedWrites_named : (named (regAddr .heath 0 HEATH_DEV_MODE)).map (fun x => (x.1, x.2.1, x.2.2.2)) = some (.heath, 0, 0) ∧
    (named (regAddr .lane 0 (ovrOff 128 true))).map (fun x => (x.1, x.2.1, x.2.2.2)) = some (.lane, 0, 127) ∧
    (named (regAddr .pad 0 (PAD_GRP + 4 * 17))).map (fun x => (x.1, x.2.1, x.2.2.2)) = some (.pad, 0, 17) := by decide

/-! FramesTurnedAway -/

theorem witness_FramesTurnedAway : laneTx (wAll.reach 5) 1 = false ∧ laneTx (wAll.reach 5) 0 = true ∧ rxFits (wAll.reach 5) 0 1 wFrame = true ∧ rowFrame 1 0 wFrame = true ∧ rowFrame 8 0 { wFrame with hdr := 4 } = true ∧
    rxFits (wAll.modLane 0 fun x => { x with bulkUsed := 480 }) 0 1 wFrame = false ∧
    rxFails (rxHeld wAll 0 1 { wFrame with codingErr := true }) 0 1 { wFrame with codingErr := true } = some LANE_CNT_CRC := by decide

/-! FramesTaken -/

theorem witness_FramesTaken : Admitted (wAll.reach 5) 0 1 wFrame := by constructor <;> decide
/-- Frames of node 1 of each other type, their check sequences right. -/
def wFrameOf (type : Nat) (p : List Byte) : RxFrame :=
  let f : RxFrame := { codingErr := false, hdr := d64 (0x150 + 2 ^ 32 * p.length), payload := p, fcs := 0 }
  { f with fcs := crc32 (leBytes 8 (f.header type).toNat ++ f.payload) }
theorem witness_FramesTaken_types : Admitted (wAll.reach 5) 0 2 (wFrameOf 2 (List.replicate 16 0)) ∧ Admitted (wAll.reach 5) 0 3 (wFrameOf 3 (List.replicate 8 0)) ∧
    Admitted (wAll.reach 5) 0 5 (wFrameOf 5 [0, 0]) ∧ Admitted (wAll.reach 5) 0 8 (wFrameOf 8 (List.replicate 16 0)) := by
  refine ⟨?_, ?_, ?_, ?_⟩ <;> constructor <;> decide
theorem witness_FramesTaken_enum : Admitted (wAll.reach 5) 0 0xB (wFrameOf 0xB (2 :: List.replicate 11 0)) ∧ Admitted (wAll.reach 5) 0 0xB (wFrameOf 0xB (4 :: List.replicate 7 0)) ∧
    Admitted (wAll.reach 5) 0 0xB (wFrameOf 0xB [6, 0, 0, 0]) ∧ Admitted (wAll.reach 5) 0 6 (wFrameOf 6 (List.replicate 24 0)) := by
  refine ⟨?_, ?_, ?_, ?_⟩ <;> constructor <;> decide

/-! LaneTimers -/

/-- Lane 0 operating, with one command waiting, one outstanding at tag 5, a tag in quarantine, and node 1 answering nothing. -/
def wLane : State :=
  wAll.modLane 0 fun x =>
    { (x.setTag 5 { st := .outstanding { addr := 1, inc := 0, code := 2, args := [], for_ := .enum } (some 3) }).setTag 6 { st := .quarantined 4 } with
      cmdq := [{ addr := 1, inc := 0, code := 2, args := [], for_ := .enum }], stalledFrom := some 1,
      releases := [{ d := wDesc 1 0, node := 1, pos := 0, sent := true, until_ := 9 }], tx := none, creditDirty := some 1 }
theorem witness_LaneTimers : txFree (wLane.reach 10) 0 = true ∧ (wLane.lane 0).raisePending = false ∧ (wLane.lane 0).catchup = [] ∧ (wLane.lane 0).cmdq.length = 1 ∧
    (wLane.node 0 1).assigned = true ∧ (wLane.node 0 1).inc = 0 ∧ nextTag (wLane.reach 10) 0 = some 0 ∧ ((wLane.lane 0).tag 6).st = .quarantined 4 ∧
    ((wLane.lane 0).releases.find? fun w => w.sent && decide (w.node = 1 ∧ w.until_ ≤ (wLane.reach 10).uptime)).isSome = true := by decide
theorem witness_LaneTimers_due : laneTx (wLane.reach 2000001) 0 = true ∧ creditDue (wLane.reach 2000001) 0 = true ∧ 1 + 1000000 ≤ (wLane.reach 2000001).uptime ∧
    tiDue (wLane.setTi (tiLane 0 8) { phase := .busy, due := true }) (tiLane 0 8) = true ∧ (wLane.lane 0).st = .operating ∧ (wLane.lane 0).enum = none := by decide

/-! LaneLinks -/

theorem witness_LaneLinks : (({ wAll with lanes := [(0, { st := .linking })] } : State).lane 0).st = .linking ∧ ((enterLinking wAll 0).lane 0).ampAsk ≠ 1 ∧ laneTx wAll 0 = true ∧ laneTx wAll 1 = false ∧
    wAll.domOn (laneDom 0) = true ∧ wAll.domOn (laneDom 143) = false ∧ (wAll.dom (laneDom 143)).st = .off ∧ wAll.dev ≠ .shelf ∧
    isPresent { wAll with conds := [(0x04, subj 0 1)] } 0x04 (subj 0 1) = true := by decide
theorem witness_LaneLinks_modes : ((enterLinking (wAll.setReg .lane 0 LANE_CFG 1) 0).lane 0).ampAsk = 1 ∧ ((enterLinking (wAll.setReg .lane 0 LANE_CFG 2) 0).lane 0).ampAsk = 2 ∧ wrongSymbols wakeSequence.1 wakeSequence.2 = 0 ∧
    bit (wakeLaneReg (wAll.setReg .heath 0 (HEATH_WAKE_LANE + 4 * 71) 1) 71) 0 = true := by decide

/-! SwathTimers -/

theorem witness_SwathTimers : (txFree (wAll.modLane 0 fun x => { x with raisePending := true }) 0 && ((wAll.modLane 0 fun x => { x with raisePending := true }).lane 0).raisePending && (wAll.lane 0).catchup.isEmpty) = true ∧
    capFree wAll 0 = true ∧ gatherReady wAll 0 = true ∧ ((wAll.modLane 0 fun x => { x with gatherEnd := some 3 }).lane 0).gatherEnd = some 3 ∧
    capFree (wAll.modLane 0 fun x => { x with gatherStarts := List.replicate 71 0 }) 0 = false ∧ wAll.timeSet = true ∧ State.reset.timeSet = false ∧
    (wAll.lane 0).calSeen = none ∧ tiDue (wAll.setTi (tiLane 0 7) { phase := .busy, due := true }) (tiLane 0 7) = true := by decide
theorem witness_SwathTimers_overrides : (bit (lreg wAll 0 LANE_OVR) 10 && ovrOver (lreg wAll 0 LANE_OVR_END) wAll.townSec) = false ∧
    (List.range 128).all (fun n => !(bit (nreg wAll 0 (n + 1) LANE_SW_NODE_OVR) 10 && ovrOver (nreg wAll 0 (n + 1) LANE_SW_NODE_OVR_END) wAll.townSec)) = true := by decide

/-! HedgeTimers -/

theorem witness_HedgeTimers : (wAll.setTi 3 { phase := .busy, refrEnd := 7, latch := some 2 }).hclock < ((wAll.setTi 3 { phase := .busy, refrEnd := 7, latch := some 2 }).ti 3).refrEnd ∧
    ((wAll.setTi 3 { phase := .busy, latch := some 2 }).ti 3).latch = some 2 ∧ (wAll.ti 3).latch = none ∧ wAll.dev ≠ .shelf ∧
    tiDue (wAll.setTi (tiDelay 15) { phase := .busy, due := true }) (tiDelay 15) = true ∧ tiDue wAll (tiDelay 0) = false ∧
    tiDue (wAll.setTi (tiUser 7) { phase := .busy, due := true }) (tiUser 7) = true ∧ tiDue (wAll.setTi (tiCapture 15) { phase := .busy, due := true }) (tiCapture 15) = true := by decide
theorem witness_HedgeTimers_mark : tiDue (wAll.setTi (tiMark 3) { phase := .busy, due := true }) (tiMark 3) = true ∧ orderStalls (wAll.setTi (tiMark 3) { phase := .busy, due := true }) .mantle 0 412 = false ∧
    tget none ({ wAll with delays := [(2, some (0, 1))] } : State).delays 2 = some (0, 1) ∧ (wAll.ti 0).phase ≠ .busy ∧
    ({ wAll with hc2Due := true } : State).hc2Due = true ∧ wAll.hc2At = none := by decide

/-! QueueTimers -/

/-- Channel 0 runs, and everything timed is due. -/
def wDue : State := { (wAll.modChan 0 fun x => { x with st := 3 }) with uptime := 10 ^ 18 }
theorem witness_QueueTimers : (wDue.chan 0).st = 3 ∧ (wDue.chan 0).scrubAt + scrubNs wDue ≤ wDue.uptime ∧ ((wDue.setReg .qdr 0 QDR_CFG 0x220).chan 0).bulkAt + scrubNs wDue ≤ wDue.uptime ∧
    (wDue.setReg .qdr 0 QDR_CFG 0x220).rbit .qdr 0 QDR_CFG 5 = true ∧ (wDue.setReg .qdr 0 QDR_CFG 0x220).fld .qdr 0 QDR_CFG 15 8 = 2 ∧ (wDue.chan 0).recalAt + 2 * 1000000000 ≤ wDue.uptime ∧
    (wAll.lane 0).enum = none ∧ (wAll.lane 0).held = [] ∧ (wAll.lane 0).detHold = [] ∧ (wAll.lane 0).sumsHeld = [] := by decide
theorem witness_QueueTimers_commit : (hwTry wQueue 0xD8200 (hwPacket wQueue 256 0xD8200 [1, 2])).2 = .ok ∧ (hwTry wAll 0 (hwPacket wAll 256 0 [1, 2])).2 = .refused := by decide

/-! PowerTimers -/

theorem witness_PowerTimers : ((wAll.modDom 32 fun x => { x with st := .starting, step := 1 }).dom 32).st = .starting ∧ ((wAll.modDom 32 fun x => { x with st := .starting, step := 1 }).dom 32).step = 1 ∧
    ((wAll.modDom 3 fun x => { x with st := .stopping }).dom 3).st = .stopping ∧ (wAll.dom 32).st ≠ .stopping ∧ wAll.domOn 49 = true ∧ chanRelock wAll 44 = false ∧
    ((wAll.modDom 45 fun x => { x with st := .starting, step := 0, retry := true }).dom 45).retry = true ∧ ({ wAll with xref := { st := 1, retry := false, since := 0 } } : State).xref.st = 1 := by decide
theorem witness_PowerTimers_own : padFree (wAll.modDom 48 fun x => { x with st := .starting, step := 6 }) 48 = true ∨ 47 < 48 := by decide
theorem witness_PowerTimers_relock : chanRelock (wAll.modChan 0 fun y => { y with st := 3, paused := true }) 44 = true := by decide

/-! ModeTimers -/

theorem witness_ModeTimers : tiDue (wAll.setTi (tiPace 0) { phase := .busy, due := true }) (tiPace 0) = true ∧ tiDue (wAll.setTi (tiWake 15) { phase := .busy, due := true }) (tiWake 15) = true ∧
    (wAll.meadow 0).changing = false ∧ wAll.dev ≠ .shelf ∧ ({ wAll with xref := { st := 0 } } : State).xref.st = 0 ∧ ({ wAll with dev := .descending, descent := 5 } : State).wake.isSome = false := by decide
theorem witness_ModeTimers_wakes : bit ((wAll.setReg .heath 0 HEATH_WAKE_EN 0xFFFF003E).reg .heath 0 HEATH_WAKE_EN) 31 = true ∧ (State.reset.dom 48).st = .off ∧
    ((wAll.modMeadow 0 fun x => { x with lastEvent := some 5, changing := true, goal := 2 }).meadow 0).lastEvent = some 5 ∧
    ((wAll.modMeadow 0 fun x => { x with lastEvent := some 5, changing := true, goal := 2 }).meadow 0).changing = true := by decide

/-! LifeTimers -/

theorem witness_LifeTimers : lifeRuns wAll = true ∧ lifeRuns State.reset = false ∧ wAll.life.intake = [] ∧ (wAll.modLife fun x => { x with recomputeDue := true }).life.recomputeDue = true ∧
    nextExport wAll = none ∧ wAll.timeSet = true ∧ wAll.stats.nextUtc ≤ wAll.utcSec ∧ State.reset.timeSet = false ∧ wAll.faultHold = [] := by decide
theorem witness_LifeTimers_faults : ((hwOffer State.reset 4 0xD8511 [1, 2]).2 = .refused) ∧ ((hwOffer wQueue 5 0xD8200 (hwPacket wQueue 256 0xD8200 [1, 2])).2 = .ok) := by decide

/-! PinTimers -/

theorem witness_PinTimers : tiDue (wAll.setTi (tiGpio 63) { phase := .busy, due := true }) (tiGpio 63) = true ∧ bit (gpioCfg (wAll.setReg .pad 0 (PAD_GPIO + 4 * 63) 0x41) 63) 0 = true ∧
    bit (gpioCfg wAll 0) 0 = false ∧ tget none ({ wAll with gpioPulse := [(3, some (7, true))] } : State).gpioPulse 3 = some (7, true) ∧
    ([0, 1, 2, 3].all fun j => tiDue (wAll.setTi (tiSampler j) { phase := .busy, due := true }) (tiSampler j) && !tiDue wAll (tiSampler j)) = true := by decide
theorem witness_PinTimers_pass : smpDue (({ wAll with sampler := { wAll.sampler with nextAt := some 0 } } : State).setReg .heath 0 HEATH_SMP_CFG 1) = true ∧ smpDue wAll = false := by decide

/-! SeamTimers -/

theorem witness_SeamTimers : (({ wAll with seams := [(50, { st := .live, cause := 0 })] } : State).seam 50).st = .live ∧ (wAll.setReg .seam 0 SEAM_CFG 0x400).rbit .seam 0 SEAM_CFG 10 = true ∧
    (({ wAll with seams := [(60, { st := .severed, cause := 5 })] } : State).seam 60).cause = 5 ∧ (({ wAll with seams := [(70, { st := .realigning, cause := 0 })] } : State).seam 70).st = .realigning ∧
    (({ wAll with seams := [(201, { st := .stopped, cause := 0 })] } : State).seam 201).st = .stopped ∧ (wAll.seam 202).st ≠ .stopped := by decide

/-! SecurityTimers -/

theorem witness_SecurityTimers : mantleRuns wAll = true ∧ mantleRuns State.reset = false ∧ wAll.mantle.token = none ∧ debugUnlocked wAll = true ∧ debugScope wAll true = true ∧ debugScope wAll false = true := by decide
theorem witness_SecurityTimers_locked : debugUnlocked (wAll.modMantle fun m => { m with keys := [(4, { st := 1 })] }) = false ∧
    (wAll.modMantle fun m => { m with token := some { until_ := 0, role := 0, cores := true, mem := true } }).mantle.token.isSome = true := by decide

/-! UplinkEvents -/

/-- Uplink 0 is up. -/
def wUp : State := { wAll with upls := [(0, { st := 4 })] }
theorem witness_UplinkEvents : uplUp wUp 0 = true ∧ uplUp wUp 1 = false ∧ (wUp.upl 0).st = 4 ∧ ({ wAll with upls := [(3, { st := 3 })] } : State).upl 3 = { st := 3 } ∧
    tiDue (wUp.setTi (tiHandoff 0 63) { phase := .busy, due := true }) (tiHandoff 0 63) = true ∧ tiDue wUp (tiHandoff 3 0) = false ∧ handoffForm [] = false ∧
    bit (ureg wUp 0 (UPL_EXP_A + 8 * 3)) 20 = false ∧ bit (ureg (wUp.setReg .upl 0 UPL_EXP_A 0x300000) 0 UPL_EXP_A) 21 = true ∧ bit (ureg wUp 0 (UPL_HO_OUT + 4 * 63)) 11 = false := by decide
theorem witness_UplinkEvents_ptp : tbMode (wUp.setReg .heath 0 HEATH_TB_DISC 1) = 1 ∧ tbSource (wUp.setReg .heath 0 HEATH_TB_DISC 1) = 0 ∧
    tbMode (wUp.setReg .heath 0 HEATH_TB_DISC 0) ≠ 1 := by decide

/-! ManagementAccess -/

theorem witness_ManagementAccess : mgmtHears (({ wAll with upls := [(0, { st := 4 })] } : State).setReg .upl 0 UPL_PORTS 0x10000) 0 = true ∧ mgmtHears wAll 0 = false ∧ i2cBusy wAll = false ∧ (0x101 : Word).toNat % 4 ≠ 0 := by decide
theorem witness_ManagementAccess_time : (named (regAddr .heath 0 HEATH_TB_SEC_LO)).map (fun x => (x.1, x.2.1, x.2.2.1.off, x.2.2.2)) = some (.heath, 0, HEATH_TB_SEC_LO, 0) ∧
    gate wAll .heath 0 HEATH_TB_SEC_LO (regAddr .heath 0 HEATH_TB_SEC_LO) = .open_ := by decide

/-! BootEvents -/

theorem witness_BootEvents : State.reset.boot.inReset = true ∧ wAll.boot.inReset = State.reset.boot.inReset ∧ (wAll.modBoot fun b => { b with inReset := false, resetAt := some 0 }).boot.resetAt = some 0 ∧
    (wAll.modBoot fun b => { b with inReset := false }).boot.inReset = false ∧ mantleRuns wAll = true ∧ (wAll.modBoot fun b => { b with step := 4 }).boot.step = 4 ∧ (wAll.modBoot fun b => { b with step := 9 }).boot.step = 9 ∧
    (wAll.heldComps.all fun h => decide (h.blk ≠ .pad)) = true ∧ tget none (wAll.modTb fun x => { x with alarms := [(7, some 0)] }).tb.alarms 7 = some 0 ∧
    wAll.fld .heath 0 (HEATH_TB_ALARM_C + 0x10 * 7) 23 0 * 1000000 = 0 ∧ wAll.townSec = wAll.tb.ppsAt ∧ (wAll.modTb fun x => { x with ppsAt := 9 }).tb.ppsAt ≠ wAll.townSec := by decide

/-! StepRunsFront -/

theorem witness_StepRunsFront : (wCore.enqueue (.nop 0)).pending = .nop 0 :: [] := rfl

/-! StepIdle -/

theorem witness_StepIdle : State.reset.pending = [] := rfl

/-! StepsAnswer -/

theorem witness_StepsAnswer : Canonical wCore := wCore_ready.sound

/-! CanonicalKept -/

theorem witness_CanonicalKept : Canonical (wCore.enqueue (.nop 0)) ∧ ∃ t, step (wCore.enqueue (.nop 0)) = .next t :=
  ⟨by constructor <;> first | decide | (unfold coresWf eccWf; decide) | (unfold meadowsWf eccWf; decide) | (unfold chansWf eccWf; decide) | (unfold mantleWf; decide), _, rfl⟩

end Sys2Proof.Tests
end

section
namespace Sys2Proof.Proofs

open Sys2Proof.Machine Sys2Proof.Laws

/-! What waits for room stays: the work of Hedgerow and of the queue engine leaves the held completions as they are. -/

/-- A fold whose every step leaves the held completions as they are leaves them so. -/
theorem heldComps_foldl {α : Type} {f : State → α → State} (hf : ∀ s a, (f s a).heldComps = s.heldComps) (l : List α) (s : State) :
    (l.foldl f s).heldComps = s.heldComps := by
  induction l generalizing s with
  | nil => rfl
  | cons a l ih => exact (ih (f s a)).trans (hf s a)

@[simp] theorem heldComps_bumpDrop (s : State) (c : Nat) (lost : Bool) : (bumpDrop s c lost).heldComps = s.heldComps := by
  cases lost <;> rfl

@[simp] theorem heldComps_hc2Report (s : State) (k : Nat) : (hc2Report s k).heldComps = s.heldComps := by
  unfold hc2Report; split <;> rfl

@[simp] theorem heldComps_lose (s : State) (c : Option Nat) : (lose s c).heldComps = s.heldComps :=
  (heldComps_hc2Report _ _).trans (by cases c with
    | none => rfl
    | some c => exact heldComps_bumpDrop s c true)

@[simp] theorem heldComps_suppress (s : State) (p : Nat) : (suppress s p).heldComps = s.heldComps :=
  (heldComps_hc2Report _ _).trans (by
    cases h : selected (psel s p) with
    | none => rfl
    | some c => exact heldComps_bumpDrop s c false)

@[simp] theorem heldComps_govEvent (s : State) (m : Nat) : (s.govEvent m).heldComps = s.heldComps := by
  unfold State.govEvent; split <;> rfl

@[simp] theorem heldComps_deliver (s : State) (t hop : Nat) : (deliver s t hop).heldComps = s.heldComps := by
  unfold deliver
  dsimp only
  split
  · exact heldComps_govEvent _ _
  · rfl

@[simp] theorem heldComps_arrive (s : State) (c t hop : Nat) : (arrive s c t hop).heldComps = s.heldComps := by
  unfold arrive
  split
  · exact heldComps_lose _ _
  · split
    · exact heldComps_deliver _ _ _
    · split <;> rfl

@[simp] theorem heldComps_carry (s : State) (c n hop : Nat) : (carry s c n hop).heldComps = s.heldComps := by
  unfold carry
  dsimp only
  split
  · exact heldComps_arrive _ _ _ _
  · rfl

@[simp] theorem heldComps_carryAll (s : State) (evs : List (Nat × Nat)) : (carryAll s evs).heldComps = s.heldComps :=
  heldComps_foldl (fun s c => heldComps_carry s c _ _) _ s

@[simp] theorem heldComps_suppressAll (s : State) (evs : List (Nat × Nat)) : (suppressAll s evs).heldComps = s.heldComps := by
  unfold suppressAll
  refine heldComps_foldl (fun s e => ?_) _ s
  exact heldComps_suppress s e.1

@[simp] theorem heldComps_fireRound (s : State) (evs : List (Nat × Nat)) : (fireRound s evs).heldComps = s.heldComps := by
  simp [fireRound]

@[simp] theorem heldComps_hc2Serve (s : State) : (hc2Serve s).heldComps = s.heldComps := by
  unfold hc2Serve
  split
  · exact heldComps_fireRound _ _
  · rfl

@[simp] theorem heldComps_pulseOffer (s : State) (k p hop : Nat) : (pulseOffer s k p hop).1.heldComps = s.heldComps := by
  rcases pulseOffer_does s k p hop with ⟨_, _, e⟩ | ⟨_, _, e⟩ | ⟨_, _, e⟩ <;> rw [e] <;> rfl

@[simp] theorem heldComps_crossAll (s : State) (evs : List (Nat × Nat)) : (crossAll s evs).1.heldComps = s.heldComps := by
  unfold crossAll
  refine List.foldlRecOn (motive := fun x : State × List (Nat × Nat) => x.1.heldComps = s.heldComps) evs _ rfl fun x hx e _ => ?_
  dsimp only
  split
  · exact hx
  · exact (heldComps_pulseOffer _ _ _ _).trans hx

@[simp] theorem heldComps_fire (s : State) (evs : List (Nat × Nat)) : (s.fire evs).heldComps = s.heldComps := by
  simp [State.fire]

@[simp] theorem heldComps_takeBlocks (n : Nat) (s : State) (c k : Nat) (acc : List Block) :
    (takeBlocks n s c k acc).1.heldComps = s.heldComps := by
  induction n generalizing s k acc with
  | zero => rfl
  | succ n ih => exact ih s.draw (k + 1) _

@[simp] theorem heldComps_streamIn (s : State) (q : Nat) (p : Packet) (own : List Block) : (streamIn s q p own).heldComps = s.heldComps :=
  heldComps_takeBlocks _ _ _ _ _

@[simp] theorem heldComps_fireWatches (s : State) (q : Nat) : (fireWatches s q).heldComps = s.heldComps := by
  unfold fireWatches
  dsimp only
  split
  · rfl
  · exact heldComps_fire _ _

@[simp] theorem heldComps_commitPkt (s : State) (q : Nat) (p : Packet) (own : List Block) : (commitPkt s q p own).heldComps = s.heldComps :=
  (heldComps_fireWatches _ _).trans (heldComps_streamIn _ _ _ _)

@[simp] theorem heldComps_hwStore (s : State) (q : Nat) (ws : List Dword) : (hwStore s q ws).heldComps = s.heldComps := by
  unfold hwStore
  dsimp only
  split
  · exact heldComps_foldl (fun s w => heldComps_commitPkt s q _ _) _ _
  · exact heldComps_commitPkt _ _ _ _

/-- What an offer of a hardware packet comes to: stored, refused and counted, or nothing. -/
theorem hwTry_does (s : State) (q : Nat) (ws : List Dword) :
    hwTry s q ws = (hwStore s q ws, .ok) ∨ hwTry s q ws = (s.bump .qeng 0 QENG_CNT_REFUSED, .refused) ∨
      ∃ r, r ≠ .ok ∧ r ≠ .refused ∧ hwTry s q ws = (s, r) := by
  unfold hwTry
  cases hwRoom s q ws.length with
  | ok => exact .inl rfl
  | refused => exact .inr (.inl rfl)
  | unavail => exact .inr (.inr ⟨_, by decide, by decide, rfl⟩)
  | full => exact .inr (.inr ⟨_, by decide, by decide, rfl⟩)
  | starved => exact .inr (.inr ⟨_, by decide, by decide, rfl⟩)

@[simp] theorem heldComps_hwTry (s : State) (q : Nat) (ws : List Dword) : (hwTry s q ws).1.heldComps = s.heldComps := by
  rcases hwTry_does s q ws with e | e | ⟨r, -, -, e⟩ <;> rw [e]
  · exact heldComps_hwStore s q ws
  · rfl

end Sys2Proof.Proofs
end

section
namespace Sys2Proof.Proofs

open Sys2Proof.Machine Sys2Proof.Laws

/-! Held completions go on (R24) -/

/-- One held completion is offered, behind those that are left: the step of `commitHeld`'s fold. -/
def offerHeld (req : Nat) (p : State × List HeldCompletion) (h : HeldCompletion) : State × List HeldCompletion :=
  if p.2 = [] then
    match hwTry p.1 (compQ req) h.words with
    | (s, .ok) => (s, [])
    | (s, .refused) => (s, [])
    | (s, _) => if h.counted then (s, [h]) else (countWait s (compQ req), [{ h with counted := true }])
  else (p.1, p.2 ++ [h])

abbrev compsOf (s : State) (req : Nat) : List HeldCompletion := s.heldComps.filter fun h => decide (h.req = req)
abbrev compsBeside (s : State) (req : Nat) : List HeldCompletion := s.heldComps.filter fun h => decide (h.req ≠ req)

/-- What is left of the requester's held completions, offered in order, stands behind those of the others. -/
theorem commitHeld_eq (s : State) (req : Nat) :
    commitHeld s req =
      (let x := (compsOf s req).foldl (offerHeld req) ({ s with heldComps := [] }, [])
       noteStarved { x.1 with heldComps := compsBeside s req ++ x.2 }) := rfl

/-- A completion that its queue takes or refuses leaves. -/
theorem offerHeld_leaves {s u : State} {req : Nat} {h : HeldCompletion} {r : Room} (e : hwTry s (compQ req) h.words = (u, r))
    (hr : r = .ok ∨ r = .refused) : offerHeld req (s, []) h = (u, []) := by
  unfold offerHeld
  rcases hr with rfl | rfl <;> simp [e]

/-- One that finds no room stays, counted once. -/
theorem offerHeld_stays {s u : State} {req : Nat} {h : HeldCompletion} {r : Room} (e : hwTry s (compQ req) h.words = (u, r))
    (ho : r ≠ .ok) (hf : r ≠ .refused) :
    offerHeld req (s, []) h = (if h.counted then u else countWait u (compQ req), [{ h with counted := true }]) := by
  obtain ⟨b, i, q, ws, counted⟩ := h
  unfold offerHeld
  cases r with
  | ok => exact absurd rfl ho
  | refused => exact absurd rfl hf
  | unavail | full | starved => cases counted <;> simp_all

/-- Behind a completion that stays all others stay. -/
theorem foldl_offerHeld_behind (req : Nat) (u : State) (hs left : List HeldCompletion) (hl : left ≠ []) :
    hs.foldl (offerHeld req) (u, left) = (u, left ++ hs) := by
  induction hs generalizing left with
  | nil => simp
  | cons h hs ih =>
    have e : offerHeld req (u, left) h = (u, left ++ [h]) := if_neg hl
    rw [List.foldl_cons, e, ih _ (by simp), List.append_assoc, List.singleton_append]

theorem withoutComps_self {u : State} (h : u.heldComps = []) : ({ u with heldComps := [] } : State) = u := by
  rw [← h]

/-- With the first of a requester's completions gone, those behind it are the requester's and the others are as before. -/
theorem comps_split {s : State} {req : Nat} {h : HeldCompletion} {hs : List HeldCompletion} (e : compsOf s req = h :: hs) (u : State) :
    compsOf { u with heldComps := hs ++ compsBeside s req } req = hs ∧
      compsBeside { u with heldComps := hs ++ compsBeside s req } req = compsBeside s req := by
  have own : ∀ x ∈ hs, x.req = req := fun x hx =>
    of_decide_eq_true (List.mem_filter.1 (e ▸ List.mem_cons_of_mem h hx : x ∈ compsOf s req)).2
  constructor
  · rw [compsOf, List.filter_append, List.filter_eq_self.2 (by simpa using own), List.filter_eq_nil_iff.2 (by simp),
      List.append_nil]
  · rw [compsBeside, List.filter_append, List.filter_eq_nil_iff.2 (by simpa using own), List.filter_eq_self.2 (by simp),
      List.nil_append]

/-- With no completion held for the requester, only STARVED is looked at again. -/
theorem commitHeld_none {s : State} {req : Nat} (e : compsOf s req = []) :
    commitHeld s req = noteStarved { s with heldComps := compsBeside s req } := by
  rw [commitHeld_eq, e]
  dsimp only [List.foldl_nil]
  rw [List.append_nil]

/-- The first completion leaves, and the command goes on with those behind it. -/
theorem commitHeld_leaves {s u : State} {req : Nat} {h : HeldCompletion} {hs : List HeldCompletion} {r : Room}
    (e : compsOf s req = h :: hs) (hu : hwTry { s with heldComps := [] } (compQ req) h.words = (u, r)) (hr : r = .ok ∨ r = .refused) :
    commitHeld s req = commitHeld { u with heldComps := hs ++ compsBeside s req } req := by
  have kept : u.heldComps = [] := by
    have := heldComps_hwTry ({ s with heldComps := [] } : State) (compQ req) h.words
    rwa [hu] at this
  obtain ⟨e1, e2⟩ := comps_split e u
  rw [commitHeld_eq, commitHeld_eq { u with heldComps := hs ++ compsBeside s req }, e, e1, e2, List.foldl_cons, offerHeld_leaves hu hr]
  dsimp only
  rw [withoutComps_self kept]

/-- The first completion finds no room, and stays with those behind it. -/
theorem commitHeld_stays {s u : State} {req : Nat} {h : HeldCompletion} {hs : List HeldCompletion} {r : Room}
    (e : compsOf s req = h :: hs) (hu : hwTry { s with heldComps := [] } (compQ req) h.words = (u, r)) (ho : r ≠ .ok) (hf : r ≠ .refused) :
    commitHeld s req = noteStarved { (if h.counted then u else countWait u (compQ req)) with
      heldComps := compsBeside s req ++ { h with counted := true } :: hs } := by
  rw [commitHeld_eq, e, List.foldl_cons, offerHeld_stays hu ho hf, foldl_offerHeld_behind _ _ _ _ (by simp)]
  rfl

/-- The device on its way between states checks no held order again. -/
theorem recheck_waits {s : State} (req : Nat) (h : s.dev = .descending ∨ s.dev = .waking) : recheck s req = s := if_pos h

/-- Settles O35: through what one offer of a held completion does, and the frame of that offer. -/
theorem heldThings : Obligations.HeldThings := by
  intro s req
  dsimp only
  refine ⟨fun e => ?_, fun h hs u r e hu => ⟨fun hr => ?_, fun ho hf => ?_⟩, fun h => ?_, fun hd hw => ?_⟩
  · exact congrArg answer (commitHeld_none e)
  · exact congrArg answer (commitHeld_leaves e hu hr)
  · exact congrArg answer (commitHeld_stays e hu ho hf)
  · exact congrArg answer (recheck_waits req h)
  · exact congrArg answer (if_neg (not_or.2 ⟨hd, hw⟩))

end Sys2Proof.Proofs
end

section
namespace Sys2Proof.Proofs

open Sys2Proof.Machine Sys2Proof.Laws

/-! Every step answers, and keeps the tables canonical -/

/-- What of the queue stands behind the command satisfies a property, and the tables are canonical: so do both after a step. -/
theorem step_keeps {P : List Instr → Prop} {s : State} (h : Canonical s) (hp : P s.pending.tail) : AK P (step s) := by
  unfold step
  cases e : s.pending with
  | nil => exact ak_answer ⟨by simpa [e] using hp, h⟩
  | cons c rest => exact ak_exec c s.rest ⟨hp, canonical_pending h _⟩

/-- Settles O56: a command leaves what stands behind it in the queue. -/
theorem stepsAnswer : Obligations.StepsAnswer := by
  intro s h
  obtain ⟨t, ht, hk⟩ := (step_keeps (P := (· = s.pending.tail)) h rfl).next
  exact ⟨t, ht, hk.pend⟩

/-- Settles O57: every command keeps the tables canonical, whatever stands behind it in the queue. -/
theorem canonicalKept : Obligations.CanonicalKept := by
  intro s t h ht
  obtain ⟨u, hu, hk⟩ := (step_keeps (P := T) h trivial).next
  obtain rfl : t = u := Host.Outcome.next.inj (ht.symm.trans hu)
  exact hk.canon

/-- Settles O58: after reset every table is empty. -/
theorem canonicalAtReset : Obligations.CanonicalAtReset where
  regs := rfl
  staging := rfl
  priv := rfl
  queues := rfl
  prods := rfl
  conss := rfl
  chans := ⟨rfl, List.forall_mem_nil _⟩
  starved := rfl
  lanes := rfl
  tis := rfl
  delays := rfl
  faults := rfl
  cores := ⟨rfl, List.forall_mem_nil _⟩
  meadows := ⟨rfl, List.forall_mem_nil _⟩
  doms := rfl
  padHeld := rfl
  gpioIn := rfl
  gpioPulse := rfl
  seams := rfl
  pulses := rfl
  crossings := rfl
  fifos := rfl
  mantle := ⟨rfl, rfl, rfl⟩
  upls := rfl

end Sys2Proof.Proofs
end

section
namespace Sys2Proof.Proofs

open Sys2Proof.Machine Sys2Proof.Laws

/-! What becomes of an order, from each of its checks on (R21) -/

section
variable {u : State} {b : Blk} {i op : Nat} {d : Desc} (m : Meas)

/-- Step 1 fails: the form is not legal. -/
theorem from1_badFormat (hm : ¬(b = .mantle ∧ op = 2)) (hf : orderForm u b op d = false) :
    orderFrom1 u b i op d m = complete u b i op d cBadFormat 0 [] := by
  rw [orderFrom1, if_pos hf, if_neg hm, orderOver_plain _ _ _ hm]

/-- Step 2 fails: the requester lacks the right. -/
theorem from1_denied (hm : ¬(b = .mantle ∧ op = 2)) (hf : orderForm u b op d = true) (hr : orderRight u b i op d = false) :
    orderFrom1 u b i op d m = complete (deny u d.req 1 d.target b cDenied) b i op d cDenied 0 [] := by
  rw [orderFrom1, if_neg (by simp [hf]), if_pos hr, if_neg hm, orderOver_plain _ _ _ hm]

/-- Step 3 ends the order with a code. -/
theorem from3_ends {code : Nat} (hm : ¬(b = .mantle ∧ op = 2)) (hv : verdict u b i op d = .ends code) :
    orderFrom3 u b i op d m = complete u b i op d code 0 [] := by
  rw [orderFrom3, hv]
  dsimp only
  rw [if_neg hm, orderOver_plain _ _ _ hm]

/-- Step 3 holds the order for domains that are not on. -/
theorem from3_holds {ds : List Nat} (hv : verdict u b i op d = .hold ds) : orderFrom3 u b i op d m = holdOrder u b i op d ds := by
  rw [orderFrom3, hv]

/-- Step 3 lets the order go on, and it does not wait for D49's journal. -/
theorem from3_goes (hv : verdict u b i op d = .go) (hw : (d.wake && !u.domOn 49) = false) :
    orderFrom3 u b i op d m = orderFrom4 u b i op d m := by
  rw [orderFrom3, hv]
  dsimp only
  rw [Bool.and_assoc (orderJournaled b op d), hw, Bool.and_false, Bool.false_and, if_neg Bool.false_ne_true]

/-- Step 4 fails: the journal has no room. -/
theorem from4_full (hm : ¬(b = .mantle ∧ op = 2)) (hd : ¬(b = .heath ∧ op = 0x10 ∧ d.target.toNat = 49)) (hj : orderJournaled b op d = true)
    (hr : journalReady u = false) :
    orderFrom4 u b i op d m = complete (u.bump .mantle 0 MANTLE_JR_CNT_FULL) b i op d cJournalFull 0 [] := by
  rw [orderFrom4, if_neg hm, if_neg (by simp [hj]), if_neg hd, if_neg (by simp [hr])]
  exact orderOver_plain _ _ _ hm

end

/-- An order that does not begin: its requester submits none, its port stalls, or one of its requester is open there. -/
theorem submit_waits {s : State} {b : Blk} {i op : Nat} {d : Desc} (m : Meas) :
    (submits d.req b op = false → submit s b i op d m = s) ∧
    (submits d.req b op = true → orderStalls s b i d.req = true → submit s b i op d m = s) ∧
    (submits d.req b op = true → orderStalls s b i d.req = false → orderOpen s b i d.req = true →
      submit s b i op d m = { s with orderQ := s.orderQ ++ [⟨b, i, op, d⟩] }) := by
  unfold submit
  refine ⟨fun h => if_pos h, fun h hs => ?_, fun h hs ho => ?_⟩
  · rw [if_neg (by simp [h]), if_pos hs]
  · rw [if_neg (by simp [h]), if_neg (by simp [hs]), if_pos ho]

/-- Settles O26: each check of R21 in its turn, from the submission on. -/
theorem ordersTurnedAway : Obligations.OrdersTurnedAway := by
  intro c b i op d m s hc
  obtain ⟨shut, stalled, behind⟩ := submit_waits (s := s) (b := b) (i := i) (op := op) (d := d) m
  have run : ∀ {v : State}, submit s b i op d m = v → exec c s = answer v := fun e => (exec_order s hc).trans (congrArg answer e)
  refine ⟨fun h => run (shut h), fun hsub => ⟨fun hs => run (stalled hsub hs), fun hs ho => run (behind hsub hs ho),
    fun hs ho hb hm => ?_⟩⟩
  have begins := submit_begins (i := i) (op := op) m hsub hs ho hb
  refine ⟨fun hf => ?_, fun hf hr => ?_, fun hf hr => ?_⟩
  · exact run (begins.trans (from1_badFormat m hm hf))
  · exact run (begins.trans (from1_denied m hm hf hr))
  · have judged := begins.trans (from1_taken m hf hr)
    refine ⟨fun code hv => ?_, fun ds hv => ?_, fun hv hw hd hj hroom => ?_⟩
    · exact run (judged.trans (from3_ends m hm hv))
    · exact run (judged.trans (from3_holds m hv))
    · exact run (judged.trans ((from3_goes m hv hw).trans (from4_full m hm hd hj hroom)))

/-- Settles O25: the answer of the block's work becomes the completion, or the order stays open. -/
theorem ordersGoThrough : Obligations.OrdersGoThrough := by
  intro c b i op d m s hc hm hd ht
  dsimp only
  have runs := taken_runs s hc ht hm hd
  refine ⟨fun code h => ?_, fun h => ?_⟩
  · rw [runs, orderEnd, h]
    exact congrArg answer (orderOver_plain _ _ _ hm)
  · rw [runs, orderEnd, h]

end Sys2Proof.Proofs
end

section
namespace Sys2Proof.Proofs

open Sys2Proof.Machine Sys2Proof.Laws

/-! What a write of a control address comes to, whoever makes it (R4 to R11, R17, R40, R41, R204) -/

section
variable {s : State} {req addr : Nat} {v : Word}

/-- A write where no register lies has no effect. -/
theorem write_unnamed (hn : named addr = none) : cmdWrite s req addr v = s := by
  refine ctl_done (w := 0) ?_
  rw [ctlWrite, hn]

section
variable {b : Blk} {i k : Nat} {d : RegDesc} (hn : named addr = some (b, i, d, k))
include hn

theorem mayWrite_iff : mayWrite s req addr = true ↔
    gate s b i (d.off + d.stride * k) addr = .open_ ∧ writeRight s req b i d k = true := by
  rw [mayWrite, hn]
  dsimp only
  cases gate s b i (d.off + d.stride * k) addr <;> simp

theorem write_absent (hg : gate s b i (d.off + d.stride * k) addr = .absent) : cmdWrite s req addr v = s.bumpSeam SEAM_CNT_ABSENT := by
  refine ctl_absent ?_
  rw [ctlWrite, hn]
  dsimp only
  rw [hg]

theorem write_waits (hg : gate s b i (d.off + d.stride * k) addr = .waits) :
    cmdWrite s req addr v = if 256 ≤ req then waitAtSeam s req addr (some v) else s := by
  refine ctl_waits (u := s) ?_
  rw [ctlWrite, hn]
  dsimp only
  rw [hg]

variable (hg : gate s b i (d.off + d.stride * k) addr = .open_)
include hg

theorem write_readOnly (ha : d.acc = .ro) : cmdWrite s req addr v = s := by
  refine ctl_done (w := 0) ?_
  rw [ctlWrite, hn]
  dsimp only
  rw [hg]
  exact if_pos ha

theorem write_denied (ha : d.acc ≠ .ro) (hr : writeRight s req b i d k = false) :
    cmdWrite s req addr v = denyWrite s req b i (d.off + d.stride * k) := by
  refine ctl_denied ?_
  rw [ctlWrite, hn]
  dsimp only
  rw [hg]
  dsimp only
  rw [if_neg ha, if_neg (by simp [hr])]

variable (ha : d.acc ≠ .ro) (hr : writeRight s req b i d k = true) (ho : d.hook = .order)
include ha hr ho

/-- A permitted write of an order port. -/
theorem ctl_port : ctlWrite s req addr v = orderWrite s b i k req v := (ctl_open v hn hg ha hr).trans (if_pos ho)

/-- A word of the staging descriptor but the last. -/
theorem write_staged (hk : k < 3) : cmdWrite s req addr v = s.setStaged b i req k v := by
  refine ctl_done (w := 0) ?_
  rw [ctl_port hn hg ha hr ho, orderWrite, if_pos hk]

/-- The last word, at a port that stalls. -/
theorem write_stalls (hk : 3 ≤ k) (hs : orderStalls s b i req = true) :
    cmdWrite s req addr v = if 256 ≤ req then waitAtSeam s req addr (some v) else s := by
  refine ctl_waits (u := s) ?_
  rw [ctl_port hn hg ha hr ho, orderWrite, if_neg (by omega), if_pos hs]

/-- The last word submits the order that the four words spell. -/
theorem write_submits (hk : 3 ≤ k) (hs : orderStalls s b i req = false) :
    cmdWrite s req addr v =
      (let u := s.setStaged b i req 3 v
       let x := descOf req (u.staged b i req 0) (u.staged b i req 1) (u.staged b i req 2) v
       submitFree u b i x.1 x.2) := by
  refine ctl_done (w := 0) ?_
  rw [ctl_port hn hg ha hr ho, orderWrite, if_neg (by omega), if_neg (by simp [hs])]

end

end

/-- Settles O36: each outcome of a write in the order in which it is judged. -/
theorem registerWrites : Obligations.RegisterWrites := by
  intro s req addr v
  have run : ∀ {u : State}, cmdWrite s req addr v = u → exec (.registerWrite req addr v) s = answer u := fun e => congrArg answer e
  refine ⟨fun hn => run (write_unnamed hn), fun b i k d hn => ⟨fun hg => run (write_absent hn hg), fun hg => run (write_waits hn hg),
    fun hg => ⟨fun ha => run (write_readOnly hn hg ha), fun ha hr => run (write_denied hn hg ha hr), fun ha hr => ?_⟩⟩⟩
  have may := (mayWrite_iff (req := req) hn).2 ⟨hg, hr⟩
  refine ⟨fun ho hk => ?_, fun ho hk hs => ?_, fun ho hk hs => ?_, fun ho hj => ?_, fun ho hj hroom => ?_, fun ho hj hroom => ?_⟩
  · exact run (write_staged hn hg ha hr ho hk)
  · exact run (write_stalls hn hg ha hr ho hk hs)
  · exact run (write_submits hn hg ha hr ho hk hs)
  · exact run (may_write v hn may ha ho hj)
  · exact run ((may_write_journaled v hn may ha ho hj).1 hroom)
  · exact run ((may_write_journaled v hn may ha ho hj).2 hroom)

end Sys2Proof.Proofs
end

section
namespace Sys2Proof.Proofs

open Sys2Proof.Machine Sys2Proof.Laws

/-! What a permitted write stores, by the hook of its register (R13, R50, R220 to R223, R236, R414, R419, R422, R424, R432, R546) -/

section
variable {s : State} {b : Blk} {i k role : Nat} {d : RegDesc} {v : Word}

/-- No register outside Hedgerow is shut while a map is applied. -/
theorem unmapped_of_ne (h : b ≠ .hedge) (off : Nat) : ¬(s.happlying && decide (b = .hedge) && hedgeMapped off) = true := by
  simp [h]

/-- Nor is one of Hedgerow's own that a map does not load. -/
theorem unmapped_of_off {off : Nat} (h : hedgeMapped off = false) : ¬(s.happlying && decide (b = .hedge) && hedgeMapped off) = true := by
  rw [h, Bool.and_false]
  exact Bool.false_ne_true

section
variable (h : ¬(s.happlying && decide (b = .hedge) && hedgeMapped (d.off + d.stride * k)) = true)
include h

theorem storeReg_paceMin (hk : d.hook = .paceMin) : storeReg s b i d k role v = (if bit v 31 then paceClear s i else s, 0) := by
  rw [storeReg, if_neg h, hk]

theorem storeReg_clampLog (hk : d.hook = .clampLog) : storeReg s b i d k role v = (if bit v 31 then clampClear s b i else s, 0) := by
  rw [storeReg, if_neg h, hk]

theorem storeReg_swFire (hk : d.hook = .swFire) : storeReg s b i d k role v = (swFire s v, 0) := by
  rw [storeReg, if_neg h, hk]

theorem storeReg_domOn (hk : d.hook = .domOn) : storeReg s b i d k role v = domOnWrite s (decide (d.off = HEATH_DOM_ON_HI)) v role := by
  rw [storeReg, if_neg h, hk]

theorem storeReg_padGrp (hk : d.hook = .padGrp) :
    storeReg s b i d k role v = padWrite s k v (judge d.flds (s.reg b i (d.off + d.stride * k)) v).1 := by
  rw [storeReg, if_neg h, hk]

theorem storeReg_psel (hk : d.hook = .psel) : storeReg s b i d k role v = pselSet s k v role := by
  rw [storeReg, if_neg h, hk]

theorem storeReg_tsel (hk : d.hook = .tsel) : storeReg s b i d k role v = tselSet s k v role := by
  rw [storeReg, if_neg h, hk]

theorem storeReg_hchan (hk : d.hook = .hchan) : storeReg s b i d k role v = chanSet s k v role := by
  rw [storeReg, if_neg h, hk]

/-- Registers that store a corrected value, after which their block follows it. -/
theorem storeReg_value (hk : d.hook ∈ [.devMode, .gov, .swLimit, .tbRate]) :
    storeReg s b i d k role v =
      (let old := s.reg b i (d.off + d.stride * k)
       let x := fixWrite s i d k role old v
       (afterWrite (s.setReg b i (d.off + d.stride * k) x.1) b i d k old x.1, x.2)) := by
  simp only [List.mem_cons, List.not_mem_nil, or_false] at hk
  rw [storeReg, if_neg h]
  rcases hk with hk | hk | hk | hk <;> rw [hk]

end

/-- A register that a map loads is clamped while the map is applied. -/
theorem storeReg_mapped {x : State × Nat} (h : hedgeMapped (d.off + d.stride * k) = true)
    (hx : ¬(s.happlying && decide (Blk.hedge = Blk.hedge) && hedgeMapped (d.off + d.stride * k)) = true → storeReg s .hedge i d k role v = x) :
    storeReg s .hedge i d k role v = if s.happlying then (s, 2) else x := by
  by_cases ha : s.happlying = true
  · rw [if_pos ha]
    exact if_pos (by simp [ha, h])
  · rw [if_neg ha]
    exact hx (by simp [ha])

end

/-! The commands -/

/-- The descriptor of a register is found from its address. -/
theorem desc_unique {addr i k : Nat} {b : Blk} {d e : RegDesc} (h : named addr = some (b, i, d, k)) (h' : named addr = some (b, i, e, k)) :
    e = d := by
  rw [h] at h'
  simpa using h'.symm

section
variable {s : State} {req : Nat} {b : Blk} {i off k : Nat} {d : RegDesc} {v : Word} {c : Bool}

/-- A command whose operand names a register of the block ends the permitted write of it. -/
theorem ends_written {x : State × Nat} (hc : c = true) (hn : named (regAddr b i off) = some (b, i, d, k)) (he : off = d.off + d.stride * k)
    (hm : mayWrite s req (regAddr b i off) = true) (ha : decide (d.acc = .ro) = false) (ho : decide (d.hook = .order) = false)
    (hj : regJournaled d = false) (hx : storeReg s b i d k (s.roleOf req) v = x) :
    answer (within c s (cmdWrite s req (regAddr b i off) v)) = written x req b i off := by
  rw [within, if_pos hc, may_at v hn he hm ha ho hj, hx]

/-- A write that nothing corrects, of a register that acts where it stands, leaves what it stored. -/
theorem written_plain {u : State} (hv : valueSeam b i off = none) : written (u, 0) req b i off = answer u := by
  rw [written, cross_none _ hv, noteWrite, if_pos rfl]

/-- A command that writes a journaled register: after its entry, or refused without room. -/
theorem ends_journaled (hc : c = true) (hn : named (regAddr b i off) = some (b, i, d, k)) (he : off = d.off + d.stride * k)
    (hm : mayWrite s req (regAddr b i off) = true) (ha : d.acc ≠ .ro) (ho : d.hook ≠ .order) (hj : regJournaled d = true) :
    (journalReady s = true → answer (within c s (cmdWrite s req (regAddr b i off) v)) =
      (let a := mkAct s req 0x1000 (w32 (regAddr b i off - 0xE0000000)) (d64 (s.reg b i off).toNat)
         (d64 ((storeReg s b i d k (s.roleOf req) v).1.reg b i off).toNat) 0 (blkType b % 256)
       written (storeReg (journal s a) b i d k (s.roleOf req) v) req b i off)) ∧
    (journalReady s = false → answer (within c s (cmdWrite s req (regAddr b i off) v)) =
      answer ((s.bump .mantle 0 MANTLE_JR_CNT_FULL).logClamp b i 2 off (s.roleOf req))) := by
  subst he
  obtain ⟨ready, full⟩ := may_write_journaled v hn hm ha ho hj
  rw [within, if_pos hc]
  exact ⟨fun r => congrArg answer (ready r), fun r => congrArg answer (full r)⟩

end

section
variable (s : State) (req : Nat) (v : Word)

/-- PACE_MIN_CLEAR (R50). -/
theorem paceMinClear_runs {m : Nat} (hm : m < 32) (h : mayWrite s req (regAddr .meadow m MEADOW_PACE_MIN) = true) :
    exec (.paceMinClear req m) s = answer (condGone (s.setReg .meadow m MEADOW_PACE_MIN 0xFFFF) 0x38 m) :=
  (ends_written (decide_eq_true hm) (named_paceMin m hm) rfl h rfl rfl rfl
    (storeReg_paceMin (unmapped_of_ne (by decide) _) rfl)).trans (written_plain rfl)

/-- CLAMP_LOG_CLEAR, of every block alike (R13). -/
theorem clampLogClear_runs {b : Blk} {i : Nat} (hi : i < (blkWindow b).2.2) (h : mayWrite s req (regAddr b i BLOCK_CLAMP_LOG) = true) :
    exec (.clampLogClear req b i) s = answer ((s.setReg b i BLOCK_CLAMP_LOG 0).setReg b i BLOCK_CLAMP_LOG_OFFSET 0) :=
  (ends_written (decide_eq_true hi) (named_clampLog b i hi) rfl h rfl rfl rfl
    (storeReg_clampLog (unmapped_of_off (by decide)) rfl)).trans (written_plain (by cases b <;> rfl))

/-- The register of a domain's switch. -/
theorem named_dom (dom : Nat) : ∃ d, named (regAddr .heath 0 (domReg dom)) = some (.heath, 0, d, 0) ∧ domReg dom = d.off + d.stride * 0 ∧
    decide (d.acc = .ro) = false ∧ d.hook = .domOn ∧ decide (d.off = HEATH_DOM_ON_HI) = decide (32 ≤ dom) := by
  by_cases h : dom < 32
  · rw [domReg, if_pos h]
    exact ⟨_, named_domLo, rfl, rfl, rfl, (decide_eq_false (by omega)).symm⟩
  · rw [domReg, if_neg h]
    exact ⟨_, named_domHi, rfl, rfl, rfl, (decide_eq_true (by omega)).symm⟩

/-- A command that writes a domain's switch register (R419). -/
theorem domSwitch_runs {dom : Nat} (hd : dom < 50) (h : mayWrite s req (regAddr .heath 0 (domReg dom)) = true) :
    answer (within (decide (dom < 50)) s (cmdWrite s req (domReg' dom) v)) =
      written (domOnWrite s (decide (32 ≤ dom)) v (s.roleOf req)) req .heath 0 (domReg dom) := by
  obtain ⟨d, hn, he, ha, hk, hhi⟩ := named_dom dom
  refine ends_written (decide_eq_true hd) hn he h ha (by rw [hk]; rfl) (by rw [regJournaled, hk]; rfl) ?_
  rw [storeReg_domOn (unmapped_of_ne (by decide) _) hk, hhi]

/-- A command that writes a register whose value its block corrects and follows. -/
theorem value_runs {b : Blk} {i off : Nat} {d : RegDesc} {c : Bool} (hc : c = true) (hn : named (regAddr b i off) = some (b, i, d, 0))
    (he : off = d.off) (hb : b ≠ .hedge) (ha : decide (d.acc = .ro) = false) (hk : d.hook ∈ [.devMode, .gov, .swLimit, .tbRate])
    (h : mayWrite s req (regAddr b i off) = true) :
    answer (within c s (cmdWrite s req (regAddr b i off) v)) =
      (let x := fixWrite s i d 0 (s.roleOf req) (s.reg b i off) v
       written (afterWrite (s.setReg b i off x.1) b i d 0 (s.reg b i off) x.1, x.2) req b i off) := by
  subst he
  have plain : decide (d.hook = .order) = false ∧ regJournaled d = false := by
    simp only [List.mem_cons, List.not_mem_nil, or_false] at hk
    rcases hk with hk | hk | hk | hk <;> simp [hk]
  exact ends_written hc hn rfl h ha plain.1 plain.2 (storeReg_value (unmapped_of_ne hb _) hk)

/-- DEV_MODE_WRITE: the sequencer follows the mode (R424). -/
theorem devModeWrite_runs (h : mayWrite s req (regAddr .heath 0 HEATH_DEV_MODE) = true) {d : RegDesc}
    (hd : named (regAddr .heath 0 HEATH_DEV_MODE) = some (.heath, 0, d, 0)) :
    exec (.devModeWrite req v) s =
      (let x := fixWrite s 0 d 0 (s.roleOf req) (s.reg .heath 0 HEATH_DEV_MODE) v
       written (sequencer (s.setReg .heath 0 HEATH_DEV_MODE x.1), x.2) req .heath 0 HEATH_DEV_MODE) := by
  obtain rfl := desc_unique named_devMode hd
  exact value_runs s req v (c := true) rfl hd rfl (by decide) rfl (by decide) h

/-- GOV_WRITE: the governor follows (R414). -/
theorem govWrite_runs {m : Nat} (hm : m < 32) (h : mayWrite s req (regAddr .meadow m MEADOW_GOV) = true) {d : RegDesc}
    (hd : named (regAddr .meadow m MEADOW_GOV) = some (.meadow, m, d, 0)) :
    exec (.govWrite req m v) s =
      (let x := fixWrite s m d 0 (s.roleOf req) (s.reg .meadow m MEADOW_GOV) v
       written (govWritten (s.setReg .meadow m MEADOW_GOV x.1) m (s.reg .meadow m MEADOW_GOV) x.1, x.2) req .meadow m MEADOW_GOV) := by
  obtain rfl := desc_unique (named_gov m hm) hd
  exact value_runs s req v (decide_eq_true hm) hd rfl (by decide) rfl (by decide) h

/-- SW_LIMIT_WRITE: the lane's levels follow (R203). -/
theorem swLimitWrite_runs {l : Nat} (hl : l < 144) (h : mayWrite s req (regAddr .lane l LANE_SW_LIMIT) = true) {d : RegDesc}
    (hd : named (regAddr .lane l LANE_SW_LIMIT) = some (.lane, l, d, 0)) :
    exec (.swLimitWrite req l v) s =
      (let x := fixWrite s l d 0 (s.roleOf req) (s.reg .lane l LANE_SW_LIMIT) v
       written (limitWritten (s.setReg .lane l LANE_SW_LIMIT x.1) l, x.2) req .lane l LANE_SW_LIMIT) := by
  obtain rfl := desc_unique (named_swLimit l hl) hd
  exact value_runs s req v (decide_eq_true hl) hd rfl (by decide) rfl (by decide) h

/-- TB_RATE_WRITE: the rate follows in mode 2 (R546). -/
theorem tbRateWrite_runs (h : mayWrite s req (regAddr .heath 0 HEATH_TB_RATE) = true) {d : RegDesc}
    (hd : named (regAddr .heath 0 HEATH_TB_RATE) = some (.heath, 0, d, 0)) :
    exec (.tbRateWrite req v) s =
      (let x := fixWrite s 0 d 0 (s.roleOf req) (s.reg .heath 0 HEATH_TB_RATE) v
       let u := s.setReg .heath 0 HEATH_TB_RATE x.1
       written (if tbMode u = 2 then rateWritten u x.1 else u, x.2) req .heath 0 HEATH_TB_RATE) := by
  obtain rfl := desc_unique named_tbRate hd
  exact value_runs s req v (c := true) rfl hd rfl (by decide) rfl (by decide) h

/-- PAD_GROUP_RELEASE (R432). -/
theorem padGroupRelease_runs {k : Nat} (hk : k < 18) (h : mayWrite s req (regAddr .pad 0 (PAD_GRP + 4 * k)) = true) {d : RegDesc}
    (hd : named (regAddr .pad 0 (PAD_GRP + 4 * k)) = some (.pad, 0, d, k)) :
    exec (.padGroupRelease req k) s =
      (let w := s.reg .pad 0 (PAD_GRP + 4 * k) ||| 8
       written (padWrite s k w (judge d.flds (s.reg .pad 0 (PAD_GRP + 4 * k)) w).1) req .pad 0 (PAD_GRP + 4 * k)) := by
  obtain rfl := desc_unique (named_padGrp k hk) hd
  exact ends_written (decide_eq_true hk) hd rfl h rfl rfl rfl (storeReg_padGrp (unmapped_of_ne (by decide) _) rfl)

/-- HEDGE_SW_FIRE (R227). -/
theorem hedgeSwFire_runs (h : mayWrite s req (regAddr .hedge 0 HEDGE_SW_FIRE) = true) :
    exec (.hedgeSwFire req v) s = answer (s.fire (((List.range 16).filter fun k => bit v k).map fun k => (prodSw k, bits v 18 16))) :=
  (ends_written (c := true) rfl named_swFire rfl h rfl rfl rfl (storeReg_swFire (unmapped_of_off (by decide)) rfl)).trans (written_plain rfl)

theorem hedgeMapped_of_le {off : Nat} (h : HEDGE_CHAN ≤ off) : hedgeMapped off = true := decide_eq_true (.inr h)

/-- SELECTOR_WRITE of a task input (R221, R236). -/
theorem tselWrite_runs {k : Nat} (hk : k < 2880) (h : mayWrite s req (regAddr .hedge 0 (HEDGE_TSEL + 4 * k)) = true) :
    exec (.selectorWrite req true k v) s =
      written (if s.happlying then (s, 2) else tselSet s k v (s.roleOf req)) req .hedge 0 (HEDGE_TSEL + 4 * k) :=
  ends_written (decide_eq_true hk) (named_tsel k hk) rfl h rfl rfl rfl
    (storeReg_mapped (hedgeMapped_of_le (by show 0x1000 ≤ 0x8000 + 4 * k; omega)) (storeReg_tsel · rfl))

/-- SELECTOR_WRITE of a producer (R220, R236). -/
theorem pselWrite_runs {k : Nat} (hk : k < 2352) (h : mayWrite s req (regAddr .hedge 0 (HEDGE_PSEL + 4 * k)) = true) :
    exec (.selectorWrite req false k v) s =
      written (if s.happlying then (s, 2) else pselSet s k v (s.roleOf req)) req .hedge 0 (HEDGE_PSEL + 4 * k) :=
  ends_written (decide_eq_true hk) (named_psel k hk) rfl h rfl rfl rfl
    (storeReg_mapped (hedgeMapped_of_le (by show 0x1000 ≤ 0x4000 + 4 * k; omega)) (storeReg_psel · rfl))

/-- CHANNEL_WRITE (R223, R236). -/
theorem channelWrite_runs {k : Nat} (hk : k < 2048) (h : mayWrite s req (regAddr .hedge 0 (HEDGE_CHAN + 4 * k)) = true) :
    exec (.channelWrite req k v) s =
      written (if s.happlying then (s, 2) else chanSet s k v (s.roleOf req)) req .hedge 0 (HEDGE_CHAN + 4 * k) :=
  ends_written (decide_eq_true hk) (named_chan k hk) rfl h rfl rfl rfl
    (storeReg_mapped (hedgeMapped_of_le (by show 0x1000 ≤ 0x1000 + 4 * k; omega)) (storeReg_hchan · rfl))

end

/-- A lane's register, found by its offset in the lane's window. -/
theorem lane_found {l off k : Nat} {d : RegDesc} (hl : l < 144) (ho : off < 0x10000) (hn : named (regAddr .lane l off) = some (.lane, l, d, k)) :
    findReg (blkRegs .lane) off = some (d, k) := by
  rw [named_regAddr .lane l off hl ho] at hn
  cases hf : findReg (blkRegs .lane) off with
  | none => rw [hf] at hn; exact nomatch hn
  | some x =>
    rw [hf] at hn
    simpa [Prod.ext_iff] using hn

theorem ovrOff_lt {node : Nat} (h : node ≤ 128) (isEnd : Bool) : ovrOff node isEnd < 0x10000 := by
  cases isEnd <;> simp only [ovrOff, LANE_OVR, LANE_OVR_END, LANE_SW_NODE_OVR, LANE_SW_NODE_OVR_END] <;> split <;> simp <;> omega

/-- A lane's parameter or override register is journaled, and is no order port. -/
theorem lane_journaled {l off k : Nat} {d : RegDesc} (hl : l < 144) (hn : named (regAddr .lane l off) = some (.lane, l, d, k))
    (ho : (∃ second : Bool, off = if second then LANE_SW_PARAM2 else LANE_SW_PARAM) ∨ ∃ node isEnd, node ≤ 128 ∧ off = ovrOff node isEnd) :
    regJournaled d = true ∧ d.acc ≠ .ro ∧ d.hook ≠ .order ∧ off = d.off + d.stride * k := by
  rcases ho with ⟨second, rfl⟩ | ⟨node, isEnd, h, rfl⟩
  · exact lane_param second d k (lane_found hl (by cases second <;> decide) hn)
  · exact lane_ovr node isEnd h d k (lane_found hl (ovrOff_lt h isEnd) hn)

/-- Settles O37, by the command of each write. -/
theorem namedWrites : Obligations.NamedWrites := by
  intro s req v
  refine ⟨fun m hm h => paceMinClear_runs s req hm h, fun b i hi h => clampLogClear_runs s req hi h,
    fun dom hd h => ⟨domSwitch_runs s req _ hd h, domSwitch_runs s req _ hd h⟩, fun h d hd => devModeWrite_runs s req v h hd,
    fun m hm h d hd => govWrite_runs s req v hm h hd, fun l hl h d hd => swLimitWrite_runs s req v hl h hd,
    fun h d hd => tbRateWrite_runs s req v h hd, fun k hk h d hd => padGroupRelease_runs s req hk h hd,
    fun h => hedgeSwFire_runs s req v h,
    fun k => ⟨fun hk h => tselWrite_runs s req v hk h, fun hk h => pselWrite_runs s req v hk h, fun hk h => channelWrite_runs s req v hk h⟩,
    fun l off c hl hc h d k hn => ?_⟩
  rcases hc with ⟨second, rfl, ho⟩ | ⟨node, isEnd, hnode, rfl, ho⟩
  · obtain ⟨hj, ha, hh, he⟩ := lane_journaled hl hn (.inl ⟨second, ho⟩)
    subst ho
    exact ends_journaled (decide_eq_true hl) hn he h ha hh hj
  · obtain ⟨hj, ha, hh, he⟩ := lane_journaled hl hn (.inr ⟨node, isEnd, hnode, ho⟩)
    subst ho
    exact ends_journaled (decide_eq_true ⟨hl, hnode⟩) hn he h ha hh hj

end Sys2Proof.Proofs
end

section
namespace Sys2Proof.Proofs

open Sys2Proof.Machine Sys2Proof.Laws

/-! What each timed function of a lane's light control does, case by case (R31, R178 to R180, R187, R188, R194, R196, R205) -/

section
variable {s : State} {l : Nat}

/-- Without a free transmitter, with no raise pending or behind a catch-up frame, no raise frame starts. -/
theorem raiseSend_waits (h : (txFree s l && (s.lane l).raisePending && (s.lane l).catchup.isEmpty) = false) : raiseSend s l = s :=
  if_neg (by simp [h])

/-- The raise frame takes every pending change, and the gathering window closes. -/
theorem raiseSend_sends (h : (txFree s l && (s.lane l).raisePending && (s.lane l).catchup.isEmpty) = true) :
    raiseSend s l =
      (let es := (changedNodes s l).map (entryOf s l false)
       let v := s.modLane l fun x => { x with raisePending := false, gatherEnd := none, gatherHeld := false }
       if es = [] then startNext v l else startFrame v l (.level false es)) :=
  if_pos h

theorem catchupSend_waits (h : (txFree s l && !((s.lane l).catchup.isEmpty)) = false) : catchupSend s l = s :=
  if_neg (by simp [h])

/-- The catch-up frame gives its nodes that are still assigned their present levels. -/
theorem catchupSend_sends (h : (txFree s l && !((s.lane l).catchup.isEmpty)) = true) :
    catchupSend s l =
      (let es := ((s.lane l).catchup.filter fun n => (s.node l n).assigned).map (entryOf s l true)
       let v := s.modLane l fun x => { x with catchup := [] }
       if es = [] then startNext v l else startFrame v l (.level false es)) :=
  if_pos h

theorem gatherClose_unopened (h : (s.lane l).gatherEnd = none) : gatherClose s l = s := by
  rw [gatherClose, h]

/-- A window still open, or whose frame the cap already holds, does not close. -/
theorem gatherClose_stays {e : Nat} (h : (s.lane l).gatherEnd = some e) (hw : s.uptime < e ∨ (s.lane l).gatherHeld = true) :
    gatherClose s l = s := by
  rw [gatherClose, h]
  exact if_pos hw

section
variable {e : Nat} (h : (s.lane l).gatherEnd = some e) (hw : ¬(s.uptime < e ∨ (s.lane l).gatherHeld = true))
include h hw

/-- A window that ends below the cap leads to its frame, once raise and catch-up frames let it. -/
theorem gatherClose_free (hc : capFree s l = true) : gatherClose s l = if gatherReady s l then gatherSend s l else s := by
  rw [gatherClose, h]
  exact (if_neg hw).trans (if_pos hc)

/-- At the cap the frame is held, and the changes that gather in it are counted. -/
theorem gatherClose_capped (hc : capFree s l = false) :
    gatherClose s l =
      (let v := s.modLane l fun x => { x with gatherHeld := true }
       ((changedNodes v l).filter fun n => !(v.node l n).raiseDue).foldl (fun s n => gather s l n) v) := by
  rw [gatherClose, h]
  exact (if_neg hw).trans (if_neg (by simp [hc]))

end

theorem gatherRelease_sends (hh : (s.lane l).gatherHeld = true) (hc : capFree s l = true) (hr : gatherReady s l = true) :
    gatherRelease s l = gatherSend s l :=
  if_pos (by rw [hh, hc, hr]; rfl)

theorem gatherRelease_waits (h : ((s.lane l).gatherHeld && capFree s l && gatherReady s l) = false) : gatherRelease s l = s :=
  if_neg (by simp [h])

/-- An entry whose task does not wait to be served serves nothing. -/
theorem entryServe_idle {k : Nat} (h : tiDue s (tiLane l k) = false) : entryServe s l k = s :=
  if_neg (by simp [h])

section
variable {k : Nat} (h : tiDue s (tiLane l k) = true)
include h

/-- An entry that is not enabled, or whose lane does not send, counts the event and ends its task. -/
theorem entryServe_shut (ha : (swActive s l && bit (lreg s l (LANE_ENTRY_CFG + 0x10 * k)) 1) = false) :
    entryServe s l k = tiEnd (bumpLane s l LANE_SW_CNT_ENTRY_IDLE) (tiLane l k) :=
  (if_pos h).trans (if_neg (by simp [ha]))

/-- An enabled entry notes the time, ends its task, and raises its list in its direction, one hop on. -/
theorem entryServe_raises (ha : (swActive s l && bit (lreg s l (LANE_ENTRY_CFG + 0x10 * k)) 1) = true) :
    entryServe s l k =
      (let c := bumpLane s l LANE_SW_CNT_ENTRY_RUN
       let v := tiEnd (c.modLane l fun x => { x with entryLast := tput k (some c.townUs) x.entryLast }) (tiLane l k)
       raiseSet v l (bits (lreg s l (LANE_ENTRY_CFG + 0x10 * k)) 0 0) ((s.ti (tiLane l k)).lastHop + 1)
         ((listBytes (lreg v l (LANE_ENTRY_LIST_LO + 0x10 * k)) (lreg v l (LANE_ENTRY_LIST_HI + 0x10 * k))).take
           (bits (lreg v l LANE_SW_PARAM) 13 10))) :=
  (if_pos h).trans (if_pos ha)

end

/-- With neither the lane's override nor a node's at its END, no override ends. -/
theorem overrideServe_none (hg : (bit (lreg s l LANE_OVR) 10 && ovrOver (lreg s l LANE_OVR_END) s.townSec) = false)
    (hn : ∀ n, n < 128 → (bit (nreg s l (n + 1) LANE_SW_NODE_OVR) 10 && ovrOver (nreg s l (n + 1) LANE_SW_NODE_OVR_END) s.townSec) = false) :
    overrideServe s l = s := by
  unfold overrideServe
  dsimp only
  rw [if_neg (by simp [hg])]
  exact fold_same fun k hk => if_neg (by simp [hn k hk])

theorem calendarServe_unset (h : s.timeSet = false) : calendarServe s l = s := by
  rw [calendarServe, h]
  cases (s.lane l).calSeen <;> rfl

/-- The first look serves nothing: it only notes its time. -/
theorem calendarServe_first (hs : (s.lane l).calSeen = none) (h : s.timeSet = true) :
    calendarServe s l = s.modLane l fun x => { x with calSeen := some s.utcSec } := by
  rw [calendarServe, h, hs]

/-- A later look serves, in their order, the occurrences after the one before. -/
theorem calendarServe_later {seen : Nat} (hs : (s.lane l).calSeen = some seen) (h : s.timeSet = true) :
    calendarServe s l =
      (let d0 := localDay s l seen - 1
       let os := ((occurrences s l d0 (localDay s l s.utcSec + 2 - d0).toNat).filter fun o =>
         decide ((seen : Int) < o.1 ∧ o.1 ≤ (s.utcSec : Int))).foldr insOcc []
       let v := s.modLane l fun x => { x with calSeen := some s.utcSec }
       if os = [] then v else touchBases v (os.foldl (fun s o => setEvent s l o.2) v) l) := by
  rw [calendarServe, h, hs]

theorem sunServe_unset (h : s.timeSet = false) : sunServe s l = s := if_neg (by simp [h])

end

/-! The commands -/

/-- A timed command of one of the 144 lanes does its work where its instant has been reached. -/
theorem answerAt_lane {l : Nat} (hl : l < 144) (s : State) (t : Nat) (f : State → State) :
    (answerAt s t fun u => within (decide (l < 144)) u (f u)) = answer (f (s.reach t)) := by
  dsimp only [answerAt, within]
  rw [if_pos (decide_eq_true hl)]

/-- Settles O42: each command does its function's work at its instant, and the function's cases are those of the statement. -/
theorem swathTimers : Obligations.SwathTimers := by
  refine ⟨fun s t l hl => ?raise, fun s t l hl => ?close, fun s t l hl => ?release, fun s t l hl => ?catchup, fun s t l hl => ?hold,
    fun s t l hl => ?fade, fun s t l j hl => ?entry, fun s t l hl => ?override, fun s t l hl => ?calendar, fun s t l hl => ?sun⟩
  case raise =>
    have run : exec (.raiseFrameSend t l) s = answer (raiseSend (s.reach t) l) := answerAt_lane hl s t (raiseSend · l)
    rw [run]
    exact ⟨fun h => congrArg answer (raiseSend_waits h), fun h => congrArg answer (raiseSend_sends h)⟩
  case close =>
    have run : exec (.gatherWindowClose t l) s = answer (gatherClose (s.reach t) l) := answerAt_lane hl s t (gatherClose · l)
    rw [run]
    refine ⟨fun h => congrArg answer (gatherClose_unopened h), fun e h hw => congrArg answer (gatherClose_stays h hw),
      fun e h hw hc hr => congrArg answer ?_, fun e h hw hc hr => congrArg answer ?_,
      fun e h hw hc => congrArg answer (gatherClose_capped h hw hc)⟩
    · exact (gatherClose_free h hw hc).trans (if_pos hr)
    · exact (gatherClose_free h hw hc).trans (if_neg (by simp [hr]))
  case release =>
    have run : exec (.gatherCapRelease t l) s = answer (gatherRelease (s.reach t) l) := answerAt_lane hl s t (gatherRelease · l)
    rw [run]
    exact ⟨fun hh hc hr => congrArg answer (gatherRelease_sends hh hc hr), fun h => congrArg answer (gatherRelease_waits h)⟩
  case catchup =>
    have run : exec (.catchupFrameSend t l) s = answer (catchupSend (s.reach t) l) := answerAt_lane hl s t (catchupSend · l)
    rw [run]
    exact ⟨fun h => congrArg answer (catchupSend_waits h), fun h => congrArg answer (catchupSend_sends h)⟩
  case hold => exact answerAt_lane hl s t (holdExpire · l)
  case fade => exact answerAt_lane hl s t (Machine.fadeEnd · l)
  case entry =>
    have run : exec (.entry t l j) s = answer (entryServe (s.reach t) l j) := answerAt_lane hl s t (entryServe · l j)
    rw [run]
    exact ⟨fun h => congrArg answer (entryServe_idle h), fun h ha => congrArg answer (entryServe_shut h ha),
      fun h ha => congrArg answer (entryServe_raises h ha)⟩
  case override =>
    have run : exec (.overrideEnd t l) s = answer (overrideServe (s.reach t) l) := answerAt_lane hl s t (overrideServe · l)
    exact ⟨fun hg hn => run.trans (congrArg answer (overrideServe_none hg hn)), run⟩
  case calendar =>
    have run : exec (.calendarOccurrence t l) s = answer (calendarServe (s.reach t) l) := answerAt_lane hl s t (calendarServe · l)
    rw [run]
    exact ⟨fun h => congrArg answer (calendarServe_unset h), fun hs h => congrArg answer (calendarServe_first hs h),
      fun seen hs h => congrArg answer (calendarServe_later hs h)⟩
  case sun =>
    have run : exec (.sunCompute t l) s = answer (sunServe (s.reach t) l) := answerAt_lane hl s t (sunServe · l)
    rw [run]
    exact ⟨fun h => congrArg answer (sunServe_unset h), fun h => congrArg answer (if_pos h)⟩

end Sys2Proof.Proofs
end

section
namespace Sys2Proof.Proofs

open Sys2Proof.Machine Sys2Proof.Laws

/-! The block after reset -/

/-- An empty table holds its default for every key. -/
theorem tget_nil {α : Type} (d : α) (k : Nat) : tget d [] k = d := rfl

/-- Where no register's value is listed, each reads its reset value. -/
theorem regAt_unlisted {s : State} (h : s.regs = []) (addr : Nat) : s.regAt addr = resetWord addr := by
  rw [State.regAt, h]
  rfl

/-- A block whose key slots are all as after reset is unclaimed (R538). -/
theorem unclaimed_of_keys_nil {s : State} (h : s.mantle.keys = []) : s.claimed = false := by
  simp [State.claimed, h, tget_nil]

/-- Debug is open on an unclaimed block, whatever its token (R538). -/
theorem debugUnlocked_of_unclaimed {s : State} (h : s.claimed = false) : debugUnlocked s = true := by
  simp [debugUnlocked, h]

section
variable (n : Nat)

theorem core_reset : State.reset.core n = {} := tget_nil _ n
theorem meadow_reset : State.reset.meadow n = {} := tget_nil _ n
theorem dom_reset : State.reset.dom n = {} := tget_nil _ n
theorem lane_reset : State.reset.lane n = {} := tget_nil _ n
theorem ti_reset : State.reset.ti n = {} := tget_nil _ n
theorem queue_reset : State.reset.queue n = {} := tget_nil _ n

end

/-- Settles O59: every table is empty, so each register and each numbered part reads as unlisted; with no installer slot active the
block is unclaimed, and so open to debug. -/
theorem resetState : Obligations.ResetState := by
  have unclaimed : State.reset.claimed = false := unclaimed_of_keys_nil rfl
  refine ⟨fun b i off => regAt_unlisted rfl (regAddr b i off), rfl, rfl, rfl, rfl, fun r => ?core, fun m => ?meadow, fun d => ?dom,
    fun l => ?lane, fun n => ?ti, fun q => ?queue, rfl, rfl, rfl, rfl, unclaimed, debugUnlocked_of_unclaimed unclaimed⟩
  case core => rw [core_reset]
  case meadow => rw [meadow_reset]
  case dom => rw [dom_reset]
  case lane => rw [lane_reset]; exact ⟨rfl, rfl⟩
  case ti => rw [ti_reset]; exact ⟨rfl, rfl⟩
  case queue => rw [queue_reset]

end Sys2Proof.Proofs
end

section
namespace Sys2Proof.Proofs

open Sys2Proof.Machine Sys2Proof.Laws

/-! What a step does with the queue -/

/-- With no command waiting the block idles. -/
theorem step_idle {s : State} (h : s.pending = []) : step s = .next s := by
  rw [step, h]

/-- The command at the front of the queue runs on the state whose queue is what stands behind it. -/
theorem step_front {s : State} {c : Instr} {rest : List Instr} (h : s.pending = c :: rest) :
    step s = exec c { s with pending := rest } := by
  have behind : s.rest = { s with pending := rest } := by rw [State.rest, h, List.tail_cons]
  rw [step, h, ← behind]

/-- Settles O54: the queue's front decides which command runs. -/
theorem stepRunsFront : Obligations.StepRunsFront := fun _ _ _ => step_front rfl

/-- Settles O55: an empty queue has no front. -/
theorem stepIdle : Obligations.StepIdle := fun _ h => step_idle h

end Sys2Proof.Proofs
end

section
namespace Sys2Proof.Proofs

open Sys2Proof.Machine Sys2Proof.Laws

/-! What the events of modes, levels, the pace of a meadow and the wake sources do, case by case (R49 to R51, R412, R413, R415, R425,
R441, R443, R447, R453) -/

section
variable {s : State}

/-- Unless the device stands in the last stage of a descent with no wake open, the descent does not end. -/
theorem descentComplete_stays (h : ¬(s.dev = .descending ∧ s.descent = 5 ∧ s.wake.isSome = false)) : descentComplete s = s :=
  if_neg h

section
variable (h : s.dev = .descending ∧ s.descent = 5 ∧ s.wake.isSome = false)
include h

theorem descentComplete_dormant (ht : devTarget (s.bump .heath 0 HEATH_PWR_CNT_DORMANT) ≠ 3) :
    descentComplete s = setDev (s.bump .heath 0 HEATH_PWR_CNT_DORMANT) .dormant :=
  (if_pos h).trans (if_neg ht)

/-- In SHELF the channels lose their supply and the oscillator stops. -/
theorem descentComplete_shelf (ht : devTarget (s.bump .heath 0 HEATH_PWR_CNT_DORMANT) = 3) :
    descentComplete s =
      (let v := (List.range 4).foldl qpwrOff (s.bump .heath 0 HEATH_PWR_CNT_DORMANT)
       let v : State := { v with xref := { st := 2, retry := false, since := v.uptime }, shelfFrom := some v.tb.run }
       setDev (v.modTb fun x => { x with x32 := true }) .shelf) :=
  (if_pos h).trans (if_pos ht)

end

theorem xrefStop_lost {restarted : Bool} (h : s.xref.st = 0 ∧ restarted = false) : xrefStop s restarted = xrefLost s := if_pos h

theorem xrefStop_mended {restarted : Bool} (h : ¬(s.xref.st = 0 ∧ restarted = false)) : xrefStop s restarted = s := if_neg h

section
variable {m : Nat}

theorem levelDone_unchanging (h : (s.meadow m).changing = false) : levelDone s m = s := if_neg (by simp [h])

/-- The level becomes the goal, and the change counts only where it moved. -/
theorem levelDone_changing (h : (s.meadow m).changing = true) :
    levelDone s m =
      (let v := s.modMeadow m fun x => { x with level := x.goal, changing := false, touched := true }
       if (s.meadow m).level ≠ (s.meadow m).goal then (v.bump .meadow m MEADOW_PWR_CNT_LEVEL).bankAdd (bankMeadow m) 25 1 else v) := by
  rw [levelDone, if_pos h]
  simp only [decide_eq_true_eq]

theorem latExpire_unheld (h : (s.meadow m).lastEvent = none) : latExpire s m = s := by
  rw [latExpire, h]

section
variable {e : Nat} (h : (s.meadow m).lastEvent = some e)
include h

theorem latExpire_over
    (ho : govMode s m = 2 ∧ govRuns s m = true ∧ e + s.fld .meadow m MEADOW_GOV2 19 0 * 1000 ≤ s.uptime) :
    latExpire s m =
      (let v := s.modMeadow m fun x => { x with lastEvent := none }
       v.goLevel m (govMin v m)) := by
  rw [latExpire, h]
  exact if_pos ho

theorem latExpire_holds
    (ho : ¬(govMode s m = 2 ∧ govRuns s m = true ∧ e + s.fld .meadow m MEADOW_GOV2 19 0 * 1000 ≤ s.uptime)) :
    latExpire s m = s := by
  rw [latExpire, h]
  exact if_neg ho

end

/-- A meadow whose pace input does not wait to be served takes no event. -/
theorem paceEvent_idle (h : tiDue s (tiPace m) = false) : paceEvent s m = s := if_neg (by simp [h])

section
variable (h : tiDue s (tiPace m) = true)
include h

/-- A fixed level ignores the event. -/
theorem paceEvent_fixed (hg : govMode s m = 0) :
    paceEvent s m = tiEnd (s.bump .meadow m MEADOW_PWR_CNT_PACE_IGNORED) (tiPace m) := by
  rw [paceEvent, if_pos h, hg]
  rfl

/-- The governed mode of a running meadow goes one level up, and at the top of the band begins its counts again. -/
theorem paceEvent_governed (hg : govMode s m = 1) (hr : govRuns s m = true) :
    paceEvent s m =
      tiEnd (if (s.meadow m).goal < govMax s m then s.goLevel m ((s.meadow m).goal + 1) else s.modMeadow m fun x => { x with up := 0, down := 0 })
        (tiPace m) := by
  rw [paceEvent, if_pos h, hg]
  exact congrArg (tiEnd · (tiPace m)) (if_pos hr)

theorem paceEvent_stopped (hg : govMode s m = 1) (hr : govRuns s m = false) : paceEvent s m = tiEnd s (tiPace m) := by
  rw [paceEvent, if_pos h, hg]
  exact congrArg (tiEnd · (tiPace m)) (if_neg (by simp [hr]))

/-- Every other mode passes the event on to the governor. -/
theorem paceEvent_latency (h0 : govMode s m ≠ 0) (h1 : govMode s m ≠ 1) : paceEvent s m = tiEnd (s.govEvent m) (tiPace m) := by
  rw [paceEvent, if_pos h]
  split
  next hg => exact absurd hg h0
  next hg => exact absurd hg h1
  next => rfl

end

end

theorem uplinkWake_fires {n : Nat} (h : s.rbit .heath 0 HEATH_WAKE_EN (2 + n) = true ∧ s.dev ≠ .shelf ∧ (s.dom 48).st = .off) :
    uplinkWake s n = wakeFire s 2 (noteLow 2 14 13 n) (s.fld .heath 0 HEATH_WAKE_ROUTES 11 8) [48] none :=
  if_pos h

theorem uplinkWake_shut {n : Nat} (h : ¬(s.rbit .heath 0 HEATH_WAKE_EN (2 + n) = true ∧ s.dev ≠ .shelf ∧ (s.dom 48).st = .off)) :
    uplinkWake s n = s :=
  if_neg h

theorem pinWake_fires (h : s.rbit .heath 0 HEATH_WAKE_EN 1 = true) :
    pinWake s = wakeFire s 4 id (s.fld .heath 0 HEATH_WAKE_ROUTES 7 4) [] none :=
  if_pos h

theorem pinWake_shut (h : s.rbit .heath 0 HEATH_WAKE_EN 1 = false) : pinWake s = s := if_neg (by simp [h])

section
variable {k : Nat}

theorem inputWake_idle (h : tiDue s (tiWake k) = false) : inputWake s k = s := if_neg (by simp [h])

theorem inputWake_fires (h : tiDue s (tiWake k) = true) (he : s.rbit .heath 0 HEATH_WAKE_EN (16 + k) = true ∧ s.dev ≠ .shelf) :
    inputWake s k = wakeFire s 7 id k [] (some k) :=
  (if_pos h).trans (if_pos he)

/-- An input that is not enabled only ends its task. -/
theorem inputWake_shut (h : tiDue s (tiWake k) = true) (he : ¬(s.rbit .heath 0 HEATH_WAKE_EN (16 + k) = true ∧ s.dev ≠ .shelf)) :
    inputWake s k = tiEnd s (tiWake k) :=
  (if_pos h).trans (if_neg he)

end

end

/-- A timed command whose operands name something does its work where its instant has been reached. -/
theorem answerAt_within {c : Bool} (hc : c = true) (s : State) (t : Nat) (f : State → State) :
    (answerAt s t fun u => within c u (f u)) = answer (f (s.reach t)) := by
  dsimp only [answerAt, within]
  rw [if_pos hc]

/-- Settles O46: each command does its function's work at its instant, and the function's cases are those of the statement. -/
theorem modeTimers : Obligations.ModeTimers := by
  refine ⟨fun s t => ?descent, fun s t m hm => ?level, fun s t m hm => ?hold, fun s t m hm => ?pace,
    fun s t m rate running waiting hm => ?window, fun s t restarted => ?xref, fun s t n hn => ?uplink, fun s t => ?pin,
    fun s t k hk => ?input, fun s t => ?i2c⟩
  case descent =>
    have run : exec (.descentComplete t) s = answer (descentComplete (s.reach t)) := rfl
    rw [run]
    exact ⟨fun h => congrArg answer (descentComplete_stays h), fun h ht => congrArg answer (descentComplete_dormant h ht),
      fun h ht => congrArg answer (descentComplete_shelf h ht)⟩
  case level =>
    have run : exec (.levelChangeDone t m) s = answer (levelDone (s.reach t) m) :=
      answerAt_within (decide_eq_true hm) s t (levelDone · m)
    rw [run]
    exact ⟨fun h => congrArg answer (levelDone_changing h), fun h => congrArg answer (levelDone_unchanging h)⟩
  case hold =>
    have run : exec (.latHoldExpiry t m) s = answer (latExpire (s.reach t) m) :=
      answerAt_within (decide_eq_true hm) s t (latExpire · m)
    rw [run]
    exact ⟨fun e h ho => congrArg answer (latExpire_over h ho), fun e h ho => congrArg answer (latExpire_holds h ho),
      fun h => congrArg answer (latExpire_unheld h)⟩
  case pace =>
    have run : exec (.paceEvent t m) s = answer (paceEvent (s.reach t) m) := answerAt_within (decide_eq_true hm) s t (paceEvent · m)
    rw [run]
    exact ⟨fun h => congrArg answer (paceEvent_idle h), fun h hg => congrArg answer (paceEvent_fixed h hg),
      fun h hg hr => congrArg answer (paceEvent_governed h hg hr), fun h hg hr => congrArg answer (paceEvent_stopped h hg hr),
      fun h h0 h1 => congrArg answer (paceEvent_latency h h0 h1)⟩
  case window => exact answerAt_within (decide_eq_true hm) s t (paceWindow · m rate running waiting)
  case xref =>
    have run : exec (.xrefStop t restarted) s = answer (xrefStop (s.reach t) restarted) := rfl
    rw [run]
    exact ⟨fun h => congrArg answer (xrefStop_lost h), fun h => congrArg answer (xrefStop_mended h)⟩
  case uplink =>
    have run : exec (.uplinkEnergy t n) s = answer (uplinkWake (s.reach t) n) :=
      answerAt_within (decide_eq_true hn) s t (uplinkWake · n)
    rw [run]
    exact ⟨fun h => congrArg answer (uplinkWake_fires h), fun h => congrArg answer (uplinkWake_shut h)⟩
  case pin =>
    have run : exec (.wakePin t) s = answer (pinWake (s.reach t)) := rfl
    rw [run]
    exact ⟨fun h => congrArg answer (pinWake_fires h), fun h => congrArg answer (pinWake_shut h)⟩
  case input =>
    have run : exec (.wakeInput t k) s = answer (inputWake (s.reach t) k) := answerAt_within (decide_eq_true hk) s t (inputWake · k)
    rw [run]
    exact ⟨fun h => congrArg answer (inputWake_idle h), fun h he => congrArg answer (inputWake_fires h he),
      fun h he => congrArg answer (inputWake_shut h he)⟩
  case i2c => rfl

end Sys2Proof.Proofs
end

section
namespace Sys2Proof.Proofs

open Sys2Proof.Machine Sys2Proof.Laws

/-! What each timed function of a lane's transmitter, commands and enumeration does, case by case (R71, R75, R79, R80, R84, R85, R91, R95,
R108) -/

section
variable {s : State} {l : Nat}

theorem stallTimer_flowing (h : (s.lane l).stalledFrom = none) : stallTimer s l = s := by
  rw [stallTimer, h]

section
variable {a : Nat} (h : (s.lane l).stalledFrom = some a)
include h

theorem stallTimer_early (ha : s.uptime < a + 1000000) : stallTimer s l = s := by
  rw [stallTimer, h]
  exact if_pos ha

/-- A hold of a millisecond is STALLED, and each further millisecond counts once. -/
theorem stallTimer_counts (ha : a + 1000000 ≤ s.uptime) :
    stallTimer s l =
      (let ms := (s.uptime - (a + 1000000)) / 1000000
       (s.bumpBy .lane l LANE_CNT_STALL_MS (ms - if (s.lane l).stalled then (s.lane l).stallMs else 0)).modLane l fun x =>
         { x with stalled := true, stallMs := ms }) := by
  rw [stallTimer, h]
  exact if_neg (Nat.not_lt.2 ha)

end

theorem creditServe_due (h : laneTx s l = true ∧ creditDue s l = true) :
    creditServe s l = startNext (if DownFrame.credit ∈ (s.lane l).txq then s else enqueue s l .credit) l :=
  if_pos (Bool.and_eq_true_iff.2 h)

theorem creditServe_undue (h : (laneTx s l && creditDue s l) = false) : creditServe s l = startNext s l :=
  if_neg (ne_true_of_eq_false h)

/-- The interval of SYNC is over, or none has gone out yet. -/
theorem syncSpaced_iff : (((s.lane l).lastSync.all fun a => decide (a + syncNs s l ≤ s.uptime)) = true) ↔
    ∀ a, (s.lane l).lastSync = some a → a + syncNs s l ≤ s.uptime := by
  simp [Option.all_eq_true]

theorem syncServe_due (ht : laneTx s l = true)
    (h : (∀ a, (s.lane l).lastSync = some a → a + syncNs s l ≤ s.uptime) ∨ (s.lane l).lastTx + 1000000000 ≤ s.uptime ∨
      (s.lane l).syncPending = true) :
    syncServe s l = startNext (s.modLane l fun x => { x with syncPending := true }) l :=
  if_pos ⟨ht, h.imp_left syncSpaced_iff.2⟩

theorem syncServe_silent (ht : laneTx s l = false) : syncServe s l = startNext s l :=
  if_neg fun h => by simp [ht] at h

/-- Inside the interval of the SYNC before, with a frame sent in the last second and none pending, no SYNC is due. -/
theorem syncServe_early {a : Nat} (ha : (s.lane l).lastSync = some a) (hs : s.uptime < a + syncNs s l)
    (hx : s.uptime < (s.lane l).lastTx + 1000000000) (hp : (s.lane l).syncPending = false) : syncServe s l = startNext s l := by
  refine if_neg fun h => ?_
  rcases h.2 with spaced | idle | pending
  · exact Nat.not_le.2 hs (syncSpaced_iff.1 spaced a ha)
  · exact Nat.not_le.2 hx idle
  · simp [hp] at pending

theorem syncNow_idle (h : tiDue s (tiLane l 8) = false) : Machine.syncNow s l = s := if_neg (by simp [h])

section
variable (h : tiDue s (tiLane l 8) = true)
include h

theorem syncNow_sends (ht : laneTx s l = true) :
    Machine.syncNow s l = startNext ((tiTaken s (tiLane l 8)).modLane l fun x => { x with syncPending := true }) l :=
  (if_pos h).trans (if_pos ht)

theorem syncNow_silent (ht : laneTx s l = false) : Machine.syncNow s l = tiEnd s (tiLane l 8) :=
  (if_pos h).trans (if_neg (by simp [ht]))

end

/-- A sweep that is wanted of an OPERATING lane with no run under way begins. -/
theorem sweepStart_begins (h : (s.lane l).st = .operating ∧ (s.lane l).enum = none) (hop : Option Nat) :
    sweepStart s l hop = enumStart s l true false none hop :=
  if_pos h

theorem sweepNow_idle (h : tiDue s (tiLane l 9) = false) : Machine.sweepNow s l = s := if_neg (by simp [h])

section
variable (h : tiDue s (tiLane l 9) = true)
include h

theorem sweepNow_begins (hf : (s.lane l).st = .operating ∧ (s.lane l).enum = none) :
    Machine.sweepNow s l = enumStart (tiTaken s (tiLane l 9)) l true false none (some (s.ti (tiLane l 9)).lastHop) :=
  (if_pos h).trans ((if_pos hf).trans (sweepStart_begins (s := tiTaken s (tiLane l 9)) hf _))

theorem sweepNow_merged (hf : ¬((s.lane l).st = .operating ∧ (s.lane l).enum = none)) : Machine.sweepNow s l = tiEnd s (tiLane l 9) :=
  (if_pos h).trans (if_neg hf)

end

/-- Without a free transmitter, or behind a raise or catch-up frame, no command starts. -/
theorem cmdStart_waits (h : txFree s l = false ∨ (s.lane l).raisePending = true ∨ (s.lane l).catchup ≠ []) : cmdStart s l = s :=
  if_pos h

theorem cmdStart_none (h : (s.lane l).cmdq = []) : cmdStart s l = s := by
  rw [cmdStart, h]
  exact ite_self s

section
variable {c : Cmd} {r : List Cmd} (hf : ¬(txFree s l = false ∨ (s.lane l).raisePending = true ∨ (s.lane l).catchup ≠ []))
  (hq : (s.lane l).cmdq = c :: r)
include hf hq

/-- A command whose address is no longer assigned, or has a new incarnation, is not sent. -/
theorem cmdStart_noNode (hn : c.addr ≠ 0 ∧ ((s.node l c.addr).assigned = false ∨ (s.node l c.addr).inc ≠ c.inc)) :
    cmdStart s l = cmdDone (s.modLane l fun x => fillCmds { x with cmdq := r }) l c cNoNode [] := by
  rw [cmdStart, hq]
  exact (if_neg hf).trans (if_pos hn)

variable (hn : ¬(c.addr ≠ 0 ∧ ((s.node l c.addr).assigned = false ∨ (s.node l c.addr).inc ≠ c.inc)))
include hn

/-- With every tag outstanding or quarantined the command waits. -/
theorem cmdStart_untagged (hk : nextTag s l = none) : cmdStart s l = s := by
  rw [cmdStart, hq, hk]
  exact (if_neg hf).trans (if_neg hn)

theorem cmdStart_sends {n : Nat} (hk : nextTag s l = some n) :
    cmdStart s l = startFrame (s.modLane l fun x =>
      fillCmds { x.setTag n { st := .outstanding c (if c.addr = 0 then none else some (s.uptime + cmdTimeoutNs s l)), gen := (x.tag n).gen + 1 } with
        cmdq := r, lastTag := n }) l (.cmd n) := by
  rw [cmdStart, hq, hk]
  exact (if_neg hf).trans (if_neg hn)

end

section
variable {n : Nat}

theorem cmdExpire_over {c : Cmd} {dl : Nat} (h : ((s.lane l).tag n).st = .outstanding c (some dl)) (hd : dl ≤ s.uptime) :
    cmdExpire s l n = startNext (cmdDone (quarantine (bumpLane s l LANE_CNT_CMD_TIMEOUT) l n) l c cTimeout []) l := by
  rw [cmdExpire, h]
  exact if_pos hd

/-- A tag with no deadline, or one whose deadline has not come, keeps its command. -/
theorem cmdExpire_stays (h : ∀ c dl, ((s.lane l).tag n).st = .outstanding c (some dl) → s.uptime < dl) : cmdExpire s l n = s := by
  unfold cmdExpire
  split
  next c dl e => exact if_neg (Nat.not_le.2 (h c dl e))
  next => rfl

theorem tagFree_over {a : Nat} (h : ((s.lane l).tag n).st = .quarantined a) (ha : a ≤ s.uptime) :
    tagFree s l n = s.modLane l fun x => x.setTag n { x.tag n with st := .free } := by
  rw [tagFree, h]
  exact if_pos ha

theorem tagFree_stays (h : ∀ a, ((s.lane l).tag n).st = .quarantined a → s.uptime < a) : tagFree s l n = s := by
  unfold tagFree
  split
  next a e => exact if_neg (Nat.not_le.2 (h a e))
  next => rfl

end

/-- The frame of a broadcast command leaves: the command completes, for no answer comes to it. -/
theorem frameDone_broadcast {n : Nat} {c : Cmd} (h : (s.lane l).tx = some (.cmd n))
    (hc : (((s.modLane l fun x => { x with tx := none }).lane l).tag n).st = .outstanding c none) :
    frameDone s l = startNext (cmdDone (quarantine (s.modLane l fun x => { x with tx := none }) l n) l c cDone []) l := by
  rw [frameDone, h]
  dsimp only
  rw [hc]

/-- Any other frame only frees the transmitter. -/
theorem frameDone_frees
    (h : ∀ n c, (s.lane l).tx = some (.cmd n) → (((s.modLane l fun x => { x with tx := none }).lane l).tag n).st ≠ .outstanding c none) :
    frameDone s l = startNext (s.modLane l fun x => { x with tx := none }) l := by
  unfold frameDone
  split
  next n e =>
    dsimp only
    split
    next c k => exact absurd k (h n c e)
    next => rfl
  next => rfl

section
variable {n : Nat}

theorem enumAckTimeout_ack {dl at_ : Nat} (h : (s.node l n).enumStep = .ack dl at_) (hd : dl ≤ s.uptime) :
    Machine.enumAckTimeout s l n = startNext (enumEnd (bumpLane s l LANE_CNT_CMD_TIMEOUT) l n false) l := by
  rw [Machine.enumAckTimeout, h]
  exact if_pos (decide_eq_true hd)

theorem enumAckTimeout_delay {dl : Nat} (h : (s.node l n).enumStep = .delayAck dl) (hd : dl ≤ s.uptime) :
    Machine.enumAckTimeout s l n = startNext (enumEnd (bumpLane s l LANE_CNT_CMD_TIMEOUT) l n false) l := by
  rw [Machine.enumAckTimeout, h]
  exact if_pos (decide_eq_true hd)

/-- Before the deadline of the answer that the address waits for, or where it waits for none, it stays in its step. -/
theorem enumAckTimeout_stays (ha : ∀ dl at_, (s.node l n).enumStep = .ack dl at_ → s.uptime < dl)
    (hd : ∀ dl, (s.node l n).enumStep = .delayAck dl → s.uptime < dl) : Machine.enumAckTimeout s l n = s := by
  cases e : (s.node l n).enumStep <;> rw [Machine.enumAckTimeout, e]
  case ack dl at_ => exact if_neg (by simpa using ha dl at_ e)
  case delayAck dl => exact if_neg (by simpa using hd dl e)
  all_goals exact if_neg Bool.false_ne_true

end

end

/-- Settles O40: each command does its function's work at its instant, and the function's cases are those of the statement. -/
theorem laneTimers : Obligations.LaneTimers := by
  refine ⟨fun s t l hl => ?stall, fun s t l hl => ?credit, fun s t l hl => ?sync, fun s t l hl => ?syncNow, fun s t l hl => ?sweep,
    fun s t l hl => ?sweepNow, fun s t l hl => ?send, fun s t l n hl => ?expire, fun s t l n hl => ?quarantine, fun s t l n hn => ?release,
    fun s t l hl => ?left, fun s t l n hn => ?ack⟩
  case stall =>
    have run : exec (.creditStallTimer t l) s = answer (stallTimer (s.reach t) l) := answerAt_lane hl s t (stallTimer · l)
    rw [run]
    exact ⟨fun h => congrArg answer (stallTimer_flowing h), fun a h ha => congrArg answer (stallTimer_early h ha),
      fun a h ha => congrArg answer (stallTimer_counts h ha)⟩
  case credit =>
    have run : exec (.creditSend t l) s = answer (creditServe (s.reach t) l) := answerAt_lane hl s t (creditServe · l)
    rw [run]
    exact ⟨fun h => congrArg answer (creditServe_due h), fun h => congrArg answer (creditServe_undue h)⟩
  case sync =>
    have run : exec (.syncSend t l) s = answer (syncServe (s.reach t) l) := answerAt_lane hl s t (syncServe · l)
    rw [run]
    exact ⟨fun ht h => congrArg answer (syncServe_due ht h), fun ht => congrArg answer (syncServe_silent ht),
      fun a ha hs hx hp => congrArg answer (syncServe_early ha hs hx hp)⟩
  case syncNow =>
    have run : exec (.syncNow t l) s = answer (Machine.syncNow (s.reach t) l) := answerAt_lane hl s t (Machine.syncNow · l)
    rw [run]
    exact ⟨fun h => congrArg answer (syncNow_idle h), fun h ht => congrArg answer (syncNow_sends h ht),
      fun h ht => congrArg answer (syncNow_silent h ht)⟩
  case sweep =>
    have run : exec (.sweepTimer t l) s = answer (Machine.sweepTimer (s.reach t) l) := answerAt_lane hl s t (Machine.sweepTimer · l)
    rw [run]
    exact ⟨fun h => congrArg answer (if_neg h), fun h => congrArg answer (if_pos h)⟩
  case sweepNow =>
    have run : exec (.sweepNow t l) s = answer (Machine.sweepNow (s.reach t) l) := answerAt_lane hl s t (Machine.sweepNow · l)
    rw [run]
    exact ⟨fun h => congrArg answer (sweepNow_idle h), fun h hf => congrArg answer (sweepNow_begins h hf),
      fun h hf => congrArg answer (sweepNow_merged h hf)⟩
  case send =>
    have run : exec (.cmdSend t l) s = answer (cmdStart (s.reach t) l) := answerAt_lane hl s t (cmdStart · l)
    rw [run]
    exact ⟨fun h => congrArg answer (cmdStart_waits h), fun h => congrArg answer (cmdStart_none h),
      fun c r hf hq hn => congrArg answer (cmdStart_noNode hf hq hn), fun c r hf hq hn hk => congrArg answer (cmdStart_untagged hf hq hn hk),
      fun c r n hf hq hn hk => congrArg answer (cmdStart_sends hf hq hn hk)⟩
  case expire =>
    have run : exec (.cmdTimeout t l n) s = answer (cmdExpire (s.reach t) l n) := answerAt_lane hl s t (cmdExpire · l n)
    rw [run]
    exact ⟨fun c dl h hd => congrArg answer (cmdExpire_over h hd), fun h => congrArg answer (cmdExpire_stays h)⟩
  case quarantine =>
    have run : exec (.tagQuarantineEnd t l n) s = answer (tagFree (s.reach t) l n) := answerAt_lane hl s t (tagFree · l n)
    rw [run]
    exact ⟨fun a h ha => congrArg answer (tagFree_over h ha), fun h => congrArg answer (tagFree_stays h)⟩
  case release => exact answerAt_within (decide_eq_true hn) s t (releaseTimeout · l n)
  case left =>
    have run : exec (.frameLeft t l) s = answer (frameDone (s.reach t) l) := answerAt_lane hl s t (frameDone · l)
    rw [run]
    exact ⟨fun n c h hc => congrArg answer (frameDone_broadcast h hc), fun h => congrArg answer (frameDone_frees h)⟩
  case ack =>
    have run : exec (.enumAckTimeout t l n) s = answer (Machine.enumAckTimeout (s.reach t) l n) :=
      answerAt_within (decide_eq_true hn) s t (Machine.enumAckTimeout · l n)
    rw [run]
    exact ⟨fun dl at_ h hd => congrArg answer (enumAckTimeout_ack h hd), fun dl h hd => congrArg answer (enumAckTimeout_delay h hd),
      fun ha hd => congrArg answer (enumAckTimeout_stays ha hd)⟩

end Sys2Proof.Proofs
end

section
namespace Sys2Proof.Proofs

open Sys2Proof.Machine Sys2Proof.Laws

/-! What each event of a lane's link, its detectors and its node supervision does, case by case (R92, R94, R275, R279, R281, R282, R443) -/

/-- The amplitude that a mode gives where the far end offers 2.4 Vpp or 1.0 Vpp; 0 where none fits (R62). -/
def ampFound (ask : Nat) (has24 has10 : Bool) : Nat :=
  match ask with
  | 1 => if has10 then 1 else 0
  | 2 => if has24 then 2 else 0
  | _ => if has24 then 2 else if has10 then 1 else 0

/-- The lane with its link up at an amplitude: the credits start again and a full run begins (R84, R94). -/
def linkedAt (s : State) (l amp : Nat) : State :=
  enumStart (setLaneSt (s.modLane l fun x =>
    { stallEnds x s.uptime with
      linkUp := true, ampRes := amp, lpi := x.lpiAsk, anAttempts := 0, bulkUsed := 0, detUsed := 0, bulkLimit := 480, detLimit := 8,
      creditSent := (0, 0), creditAt := 0, creditDirty := none, lastSync := none, held := [] }) l .enumerating) l false false none none

/-- A mode of 1.0 Vpp alone finds none without it. -/
theorem ampFound_only10 {ask : Nat} (h : ask = 1) (has24 : Bool) : ampFound ask has24 false = 0 := by
  rw [h]
  rfl

/-- Nor does a mode of 2.4 Vpp alone. -/
theorem ampFound_only24 {ask : Nat} (h : ask = 2) (has10 : Bool) : ampFound ask false has10 = 0 := by
  rw [h]
  rfl

theorem ampFound_unoffered (ask : Nat) : ampFound ask false false = 0 := by
  unfold ampFound
  split <;> rfl

theorem ampFound_takes10 {ask : Nat} (h : ask = 1) (has24 : Bool) : ampFound ask has24 true = 1 := by
  rw [h]
  rfl

/-- Every mode but that of 1.0 Vpp alone takes 2.4 Vpp where it is offered. -/
theorem ampFound_takes24 {ask : Nat} (h : ask ≠ 1) (has10 : Bool) : ampFound ask true has10 = 2 := by
  unfold ampFound
  split
  next => exact absurd rfl h
  next => rfl
  next => rfl

theorem ampFound_falls {ask : Nat} (h : ask ≠ 2) : ampFound ask false true = 1 := by
  unfold ampFound
  split
  next => rfl
  next => exact absurd rfl h
  next => rfl

section
variable {s : State} {l : Nat}

theorem linkUp_unasked {has24 has10 : Bool} (h : (s.lane l).st ≠ .linking) : Machine.linkUp s l has24 has10 = s := if_pos h

section
variable {has24 has10 : Bool} (h : (s.lane l).st = .linking)
include h

theorem linkUp_linking :
    Machine.linkUp s l has24 has10 =
      if ampFound (s.lane l).ampAsk has24 has10 = 0 then s else linkedAt s l (ampFound (s.lane l).ampAsk has24 has10) :=
  if_neg (not_not_intro h)

/-- Where no amplitude fits, the attempt goes on. -/
theorem linkUp_unresolved (ha : ampFound (s.lane l).ampAsk has24 has10 = 0) : Machine.linkUp s l has24 has10 = s :=
  (linkUp_linking h).trans (if_pos ha)

theorem linkUp_resolved {amp : Nat} (ha : ampFound (s.lane l).ampAsk has24 has10 = amp + 1) :
    Machine.linkUp s l has24 has10 = linkedAt s l (amp + 1) := by
  rw [linkUp_linking h, ha, if_neg (Nat.succ_ne_zero amp)]

end

theorem linkDown_sending (h : laneTx s l = true) :
    Machine.linkDown s l =
      (let v := enterLinking (bumpLane s l LANE_CNT_LINK_FAIL) l
       judgeLinks (laneQuiet (castEnds (if (s.lane l).st = .operating then v else v.modLane l fun x => { x with linkingFrom := none }) l) l cNotNow)
         l) :=
  if_pos h

theorem linkDown_silent (h : laneTx s l = false) : Machine.linkDown s l = s := if_neg (ne_true_of_eq_false h)

/-- A lane's detector fires its wake source while it is enabled, the lane's domain is off and the device is not in Shelf. -/
theorem laneWake_fires {pattern : Bool}
    (h : bit (wakeLaneReg s l) (bnat pattern) = true ∧ s.dev ≠ .shelf ∧ (s.dom (laneDom l)).st = .off) :
    laneWake s l pattern = wakeFire s (bnat pattern) (noteLow (bnat pattern) 7 0 l) (bits (wakeLaneReg s l) 5 2) [laneDom l] none :=
  if_pos h

theorem laneWake_shut {pattern : Bool}
    (h : ¬(bit (wakeLaneReg s l) (bnat pattern) = true ∧ s.dev ≠ .shelf ∧ (s.dom (laneDom l)).st = .off)) : laneWake s l pattern = s :=
  if_neg h

/-- Energy too low or too short, or a source that does not fire, does nothing. -/
theorem energyDetect_unheard {mv ns : Nat}
    (h : ¬(150 < mv ∧ 2000 ≤ ns ∧ bit (wakeLaneReg s l) 0 = true ∧ s.dev ≠ .shelf ∧ (s.dom (laneDom l)).st = .off)) :
    energyDetect s l mv ns = s := by
  by_cases he : 150 < mv ∧ 2000 ≤ ns
  · exact (if_pos he).trans (laneWake_shut fun hw => h ⟨he.1, he.2, hw⟩)
  · exact if_neg he

theorem patternDetect_unheard {plus minus : BitVec 64}
    (h : ¬(wrongSymbols plus minus ≤ 4 ∧ bit (wakeLaneReg s l) 1 = true ∧ s.dev ≠ .shelf ∧ (s.dom (laneDom l)).st = .off)) :
    patternDetect s l plus minus = s := by
  by_cases hp : wrongSymbols plus minus ≤ 4
  · exact (if_pos hp).trans (laneWake_shut fun hw => h ⟨hp, hw⟩)
  · exact if_neg hp

section
variable (s l) (n : Nat)

/-- A node's first window is a change of the lane alone: the length of a window and town time stand. -/
theorem startWindows_sumWinUs : sumWinUs (startWindows s l n) l = sumWinUs s l := by
  unfold startWindows
  split <;> rfl

theorem startWindows_townUs : (startWindows s l n).townUs = s.townUs := by
  unfold startWindows
  split <;> rfl

end

section
variable {n : Nat}

theorem windowTimeout_over {w : Nat} (h : ((startWindows s l n).wave l n).winStart = some w) (hw : w + 3 * sumWinUs s l ≤ s.townUs) :
    windowTimeout s l n = endWindow (startWindows s l n) l n := by
  unfold windowTimeout
  dsimp only
  rw [h, startWindows_sumWinUs, startWindows_townUs]
  exact if_pos hw

theorem windowTimeout_collects (h : ∀ w, ((startWindows s l n).wave l n).winStart = some w → s.townUs < w + 3 * sumWinUs s l) :
    windowTimeout s l n = startWindows s l n := by
  unfold windowTimeout
  dsimp only
  rw [startWindows_sumWinUs, startWindows_townUs]
  split
  next w e => exact if_neg (Nat.not_le.2 (h w e))
  next => rfl

theorem cyclingServe_present (h : isPresent s 0x04 (subj l n) = true) : cyclingServe s l n = judgeCycling s l n (level s l n) := if_pos h

theorem cyclingServe_absent (h : isPresent s 0x04 (subj l n) = false) : cyclingServe s l n = s := if_neg (ne_true_of_eq_false h)

end

theorem missingServe_on (h : s.domOn (laneDom l) = true) : missingServe s l = judgeLinks s l := if_pos h

theorem missingServe_off (h : s.domOn (laneDom l) = false) : missingServe s l = s := if_neg (ne_true_of_eq_false h)

end

/-- Settles O41: each command does its function's work at its instant, and the function's cases are those of the statement. -/
theorem laneLinks : Obligations.LaneLinks := by
  refine ⟨fun s t l has24 has10 hl => ?up, fun s t l hl => ?down, fun s t l hl => ?attempt, fun s t l mv ns hl => ?energy,
    fun s t l plus minus hl => ?pattern, fun s t l n hn => ?window, fun s t l n hn => ?cycling, fun s t l hl => ?missing,
    fun s t l hl => ?linking⟩
  case up =>
    have run : exec (.linkUp t l has24 has10) s = answer (Machine.linkUp (s.reach t) l has24 has10) :=
      answerAt_lane hl s t (Machine.linkUp · l has24 has10)
    rw [run]
    refine ⟨fun h => congrArg answer (linkUp_unasked h), fun h ha h10 => congrArg answer (linkUp_unresolved h ?_),
      fun h ha h24 => congrArg answer (linkUp_unresolved h ?_), fun h h24 h10 => congrArg answer (linkUp_unresolved h ?_),
      fun h ha h10 => congrArg answer (linkUp_resolved h ?_), fun h ha h24 => congrArg answer (linkUp_resolved h ?_),
      fun h ha h24 h10 => congrArg answer (linkUp_resolved h ?_)⟩
    · rw [h10]; exact ampFound_only10 ha has24
    · rw [h24]; exact ampFound_only24 ha has10
    · rw [h24, h10]; exact ampFound_unoffered _
    · rw [h10]; exact ampFound_takes10 ha has24
    · rw [h24]; exact ampFound_takes24 ha has10
    · rw [h24, h10]; exact ampFound_falls ha
  case down =>
    have run : exec (.linkDown t l) s = answer (Machine.linkDown (s.reach t) l) := answerAt_lane hl s t (Machine.linkDown · l)
    rw [run]
    exact ⟨fun h => congrArg answer (linkDown_sending h), fun h => congrArg answer (linkDown_silent h)⟩
  case attempt =>
    have run : exec (.linkAttemptTimeout t l) s = answer (linkRetry (s.reach t) l) := answerAt_lane hl s t (linkRetry · l)
    rw [run]
    exact ⟨fun h => congrArg answer (if_pos h), fun h => congrArg answer (if_neg h)⟩
  case energy =>
    have run : exec (.laneEnergyDetect t { lane := l, mv := mv, ns := ns }) s = answer (energyDetect (s.reach t) l mv ns) :=
      answerAt_lane hl s t (energyDetect · l mv ns)
    rw [run]
    exact ⟨fun he hw => congrArg answer ((if_pos he).trans (laneWake_fires hw)), fun h => congrArg answer (energyDetect_unheard h)⟩
  case pattern =>
    have run : exec (.laneWakePattern t { lane := l, plus := plus, minus := minus }) s = answer (patternDetect (s.reach t) l plus minus) :=
      answerAt_lane hl s t (patternDetect · l plus minus)
    rw [run]
    exact ⟨fun hp hw => congrArg answer ((if_pos hp).trans (laneWake_fires hw)), fun h => congrArg answer (patternDetect_unheard h)⟩
  case window =>
    have run : exec (.windowSummary t l n) s = answer (windowTimeout (s.reach t) l n) :=
      answerAt_within (decide_eq_true hn) s t (windowTimeout · l n)
    rw [run]
    exact ⟨fun w h hw => congrArg answer (windowTimeout_over h hw), fun h => congrArg answer (windowTimeout_collects h)⟩
  case cycling =>
    have run : exec (.cyclingClear t l n) s = answer (cyclingServe (s.reach t) l n) :=
      answerAt_within (decide_eq_true hn) s t (cyclingServe · l n)
    rw [run]
    exact ⟨fun h => congrArg answer (cyclingServe_present h), fun h => congrArg answer (cyclingServe_absent h)⟩
  case missing =>
    have run : exec (.nodeMissingTimeout t l) s = answer (missingServe (s.reach t) l) := answerAt_lane hl s t (missingServe · l)
    rw [run]
    exact ⟨fun h => congrArg answer (missingServe_on h), fun h => congrArg answer (missingServe_off h)⟩
  case linking =>
    have run : exec (.linkingBreakTimeout t l) s = answer (missingServe (s.reach t) l) := answerAt_lane hl s t (missingServe · l)
    rw [run]
    exact ⟨fun h => congrArg answer (missingServe_on h), fun h => congrArg answer (missingServe_off h)⟩

end Sys2Proof.Proofs
end

section
namespace Sys2Proof.Proofs

open Sys2Proof.Machine Sys2Proof.Laws

/-! How a lane receives an upstream frame (R66, R83, R84) -/

section
variable {u : State} {l type : Nat} {f : RxFrame}

/-- Passing the receive FIFO only counts: no lane changes. -/
theorem rxPoured_lanes (u : State) (l : Nat) (f : RxFrame) : (rxPoured u l f).1.lanes = u.lanes := by
  unfold rxPoured fifoPour
  split <;> rfl

/-- So the units that are free are those before the frame came. -/
theorem rxFits_poured (u : State) (l type : Nat) (f : RxFrame) : rxFits (rxPoured u l f).1 l type (rxOut u l f) = rxFits u l type f := by
  unfold rxFits State.lane
  rw [rxPoured_lanes]
  rfl

theorem receive_silent (h : laneTx u l = false) : receive u l type f = u := if_pos h

section
variable (ht : laneTx u l = true)
include ht

theorem receive_judges : receive u l type f = rxJudge (rxPoured u l f).1 l type (rxOut u l f) := if_neg (ne_false_of_eq_true ht)

theorem receive_overrun (hf : rxFits u l type f = false) : receive u l type f = bumpLane (rxPoured u l f).1 l LANE_CNT_OVERRUN :=
  (receive_judges ht).trans (if_pos ((rxFits_poured u l type f).trans hf))

theorem receive_failing (hf : rxFits u l type f = true) {off : Nat} (h : rxFails (rxHeld u l type f) l type (rxOut u l f) = some off) :
    receive u l type f = freeUnits (bumpLane (rxHeld u l type f) l off) l (decide (type = 2)) (rxUnits type f.payload) := by
  rw [receive_judges ht, rxJudge, if_neg (ne_false_of_eq_true ((rxFits_poured u l type f).trans hf))]
  dsimp only
  rw [h]
  rfl

end

/-- With room in its class and no check failed, the frame goes to its consumer. -/
theorem receive_admitted (h : Admitted u l type f) : receive u l type f = rxGo (rxHeld u l type f) l type (rxOut u l f) := by
  rw [receive_judges h.receives, rxJudge, if_neg (ne_false_of_eq_true ((rxFits_poured u l type f).trans h.fits))]
  dsimp only
  rw [h.sound]

end

/-- The ten upstream frame commands, with the TYPE and an ENUM's subtype of the frames of their rows. -/
def frameRows (t l : Nat) (f : RxFrame) : List (Instr × Nat × Nat) :=
  [(.dataRx t l f, 1, 0), (.detRx t l f, 2, 0), (.fltRx t l f, 3, 0), (.rspRx t l f, 5, 0), (.idRx t l f, 6, 0), (.energyRx t l f, 7, 0),
    (.statusRx t l f, 8, 0), (.enumReportRx t l f, 0xB, 2), (.enumAckRx t l f, 0xB, 4), (.delayAckRx t l f, 0xB, 6)]

section
variable {c : Instr} {t l ty sub : Nat} {f : RxFrame} (s : State) (hc : (c, ty, sub) ∈ frameRows t l f)
include hc

/-- The ten frame commands differ only in which frames are theirs. -/
theorem row_runs : exec c s = answerAt s t fun u => within (decide (l < 144) && rowFrame ty sub f) u (receive u l (rxType f) f) := by
  simp only [frameRows, List.mem_cons, Prod.mk.injEq, List.not_mem_nil, or_false] at hc
  rcases hc with h | h | h | h | h | h | h | h | h | h <;> obtain ⟨rfl, rfl, rfl⟩ := h <;> rfl

variable (hl : l < 144) (hr : rowFrame ty sub f = true)
include hl hr

/-- A lane receives the frame of its command's row. -/
theorem row_receives : exec c s = answer (receive (s.reach t) l (rxType f) f) :=
  (row_runs s hc).trans (answerAt_within (by rw [hr, decide_eq_true hl]; rfl) s t fun u => receive u l (rxType f) f)

end

/-- Settles O38: the lane's state, its units and the checks of R66 turn a frame away in this order. -/
theorem framesTurnedAway : Obligations.FramesTurnedAway := by
  intro s t l ty sub f c hl u type hc hr
  rw [row_receives s hc hl hr]
  exact ⟨fun h => congrArg answer (receive_silent h), fun ht hf => congrArg answer (receive_overrun ht hf),
    fun ht hf off h => congrArg answer (receive_failing ht hf h)⟩

end Sys2Proof.Proofs
end

section
namespace Sys2Proof.Proofs

open Sys2Proof.Machine Sys2Proof.Laws

/-! Where a frame that a lane takes goes (R71, R74, R81, R85, R86, R192, R254, R281, R284) -/

section
variable {s : State} {l : Nat}

/-- A frame of a type that only its queue takes joins those to be filed. -/
theorem rxGo_bulk {type : Nat} {f : RxFrame} (h : type = 1 ∨ type = 3 ∨ type = 6 ∨ type = 7) :
    rxGo s l type f =
      (let z := rxCounts s l type (f.header type)
       fileBulk z l { type := type, hdr := f.header type, arrived := z.t48, payload := f.payload }) := by
  rcases h with rfl | rfl | rfl | rfl <;> rfl

section
variable (u : State) (l : Nat) (f : RxFrame)

theorem rxGo_det : rxGo (rxHeld u l 2 f) l 2 (rxOut u l f) = rxDet (rxTaken u l 2 f) l (rxFrame u l 2 f) := rfl
theorem rxGo_rsp : rxGo (rxHeld u l 5 f) l 5 (rxOut u l f) = rxRsp (rxTaken u l 5 f) l (rxFrame u l 5 f) := rfl
theorem rxGo_status : rxGo (rxHeld u l 8 f) l 8 (rxOut u l f) = rxStatus (rxTaken u l 8 f) l (rxFrame u l 8 f) := rfl

end

section
variable {f : HeldFrame}

/-- The state in which a DET is to be filed: the swath engine has it, and its credit has returned (R86). -/
def detServed (s : State) (l : Nat) (f : HeldFrame) : State :=
  drainLane (freeUnits (swathDet s l (hdrAddr f.hdr) (s.expandT48 (leAt f.payload 0 6)) (leAt f.payload 6 1 % 4)) l true 1) l

theorem rxDet_unqueued (h : (frameQueue (detServed s l f) l f).isNone = true) : rxDet s l f = detServed s l f := if_pos h

section
variable (h : (frameQueue (detServed s l f) l f).isNone = false)
include h

theorem rxDet_full (hf : 48 ≤ ((detServed s l f).lane l).detHold.length) : rxDet s l f = bumpLane (detServed s l f) l LANE_CNT_DET_UNFILED :=
  (if_neg (ne_true_of_eq_false h)).trans (if_pos hf)

theorem rxDet_holds (hf : ((detServed s l f).lane l).detHold.length < 48) :
    rxDet s l f = drainLane ((detServed s l f).modLane l fun x => { x with detHold := x.detHold ++ [f] }) l :=
  (if_neg (ne_true_of_eq_false h)).trans (if_neg (Nat.not_le.2 hf))

end

/-- The state in which a STATUS is to be filed: its node's silence starts again, and the level and the links are judged (R107, R184,
R281). -/
def statusServed (s : State) (l : Nat) (f : HeldFrame) : State :=
  let n := hdrAddr f.hdr
  let st := leAt f.payload 6 2
  let z := s.modNode l n fun x =>
    { x with silentFrom := silenceClock s l, lastStatus := some (s.uptime, s.townSec), unanswered := false, missing := x.missing && !x.assigned }
  judgeLinks (statusLevel (noteStatus z l n (leAt f.payload 8 2) (st.testBit 10)) l n (st % 1024) (st.testBit 10)) l

theorem rxStatus_unqueued (h : (frameQueue (statusServed s l f) l f).isNone = true) :
    rxStatus s l f = freeUnits (statusServed s l f) l false (rxUnits 8 f.payload) :=
  if_pos h

theorem rxStatus_filed (h : (frameQueue (statusServed s l f) l f).isNone = false) :
    rxStatus s l f = fileBulk (statusServed s l f) l f :=
  if_neg (ne_true_of_eq_false h)

/-- An RSP that no command waits for is counted, and its units are free again. -/
def rspDropped (s : State) (l : Nat) (f : HeldFrame) (off : Nat) : State := freeUnits (bumpLane s l off) l false (rxUnits 5 f.payload)

theorem rxRsp_free (h : ((s.lane l).tag (bits f.hdr 59 48)).st = .free) : rxRsp s l f = rspDropped s l f LANE_CNT_STRAY_RSP := by
  unfold rxRsp
  dsimp only
  rw [h]
  rfl

/-- In quarantine an RSP of the tag's own generation is late. -/
theorem rxRsp_quarantined {a : Nat} (h : ((s.lane l).tag (bits f.hdr 59 48)).st = .quarantined a) :
    rxRsp s l f = rspDropped s l f
      (if BitVec.ofNat 4 (bits f.hdr 63 60) = ((s.lane l).tag (bits f.hdr 59 48)).gen then LANE_CNT_LATE_RSP else LANE_CNT_GEN_MISMATCH) := by
  unfold rxRsp
  dsimp only
  rw [h]
  rfl

section
variable {c : Cmd} {dl : Option Nat} (h : ((s.lane l).tag (bits f.hdr 59 48)).st = .outstanding c dl)
include h

theorem rxRsp_otherGen (hg : BitVec.ofNat 4 (bits f.hdr 63 60) ≠ ((s.lane l).tag (bits f.hdr 59 48)).gen) :
    rxRsp s l f = rspDropped s l f LANE_CNT_GEN_MISMATCH := by
  unfold rxRsp
  dsimp only
  rw [h]
  exact if_pos hg

variable (hg : BitVec.ofNat 4 (bits f.hdr 63 60) = ((s.lane l).tag (bits f.hdr 59 48)).gen)
include hg

theorem rxRsp_otherNode (hn : c.addr ≠ hdrAddr f.hdr ∨ c.inc ≠ hdrInc f.hdr) : rxRsp s l f = rspDropped s l f LANE_CNT_STRAY_RSP := by
  unfold rxRsp
  dsimp only
  rw [h]
  exact (if_neg (not_not_intro hg)).trans (if_pos hn)

/-- The answer of the outstanding command: its tag goes into quarantine, a TDR that it ran is judged, it completes, and the RSP is filed. -/
theorem rxRsp_answers (ha : c.addr = hdrAddr f.hdr) (hi : c.inc = hdrInc f.hdr) :
    rxRsp s l f =
      (let q := quarantine s l (bits f.hdr 59 48)
       let q := if c.code = 3 ∧ leAt f.payload 1 1 = 0 ∧ 6 ≤ f.payload.length then tdrResult q l c.addr (w32 (leAt f.payload 2 4)) true else q
       startNext (fileBulk (cmdDone q l c cDone f.payload) l f) l) := by
  unfold rxRsp
  dsimp only
  rw [h]
  exact (if_neg (not_not_intro hg)).trans (if_neg (not_or.2 ⟨not_not_intro ha, not_not_intro hi⟩))

end

end

section
variable {n : Nat} {p : List Byte}

theorem enumAck_answers {dl at_ : Nat} (h : (s.node l n).enumStep = .ack dl at_) :
    enumAck s l n p = startNext (enqueue (s.modNode l n fun x =>
      { x with rtt := w32 (s.uptime - at_), delayNs := w32 ((s.uptime - at_ - leAt p 4 4) / 2), enumStep := .delay }) l (.delay n)) l := by
  rw [enumAck, h]

theorem enumAck_unawaited (h : ∀ dl at_, (s.node l n).enumStep ≠ .ack dl at_) : enumAck s l n p = s := by
  unfold enumAck
  split
  next dl at_ e => exact absurd e (h dl at_)
  next => rfl

end

section
variable {f : RxFrame}

/-- The state in which an enumeration frame is acted on: it is kept nowhere, so its units are free again. -/
abbrev enumTaken (s : State) (l : Nat) (f : RxFrame) : State :=
  freeUnits (rxCounts s l 0xB (f.header 0xB)) l false (rxUnits 0xB f.payload)

theorem rxGo_report (h : leAt f.payload 0 1 = 2) : rxGo s l 0xB f = enumReport (enumTaken s l f) l (f.header 0xB) f.payload := by
  unfold rxGo
  dsimp only
  rw [h]
  rfl

theorem rxGo_ack (h : leAt f.payload 0 1 = 4) : rxGo s l 0xB f = enumAck (enumTaken s l f) l (hdrAddr (f.header 0xB)) f.payload := by
  unfold rxGo
  dsimp only
  rw [h]
  rfl

theorem rxGo_delayAck (h : leAt f.payload 0 1 = 6) : rxGo s l 0xB f = enumDelayAck (enumTaken s l f) l (hdrAddr (f.header 0xB)) := by
  unfold rxGo
  dsimp only
  rw [h]
  rfl

end

end

/-- A frame of an upstream type other than an enumeration's is its row's to take by its type alone. -/
theorem rowFrame_type {ty : Nat} {f : RxFrame} (h : rxType f = ty) (hb : ty ≠ 0xB) : rowFrame ty 0 f = true := by
  rw [rowFrame, if_pos h]
  exact decide_eq_true (.inl hb)

/-- An enumeration frame is so by its subtype. -/
theorem rowFrame_enum {sub : Nat} {f : RxFrame} (h : rxType f = 0xB) (hs : leAt f.payload 0 1 = sub) : rowFrame 0xB sub f = true := by
  rw [rowFrame, if_pos h]
  exact decide_eq_true (.inr (.inl hs))

/-- A frame of a row that the lane takes goes to its consumer. -/
theorem row_takes {c : Instr} {t l ty sub : Nat} {f : RxFrame} (s : State)
    (hc : (c, ty, sub) ∈ frameRows t l f) (hl : l < 144) (hr : rowFrame ty sub f = true) (ht : rxType f = ty) (ha : Admitted (s.reach t) l ty f) :
    exec c s = answer (rxGo (rxHeld (s.reach t) l ty f) l ty (rxOut (s.reach t) l f)) := by
  rw [row_receives s hc hl hr, ht, receive_admitted ha]

/-- Settles O39: each frame is received by its row's command, and what its type's consumer does with it has the cases of the statement. -/
theorem framesTaken : Obligations.FramesTaken := by
  intro s t l f hl
  refine ⟨fun c type hc ht ha => ?bulk, fun ht ha => ?det, fun ht ha => ?rsp, fun ht ha => ?status, fun ht ha => ?enum⟩
  case bulk =>
    simp only [List.mem_cons, Prod.mk.injEq, List.not_mem_nil, or_false] at hc
    obtain ⟨rfl, rfl⟩ | ⟨rfl, rfl⟩ | ⟨rfl, rfl⟩ | ⟨rfl, rfl⟩ := hc <;>
      exact (row_takes s (sub := 0) (by simp [frameRows]) hl (rowFrame_type ht (by decide)) ht ha).trans
        (congrArg answer (rxGo_bulk (by decide)))
  case det =>
    have run : exec (.detRx t l f) s = answer (rxDet (rxTaken (s.reach t) l 2 f) l (rxFrame (s.reach t) l 2 f)) :=
      (row_takes s (sub := 0) (by simp [frameRows]) hl (rowFrame_type ht (by decide)) ht ha).trans (congrArg answer (rxGo_det (s.reach t) l f))
    rw [run]
    exact ⟨fun h => congrArg answer (rxDet_unqueued h), fun h hf => congrArg answer (rxDet_full h hf),
      fun h hf => congrArg answer (rxDet_holds h hf)⟩
  case rsp =>
    have run : exec (.rspRx t l f) s = answer (rxRsp (rxTaken (s.reach t) l 5 f) l (rxFrame (s.reach t) l 5 f)) :=
      (row_takes s (sub := 0) (by simp [frameRows]) hl (rowFrame_type ht (by decide)) ht ha).trans (congrArg answer (rxGo_rsp (s.reach t) l f))
    rw [run]
    exact ⟨fun h => congrArg answer (rxRsp_free h), fun a h => congrArg answer (rxRsp_quarantined h),
      fun c dl h => ⟨fun hg => congrArg answer (rxRsp_otherGen h hg), fun hg hn => congrArg answer (rxRsp_otherNode h hg hn),
        fun hg hn hi => congrArg answer (rxRsp_answers h hg hn hi)⟩⟩
  case status =>
    have run : exec (.statusRx t l f) s = answer (rxStatus (rxTaken (s.reach t) l 8 f) l (rxFrame (s.reach t) l 8 f)) :=
      (row_takes s (sub := 0) (by simp [frameRows]) hl (rowFrame_type ht (by decide)) ht ha).trans (congrArg answer (rxGo_status (s.reach t) l f))
    rw [run]
    exact ⟨fun h => congrArg answer (rxStatus_unqueued h), fun h => congrArg answer (rxStatus_filed h)⟩
  case enum =>
    refine ⟨fun hs => ?_, fun hs dl at_ h => ?_, fun hs h => ?_, fun hs => ?_⟩
    · exact (row_takes s (by simp [frameRows]) hl (rowFrame_enum ht hs) ht ha).trans (congrArg answer (rxGo_report hs))
    · exact (row_takes s (by simp [frameRows]) hl (rowFrame_enum ht hs) ht ha).trans (congrArg answer ((rxGo_ack hs).trans (enumAck_answers h)))
    · exact (row_takes s (by simp [frameRows]) hl (rowFrame_enum ht hs) ht ha).trans (congrArg answer ((rxGo_ack hs).trans (enumAck_unawaited h)))
    · exact (row_takes s (by simp [frameRows]) hl (rowFrame_enum ht hs) ht ha).trans (congrArg answer (rxGo_delayAck hs))

end Sys2Proof.Proofs
end

section
namespace Sys2Proof.Proofs

open Sys2Proof.Machine Sys2Proof.Laws

/-! What each order of a lane does, once its checks have passed (R78, R79, R89, R94, R95, R106, R283) -/

section
variable {s : State} {l : Nat} {d : Desc}

theorem orderSendCmd_noNode
    (h : 128 < d.target.toNat ∨ (d.target.toNat = 0 ∧ d.byte 8 ≠ 5 ∧ d.byte 8 ≠ 6) ∨
      (d.target.toNat ≠ 0 ∧ (s.node l d.target.toNat).assigned = false)) :
    orderSendCmd s l d = fin s cNoNode :=
  if_pos h

/-- A command for a node that can take it, or for all, joins those that wait; a wake threshold is clamped (R78). -/
theorem orderSendCmd_queues
    (h : ¬(128 < d.target.toNat ∨ (d.target.toNat = 0 ∧ d.byte 8 ≠ 5 ∧ d.byte 8 ≠ 6) ∨
      (d.target.toNat ≠ 0 ∧ (s.node l d.target.toNat).assigned = false))) :
    orderSendCmd s l d = later (s.modLane l fun x => addCmds x
      [{ addr := d.target.toNat, inc := if d.target.toNat = 0 then 0 else (s.node l d.target.toNat).inc, code := d.byte 8,
         args := if d.byte 8 = 5 then leBytes 2 (clampTo 15 300 (d.bytes 10 9)) else [], for_ := .order d }]) (doneOr (sendClamped d)) :=
  if_neg h

theorem orderSetStream_noNode (h : 128 < d.target.toNat ∨ (d.target.toNat ≠ 0 ∧ (s.node l d.target.toNat).assigned = false)) :
    orderSetStream s l d = fin s cNoNode :=
  if_pos h

/-- The setting that SET_STREAM asks for (R87). -/
def streamWanted (d : Desc) : Stream := streamOf (d.byte 8) (d.byte 9) (d.byte 10) (d.byte 11) (d.byte 12)

/-- One node's SET_STREAM under way: the budget's grant is noted, queued as a command, and the node's windows begin. -/
def streamAsked (s : State) (l : Nat) (d : Desc) : State :=
  let n := d.target.toNat
  let want := streamWanted d
  let g := grantFor s l [n] want
  let v := if g = want then s else bumpLane s l LANE_CNT_BUDGET_CLAMP
  let key := (v.lane l).streamKey
  let o : StreamOrder :=
    { key := key, d := d, set := g, clamped := decide (d.bytes 12 8 ≠ leNat (streamBytes want)) || decide (g ≠ want), left := [n] }
  let w := v.modLane l fun x => addCmds { x with streamKey := key + 1, streams := x.streams ++ [o] }
    [{ addr := n, inc := (x.node n).inc, code := 1, args := streamBytes g, for_ := .stream key }]
  startWindows (w.modNode l n fun x => { x with grant := some g }) l n

/-- A single assigned node is asked alone. -/
theorem orderSetStream_asks (h128 : d.target.toNat ≤ 128) (h0 : d.target.toNat ≠ 0) (ha : (s.node l d.target.toNat).assigned = true) :
    orderSetStream s l d = later (streamAsked s l d)
      (doneOr (decide (d.bytes 12 8 ≠ leNat (streamBytes (streamWanted d))) ||
        decide (grantFor s l [d.target.toNat] (streamWanted d) ≠ streamWanted d))) := by
  unfold orderSetStream
  dsimp only
  rw [if_neg (by simp [ha, h128]), if_neg h0, if_neg (List.cons_ne_nil _ _)]
  rfl

theorem orderRelease_noNode (h : 128 < d.target.toNat ∨ (s.node l d.target.toNat).assigned = false) : orderRelease s l d = fin s cNoNode :=
  if_pos h

theorem orderRelease_sends (h : ¬(128 < d.target.toNat ∨ (s.node l d.target.toNat).assigned = false)) :
    orderRelease s l d = later (startNext (enqueue (s.modLane l fun x =>
      { x with releases := x.releases ++ [{ d := d, node := d.target.toNat, pos := (x.node d.target.toNat).pos, until_ := 0 }] }) l
        (.release d.target.toNat)) l) :=
  if_neg h

end

section
variable {c : Instr} {l op : Nat} {d : Desc} {m : Meas} {s u : State} (hc : orderIn c = some (⟨.lane, l, op, d⟩, m)) (ht : Taken s .lane l op d)
include hc ht

/-- A lane's order that goes through and that the lane completes at once. -/
theorem laneOrder_gives {code r : Nat} (hb : laneBody l op d m.tdr (logged s .lane l op d m) = fin u code r) :
    exec c s = orderDone u .lane l op d code r :=
  taken_gives s hc ht (by simp) (by simp) hb

/-- A lane's order that goes through and that the lane completes later. -/
theorem laneOrder_goes {j : Nat} (hb : laneBody l op d m.tdr (logged s .lane l op d m) = later u j) : exec c s = answer u :=
  taken_goes s hc ht (by simp) (by simp) hb

end

/-- Settles O27: each command submits its order, and what the lane's work on it comes to becomes the completion, or the order stays open. -/
theorem laneOrders : Obligations.LaneOrders := by
  refine ⟨fun s l d hl ht => ?start, fun s l d hl ht => ?stop, fun s l d hl ht => ?enumerate, fun s l d hl ht => ?send,
    fun s l d hl ht => ?stream, fun s l d hl ht => ?release, fun s l d v hl ht => ?tdr, fun s l d hl ht => ?clear⟩
  case start =>
    have sent : orderIn (.laneStart l d) = some (⟨.lane, l, 1, d⟩, {}) := if_pos hl
    exact laneOrder_gives sent ht rfl
  case stop =>
    have sent : orderIn (.laneStop l d) = some (⟨.lane, l, 2, d⟩, {}) := if_pos hl
    exact laneOrder_gives sent ht rfl
  case enumerate =>
    have sent : orderIn (.laneEnumerate l d) = some (⟨.lane, l, 3, d⟩, {}) := if_pos hl
    exact laneOrder_goes sent ht rfl
  case send =>
    have sent : orderIn (.sendCmd l d) = some (⟨.lane, l, 4, d⟩, {}) := if_pos hl
    exact ⟨fun h => laneOrder_gives sent ht (orderSendCmd_noNode h), fun h => laneOrder_goes sent ht (orderSendCmd_queues h)⟩
  case stream =>
    have sent : orderIn (.setStream l d) = some (⟨.lane, l, 5, d⟩, {}) := if_pos hl
    exact ⟨fun h => laneOrder_gives sent ht (orderSetStream_noNode h),
      fun ⟨h128, h0, ha⟩ => laneOrder_goes sent ht (orderSetStream_asks h128 h0 ha)⟩
  case release =>
    have sent : orderIn (.releaseNode l d) = some (⟨.lane, l, 6, d⟩, {}) := if_pos hl
    exact ⟨fun h => laneOrder_gives sent ht (orderRelease_noNode h), fun h => laneOrder_goes sent ht (orderRelease_sends h)⟩
  case tdr =>
    have sent : orderIn (.lineTdr l d v) = some (⟨.lane, l, 7, d⟩, { tdr := v }) := if_pos hl
    exact laneOrder_gives sent ht rfl
  case clear =>
    have sent : orderIn (.laneCountersClear l d) = some (⟨.lane, l, 8, d⟩, {}) := if_pos hl
    exact laneOrder_gives sent ht rfl

end Sys2Proof.Proofs
end

section
namespace Sys2Proof.Proofs

open Sys2Proof.Machine Sys2Proof.Laws

/-! What a hardware packet and the timed functions of queues, channels and filing do, case by case (R72, R85, R86, R103, R120, R125, R140,
R164, R167) -/

section
variable {s v : State} {k req q : Nat} {ws : List Dword}

theorem hwOffer_stored (h : hwTry s q ws = (v, .ok)) :
    hwOffer s k q ws = ({ v with hwHeld := s.hwHeld.filter fun h => decide (h.1 ≠ k) }, .ok) := by
  rw [hwOffer, h]

theorem hwOffer_refused (h : hwTry s q ws = (v, .refused)) :
    hwOffer s k q ws = ({ v with hwHeld := s.hwHeld.filter fun h => decide (h.1 ≠ k) }, .refused) := by
  rw [hwOffer, h]

/-- A packet that finds no room waits, and is counted the first time. -/
theorem hwOffer_waits {r : Room} (h : hwTry s q ws = (v, r)) (ho : r ≠ .ok) (hf : r ≠ .refused) :
    hwOffer s k q ws =
      (if v.hwHeld.any fun h => decide (h = (k, q, ws.length)) then v
       else countWait { v with hwHeld := (s.hwHeld.filter fun h => decide (h.1 ≠ k)) ++ [(k, q, ws.length)] } q, r) := by
  unfold hwOffer
  rw [h]
  cases r
  case ok => exact absurd rfl ho
  case refused => exact absurd rfl hf
  all_goals
    dsimp only
    split <;> rfl

/-- Words that are no packet, or that a core sends, are not a hardware producer's. -/
theorem hwCommit_none (h : ws = [] ∨ 256 < ws.length ∨ req < 256) : hwCommit s req q ws = s := if_pos h

section
variable (hp : ¬(ws = [] ∨ 256 < ws.length ∨ req < 256))
include hp

/-- What is stored whole fires its producer where a lane filed it (R108). -/
theorem hwCommit_stored (h : hwTry s q (hwPacket s req q ws) = (v, .ok)) :
    hwCommit s req q ws =
      (let w : State := { v with hwHeld := s.hwHeld.filter fun h => decide (h.1 ≠ 16 + req) }
       if req < 400 then laneFiled w (req - 256) (bits (ws.getD 0 0) 7 0) else w) := by
  rw [hwCommit, if_neg hp, hwOffer_stored h]
  simp only [true_and]

/-- Any other packet leaves only what its offer did. -/
theorem hwCommit_offered (h : (hwOffer s (16 + req) q (hwPacket s req q ws)).2 ≠ .ok) :
    hwCommit s req q ws = (hwOffer s (16 + req) q (hwPacket s req q ws)).1 := by
  rw [hwCommit, if_neg hp]
  exact if_neg fun ho => h ho.1

theorem hwCommit_refused (h : hwTry s q (hwPacket s req q ws) = (v, .refused)) :
    hwCommit s req q ws = { v with hwHeld := s.hwHeld.filter fun h => decide (h.1 ≠ 16 + req) } := by
  rw [hwCommit_offered hp (by rw [hwOffer_refused h]; exact (by decide : Room.refused ≠ .ok)), hwOffer_refused h]

theorem hwCommit_waits {r : Room} (h : hwTry s q (hwPacket s req q ws) = (v, r)) (ho : r ≠ .ok) (hf : r ≠ .refused) :
    hwCommit s req q ws =
      (let p := (16 + req, q, (hwPacket s req q ws).length)
       if (v.hwHeld.any fun h => decide (h = p)) then v
       else countWait { v with hwHeld := (s.hwHeld.filter fun h => decide (h.1 ≠ 16 + req)) ++ [p] } q) := by
  rw [hwCommit_offered hp (by rw [hwOffer_waits h ho hf]; exact ho), hwOffer_waits h ho hf]

end

end

section
variable {s : State} {c : Nat} {us : List Upset}

theorem scrubPass_due (h : (s.chan c).st = 3 ∧ (s.chan c).scrubAt + scrubNs s ≤ s.uptime) :
    Machine.scrubPass s c us =
      us.foldl flip ((((busyQueues s c).foldl scrubQueue s).modChan c fun x =>
        { x with scrubAt := ((busyQueues s c).foldl scrubQueue s).uptime }).bump .qeng 0 (QENG_CNT_SCRUB_PASS + 4 * c)) :=
  congrArg (us.foldl flip) (if_pos h)

/-- Between passes only the bits flip that are given. -/
theorem scrubPass_early (h : ¬((s.chan c).st = 3 ∧ (s.chan c).scrubAt + scrubNs s ≤ s.uptime)) :
    Machine.scrubPass s c us = us.foldl flip s :=
  congrArg (us.foldl flip) (if_neg h)

theorem bulkScrub_due (h : (s.chan c).st = 3 ∧ s.rbit .qdr c QDR_CFG 5 = true ∧ (s.chan c).bulkAt + scrubNs s ≤ s.uptime) :
    bulkScrub s c us =
      us.foldl flip (((scrubWords s c).modChan c fun x => { x with bulkAt := (scrubWords s c).uptime }).bump .qdr c QDR_CNT_SCRUB_PASS_BULK) :=
  congrArg (us.foldl flip) (if_pos h)

theorem bulkScrub_early (h : ¬((s.chan c).st = 3 ∧ s.rbit .qdr c QDR_CFG 5 = true ∧ (s.chan c).bulkAt + scrubNs s ≤ s.uptime)) :
    bulkScrub s c us = us.foldl flip s :=
  congrArg (us.foldl flip) (if_neg h)

end

/-- What the reports of a window came to: the state, the addresses seen, and those still to be assigned (R72). -/
def reportsJudged (s : State) (l : Nat) (e : EnumRun) : State × List Nat × List (Nat × Nat) :=
  (e.reports.map fun r => r.serial).eraseDups.foldl (fun p sn => judgeSerial p.1 l e sn p.2)
    (modEnum s l fun y => { y with dup := false, unknown := 0 }, [], [])

/-- The nodes of the lane's list after a window: one seen has answered, one not seen becomes absent, but for a sweep's that is assigned. -/
def listJudged (s : State) (l : Nat) (e : EnumRun) (seen : List Nat) : State :=
  (listing s l).foldl (fun v a =>
    if a.1 ∈ seen then v.modNode l a.1 fun y => { y with unanswered := false }
    else if e.sweep ∧ (v.node l a.1).assigned then v
    else makeAbsent (v.modNode l a.1 fun y => { y with unanswered := true }) l a.1 true) s

section
variable {s : State} {l : Nat}

/-- A lane that holds nothing files nothing. -/
theorem drainLane_empty (hd : (s.lane l).detHold = []) (hh : (s.lane l).held = []) (hs : (s.lane l).sumsHeld = []) : drainLane s l = s := by
  have dets : drainDet (s.lane l).detHold.length s l = s := by rw [hd]; rfl
  have bulk : drainBulk (s.lane l).held.length s l = s := by rw [hh]; rfl
  unfold drainLane
  rw [dets]
  dsimp only
  rw [bulk, drainSums, hs]
  rfl

theorem enumClose_none (h : (s.lane l).enum = none) : enumClose s l = s := by
  rw [enumClose, h]

section
variable {e : EnumRun} (h : (s.lane l).enum = some e)
include h

/-- A run whose DISCOVER has not gone out, whose window is closed, or whose window is still open, does not close. -/
theorem enumClose_stays (hw : e.discovered = false ∨ e.closed = true ∨ s.uptime < e.windowEnd) : enumClose s l = s := by
  rw [enumClose, h]
  exact if_pos hw

theorem enumClose_closes (hw : ¬(e.discovered = false ∨ e.closed = true ∨ s.uptime < e.windowEnd)) :
    enumClose s l =
      (let x := reportsJudged s l e
       let v := modEnum x.1 l fun y => { y with closed := true, reports := [], todo := x.2.2.foldr insPair [] }
       startNext (enumPump (listJudged v l e x.2.1) l) l) := by
  rw [enumClose, h]
  exact if_neg hw

end

end

/-- Settles O44: each command does its function's work at its instant, and the function's cases are those of the statement. -/
theorem queueTimers : Obligations.QueueTimers := by
  refine ⟨fun s req q ws => ?packet, fun s t run hr => ?scrub, fun s t run hr => ?bulkScrub, fun s t c eye group hc => ?recal,
    fun s t l hl => ?file, fun s t l hl => ?window⟩
  case packet =>
    have runs : exec (.hwPacketCommit req q ws) s = answer (hwCommit s req q ws) := rfl
    rw [runs]
    exact ⟨fun h => congrArg answer (hwCommit_none h), fun v hp h => congrArg answer (hwCommit_stored hp h),
      fun v hp h => congrArg answer (hwCommit_refused hp h), fun v r hp h ho hf => congrArg answer (hwCommit_waits hp h ho hf)⟩
  case scrub =>
    have runs : exec (.scrubPass t run) s = answer (Machine.scrubPass (s.reach t) run.ch run.upsets) :=
      answerAt_within (decide_eq_true hr) s t (Machine.scrubPass · run.ch run.upsets)
    rw [runs]
    exact ⟨fun h => congrArg answer (scrubPass_due h), fun h => congrArg answer (scrubPass_early h)⟩
  case bulkScrub =>
    have runs : exec (.bulkScrubPass t run) s = answer (bulkScrub (s.reach t) run.ch run.upsets) :=
      answerAt_within (decide_eq_true hr) s t (bulkScrub · run.ch run.upsets)
    rw [runs]
    exact ⟨fun h => congrArg answer (bulkScrub_due h), fun h => congrArg answer (bulkScrub_early h)⟩
  case recal =>
    have runs : exec (.recalTimer t c eye group) s = answer (Machine.recalTimer (s.reach t) c eye group) :=
      answerAt_within (decide_eq_true hc) s t (Machine.recalTimer · c eye group)
    rw [runs]
    exact ⟨fun h => congrArg answer (if_pos h), fun h => congrArg answer (if_neg h)⟩
  case file =>
    have runs : exec (.bulkFileRelease t l) s = answer (drainLane (s.reach t) l) := answerAt_lane hl s t (drainLane · l)
    exact ⟨runs, fun hd hh hs => runs.trans (congrArg answer (drainLane_empty hd hh hs))⟩
  case window =>
    have runs : exec (.enumWindowClose t l) s = answer (enumClose (s.reach t) l) := answerAt_lane hl s t (enumClose · l)
    rw [runs]
    exact ⟨fun h => congrArg answer (enumClose_none h), fun e h hw => congrArg answer (enumClose_stays h hw),
      fun e h hw => congrArg answer (enumClose_closes h hw)⟩

end Sys2Proof.Proofs
end

section
namespace Sys2Proof.Proofs

open Sys2Proof.Machine Sys2Proof.Laws

/-! The frame of a round of Hedgerow's events, and of a read of a queue's descriptor (R137, R139, R215, R230, R235) -/

/-- From a state to another, only what a round of Hedgerow's events writes changes: registers, statistics, the levels of meadows, task
inputs, pulses at seams and the report on HC2. -/
structure HedgeOnly (s t : State) : Prop where
  frame : t = { s with
    regs := t.regs, stats := t.stats, meadows := t.meadows, tis := t.tis, pulses := t.pulses, hc2Due := t.hc2Due, hc2At := t.hc2At }

theorem hedgeOnly_trans {s t u : State} (a : HedgeOnly s t) (b : HedgeOnly t u) : HedgeOnly s u := ⟨by rw [b.frame, a.frame]⟩

theorem hedgeOnly_foldl {α : Type} {f : State → α → State} (hf : ∀ s a, HedgeOnly s (f s a)) (l : List α) (s : State) :
    HedgeOnly s (l.foldl f s) :=
  foldl_keeps (HedgeOnly s) f (fun _ a h => hedgeOnly_trans h (hf _ a)) l s ⟨rfl⟩

theorem hedgeOnly_bumpDrop (s : State) (c : Nat) (lost : Bool) : HedgeOnly s (bumpDrop s c lost) := by
  cases lost <;> exact ⟨rfl⟩

theorem hedgeOnly_hc2Report (s : State) (k : Nat) : HedgeOnly s (hc2Report s k) := by
  unfold hc2Report
  split <;> exact ⟨rfl⟩

/-- An event that a counter of Hedgerow and its report count, behind its channel's drop count if it names one. -/
theorem hedgeOnly_counted {s t : State} (h : HedgeOnly s t) (off bank k : Nat) :
    HedgeOnly s (hc2Report ((t.bump .hedge 0 off).bankAdd bankHeath bank 1) k) :=
  hedgeOnly_trans (hedgeOnly_trans h ⟨rfl⟩) (hedgeOnly_hc2Report _ k)

theorem hedgeOnly_lose (s : State) (c : Option Nat) : HedgeOnly s (lose s c) :=
  hedgeOnly_counted (by cases c with
    | none => exact ⟨rfl⟩
    | some c => exact hedgeOnly_bumpDrop s c true) _ _ _

theorem hedgeOnly_suppress (s : State) (p : Nat) : HedgeOnly s (suppress s p) :=
  hedgeOnly_counted (by cases selected (psel s p) with
    | none => exact ⟨rfl⟩
    | some c => exact hedgeOnly_bumpDrop s c false) _ _ _

theorem hedgeOnly_govEvent (s : State) (m : Nat) : HedgeOnly s (s.govEvent m) := by
  unfold State.govEvent
  split <;> exact ⟨rfl⟩

theorem hedgeOnly_deliver (s : State) (t hop : Nat) : HedgeOnly s (deliver s t hop) := by
  unfold deliver
  dsimp only
  split
  · exact hedgeOnly_trans ⟨rfl⟩ (hedgeOnly_govEvent _ _)
  · exact ⟨rfl⟩

theorem hedgeOnly_arrive (s : State) (c t hop : Nat) : HedgeOnly s (arrive s c t hop) := by
  unfold arrive
  split
  · exact hedgeOnly_lose s (some c)
  · split
    · exact hedgeOnly_deliver s t hop
    · split <;> exact ⟨rfl⟩

theorem hedgeOnly_carry (s : State) (c n hop : Nat) : HedgeOnly s (carry s c n hop) := by
  unfold carry
  dsimp only
  split
  · exact hedgeOnly_trans ⟨rfl⟩ (hedgeOnly_arrive _ _ _ _)
  · exact ⟨rfl⟩

theorem hedgeOnly_carryAll (s : State) (evs : List (Nat × Nat)) : HedgeOnly s (carryAll s evs) :=
  hedgeOnly_foldl (fun s c => hedgeOnly_carry s c _ _) _ s

theorem hedgeOnly_suppressAll (s : State) (evs : List (Nat × Nat)) : HedgeOnly s (suppressAll s evs) := by
  unfold suppressAll
  exact hedgeOnly_foldl (f := fun s (e : Nat × Nat) => suppress s e.1) (fun s e => hedgeOnly_suppress s e.1) _ s

theorem hedgeOnly_hc2Serve (s : State) : HedgeOnly s (hc2Serve s) := by
  unfold hc2Serve
  split
  · exact hedgeOnly_trans (hedgeOnly_trans ⟨rfl⟩ (hedgeOnly_suppressAll _ _)) (hedgeOnly_carryAll _ _)
  · exact ⟨rfl⟩

theorem hedgeOnly_pulseOffer (s : State) (k p hop : Nat) : HedgeOnly s (pulseOffer s k p hop).1 := by
  rcases pulseOffer_does s k p hop with ⟨_, _, e⟩ | ⟨_, _, e⟩ | ⟨_, _, e⟩ <;> rw [e] <;> exact ⟨rfl⟩

theorem hedgeOnly_crossAll (s : State) (evs : List (Nat × Nat)) : HedgeOnly s (crossAll s evs).1 := by
  refine foldl_keeps (fun x : State × List (Nat × Nat) => HedgeOnly s x.1) _ (fun x e h => ?_) evs (s, []) ⟨rfl⟩
  dsimp only
  split
  · exact h
  · exact hedgeOnly_trans h (hedgeOnly_pulseOffer _ _ _ _)

theorem hedgeOnly_fire (s : State) (evs : List (Nat × Nat)) : HedgeOnly s (s.fire evs) :=
  hedgeOnly_trans (hedgeOnly_trans (hedgeOnly_trans (hedgeOnly_suppressAll s evs) (hedgeOnly_crossAll _ _)) (hedgeOnly_carryAll _ _))
    (hedgeOnly_hc2Serve _)

theorem chans_fire (s : State) (evs : List (Nat × Nat)) : (s.fire evs).chans = s.chans := by
  rw [(hedgeOnly_fire s evs).frame]

theorem chans_foldl {α : Type} {f : State → α → State} (hf : ∀ s a, (f s a).chans = s.chans) (l : List α) (s : State) :
    (l.foldl f s).chans = s.chans :=
  foldl_keeps (fun t : State => t.chans = s.chans) f (fun _ a h => (hf _ a).trans h) l s rfl

theorem chans_markWord (s : State) (q : Nat) : (markWord s q).chans = s.chans := chans_fire _ _

theorem chans_noteEcc (s : State) (q : Nat) (e : BitVec 72) : (noteEcc s q e).chans = s.chans := by
  unfold noteEcc
  split
  · rfl
  · rfl
  · split
    · rfl
    · exact chans_markWord s q

theorem chans_rewindOpen (s : State) (r : Nat) (sw : Swallow) : (rewindOpen s r sw).chans = s.chans := by
  unfold rewindOpen
  split
  · split <;> rfl
  · rfl

theorem chans_dropClaim (s : State) (r : Nat) : (dropClaim s r).chans = s.chans := by
  unfold dropClaim
  split
  · rw [freeBlocks_gives]; rfl
  · rfl

/-- A queue that breaks takes blocks of its channel with it, and leaves every channel in its state. -/
theorem chanSt_breakQueue (s : State) (q c : Nat) (h : Rising s.chans) : ((breakQueue s q).chan c).st = (s.chan c).st := by
  unfold breakQueue
  dsimp only
  generalize hu : (consOf _ q).foldl dropClaim _ = u
  have e : u.chans = s.chans := by
    rw [← hu]
    exact (chans_foldl chans_dropClaim _ _).trans (chans_foldl (fun s r => chans_rewindOpen s r .rewound) _ s)
  have k : u.chan c = s.chan c := by simp only [State.chan, e]
  rw [← k]
  refine (congrArg Chan.st (setChan_reads _ _ _ c (by exact e ▸ h))).trans ?_
  split
  · next hc => rw [hc]; rfl
  · rfl

/-- A read of a descriptor, whatever it finds, leaves every channel in its state. -/
theorem chanSt_readDesc (s : State) (q c : Nat) (h : Rising s.chans) : ((readDesc s q).chan c).st = (s.chan c).st := by
  unfold readDesc
  dsimp only
  split
  · rfl
  · generalize hu : ((s.queue q).desc.foldl (fun s e => noteEcc s q e.2) s).modQueue q _ = u
    have e : u.chans = s.chans := by
      rw [← hu]
      exact chans_foldl (f := fun s (e : Nat × BitVec 72) => noteEcc s q e.2) (fun s e => chans_noteEcc s q e.2) _ s
    have k : u.chan c = s.chan c := by simp only [State.chan, e]
    split
    · rw [chanSt_breakQueue u q c (e ▸ h), k]
    · rw [k]

end Sys2Proof.Proofs
end

section
namespace Sys2Proof.Proofs

open Sys2Proof.Machine Sys2Proof.Laws

/-! How a queue instruction of a core completes -/

/-- The queue that a core's queue instructions use, and the word that QPUT of `ra` offers it. -/
abbrev ownQ (s : State) (r : Nat) : Nat := (s.core r).curQid
abbrev offered (s : State) (r : Nat) (ra : Reg) : Dword := gOf s r (ra + 1) ++ gOf s r ra

section
variable {s : State} {r : Nat} (h : Ready s r)
include h

theorem ownQ_fetched : ownQ (fetched s r) r = ownQ s r := curQid_of_pipe ((drains_ready h).pipe r)

theorem uptime_fetched : (fetched s r).uptime = s.uptime := by rw [(drains_ready h).frame]

theorem prods_fetched : Rising (fetched s r).prods := by
  rw [(drains_ready h).frame]
  exact ((twf_iff _ _).1 h.sound.prods).1

theorem conss_fetched : Rising (fetched s r).conss := by
  rw [(drains_ready h).frame]
  exact ((twf_iff _ _).1 h.sound.conss).1

theorem queues_fetched : Rising (fetched s r).queues := by
  rw [(drains_ready h).frame]
  exact ((twf_iff _ _).1 h.sound.queues).1

theorem chans_fetched : Rising (fetched s r).chans := by
  rw [(drains_ready h).frame]
  exact ((twf_iff _ _).1 h.sound.chans.1).1

theorem offered_fetched (ra : Reg) : offered (fetched s r) r ra = offered s r ra := by
  simp only [offered, greg_fetched h]

section
variable (w : Word) (again : Bool) {body : Body} {v : State} {reqs : List Nat}

/-- An instruction whose work leaves the cores as they are and gives the results `ws` completes. -/
theorem queue_done {ws : List RegWrite} (e : body (fetched s r) r = { s := v, reqs := reqs, out := .done ws })
    (hv : v.cores = (fetched s r).cores) : runInstr s r w true again body = retireOn v r ws := by
  have a := alone_cores hv (alone_fetched h)
  rw [run_ready h, e]
  exact applyOut_done a.lock a.rep ..

/-- One whose work leaves the cores as they are and ends in a trap takes it at its own address. -/
theorem queue_traps {cause less : Nat} {tval : Word} (e : body (fetched s r) r = { s := v, reqs := reqs, out := .trap cause tval false less })
    (hv : v.cores = (fetched s r).cores) : runInstr s r w true again body = trapOn v r cause tval (pcOf s r) := by
  have pc : pcOf v r = pcOf s r := by rw [← pc_fetched h]; simp only [pcOf, State.core, hv]
  rw [run_ready h, e, ← pc]
  exact applyOut_trap (alone_cores hv (alone_fetched h)).rep ..

end

end

/-- A wait that begins leaves the core in place, with what it waits for (R118, R399). -/
theorem core_waits {u : State} {r : Nat} {w : Word} {carry : List (Reg × Word)} {q : Nat} {x : Dword} (hc : Rising u.cores)
    (ha : (u.core r).lockstep = false) :
    (applyOut u r w carry (.hang (.push q x))).core r = { u.core r with hang := some ⟨.push q x, w, u.uptime⟩ } := by
  simp only [applyOut, pairOf_alone ha, List.foldl_cons, List.foldl_nil]
  show (countWait _ q).core r = _
  simp only [State.core, cores_countWait]
  exact core_setCore_same _ _ _ hc

/-! What a push comes to (R111, R118, R124, R127) -/

/-- One more word of a requester's open packet, in a new block where it needs one. -/
def addWord (s : State) (req q : Nat) (w : Dword) (x : ProdCtx) : State :=
  let y := takeBlocks (newBlocks x.words.length 1) s (chanOf q) ((x.words.length + 30) / 31) x.blocks
  let s := y.1.setProd req (some { x with words := x.words ++ [⟨w, 0⟩], blocks := y.2 })
  noteBlocks (s.bankAdd (bankChan (chanOf q)) 0 1) (chanOf q)

section
variable {s : State} {req q : Nat} {w : Dword}

/-- The word stands at the end of the packet, and no queue has changed. -/
theorem addWord_prod (x : ProdCtx) (h : Rising s.prods) :
    ∃ bs, (addWord s req q w x).prod req = some { x with words := x.words ++ [⟨w, 0⟩], blocks := bs } := by
  obtain ⟨prods, -⟩ := takeBlocks_keeps (newBlocks x.words.length 1) s (chanOf q) ((x.words.length + 30) / 31) x.blocks
  exact ⟨_, prod_setProd _ _ _ (by rw [prods]; exact h)⟩

theorem addWord_queues (x : ProdCtx) : (addWord s req q w x).queues = s.queues :=
  (takeBlocks_keeps (newBlocks x.words.length 1) s (chanOf q) ((x.words.length + 30) / 31) x.blocks).2

theorem qPush_adds {x : ProdCtx} (hp : s.prod req = some x) (hs : x.swallow = .none) (hr : pushRoom s req q = .ok)
    (hl : x.words.length ≤ 255) : qPush s req q w = some (addWord s req q w x) := by
  unfold qPush
  dsimp only
  rw [hp]
  dsimp only
  rw [if_neg (not_not_intro hs), hr]
  exact if_neg (Nat.not_lt.2 hl)

section
variable (hp : s.prod req = none)
include hp

theorem qPush_opens (hr : pushRoom s req q = .ok) (hw : isRaw s q = false) : qPush s req q w = some (addWord s req q w ⟨q, [], .none, []⟩) := by
  simp only [qPush, hp, hr, hw, Bool.false_eq_true, if_false]
  rfl

/-- In a raw-word class every word is an item of its own. -/
theorem qPush_raw (hr : pushRoom s req q = .ok) (hw : isRaw s q = true) :
    qPush s req q w = some (commitPkt (s.bankAdd (bankChan (chanOf q)) 0 1) q [⟨w, 0⟩]) := by
  simp only [qPush, hp, hr, hw, if_true]

theorem qPush_refused (hr : pushRoom s req q = .refused) : qPush s req q w = some (s.bump .qeng 0 QENG_CNT_REFUSED) := by
  simp only [qPush, hp, hr]

theorem qPush_waits (hr : pushRoom s req q = .full ∨ pushRoom s req q = .starved ∨ pushRoom s req q = .unavail) : qPush s req q w = none := by
  rcases hr with hr | hr | hr <;> simp only [qPush, hp, hr]

end

end

/-! What QEND comes to (R124, R127, R128, R132) -/

section
variable {s : State} {req q : Nat}

theorem qEnd_none (h : s.prod req = none) : qEnd s req q = (s, if isRaw s q then 0 else 2) := by
  rw [qEnd, h]

section
variable {x : ProdCtx} (h : s.prod req = some x)
include h

theorem qEnd_flushed (hs : x.swallow = .flushed) : qEnd s req q = (closeProd s req, 1) := by
  simp only [qEnd, h, hs]

theorem qEnd_rewound (hs : x.swallow = .rewound ∨ x.swallow = .epoch) : qEnd s req q = (closeProd s req, 2) := by
  rcases hs with hs | hs <;> simp only [qEnd, h, hs]

variable {hd : QWord} {ws : List QWord} (hs : x.swallow = .none) (hw : x.words = hd :: ws)
include hs hw

/-- A packet whose header has a type that a core may give is committed under it. -/
theorem qEnd_commits (ht : 0x40 ≤ bits hd.w 7 0 ∧ bits hd.w 7 0 ≤ 0xEF) :
    qEnd s req q = (commitPkt (closeProd s req) x.q ({ hd with w := sealHeader req ws.length hd.w } :: ws) x.blocks, 0) := by
  simp only [qEnd, h, hs, hw, if_pos ht]

/-- Any other type is counted before. -/
theorem qEnd_clamps (ht : ¬(0x40 ≤ bits hd.w 7 0 ∧ bits hd.w 7 0 ≤ 0xEF)) :
    qEnd s req q =
      (commitPkt ((closeProd s req).bump .qeng 0 QENG_CNT_TYPE_CLAMP) x.q ({ hd with w := sealHeader req ws.length hd.w } :: ws) x.blocks, 0) := by
  simp only [qEnd, h, hs, hw, if_neg ht]

end

end

theorem prod_qRewind (s : State) (r : Nat) (h : Rising s.prods) : (qRewind s r).prod r = none :=
  prod_setProd _ _ _ (rising_rewindOpen _ _ _ h)

/-! The instructions -/

section
variable {u : State} {r : Nat} {ra : Reg}

theorem qputBody_pushes {v : State} (e : qPush u r (ownQ u r) (offered u r ra) = some v) :
    qputBody ra u r = { s := v, reqs := [11, ownQ u r, (offered u r ra).toNat], out := .done [] } := by
  rw [qputBody, e]

theorem qputBody_waits (e : qPush u r (ownQ u r) (offered u r ra) = none) :
    qputBody ra u r = { s := u, reqs := [11, ownQ u r, (offered u r ra).toNat], out := .hang (.push (ownQ u r) (offered u r ra)) } := by
  rw [qputBody, e]

end

/-- QPUT of an even register runs what a push of its pair comes to. -/
theorem qput_runs {s : State} {r : Nat} {ra : Reg} (hev : ra.getLsbD 0 = false) :
    exec (.qput r ra) s = answer (runInstr s r (encQ 0 ra 1) true true (qputBody ra)) := by
  have legal : even ra = true := by rw [even, hev]; rfl
  show answer (runInstr s r (encQ 0 ra 1) (even ra) true (qputBody ra)) = _
  rw [legal]

section
variable {s : State} {r : Nat} (h : Ready s r)
include h

theorem qsel_runs (ra : Reg) :
    exec (.qsel r ra) s =
      .next (settle (retireOn (qSelect (fetched s r) r (gOf s r ra &&& 0xFFFFF#32).toNat) r [.sr 6 (gOf s r ra &&& 0xFFFFF#32)])) := by
  rw [← greg_fetched h ra]
  exact congrArg answer (queue_done h (encQ 0 ra 0) false rfl (cores_qSelect ..))

theorem qput_illegal {ra : Reg} (ho : ra.getLsbD 0 = true) :
    exec (.qput r ra) s = .next (settle (trapOn (fetched s r) r 2 (encQ 0 ra 1) (pcOf s r))) := by
  have odd : even ra = false := by rw [even, ho]; rfl
  show answer (runInstr s r (encQ 0 ra 1) (even ra) true (qputBody ra)) = _
  rw [odd, run_illegal h, pc_fetched h]

section
variable {ra : Reg} (hev : ra.getLsbD 0 = false)
include hev

theorem qput_pushes {v : State} (e : qPush (fetched s r) r (ownQ s r) (offered s r ra) = some v) :
    exec (.qput r ra) s = .next (settle (retireOn v r [])) := by
  rw [← ownQ_fetched h, ← offered_fetched h] at e
  rw [qput_runs hev, queue_done h _ true (qputBody_pushes e) (cores_qPush _ _ _ _ _ e)]

theorem qput_waits (e : qPush (fetched s r) r (ownQ s r) (offered s r ra) = none) :
    ∃ v, exec (.qput r ra) s = .next (settle v) ∧
      (v.core r).hang = some ⟨.push (ownQ s r) (offered s r ra), encQ 0 ra 1, s.uptime⟩ ∧ (v.core r).pc = pcOf s r := by
  rw [← ownQ_fetched h, ← offered_fetched h] at e
  refine ⟨_, (qput_runs hev).trans (congrArg answer (run_ready h _ _ _)), ?_, ?_⟩
  all_goals rw [qputBody_waits e, core_waits (drains_ready h).rising (fetched_alone h)]
  · rw [uptime_fetched h, ownQ_fetched h, offered_fetched h]
  · exact pc_fetched h

/-- A push that adds its word to the open packet, which is `x` before it. -/
theorem qput_adds {x : ProdCtx}
    (e : qPush (fetched s r) r (ownQ s r) (offered s r ra) =
      some (addWord (fetched s r) r (ownQ s r) (offered s r ra) x)) :
    ∃ v bs, exec (.qput r ra) s = .next (settle (retireOn v r [])) ∧
      v.prod r = some { x with words := x.words ++ [⟨offered s r ra, 0⟩], blocks := bs } ∧ v.queues = (fetched s r).queues := by
  obtain ⟨bs, hbs⟩ := addWord_prod (req := r) (q := ownQ s r) (w := offered s r ra) x (prods_fetched h)
  exact ⟨_, bs, qput_pushes h hev e, hbs, addWord_queues x⟩

end

theorem qend_gives (rd : Reg) {v : State} {n : Nat} (e : qEnd (fetched s r) r (ownQ s r) = (v, n)) :
    exec (.qend r rd) s = .next (settle (retireOn v r [.g rd (w32 n)])) := by
  rw [← ownQ_fetched h] at e
  have cores := cores_qEnd (fetched s r) r (ownQ (fetched s r) r)
  have run : qendBody rd (fetched s r) r = { s := v, reqs := [12, ownQ (fetched s r) r], out := .done [.g rd (w32 n)] } := by
    rw [qendBody, e]
  rw [e] at cores
  exact congrArg answer (queue_done h (encQ rd 0 2) false run cores)

theorem qrwd_runs : exec (.qrwd r) s = .next (settle (retireOn (qRewind (fetched s r) r) r [])) :=
  congrArg answer (queue_done h (encQ 0 0 3) false rfl (cores_qRewind ..))

end

/-- Settles O22: each instruction runs its function of the queue engine on the fetched state, and that function's cases are those of
the statement. -/
theorem queueProducing : Obligations.QueueProducing := by
  intro s r h
  refine ⟨qsel_runs h, fun p => ⟨prod_qSelect _ _ _ (prods_fetched h), cons_qSelect _ _ _ (conss_fetched h)⟩,
    fun ra => qput_illegal h, fun ra hev => ⟨?opens, ?adds, ?raw, ?refused, ?waits⟩, fun rd => ⟨?none, ?flushed, ?rewound, ?commits, ?clamps⟩,
    qrwd_runs h, prod_qRewind _ _ (prods_fetched h)⟩
  case opens => exact fun hp hr hw => qput_adds h hev (qPush_opens hp hr hw)
  case adds => exact fun x hp hs hr hl => qput_adds h hev (qPush_adds hp hs hr hl)
  case raw => exact fun hp hr hw => qput_pushes h hev (qPush_raw hp hr hw)
  case refused => exact fun hp hr => qput_pushes h hev (qPush_refused hp hr)
  case waits => exact fun hp hr => qput_waits h hev (qPush_waits hp hr)
  case none =>
    intro hp
    rw [qend_gives h rd (qEnd_none hp)]
    split <;> rfl
  case flushed => exact fun x hp hs => qend_gives h rd (qEnd_flushed hp hs)
  case rewound => exact fun x hp hs => qend_gives h rd (qEnd_rewound hp hs)
  case commits => exact fun x hd ws hp hs hw hlo hhi => qend_gives h rd (qEnd_commits hp hs hw ⟨hlo, hhi⟩)
  case clamps => exact fun x hd ws hp hs hw ht => qend_gives h rd (qEnd_clamps hp hs hw (by omega))

end Sys2Proof.Proofs
end

section
namespace Sys2Proof.Proofs

open Sys2Proof.Machine Sys2Proof.Laws

/-! What a pop comes to (R122, R126, R135, R138) -/

section
variable {s : State} {req q : Nat}

/-- At a channel that is not available a pop gives ABSENT, and counts. -/
theorem qPop_absent (ha : qAvail s q = false) : qPop s req q = (s.bump .qeng 0 QENG_CNT_ABSENT, .item 0xFF) := if_pos ha

section
variable (ha : qAvail s q = true)
include ha

theorem qPop_refused (hr : qRefused s req q false = true) : qPop s req q = (s.bump .qeng 0 QENG_CNT_REFUSED, .item 0xFE) :=
  (if_neg (ne_false_of_eq_true ha)).trans (if_pos hr)

section
variable (hr : qRefused s req q false = false)
include hr

/-- With nothing claimed and nothing committed the queue gives its idle item. -/
theorem qPop_idle (hc : s.cons req = none) (hp : (s.queue q).pkts = []) : qPop s req q = (s, .item (idleItem s q)) := by
  rw [qPop, if_neg (ne_false_of_eq_true ha), if_neg (ne_true_of_eq_false hr), hc]
  dsimp only
  rw [hc]
  dsimp only
  rw [hp]

/-- With nothing claimed the oldest packet is claimed, and its header popped. -/
theorem qPop_head {h : QWord} {ws : List QWord} {ps : List Packet} (hc : s.cons req = none) (hp : (s.queue q).pkts = (h :: ws) :: ps) :
    qPop s req q = popWord (keepClaim (dropHead s q (h :: ws) ps) req q ws 1 ((s.queue q).base + 1)) q h 0 (s.queue q).base := by
  rw [qPop, if_neg (ne_false_of_eq_true ha), if_neg (ne_true_of_eq_false hr), hc]
  dsimp only
  rw [hc]
  dsimp only
  rw [hp]

/-- Of a claimed packet the next word is popped. -/
theorem qPop_next {w : QWord} {ws : List QWord} {n a : Nat} (hc : s.cons req = some ⟨q, w :: ws, n, a⟩) :
    qPop s req q = popWord (keepClaim s req q ws (n + 1) (a + 1)) q w n a := by
  rw [qPop, if_neg (ne_false_of_eq_true ha), if_neg (ne_true_of_eq_false hr), hc]
  dsimp only
  rw [if_pos rfl, hc]

end

end

/-- At an available channel a core's pop reads the descriptor first, which leaves the channel available (R139). -/
theorem qGet_read (hc : Rising s.chans) (ha : qAvail s q = true) :
    qGet s req q = qPop (readDesc s q) req q ∧ qAvail (readDesc s q) q = true := by
  refine ⟨by rw [qGet, if_pos ha], ?_⟩
  rw [qAvail, State.chanAvail, chanSt_readDesc s q _ hc]
  exact ha

theorem qGet_absent (ha : qAvail s q = false) : qGet s req q = (s.bump .qeng 0 QENG_CNT_ABSENT, .item 0xFF) := by
  rw [qGet, if_neg (ne_true_of_eq_false ha), qPop_absent ha]

end

/-- The queue's channel is paused, and the queue would answer: a pop waits (R453, R475). -/
abbrev popWaits (s : State) (r q : Nat) : Bool := (s.chan (chanOf q)).paused && qAvail s q && !qRefused s r q false

/-- An item as a pair of register results. -/
abbrev pairWrites (rd : Reg) (w : Dword) : List RegWrite := [.g rd (w.setWidth 32), .g (rd + 1) ((w >>> 32).setWidth 32)]

/-- A code of the engine stands in the first register alone. -/
theorem pairWrites_absent (rd : Reg) : pairWrites rd 0xFF = [.g rd 0xFF, .g (rd + 1) 0] := rfl
theorem pairWrites_refused (rd : Reg) : pairWrites rd 0xFE = [.g rd 0xFE, .g (rd + 1) 0] := rfl

section
variable {u v : State} {r : Nat} (rd : Reg) (hp : popWaits u r (ownQ u r) = false)
include hp

theorem qgetBody_gives {w : Dword} (e : qGet u r (ownQ u r) = (v, .item w)) :
    qgetBody rd u r = { s := v, reqs := [14, ownQ u r], out := .done (pairWrites rd w) } := by
  rw [qgetBody, if_neg (ne_true_of_eq_false hp), e]

theorem qgetBody_poisoned {q idx : Nat} (e : qGet u r (ownQ u r) = (v, .poisoned q idx)) :
    qgetBody rd u r = { s := v, reqs := [14, q], out := .trap 12 (w32 (q + idx % 256 * 2 ^ 20)) false 1 } := by
  rw [qgetBody, if_neg (ne_true_of_eq_false hp), e]

end

/-! The instructions -/

theorem qget_runs {s : State} {r : Nat} {rd : Reg} (hev : rd.getLsbD 0 = false) :
    exec (.qget r rd) s = answer (runInstr s r (encQ rd 0 4) true true (qgetBody rd)) := by
  have legal : even rd = true := by rw [even, hev]; rfl
  show answer (runInstr s r (encQ rd 0 4) (even rd) true (qgetBody rd)) = _
  rw [legal]

section
variable {s : State} {r : Nat} (h : Ready s r)
include h

theorem qget_illegal {rd : Reg} (ho : rd.getLsbD 0 = true) :
    exec (.qget r rd) s = .next (settle (trapOn (fetched s r) r 2 (encQ rd 0 4) (pcOf s r))) := by
  have odd : even rd = false := by rw [even, ho]; rfl
  show answer (runInstr s r (encQ rd 0 4) (even rd) true (qgetBody rd)) = _
  rw [odd, run_illegal h, pc_fetched h]

section
variable {rd : Reg} (hev : rd.getLsbD 0 = false) (hp : popWaits (fetched s r) r (ownQ s r) = false)
include hev hp

theorem qget_gives {v : State} {w : Dword} (e : qGet (fetched s r) r (ownQ s r) = (v, .item w)) :
    exec (.qget r rd) s = .next (settle (retireOn v r (pairWrites rd w))) := by
  rw [← ownQ_fetched h] at e hp
  have cores := cores_qGet (fetched s r) r (ownQ (fetched s r) r)
  rw [e] at cores
  rw [qget_runs hev, queue_done h _ true (qgetBody_gives rd hp e) cores]

theorem qget_traps {v : State} {q idx : Nat} (e : qGet (fetched s r) r (ownQ s r) = (v, .poisoned q idx)) :
    exec (.qget r rd) s = .next (settle (trapOn v r 12 (w32 (q + idx % 256 * 2 ^ 20)) (pcOf s r))) := by
  rw [← ownQ_fetched h] at e hp
  have cores := cores_qGet (fetched s r) r (ownQ (fetched s r) r)
  rw [e] at cores
  rw [qget_runs hev, queue_traps h _ true (qgetBody_poisoned rd hp e) cores]

/-- A pop that comes to one word of the queue's gives it, or traps with its place where it is poisoned. -/
theorem qget_pops {x : State} {w : QWord} {idx a : Nat} (e : qGet (fetched s r) r (ownQ s r) = popWord x (ownQ s r) w idx a) :
    exec (.qget r rd) s =
      (let y := (popWord x (ownQ s r) w idx a).1
       if w.poison then .next (settle (trapOn y r 12 (w32 (ownQ s r + idx % 256 * 2 ^ 20)) (pcOf s r)))
       else .next (settle (retireOn y r (pairWrites rd w.read)))) := by
  have pop := popWord_gives x (ownQ s r) w idx a
  by_cases hw : w.poison = true
  · rw [if_pos hw] at pop
    exact (qget_traps h hev hp (e.trans (Prod.ext rfl pop))).trans (if_pos hw).symm
  · rw [if_neg hw] at pop
    exact (qget_gives h hev hp (e.trans (Prod.ext rfl pop))).trans (if_neg hw).symm

end

/-- QCNT and QCNTW give what their count is and change nothing (R131). -/
theorem qcnt_gives (rd : Reg) (w : Word) (kind : Nat) (f : State → Nat → Nat) :
    (.next (runInstr s r w true false (qcntBody rd kind f)) : Answer) =
      .next (retireOn (fetched s r) r [.g rd (BitVec.ofNat 32 (f (fetched s r) (ownQ s r)))]) := by
  rw [← ownQ_fetched h]
  exact congrArg _ (queue_done h w false rfl rfl)

theorem qfl_done {v : State} {reqs : List Nat} (e : qflBody (fetched s r) r = { s := v, reqs := reqs, out := .done [] })
    (hv : v.cores = (fetched s r).cores) : exec (.qfl r) s = .next (settle (retireOn v r [])) :=
  congrArg answer (queue_done h (encQ 0 0 7) false e hv)

/-- A flush that is refused rewinds the core's open packet (R111). -/
theorem qfl_refused (hr : qRefused (fetched s r) r (ownQ s r) false = true) :
    exec (.qfl r) s = .next (settle (retireOn (rewindOpen ((fetched s r).bump .qeng 0 QENG_CNT_REFUSED) r .rewound) r [])) := by
  rw [← ownQ_fetched h] at hr
  exact qfl_done h (if_pos hr) (c_rewindOpen _ _ _ (c_bump _ _ _ _ (c_of _))).eq

theorem qfl_flushes (hr : qRefused (fetched s r) r (ownQ s r) false = false) (ha : qAvail (fetched s r) (ownQ s r) = true)
    (hp : ((fetched s r).chan (chanOf (ownQ s r))).paused = false) :
    exec (.qfl r) s = .next (settle (retireOn (qFlush (fetched s r) (ownQ s r)).1 r [])) := by
  rw [← ownQ_fetched h] at hr ha hp ⊢
  refine qfl_done h ((if_neg (ne_true_of_eq_false hr)).trans (if_pos ?_)) (cores_qFlush ..)
  rw [ha, hp]
  rfl

end

/-- Settles O23: each instruction runs its function of the queue engine on the fetched state, and that function's cases are those of
the statement. -/
theorem queueConsuming : Obligations.QueueConsuming := by
  intro s r h
  refine ⟨fun rd => qget_illegal h, fun rd hev => ⟨?absent, fun ha hp => ?available⟩, fun rd => qcnt_gives h rd _ 15 qCount,
    fun rd => qcnt_gives h rd _ 16 qCountWords, qfl_refused h,
    fun hr ha hp => ⟨qfl_flushes h hr ha hp, pkts_qFlush _ _ (queues_fetched h)⟩⟩
  case absent =>
    intro ha
    have flows : popWaits (fetched s r) r (ownQ s r) = false := by simp [popWaits, qAvail, ha]
    rw [qget_gives h hev flows (qGet_absent ha), pairWrites_absent]
  case available =>
    have flows : popWaits (fetched s r) r (ownQ s r) = false := by
      rw [popWaits, qAvail, ha, Bool.and_true]
      exact hp
    obtain ⟨read, av⟩ := qGet_read (req := r) (chans_fetched h) ha
    refine ⟨fun hr => ?_, fun hr => ⟨fun hc hq => ?_, fun hd ws ps hc hq => ?_, fun w ws n a hc => ?_⟩⟩
    · rw [qget_gives h hev flows (read.trans (qPop_refused av hr)), pairWrites_refused]
    · exact qget_gives h hev flows (read.trans (qPop_idle av hr hc hq))
    · exact qget_pops h hev flows (read.trans (qPop_head av hr hc hq))
    · exact qget_pops h hev flows (read.trans (qPop_next av hr hc))

end Sys2Proof.Proofs
end

section
namespace Sys2Proof.Proofs

open Sys2Proof.Machine Sys2Proof.Laws

/-! What each order of the queue engine and of a memory channel does, once its checks have passed (R143, R149, R167, R171, R175) -/

section
variable {s : State} {d : Desc}

theorem orderFlush_refused (h : qShut (readDesc s d.target.toNat) d.target.toNat = true) :
    orderFlush s d = fin ((readDesc s d.target.toNat).bump .qeng 0 QENG_CNT_REFUSED) cDone :=
  if_pos h

theorem orderFlush_empties (h : qShut (readDesc s d.target.toNat) d.target.toNat = false) :
    orderFlush s d =
      (let x := qFlush (readDesc s d.target.toNat) d.target.toNat
       fin x.1 cDone (satTo 0xFFFF x.2)) :=
  if_neg (ne_true_of_eq_false h)

/-- The descriptor of a broken queue that cannot be read. -/
abbrev Unreadable (s : State) (q : Nat) : Prop := (s.queue q).broken = true ∧ (s.queue q).desc ≠ []

theorem orderQueueStatus_poisoned (h : Unreadable (readDesc s d.target.toNat) d.target.toNat) :
    orderQueueStatus s d = fin (readDesc s d.target.toNat) cPoisoned :=
  if_pos h

theorem orderQueueStatus_gives (h : ¬Unreadable (readDesc s d.target.toNat) d.target.toNat) :
    orderQueueStatus s d =
      (let v := readDesc s d.target.toNat
       fin v cDone (satTo 0xFFFF (qCount v d.target.toNat)) (descriptor v d.target.toNat)) :=
  if_neg h

end

/-! FILL -/

section
variable (s : State) (l : Nat) (d : Desc)

/-- The first address of a channel's bulk range and the first behind it. -/
abbrev bulkFrom : Nat := (s.reg .qdr l QDR_BULK_BASE).toNat
abbrev bulkTo : Nat := bulkFrom s l + (s.reg .qdr l QDR_BULK_SIZE).toNat

/-- The bytes that a FILL clears: those asked for, up to the end of the bulk range. -/
abbrev fillLen : Nat := min (d.bytes 11 8) (bulkTo s l - d.target.toNat)

/-- With the bytes of a FILL cleared, and their words free of errors. -/
def filled : State :=
  s.modChan l fun x =>
    let a := bulkOff x (d.target.toNat - bulkFrom s l)
    let n := bulkOff x (d.target.toNat - bulkFrom s l + fillLen s l d - 8) + 8 - a
    { x with bulk := memZero x.bulk a n, bulkErr := memZero x.bulkErr (a / 8) (n / 8) }

end

section
variable {s : State} {l : Nat} {d : Desc}

theorem orderFill_outside (h : d.target.toNat < bulkFrom s l ∨ bulkTo s l ≤ d.target.toNat) : orderFill s l d = fin s cBadFormat := if_pos h

section
variable (h : ¬(d.target.toNat < bulkFrom s l ∨ bulkTo s l ≤ d.target.toNat))
include h

theorem orderFill_held (ho : overlaps d.target.toNat (fillLen s l d) s.mantle.holdBase s.mantle.holdSize = true) :
    orderFill s l d = fin (s.bump .mantle 0 MANTLE_PL_CNT_HOLD_FAULTS) cNotNow :=
  (if_neg h).trans (if_pos ho)

theorem orderFill_clears (ho : overlaps d.target.toNat (fillLen s l d) s.mantle.holdBase s.mantle.holdSize = false) :
    orderFill s l d = fin (filled s l d) (if fillLen s l d < d.bytes 11 8 then cClamped else cDone) (fillLen s l d / 8) := by
  refine ((if_neg h).trans (if_neg (ne_true_of_eq_false ho))).trans ?_
  split <;> rfl

end

end

section
variable {c : Instr} {op : Nat} {d : Desc} {m : Meas} {s u : State}

/-- An order of the queue engine that goes through completes at once with what the engine's work gives. -/
theorem qengOrder_gives (hc : orderIn c = some (⟨.qeng, 0, op, d⟩, m)) (ht : Taken s .qeng 0 op d) {code r : Nat} {x : List Dword}
    (hb : qengBody op d (logged s .qeng 0 op d m) = fin u code r x) : exec c s = orderDone u .qeng 0 op d code r x :=
  taken_gives s hc ht (by simp) (by simp) hb

/-- And so does an order of a memory channel. -/
theorem qdrOrder_gives {l : Nat} (hc : orderIn c = some (⟨.qdr, l, op, d⟩, m)) (ht : Taken s .qdr l op d) {code r : Nat} {x : List Dword}
    (hb : qdrBody l op d m.eye m.group (logged s .qdr l op d m) = fin u code r x) : exec c s = orderDone u .qdr l op d code r x :=
  taken_gives s hc ht (by simp) (by simp) hb

end

/-- Settles O28: each command submits its order, and what the engine's or the channel's work on it comes to becomes the completion. -/
theorem channelOrders : Obligations.ChannelOrders := by
  refine ⟨fun s d ht => ?flush, fun s d ht => ?status, fun s d ht => ?reset, fun s d ht => ?audit, fun s d ht => ?clear,
    fun s l d hl ht => ?fill, fun s l d e g hl ht => ?recalibrate, fun s l d hl ht => ?clearChannel⟩
  case flush =>
    exact ⟨fun h => qengOrder_gives (c := .flush d) rfl ht (orderFlush_refused h),
      fun h => qengOrder_gives (c := .flush d) rfl ht (orderFlush_empties h)⟩
  case status =>
    exact ⟨fun h => qengOrder_gives (c := .queueStatus d) rfl ht (orderQueueStatus_poisoned h),
      fun h => qengOrder_gives (c := .queueStatus d) rfl ht (orderQueueStatus_gives h)⟩
  case reset => exact qengOrder_gives (c := .queueReset d) rfl ht rfl
  case audit => exact qengOrder_gives (c := .poolAudit d) rfl ht rfl
  case clear => exact qengOrder_gives (c := .qengCountersClear d) rfl ht rfl
  case fill =>
    have sent : orderIn (.fill l d) = some (⟨.qdr, l, 1, d⟩, {}) := if_pos hl
    exact ⟨fun h => qdrOrder_gives sent ht (orderFill_outside h), fun ⟨h, ho⟩ => qdrOrder_gives sent ht (orderFill_held h ho),
      fun ⟨h, ho⟩ => qdrOrder_gives sent ht (orderFill_clears h ho)⟩
  case recalibrate =>
    have sent : orderIn (.recalibrate l d e g) = some (⟨.qdr, l, 2, d⟩, { eye := e, group := g }) := if_pos hl
    exact qdrOrder_gives sent ht rfl
  case clearChannel =>
    have sent : orderIn (.qdrCountersClear l d) = some (⟨.qdr, l, 3, d⟩, {}) := if_pos hl
    exact qdrOrder_gives sent ht rfl

end Sys2Proof.Proofs
end

section
namespace Sys2Proof.Proofs

open Sys2Proof.Machine Sys2Proof.Laws

/-! What ends a wait in Memory (R118, R399, R400) -/

/-- The core's waiting access withdrawn. -/
abbrev unhung (s : State) (r : Nat) : State := s.modCore r fun c => { c with hang := none }

/-- The work of a QPUT is found from its word. -/
theorem bodyOf_qput (ra : Reg) : bodyOf (encQ 0 ra 1) = some (qputBody ra) := by
  have op : ∀ ra : Reg, bits (encQ 0 ra 1) 31 26 = 0x30 := by decide
  have func : ∀ ra : Reg, bits (encQ 0 ra 1) 3 0 = 1 := by decide
  have reg : ∀ ra : Reg, regNo (wRa (encQ 0 ra 1)) = ra := by decide
  unfold bodyOf
  dsimp only
  rw [op, func, reg]
  rfl

/-- A core's wait for a push, outside a pair and a repeat: the access is that of the QPUT at its PC. -/
structure PushWaits (s : State) (r : Nat) (ra : Reg) (since : Nat) : Prop where
  cores : Rising s.cores
  hang : (s.core r).hang = some ⟨.push (ownQ s r) (offered s r ra), encQ 0 ra 1, since⟩
  upper : (s.core r).upper = false
  alone : (s.core r).lockstep = false
  single : (s.core r).rep = none

section
variable {s : State} {r since : Nat} {ra : Reg} (h : PushWaits s r ra since)
include h

theorem core_unhung : (unhung s r).core r = { s.core r with hang := none } := core_setCore_same _ _ _ h.cores

theorem alone_unhung : Alone (unhung s r) r := by
  constructor <;> rw [core_unhung h]
  · exact h.alone
  · exact h.single

/-- What the access asks for is not changed by its being withdrawn. -/
theorem push_unhung : ownQ (unhung s r) r = ownQ s r ∧ offered (unhung s r) r ra = offered s r ra := by
  simp only [ownQ, offered, gOf, core_unhung h]
  exact ⟨rfl, rfl⟩

/-- A push tried again runs its QPUT, and stays where it still waits. -/
theorem retry_push : retry s r =
    (let x := qputBody ra (unhung s r) r
     let t := applyOut x.s r (encQ 0 ra 1) x.carry x.out
     if (t.core r).hang.isSome then s else t) := by
  simp only [retry, h.hang, bodyOf_qput, pairOf_alone h.alone, List.foldl_cons, List.foldl_nil]
  rw [runBody, if_neg (ne_true_of_eq_false (alone_unhung h).lock)]

/-- PUSH_RELEASE takes a push that waits and looks at STARVED again. -/
theorem pushRelease_push (hr : r < 256) : exec (.pushRelease r) s = answer (noteStarved (retry s r)) := by
  show answer (if r < 256 then pushRelease s r else s) = _
  rw [if_pos hr, pushRelease, h.hang]
  exact congrArg answer (if_pos ⟨rfl, h.upper⟩)

theorem pushRelease_completes (hr : r < 256) {v : State} (e : qPush (unhung s r) r (ownQ s r) (offered s r ra) = some v) :
    exec (.pushRelease r) s = answer (noteStarved (retireOn v r [])) := by
  obtain ⟨hq, hw⟩ := push_unhung h
  rw [← hq, ← hw] at e
  have cores := cores_qPush _ _ _ _ _ e
  have a := alone_cores cores (alone_unhung h)
  have ended : ((retireOn v r []).core r).hang = none := by
    rw [core_retireOn _ _ _ _ (cores ▸ cores_setCore _ _ _ h.cores), if_pos rfl]
    show (List.foldl CoreState.commit (v.core r) (v.core r).w2).hang = none
    rw [hang_commits, State.core, cores]
    exact congrArg CoreState.hang (core_unhung h)
  rw [pushRelease_push h hr, retry_push h, qputBody_pushes e]
  dsimp only
  rw [applyOut_done a.lock a.rep, ended]
  rfl

theorem pushRelease_waits (hr : r < 256) (e : qPush (unhung s r) r (ownQ s r) (offered s r ra) = none) :
    exec (.pushRelease r) s = answer (noteStarved s) := by
  obtain ⟨hq, hw⟩ := push_unhung h
  rw [← hq, ← hw] at e
  rw [pushRelease_push h hr, retry_push h, qputBody_waits e]
  dsimp only
  rw [core_waits (cores_setCore _ _ _ h.cores) (alone_unhung h).lock]
  rfl

end

/-- SENTINEL_FIRE runs at its instant. -/
theorem sentinelFire_runs (s : State) (t : Nat) {r : Nat} (hr : r < 256) :
    exec (.sentinelFire t r) s = answer (sentinelFire (s.reach t) r) :=
  congrArg answer (if_pos hr)

/-- A core's sentinel limit. -/
abbrev limitOf (u : State) (r : Nat) : Word := u.reg .heath 0 (HEATH_SENTINEL + 4 * r)

/-- The counts of a sentinel that fires, and the access withdrawn. -/
abbrev withdrawn (u : State) (r : Nat) : State :=
  unhung ((u.bump .heath 0 (HEATH_SENTINEL_CNT + 4 * r)).bump .meadow (r / 8) MEADOW_CNT_SENTINEL) r

section
variable {u : State} {r : Nat}

theorem sentinelFire_idle (h : (u.core r).hang = none ∨ bit (limitOf u r) 17 = false) : sentinelFire u r = u := by
  unfold sentinelFire
  dsimp only
  split
  next x e => exact if_neg fun k => by simp [k.1, e] at h
  next => rfl

section
variable {x : HangSt} (h : (u.core r).hang = some x)
include h

theorem sentinelFire_early (hl : u.uptime < x.since + bits (limitOf u r) 16 0 * 1000) : sentinelFire u r = u := by
  rw [sentinelFire, h]
  exact if_neg fun k => Nat.not_le.2 hl k.2.2

/-- In a sound block an access that has waited to its limit is withdrawn and its core traps, TPC the access. -/
theorem sentinelFire_traps (hc : Rising u.cores) (he : bit (limitOf u r) 17 = true) (hl : x.since + bits (limitOf u r) 16 0 * 1000 ≤ u.uptime)
    (hu : (u.core r).upper = false) (hs : (u.core r).lockstep = false) (hp : (u.core r).rep = none) :
    sentinelFire u r =
      sleepJudge (noteStarved (takeTrap (withdrawn u r) r 10 x.what.tval ((withdrawn u r).core r).pc 0)) (r / 8) := by
  have pair : pairOf ((u.bump .heath 0 (HEATH_SENTINEL_CNT + 4 * r)).bump .meadow (r / 8) MEADOW_CNT_SENTINEL) r = [r] := pairOf_alone hs
  have rep : ((withdrawn u r).core r).rep = none := (congrArg CoreState.rep (core_setCore_same _ _ _ hc)).trans hp
  rw [sentinelFire, h]
  refine (if_pos ⟨he, hu, hl⟩).trans ?_
  dsimp only
  rw [pair, List.foldl_cons, List.foldl_nil, syncTrap, rep]

end

end

/-- O24 with the premise that its clause of the sentinel lacks: the block is sound. -/
def WaitsInMemorySound : Prop :=
  (∀ (s : State) (r since : Nat) (ra : Reg), Canonical s → r < 256 →
      (s.core r).hang = some ⟨.push (ownQ s r) (offered s r ra), encQ 0 ra 1, since⟩ →
      (s.core r).upper = false → (s.core r).lockstep = false → (s.core r).rep = none →
      (∀ v, qPush (unhung s r) r (ownQ s r) (offered s r ra) = some v → exec (.pushRelease r) s = answer (noteStarved (retireOn v r []))) ∧
      (qPush (unhung s r) r (ownQ s r) (offered s r ra) = none → exec (.pushRelease r) s = answer (noteStarved s))) ∧
  (∀ (s : State) (t r : Nat), Canonical s → r < 256 → let u := s.reach t
      (∀ x, (u.core r).hang = some x → bit (limitOf u r) 17 = true → x.since + bits (limitOf u r) 16 0 * 1000 ≤ u.uptime →
        (u.core r).upper = false → (u.core r).lockstep = false → (u.core r).rep = none → let v := withdrawn u r
        exec (.sentinelFire t r) s = answer (sleepJudge (noteStarved (takeTrap v r 10 x.what.tval (v.core r).pc 0)) (r / 8))) ∧
      ((u.core r).hang = none ∨ bit (limitOf u r) 17 = false → exec (.sentinelFire t r) s = answer u) ∧
      (∀ x, (u.core r).hang = some x → u.uptime < x.since + bits (limitOf u r) 16 0 * 1000 → exec (.sentinelFire t r) s = answer u))

theorem waitsInMemorySound : WaitsInMemorySound := by
  refine ⟨fun s r since ra hs hr hh hu hl hp => ?release, fun s t r hs hr => ?sentinel⟩
  case release =>
    have waits : PushWaits s r ra since := ⟨rising_of_canonical hs, hh, hu, hl, hp⟩
    exact ⟨fun v => pushRelease_completes waits hr, pushRelease_waits waits hr⟩
  case sentinel =>
    have rises : Rising (s.reach t).cores := rising_of_canonical (k_reach (P := T) s t ⟨trivial, hs⟩).canon
    dsimp only
    rw [sentinelFire_runs s t hr]
    exact ⟨fun x hh he hl hu ha hp => congrArg answer (sentinelFire_traps hh rises he hl hu ha hp),
      fun h => congrArg answer (sentinelFire_idle h), fun x hh hl => congrArg answer (sentinelFire_early hh hl)⟩

/-- Two entries for core 0, which no canonical table has. Its first entry is what is left of a reset core but for a push that waits; the
second is in the middle of a repeat. The sentinel of core 0 is enabled with limit 0. -/
def twoCores : State :=
  ({ cores := [(0, { hang := some ⟨.push 0 0, 0, 0⟩ }), (0, { rep := some ⟨5, 0x40, none, []⟩ })] } : State).setReg .heath 0
    HEATH_SENTINEL 0x20000#32

/-- With the wait withdrawn the first entry is a reset core and goes; the core then reads as the second, and its trap is that of
a repeat. -/
theorem twoCores_tpc :
    ((settle (sentinelFire (twoCores.reach 0) 0)).core 0).tpc = 0x40 ∧
      ((settle (sleepJudge (noteStarved (takeTrap (withdrawn (twoCores.reach 0) 0) 0 10 (Hang.push 0 0).tval
        ((withdrawn (twoCores.reach 0) 0).core 0).pc 0)) (0 / 8))).core 0).tpc = 0 := by
  decide +kernel

/-- Refutes O24: its clause of a sentinel that fires lacks the premise `Canonical`, and the trap of a core that stands twice in the
table is that of its second entry. -/
theorem not_waitsInMemory : ¬ Obligations.WaitsInMemory := by
  intro h
  obtain ⟨-, sentinel⟩ := h
  obtain ⟨fires, -⟩ := sentinel twoCores 0 0 (by decide)
  have claim := (sentinelFire_runs twoCores 0 (by decide)).symm.trans
    (fires ⟨.push 0 0, 0, 0⟩ (by decide) (by decide) (by decide) (by decide) (by decide) (by decide))
  obtain ⟨ran, claimed⟩ := twoCores_tpc
  have same : (0x40 : Word) = 0 := ran.symm.trans ((congrArg (fun u => (State.core u 0).tpc) (Host.Outcome.next.inj claim)).trans claimed)
  exact absurd same (by decide)

end Sys2Proof.Proofs
end

section
namespace Sys2Proof.Proofs

open Sys2Proof.Machine Sys2Proof.Laws

/-! What the events of a power sequence do, case by case (R165 to R167, R419 to R421, R447, R448, R450, R453, R454) -/

/-- An answer that hangs on one condition, as its two cases. -/
theorem answer_cases {p : Prop} [Decidable p] {u v : State} {r : Answer} (run : r = answer (if p then u else v)) :
    (p → r = answer u) ∧ (¬p → r = answer v) :=
  ⟨fun h => run.trans (congrArg answer (if_pos h)), fun h => run.trans (congrArg answer (if_neg h))⟩

section
variable {s : State} {d : Nat}

theorem powerDrained_stays (h : (s.dom d).st ≠ .stopping) : powerDrained s d = s := if_neg h

section
variable (h : (s.dom d).st = .stopping)
include h

/-- A meadow put to rest for which work has come goes on. -/
theorem powerDrained_abandons (hd : d < 32) (hs : (s.meadow d).sleepOff = true) (hw : wakeWaiting s d = true) :
    powerDrained s d = abandonOff s d :=
  (if_pos h).trans (if_pos ⟨hd, hs, hw⟩)

theorem powerDrained_ends (hw : ¬(d < 32 ∧ (s.meadow d).sleepOff = true ∧ wakeWaiting s d = true)) : powerDrained s d = domOff s d :=
  (if_pos h).trans (if_neg hw)

end

section
variable (h : s.xref.st = 1 ∧ s.xref.since + 10000000 ≤ s.uptime)
include h

/-- The first time that the oscillator is late it starts again, and the retry counts and fires. -/
theorem xrefTimeout_retries (hr : s.xref.retry = false) :
    xrefTimeout s =
      (({ s with xref := { st := 1, retry := true, since := s.uptime } } : State).bump .heath 0 HEATH_WAKE_CNT_RETRIES).fire1 (prodSeq 3) :=
  (if_pos h).trans (if_pos hr)

theorem xrefTimeout_lost (hr : s.xref.retry = true) : xrefTimeout s = xrefLost s :=
  (if_pos h).trans (if_neg (by simp [hr]))

end

/-- PLL_LOCK ends step 3 of a start. -/
theorem pllLock_starting (h : (s.dom d).st = .starting ∧ (s.dom d).step = 3) :
    pllLock s d = (let v := (islandsOf d).foldl releaseSeam s
                   v.modDom d fun x => { x with step := 6, since := v.uptime }) :=
  if_pos h

section
variable (h : ¬((s.dom d).st = .starting ∧ (s.dom d).step = 3))
include h

/-- A channel that runs and relocks its PLL gets its islands back. -/
theorem pllLock_relocks (hc : chanRelock s d = true) : pllLock s d = (islandsOf d).foldl releaseSeam s :=
  (if_neg h).trans (if_pos hc)

theorem pllLock_stays (hc : chanRelock s d = false) : pllLock s d = s :=
  (if_neg h).trans (if_neg (by simp [hc]))

end

section
variable {failed eye group : Nat}

/-- A channel that runs and relocks goes on with a new calibration, and is not started. -/
theorem ownStart_relocks (hc : chanRelock s d = true) :
    ownStart s d failed eye group =
      recal (((islandsOf d).foldl (fun v k => seamLive (releaseSeam v k) k) s).modChan (d - 44) fun y => { y with paused := false }) (d - 44)
        eye group :=
  if_pos hc

section
variable (hc : chanRelock s d = false)
include hc

/-- Outside the domain's own step of its start, behind held pads, or before the image path is ready, nothing is done. -/
theorem ownStart_stays
    (h : ¬((s.dom d).st = .starting ∧ (s.dom d).step = 6 ∧ (d < 44 ∨ 47 < d ∨ padFree s d = true) ∧ (32 ≤ d ∨ s.mantle.reloadReady = true))) :
    ownStart s d failed eye group = s :=
  (if_neg (by simp [hc])).trans (if_neg h)

section
variable (h : (s.dom d).st = .starting ∧ (s.dom d).step = 6 ∧ (d < 44 ∨ 47 < d ∨ padFree s d = true) ∧ (32 ≤ d ∨ s.mantle.reloadReady = true))
include h

/-- A domain that is no channel is judged by the code it gives alone. -/
theorem ownStart_judged (hd : d < 44 ∨ 47 < d) :
    ownStart s d failed eye group = if failed = 0 then domUp s d else stepFailed s d failed := by
  have noChannel : ¬(44 ≤ d ∧ d < 48) := by omega
  rw [ownStart, if_neg (by simp [hc]), if_pos h, if_neg noChannel]
  exact ite_not ..

/-- A channel is judged by its calibration too: fewer than 8 taps are code 4, and codes 4 and 5 count. -/
theorem ownStart_calibrated (hd : 44 ≤ d ∧ d < 48) :
    ownStart s d failed eye group =
      (let code := if failed = 0 ∧ eye < 8 then 4 else failed
       if code = 0 then domUp (chanStart s (d - 44) eye group) d
       else stepFailed (if code = 4 ∨ code = 5 then s.bump .qdr (d - 44) QDR_CNT_CAL_FAIL else s) d code) := by
  rw [ownStart, if_neg (by simp [hc]), if_pos h, if_pos hd]
  dsimp only
  generalize (if failed = 0 ∧ eye < 8 then 4 else failed) = code
  by_cases hcal : code = 4 ∨ code = 5
  · have hne : code ≠ 0 := by omega
    rw [if_pos hcal, if_pos hcal, if_neg hne]
  · rw [if_neg hcal, if_neg hcal]
    exact ite_not ..

end

end

end

end

/-- Settles O45: each command does its function's work at its instant, and the function's cases are those of the statement. -/
theorem powerTimers : Obligations.PowerTimers := by
  refine ⟨fun s t d hd => ?drained, fun s t d hd => ?good, fun s t d hd => ?goodTimeout, fun s t => ?xrefReady, fun s t => ?xrefTimeout,
    fun s t d hd => ?lock, fun s t d hd => ?lockTimeout, fun s t d failed eye group hd => ?ownStart, fun s t d hd => ?ownTimeout,
    fun s t d hd => ?restart, fun s t => ?path⟩
  case drained =>
    have run : exec (.powerDownDrained t d) s = answer (powerDrained (s.reach t) d) :=
      answerAt_within (decide_eq_true hd) s t (powerDrained · d)
    rw [run]
    exact ⟨fun h => congrArg answer (powerDrained_stays h), fun h hm hs hw => congrArg answer (powerDrained_abandons h hm hs hw),
      fun h hw => congrArg answer (powerDrained_ends h hw)⟩
  case good => exact (answer_cases (answerAt_within (decide_eq_true hd) s t (powerGood · d))).symm
  case goodTimeout => exact answer_cases (answerAt_within (decide_eq_true hd) s t (powerGoodTimeout · d))
  case xrefReady =>
    have run : exec (.xrefReady t) s = answer (xrefReady (s.reach t)) := rfl
    exact (answer_cases run).symm
  case xrefTimeout =>
    have run : exec (.xrefTimeout t) s = answer (xrefTimeout (s.reach t)) := rfl
    rw [run]
    exact ⟨fun h => congrArg answer (if_neg h), fun h hr => congrArg answer (xrefTimeout_retries h hr),
      fun h hr => congrArg answer (xrefTimeout_lost h hr)⟩
  case lock =>
    have run : exec (.pllLock t d) s = answer (pllLock (s.reach t) d) := answerAt_within (decide_eq_true hd) s t (pllLock · d)
    rw [run]
    exact ⟨fun h => congrArg answer (pllLock_starting h), fun h hc => congrArg answer (pllLock_relocks h hc),
      fun h hc => congrArg answer (pllLock_stays h hc)⟩
  case lockTimeout => exact answer_cases (answerAt_within (decide_eq_true hd) s t (pllTimeout · d))
  case ownStart =>
    have run : exec (.ownStartDone t d failed eye group) s = answer (ownStart (s.reach t) d failed eye group) :=
      answerAt_within (decide_eq_true hd) s t (ownStart · d failed eye group)
    rw [run]
    exact ⟨fun hc => congrArg answer (ownStart_relocks hc), fun hc h => congrArg answer (ownStart_stays hc h),
      fun hc h hn => congrArg answer (ownStart_judged hc h hn), fun hc h hn => congrArg answer (ownStart_calibrated hc h hn)⟩
  case ownTimeout => exact answer_cases (answerAt_within (decide_eq_true hd) s t (ownTimeout · d))
  case restart => exact answer_cases (answerAt_within (decide_eq_true hd) s t (retryRestart · d))
  case path =>
    have run : exec (.imageReloadPathReady t) s = answer (pathReady (s.reach t)) := rfl
    obtain ⟨ready, stays⟩ := answer_cases run
    exact ⟨ready, fun h => stays (by simp [h])⟩

end Sys2Proof.Proofs
end

section
namespace Sys2Proof.Proofs

open Sys2Proof.Machine Sys2Proof.Laws

/-! What each order of a meadow, the Heath, the timebase and the reset port does, once its checks have passed (R232, R398, R407, R421, R422,
R434, R435, R458, R561, R572) -/

/-- The cores that RELOAD_CORE reloads: the one named, with its partner in a lockstep pair (R398). -/
abbrev reloadMask (s : State) (m : Nat) (d : Desc) : Nat :=
  if (s.core (8 * m + d.target.toNat % 8)).lockstep then 3 * 4 ^ (d.target.toNat % 8 / 2) else 2 ^ (d.target.toNat % 8)

section
variable {s : State} {m : Nat} {d : Desc}

theorem orderReload_loads (h : (imageRead (stopCores s m (reloadMask s m d))).2 = true) :
    orderReload s m d =
      fin (loadCores (imageRead (stopCores s m (reloadMask s m d))).1 m (reloadMask s m d)) cDone (reloadMask s m d) :=
  if_pos h

/-- An image that cannot be read leaves the cores held (R421, log entry 100). -/
theorem orderReload_times_out (h : (imageRead (stopCores s m (reloadMask s m d))).2 = false) :
    orderReload s m d = fin (imageRead (stopCores s m (reloadMask s m d))).1 cTimeout :=
  if_neg (ne_true_of_eq_false h)

end

/-- Settles O31: each command submits its order, and what its block's work on it comes to becomes the completion, or the order stays open
until its domain has started or stopped. -/
theorem powerOrders : Obligations.PowerOrders := by
  refine ⟨fun s l d hl ht => ?reload, fun s l d hl ht => ?clearMeadow, fun s l d hl ht => ?start, fun s l d hl ht => ?stop,
    fun s d hd ht => ?retry, fun s d ht => ?clearHeath, fun s d ht => ?clearWake, fun s d v ht => ?sample, fun s d ht => ?time,
    fun s d ht => ?clearTimebase, fun s d ht => ?reset, fun s d ht => ?clearSeams, fun s l d hl ht => ?clearUplink,
    fun s d ht => ?pending, fun s d ht => ?clearHedge⟩
  case reload =>
    have sent : orderIn (.reloadCore l d) = some (⟨.meadow, l, 1, d⟩, {}) := if_pos hl
    exact ⟨fun h => taken_gives s sent ht (by simp) (by simp) (orderReload_loads h),
      fun h => taken_gives s sent ht (by simp) (by simp) (orderReload_times_out h)⟩
  case clearMeadow =>
    have sent : orderIn (.meadowCountersClear l d) = some (⟨.meadow, l, 2, d⟩, {}) := if_pos hl
    exact taken_gives s sent ht (by simp) (by simp) rfl
  case start =>
    have sent : orderIn (.meadowStart l d) = some (⟨.meadow, l, 0x20, d⟩, {}) := if_pos hl
    exact taken_goes s sent ht (by simp) (by simp) rfl
  case stop =>
    have sent : orderIn (.meadowStop l d) = some (⟨.meadow, l, 0x21, d⟩, {}) := if_pos hl
    exact taken_goes s sent ht (by simp) (by simp) rfl
  case retry => exact taken_goes (c := .retryDomain d) s rfl ht (by simp) (fun h => hd h.2.2) rfl
  case clearHeath => exact taken_gives (c := .heathCountersClear d) s rfl ht (by simp) (by simp) rfl
  case clearWake => exact taken_gives (c := .wakeCountersClear d) s rfl ht (by simp) (by simp) rfl
  case sample => exact taken_gives (c := .sample d v) s rfl ht (by simp) (by simp) rfl
  case time => exact taken_gives (c := .timeSet d) s rfl ht (by simp) (by simp) rfl
  case clearTimebase => exact taken_gives (c := .tbCountersClear d) s rfl ht (by simp) (by simp) rfl
  case reset => exact taken_gives (c := .deviceReset d) s rfl ht (by simp) (by simp) rfl
  case clearSeams => exact taken_gives (c := .seamCountersClear d) s rfl ht (by simp) (by simp) rfl
  case clearUplink =>
    have sent : orderIn (.uplinkCountersClear l d) = some (⟨.upl, l, 1, d⟩, {}) := if_pos hl
    exact taken_gives s sent ht (by simp) (by simp) rfl
  case pending => exact taken_gives (c := .clearPending d) s rfl ht (by simp) (by simp) rfl
  case clearHedge => exact taken_gives (c := .hedgeCountersClear d) s rfl ht (by simp) (by simp) rfl

end Sys2Proof.Proofs
end

section
namespace Sys2Proof.Proofs

open Sys2Proof.Machine Sys2Proof.Laws

/-! What the events of task inputs and delays, and the inputs of the Heath and of Mantle, do, case by case (R215, R219, R225, R229, R231, R234,
R235, R239, R310, R548, log entries 3, 28, 46 and 68) -/

section
variable {s : State} {t hop : Nat}

theorem serveLatch_delivers (h : (s.ti t).latch = some hop) :
    serveLatch s t = deliver (s.modTi t fun x => { x with latch := none }) t hop := by
  rw [serveLatch, h]

theorem serveLatch_idles (h : (s.ti t).latch = none) :
    serveLatch s t = s.modTi t fun x => { x with phase := .idle, due := false, refrEnd := 0 } := by
  rw [serveLatch, h]

/-- The task of an input that is not busy, or in Shelf, does not end. -/
theorem tiEnd_stays (h : (s.ti t).phase ≠ .busy ∨ s.dev = .shelf) : tiEnd s t = s :=
  if_neg fun ⟨busy, awake⟩ => h.elim (absurd busy) awake

section
variable (hb : (s.ti t).phase = .busy) (hd : s.dev ≠ .shelf)
include hb hd

/-- What is left of the refractory interval begins. -/
theorem tiEnd_refractory (h : s.hclock < (s.ti t).refrEnd) :
    tiEnd s t = s.modTi t fun x => { x with phase := .refractory, due := false } :=
  (if_pos ⟨hb, hd⟩).trans (if_pos h)

theorem tiEnd_serves (h : ¬s.hclock < (s.ti t).refrEnd) : tiEnd s t = serveLatch s t :=
  (if_pos ⟨hb, hd⟩).trans (if_neg h)

end

theorem tiRefractoryEnd_serves (h : (s.ti t).phase = .refractory ∧ s.dev ≠ .shelf ∧ (s.ti t).refrEnd ≤ s.hclock) :
    tiRefractoryEnd s t = serveLatch s t :=
  if_pos h

end

section
variable {s : State} {k : Nat}

section
variable {e hop : Nat} (hs : tget none s.delays k = some (e, hop))
include hs

/-- The input's task ends before the delayed event is fired. -/
theorem delayEnd_fires (he : e ≤ s.hclock) (hd : s.dev ≠ .shelf) :
    delayEnd s k = (tiEnd { s with delays := tset none s.delays k none } (tiDelay k)).fire [(prodDelay k, hop + 1)] := by
  rw [delayEnd, hs]
  exact if_pos ⟨he, hd⟩

theorem delayEnd_early (h : s.hclock < e ∨ s.dev = .shelf) : delayEnd s k = s := by
  rw [delayEnd, hs]
  exact if_neg fun ⟨ended, awake⟩ => h.elim (Nat.not_lt.mpr ended) awake

end

theorem delayEnd_none (hs : tget none s.delays k = none) : delayEnd s k = s := by
  rw [delayEnd, hs]

end

section
variable {s : State}

/-- HC2 has never fired, or last fired at least 1 ms ago. -/
theorem hc2Rested_iff : (s.hc2At.all fun a => decide (a + 1000000 ≤ s.uptime)) = true ↔ ∀ a, s.hc2At = some a → a + 1000000 ≤ s.uptime := by
  simp only [Option.all_eq_true, decide_eq_true_eq]

theorem hc2Serve_fires (h2 : s.hc2Due = true) (hd : s.dev ≠ .shelf) (ha : ∀ a, s.hc2At = some a → a + 1000000 ≤ s.uptime) :
    hc2Serve s =
      fireRound (({ s with hc2Due := false, hc2At := some s.uptime } : State).bump .hedge 0 HEDGE_CNT_REPORTS) [(2, hopLimit s)] :=
  if_pos ⟨h2, hd, hc2Rested_iff.mpr ha⟩

/-- No report is due, or it is Shelf, or HC2 fired less than 1 ms ago. -/
theorem hc2Serve_waits (h : s.hc2Due = false ∨ s.dev = .shelf ∨ ∃ a, s.hc2At = some a ∧ s.uptime < a + 1000000) : hc2Serve s = s := by
  refine if_neg fun ⟨due, awake, rested⟩ => ?_
  obtain notDue | shelf | ⟨a, last, early⟩ := h
  · exact absurd due (by simp [notDue])
  · exact awake shelf
  · exact absurd (hc2Rested_iff.mp rested a last) (Nat.not_le.mpr early)

end

/-- Settles O43: each command does its function's work at its instant, and the function's cases are those of the statement. -/
theorem hedgeTimers : Obligations.HedgeTimers := by
  refine ⟨fun s events => ?producers, fun s t n hn => ?task, fun s t n hn => ?refractory, fun s t k hk => ?delayIn,
    fun s t k hk => ?delayOut, fun s t => ?hc2, fun s t k => ?mark, fun s t k hk => ?user, fun s t k hk => ?capture⟩
  case producers => rfl
  case task =>
    have run : exec (.taskEnd t n) s = answer (tiEnd (s.reach t) n) := answerAt_within (decide_eq_true hn) s t (tiEnd · n)
    rw [run]
    exact ⟨fun h => congrArg answer (tiEnd_stays h), fun hb hd h => congrArg answer (tiEnd_refractory hb hd h),
      fun hop hb hd h hl => congrArg answer ((tiEnd_serves hb hd h).trans (serveLatch_delivers hl)),
      fun hb hd h hl => congrArg answer ((tiEnd_serves hb hd h).trans (serveLatch_idles hl))⟩
  case refractory =>
    have run : exec (.refractoryEnd t n) s = answer (tiRefractoryEnd (s.reach t) n) :=
      answerAt_within (decide_eq_true hn) s t (tiRefractoryEnd · n)
    rw [run]
    exact ⟨fun h => congrArg answer (if_neg h),
      fun hop h hl => congrArg answer ((tiRefractoryEnd_serves h).trans (serveLatch_delivers hl)),
      fun h hl => congrArg answer ((tiRefractoryEnd_serves h).trans (serveLatch_idles hl))⟩
  case delayIn =>
    obtain ⟨starts, stays⟩ := answer_cases (answerAt_within (decide_eq_true hk) s t (delayStart · k))
    exact ⟨starts, fun h => stays (ne_true_of_eq_false h)⟩
  case delayOut =>
    have run : exec (.hedgeDelayExpiry t k) s = answer (delayEnd (s.reach t) k) :=
      answerAt_within (decide_eq_true hk) s t (delayEnd · k)
    rw [run]
    exact ⟨fun e hop hs he hd => congrArg answer (delayEnd_fires hs he hd), fun e hop hs h => congrArg answer (delayEnd_early hs h),
      fun hs => congrArg answer (delayEnd_none hs)⟩
  case hc2 =>
    have run : exec (.hc2Report t) s = answer (hc2Serve (s.reach t)) := rfl
    rw [run]
    exact ⟨fun h2 hd ha => congrArg answer (hc2Serve_fires h2 hd ha), fun h => congrArg answer (hc2Serve_waits h)⟩
  case mark =>
    have run : exec (.journalMarkInput t k) s = answer (Machine.journalMark (s.reach t) k) := rfl
    exact (answer_cases run).symm
  case user =>
    have run : exec (.userCount t k) s = answer (userServe (s.reach t) k) := rfl
    obtain ⟨counts, stays⟩ := answer_cases run
    exact ⟨fun h => counts ⟨hk, h⟩, fun h => stays fun due => ne_true_of_eq_false h due.2⟩
  case capture =>
    obtain ⟨captures, stays⟩ := answer_cases (answerAt_within (decide_eq_true hk) s t (captureServe · k))
    exact ⟨captures, fun h => stays (ne_true_of_eq_false h)⟩

end Sys2Proof.Proofs
end

section
namespace Sys2Proof.Proofs

open Sys2Proof.Machine Sys2Proof.Laws

/-! What each order of the life engine does, once its checks have passed (R253, R262, R263, R270, R273) -/

section
variable {s : State} {d : Desc}

section
variable {o : Option LifeRec} {r : LifeRec} (ho : o = some r)
include ho

/-- A record whose check sequence holds is given whole (R270). -/
theorem recResult_gives (hb : r.bad = false) : recResult s o = fin s cDone 1 (packWords (recBytes r)) := by
  rw [ho]
  exact if_neg (ne_true_of_eq_false hb)

theorem recResult_poisoned (hb : r.bad = true) : recResult s o = fin s cPoisoned := by
  rw [ho]
  exact if_pos hb

end

theorem recResult_none {o : Option LifeRec} (ho : o = none) : recResult s o = fin s cDone := by
  rw [ho]
  rfl

/-- The record that REGISTER_MODULE opens by hand for the serial of its ARG (R270). -/
abbrev manualRec (d : Desc) : LifeRec :=
  let r := recOf ((posTarget d.target).getD 0) (leBytes 8 d.arg.toNat)
  { r with check := crc16 (identBytes r), manual := true, registered := true }

section
variable {r : LifeRec} (ho : openRec s ((posTarget d.target).getD 0) = some r)
include ho

theorem orderRegister_registers (hs : r.serial = d.arg) :
    orderRegister s d = fin (setOpen s ((posTarget d.target).getD 0) (some { r with registered := true })) cDone := by
  unfold orderRegister
  dsimp only
  rw [ho]
  exact if_pos hs

theorem orderRegister_mismatch (hs : r.serial ≠ d.arg) : orderRegister s d = fin s cMismatch := by
  unfold orderRegister
  dsimp only
  rw [ho]
  exact if_neg hs

theorem orderClose_closes :
    orderClose s d =
      fin (writeCap (bumpLife (closeRec s ((posTarget d.target).getD 0) 4) LIFE_CNT_CLOSED) ((posTarget d.target).getD 0)) cDone 1 := by
  unfold orderClose
  dsimp only
  rw [ho]

end

section
variable (ho : openRec s ((posTarget d.target).getD 0) = none)
include ho

theorem orderRegister_opens : orderRegister s d = fin (openNew s ((posTarget d.target).getD 0) (manualRec d)) cDone 1 := by
  unfold orderRegister
  dsimp only
  rw [ho]

theorem orderClose_none : orderClose s d = fin s cDone := by
  unfold orderClose
  dsimp only
  rw [ho]

end

end

section
variable {c : Instr} {op : Nat} {d : Desc} {s u : State} (hc : orderIn c = some (⟨.life, 0, op, d⟩, {})) (ht : Taken s .life 0 op d)
include hc ht

/-- An order of the life engine that goes through and that the engine completes at once. -/
theorem lifeOrder_gives {code r : Nat} {x : List Dword} (hb : lifeBody op d (logged s .life 0 op d {}) = fin u code r x) :
    exec c s = orderDone u .life 0 op d code r x :=
  taken_gives s hc ht (by simp) (by simp) hb

/-- An order of the life engine that goes through and that the engine completes later. -/
theorem lifeOrder_goes (hb : lifeBody op d (logged s .life 0 op d {}) = later u) : exec c s = answer u :=
  taken_goes s hc ht (by simp) (by simp) hb

end

/-- Settles O29: each command submits its order, and what the engine's work on it comes to becomes the completion, or the order stays open
until its snapshots have left. -/
theorem lifeOrders : Obligations.LifeOrders := by
  refine ⟨fun s d ht => ?read, fun s d ht => ?readRetired, fun s d ht => ?register, fun s d ht => ?close, fun s d ht => ?snapshots,
    fun s d ht => ?clear⟩
  case read =>
    exact ⟨fun r ⟨ho, hb⟩ => lifeOrder_gives (c := .readRecord d) rfl ht (recResult_gives ho hb),
      fun r ⟨ho, hb⟩ => lifeOrder_gives (c := .readRecord d) rfl ht (recResult_poisoned ho hb),
      fun ho => lifeOrder_gives (c := .readRecord d) rfl ht (recResult_none ho)⟩
  case readRetired =>
    exact ⟨fun r ⟨ho, hb⟩ => lifeOrder_gives (c := .readRetired d) rfl ht (recResult_gives ho hb),
      fun r ⟨ho, hb⟩ => lifeOrder_gives (c := .readRetired d) rfl ht (recResult_poisoned ho hb),
      fun ho => lifeOrder_gives (c := .readRetired d) rfl ht (recResult_none ho)⟩
  case register =>
    exact ⟨fun r ⟨ho, hs⟩ => lifeOrder_gives (c := .registerModule d) rfl ht (orderRegister_registers ho hs),
      fun r ⟨ho, hs⟩ => lifeOrder_gives (c := .registerModule d) rfl ht (orderRegister_mismatch ho hs),
      fun ho => lifeOrder_gives (c := .registerModule d) rfl ht (orderRegister_opens ho)⟩
  case close =>
    exact ⟨fun r ho => lifeOrder_gives (c := .closeRecord d) rfl ht (orderClose_closes ho),
      fun ho => lifeOrder_gives (c := .closeRecord d) rfl ht (orderClose_none ho)⟩
  case snapshots => exact lifeOrder_goes (c := .exportAll d) rfl ht rfl
  case clear => exact lifeOrder_gives (c := .lifeCountersClear d) rfl ht rfl

end Sys2Proof.Proofs
end

section
namespace Sys2Proof.Proofs

open Sys2Proof.Machine Sys2Proof.Laws

/-! What the events of the life engine, the fault monitor and the statistics engine do, case by case (R254, R258, R263, R265, R266, R291, R292,
R299, R300, R303) -/

/-- What a packet meets that neither enters its queue nor is refused: it waits for room (R111). -/
theorem room_waits {x : Room} (h1 : x ≠ .ok) (h2 : x ≠ .refused) : x = .unavail ∨ x = .full ∨ x = .starved := by
  cases x with
  | ok => exact absurd rfl h1
  | refused => exact absurd rfl h2
  | unavail => exact .inl rfl
  | full => exact .inr (.inl rfl)
  | starved => exact .inr (.inr rfl)

section
variable {s : State}

section
variable {id : Bool}

theorem intakeServe_empty (hi : s.life.intake = []) : intakeServe s id = s := by
  rw [intakeServe, hi]

section
variable {f : Intake} {r : List Intake} (hi : s.life.intake = f :: r)
include hi

/-- The oldest frame leaves the intake and is applied as its kind asks (R265). -/
theorem intakeServe_applies (h : f.isId = id ∧ lifeRuns s = true) :
    intakeServe s id =
      (let v := s.modLife fun x => { x with intake := r }
       if id then idApply v f else energyApply v f) := by
  rw [intakeServe, hi]
  exact if_pos h

theorem intakeServe_waits (h : ¬(f.isId = id ∧ lifeRuns s = true)) : intakeServe s id = s := by
  rw [intakeServe, hi]
  exact if_neg h

end

end

/-- An engine that does not run, or has no notice, commits none. -/
theorem noticeServe_idle (h : lifeRuns s = false ∨ s.life.notices = []) : noticeServe s = s := by
  rw [noticeServe]
  obtain stopped | empty := h
  · rw [if_neg (ne_true_of_eq_false stopped)]
  · rw [empty]
    exact ite_self s

section
variable {n : Notice} {r : List Notice} {v : State} (hl : lifeRuns s = true) (hn : s.life.notices = n :: r)
include hl hn

theorem noticeServe_commits (ho : hwOffer s 4 0xD8511 n.words = (v, .ok)) :
    noticeServe s = (v.modLife fun x => { x with notices := r }).fire1 (prodLife (bnat n.eol)) := by
  rw [noticeServe, if_pos hl, hn]
  dsimp only
  rw [ho]

/-- A notice that its queue refuses is lost (R263). -/
theorem noticeServe_loses (ho : hwOffer s 4 0xD8511 n.words = (v, .refused)) :
    noticeServe s = bumpLife (v.modLife fun x => { x with notices := r }) LIFE_CNT_NOTICE_LOST := by
  rw [noticeServe, if_pos hl, hn]
  dsimp only
  rw [ho]

/-- A notice that finds no room stays the oldest. -/
theorem noticeServe_waits {x : Room} (ho : hwOffer s 4 0xD8511 n.words = (v, x)) (h1 : x ≠ .ok) (h2 : x ≠ .refused) :
    noticeServe s = v := by
  rw [noticeServe, if_pos hl, hn]
  dsimp only
  rw [ho]
  obtain rfl | rfl | rfl := room_waits h1 h2 <;> rfl

end

theorem exportServe_stopped (h : lifeRuns s = false) : exportServe s = s := if_neg (ne_true_of_eq_false h)

section
variable (hl : lifeRuns s = true)
include hl

/-- With no unexported record, or after a refusal, the snapshots that wait are all there is to serve (R263). -/
theorem exportServe_snapshots (h : nextExport s = none ∨ s.life.exportRefused = true) : exportServe s = exportAllServe s := by
  rw [exportServe, if_pos hl]
  obtain nothing | refused := h
  · rw [nothing]
  · rw [refused]
    cases nextExport s <;> rfl

section
variable {j : Nat} {r : LifeRec} {v : State} (hn : nextExport s = some (j, r)) (hr : s.life.exportRefused = false)
include hn hr

theorem exportServe_marks (ho : hwOffer s 2 0xD8510 (recPacket 0 r) = (v, .ok)) :
    exportServe s = exportAllServe (setRetired v j (some { r with exported := true })) := by
  rw [exportServe, if_pos hl, hn, hr]
  dsimp only
  rw [ho]

/-- A refused record stays unexported, and none is offered until the queue is enabled again (R263). -/
theorem exportServe_refused (ho : hwOffer s 2 0xD8510 (recPacket 0 r) = (v, .refused)) :
    exportServe s = exportAllServe (v.modLife fun x => { x with exportRefused := true }) := by
  rw [exportServe, if_pos hl, hn, hr]
  dsimp only
  rw [ho]

/-- A record that finds no room waits in the ring (R263). -/
theorem exportServe_waits {x : Room} (ho : hwOffer s 2 0xD8510 (recPacket 0 r) = (v, x)) (h1 : x ≠ .ok) (h2 : x ≠ .refused) :
    exportServe s = exportAllServe v := by
  rw [exportServe, if_pos hl, hn, hr]
  dsimp only
  rw [ho]
  obtain rfl | rfl | rfl := room_waits h1 h2 <;> rfl

end

end

/-- Models are chosen afresh only after a swap, by an engine that runs (R266). -/
theorem recomputeServe_idle (h : lifeRuns s = false ∨ s.life.recomputeDue = false) : recomputeServe s = s :=
  if_neg fun due => by
    obtain ⟨runs, asked⟩ := Bool.and_eq_true_iff.mp due
    exact h.elim (ne_true_of_eq_false · runs) (ne_true_of_eq_false · asked)

section
variable {p : FaultPkt} {rest : List FaultPkt}

/-- The oldest record packet has left the hold, taken by its queue or not: a snapshot counts its packets, HC0 fires where it is due, and the
next snapshot packets enter the hold (R291 to R293). -/
def packetLeft (s : State) (p : FaultPkt) (rest : List FaultPkt) (took : Bool) : State :=
  let v : State := { s with faultHold := rest }
  let v := if p.snap then snapLeft v took else v
  snapServe (if p.hc0 then fireHc0 v else v)

theorem faultCommit_empty (hh : s.faultHold = []) : faultCommit s = s := by
  rw [faultCommit, hh]

section
variable (hh : s.faultHold = p :: rest)
include hh

theorem faultCommit_unqueued (hq : p.q = none) : faultCommit s = packetLeft s p rest false := by
  rw [faultCommit, hh]
  dsimp only
  rw [hq]
  rfl

section
variable {q : Nat} {w : State} (hq : p.q = some q)
include hq

theorem faultCommit_leaves {took : Bool} (ho : hwOffer s 5 q p.words = (w, if took then .ok else .refused)) :
    faultCommit s = packetLeft w p rest took := by
  rw [faultCommit, hh]
  dsimp only
  rw [hq]
  dsimp only
  rw [ho]
  cases took <;> rfl

/-- A packet that finds no room stays the oldest of the hold (R291). -/
theorem faultCommit_waits {x : Room} (ho : hwOffer s 5 q p.words = (w, x)) (h1 : x ≠ .ok) (h2 : x ≠ .refused) : faultCommit s = w := by
  rw [faultCommit, hh]
  dsimp only
  rw [hq]
  dsimp only
  rw [ho]
  obtain rfl | rfl | rfl := room_waits h1 h2 <;> rfl

end

end

end

theorem periodBoundary_early (h : s.timeSet = false ∨ s.utcSec < s.stats.nextUtc) : periodBoundary s = s :=
  if_neg fun ⟨set_, come⟩ => h.elim (ne_true_of_eq_false · set_) (Nat.not_lt.mpr come)

end

/-- Settles O47: each command does its function's work at its instant, and the function's cases are those of the statement. -/
theorem lifeTimers : Obligations.LifeTimers := by
  refine ⟨fun s t => ?ident, fun s t => ?energy, fun s t => ?notice, fun s t => ?offer, fun s t => ?recompute, fun s t => ?caps,
    fun s t => ?packet, fun s t => ?boundary⟩
  case ident =>
    have run : exec (.lifeIdApply t) s = answer (intakeServe (s.reach t) true) := rfl
    rw [run]
    exact ⟨fun f r hi h => congrArg answer (intakeServe_applies hi h), fun f r hi h => congrArg answer (intakeServe_waits hi h),
      fun hi => congrArg answer (intakeServe_empty hi)⟩
  case energy =>
    have run : exec (.lifeEnergyApply t) s = answer (intakeServe (s.reach t) false) := rfl
    rw [run]
    exact ⟨fun f r hi h => congrArg answer (intakeServe_applies hi h), fun f r hi h => congrArg answer (intakeServe_waits hi h),
      fun hi => congrArg answer (intakeServe_empty hi)⟩
  case notice =>
    have run : exec (.lifeNoticeCommit t) s = answer (noticeServe (s.reach t)) := rfl
    rw [run]
    exact ⟨fun h => congrArg answer (noticeServe_idle h), fun n r v hl hn ho => congrArg answer (noticeServe_commits hl hn ho),
      fun n r v hl hn ho => congrArg answer (noticeServe_loses hl hn ho),
      fun n r v x hl hn ho h1 h2 => congrArg answer (noticeServe_waits hl hn ho h1 h2)⟩
  case offer =>
    have run : exec (.lifeExport t) s = answer (exportServe (s.reach t)) := rfl
    rw [run]
    exact ⟨fun h => congrArg answer (exportServe_stopped h), fun hl h => congrArg answer (exportServe_snapshots hl h),
      fun j r v hl hn hr ho => congrArg answer (exportServe_marks hl hn hr ho),
      fun j r v hl hn hr ho => congrArg answer (exportServe_refused hl hn hr ho),
      fun j r v x hl hn hr ho h1 h2 => congrArg answer (exportServe_waits hl hn hr ho h1 h2)⟩
  case recompute =>
    have run : exec (.lifeModelRecompute t) s = answer (recomputeServe (s.reach t)) := rfl
    rw [run]
    exact ⟨fun h => congrArg answer (recomputeServe_idle h),
      fun hl hd => congrArg answer (if_pos (Bool.and_eq_true_iff.mpr ⟨hl, hd⟩))⟩
  case caps =>
    have run : exec (.capRefresh t) s = answer (capServe (s.reach t)) := rfl
    obtain ⟨writes, stays⟩ := answer_cases run
    exact ⟨fun h => stays (ne_true_of_eq_false h), writes⟩
  case packet =>
    have run : exec (.faultPacketCommit t) s = answer (faultCommit (s.reach t)) := rfl
    rw [run]
    exact ⟨fun hh => congrArg answer (faultCommit_empty hh), fun p rest hh hq => congrArg answer (faultCommit_unqueued hh hq),
      fun p rest q w took hh hq ho => congrArg answer (faultCommit_leaves hh hq ho),
      fun p rest q w x hh hq ho h1 h2 => congrArg answer (faultCommit_waits hh hq ho h1 h2)⟩
  case boundary =>
    have run : exec (.periodBoundary t) s = answer (Machine.periodBoundary (s.reach t)) := rfl
    rw [run]
    exact ⟨fun h => congrArg answer (periodBoundary_early h), fun hs hn => congrArg answer (if_pos ⟨hs, hn⟩)⟩

end Sys2Proof.Proofs
end

section
namespace Sys2Proof.Proofs

open Sys2Proof.Machine Sys2Proof.Laws

/-! What resets, the stages of boot, alarms and whole seconds do, case by case (R268, R522, R548, R568, R569, R571 to R573, R576 to R578, R607,
log entries 27, 56, 58 and 179) -/

section
variable {s : State} {k : Nat} {skip : List Nat}

/-- A source that acts during a reset only sets its bit of CAUSE (R571). -/
theorem deviceReset_during (h : s.boot.inReset = true) : Machine.deviceReset s k skip = s.modBoot fun b => { b with cause := causeWith s k } :=
  if_pos h

theorem deviceResetTimer_unset (h : s.boot.resetAt = none) : Machine.deviceResetTimer s = s := by
  rw [Machine.deviceResetTimer, h]

section
variable {a : Nat} (h : s.boot.resetAt = some a)
include h

/-- The reset ordered begins once it is due and no completion of the reset port is held (R572). -/
theorem deviceResetTimer_resets (hd : a ≤ s.uptime ∧ (s.heldComps.all fun h => decide (h.blk ≠ .pad)) = true) :
    Machine.deviceResetTimer s = Machine.deviceReset (s.modBoot fun b => { b with resetAt := none }) 3 [] := by
  rw [Machine.deviceResetTimer, h]
  exact if_pos hd

theorem deviceResetTimer_waits (hd : ¬(a ≤ s.uptime ∧ (s.heldComps.all fun h => decide (h.blk ≠ .pad)) = true)) :
    Machine.deviceResetTimer s = s := by
  rw [Machine.deviceResetTimer, h]
  exact if_neg hd

end

end

section
variable {s : State}

/-- A slot that failed in stage 1 gives way to the next (R576). -/
theorem bootFallback_chooses (h : mantleRuns s = true ∧ s.boot.step = 5) : Machine.bootFallback s = chooseSlot s := if_pos h

/-- A slot that failed in stage 2 ends the boot by a reset that leaves out the slots tried (R576). -/
theorem bootFallback_resets (h : s.boot.step = 9) : Machine.bootFallback s = Machine.deviceReset s 4 (s.boot.skip ++ s.boot.tried) :=
  (if_neg fun ⟨_, five⟩ => absurd (h.symm.trans five) (by decide)).trans (if_pos h)

theorem bootFallback_idle (h5 : ¬(mantleRuns s = true ∧ s.boot.step = 5)) (h9 : s.boot.step ≠ 9) : Machine.bootFallback s = s :=
  (if_neg h5).trans (if_neg h9)

end

section
variable {s : State} {k : Nat}

theorem alarmServe_unarmed (h : tget none s.tb.alarms k = none) : alarmServe s k = s := by
  rw [alarmServe, h]

section
variable {a : Nat} (h : tget none s.tb.alarms k = some a)
include h

theorem alarmServe_early (ha : s.townNs < a) : alarmServe s k = s := by
  rw [alarmServe, h]
  exact if_neg (Nat.not_le.mpr ha)

section
variable (ha : a ≤ s.townNs)
include ha

/-- A one-shot alarm fires once and is no longer enabled (R548). -/
theorem alarmServe_ends (hp : s.fld .heath 0 (HEATH_TB_ALARM_C + 0x10 * k) 23 0 * 1000000 = 0) :
    alarmServe s k = alarmWake (((s.setFld .heath 0 (HEATH_TB_ALARM_B + 0x10 * k) 30 30 0).modTb fun x =>
      { x with alarms := tset none x.alarms k none }).fire1 (prodAlarm k)) k := by
  rw [alarmServe, h]
  refine (if_pos ha).trans ?_
  dsimp only
  rw [if_pos hp]

/-- A periodic alarm is set to the first of its times that lies after this instant (R548). -/
theorem alarmServe_repeats {p : Nat} (hp : s.fld .heath 0 (HEATH_TB_ALARM_C + 0x10 * k) 23 0 * 1000000 = p) (h0 : p ≠ 0) :
    alarmServe s k =
      (let next := a + ((s.townNs - a) / p + 1) * p
       let v := (s.setReg .heath 0 (HEATH_TB_ALARM_A + 0x10 * k) (w32 (next / 1000000000))).setFld .heath 0
         (HEATH_TB_ALARM_B + 0x10 * k) 29 0 (next % 1000000000)
       alarmWake ((v.modTb fun x => { x with alarms := tset none x.alarms k (some next) }).fire1 (prodAlarm k)) k) := by
  rw [alarmServe, h]
  refine (if_pos ha).trans ?_
  dsimp only
  rw [hp, if_neg h0]

end

end

end

/-- Settles O53: each command does its function's work at its instant, and the function's cases are those of the statement. -/
theorem bootEvents : Obligations.BootEvents := by
  refine ⟨fun s t loss => ?powerOn, fun s t => ?pin, fun s t => ?timer, fun s t bootsel maddr install => ?release, fun s t => ?rom,
    fun s t => ?stage1, fun s t => ?stage2, fun s t => ?fallback, fun s t k hk => ?alarm, fun s t => ?pps⟩
  case powerOn => rfl
  case pin =>
    have run : exec (.resetN t) s = answer (Machine.deviceReset (s.reach t) 2 []) := rfl
    rw [run]
    exact ⟨fun h => congrArg answer (deviceReset_during h), fun h => congrArg answer (if_neg (ne_true_of_eq_false h))⟩
  case timer =>
    have run : exec (.deviceResetTimer t) s = answer (Machine.deviceResetTimer (s.reach t)) := rfl
    rw [run]
    exact ⟨fun a h hd => congrArg answer (deviceResetTimer_resets h hd), fun a h hd => congrArg answer (deviceResetTimer_waits h hd),
      fun h => congrArg answer (deviceResetTimer_unset h)⟩
  case release =>
    have run : exec (.resetRelease t bootsel maddr install) s = answer (Machine.resetRelease (s.reach t) bootsel maddr install) := rfl
    obtain ⟨releases, stays⟩ := answer_cases run
    exact ⟨releases, fun h => stays (ne_true_of_eq_false h)⟩
  case rom =>
    have run : exec (.mantleRomVerify t) s = answer (romVerify (s.reach t)) := rfl
    exact answer_cases run
  case stage1 =>
    have run : exec (.bootStage1 t) s = answer (Machine.bootStage1 (s.reach t)) := rfl
    obtain ⟨begins, stays⟩ := answer_cases run
    -- the verdict on the panels of stage 1 decides; the statement writes it over the state before the stage
    refine ⟨stays, fun f h hf => ?fails, fun h hn => ?loads⟩
    case fails =>
      rw [begins h]
      extract_lets k bs ps mine x w
      rw [show slotBad w bs x.1 stage1Types = some f from hf]
    case loads =>
      rw [begins h]
      extract_lets k bs ps mine x w
      rw [show slotBad w bs x.1 stage1Types = none from hn]
  case stage2 =>
    have run : exec (.bootStage2 t) s = answer (Machine.bootStage2 (s.reach t)) := rfl
    obtain ⟨begins, stays⟩ := answer_cases run
    exact ⟨stays, fun h hc => (begins h).trans (congrArg answer (if_pos hc)),
      fun h hc => (begins h).trans (congrArg answer (if_neg (not_not.mpr hc)))⟩
  case fallback =>
    have run : exec (.bootFallback t) s = answer (Machine.bootFallback (s.reach t)) := rfl
    rw [run]
    exact ⟨fun h => congrArg answer (bootFallback_chooses h), fun h => congrArg answer (bootFallback_resets h),
      fun h5 h9 => congrArg answer (bootFallback_idle h5 h9)⟩
  case alarm =>
    have run : exec (.alarm t k) s = answer (alarmServe (s.reach t) k) := answerAt_within (decide_eq_true hk) s t (alarmServe · k)
    rw [run]
    exact ⟨fun h => congrArg answer (alarmServe_unarmed h), fun a h ha => congrArg answer (alarmServe_early h ha),
      fun a h ha hp => congrArg answer (alarmServe_ends h ha hp),
      fun a p h ha hp h0 => congrArg answer (alarmServe_repeats h ha hp h0)⟩
  case pps =>
    have run : exec (.pps t) s = answer (ppsServe (s.reach t)) := rfl
    obtain ⟨fires, stays⟩ := answer_cases run
    exact ⟨fires, fun h => stays (not_not.mpr h)⟩

end Sys2Proof.Proofs
end

section
namespace Sys2Proof.Proofs

open Sys2Proof.Machine Sys2Proof.Laws

/-! What each order of the statistics and fault engine does, once its checks have passed (R289, R293, R298, R300, R302, R312) -/

section
variable {s : State} {d : Desc}

/-! An order for an entry of the fault table, whose TARGET names one or none (R293) -/

section
variable (hn : targetEntry s d.target = none)
include hn

theorem orderAckFault_noEntry : orderAckFault s d = noEntry s := by
  unfold orderAckFault
  rw [hn]

theorem orderReadFault_noEntry : orderReadFault s d = noEntry s := by
  unfold orderReadFault
  rw [hn]

theorem orderForceClear_noEntry : orderForceClear s d = noEntry s := by
  unfold orderForceClear
  rw [hn]

end

section
variable {e : Nat} (he : targetEntry s d.target = some e)
include he

/-- The acknowledger is the requester's role, with the slot of a signed request where one brought the order. -/
theorem orderAckFault_acks :
    orderAckFault s d =
      (let x := Machine.ackFault s e (s.roleOf d.req) (if d.req < 400 then 0 else s.signedSlot % 16)
       fin x.1 cDone x.2) := by
  unfold orderAckFault
  rw [he]

/-- The packet's words without its header. -/
theorem orderReadFault_gives :
    orderReadFault s d = fin s cDone (s.fault e).st.code ((faultWords (s.fault e) e 0 0 (s.fault e).lastT 0 0).drop 1) := by
  unfold orderReadFault
  rw [he]

theorem orderForceClear_frees : orderForceClear s d = fin (freeLater s e) cDone 1 := by
  unfold orderForceClear
  rw [he]

end

/-! SET_PERIOD (R300) -/

theorem orderSetPeriod_sets (h : bits d.arg 2 0 < 7) :
    orderSetPeriod s d = fin (setLength s (bits d.arg 2 0)) cDone (lenCode (setLength s (bits d.arg 2 0))) := by
  have inRange : decide (7 ≤ bits d.arg 2 0) = false := decide_eq_false (not_le.mpr h)
  unfold orderSetPeriod
  dsimp only
  rw [if_pos h, inRange]
  rfl

/-- The reserved code is clamped to code 4 (R299). -/
theorem orderSetPeriod_clamps (h : 7 ≤ bits d.arg 2 0) :
    orderSetPeriod s d = fin (setLength s 4) cClamped (lenCode (setLength s 4)) := by
  have outOfRange : decide (7 ≤ bits d.arg 2 0) = true := decide_eq_true h
  unfold orderSetPeriod
  dsimp only
  rw [if_neg (not_lt.mpr h), outOfRange]
  rfl

end

section
variable {c : Instr} {op : Nat} {d : Desc} {s u : State} (hc : orderIn c = some (⟨.stat, 0, op, d⟩, {})) (ht : Taken s .stat 0 op d)
include hc ht

/-- An order of the statistics and fault engine that goes through and that the engine completes at once. -/
theorem statOrder_gives {code r : Nat} {x : List Dword} (hb : statBody op d (logged s .stat 0 op d {}) = fin u code r x) :
    exec c s = orderDone u .stat 0 op d code r x :=
  taken_gives s hc ht (by simp) (by simp) hb

/-- An order of the statistics and fault engine that goes through and that the engine completes later. -/
theorem statOrder_goes (hb : statBody op d (logged s .stat 0 op d {}) = later u) : exec c s = answer u :=
  taken_goes s hc ht (by simp) (by simp) hb

end

/-- Settles O30: each command submits its order, and what the engine's work on it comes to becomes the completion, or the order stays open
until its snapshot's packets have left. -/
theorem statOrders : Obligations.StatOrders := by
  refine ⟨fun s d ht => ?acknowledge, fun s d ht => ?read, fun s d ht => ?snapshot, fun s d ht => ?force, fun s d ht => ?clear,
    fun s d ht => ?period, fun s d ht => ?redigest⟩
  case acknowledge =>
    exact ⟨fun hn => statOrder_gives (c := .ackFault d) rfl ht (orderAckFault_noEntry hn),
      fun e he => statOrder_gives (c := .ackFault d) rfl ht (orderAckFault_acks he)⟩
  case read =>
    exact ⟨fun hn => statOrder_gives (c := .readFault d) rfl ht (orderReadFault_noEntry hn),
      fun e he => statOrder_gives (c := .readFault d) rfl ht (orderReadFault_gives he)⟩
  case snapshot => exact statOrder_goes (c := .snapshot d) rfl ht rfl
  case force =>
    exact ⟨fun hn => statOrder_gives (c := .forceClear d) rfl ht (orderForceClear_noEntry hn),
      fun e he => statOrder_gives (c := .forceClear d) rfl ht (orderForceClear_frees he)⟩
  case clear => exact statOrder_gives (c := .fltCountersClear d) rfl ht rfl
  case period =>
    exact ⟨fun h => statOrder_gives (c := .setPeriod d) rfl ht (orderSetPeriod_sets h),
      fun h => statOrder_gives (c := .setPeriod d) rfl ht (orderSetPeriod_clamps h)⟩
  case redigest => exact statOrder_gives (c := .redigest d) rfl ht rfl

end Sys2Proof.Proofs
end

section
namespace Sys2Proof.Proofs

open Sys2Proof.Machine Sys2Proof.Laws

/-! The functions of the ALU group and the immediate operations in the terms of R324 to R326 -/

theorem flag_slt (a b : Word) : flag (a.slt b) = if a.toInt < b.toInt then 1 else 0 := by
  simp only [flag, BitVec.slt, decide_eq_true_eq]

theorem flag_ult (a b : Word) : flag (a.ult b) = if a.toNat < b.toNat then 1 else 0 := by
  simp only [flag, BitVec.ult, decide_eq_true_eq]

/-- A shift amount is the low five bits of a register. -/
theorem shiftAmount_low (b : Word) : b.toNat % 32 = (b.extractLsb' 0 5).toNat := by
  rw [BitVec.extractLsb'_toNat, Nat.shiftRight_zero]

/-- Where two values are equal it does not matter which way a choice by their order falls, so long as the choices are equal too. -/
theorem ite_lt_eq_ite_le {β : Type} [LinearOrder β] {u v : β} {x y : Word} (h : u = v → x = y) :
    (if u < v then x else y) = if u ≤ v then x else y := by
  rcases eq_or_ne u v with e | ne
  · rw [h e, ite_self, ite_self]
  · simp only [le_iff_lt_or_eq, ne, or_false]

section
variable (a b : Word)

theorem lesser_signed : (if a.slt b then a else b) = if a.toInt ≤ b.toInt then a else b := by
  simp only [BitVec.slt, decide_eq_true_eq]
  exact ite_lt_eq_ite_le BitVec.eq_of_toInt_eq

theorem greater_signed : (if a.slt b then b else a) = if a.toInt ≤ b.toInt then b else a := by
  simp only [BitVec.slt, decide_eq_true_eq]
  exact ite_lt_eq_ite_le fun e => (BitVec.eq_of_toInt_eq e).symm

theorem lesser_unsigned : (if a.ult b then a else b) = if a.toNat ≤ b.toNat then a else b := by
  simp only [BitVec.ult, decide_eq_true_eq]
  exact ite_lt_eq_ite_le BitVec.eq_of_toNat_eq

theorem greater_unsigned : (if a.ult b then b else a) = if a.toNat ≤ b.toNat then b else a := by
  simp only [BitVec.ult, decide_eq_true_eq]
  exact ite_lt_eq_ite_le fun e => (BitVec.eq_of_toNat_eq e).symm

end

/-- IMM16 extended with zeros. -/
theorem zeroExtend_append (imm : BitVec 16) : imm.setWidth 32 = 0#16 ++ imm := by
  apply BitVec.eq_of_toNat_eq
  have := imm.isLt
  rw [BitVec.toNat_setWidth, BitVec.toNat_append, BitVec.toNat_ofNat, Nat.zero_mod, Nat.zero_shiftLeft, Nat.zero_or]
  omega

section
variable {s : State} {r : Nat} (h : Ready s r) (w : Word) (rd ra rb : Reg)
include h

/-- A function of two registers gives RD what it comes to in the terms of the spec. -/
theorem alu2_gives_eq {f : Word → Word → Word} {v : Word} (e : f (gOf s r ra) (gOf s r rb) = v) :
    (.next (runInstr s r w true true (alu2 rd ra rb f)) : Answer) = gives s r rd v := by
  rw [alu2_gives h, e]

/-- So does a function of one. -/
theorem alu1_gives_eq {f : Word → Word} {v : Word} (e : f (gOf s r ra) = v) :
    (.next (runInstr s r w true true (alu1 rd ra f)) : Answer) = gives s r rd v := by
  rw [alu1_gives h, e]

end

/-- Settles O1: an ALU function gives RD its value of the registers as the instruction reads them, which is that of R324. -/
theorem aluRegister : Obligations.AluRegister := by
  intro s r h
  refine ⟨?add, ?sub, ?and, ?or, ?xor, ?nor, ?slt, ?sltu, ?sll, ?srl, ?sra, ?mul, ?mulh, ?mulhu, ?min, ?max, ?minu, ?maxu,
    ?slli, ?srli, ?srai, ?clz, ?sextb, ?sexth⟩
  case add => exact fun rd ra rb => alu2_gives h _ _ rd ra rb _
  case sub => exact fun rd ra rb => alu2_gives h _ _ rd ra rb _
  case and => exact fun rd ra rb => alu2_gives h _ _ rd ra rb _
  case or => exact fun rd ra rb => alu2_gives h _ _ rd ra rb _
  case xor => exact fun rd ra rb => alu2_gives h _ _ rd ra rb _
  case nor => exact fun rd ra rb => alu2_gives h _ _ rd ra rb _
  case slt => exact fun rd ra rb => alu2_gives_eq h _ rd ra rb (flag_slt ..)
  case sltu => exact fun rd ra rb => alu2_gives_eq h _ rd ra rb (flag_ult ..)
  case sll => exact fun rd ra rb => alu2_gives_eq h _ rd ra rb (by rw [shiftAmount_low])
  case srl => exact fun rd ra rb => alu2_gives_eq h _ rd ra rb (by rw [shiftAmount_low])
  case sra => exact fun rd ra rb => alu2_gives_eq h _ rd ra rb (by rw [shiftAmount_low])
  case mul => exact fun rd ra rb => alu2_gives h _ _ rd ra rb _
  case mulh => exact fun rd ra rb => alu2_gives_eq h _ rd ra rb (mulhi_wide ..)
  case mulhu => exact fun rd ra rb => alu2_gives_eq h _ rd ra rb (mulhiu_wide ..)
  case min => exact fun rd ra rb => alu2_gives_eq h _ rd ra rb (lesser_signed ..)
  case max => exact fun rd ra rb => alu2_gives_eq h _ rd ra rb (greater_signed ..)
  case minu => exact fun rd ra rb => alu2_gives_eq h _ rd ra rb (lesser_unsigned ..)
  case maxu => exact fun rd ra rb => alu2_gives_eq h _ rd ra rb (greater_unsigned ..)
  case slli => exact fun rd ra sh => alu1_gives h _ _ rd ra _
  case srli => exact fun rd ra sh => alu1_gives h _ _ rd ra _
  case srai => exact fun rd ra sh => alu1_gives h _ _ rd ra _
  case clz => exact fun rd ra => alu1_gives_eq h _ rd ra (congrArg w32 (clz_log2 _ 32 le_rfl (BitVec.isLt _)))
  case sextb => exact fun rd ra => alu1_gives_eq h _ rd ra (sext_sint 8 (.inl rfl) _)
  case sexth => exact fun rd ra => alu1_gives_eq h _ rd ra (sext_sint 16 (.inr rfl) _)

/-- Settles O2: quotients and remainders are those of R325, and sums, differences and products of words wrap. -/
theorem divisionResults : Obligations.DivisionResults := by
  intro s r h
  refine ⟨?div, ?divu, ?rem, ?remu, fun rd ra rb ea eb => ⟨?divOverflow, ?remOverflow⟩, fun rd ra rb => ⟨?add, ?sub, ?mul⟩⟩
  case div => exact fun rd ra rb => alu2_gives_eq h _ rd ra rb (quot_tdiv ..)
  case divu => exact fun rd ra rb => alu2_gives_eq h _ rd ra rb (quotu_div ..)
  case rem => exact fun rd ra rb => alu2_gives_eq h _ rd ra rb (remd_tmod ..)
  case remu => exact fun rd ra rb => alu2_gives_eq h _ rd ra rb (remdu_mod ..)
  case divOverflow =>
    refine (alu2_gives h _ _ rd ra rb quot).trans (gives_congr ?_)
    rw [ea, eb]
    rfl
  case remOverflow =>
    refine (alu2_gives h _ _ rd ra rb remd).trans (gives_congr ?_)
    rw [ea, eb]
    rfl
  case add => exact alu2_gives_eq h _ rd ra rb (by rw [w32, BitVec.ofNat_add, BitVec.ofNat_toNat, BitVec.ofNat_toNat, BitVec.setWidth_eq, BitVec.setWidth_eq])
  case sub => exact alu2_gives_eq h _ rd ra rb (BitVec.eq_of_toInt_eq (by rw [BitVec.toInt_sub, BitVec.toInt_ofInt]))
  case mul => exact alu2_gives_eq h _ rd ra rb (by rw [w32, BitVec.ofNat_mul, BitVec.ofNat_toNat, BitVec.ofNat_toNat, BitVec.setWidth_eq, BitVec.setWidth_eq])

/-- Settles O3: an immediate operation gives RD its value of RA and of IMM16 extended as R326 says. -/
theorem aluImmediate : Obligations.AluImmediate := by
  intro s r h
  refine ⟨?addi, ?slti, ?sltiu, ?andi, ?ori, ?xori, ?lui⟩
  case addi => exact fun rd ra imm => alu1_gives h _ _ rd ra _
  case slti =>
    exact fun rd ra imm => alu1_gives_eq h _ rd ra (by rw [flag_slt, BitVec.toInt_signExtend_of_le (by decide)])
  case sltiu => exact fun rd ra imm => alu1_gives_eq h _ rd ra (flag_ult ..)
  case andi => exact fun rd ra imm => alu1_gives_eq h _ rd ra (by rw [zeroExtend_append])
  case ori => exact fun rd ra imm => alu1_gives_eq h _ rd ra (by rw [zeroExtend_append])
  case xori => exact fun rd ra imm => alu1_gives_eq h _ rd ra (by rw [zeroExtend_append])
  case lui =>
    intro rd imm
    rw [← upper_half, ← zeroExtend_append]
    exact congrArg Host.Outcome.next (run_regs h _ _ _ _ rfl)

end Sys2Proof.Proofs
end

section
namespace Sys2Proof.Proofs

open Sys2Proof.Machine Sys2Proof.Laws

/-! What the ALU and immediate operations leave as it was -/

section
variable {s : State} {r : Nat} (h : Ready s r)
include h

/-- An instruction that gives `rd` a value and nothing else leaves every other part as it was. -/
theorem keeps_of_gives {x : Answer} {rd : Reg} {v : Word} (e : x = gives s r rd v) (t : State) (ht : x = .next t) : KeepsAllBut rd s t r := by
  obtain rfl := Host.Outcome.next.inj (e.symm.trans ht)
  exact retire_keeps h rd v

/-- A function of two registers. -/
theorem alu2_keeps {w : Reg → Reg → Reg → Word} {f : Word → Word → Word} (rd ra rb : Reg) (t : State) :
    (.next (runInstr s r (w rd ra rb) true true (alu2 rd ra rb f)) : Answer) = .next t → KeepsAllBut rd s t r :=
  keeps_of_gives h (alu2_gives h ..) t

/-- A function of one register. -/
theorem alu1_keeps {w : Reg → Reg → Word} {f : Word → Word} (rd ra : Reg) (t : State) :
    (.next (runInstr s r (w rd ra) true true (alu1 rd ra f)) : Answer) = .next t → KeepsAllBut rd s t r :=
  keeps_of_gives h (alu1_gives h ..) t

/-- A function of one register and a constant of the instruction. -/
theorem aluConst_keeps {α : Type} {w : Reg → Reg → α → Word} {f : α → Word → Word} (rd ra : Reg) (k : α) (t : State) :
    (.next (runInstr s r (w rd ra k) true true (alu1 rd ra (f k))) : Answer) = .next t → KeepsAllBut rd s t r :=
  keeps_of_gives h (alu1_gives h ..) t

theorem lui_keeps (rd : Reg) (imm : BitVec 16) (t : State) : exec (.lui r rd imm) s = .next t → KeepsAllBut rd s t r :=
  keeps_of_gives h (congrArg Host.Outcome.next (run_regs h _ _ _ [.g rd (imm.setWidth 32 <<< 16)] rfl)) t

end

/-- Settles O4: each operation is a function of two registers, of one, or of one and a constant, or it is LUI. -/
theorem aluFrame : Obligations.AluFrame := by
  intro s r h
  exact ⟨alu2_keeps h, alu2_keeps h, alu2_keeps h, alu2_keeps h, alu2_keeps h, alu2_keeps h, alu2_keeps h, alu2_keeps h,
    alu2_keeps h, alu2_keeps h, alu2_keeps h, alu2_keeps h, alu2_keeps h, alu2_keeps h, alu2_keeps h, alu2_keeps h,
    alu2_keeps h, alu2_keeps h, alu2_keeps h, alu2_keeps h, alu2_keeps h, alu2_keeps h,
    aluConst_keeps h, aluConst_keeps h, aluConst_keeps h, alu1_keeps h, alu1_keeps h, alu1_keeps h,
    aluConst_keeps h, aluConst_keeps h, aluConst_keeps h, aluConst_keeps h, aluConst_keeps h, aluConst_keeps h, lui_keeps h⟩

/-! The visibility rule (R352, R353) -/

/-- A core once an instruction with results `ws` has completed on it. -/
abbrev retired (c : CoreState) (ws : List RegWrite) : CoreState := { c.shift ws with resume := 0, pc := c.pc + 4 }

section
variable (c : CoreState) (a a' b : List RegWrite)

/-- The instruction after it reads what the one before the last wrote, whatever its own results are. -/
theorem sameRegs_retired : SameRegs (retired c a) (retired c a') := ⟨rfl, rfl, rfl, rfl, rfl, rfl, rfl, rfl⟩

/-- Its results are still on their way for the second instruction after it. -/
theorem sameRegs_retired_twice : SameRegs (retired (retired c a) b) (retired (retired c a') b) := by
  obtain ⟨g, cst, tvec, tpc, tcause, tval, trep, qid⟩ := sameRegs_foldl (sameRegs_retired c a a') c.w1
  exact ⟨g, cst, tvec, tpc, tcause, tval, trep, qid⟩

theorem greg_congr {c d : CoreState} (h : SameRegs c d) (n : Reg) : c.greg n = d.greg n := by
  rw [CoreState.greg, h.g, CoreState.greg]

theorem canonical_retired (h : twf (fun _ => 0) c.g = true) : twf (fun _ => 0) (retired c a).g = true :=
  wg_shift (ws := a) h

/-- They have arrived for the third. -/
theorem greg_retired_thrice (d : List RegWrite) (n : Reg) (v : Word) (h : twf (fun _ => 0) c.g = true) :
    (retired (retired (retired c [.g n v]) b) d).greg n = if n = 0 then 0 else v := by
  have rises : Rising (retired (retired c [.g n v]) b).g := ((twf_iff _ _).1 (canonical_retired _ b (canonical_retired c _ h))).1
  refine (greg_commit_g (retired (retired c [.g n v]) b) n n v rises).trans ?_
  rw [if_pos rfl]

end

theorem core_retireOn_same {u : State} {r : Nat} (h : Rising u.cores) (ws : List RegWrite) :
    (retireOn u r ws).core r = retired (u.core r) ws := (core_retireOn u r r ws h).trans (if_pos rfl)

theorem cores_retireOn {u : State} {r : Nat} (h : Rising u.cores) (ws : List RegWrite) : Rising (retireOn u r ws).cores :=
  cores_setCore _ _ _ h

/-- Settles O5: the results of an instruction stand in the pipeline for two instructions, and the third finds them in the registers. -/
theorem visibility : Obligations.Visibility := by
  intro u r hu a a' b d n v
  have c0 := rising_of_canonical hu
  have once := fun ws => core_retireOn_same (r := r) c0 ws
  have twice : ∀ ws ws', (retireOn (retireOn u r ws) r ws').core r = retired (retired (u.core r) ws) ws' := fun ws ws' => by
    rw [core_retireOn_same (cores_retireOn c0 ws), once]
  refine ⟨?next, ?second, ?third, rfl⟩
  case next =>
    rw [gOf, gOf, once, once]
    exact greg_congr (sameRegs_retired ..) n
  case second =>
    rw [gOf, gOf, twice, twice]
    exact greg_congr (sameRegs_retired_twice ..) n
  case third =>
    rw [gOf, core_retireOn_same (cores_retireOn (cores_retireOn c0 _) _), twice]
    exact greg_retired_thrice _ b d n v (wg_core (s := u) ⟨trivial, hu⟩ r)

/-! Taking a trap (R350) -/

/-- What two cores alike but for their local memory have in common. -/
theorem field_of_pipe {c d : CoreState} (h : pipe c = pipe d) {α : Type} (f : CoreState → α) (hf : ∀ c, f (pipe c) = f c) : f c = f d :=
  (hf c).symm.trans ((congrArg f h).trans (hf d))

/-- Settles O6: the core as a trap leaves it is `trapped` of the core with every result arrived, but for what the fetch at the
vector does to its local memory and to whether it runs. -/
theorem trapEntry : Obligations.TrapEntry := by
  intro s r cause tval tpc trep hs
  obtain ⟨⟨st, same⟩, bytes, prods, conss, queues⟩ := trapCore_gives s r cause tval tpc trep hs
  have field {α : Type} := field_of_pipe same (α := α)
  have cst := field (·.cst) fun _ => rfl
  obtain ⟨pie, ie, inTrap, nested, rest⟩ := trap_status (s.core r).flush.cst
  refine ⟨⟨field (·.tpc) fun _ => rfl, field (·.tcause) fun _ => rfl, field (·.tval) fun _ => rfl, field (·.trep) fun _ => rfl⟩,
    ⟨?_, ?_, ?_, ?_⟩, fun k hk => ?_,
    ⟨field (·.rsv) fun _ => rfl, field (·.pc) fun _ => rfl, field (·.tvec) fun _ => rfl, field (·.qid) fun _ => rfl,
      field (·.g) fun _ => rfl, field (·.w1) fun _ => rfl, field (·.w2) fun _ => rfl⟩,
    ⟨field (·.ac0) fun _ => rfl, field (·.ac1) fun _ => rfl, field (·.rep) fun _ => rfl⟩, ⟨prods, conss, queues⟩, bytes⟩
  all_goals rw [cst]
  · exact pie
  · exact ie
  · exact inTrap
  · exact nested
  · exact rest k hk

end Sys2Proof.Proofs
end

section
namespace Sys2Proof.Proofs

open Sys2Proof.Machine Sys2Proof.Laws

/-! Traps that software takes (R323, R340, R348) -/

section
variable {s : State} {r : Nat} (h : Ready s r)
include h

/-- A word whose register fields are not legal traps with itself in TVAL. -/
theorem runs_illegal {ok : Bool} (e : ok = false) (w : Word) (again : Bool) (body : Body) :
    runInstr s r w ok again body = trapOn (fetched s r) r 2 w (pcOf s r) := by
  rw [e, run_illegal h, pc_fetched h]

/-- SVC and BRK trap with their code, TPC on the next instruction. -/
theorem trap_behind (w v : Word) (cause : Nat) :
    (.next (runInstr s r w true false fun s _ => { s := s, out := .trap cause v true 0 }) : Answer) =
      .next (trapOn (fetched s r) r cause v (pcOf s r + 4)) := by
  rw [run_ready h, ← pc_fetched h]
  exact congrArg Host.Outcome.next (applyOut_trap_next (fetched_single h) ..)

end

/-- A REP whose unused field is not 0 is no instruction (R343). -/
theorem rep_illegal {m : Bool} {ra : Reg} {cnt : BitVec 10} (h : if m then ra ≠ 0 else cnt ≠ 0) :
    (if m then decide (ra = 0) else decide (cnt = 0)) = false := by
  cases m with
  | true => exact decide_eq_false h
  | false => exact decide_eq_false h

/-- Settles O7: SVC and BRK are traps behind themselves, and every other word of the statement has fields that are not legal. -/
theorem softwareTraps : Obligations.SoftwareTraps := by
  intro s r h
  have same : ∀ n : Reg, decide (n ≠ n) = false := fun n => decide_eq_false fun k => k rfl
  have beyond : ∀ sr : BitVec 5, 8 < sr.toNat → srOk sr = false := fun sr k => decide_eq_false (not_le.2 k)
  refine ⟨fun code => trap_behind h _ _ _, fun code => trap_behind h _ _ _, fun w hw => ?word, ?lbuP, ?lhuP, ?lwP, ?macm, ?msum,
    ?mfsr, ?mtsr, ?rep, by decide, by decide, by decide⟩
  case word =>
    refine congrArg Host.Outcome.next ((if_neg (ne_true_of_eq_false hw)).trans ?_)
    exact runs_illegal h rfl w _ _
  case lbuP => exact fun rd imm => congrArg (fun u => Host.Outcome.next (settleCtl s r true rd imm u)) (runs_illegal h (same rd) _ _ _)
  case lhuP => exact fun rd imm => congrArg (fun u => Host.Outcome.next (settleCtl s r true rd imm u)) (runs_illegal h (same rd) _ _ _)
  case lwP => exact fun rd imm => congrArg (fun u => Host.Outcome.next (settleCtl s r true rd imm u)) (runs_illegal h (same rd) _ _ _)
  case macm => exact fun ac ra => congrArg Host.Outcome.next (runs_illegal h (same ra) _ _ _)
  case msum => exact fun ac ra => congrArg Host.Outcome.next (runs_illegal h (same ra) _ _ _)
  case mfsr => exact fun rd sr k => congrArg Host.Outcome.next (runs_illegal h (beyond sr k) _ _ _)
  case mtsr => exact fun sr ra k => congrArg Host.Outcome.next (runs_illegal h (beyond sr k) _ _ _)
  case rep => exact fun m ra cnt k => congrArg Host.Outcome.next (runs_illegal h (rep_illegal k) _ _ _)

/-! Transfers (R321, R332, R333, R335) -/

theorem unusable_iff (t : Word) : unusable t = true ↔ t.toNat % 4 ≠ 0 ∨ 65536 ≤ t.toNat := decide_eq_true_iff

theorem usable_of_inside {t : Word} (aligned : t.toNat % 4 = 0) (inside : t.toNat < 65536) : unusable t = false := by
  rw [← Bool.not_eq_true, unusable_iff]
  omega

section
variable {s : State} {r : Nat} (h : Ready s r)
include h

/-- A branch transfers where its condition holds and else goes on to the next word. -/
theorem branch_gives (w : Word) (ra rb : Reg) (off : BitVec 16) {taken : Word → Word → Bool} {p : Prop} [Decidable p]
    (e : taken (gOf s r ra) (gOf s r rb) = true ↔ p) :
    (.next (runInstr s r w true false (branchBody ra rb off taken)) : Answer) =
      if p then jumps s r [] (wordsFrom (pcOf s r) off) else passes s r := by
  have body : branchBody ra rb off taken (fetched s r) r =
      if p then { s := fetched s r, out := .jump [] (wordsFrom (pcOf s r) off) } else regsOnly (fetched s r) [] := by
    rw [← greg_fetched h ra, ← greg_fetched h rb] at e
    rw [← awayBy_words, ← pc_fetched h]
    exact if_congr e rfl rfl
  split
  next hp => exact run_jump h w _ _ _ (body.trans (if_pos hp))
  next hp => exact congrArg Host.Outcome.next (run_regs h w _ _ _ (body.trans (if_neg hp)))

/-- A jump by a number of words, with what it links. -/
theorem jumpBy_gives (w : Word) (off : BitVec 26) (link : Word → List RegWrite) :
    (.next (runInstr s r w true false fun s r => { s := s, out := .jump (link (s.core r).pc) (awayBy (s.core r).pc off) }) : Answer) =
      jumps s r (link (pcOf s r)) (wordsFrom (pcOf s r) off) := by
  refine run_jump h w _ _ _ ?_
  rw [← awayBy_words, ← pc_fetched h]

/-- A jump to a register. -/
theorem jumpReg_gives (w : Word) {ra : Reg} (link : Word → List RegWrite) (e : unusable (gOf s r ra) = false) :
    (.next (runInstr s r w true false (jumpReg ra link)) : Answer) = jumps s r (link (pcOf s r + 4)) (gOf s r ra) := by
  refine run_jump h w _ _ _ ?_
  rw [← greg_fetched h ra] at e ⊢
  rw [← pc_fetched h]
  exact if_neg (ne_true_of_eq_false e)

theorem jumpReg_traps (w : Word) {ra : Reg} (link : Word → List RegWrite) (e : unusable (gOf s r ra) = true) :
    (.next (runInstr s r w true false (jumpReg ra link)) : Answer) = .next (trapOn (fetched s r) r 1 (gOf s r ra) (pcOf s r)) := by
  refine run_trap h w false _ 1 _ [(gOf s r ra).toNat] ?_
  rw [← greg_fetched h ra] at e ⊢
  exact if_pos e

theorem ret_unusable (w : Word) (mask : BitVec 8) (e : unusable (gOf s r 31) = true) :
    (.next (runInstr s r w true false (retBody mask)) : Answer) = .next (trapOn (fetched s r) r 1 (gOf s r 31) (pcOf s r)) := by
  refine run_trap h w false _ 1 _ [(gOf s r 31).toNat] ?_
  rw [← greg_fetched h 31] at e ⊢
  exact if_pos e

end

theorem sge_iff (a b : Word) : (!a.slt b) = true ↔ b.toInt ≤ a.toInt := by
  rw [BitVec.slt, Bool.not_eq_true', decide_eq_false_iff_not, not_lt]

theorem uge_iff (a b : Word) : (!a.ult b) = true ↔ b.toNat ≤ a.toNat := by
  rw [BitVec.ult, Bool.not_eq_true', decide_eq_false_iff_not, not_lt]

/-- Settles O8: each transfer is a branch, a jump by words or a jump to a register, and RET looks at its target first. -/
theorem transfers : Obligations.Transfers := by
  intro s r h
  refine ⟨?beq, ?bne, ?blt, ?bge, ?bltu, ?bgeu, ?j, ?jal, fun ra aligned inside => ?usable, fun ra bad => ?unusable, fun mask bad => ?ret⟩
  case beq => exact fun ra rb off => branch_gives h _ ra rb off decide_eq_true_iff
  case bne => exact fun ra rb off => branch_gives h _ ra rb off decide_eq_true_iff
  case blt => exact fun ra rb off => branch_gives h _ ra rb off decide_eq_true_iff
  case bge => exact fun ra rb off => branch_gives h _ ra rb off (sge_iff ..)
  case bltu => exact fun ra rb off => branch_gives h _ ra rb off decide_eq_true_iff
  case bgeu => exact fun ra rb off => branch_gives h _ ra rb off (uge_iff ..)
  case j => exact fun off => jumpBy_gives h _ off fun _ => []
  case jal => exact fun off => jumpBy_gives h _ off fun pc => [.g 31 (pc + 4)]
  case usable =>
    have e := usable_of_inside aligned inside
    exact ⟨jumpReg_gives h _ _ e, fun rd => jumpReg_gives h _ (fun v => [.g rd v]) e⟩
  case unusable =>
    have e := (unusable_iff _).2 bad
    exact ⟨jumpReg_traps h _ _ e, fun rd => jumpReg_traps h _ (fun v => [.g rd v]) e⟩
  case ret => exact ret_unusable h _ mask ((unusable_iff _).2 bad)

end Sys2Proof.Proofs
end

section
namespace Sys2Proof.Proofs

open Sys2Proof.Machine Sys2Proof.Laws

/-! CALL and RET (R334, R335) -/

/-- The pairs of registers that a mask selects, by their numbers. -/
abbrev maskPairs (mask : BitVec 8) : List Nat := (List.range 8).filter fun k => mask.getLsbD k

theorem length_pairRegs (mask : BitVec 8) : (pairRegs mask).length = (maskPairs mask).length := List.length_map _

theorem frameSize_pairs (mask : BitVec 8) : frameSize mask = 8 * (1 + (maskPairs mask).length) := by rw [frameSize, length_pairRegs]

/-- The registers of a frame: g31 by itself, then each pair. -/
theorem frameRegs_pairs (mask : BitVec 8) :
    (pairRegs mask).map (fun n => (n, n + 1)) = (maskPairs mask).map fun k => (12 + 2 * k, 13 + 2 * k) := by
  rw [pairRegs, List.map_map]
  refine List.map_congr_left fun k _ => Prod.ext rfl ?_
  dsimp only [Function.comp]
  omega

/-- The address and the two words of each slot of a frame at `sp`. -/
abbrev frameSlots (s : State) (r : Nat) (mask : BitVec 8) (sp : Word) : List (Nat × Word × Word) :=
  ((31, 0) :: (maskPairs mask).map fun k => (12 + 2 * k, 13 + 2 * k)).zipIdx.map fun p =>
    ((sp + w32 (8 * p.2)).toNat, gOf s r (BitVec.ofNat 5 p.1.1), gOf s r (BitVec.ofNat 5 p.1.2))

/-- What RET writes of the words `word` of a frame, pair by pair. -/
abbrev pairWords (mask : BitVec 8) (word : Nat → Word) : List RegWrite :=
  (maskPairs mask).zipIdx.flatMap fun p => [RegWrite.g (BitVec.ofNat 5 (12 + 2 * p.1)) (word (2 + 2 * p.2)),
    RegWrite.g (BitVec.ofNat 5 (13 + 2 * p.1)) (word (3 + 2 * p.2))]

theorem pairWords_regs (mask : BitVec 8) (word : Nat → Word) :
    (pairRegs mask).zipIdx.flatMap (fun p => [RegWrite.g (regNo p.1) (word (2 + 2 * p.2)), RegWrite.g (regNo (p.1 + 1)) (word (3 + 2 * p.2))]) =
      pairWords mask word := by
  rw [pairRegs, List.zipIdx_map, List.flatMap_map]
  refine List.flatMap_congr fun p _ => ?_
  have e : 12 + 2 * p.1 + 1 = 13 + 2 * p.1 := by omega
  dsimp only [Prod.map]
  rw [e]
  rfl

/-- What RET writes: the pairs, g31 from slot 0, and g29 behind the frame. -/
abbrev retWrites (mask : BitVec 8) (sp : Word) (word : Nat → Word) : List RegWrite :=
  pairWords mask word ++ [.g 31 (word 0), .g 29 (sp + w32 (8 * (1 + (maskPairs mask).length)))]

section
variable {s : State} {r : Nat} (h : Ready s r)
include h

theorem call_traps {mask : BitVec 8} {off : BitVec 18} (e : (gOf s r 29).toNat % 8 ≠ 0) :
    exec (.call r mask off) s =
      .next (trapOn (fetched s r) r 5 (gOf s r 29 - w32 (8 * (1 + (maskPairs mask).length))) (pcOf s r)) := by
  rw [← frameSize_pairs]
  refine run_trap h _ false (callBody mask off) 5 _ [6, (gOf s r 29 - w32 (frameSize mask)).toNat] ?_
  rw [← greg_fetched h 29] at e ⊢
  exact if_pos e

theorem call_jumps {mask : BitVec 8} {off : BitVec 18} (aligned : (gOf s r 29).toNat % 8 = 0) :
    let sp := gOf s r 29 - w32 (8 * (1 + (maskPairs mask).length))
    let x := storeSlots r (frameSlots s r mask sp) (fetched s r)
    x.2 = .val [] → Alone x.1 r →
      exec (.call r mask off) s = .next (leapOn x.1 r [.g 29 sp, .g 31 (pcOf s r + 4)] (wordsFrom (pcOf s r) off)) := by
  intro sp x stored alone
  have body : ∃ reqs, callBody mask off (fetched s r) r =
      { s := x.1, reqs := reqs, out := .jump [.g 29 sp, .g 31 (pcOf s r + 4)] (wordsFrom (pcOf s r) off) } := by
    have regs := fun n => greg_fetched h n
    have pc := pc_fetched h
    dsimp only [gOf, pcOf] at regs pc
    unfold callBody
    dsimp only
    simp only [regs, pc, frameRegs_pairs, frameSize_pairs]
    rw [if_neg (not_not_intro aligned)]
    simp only [sp, x] at stored ⊢
    rw [stored]
    exact ⟨_, by rw [← awayBy_words]⟩
  obtain ⟨reqs, body⟩ := body
  have run := run_jump_from h (encC 0x2C mask off) (callBody mask off) [.g 29 sp, .g 31 (pcOf s r + 4)] (wordsFrom (pcOf s r) off)
  rw [body] at run
  exact run rfl alone

theorem ret_traps {mask : BitVec 8} (usable : unusable (gOf s r 31) = false) (e : (gOf s r 29).toNat % 8 ≠ 0) :
    exec (.ret r mask) s = .next (trapOn (fetched s r) r 4 (gOf s r 29) (pcOf s r)) := by
  refine run_trap h _ false (retBody mask) 4 _ [7, (gOf s r 29).toNat] ?_
  rw [← greg_fetched h] at usable e
  rw [← greg_fetched h]
  exact (if_neg (ne_true_of_eq_false usable)).trans (if_pos e)

theorem ret_jumps {mask : BitVec 8} {bs : List Byte} (usable : unusable (gOf s r 31) = false) (aligned : (gOf s r 29).toNat % 8 = 0) :
    let sp := gOf s r 29
    let x := loadSlots r ((List.range (2 * (1 + (maskPairs mask).length))).map fun k => (sp + w32 (4 * k)).toNat) (fetched s r)
    let word := fun k => w32 (leAt bs (4 * k) 4)
    x.2 = .val bs → Alone x.1 r → exec (.ret r mask) s = .next (leapOn x.1 r (retWrites mask sp word) (gOf s r 31)) := by
  intro sp x word loaded alone
  have body : retBody mask (fetched s r) r = Eff.mk x.1 [7, sp.toNat] [] (.jump (retWrites mask sp word) (gOf s r 31)) := by
    have regs := fun n => greg_fetched h n
    dsimp only [gOf] at regs usable aligned
    unfold retBody
    dsimp only
    simp only [regs, usable, length_pairRegs, frameSize_pairs]
    rw [if_neg Bool.false_ne_true, if_neg (not_not_intro aligned)]
    simp only [sp, x] at loaded ⊢
    rw [loaded]
    dsimp only
    rw [pairWords_regs mask word]
  have run := run_jump_from h (encC 0x2D mask 0) (retBody mask) (retWrites mask sp word) (gOf s r 31)
  rw [body] at run
  exact run rfl alone

end

/-- Settles O9: CALL and RET look at g29 before their accesses, and once these have gone through they are transfers. -/
theorem callRet : Obligations.CallRet := by
  intro s r h
  exact ⟨fun mask off => ⟨call_jumps h, call_traps h⟩,
    fun mask bs => ⟨fun ht hl => ret_jumps h (usable_of_inside ht hl), fun ht hl => ret_traps h (usable_of_inside ht hl)⟩⟩

end Sys2Proof.Proofs
end

section
namespace Sys2Proof.Proofs

open Sys2Proof.Machine Sys2Proof.Laws

/-! The multiply-accumulate group in the terms of R327 -/

theorem accLow_nat (v : Dword) : v.setWidth 32 = w32 (v.toNat % 2 ^ 32) := by
  apply BitVec.eq_of_toNat_eq
  rw [BitVec.toNat_setWidth, BitVec.toNat_ofNat, Nat.mod_mod]

theorem accHigh_nat (v : Dword) : (v >>> 32).setWidth 32 = w32 (v.toNat / 2 ^ 32) := by
  apply BitVec.eq_of_toNat_eq
  rw [BitVec.toNat_setWidth, BitVec.toNat_ushiftRight, Nat.shiftRight_eq_div_pow, BitVec.toNat_ofNat]

/-- The saturation of MFACS is the nearest of the words. -/
theorem accSat_nearest (n : Nat) (v : Dword) : accSat n v = BitVec.ofInt 32 (max (-2147483648) (min 2147483647 (v.toInt / 2 ^ n))) := by
  unfold accSat
  dsimp only
  generalize v.toInt / 2 ^ n = x
  congr 1
  split
  · omega
  · split <;> omega

section
variable {s : State} {r : Nat} (h : Ready s r)
include h

/-- An accumulator operation of two registers leaves what it comes to in the terms of the spec. -/
theorem mac_accumulates_eq (w : Word) (again : Bool) (ac : Bool) (ra rb : Reg) {f : Dword → Word → Word → Dword} {v : Dword}
    (e : f (accOf s r ac) (gOf s r ra) (gOf s r rb) = v) :
    (.next (runInstr s r w true again (macBody ac ra rb f)) : Answer) = accumulates s r ac v := by
  rw [mac_accumulates h, e]

/-- So does what reads an accumulator. -/
theorem readAcc_gives_eq (w : Word) (ac : Bool) (rd : Reg) {f : Dword → Word} {v : Word} (e : f (accOf s r ac) = v) :
    (.next (runInstr s r w true false (readAcc ac rd f)) : Answer) = gives s r rd v := by
  rw [readAcc_gives h, e]

end

/-- Settles O10: each operation leaves or gives its function of the accumulator and the registers, which is that of R327. -/
theorem macGroup : Obligations.MacGroup := by
  intro s r h
  refine ⟨?macs, ?macu, ?msus, ?muls, ?macx, ?mtac, ?acclr, ?mfacl, ?mfach, ?mfacs⟩
  case macs => exact fun ac ra rb => mac_accumulates_eq h _ _ ac ra rb (by rw [dualS_sint])
  case macu => exact fun ac ra rb => mac_accumulates_eq h _ _ ac ra rb (by rw [dualU_nat])
  case msus => exact fun ac ra rb => mac_accumulates_eq h _ _ ac ra rb (by rw [dualS_sint])
  case muls => exact fun ac ra rb => mac_accumulates_eq h _ _ ac ra rb (by rw [dualS_sint])
  case macx => exact fun ac ra rb => mac_accumulates_eq h _ _ ac ra rb (by rw [dualX_sint])
  case mtac => exact fun ac ra rb => mac_accumulates_eq h _ _ ac ra rb (append_nat ..)
  case acclr => exact fun ac => acc_set h _ ac 0 _ (congrArg (regsOnly · []) (acclr_zero ..))
  case mfacl => exact fun ac rd => readAcc_gives_eq h _ ac rd (accLow_nat _)
  case mfach => exact fun ac rd => readAcc_gives_eq h _ ac rd (accHigh_nat _)
  case mfacs => exact fun ac rd sh => readAcc_gives_eq h _ ac rd (accSat_nearest ..)

/-! MACM and MSUM (R328) -/

section
variable {u : State} {r : Nat} {ac : Bool} {ra rb : Reg} (f : Dword → Word → Word → Dword)

/-- What the instruction asks of the rest of the device. -/
abbrev macAsks (u : State) (r : Nat) (ra rb : Reg) : List Nat := [1, (gOf u r ra).toNat, 4, 1, (gOf u r rb).toNat, 4]

/-- The first load, and the second behind it. -/
abbrev loadRa (u : State) (r : Nat) (ra : Reg) : State × Got := macLoad u r (gOf u r ra).toNat
abbrev loadRb (u : State) (r : Nat) (ra rb : Reg) : State × Got := macLoad (loadRa u r ra).1 r (gOf u r rb).toNat

variable (single : (u.core r).rep = none)
include single

theorem macMem_served {p q : List Byte} (hx : (loadRa u r ra).2 = .val p) (hy : (loadRb u r ra rb).2 = .val q) :
    let v := (loadRb u r ra rb).1
    macMem ac ra rb f u r = Eff.mk (setAcc v r ac (f (accOf v r ac) (w32 (leNat p)) (w32 (leNat q)))) (macAsks u r ra rb)
      [(ra, gOf u r ra + 4), (rb, gOf u r rb + 4)] (.done [.g ra (gOf u r ra + 4), .g rb (gOf u r rb + 4)]) := by
  simp only [macMem, base_alone single, hx, hy]
  rfl

theorem macMem_fails_ra {cause a : Nat} (hx : (loadRa u r ra).2 = .trap cause a) :
    macMem ac ra rb f u r = Eff.mk (loadRa u r ra).1 (macAsks u r ra rb) [] (.trap cause (w32 a) false 0) := by
  simp only [macMem, base_alone single, hx]
  rfl

theorem macMem_fails_rb {p : List Byte} {cause a : Nat} (hx : (loadRa u r ra).2 = .val p) (hy : (loadRb u r ra rb).2 = .trap cause a) :
    macMem ac ra rb f u r = Eff.mk (loadRb u r ra rb).1 (macAsks u r ra rb) [] (.trap cause (w32 a) false 0) := by
  simp only [macMem, base_alone single, hx, hy]
  rfl

end

/-- MACM and MSUM are one instruction but for the function of the accumulator and the words loaded. -/
abbrev macMemInstr (s : State) (r : Nat) (w : Word) (ac : Bool) (ra rb : Reg) (f : Dword → Word → Word → Dword) : Answer :=
  .next (runInstr s r w (decide (ra ≠ rb)) true (macMem ac ra rb f))

section
variable {s : State} {r : Nat} (h : Ready s r) (w : Word) {ac : Bool} {ra rb : Reg} (f : Dword → Word → Word → Dword) (different : ra ≠ rb)
include h different

/-- With both loads served the accumulator takes `f` of the words and the bases step. -/
theorem macMem_completes {p q : List Byte} :
    let x := macLoad (fetched s r) r (gOf s r ra).toNat
    let y := macLoad x.1 r (gOf s r rb).toNat
    let v := f (accOf y.1 r ac) (w32 (leNat p)) (w32 (leNat q))
    x.2 = .val p → y.2 = .val q → Alone (setAcc y.1 r ac v) r →
      macMemInstr s r w ac ra rb f = .next (retireOn (setAcc y.1 r ac v) r [.g ra (gOf s r ra + 4), .g rb (gOf s r rb + 4)]) := by
  rw [macMemInstr, decide_eq_true different, ← greg_fetched h ra, ← greg_fetched h rb]
  exact fun hx hy => run_done_of h w true _ _ _ _ _ (macMem_served f (fetched_single h) hx hy)

theorem macMem_traps_ra {cause a : Nat} :
    let x := macLoad (fetched s r) r (gOf s r ra).toNat
    x.2 = .trap cause a → Alone x.1 r → macMemInstr s r w ac ra rb f = .next (trapOn x.1 r cause (w32 a) (pcOf x.1 r)) := by
  rw [macMemInstr, decide_eq_true different, ← greg_fetched h ra]
  exact fun hx => run_trap_of h w true _ _ _ _ _ _ 0 (macMem_fails_ra f (fetched_single h) hx)

theorem macMem_traps_rb {p : List Byte} {cause a : Nat} :
    let x := macLoad (fetched s r) r (gOf s r ra).toNat
    let y := macLoad x.1 r (gOf s r rb).toNat
    x.2 = .val p → y.2 = .trap cause a → Alone y.1 r →
      macMemInstr s r w ac ra rb f = .next (trapOn y.1 r cause (w32 a) (pcOf y.1 r)) := by
  rw [macMemInstr, decide_eq_true different, ← greg_fetched h ra, ← greg_fetched h rb]
  exact fun hx hy => run_trap_of h w true _ _ _ _ _ _ 0 (macMem_fails_rb f (fetched_single h) hx hy)

end

/-- MACS's product of two words loaded, in the terms of R327. -/
theorem dualS_loaded {p q : List Byte} (hp : p.length = 4) (hq : q.length = 4) :
    dualS (w32 (leNat p)) (w32 (leNat q)) = sint 16 (leNat p % 65536) * sint 16 (leNat q % 65536) +
      sint 16 (leNat p / 65536) * sint 16 (leNat q / 65536) := by
  rw [dualS_sint, (leNat_word hp le_rfl).1, (leNat_word hq le_rfl).1]

/-- Settles O11: MACM and MSUM are `macMem` of MACS's and MSUS's function. -/
theorem macMemory : Obligations.MacMemory := by
  intro s r h ac ra rb p q different
  refine ⟨fun hx hy hp hq => ?macm, fun hx hy hp hq => ?msum, fun cause a => ⟨fun hx alone => ?faultA, fun hx hy alone => ?faultB⟩⟩
  case macm =>
    rw [← dualS_loaded hp hq]
    exact macMem_completes h _ (fun v a b => v + BitVec.ofInt 64 (dualS a b)) different hx hy
  case msum =>
    rw [← dualS_loaded hp hq]
    exact macMem_completes h _ (fun v a b => v - BitVec.ofInt 64 (dualS a b)) different hx hy
  case faultA => exact ⟨macMem_traps_ra h _ _ different hx alone, macMem_traps_ra h _ _ different hx alone⟩
  case faultB => exact ⟨macMem_traps_rb h _ _ different hx hy alone, macMem_traps_rb h _ _ different hx hy alone⟩

end Sys2Proof.Proofs
end

section
namespace Sys2Proof.Proofs

open Sys2Proof.Machine Sys2Proof.Laws

/-! Loads and stores (R330, R331) -/

/-- The address of an access whose base register reads `a`, and what it writes to the base. -/
abbrev accessAddr (post : Bool) (a : Word) (imm : BitVec 16) : Word := bif post then a else a + imm.signExtend 32
abbrev baseStep (post : Bool) (ra : Reg) (a : Word) (imm : BitVec 16) : List RegWrite := bif post then [.g ra (a + imm.signExtend 32)] else []

/-- What a post-incremented base carries on inside a repeat. -/
abbrev baseCarry (post : Bool) (ra : Reg) (a : Word) (imm : BitVec 16) : List (Reg × Word) := bif post then [(ra, a + imm.signExtend 32)] else []

section
variable {u : State} {r : Nat} {post : Bool} {n : Nat} {rd ra rs : Reg} {imm : BitVec 16} {ext : Word → Word}

/-- The access of a load, and that of a store. -/
abbrev loadOf (u : State) (r : Nat) (post : Bool) (n : Nat) (ra : Reg) (imm : BitVec 16) : State × Got :=
  coreLoad u r (accessAddr post (gOf u r ra) imm).toNat n
abbrev storeOf (u : State) (r : Nat) (post : Bool) (n : Nat) (rs ra : Reg) (imm : BitVec 16) : State × Got :=
  coreStore u r (accessAddr post (gOf u r ra) imm).toNat (leBytes n (gOf u r rs).toNat)

variable (single : (u.core r).rep = none)
include single

theorem loadBody_served {bs : List Byte} (hx : (loadOf u r post n ra imm).2 = .val bs) :
    loadBody post n ext rd ra imm u r = Eff.mk (loadOf u r post n ra imm).1 [1, (accessAddr post (gOf u r ra) imm).toNat, n]
      (baseCarry post ra (gOf u r ra) imm) (.done (.g rd (ext (w32 (leNat bs))) :: baseStep post ra (gOf u r ra) imm)) := by
  cases post
  all_goals
    simp only [loadOf, cond_false, cond_true] at hx
    simp only [loadBody, base_alone single, ite_self, Bool.false_eq_true, if_false, if_true, hx]
    rfl

theorem loadBody_fails {cause a : Nat} (hx : (loadOf u r post n ra imm).2 = .trap cause a) :
    loadBody post n ext rd ra imm u r = Eff.mk (loadOf u r post n ra imm).1 [1, (accessAddr post (gOf u r ra) imm).toNat, n] []
      (.trap cause (w32 a) false 0) := by
  cases post
  all_goals
    simp only [loadOf, cond_false, cond_true] at hx
    simp only [loadBody, base_alone single, ite_self, Bool.false_eq_true, if_false, if_true, hx]
    rfl

theorem storeBody_served (hx : (storeOf u r post n rs ra imm).2 = .val []) :
    storeBody post n rs ra imm u r = Eff.mk (storeOf u r post n rs ra imm).1
      [2, (accessAddr post (gOf u r ra) imm).toNat, n, leNat (leBytes n (gOf u r rs).toNat)]
      (baseCarry post ra (gOf u r ra) imm) (.done (baseStep post ra (gOf u r ra) imm)) := by
  cases post
  all_goals
    simp only [storeOf, cond_false, cond_true] at hx
    simp only [storeBody, base_alone single, ite_self, Bool.false_eq_true, if_false, if_true, hx]
    rfl

theorem storeBody_fails {cause a : Nat} (hx : (storeOf u r post n rs ra imm).2 = .trap cause a) :
    storeBody post n rs ra imm u r = Eff.mk (storeOf u r post n rs ra imm).1
      [2, (accessAddr post (gOf u r ra) imm).toNat, n, leNat (leBytes n (gOf u r rs).toNat)] [] (.trap cause (w32 a) false 0) := by
  cases post
  all_goals
    simp only [storeOf, cond_false, cond_true] at hx
    simp only [storeBody, base_alone single, ite_self, Bool.false_eq_true, if_false, if_true, hx]
    rfl

end

/-- The answer of a load or a store whose instruction led to `t`. -/
abbrev accessAnswer (s : State) (r : Nat) (post : Bool) (ra : Reg) (imm : BitVec 16) (t : State) : Answer := .next (settleCtl s r post ra imm t)

section
variable {s : State} {r : Nat} (h : Ready s r) {w : Word} {ok again post : Bool} {n : Nat} {rd ra rs : Reg} {imm : BitVec 16} {ext : Word → Word}
include h

/-- A load whose access is served gives RD the bytes as it extends them. -/
theorem load_gives {bs : List Byte} {v : Word} (hok : ok = true) (e : ext (w32 (leNat bs)) = v) :
    let x := coreLoad (fetched s r) r (accessAddr post (gOf s r ra) imm).toNat n
    x.2 = .val bs → Alone x.1 r →
      accessAnswer s r post ra imm (runInstr s r w ok again (loadBody post n ext rd ra imm)) =
        accessAnswer s r post ra imm (retireOn x.1 r (.g rd v :: baseStep post ra (gOf s r ra) imm)) := by
  rw [hok, ← e, ← greg_fetched h ra]
  exact fun hx alone => congrArg (fun t => accessAnswer s r post ra imm t)
    (Host.Outcome.next.inj (run_done_of h w again _ _ _ _ _ (loadBody_served (fetched_single h) hx) alone))

theorem load_traps {cause a : Nat} (hok : ok = true) :
    let x := coreLoad (fetched s r) r (accessAddr post (gOf s r ra) imm).toNat n
    x.2 = .trap cause a → Alone x.1 r →
      accessAnswer s r post ra imm (runInstr s r w ok again (loadBody post n ext rd ra imm)) =
        accessAnswer s r post ra imm (trapOn x.1 r cause (w32 a) (pcOf x.1 r)) := by
  rw [hok, ← greg_fetched h ra]
  exact fun hx alone => congrArg (fun t => accessAnswer s r post ra imm t)
    (Host.Outcome.next.inj (run_trap_of h w again _ _ _ _ _ _ 0 (loadBody_fails (fetched_single h) hx) alone))

/-- A store whose access is served gives no result but the step of its base. -/
theorem store_completes :
    let x := coreStore (fetched s r) r (accessAddr post (gOf s r ra) imm).toNat (leBytes n (gOf s r rs).toNat)
    x.2 = .val [] → Alone x.1 r →
      accessAnswer s r post ra imm (runInstr s r w true again (storeBody post n rs ra imm)) =
        accessAnswer s r post ra imm (retireOn x.1 r (baseStep post ra (gOf s r ra) imm)) := by
  rw [← greg_fetched h ra, ← greg_fetched h rs]
  exact fun hx alone => congrArg (fun t => accessAnswer s r post ra imm t)
    (Host.Outcome.next.inj (run_done_of h w again _ _ _ _ _ (storeBody_served (fetched_single h) hx) alone))

theorem store_traps {cause a : Nat} :
    let x := coreStore (fetched s r) r (accessAddr post (gOf s r ra) imm).toNat (leBytes n (gOf s r rs).toNat)
    x.2 = .trap cause a → Alone x.1 r →
      accessAnswer s r post ra imm (runInstr s r w true again (storeBody post n rs ra imm)) =
        accessAnswer s r post ra imm (trapOn x.1 r cause (w32 a) (pcOf x.1 r)) := by
  rw [← greg_fetched h ra, ← greg_fetched h rs]
  exact fun hx alone => congrArg (fun t => accessAnswer s r post ra imm t)
    (Host.Outcome.next.inj (run_trap_of h w again _ _ _ _ _ _ 0 (storeBody_fails (fetched_single h) hx) alone))

end

/-- What LB and LH make of the bytes loaded. -/
theorem sextByte_loaded {bs : List Byte} (hl : bs.length = 1) : sextByte (w32 (leNat bs)) = BitVec.ofInt 32 (sint 8 (w32 (leNat bs)).toNat) := by
  obtain ⟨e, lt⟩ := leNat_word hl (by decide)
  rw [sextByte, sext_sint 8 (.inl rfl), Nat.mod_eq_of_lt (b := 2 ^ 8) (lt_of_eq_of_lt e lt)]

theorem sextHalf_loaded {bs : List Byte} (hl : bs.length = 2) : sextHalf (w32 (leNat bs)) = BitVec.ofInt 32 (sint 16 (w32 (leNat bs)).toNat) := by
  obtain ⟨e, lt⟩ := leNat_word hl (by decide)
  rw [sextHalf, sext_sint 16 (.inr rfl), Nat.mod_eq_of_lt (b := 2 ^ 16) (lt_of_eq_of_lt e lt)]

/-- Settles O12: every load is `loadBody` and every store `storeBody`, and a post-increment load's registers differ. -/
theorem loadsStores : Obligations.LoadsStores := by
  intro s r h
  refine ⟨?lb, ?lbu, ?lh, ?lhu, ?lw, ?lbuP, ?lhuP, ?lwP, ?sb, ?sh, ?sw, ?sbP, ?shP, ?swP⟩
  case lb => exact fun rd ra imm bs hx hl => load_gives h (post := false) rfl (sextByte_loaded hl) hx
  case lbu => exact fun rd ra imm bs hx _ => load_gives h (post := false) rfl rfl hx
  case lh => exact fun rd ra imm bs hx hl => load_gives h (post := false) rfl (sextHalf_loaded hl) hx
  case lhu => exact fun rd ra imm bs hx _ => load_gives h (post := false) rfl rfl hx
  case lw => exact fun rd ra imm bs hx _ => load_gives h (post := false) rfl rfl hx
  case lbuP => exact fun rd ra imm bs different hx _ => load_gives h (post := true) (decide_eq_true different) rfl hx
  case lhuP => exact fun rd ra imm bs different hx _ => load_gives h (post := true) (decide_eq_true different) rfl hx
  case lwP => exact fun rd ra imm bs different hx _ => load_gives h (post := true) (decide_eq_true different) rfl hx
  case sb => exact fun rs ra imm => store_completes h (post := false)
  case sh => exact fun rs ra imm => store_completes h (post := false)
  case sw => exact fun rs ra imm => store_completes h (post := false)
  case sbP => exact fun rs ra imm => store_completes h (post := true)
  case shP => exact fun rs ra imm => store_completes h (post := true)
  case swP => exact fun rs ra imm => store_completes h (post := true)

/-! Accesses that fail (R331) -/

section
variable (s : State) (r : Nat) {a n : Nat} {bs : List Byte}

theorem coreLoad_misaligned (h : a % n ≠ 0) : (coreLoad s r a n).2 = .trap 4 a := by rw [coreLoad, if_pos h]

theorem coreStore_misaligned (h : a % bs.length ≠ 0) : (coreStore s r a bs).2 = .trap 5 a := by
  unfold coreStore
  exact congrArg Prod.snd (if_pos h)

theorem coreLoad_nowhere (h : a % n = 0) (p : place r a = .nothing) : (coreLoad s r a n).2 = .trap 6 a := by
  rw [coreLoad, if_neg (not_not_intro h), p]

theorem coreStore_nowhere (h : a % bs.length = 0) (p : place r a = .nothing) : (coreStore s r a bs).2 = .trap 7 a := by
  unfold coreStore
  dsimp only
  rw [if_neg (not_not_intro h), p]

/-- Control space and a core's own registers take words alone. -/
theorem coreLoad_narrow (h : a % n = 0) (hn : n ≠ 4) (p : place r a = .ctl ∨ ∃ off, place r a = .priv off) : (coreLoad s r a n).2 = .trap 6 a := by
  rw [coreLoad, if_neg (not_not_intro h)]
  obtain p | ⟨off, p⟩ := p
  all_goals rw [p]; exact congrArg Prod.snd (if_pos hn)

theorem coreStore_narrow (h : a % bs.length = 0) (hn : bs.length ≠ 4) (p : place r a = .ctl ∨ ∃ off, place r a = .priv off) :
    (coreStore s r a bs).2 = .trap 7 a := by
  unfold coreStore
  dsimp only
  rw [if_neg (not_not_intro h)]
  obtain p | ⟨off, p⟩ := p
  all_goals rw [p]; exact congrArg Prod.snd (if_pos hn)

end

/-- Settles O13: an access that traps makes its instruction trap, and an access fails by its alignment first, then by its place. -/
theorem accessTraps : Obligations.AccessTraps := by
  intro s r h
  refine ⟨?lb, ?lbu, ?lh, ?lhu, ?lw, ?lbuP, ?lhuP, ?lwP, ?sb, ?sh, ?sw, ?sbP, ?shP, ?swP, fun a n => coreLoad_misaligned s r,
    fun a bs => coreStore_misaligned s r, fun a n => coreLoad_nowhere s r, fun a bs => coreStore_nowhere s r,
    fun a n => coreLoad_narrow s r, fun a bs => coreStore_narrow s r⟩
  case lb => exact fun rd ra imm cause at_ => load_traps h (post := false) rfl
  case lbu => exact fun rd ra imm cause at_ => load_traps h (post := false) rfl
  case lh => exact fun rd ra imm cause at_ => load_traps h (post := false) rfl
  case lhu => exact fun rd ra imm cause at_ => load_traps h (post := false) rfl
  case lw => exact fun rd ra imm cause at_ => load_traps h (post := false) rfl
  case lbuP => exact fun rd ra imm cause at_ different => load_traps h (post := true) (decide_eq_true different)
  case lhuP => exact fun rd ra imm cause at_ different => load_traps h (post := true) (decide_eq_true different)
  case lwP => exact fun rd ra imm cause at_ different => load_traps h (post := true) (decide_eq_true different)
  case sb => exact fun rs ra imm cause at_ => store_traps h (post := false)
  case sh => exact fun rs ra imm cause at_ => store_traps h (post := false)
  case sw => exact fun rs ra imm cause at_ => store_traps h (post := false)
  case sbP => exact fun rs ra imm cause at_ => store_traps h (post := true)
  case shP => exact fun rs ra imm cause at_ => store_traps h (post := true)
  case swP => exact fun rs ra imm cause at_ => store_traps h (post := true)

end Sys2Proof.Proofs
end

section
namespace Sys2Proof.Proofs

open Sys2Proof.Machine Sys2Proof.Laws

/-! Special registers (R317 to R319, R354) -/

section
variable {s t : State} {r : Nat} (d : Drains r s t)
include d

/-- A drain moves nothing that a core's status is computed from. -/
theorem drains_face : face t r = face s r := by rw [face, lockstep_of_pipe (d.pipe r), face]

theorem drains_evpBit (j : Nat) : evpBit t r j = evpBit s r j := by
  have ti : ∀ k, t.ti k = s.ti k := fun k => by rw [State.ti, d.frame, State.ti]
  rw [evpBit, ti, drains_face d]

theorem drains_mbp : mbp t r = mbp s r := by
  have count : ∀ q, qCount t q = qCount s q := fun q => by rw [d.frame]; rfl
  have reg : ∀ a, t.regAt a = s.regAt a := fun a => by rw [d.frame]; rfl
  rw [mbp, mbp, drains_face d]
  simp only [count, reg, State.reg]

/-- A special register reads alike, whatever of the local memory moves. -/
theorem drains_readSr (n : Nat) : readSr t r n = readSr s r n := by
  have field {α : Type} := field_of_pipe (d.pipe r) (α := α)
  unfold readSr
  split
  · unfold cstNow
    dsimp only
    rw [field (·.cst) fun _ => rfl, field (·.role) fun _ => rfl, field (·.lockstep) fun _ => rfl, drains_mbp d]
    simp only [drains_evpBit d]
  · exact field (·.tvec) fun _ => rfl
  · exact field (·.tpc) fun _ => rfl
  · exact field (·.tcause) fun _ => rfl
  · exact field (·.tval) fun _ => rfl
  · exact field (·.trep) fun _ => rfl
  · exact field (·.qid) fun _ => rfl
  · exact field (·.icount) fun _ => rfl
  · rw [drains_face d]

end

section
variable {s : State} {r : Nat} (h : Ready s r)
include h

/-- MFSR of an assigned number gives the special register as it stands at the instruction. -/
theorem mfsr_gives {sr : BitVec 5} {v : Word} (ok : srOk sr = true) (e : readSr s r sr.toNat = v) (rd : Reg) :
    exec (.mfsr r rd sr) s = gives s r rd v := by
  rw [← e, ← drains_readSr (drains_ready h)]
  show (.next (runInstr s r (encS rd 0 sr.toNat 0x05) (srOk sr) false _) : Answer) = _
  rw [ok]
  exact congrArg Host.Outcome.next (run_regs h _ _ _ _ rfl)

/-- MTSR of a number but QID's writes the registers below 6 and no other. -/
theorem mtsr_writes {sr : BitVec 5} (ok : srOk sr = true) (notQid : sr ≠ 6) (ra : Reg) :
    exec (.mtsr r sr ra) s = .next (retireOn (fetched s r) r (if sr.toNat < 6 then [.sr sr (gOf s r ra)] else [])) := by
  rw [← greg_fetched h]
  show (.next (runInstr s r (encS 0 ra sr.toNat 0x06) (srOk sr) false (mtsrBody sr ra)) : Answer) = _
  rw [ok]
  exact congrArg Host.Outcome.next (run_regs h _ _ _ _ (if_neg notQid))

/-- MTSR of QID is a QSEL. -/
theorem mtsr_qid (ra : Reg) : exec (.mtsr r 6 ra) s =
    .next (retireOn (qSelect (fetched s r) r (gOf s r ra &&& 0xFFFFF#32).toNat) r [.sr 6 (gOf s r ra &&& 0xFFFFF)]) := by
  rw [← greg_fetched h]
  exact congrArg Host.Outcome.next (queue_done h _ false rfl (cores_qSelect ..))

end

/-- Settles O15: MFSR reads the register before the instruction, and MTSR writes one of those below 6, is a QSEL, or does nothing. -/
theorem specialRegisters : Obligations.SpecialRegisters := by
  intro s r h
  have own : face s r = r := by rw [face, if_neg (ne_true_of_eq_false h.alone)]
  refine ⟨mfsr_gives h rfl rfl, mfsr_gives h rfl rfl, mfsr_gives h rfl rfl, mfsr_gives h rfl rfl, mfsr_gives h rfl rfl, mfsr_gives h rfl rfl,
    mfsr_gives h rfl rfl, mfsr_gives h rfl rfl, mfsr_gives h rfl (congrArg w32 own), fun sr ra low => ?low, mtsr_qid h, fun ra => ?still,
    fun sr beyond => ?illegal⟩
  case low =>
    have notQid : sr ≠ 6 := by rintro rfl; exact absurd low (by decide)
    exact (mtsr_writes h (decide_eq_true (by omega)) notQid ra).trans (by rw [if_pos low])
  case still => exact ⟨mtsr_writes h rfl (by decide) ra, mtsr_writes h rfl (by decide) ra⟩
  case illegal =>
    have e : srOk sr = false := decide_eq_false (not_le.2 beyond)
    exact ⟨fun rd => congrArg Host.Outcome.next (runs_illegal h e _ _ _), fun ra => congrArg Host.Outcome.next (runs_illegal h e _ _ _)⟩

/-! Asynchronous traps (R349, R350, R374) -/

section
variable {s : State} {r : Nat}

/-- An input that is enabled and has an event. -/
abbrev eventAt (s : State) (r j : Nat) : Bool := bit (s.core r).gov (4 + j) && evpBit s r j

theorem eventCause_lowest {j : Nat} (hj : j < 4) (e : eventAt s r j = true) (low : ∀ i, i < j → eventAt s r i = false) :
    eventCause s r (s.core r).gov = some j := by
  refine List.find?_range_eq_some.2 ⟨e, List.mem_range.2 hj, fun i hi => ?_⟩
  exact congrArg not (low i hi)

theorem eventCause_none (h : ∀ i, i < 4 → eventAt s r i = false) : eventCause s r (s.core r).gov = none :=
  List.find?_eq_none.2 fun i hi => ne_true_of_eq_false (h i (List.mem_range.1 hi))

/-- Where a trap at the boundary returns to, and the iterations that TREP takes. -/
abbrev returnsTo (s : State) (r : Nat) : Word × Nat :=
  match (s.core r).rep with | some p => (p.prefixPc, p.left) | none => ((s.core r).pc, (s.core r).resume)

theorem asyncTrap_takes (cause : Nat) (v : Word) :
    asyncTrap s r cause v = sleepJudge (takeTrap s r cause v (returnsTo s r).1 (returnsTo s r).2) (r / 8) := by
  unfold asyncTrap returnsTo
  dsimp only
  cases (s.core r).rep <;> rfl

end

section
variable {s : State} {r : Nat}

theorem eventTrap_taken (boundary : atBoundary s r = true) {j : Nat} (e : eventCause s r (s.core r).gov = some j) :
    exec (.hedgerowEventInputTrap r) s = .next (asyncTrap s r 14 (BitVec.ofNat 32 (j + 256 * (s.ti (tiCore (face s r) j)).lastHop))) := by
  show (.next (if atBoundary s r then _ else s) : Answer) = _
  rw [if_pos boundary, e]
  rfl

theorem eventTrap_none (e : atBoundary s r = false ∨ eventCause s r (s.core r).gov = none) :
    exec (.hedgerowEventInputTrap r) s = .next s := by
  show (.next (if atBoundary s r then _ else s) : Answer) = _
  rcases e with e | e
  · rw [if_neg (ne_true_of_eq_false e)]
  · rw [e, ite_self]

/-- MEADOW_MAILBOX_TRAP comes behind any event input (R349). -/
theorem mailboxTrap_gives : exec (.meadowMailboxTrap r) s = .next
    (if atBoundary s r && bit (s.core r).gov 12 && mbp s r && (eventCause s r (s.core r).gov).isNone then asyncTrap s r 15 0 else s) := rfl

end

/-- Settles O20: each command asks whether the core is at a boundary with IE set, and for the lowest input with an event. -/
theorem asynchronousTraps : Obligations.AsynchronousTraps := by
  intro s r runs
  have boundary : atBoundary s r = bit (s.core r).gov 0 := by rw [atBoundary, runs, Bool.true_and]
  refine ⟨fun j ie hj e low => ?event, fun quiet => ?mailbox, fun ie => ?closed⟩
  case event =>
    have cause := eventCause_lowest hj e low
    refine ⟨(eventTrap_taken (boundary.trans ie) cause).trans (congrArg Host.Outcome.next (asyncTrap_takes ..)), ?_⟩
    rw [mailboxTrap_gives, cause, Option.isNone_some, Bool.and_false, if_neg Bool.false_ne_true]
  case mailbox =>
    have cause := eventCause_none quiet
    refine ⟨eventTrap_none (.inr cause), ?_⟩
    rw [mailboxTrap_gives, cause, Option.isNone_none, Bool.and_true, boundary]
    exact congrArg Host.Outcome.next (if_congr Iff.rfl (asyncTrap_takes ..) rfl)
  case closed =>
    refine ⟨eventTrap_none (.inl (boundary.trans ie)), ?_⟩
    rw [mailboxTrap_gives, boundary, ie, Bool.false_and, Bool.false_and, Bool.false_and, if_neg Bool.false_ne_true]

end Sys2Proof.Proofs
end

section
namespace Sys2Proof.Proofs

open Sys2Proof.Machine Sys2Proof.Laws

/-! The system group (R340 to R342, R347, R364) -/

section
variable {s : State} {r : Nat} (h : Ready s r)
include h

/-- The store buffer has drained behind the fetch: the core is as before but for its local memory, and its loads see the same. -/
theorem drains_drained : Drains r s (drainAll (fetched s r) r) :=
  drains_trans (drains_ready h) (drains_drainAll _ _ (drains_ready h).rising)

theorem alone_drained : Alone (drainAll (fetched s r) r) r :=
  ⟨(lockstep_of_pipe ((drains_drained h).pipe r)).trans h.alone, (rep_of_pipe ((drains_drained h).pipe r)).trans h.single⟩

theorem localByte_drained (a : Nat) : localByte ((drainAll (fetched s r) r).core r) a = localByte (s.core r) a :=
  ((drains_drained h).bytes (sram_rising h.sound)).2 r a

theorem sb_drained : ((drainAll (fetched s r) r).core r).sb = [] := sb_drainAll _ _ (drains_ready h).rising

/-- The core behind a drain and with its reservation gone. -/
theorem core_dropped :
    Rising (dropRsv (drainAll (fetched s r) r) r).cores ∧
      (dropRsv (drainAll (fetched s r) r) r).core r = { (drainAll (fetched s r) r).core r with rsv := none } := by
  obtain ⟨rises, core, -⟩ := rest_dropRsv (drainAll (fetched s r) r) r (drains_drained h).rising
  exact ⟨rises, core⟩

theorem nop_passes : exec (.nop r) s = passes s r := congrArg Host.Outcome.next (run_regs h _ _ _ _ rfl)

theorem sync_drains : exec (.sync r) s = .next (retireOn (drainAll (fetched s r) r) r []) :=
  run_done_of h (encS 0 0 0 0x09) false _ _ [] [] [] rfl (alone_drained h)

/-- EVACK ends the busy phase where the input has an event. -/
theorem evack_gives (j : BitVec 2) : exec (.evack r j) s =
    if evpBit s r j.toNat then .next (retireOn (tiEnd (fetched s r) (tiCore r j.toNat)) r []) else passes s r := by
  have own : face (fetched s r) r = r := by rw [face, if_neg (ne_true_of_eq_false (fetched_alone h))]
  have body : evackBody j (fetched s r) r =
      Eff.mk (if evpBit s r j.toNat then tiEnd (fetched s r) (tiCore r j.toNat) else fetched s r) [21, j.toNat] [] (.done []) := by
    rw [evackBody, own, drains_evpBit (drains_ready h)]
  have kept : (if evpBit s r j.toNat then tiEnd (fetched s r) (tiCore r j.toNat) else fetched s r).cores = (fetched s r).cores := by
    split
    · exact cores_tiEnd ..
    · rfl
  refine (congrArg Host.Outcome.next (queue_done h _ false body kept)).trans ?_
  split <;> rfl

theorem rett_leaps : exec (.rett r) s =
    .next (leapOn (fetched s r) r [.sr 31 (BitVec.ofNat 32 (bits (s.core r).cst 1 1)), .sr 5 0] (s.core r).tpc (bits (s.core r).trep 15 0)) := by
  have field {α : Type} := field_of_pipe ((drains_ready h).pipe r) (α := α)
  refine congrArg Host.Outcome.next ((run_ready h _ _ rettBody).trans ?_)
  rw [rettBody, field (·.cst) fun _ => rfl, field (·.tpc) fun _ => rfl, field (·.trep) fun _ => rfl]
  exact applyOut_rett (fetched_alone h) ..

end

/-- An instruction that waits completes in state `u`, and its core sleeps from then on. -/
abbrev waitOn (u : State) (r : Nat) : State :=
  countInstr (u.modCore r fun c => { c.shift [] with resume := 0, pc := c.pc + 4, st := .waiting, waitFrom := u.uptime }) r

theorem core_waitOn {u : State} {r : Nat} (h : Rising u.cores) :
    ((waitOn u r).core r).st = .waiting ∧ ((waitOn u r).core r).pc = (u.core r).pc + 4 ∧ ((waitOn u r).core r).rsv = (u.core r).rsv ∧
      ((waitOn u r).core r).sb = (u.core r).sb := by
  obtain ⟨-, -, sb, rsv, -⟩ := shift_still (u.core r) []
  rw [waitOn, core_countInstr, core_modCore_same _ _ _ h]
  exact ⟨rfl, rfl, rsv, sb⟩

/-- WAIT's sample of the wake condition, in bit 14 of CST. -/
abbrev sampled (u : State) (r w : Nat) : State := u.modCore r fun c => { c with cst := setBits c.cst 14 14 w }

section
variable {s : State} {r : Nat} (h : Ready s r)
include h

theorem core_sampled (w : Nat) : ∃ cst, (sampled (dropRsv (drainAll (fetched s r) r) r) r w).core r =
    { (drainAll (fetched s r) r).core r with rsv := none, cst := cst } := by
  obtain ⟨rises, core⟩ := core_dropped h
  rw [core_modCore_same _ _ _ rises, core]
  exact ⟨_, rfl⟩

theorem cores_sampled (w : Nat) : Rising (sampled (dropRsv (drainAll (fetched s r) r) r) r w).cores := cores_setCore _ _ _ (core_dropped h).1

theorem alone_sampled (w : Nat) : Alone (sampled (dropRsv (drainAll (fetched s r) r) r) r w) r := by
  obtain ⟨cst, core⟩ := core_sampled h w
  obtain ⟨lock, rep⟩ := alone_drained h
  constructor <;> rw [core]
  · exact lock
  · exact rep

theorem wait_passes (wakes : wakeCond (dropRsv (drainAll (fetched s r) r) r) r = true) :
    exec (.wait r) s = .next (retireOn (sampled (dropRsv (drainAll (fetched s r) r) r) r 1) r []) :=
  run_done_of h _ false _ _ [20] [] [] (waitBody_of _ r true wakes) (alone_sampled h 1)

/-- Without a wake the core waits behind the WAIT, its store buffer empty and its reservation gone. -/
theorem wait_waits (sleeps : wakeCond (dropRsv (drainAll (fetched s r) r) r) r = false) :
    ∃ t, exec (.wait r) s = .next (sleepJudge t (r / 8)) ∧ (t.core r).st = .waiting ∧ (t.core r).pc = pcOf s r + 4 ∧
      (t.core r).rsv = none ∧ (t.core r).sb = [] := by
  obtain ⟨cst, core⟩ := core_sampled h 0
  have here := pc_of_pipe ((drains_drained h).pipe r)
  obtain ⟨st, pc, rsv, sb⟩ := core_waitOn (r := r) (cores_sampled h 0)
  refine ⟨waitOn (sampled (dropRsv (drainAll (fetched s r) r) r) r 0) r, congrArg Host.Outcome.next ?_, st, pc.trans ?_, rsv.trans ?_, sb.trans ?_⟩
  · rw [run_ready h, waitBody_of _ r false sleeps]
    exact applyOut_wait (alone_sampled h 0).lock _ _
  all_goals rw [core]
  · exact congrArg (· + 4) here
  · exact sb_drained h

end

/-- Settles O16: NOP, SYNC and EVACK complete, RETT transfers, and WAIT completes or waits by the condition it samples. -/
theorem systemGroup : Obligations.SystemGroup := by
  intro s r h
  exact ⟨nop_passes h, ⟨sync_drains h, sb_drained h, localByte_drained h⟩, ⟨wait_passes h, wait_waits h⟩, evack_gives h, rett_leaps h⟩

end Sys2Proof.Proofs
end

section
namespace Sys2Proof.Proofs

open Sys2Proof.Machine Sys2Proof.Laws

/-! What an atomic leaves of its core -/

/-- The core runs, is no half of a pair, and repeats nothing. -/
structure Goes (u : State) (r : Nat) : Prop where
  rises : Rising u.cores
  st : (u.core r).st = .running
  lock : (u.core r).lockstep = false
  rep : (u.core r).rep = none

namespace Goes

variable {u v : State} {r : Nat}

theorem alone (h : Goes u r) : Alone u r := ⟨h.lock, h.rep⟩

theorem of_cores (h : Goes u r) (e : v.cores = u.cores) : Goes v r := by
  have core : v.core r = u.core r := by rw [State.core, e, State.core]
  exact ⟨e ▸ h.rises, core ▸ h.st, core ▸ h.lock, core ▸ h.rep⟩

theorem of_drains (h : Goes u r) (d : Drains r u v) : Goes v r :=
  ⟨d.rising, (drains_st d r).trans h.st, (lockstep_of_pipe (d.pipe r)).trans h.lock, (rep_of_pipe (d.pipe r)).trans h.rep⟩

theorem modCore (h : Goes u r) {f : CoreState → CoreState} (st : (f (u.core r)).st = (u.core r).st)
    (lock : (f (u.core r)).lockstep = (u.core r).lockstep) (rep : (f (u.core r)).rep = (u.core r).rep) : Goes (u.modCore r f) r := by
  have core := core_modCore_same u r f h.rises
  exact ⟨cores_setCore _ _ _ h.rises, core ▸ st.trans h.st, core ▸ lock.trans h.lock, core ▸ rep.trans h.rep⟩

theorem dropRsv (h : Goes u r) : Goes (dropRsv u r) r := by
  obtain ⟨rises, core, -⟩ := rest_dropRsv u r h.rises
  exact ⟨rises, core ▸ h.st, core ▸ h.lock, core ▸ h.rep⟩

theorem localCheck (h : Goes u r) (a : Nat) (f : Bool) : Goes (localCheck u r a f).1 r := h.of_drains (drains_localCheck u r a f h.rises).1

theorem readAt (h : Goes u r) (a : Nat) : Goes (readAt u r a) r := (h.of_cores (v := fetchLost u r) rfl).localCheck a false

theorem localPut (h : Goes u r) (a : Nat) (bs : List Byte) : Goes (localPut u r a bs) r :=
  (h.localCheck a false).modCore (f := fun c => { c with sram := memWrite c.sram a bs }) rfl rfl rfl

theorem reserve_own (h : Goes u r) (a : Nat) (w : Word) : Goes (reserve u r (.own a) w) r :=
  h.dropRsv.modCore (f := fun c => { c with rsv := some (granule (.own a)) }) rfl rfl rfl

theorem reserve_sram (h : Goes u r) (m off : Nat) (w : Word) : Goes (reserve u r (.sram m off) w) r := by
  refine (h.dropRsv.modCore (f := fun c => { c with rsv := some (granule (.sram m off)) }) rfl rfl rfl).of_cores ?_
  unfold reserve
  dsimp only
  split <;> rfl

end Goes

theorem cores_sramCheck (u : State) (m off req : Nat) : (sramCheck u m off req).1.cores = u.cores := by
  unfold sramCheck
  dsimp only
  split
  · rfl
  · split <;> rfl

theorem cores_sramPut (u : State) (r m off : Nat) (bs : List Byte) : (sramPut u r m off bs).1.cores = u.cores := cores_sramCheck u m off r

theorem priv_dropRsv (u : State) (r : Nat) : (dropRsv u r).priv = u.priv := by
  unfold dropRsv
  split
  · rfl
  · dsimp only
    split <;> rfl

section
variable {s : State} {r : Nat} (h : Ready s r)
include h

theorem goes_drained : Goes (drainAll (fetched s r) r) r :=
  ⟨(drains_drained h).rising, (drains_st (drains_drained h) r).trans (ready_running h).1, (alone_drained h).lock, (alone_drained h).rep⟩

theorem pc_drained : pcOf (drainAll (fetched s r) r) r = pcOf s r := pc_of_pipe ((drains_drained h).pipe r)

end

/-! Atomics on local SRAM (R336, R338, R393, R394) -/

/-- From `s` on the core's store buffer has emptied and the word at `a` of its local memory has been read. -/
structure WordRead (s : State) (r a : Nat) (v : State) : Prop where
  drains : Drains r s v
  empty : (v.core r).sb = []
  settled : tget 0 (v.core r).sramErr (a / 8) = 0 ∨ tget 0 (v.core r).sramErr (a / 8) = eccMark

/-- A read of the word of a core with nothing in its store buffer. -/
theorem wordRead_localCheck {s u : State} {r : Nat} (a : Nat) (f : Bool) (d : Drains r s u) (rises : ∀ k, SramRises (s.core k))
    (empty : (u.core r).sb = []) : WordRead s r a (localCheck u r a f).1 := by
  obtain ⟨dc, checks⟩ := drains_localCheck u r a f d.rising
  exact ⟨drains_trans d dc, checks.sb.trans empty, checks.settled ((d.bytes rises).1 r)⟩

namespace WordRead

variable {s v : State} {r a : Nat} (h : WordRead s r a v) (rises : ∀ k, SramRises (s.core k))
include h rises

/-- Memory holds at the word what the core's loads saw there before. -/
theorem byte {i : Nat} (hi : i / 8 = a / 8) : tget 0 (v.core r).sram i = localByte (s.core r) i := by
  rw [← (h.drains.bytes rises).2 r i, localByte_empty _ h.empty, readByte_settled _ _ _ (hi ▸ h.settled)]

theorem bytes (aligned : a % 4 = 0) : memBytes (v.core r).sram a 4 = (List.range 4).map fun k => localByte (s.core r) (a + k) := by
  refine List.map_congr_left fun k hk => h.byte rises ?_
  have := List.mem_range.1 hk
  omega

/-- A write of the word past the store buffer is what the core's loads see there from then on, and nothing else. -/
theorem localByte_write (aligned : a % 4 = 0) {bs : List Byte} (hl : bs.length = 4) (i : Nat) :
    localByte { v.core r with sram := memWrite (v.core r).sram a bs } i =
      if a ≤ i ∧ i < a + 4 then bs.getD (i - a) 0 else localByte (s.core r) i := by
  have write := tget_memWrite (v.core r).sram a bs i ((h.drains.bytes rises).1 r).1
  rw [hl] at write
  refine (localByte_empty { v.core r with sram := memWrite (v.core r).sram a bs } h.empty i).trans ?_
  dsimp only
  by_cases hi : i / 8 = a / 8
  · rw [readByte_settled _ _ _ (hi ▸ h.settled), write, h.byte rises hi]
  · rw [if_neg (by omega), ← (h.drains.bytes rises).2 r i, localByte_empty _ h.empty]
    refine readByte_congr i (fun j hj => ?_) rfl
    rw [tget_memWrite _ _ _ _ ((h.drains.bytes rises).1 r).1, hl, if_neg (by omega)]

end WordRead

section
variable {s u : State} {r a : Nat} (d : Drains r s u) (rises : ∀ k, SramRises (s.core k)) (empty : (u.core r).sb = [])
include d rises empty

theorem wordRead_readAt : WordRead s r a (readAt u r a) :=
  wordRead_localCheck a false (drains_trans d (drains_of_cores d.rising rfl rfl)) rises empty

/-- What a word written past the store buffer leaves. -/
theorem localPut_gives {bs : List Byte} (aligned : a % 4 = 0) (hl : bs.length = 4) :
    ((localPut u r a bs).core r).sb = [] ∧ ∀ i, localByte ((localPut u r a bs).core r) i =
      if a ≤ i ∧ i < a + 4 then bs.getD (i - a) 0 else localByte (s.core r) i := by
  have read := wordRead_localCheck a false d rises empty
  rw [localPut, core_modCore_same _ _ _ read.drains.rising]
  exact ⟨read.empty, read.localByte_write rises aligned hl⟩

end

/-- The loads of a core do not see its reservation. -/
theorem localByte_dropRsv {u : State} {r : Nat} (h : Rising u.cores) (i : Nat) : localByte ((dropRsv u r).core r) i = localByte (u.core r) i := by
  rw [(rest_dropRsv u r h).2.1]
  exact localByte_congr rfl rfl rfl i

theorem rsv_dropRsv {u : State} {r : Nat} (h : Rising u.cores) : ((dropRsv u r).core r).rsv = none := by rw [(rest_dropRsv u r h).2.1]

/-- LR.W leaves its granule in the core's marker, and its loads see what they saw. -/
theorem reserve_own_gives {u : State} {r : Nat} (h : Rising u.cores) (a : Nat) (w : Word) :
    ((reserve u r (.own a) w).core r).rsv = some (a / 16 * 16) ∧
      ∀ i, localByte ((reserve u r (.own a) w).core r) i = localByte (u.core r) i := by
  have core : (reserve u r (.own a) w).core r = { (dropRsv u r).core r with rsv := some (a / 16 * 16) } :=
    core_modCore_same (dropRsv u r) r (fun c => { c with rsv := some (a / 16 * 16) }) (rest_dropRsv u r h).1
  rw [core]
  exact ⟨rfl, fun i => (localByte_congr rfl rfl rfl i).trans (localByte_dropRsv h i)⟩

/-- The bytes that TAS leaves. -/
theorem one_bytes (a i : Nat) (x : Byte) :
    (if a ≤ i ∧ i < a + 4 then ([1, 0, 0, 0] : List Byte).getD (i - a) 0 else x) = if i = a then 1 else if a ≤ i ∧ i < a + 4 then 0 else x := by
  by_cases hi : i = a
  · rw [if_pos hi, if_pos (by omega), hi, Nat.sub_self]
    rfl
  · rw [if_neg hi]
    split
    next hr =>
      obtain e | e | e : i - a = 1 ∨ i - a = 2 ∨ i - a = 3 := by omega
      all_goals rw [e]; rfl
    next => rfl

theorem atPlace_own {r a : Nat} (h : a < 0x10000) : atPlace r a = some (.own a) := by rw [atPlace, place, if_pos h]

/-- The word at `a` as the core's loads see it. -/
abbrev wordAt (s : State) (r a : Nat) : Nat := leNat ((List.range 4).map fun k => localByte (s.core r) (a + k))

section
variable {s : State} {r : Nat} (h : Ready s r) {ra : Reg} (aligned : (gOf s r ra).toNat % 4 = 0) (own : (gOf s r ra).toNat < 0x10000)
include h aligned own

/-- TAS and LR.W give the word and do what they do with it. -/
theorem atomic_own_gives {w : Word} {f : State → Nat → AtPlace → Word → State} {rd : Reg} {kind : Nat}
    (good : ((drainAll (fetched s r) r).core r).bad (gOf s r ra).toNat = false) :
    let a := (gOf s r ra).toNat
    let t := f (readAt (drainAll (fetched s r) r) r a) r (.own a) (w32 (wordAt s r a))
    Alone t r → (.next (runInstr s r w true false (atomicRead ra f rd kind)) : Answer) = .next (retireOn t r [.g rd (BitVec.ofNat 32 (wordAt s r a))]) := by
  intro a t alone
  have read := wordRead_readAt (a := a) (drains_drained h) (sram_rising h.sound) (sb_drained h)
  have reg : ((fetched s r).core r).greg ra = gOf s r ra := greg_fetched h ra
  have run := atomicRead_own (fetched s r) r ra rd f kind (a := a) (by rw [reg]; exact aligned) (by rw [reg]; exact atPlace_own own) good
  rw [read.bytes (sram_rising h.sound) aligned] at run
  exact run_done_of h w false _ t _ [] _ run alone

theorem tas_own (good : ((drainAll (fetched s r) r).core r).bad (gOf s r ra).toNat = false) (rd : Reg) :
    let a := (gOf s r ra).toNat
    ∃ t, exec (.tas r rd ra) s = .next (retireOn t r [.g rd (BitVec.ofNat 32 (wordAt s r a))]) ∧ (t.core r).sb = [] ∧
      ∀ i, localByte (t.core r) i = if i = a then 1 else if a ≤ i ∧ i < a + 4 then 0 else localByte (s.core r) i := by
  intro a
  have read := wordRead_readAt (a := a) (drains_drained h) (sram_rising h.sound) (sb_drained h)
  have goes := (goes_drained h).readAt a
  obtain ⟨sb, bytes⟩ := localPut_gives (bs := [1, 0, 0, 0]) read.drains (sram_rising h.sound) read.empty aligned rfl
  have run := atomic_own_gives h aligned own (w := encRR 0x31 rd ra 0 0 0x00) (f := tasPut) (rd := rd) (kind := 3) good (goes.localPut a [1, 0, 0, 0]).alone
  exact ⟨_, run, sb, fun i => (bytes i).trans (one_bytes ..)⟩

theorem lr_own (good : ((drainAll (fetched s r) r).core r).bad (gOf s r ra).toNat = false) (rd : Reg) :
    let a := (gOf s r ra).toNat
    ∃ t, exec (.lrW r rd ra) s = .next (retireOn t r [.g rd (BitVec.ofNat 32 (wordAt s r a))]) ∧ (t.core r).rsv = some (a / 16 * 16) ∧
      ∀ i, localByte (t.core r) i = localByte (s.core r) i := by
  intro a
  have read := wordRead_readAt (a := a) (drains_drained h) (sram_rising h.sound) (sb_drained h)
  have goes := (goes_drained h).readAt a
  obtain ⟨rsv, bytes⟩ := reserve_own_gives goes.rises a (w32 (wordAt s r a))
  have run := atomic_own_gives h aligned own (w := encRR 0x31 rd ra 0 0 0x01) (f := reserve) (rd := rd) (kind := 4) good (goes.reserve_own a _).alone
  exact ⟨_, run, rsv,
    fun i => (bytes i).trans ((read.drains.bytes (sram_rising h.sound)).2 r i)⟩

/-- SC.W stores where the core's marker names the granule. -/
theorem sc_own_body (rd rb : Reg) :
    let u := drainAll (fetched s r) r
    let a := (gOf s r ra).toNat
    scBody rd ra rb (fetched s r) r = Eff.mk (if (s.core r).rsv = some (a / 16 * 16) then dropRsv (localPut u r a (leBytes 4 (gOf s r rb).toNat)) r
      else dropRsv (u.bumpPriv r CORE_CNT_SC_FAIL) r) [5, a, (gOf s r rb).toNat] []
      (.done [.g rd (if (s.core r).rsv = some (a / 16 * 16) then 0 else 1)]) := by
  intro u a
  have regA : ((fetched s r).core r).greg ra = gOf s r ra := greg_fetched h ra
  have regB : ((fetched s r).core r).greg rb = gOf s r rb := greg_fetched h rb
  have marker : reserved u r (.own a) = decide ((s.core r).rsv = some (a / 16 * 16)) := by
    rw [reserved, drains_rsv (drains_drained h), Bool.and_true]
    rfl
  have body := scBody_own (fetched s r) r ra rb rd (a := a) (by rw [regA]; exact aligned) (by rw [regA]; exact atPlace_own own)
  rw [regA, regB, marker] at body
  simpa only [decide_eq_true_eq] using body

theorem sc_own_stores (held : (s.core r).rsv = some ((gOf s r ra).toNat / 16 * 16)) (rd rb : Reg) :
    let a := (gOf s r ra).toNat
    ∃ t, exec (.scW r rd ra rb) s = .next (retireOn t r [.g rd 0]) ∧ (t.core r).rsv = none ∧ ∀ i, localByte (t.core r) i =
      if a ≤ i ∧ i < a + 4 then (leBytes 4 (gOf s r rb).toNat).getD (i - a) 0 else localByte (s.core r) i := by
  intro a
  have body := sc_own_body h aligned own rd rb
  dsimp only at body
  rw [if_pos held, if_pos held] at body
  have goes := (goes_drained h).localPut a (leBytes 4 (gOf s r rb).toNat)
  obtain ⟨-, bytes⟩ := localPut_gives (drains_drained h) (sram_rising h.sound) (sb_drained h) aligned (leBytes_length 4 (gOf s r rb).toNat)
  exact ⟨_, run_done_of h _ false _ _ _ [] _ body goes.dropRsv.alone, rsv_dropRsv goes.rises,
    fun i => (localByte_dropRsv goes.rises i).trans (bytes i)⟩

theorem sc_own_fails (other : (s.core r).rsv ≠ some ((gOf s r ra).toNat / 16 * 16)) (rd rb : Reg) :
    ∃ t, exec (.scW r rd ra rb) s = .next (retireOn t r [.g rd 1]) ∧ (t.core r).rsv = none ∧
      t.priv = ((drainAll (fetched s r) r).bumpPriv r CORE_CNT_SC_FAIL).priv ∧ ∀ i, localByte (t.core r) i = localByte (s.core r) i := by
  have body := sc_own_body h aligned own rd rb
  dsimp only at body
  rw [if_neg other, if_neg other] at body
  have goes : Goes ((drainAll (fetched s r) r).bumpPriv r CORE_CNT_SC_FAIL) r := (goes_drained h).of_cores rfl
  exact ⟨_, run_done_of h _ false _ _ _ [] _ body goes.dropRsv.alone, rsv_dropRsv goes.rises, priv_dropRsv ..,
    fun i => (localByte_dropRsv goes.rises i).trans (localByte_drained h i)⟩

end

/-- Settles O18: an atomic drains the store buffer, reads the word by a check of its own, and writes past the buffer. -/
theorem atomicsLocal : Obligations.AtomicsLocal := by
  intro s r ra h a u word aligned own good
  exact ⟨tas_own h aligned own good, lr_own h aligned own good, fun rd rb held => sc_own_stores h aligned own held rd rb,
    fun rd rb other => sc_own_fails h aligned own other rd rb⟩

end Sys2Proof.Proofs
end

section
namespace Sys2Proof.Proofs

open Sys2Proof.Machine Sys2Proof.Laws

/-! Atomics that fail, and atomics on meadow SRAM (R336, R337, R392, R393) -/

section
variable {s : State} {r : Nat} (h : Ready s r) {ra : Reg}
include h

/-- An atomic that fails does so behind its drain, with TVAL its address. -/
theorem atomic_traps (w : Word) {body : Body} {cause : Nat} {reqs : List Nat}
    (e : body (fetched s r) r = trapOut (drainAll (fetched s r) r) cause (w32 (((fetched s r).core r).greg ra).toNat) reqs) :
    (.next (runInstr s r w true false body) : Answer) = .next (trapOn (drainAll (fetched s r) r) r cause (gOf s r ra) (pcOf s r)) := by
  have tval : w32 (((fetched s r).core r).greg ra).toNat = gOf s r ra := by
    rw [w32, BitVec.ofNat_toNat, BitVec.setWidth_eq]
    exact greg_fetched h ra
  rw [tval] at e
  rw [run_trap_of h w false body _ _ _ _ _ _ e (alone_drained h), pc_drained h]

theorem atomics_misaligned (odd : (gOf s r ra).toNat % 4 ≠ 0) :
    let u := drainAll (fetched s r) r
    (∀ rd, exec (.tas r rd ra) s = .next (trapOn u r 4 (gOf s r ra) (pcOf s r)) ∧
      exec (.lrW r rd ra) s = .next (trapOn u r 4 (gOf s r ra) (pcOf s r))) ∧
    ∀ rd rb, exec (.scW r rd ra rb) s = .next (trapOn u r 5 (gOf s r ra) (pcOf s r)) := by
  rw [← greg_fetched h ra] at odd
  exact ⟨fun rd => ⟨atomic_traps h _ (atomicRead_misaligned _ _ _ _ tasPut 3 odd), atomic_traps h _ (atomicRead_misaligned _ _ _ _ reserve 4 odd)⟩,
    fun rd rb => atomic_traps h _ (scBody_misaligned _ _ _ _ _ odd)⟩

theorem atomics_nowhere (aligned : (gOf s r ra).toNat % 4 = 0) (nowhere : atPlace r (gOf s r ra).toNat = none) :
    let u := drainAll (fetched s r) r
    (∀ rd, exec (.tas r rd ra) s = .next (trapOn u r 6 (gOf s r ra) (pcOf s r)) ∧
      exec (.lrW r rd ra) s = .next (trapOn u r 6 (gOf s r ra) (pcOf s r))) ∧
    ∀ rd rb, exec (.scW r rd ra rb) s = .next (trapOn u r 7 (gOf s r ra) (pcOf s r)) := by
  rw [← greg_fetched h ra] at aligned nowhere
  exact ⟨fun rd => ⟨atomic_traps h _ (atomicRead_nowhere _ _ _ _ tasPut 3 aligned nowhere),
      atomic_traps h _ (atomicRead_nowhere _ _ _ _ reserve 4 aligned nowhere)⟩,
    fun rd rb => atomic_traps h _ (scBody_nowhere _ _ _ _ _ aligned nowhere)⟩

end

/-- An aligned word of the SRAM of the core's own meadow, which the meadow serves. -/
structure SramServed (s : State) (r : Nat) (ra : Reg) (off : Nat) : Prop where
  ready : Ready s r
  aligned : (gOf s r ra).toNat % 4 = 0
  place : atPlace r (gOf s r ra).toNat = some (.sram (r / 8) off)
  serves : sramRefuses (drainAll (fetched s r) r) (r / 8) r ((drainAll (fetched s r) r).roleOf r) = false

namespace SramServed

variable {s : State} {r off : Nat} {ra : Reg} (h : SramServed s r ra off)
include h

theorem active : ((drainAll (fetched s r) r).meadow (r / 8)).st = .active := by
  rw [drains_meadow (drains_drained h.ready)]
  exact (ready_running h.ready).2

/-- TAS and LR.W give the word as its check leaves it, and do what they do with it. -/
theorem read_gives {w : Word} {f : State → Nat → AtPlace → Word → State} {rd : Reg} {kind : Nat}
    (good : sramBad (drainAll (fetched s r) r) (r / 8) off = false) :
    let v := sramSeen (drainAll (fetched s r) r) (r / 8) off r
    let old := BitVec.ofNat 32 (leNat (memBytes (v.meadow (r / 8)).sram off 4))
    Goes (f v r (.sram (r / 8) off) old) r →
      (.next (runInstr s r w true false (atomicRead ra f rd kind)) : Answer) = .next (retireOn (f v r (.sram (r / 8) off) old) r [.g rd old]) := by
  intro v old goes
  have reg : ((fetched s r).core r).greg ra = gOf s r ra := greg_fetched h.ready ra
  exact run_done_of h.ready w false _ _ _ [] _ (atomicRead_sram (fetched s r) r ra rd f kind (by rw [reg]; exact h.aligned)
    (by rw [reg]; exact h.place) h.active h.serves good rfl goes.st) goes.alone

theorem tas_gives (good : sramBad (drainAll (fetched s r) r) (r / 8) off = false) (rd : Reg) :
    let v := sramSeen (drainAll (fetched s r) r) (r / 8) off r
    exec (.tas r rd ra) s = .next (retireOn (sramPut v r (r / 8) off [1, 0, 0, 0]).1 r
      [.g rd (BitVec.ofNat 32 (leNat (memBytes (v.meadow (r / 8)).sram off 4)))]) := by
  have seen := (goes_drained h.ready).of_cores (cores_sramCheck _ (r / 8) off r)
  exact h.read_gives (w := encRR 0x31 rd ra 0 0 0x00) (f := tasPut) (rd := rd) (kind := 3) good
    (seen.of_cores (cores_sramPut _ r (r / 8) off [1, 0, 0, 0]))

theorem lr_gives (good : sramBad (drainAll (fetched s r) r) (r / 8) off = false) (rd : Reg) :
    let v := sramSeen (drainAll (fetched s r) r) (r / 8) off r
    let old := BitVec.ofNat 32 (leNat (memBytes (v.meadow (r / 8)).sram off 4))
    exec (.lrW r rd ra) s = .next (retireOn (reserve v r (.sram (r / 8) off) old) r [.g rd old]) := by
  have seen := (goes_drained h.ready).of_cores (cores_sramCheck _ (r / 8) off r)
  exact h.read_gives (w := encRR 0x31 rd ra 0 0 0x01) (f := reserve) (rd := rd) (kind := 4) good (seen.reserve_sram (r / 8) off _)

theorem goes_stored (bs : List Byte) : Goes (dropRsv (sramPut (drainAll (fetched s r) r) r (r / 8) off bs).1 r) r :=
  ((goes_drained h.ready).of_cores (cores_sramPut ..)).dropRsv

theorem goes_missed : Goes (dropRsv ((drainAll (fetched s r) r).bumpPriv r CORE_CNT_SC_FAIL) r) r :=
  ((goes_drained h.ready).of_cores (v := (drainAll (fetched s r) r).bumpPriv r CORE_CNT_SC_FAIL) rfl).dropRsv

/-- SC.W stores where the marker and the meadow's entry name the granule, and else counts. -/
theorem sc_body (rd rb : Reg) :
    scBody rd ra rb (fetched s r) r = Eff.mk (if reserved (drainAll (fetched s r) r) r (.sram (r / 8) off) then
        dropRsv (sramPut (drainAll (fetched s r) r) r (r / 8) off (leBytes 4 (gOf s r rb).toNat)).1 r
      else dropRsv ((drainAll (fetched s r) r).bumpPriv r CORE_CNT_SC_FAIL) r) [5, (gOf s r ra).toNat, (gOf s r rb).toNat] []
      (.done [.g rd (if reserved (drainAll (fetched s r) r) r (.sram (r / 8) off) then 0 else 1)]) := by
  have regA : ((fetched s r).core r).greg ra = gOf s r ra := greg_fetched h.ready ra
  have regB : ((fetched s r).core r).greg rb = gOf s r rb := greg_fetched h.ready rb
  have body := scBody_sram (fetched s r) r ra rb rd (by rw [regA]; exact h.aligned) (by rw [regA]; exact h.place) h.active h.serves rfl
    (fun t ht => ht.elim (fun k => ((h.goes_stored _).of_cores k).st) fun k => (h.goes_missed.of_cores k).st)
  rwa [regA, regB] at body

theorem sc_stores (held : reserved (drainAll (fetched s r) r) r (.sram (r / 8) off) = true) (rd rb : Reg) :
    exec (.scW r rd ra rb) s =
      .next (retireOn (dropRsv (sramPut (drainAll (fetched s r) r) r (r / 8) off (leBytes 4 (gOf s r rb).toNat)).1 r) r [.g rd 0]) := by
  have body := h.sc_body rd rb
  rw [if_pos held, if_pos held] at body
  exact run_done_of h.ready _ false _ _ _ [] _ body (h.goes_stored _).alone

theorem sc_misses (other : reserved (drainAll (fetched s r) r) r (.sram (r / 8) off) = false) (rd rb : Reg) :
    exec (.scW r rd ra rb) s =
      .next (retireOn (dropRsv ((drainAll (fetched s r) r).bumpPriv r CORE_CNT_SC_FAIL) r) r [.g rd 1]) := by
  have body := h.sc_body rd rb
  rw [if_neg (ne_true_of_eq_false other), if_neg (ne_true_of_eq_false other)] at body
  exact run_done_of h.ready _ false _ _ _ [] _ body h.goes_missed.alone

end SramServed

/-- Settles O19: alignment comes before place, and on SRAM the meadow's word is checked, or the reservation looked up. -/
theorem atomicsElsewhere : Obligations.AtomicsElsewhere := by
  intro s r ra h a u
  refine ⟨atomics_misaligned h, atomics_nowhere h, fun off aligned place serves good => ?_⟩
  have served : SramServed s r ra off := ⟨h, aligned, place, serves⟩
  exact ⟨served.tas_gives good, served.lr_gives good, fun rd rb held => served.sc_stores held rd rb,
    fun rd rb other => served.sc_misses other rd rb⟩

end Sys2Proof.Proofs
end

section
namespace Sys2Proof.Proofs

open Sys2Proof.Machine Sys2Proof.Laws

/-! Local SRAM as a core's loads see it, through the store buffer (R354, R361, R363) -/

/-! What an entry of the store buffer covers -/

theorem covers_eq (e : SbEntry) (a n : Nat) : e.covers a n = (List.range n).any fun k => (entryByte e (a + k)).isSome := by
  unfold SbEntry.covers
  refine congrArg (List.any _) (funext fun k => ?_)
  unfold entryByte
  by_cases hw : e.word = (a + k) / 8
  · rw [if_pos hw, decide_eq_true hw.symm, Bool.true_and]
  · rw [if_neg hw, decide_eq_false (Ne.symm hw), Bool.false_and]
    rfl

theorem whole_eq (e : SbEntry) (a n : Nat) : e.whole a n = ((List.range n).map fun k => entryByte e (a + k)).mapM id := by
  unfold SbEntry.whole entryByte
  simp only [eq_comm (a := e.word)]

theorem entryByte_uncovered {e : SbEntry} {a n k : Nat} (h : e.covers a n = false) (hk : k < n) : entryByte e (a + k) = none := by
  rw [covers_eq, List.any_eq_false] at h
  simpa using h k (List.mem_range.2 hk)

/-- A list of options without a gap. -/
theorem map_some_of_mapM_id {α : Type} : ∀ {l : List (Option α)} {bs : List α}, l.mapM id = some bs → l = bs.map some
  | [], bs, h => by
    obtain rfl : [] = bs := by simpa using h
    rfl
  | o :: l, bs, h => by
    simp only [List.mapM_cons, id_eq, Option.bind_eq_bind, Option.bind_eq_some_iff, Option.pure_def, Option.some.injEq] at h
    obtain ⟨b, rfl, bs', h', rfl⟩ := h
    rw [map_some_of_mapM_id h', List.map_cons]

/-- Where no entry covers them, bytes are those of memory. -/
theorem localByte_uncovered {c : CoreState} {a n k : Nat} (h : ∀ e ∈ c.sb, e.covers a n = false) (hk : k < n) :
    localByte c (a + k) = readByte c.sram c.sramErr (a + k) := by
  have none_holds : (c.sb.reverse.findSome? fun e => entryByte e (a + k)) = none :=
    List.findSome?_eq_none_iff.2 fun e he => entryByte_uncovered (h e (List.mem_reverse.1 he)) hk
  rw [localByte_eq, none_holds]
  rfl

/-- The youngest entry that covers any of the bytes gives each that it holds. -/
theorem localByte_youngest {c : CoreState} {a n k : Nat} {e : SbEntry} {b : Byte}
    (h : (c.sb.reverse.find? fun e => e.covers a n) = some e) (hk : k < n) (hb : entryByte e (a + k) = some b) :
    localByte c (a + k) = b := by
  obtain ⟨-, younger, older, split, clear⟩ := List.find?_eq_some_iff_append.1 h
  have none_younger : (younger.findSome? fun e => entryByte e (a + k)) = none :=
    List.findSome?_eq_none_iff.2 fun e he => entryByte_uncovered (by simpa using clear e he) hk
  rw [localByte_eq, split, List.findSome?_append, none_younger, Option.none_or, List.findSome?_cons_of_isSome (by simp [hb]), hb]
  rfl

/-! Stores -/

/-- The bytes stored lie in the entry over those it held. -/
theorem entryByte_merge {e : SbEntry} {a : Nat} {bs : List Byte} (hw : e.word = a / 8) (inWord : a % 8 + bs.length ≤ 8) (i : Nat) :
    entryByte (e.merge a bs) i = if a ≤ i ∧ i < a + bs.length then some (bs.getD (i - a) 0) else entryByte e i := by
  have word : (e.merge a bs).word = e.word := rfl
  unfold entryByte
  rw [word]
  by_cases hi : e.word = i / 8
  · have here : 8 * e.word + i % 8 = i := by omega
    have held : (e.merge a bs).bytes.getD (i % 8) none = if a ≤ i ∧ i < a + bs.length then bs[i - a]? else e.bytes.getD (i % 8) none := by
      have hm : i % 8 < 8 := Nat.mod_lt _ (by decide)
      simp only [SbEntry.merge, List.getD_eq_getElem?_getD, List.getElem?_map, List.getElem?_range hm, Option.map_some, Option.getD_some, here]
    rw [if_pos hi, if_pos hi, held]
    split
    next hr =>
      have inside : i - a < bs.length := by omega
      rw [List.getD_eq_getElem _ _ inside, List.getElem?_eq_getElem inside]
    next => rfl
  · rw [if_neg hi, if_neg hi, if_neg (by omega)]

/-- The youngest entry of a store buffer is seen over the others. -/
theorem localByte_append (c : CoreState) (old : List SbEntry) (e : SbEntry) (i : Nat) :
    localByte { c with sb := old ++ [e] } i = (entryByte e i).getD (localByte { c with sb := old } i) := by
  rw [localByte_eq, localByte_eq]
  dsimp only
  rw [List.reverse_append, List.reverse_singleton, List.singleton_append]
  cases hb : entryByte e i with
  | none => rw [List.findSome?_cons_of_isNone (by simp [hb])]; rfl
  | some b => rw [List.findSome?_cons_of_isSome (by simp [hb]), hb]; rfl

section
variable {a : Nat} {bs : List Byte} (inWord : a % 8 + bs.length ≤ 8)
include inWord

/-- A store that joins the youngest entry changes the bytes it stores. -/
theorem localByte_joined {e : SbEntry} (hw : e.word = a / 8) (c : CoreState) (old : List SbEntry) (i : Nat) :
    localByte { c with sb := old ++ [e.merge a bs] } i =
      if a ≤ i ∧ i < a + bs.length then bs.getD (i - a) 0 else localByte { c with sb := old ++ [e] } i := by
  rw [localByte_append, entryByte_merge hw inWord, localByte_append]
  split <;> rfl

/-- And so does one with an entry of its own. -/
theorem localByte_entered (c : CoreState) (i : Nat) :
    localByte { c with sb := c.sb ++ [SbEntry.merge ⟨a / 8, []⟩ a bs] } i =
      if a ≤ i ∧ i < a + bs.length then bs.getD (i - a) 0 else localByte c i := by
  have nothing : entryByte ⟨a / 8, []⟩ i = none := by
    unfold entryByte
    split <;> rfl
  rw [localByte_joined inWord rfl, localByte_append, nothing]
  rfl

/-- What a store leaves of the core's view: a store into a buffer that is full lets the oldest entry drain (R361). -/
theorem localByte_sbStore {s : State} {r : Nat} (hc : Canonical s) (i : Nat) :
    localByte ((sbStore s r a bs).core r) i = if a ≤ i ∧ i < a + bs.length then bs.getD (i - a) 0 else localByte (s.core r) i := by
  have rising := rising_of_canonical hc
  unfold sbStore
  dsimp only
  cases last : (s.core r).sb.getLast? with
  | none =>
    dsimp only
    rw [core_setCore_same _ _ _ rising, ← localByte_entered inWord, List.getLast?_eq_none_iff.1 last]
    rfl
  | some e =>
    dsimp only
    obtain ⟨old, held⟩ := List.getLast?_eq_some_iff.1 last
    by_cases hw : e.word = a / 8
    · rw [if_pos hw, core_setCore_same _ _ _ rising, held, List.dropLast_concat, localByte_joined inWord hw, ← held]
    · rw [if_neg hw]
      have room : Drains r s (if (s.core r).sb.length < 4 then s else drainOne (s.bumpPriv r CORE_CNT_SB_FULL) r) := by
        split
        · exact drains_refl s r rising
        · have counted : Drains r s (s.bumpPriv r CORE_CNT_SB_FULL) := drains_of_cores rising rfl rfl
          exact drains_trans counted (drains_drainOne _ r counted.rising)
      rw [core_modCore_same _ _ _ room.rising, localByte_entered inWord, (room.bytes (sram_rising hc)).2]

end

/-- A store into code fetched ahead kills what was fetched, and stores no more (log entry 13). -/
theorem core_storeIntoCode (s : State) (r a k : Nat) : (storeIntoCode s r a).core k = s.core k := by
  unfold storeIntoCode
  dsimp only
  split
  · split <;> rfl
  · rfl

theorem coreStore_own {r a : Nat} {bs : List Byte} (s : State) (aligned : a % bs.length = 0) (own : a < 0x10000) :
    coreStore s r a bs = (storeIntoCode (sbStore s r a bs) r a, .val []) := by
  unfold coreStore
  dsimp only
  rw [if_neg (not_not.mpr aligned), place, if_pos own]

/-! Loads -/

theorem coreLoad_own {r a n : Nat} (s : State) (aligned : a % n = 0) (own : a < 0x10000) : coreLoad s r a n = localLoad s r a n := by
  unfold coreLoad
  rw [if_neg (not_not.mpr aligned), place, if_pos own]

/-- A fold that leaves its index unused. -/
theorem foldTo_const {α : Type} (n : Nat) (f : α → α) (a : α) : foldTo n (fun a _ => f a) a = f^[n] a := by
  unfold foldTo
  rw [List.foldl_const, List.length_range]

/-- The oldest entry drains while an entry hits. -/
abbrev drainHit (r : Nat) (hit : SbEntry → Bool) (s : State) : State := if (s.core r).sb.any hit then drainOne s r else s

theorem drainFor_eq (s : State) (r : Nat) (hit : SbEntry → Bool) : drainFor s r hit = (drainHit r hit)^[(s.core r).sb.length] s :=
  foldTo_const ..

/-- Draining until no entry hits leaves none that hits. -/
theorem sb_drainHits {r : Nat} {hit : SbEntry → Bool} : ∀ {n : Nat} {s : State}, Rising s.cores → (s.core r).sb.length ≤ n →
    ∀ e ∈ (((drainHit r hit)^[n] s).core r).sb, hit e = false
  | 0, s, _, hl => by
    have empty : (s.core r).sb = [] := List.length_eq_zero_iff.1 (Nat.le_zero.1 hl)
    show ∀ e ∈ (s.core r).sb, hit e = false
    simp [empty]
  | n + 1, s, rising, hl => by
    by_cases hits : (s.core r).sb.any hit = true
    · obtain ⟨d, shorter, -⟩ := drain_gives s r rising
      rw [Function.iterate_succ_apply, drainHit, if_pos hits]
      refine sb_drainHits d.rising ?_
      rw [shorter, List.length_tail]
      omega
    · have still : drainHit r hit s = s := if_neg hits
      rw [Function.iterate_fixed still]
      simpa using hits

section
variable {s u : State} {r a n : Nat} {bs : List Byte}

/-- A load that memory serves gives what the core's loads saw there, where no entry of its store buffer covers it and it lies in one word. -/
theorem sramRead_gives (d : Drains r s u) (rises : ∀ k, SramRises (s.core k)) (clear : ∀ e ∈ (u.core r).sb, e.covers a n = false)
    (inWord : ∀ k, k < n → (a + k) / 8 = a / 8) :
    ((sramRead u r a n).2 = .val bs → bs = (List.range n).map fun k => localByte (s.core r) (a + k)) ∧
      ∀ i, localByte ((sramRead u r a n).1.core r) i = localByte (s.core r) i := by
  obtain ⟨dc, checks⟩ := drains_localCheck (fetchLost u r) r a false d.rising
  have lost : Drains r s (fetchLost u r) := drains_trans d (drains_of_cores d.rising rfl rfl)
  have all := drains_trans lost dc
  have seen := (all.bytes rises).2 r
  have state : (sramRead u r a n).1 = (localCheck (fetchLost u r) r a false).1 := by
    unfold sramRead
    dsimp only
    split <;> rfl
  refine ⟨fun gives => ?_, fun i => state ▸ seen i⟩
  unfold sramRead at gives
  dsimp only at gives
  split at gives
  · cases gives
  · injection gives with gives
    rw [← gives]
    refine List.map_congr_left fun k hk => ?_
    have hk := List.mem_range.1 hk
    have settled := checks.settled ((d.bytes rises).1 r)
    rw [← seen, localByte_uncovered (fun e he => clear e (checks.sb ▸ he)) hk, readByte_settled _ _ _ (inWord k hk ▸ settled)]

/-- A load that one entry serves whole gives its bytes; one that an entry serves in part drains until memory serves it (R363). -/
theorem localLoad_gives (hc : Canonical s) (inWord : ∀ k, k < n → (a + k) / 8 = a / 8) :
    ((localLoad s r a n).2 = .val bs → bs = (List.range n).map fun k => localByte (s.core r) (a + k)) ∧
      ∀ i, localByte ((localLoad s r a n).1.core r) i = localByte (s.core r) i := by
  have rising := rising_of_canonical hc
  unfold localLoad
  cases young : (s.core r).sb.reverse.find? fun e => e.covers a n with
  | none =>
    refine sramRead_gives (drains_refl s r rising) (sram_rising hc) (fun e he => ?_) inWord
    simpa using List.find?_eq_none.1 young e (List.mem_reverse.2 he)
  | some e =>
    dsimp only
    cases whole : e.whole a n with
    | none =>
      have d := drains_drainFor s r (fun e => e.covers a n) rising
      exact sramRead_gives (drains_trans d (drains_of_cores d.rising rfl rfl)) (sram_rising hc) (drainFor_eq s r _ ▸ sb_drainHits rising le_rfl) inWord
    | some ws =>
      dsimp only
      refine ⟨fun gives => ?_, fun i => rfl⟩
      obtain rfl : ws = bs := by injection gives
      have held : ((List.range n).map fun k => entryByte e (a + k)) = ws.map some := map_some_of_mapM_id ((whole_eq e a n).symm.trans whole)
      refine List.map_injective_iff.mpr (Option.some_injective _) (held.symm.trans ?_)
      rw [List.map_map]
      refine List.map_congr_left fun k hk => ?_
      have some_byte : entryByte e (a + k) ∈ ws.map some := held ▸ List.mem_map_of_mem (f := fun k => entryByte e (a + k)) hk
      obtain ⟨b, -, hb⟩ := List.mem_map.1 some_byte
      exact hb.symm.trans (congrArg some (localByte_youngest young (List.mem_range.1 hk) hb.symm).symm)

end

/-- An aligned access of up to four bytes lies in one word of 64 bits. -/
theorem aligned_inWord {a n : Nat} (hn : n = 1 ∨ n = 2 ∨ n = 4) (aligned : a % n = 0) : a % 8 + n ≤ 8 := by
  obtain rfl | rfl | rfl := hn <;> omega

/-- Settles O14: a store puts its bytes over the youngest entry, and a load takes them from the youngest entry that covers it or, once
none does, from memory. -/
theorem localMemory : Obligations.LocalMemory := by
  intro s r a hc
  refine ⟨fun bs hl aligned own => ?store, fun n bs hn aligned own => ?load⟩
  case store =>
    dsimp only
    rw [coreStore_own s aligned own]
    exact ⟨rfl, fun i => (congrArg (localByte · i) (core_storeIntoCode ..)).trans (localByte_sbStore (aligned_inWord hl aligned) hc i)⟩
  case load =>
    dsimp only
    rw [coreLoad_own s aligned own]
    have inWord : ∀ k, k < n → (a + k) / 8 = a / 8 := fun k hk => by
      have := aligned_inWord hn aligned
      omega
    obtain ⟨bytes, still⟩ := localLoad_gives (s := s) (r := r) (bs := bs) hc inWord
    exact fun gives => ⟨bytes gives, still⟩

end Sys2Proof.Proofs
end

section
namespace Sys2Proof.Proofs

open Sys2Proof.Machine Sys2Proof.Laws

/-! What drains, cleared counters and the end of a wait leave of a core (R341, R361, R362, R381, R382, R416) -/

/-- What the oldest entry holds is in memory once it has drained. -/
theorem sram_drainOne {s : State} {r : Nat} (hc : Canonical s) {e : SbEntry} (oldest : (s.core r).sb.head? = some e) {a : Nat} {b : Byte}
    (hw : a / 8 = e.word) (hb : e.bytes.getD (a % 8) none = some b) : tget 0 ((drainOne s r).core r).sram a = b := by
  obtain ⟨m, rises, written⟩ := (drain_gives s r (rising_of_canonical hc)).2.2 e oldest (sram_rising hc r)
  have held : entryByte e a = some b := (if_pos hw.symm).trans hb
  rw [written, sbApply_get m e a rises, held]
  rfl

section
variable {s : State} {r : Nat}

theorem storeBufferDrain_drains (lock : (s.core r).lockstep = false) (upper : (s.core r).upper = false) :
    exec (.storeBufferDrain r) s = .next (drainOne s r) := by
  show Host.Outcome.next (if (s.core r).upper then s else (pairOf s r).foldl drainOne s) = _
  rw [if_neg (ne_true_of_eq_false upper), pairOf_alone lock]
  rfl

theorem coreCntClear_writes (lock : (s.core r).lockstep = false) :
    exec (.coreCntClear r) s = .next (if 2 ≤ s.roleOf r then privClear s r else s) := by
  have own : face s r = r := if_neg (ne_true_of_eq_false lock)
  show Host.Outcome.next (privWrite s (face s r) CORE_CNT_CLEAR 1) = _
  rw [own, privWrite]
  have asked : bit (1 : Word) 0 = true := by decide
  exact congrArg Host.Outcome.next (if_congr (by rw [asked]; exact ⟨fun h => h.2.2, fun h => ⟨rfl, rfl, h⟩⟩) rfl rfl)

/-- Of the core's own registers only CORE_LOCKSTEP_TPC keeps its value (R382, log entry 154). -/
theorem priv_privClear (hc : Canonical s) {off : Nat} (hoff : off < 0x1000) :
    (privClear s r).priv' r off = if off = CORE_LOCKSTEP_TPC then s.priv' r off else 0 := by
  have page : (r * 0x1000 + off) / 0x1000 = r := by omega
  have place : (r * 0x1000 + off) % 0x1000 = off := by omega
  have kept := tfind_filter s.priv (r * 0x1000 + off) (fun k => decide (k / 0x1000 ≠ r ∨ k % 0x1000 = CORE_LOCKSTEP_TPC))
    ((twf_iff _ _).1 hc.priv).1
  rw [page, place] at kept
  unfold State.priv' privClear tget
  refine (congrArg (Option.getD · 0) kept).trans ?_
  by_cases tpc : off = CORE_LOCKSTEP_TPC
  · rw [if_pos (decide_eq_true (.inr tpc)), if_pos tpc]
  · rw [if_neg (by simp [tpc]), if_neg tpc]
    rfl

/-- A core in an active meadow whose wake condition is true runs on, and no other core does (R341). -/
theorem waitWake_wakes (rising : Rising s.cores) (st : (s.core r).st = .waiting) (upper : (s.core r).upper = false)
    (lock : (s.core r).lockstep = false) (wakes : wakeCond s r = true) (active : (s.meadow (r / 8)).st = .active) :
    let v := waitWake s r
    (v.core r).st = .running ∧ (v.core r).pc = (s.core r).pc ∧ ∀ k, k ≠ r → (v.core k).st = (s.core k).st ∧ (v.core k).pc = (s.core k).pc := by
  have run : waitWake s r = wakeCore s r false := by
    unfold waitWake
    dsimp only
    rw [if_pos ⟨st, upper, wakes⟩, active]
  have woken : wakeCore s r false = (accrue s (r / 8)).modCore r fun c => { c with st := .running, cst := c.cst } := by
    rw [wakeCore, pairOf_alone lock]
    rfl
  have core := fun k => core_setCore (accrue s (r / 8)) r k { (accrue s (r / 8)).core r with st := .running } (core_accrue s (r / 8) k rising).1
  dsimp only
  rw [run, woken]
  refine ⟨?_, ?_, fun k hk => ?_⟩
  · rw [core, if_pos rfl]
  · obtain ⟨-, w, e⟩ := core_accrue s (r / 8) r rising
    rw [core, if_pos rfl, e]
  · obtain ⟨-, w, e⟩ := core_accrue s (r / 8) k rising
    rw [core, if_neg hk, e]
    exact ⟨rfl, rfl⟩

theorem waitWake_still (h : (s.core r).st ≠ .waiting ∨ wakeCond s r = false) : waitWake s r = s :=
  if_neg fun ⟨waits, _, wakes⟩ => h.elim (absurd waits) (ne_true_of_eq_false · wakes)

end

/-- Settles O21: a drain keeps every core's view, a clear leaves one register of the core's page, and a wake only sets the core going. -/
theorem coreHousekeeping : Obligations.CoreHousekeeping := by
  refine ⟨fun s r hc lock upper => ?drain, fun s r hc lock role => ?clear, fun s r lock role => ?stays,
    fun s t r hc => ?wakes, fun s t r => ?sleeps⟩
  case drain =>
    obtain ⟨d, sb, -⟩ := drain_gives s r (rising_of_canonical hc)
    exact ⟨_, storeBufferDrain_drains lock upper, sb, (d.bytes (sram_rising hc)).2 r, fun e oldest a b hw hb => sram_drainOne hc oldest hw hb⟩
  case clear =>
    exact ⟨_, (coreCntClear_writes lock).trans (congrArg _ (if_pos role)), rfl, fun off hoff => priv_privClear hc hoff⟩
  case stays => exact (coreCntClear_writes lock).trans (congrArg _ (if_neg (Nat.not_le.mpr role)))
  case wakes =>
    have rising : Rising (s.reach t).cores := rising_of_canonical (k_reach (P := T) s t ⟨trivial, hc⟩).canon
    exact fun st upper lock wakes active => ⟨_, rfl, waitWake_wakes rising st upper lock wakes active⟩
  case sleeps => exact fun h => congrArg Host.Outcome.next (waitWake_still h)

end Sys2Proof.Proofs
end

section
namespace Sys2Proof.Proofs

open Sys2Proof.Machine Sys2Proof.Laws

/-! What the events of the pins and of the sampler do, case by case (R433, R456, R457) -/

section
variable {s : State} {g : Nat}

/-- Outside an edge that an input selects, the pin's level is only kept (R433). -/
theorem gpioEdge_keeps {level : Bool} (h : s.dev = .shelf ∨ tget false s.gpioIn g = level ∨ bit (gpioCfg s g) 0 = true) :
    Machine.gpioEdge s g level = { s with gpioIn := tset false s.gpioIn g level } := by
  refine if_neg fun ⟨input, awake, edge⟩ => ?_
  obtain shelf | same | output := h
  · exact awake shelf
  · obtain ⟨low, high, -⟩ | ⟨high, low, -⟩ := edge <;> simp [low, high] at same
  · exact ne_true_of_eq_false input output

section
variable (hd : tiDue s (tiGpio g) = true)
include hd

/-- The task input of an input pin has no action, and its task ends. -/
theorem gpioAction_input (h : bit (gpioCfg s g) 0 = false) : Machine.gpioAction s g = tiEnd s (tiGpio g) :=
  (if_pos hd).trans (congrArg (tiEnd · (tiGpio g)) (if_pos h))

theorem gpioAction_drives (h : bit (gpioCfg s g) 0 = true) :
    Machine.gpioAction s g = tiEnd (match bits (gpioCfg s g) 6 4 with
      | 1 => gpioOut s g true
      | 2 => gpioOut s g false
      | 3 => gpioOut s g (!bit (gpioCfg s g) 1)
      | 4 =>
        match tget none s.gpioPulse g with
        | some (_, b) => { s with gpioPulse := tset none s.gpioPulse g (some (s.uptime + 10000, b)) }
        | none => gpioOut { s with gpioPulse := tset none s.gpioPulse g (some (s.uptime + 10000, bit (gpioCfg s g) 1)) } g
          (!bit (gpioCfg s g) 1)
      | _ => s) (tiGpio g) :=
  (if_pos hd).trans (congrArg (tiEnd · (tiGpio g)) (if_neg (ne_false_of_eq_true h)))

end

theorem gpioPulseEnd_none (h : tget none s.gpioPulse g = none) : Machine.gpioPulseEnd s g = s := by
  rw [Machine.gpioPulseEnd, h]

section
variable {e : Nat} {b : Bool} (h : tget none s.gpioPulse g = some (e, b))
include h

theorem gpioPulseEnd_restores (he : e ≤ s.uptime) :
    Machine.gpioPulseEnd s g = gpioOut { s with gpioPulse := tset none s.gpioPulse g none } g b := by
  rw [Machine.gpioPulseEnd, h]
  exact if_pos he

theorem gpioPulseEnd_early (he : s.uptime < e) : Machine.gpioPulseEnd s g = s := by
  rw [Machine.gpioPulseEnd, h]
  exact if_neg (Nat.not_le.mpr he)

end

end

section
variable {s : State} {volts : List Nat}

/-- A waiting RUN_NOW comes before the pass that is due (R457). -/
theorem samplerPass_runs (h : smpDue s = true) (hr : tiDue (smpFinish s) (tiSampler 0) = true) :
    Machine.samplerPass s volts = smpRunNow (smpFinish s) volts :=
  (if_pos h).trans (if_pos hr)

theorem samplerPass_passes (h : smpDue s = true) (hr : tiDue (smpFinish s) (tiSampler 0) = false) :
    Machine.samplerPass s volts = smpPass (smpNext (smpFinish s)) true none volts :=
  (if_pos h).trans (if_neg (ne_true_of_eq_false hr))

/-- SAMPLER_HOLD moves no instant. -/
theorem smpHeld_holds (h : tiDue s (tiSampler 1) = true) :
    smpHeld s 1 true = tiEnd (s.setFld .heath 0 HEATH_SMP_CFG 1 1 1) (tiSampler 1) :=
  (if_pos h).trans (congrArg (tiEnd · (tiSampler 1)) (if_neg fun ⟨release, _⟩ => Bool.noConfusion release))

/-- An instant that passed while HOLD was set is made up by none: the next is one to come (R457). -/
theorem smpHeld_releases (h : tiDue s (tiSampler 2) = true) :
    smpHeld s 2 false =
      (let v := s.setFld .heath 0 HEATH_SMP_CFG 1 1 0
       tiEnd (if (v.sampler.nextAt.any fun a => decide (a ≤ v.tbNs)) = true then smpNext v else v) (tiSampler 2)) := by
  refine (if_pos h).trans (congrArg (tiEnd · (tiSampler 2)) (if_congr ?_ rfl rfl))
  exact and_iff_right rfl

end

/-- Settles O48: each command does its function's work at its instant, and the function's cases are those of the statement. -/
theorem pinTimers : Obligations.PinTimers := by
  refine ⟨fun s t g level hg => ?edge, fun s t g hg => ?action, fun s t g hg => ?pulse, fun s t volts => ?pass, fun s t volts => ?now,
    fun s t => ?hold, fun s t => ?release, fun s t => ?clear⟩
  case edge =>
    have run : exec (.gpioEdge t g level) s = answer (Machine.gpioEdge (s.reach t) g level) :=
      answerAt_within (decide_eq_true hg) s t (Machine.gpioEdge · g level)
    exact ⟨run, fun h => run.trans (congrArg answer (gpioEdge_keeps h))⟩
  case action =>
    have run : exec (.gpioAction t g) s = answer (Machine.gpioAction (s.reach t) g) :=
      answerAt_within (decide_eq_true hg) s t (Machine.gpioAction · g)
    rw [run]
    exact ⟨fun hd => congrArg answer (if_neg (ne_true_of_eq_false hd)), fun hd h => congrArg answer (gpioAction_input hd h),
      fun hd h => congrArg answer (gpioAction_drives hd h)⟩
  case pulse =>
    have run : exec (.gpioPulseEnd t g) s = answer (Machine.gpioPulseEnd (s.reach t) g) :=
      answerAt_within (decide_eq_true hg) s t (Machine.gpioPulseEnd · g)
    rw [run]
    exact ⟨fun e b h he => congrArg answer (gpioPulseEnd_restores h he), fun e b h he => congrArg answer (gpioPulseEnd_early h he),
      fun h => congrArg answer (gpioPulseEnd_none h)⟩
  case pass =>
    have run : exec (.samplerPass t volts) s = answer (Machine.samplerPass (s.reach t) volts) := rfl
    rw [run]
    exact ⟨fun h => congrArg answer (if_neg (ne_true_of_eq_false h)), fun h hr => congrArg answer (samplerPass_runs h hr),
      fun h hr => congrArg answer (samplerPass_passes h hr)⟩
  case now =>
    have run : exec (.runNow t volts) s = answer (Machine.runNow (s.reach t) volts) := rfl
    obtain ⟨runs, stays⟩ := answer_cases run
    exact ⟨runs, fun h => stays (ne_true_of_eq_false h)⟩
  case hold =>
    have run : exec (.samplerHold t) s = answer (smpHeld (s.reach t) 1 true) := rfl
    rw [run]
    exact ⟨fun h => congrArg answer (smpHeld_holds h), fun h => congrArg answer (if_neg (ne_true_of_eq_false h))⟩
  case release =>
    have run : exec (.samplerRelease t) s = answer (smpHeld (s.reach t) 2 false) := rfl
    rw [run]
    exact ⟨fun h => congrArg answer (smpHeld_releases h), fun h => congrArg answer (if_neg (ne_true_of_eq_false h))⟩
  case clear =>
    have run : exec (.clearCounts t) s = answer (smpClear (s.reach t)) := rfl
    obtain ⟨clears, stays⟩ := answer_cases run
    exact ⟨clears, fun h => stays (ne_true_of_eq_false h)⟩

end Sys2Proof.Proofs
end

section
namespace Sys2Proof.Proofs

open Sys2Proof.Machine Sys2Proof.Laws

/-! What the events of a seam, and of the accesses that wait at one, do (R470, R473, R475, R476) -/

/-- Settles O49: each command does its function's work at its instant, and the function's cases are those of the statement. -/
theorem seamTimers : Obligations.SeamTimers := by
  refine ⟨fun s t seen hk => ?watchdog, fun s t k hk => ?release, fun s t k hk => ?realign, fun s t k hk => ?stop,
    fun s t k hk => ?back, fun s t req => ?timeout⟩
  case watchdog =>
    exact answer_cases (answerAt_within (decide_eq_true hk) s t (Machine.seamWatchdog · seen.sm seen.rx seen.tx))
  case release => exact answer_cases (answerAt_within (decide_eq_true hk) s t (Machine.islandRelease · k))
  case realign => exact answer_cases (answerAt_within (decide_eq_true hk) s t (seamLive · k))
  case stop => exact answer_cases (answerAt_within (decide_eq_true hk) s t (clockStop · k))
  case back => exact answer_cases (answerAt_within (decide_eq_true hk) s t (clockReturn · k))
  case timeout => rfl

end Sys2Proof.Proofs
end

section
namespace Sys2Proof.Proofs

open Sys2Proof.Machine Sys2Proof.Laws

/-! What each security order of Mantle does, once its checks have passed (R518 to R520, R522, R524 to R527, R536) -/

section
variable {s : State} {d : Desc}

theorem orderClaim_writes (h : claimJudge s (staged s d.target.toNat (claimLen s d.target.toNat)) = cDone) :
    orderClaim s d =
      fin (((claimEntries (staged s d.target.toNat (claimLen s d.target.toNat))).foldl (fun s e => setKey s (4 + leAt e 0 1) (keyOfEntry e)) s).modMantle
        fun m => { m with token := none }) cDone (claimEntries (staged s d.target.toNat (claimLen s d.target.toNat))).length := by
  unfold orderClaim
  exact if_pos h

/-- A claim that fails writes no slot (R520). -/
theorem orderClaim_fails (h : claimJudge s (staged s d.target.toNat (claimLen s d.target.toNat)) ≠ cDone) :
    orderClaim s d = fin (s.bump .mantle 0 MANTLE_SEC_CNT_CLAIM_FAIL)
      (claimJudge s (staged s d.target.toNat (claimLen s d.target.toNat))) := by
  unfold orderClaim
  exact if_neg h

section
variable {t : List Byte} (ht : staged s d.target.toNat tokenLen = t)
include ht

theorem orderUnlock_grants (h : (tokenJudge s t).2 = cDone) :
    orderUnlock s d =
      fin (((tokenJudge s t).1.modMantle fun m => { m with challenge := none, token := some (tokenOf t) }).fire1 4) cDone (tokenOf t).role := by
  unfold orderUnlock
  rw [ht]
  exact if_pos h

/-- The challenge is used up by a token that fails, too (R524). -/
theorem orderUnlock_fails (h : (tokenJudge s t).2 ≠ cDone) :
    orderUnlock s d =
      fin (((tokenJudge s t).1.modMantle fun m => { m with challenge := none }).bump .mantle 0 MANTLE_SEC_CNT_DEBUG_FAIL)
        (tokenJudge s t).2 := by
  unfold orderUnlock
  rw [ht]
  exact if_neg h

end

theorem orderJournalRead_gives {e : JEntry}
    (h : (s.mantle.ring.find? fun e => decide (e.seq = d.target.toNat + 2 ^ 32 * d.bytes 11 8)) = some e) :
    orderJournalRead s d = fin s cDone 1 (e.words ++ [d64 e.chain.toNat, d64 (e.chain.toNat / 2 ^ 64)]) := by
  unfold orderJournalRead
  dsimp only
  rw [h]

theorem orderJournalRead_gone
    (h : (s.mantle.ring.find? fun e => decide (e.seq = d.target.toNat + 2 ^ 32 * d.bytes 11 8)) = none) :
    orderJournalRead s d = fin s cDone 0 := by
  unfold orderJournalRead
  dsimp only
  rw [h]

/-- The last maker slot that is not revoked stays so (R518). -/
theorem orderRevoke_last (h : ((List.range 4).filter fun j => !s.mantle.fuses.getLsbD j) = [d.target.toNat]) :
    orderRevoke s d = fin s cNotNow (bits s.mantle.fuses 3 0) :=
  if_pos h

theorem orderRevoke_blows (h : ((List.range 4).filter fun j => !s.mantle.fuses.getLsbD j) ≠ [d.target.toNat]) :
    orderRevoke s d =
      fin (s.modMantle fun m => { m with fuses := setBits m.fuses d.target.toNat d.target.toNat 1 }) cDone
        (bits (setBits s.mantle.fuses d.target.toNat d.target.toNat 1) 3 0) :=
  if_neg h

theorem orderRootStep_spent (h : 64 ≤ s.mantle.rootSteps) : orderRootStep s = fin s cNotNow s.mantle.rootSteps := if_pos h

theorem orderRootStep_blows (h : s.mantle.rootSteps < 64) :
    orderRootStep s = fin (s.modMantle fun m => { m with rootSteps := m.rootSteps + 1 }) cDone (s.mantle.rootSteps + 1) :=
  if_neg (Nat.not_le.mpr h)

end

section
variable {c : Instr} {op : Nat} {d : Desc} {s u : State} (hc : orderIn c = some (⟨.mantle, 0, op, d⟩, {})) (ht : Taken s .mantle 0 op d)
  (h2 : op ≠ 2)
include hc ht h2

/-- An order of Mantle other than APPLY that goes through and that Mantle completes at once. -/
theorem mantleOrder_gives {code r : Nat} {x : List Dword} (hb : mantleBody op d (logged s .mantle 0 op d {}) = fin u code r x) :
    exec c s = orderDone u .mantle 0 op d code r x :=
  taken_gives s hc ht (fun h => h2 h.2) (by simp) hb

/-- One that goes through and that Mantle completes once its packets have left. -/
theorem mantleOrder_goes (hb : mantleBody op d (logged s .mantle 0 op d {}) = later u) : exec c s = answer u :=
  taken_goes s hc ht (fun h => h2 h.2) (by simp) hb

end

/-- Settles O32: each command submits its order, and what Mantle's work on it comes to becomes the completion, or the order stays open
until its report has left. -/
theorem securityOrders : Obligations.SecurityOrders := by
  refine ⟨fun s d ht => ?claim, fun s d ht => ?attest, fun s d ht => ?cert, fun s d ht => ?challenge, fun s d ht => ?unlock,
    fun s d ht => ?lock, fun s d ht => ?mark, fun s d ht => ?read, fun s d ht => ?revoke, fun s d ht => ?root,
    fun s d ht => ?quiesce, fun s d ht => ?diag⟩
  case claim =>
    refine ⟨fun h => ?_, fun h => ?_⟩
    · have work := orderClaim_writes h
      exact mantleOrder_gives (c := .claim d) rfl ht (by decide) work
    · have work := orderClaim_fails h
      exact mantleOrder_gives (c := .claim d) rfl ht (by decide) work
  case attest => exact mantleOrder_goes (c := .attest d) rfl ht (by decide) rfl
  case cert => exact mantleOrder_goes (c := .deviceCert d) rfl ht (by decide) rfl
  case challenge => exact mantleOrder_gives (c := .debugChallenge d) rfl ht (by decide) rfl
  case unlock =>
    refine ⟨fun h => ?_, fun h => ?_⟩
    · have work := orderUnlock_grants rfl h
      exact mantleOrder_gives (c := .debugUnlock d) rfl ht (by decide) work
    · have work := orderUnlock_fails rfl h
      exact mantleOrder_gives (c := .debugUnlock d) rfl ht (by decide) work
  case lock => exact mantleOrder_gives (c := .debugLock d) rfl ht (by decide) rfl
  case mark => exact mantleOrder_gives (c := .journalMark d) rfl ht (by decide) rfl
  case read =>
    exact ⟨fun e h => mantleOrder_gives (c := .journalRead d) rfl ht (by decide) (orderJournalRead_gives h),
      fun h => mantleOrder_gives (c := .journalRead d) rfl ht (by decide) (orderJournalRead_gone h)⟩
  case revoke =>
    exact ⟨fun h => mantleOrder_gives (c := .revokeMakerSlot d) rfl ht (by decide) (orderRevoke_last h),
      fun h => mantleOrder_gives (c := .revokeMakerSlot d) rfl ht (by decide) (orderRevoke_blows h)⟩
  case root =>
    exact ⟨fun h => mantleOrder_gives (c := .rootStep d) rfl ht (by decide) (orderRootStep_spent h),
      fun h => mantleOrder_gives (c := .rootStep d) rfl ht (by decide) (orderRootStep_blows h)⟩
  case quiesce => exact mantleOrder_gives (c := .quiesceAll d) rfl ht (by decide) rfl
  case diag => exact mantleOrder_gives (c := .makerDiag d) rfl ht (by decide) rfl

end Sys2Proof.Proofs
end

section
namespace Sys2Proof.Proofs

open Sys2Proof.Machine Sys2Proof.Laws

/-! What the expiry of a debug token, the journal's offers and a debug instruction do, case by case (R523, R524, R532, R533, log entry 42) -/

section
variable {s : State}

theorem debugExpiry_none (h : s.mantle.token = none) : Machine.debugExpiry s = s := by
  rw [Machine.debugExpiry, h]

section
variable {k : Token} (h : s.mantle.token = some k)
include h

theorem debugExpiry_early (hk : s.townSec < k.until_) : Machine.debugExpiry s = s := by
  rw [Machine.debugExpiry, h]
  exact if_neg (Nat.not_le.mpr hk)

/-- The lock is journaled with the token still there (R524). -/
theorem debugExpiry_locks (hk : k.until_ ≤ s.townSec) :
    Machine.debugExpiry s =
      (journalOrLose s (mkAct s 404 0x7003 (w32 (bnat k.cores + 2 * bnat k.mem + 4 * k.role)) 0 (d64 k.until_) 0 7)).modMantle
        fun m => { m with token := none } := by
  rw [Machine.debugExpiry, h]
  exact if_pos hk

end

end

/-- Settles O50: each command does its function's work at its instant, and the function's cases are those of the statement. -/
theorem securityTimers : Obligations.SecurityTimers := by
  refine ⟨fun s t => ?expiry, fun s t => ?offer, fun s t => ?held, fun s t op => ?debug⟩
  case expiry =>
    have run : exec (.debugExpiry t) s = answer (Machine.debugExpiry (s.reach t)) := rfl
    rw [run]
    exact ⟨fun h => congrArg answer (debugExpiry_none h), fun k h hk => congrArg answer (debugExpiry_early h hk),
      fun k h hk => congrArg answer (debugExpiry_locks h hk)⟩
  case offer =>
    have run : exec (.journalExport t) s = answer (Machine.journalExport (s.reach t)) := rfl
    obtain ⟨offers, stays⟩ := answer_cases run
    exact ⟨fun h => stays (ne_true_of_eq_false h), offers⟩
  case held =>
    have run : exec (.journalHeldFlush t) s = answer (jFlush (s.reach t)) := rfl
    obtain ⟨flushes, stays⟩ := answer_cases run
    exact ⟨fun h => stays (ne_true_of_eq_false h), flushes⟩
  case debug =>
    have run : exec (.debugAccess t op) s = answer (debugStep (s.reach t) op) := rfl
    exact answer_cases run

end Sys2Proof.Proofs
end

section
namespace Sys2Proof.Proofs

open Sys2Proof.Machine Sys2Proof.Laws

/-! What frames, datagrams, exchanges and link changes of an uplink do, case by case (R541, R543, R544, R546, R549 to R553, R560, log entries 116 to 119) -/

section
variable {s : State} {n : Nat}

/-- A frame on an uplink that is up passes the receive FIFO, and is then dropped or goes by the rules. -/
theorem uplFrame_passes {f : EthFrame} (h : uplUp s n = true) :
    uplFrame s n f =
      (let y := fifoPour (uplBank (s.bump .upl n UPL_CNT_RX_FRAMES) n 0) (seamUpl n) .rx f.behind
       let v := y.1
       if f.fcs ≠ crc32 f.bytes ∨ y.2 = true then rxDrop (crcRewind v n f.bytes) n
       else if frameFits v n f.bytes = false then rxDrop (if ethType f.bytes = 0x8808 then v.bump .upl n UPL_CNT_MAC_CTRL else v) n
       else if isOwnPort v n f.bytes && !isPtp v n f.bytes then v
       else match ruleFor v n f.bytes with
         | some i => rxFile v n i f.bytes
         | none => if isPtp v n f.bytes then v else rxDrop v n) :=
  if_neg (ne_false_of_eq_true h)

section
variable {named complete : Bool} {offset : Int} (h : ¬((s.upl n).st ≠ 4 ∨ tbMode s ≠ 1 ∨ tbSource s ≠ n))
include h

/-- An exchange with a clock that is not the master named is rejected (R541). -/
theorem ptpMessage_rejects (hn : named = false) : ptpMessage s n named complete offset = s.bump .heath 0 HEATH_TB_CNT_REJECTED :=
  (if_neg h).trans (if_pos hn)

theorem ptpMessage_samples (hn : named = true) : ptpMessage s n named complete offset = if complete then ptpSample s offset else s :=
  (if_neg h).trans (if_neg (ne_false_of_eq_true hn))

end

section
variable {f : Datagram} (h : ¬(uplUp s n = false ∨ s.fld .upl n UPL_PORTS 15 0 = 0 ∨ handoffForm f.payload = false))
include h

theorem handoffRx_unsigned (hp : handoffPeer s n f = none) : Machine.handoffRx s n f = handoffDrop s n UPL_CNT_HO_AUTH 4 f.payload := by
  refine (if_neg h).trans ?_
  rw [hp]

section
variable {p : Nat} (hp : handoffPeer s n f = some p)
include hp

/-- Nothing a peer sends first is a duplicate or stale (R552). -/
theorem handoffRx_first (hs : (s.peer n p).seen = none) :
    Machine.handoffRx s n f =
      (let w := ureg s n (UPL_HO_IN + 4 * (leAt f.payload 7 1 % 64))
       if leAt f.payload 7 1 < 64 ∧ bit w 20 = true ∧ (bit w 25 = true ∨ bits w 24 21 = p) then handoffTake s n p f.payload
       else handoffDrop s n UPL_CNT_HO_AUTH 4 f.payload) := by
  refine (if_neg h).trans ?_
  rw [hp]
  dsimp only
  rw [hs]

/-- Behind one seen before, an advance of the epoch or of the number within it is new (R552). -/
theorem handoffRx_next {e0 : BitVec 16} {q0 : BitVec 32} (hs : (s.peer n p).seen = some (e0, q0)) :
    Machine.handoffRx s n f =
      (let w := ureg s n (UPL_HO_IN + 4 * (leAt f.payload 7 1 % 64))
       let de := (BitVec.ofNat 16 (leAt f.payload 20 2) - e0).toNat
       let dq := (w32 (leAt f.payload 16 4) - q0).toNat
       if de = 0 ∧ ¬(1 ≤ dq ∧ dq < 2 ^ 31) then handoffDrop s n UPL_CNT_HO_DUP 2 f.payload
       else if 32768 ≤ de then handoffDrop s n UPL_CNT_HO_STALE 3 f.payload
       else if leAt f.payload 7 1 < 64 ∧ bit w 20 = true ∧ (bit w 25 = true ∨ bits w 24 21 = p) then handoffTake s n p f.payload
       else handoffDrop s n UPL_CNT_HO_AUTH 4 f.payload) := by
  refine (if_neg h).trans ?_
  rw [hp]
  dsimp only
  rw [hs]
  dsimp only
  generalize (BitVec.ofNat 16 (leAt f.payload 20 2) - e0).toNat = de
  generalize (w32 (leAt f.payload 16 4) - q0).toNat = dq
  by_cases same : de = 0
  · subst same
    rw [if_pos (c := (0 : Nat) = 0) rfl]
    by_cases new : 1 ≤ dq ∧ dq < 2 ^ 31
    · rw [if_pos new, if_neg (c := 0 = 0 ∧ ¬(1 ≤ dq ∧ dq < 2 ^ 31)) fun k => k.2 new]
      rfl
    · rw [if_neg new, if_pos (c := 0 = 0 ∧ ¬(1 ≤ dq ∧ dq < 2 ^ 31)) ⟨rfl, new⟩]
  · rw [if_neg same, if_neg (c := de = 0 ∧ ¬(1 ≤ dq ∧ dq < 2 ^ 31)) fun k => same k.1]
    by_cases stale : 32768 ≤ de
    · rw [if_neg (c := de < 32768) (Nat.not_lt.mpr stale), if_pos stale]
    · rw [if_pos (c := de < 32768) (Nat.not_le.mp stale), if_neg stale]

end

end

section
variable {k : Nat} (hd : tiDue s (tiHandoff n k) = true)
include hd

/-- An entry that is not valid, or names no peer, sends nothing. -/
theorem handoffOut_idle (h : bit (ureg s n (UPL_HO_OUT + 4 * k)) 11 = false ∨
      (s.peer n (bits (ureg s n (UPL_HO_OUT + 4 * k)) 3 0)).valid = false ∨ (s.peer n (bits (ureg s n (UPL_HO_OUT + 4 * k)) 3 0)).peer = false) :
    Machine.handoffOut s n k = tiEnd s (tiHandoff n k) :=
  (if_pos hd).trans (if_pos h)

theorem handoffOut_sends (h : ¬(bit (ureg s n (UPL_HO_OUT + 4 * k)) 11 = false ∨
      (s.peer n (bits (ureg s n (UPL_HO_OUT + 4 * k)) 3 0)).valid = false ∨ (s.peer n (bits (ureg s n (UPL_HO_OUT + 4 * k)) 3 0)).peer = false)) :
    Machine.handoffOut s n k =
      (let w := ureg s n (UPL_HO_OUT + 4 * k)
       let p := bits w 3 0
       let x := if bit w 10 then trackWords s n k else (s, [])
       let seq := (x.1.peer n p).sentSeq + 1
       let v := x.1.setPeer n p { x.1.peer n p with sentSeq := seq }
       let head := handoffHead (bits w 10 10) (s.ti (tiHandoff n k)).lastHop (bits w 9 4) Config.serial seq v.fedEpoch v.t48 x.2
       let frame := head ++ Config.hmac (v.peer n p).key head
       let v := tiEnd v (tiHandoff n k)
       if uplUp v n then handoffLog (uplBank ((uplSent v n frame).bump .upl n UPL_CNT_HO_SENT) n 2) n true 0 frame
       else handoffLog v n true 5 frame) :=
  (if_pos hd).trans (if_neg h)

end

section
variable {up an : Bool}

theorem uplLink_comes (hu : up = true) (hs : (s.upl n).st = 3) :
    uplLink s n up an = setUplSt (s.modUpl n fun x =>
      { x with speed10 := bit (ureg s n UPL_CFG) 1, an := an && bit (ureg s n UPL_CFG) 2 && !bit (ureg s n UPL_CFG) 1 }) n 4 :=
  if_pos ⟨hu, hs⟩

theorem uplLink_goes (hu : up = false) (hs : (s.upl n).st = 4) : uplLink s n up an = uplFlap s n 3 :=
  (if_neg fun ⟨comes, _⟩ => ne_true_of_eq_false hu comes).trans (if_pos ⟨hu, hs⟩)

theorem uplLink_stays (h3 : ¬(up = true ∧ (s.upl n).st = 3)) (h4 : ¬(up = false ∧ (s.upl n).st = 4)) : uplLink s n up an = s :=
  (if_neg h3).trans (if_neg h4)

end

end

/-- Settles O51: each command does its function's work at its instant, and the function's cases are those of the statement. -/
theorem uplinkEvents : Obligations.UplinkEvents := by
  refine ⟨fun s t n f hn => ?frame, fun s t n named complete offset hn => ?ptp, fun s t => ?holdover, fun s t n f hn => ?receive,
    fun s t n k hn => ?send, fun s t n j hn => ?offer, fun s t n up an hn => ?link⟩
  case frame =>
    have run : exec (.uplinkFrameRx t n f) s = answer (uplFrame (s.reach t) n f) :=
      answerAt_within (decide_eq_true hn) s t (uplFrame · n f)
    rw [run]
    exact ⟨fun h => congrArg answer (if_pos h), fun h => congrArg answer (uplFrame_passes h)⟩
  case ptp =>
    have run : exec (.ptpMessageRx t n named complete offset) s = answer (ptpMessage (s.reach t) n named complete offset) :=
      answerAt_within (decide_eq_true hn) s t (ptpMessage · n named complete offset)
    rw [run]
    exact ⟨fun h => congrArg answer (if_pos h), fun h hf => congrArg answer (ptpMessage_rejects h hf),
      fun h ht => congrArg answer (ptpMessage_samples h ht)⟩
  case holdover =>
    have run : exec (.ptpHoldover t) s = answer (Machine.ptpHoldover (s.reach t)) := rfl
    exact answer_cases run
  case receive =>
    have run : exec (.handoffRx t n f) s = answer (Machine.handoffRx (s.reach t) n f) :=
      answerAt_within (decide_eq_true hn) s t (Machine.handoffRx · n f)
    rw [run]
    exact ⟨fun h => congrArg answer (if_pos h), fun h hp => congrArg answer (handoffRx_unsigned h hp),
      fun p h hp hs => congrArg answer (handoffRx_first h hp hs), fun p e0 q0 h hp hs => congrArg answer (handoffRx_next h hp hs)⟩
  case send =>
    have run : exec (.handoffOut t n k) s = answer (Machine.handoffOut (s.reach t) n k) :=
      answerAt_within (decide_eq_true hn) s t (Machine.handoffOut · n k)
    rw [run]
    exact ⟨fun hd => congrArg answer (if_neg (ne_true_of_eq_false hd)), fun hd h => congrArg answer (handoffOut_idle hd h),
      fun hd h => congrArg answer (handoffOut_sends hd h)⟩
  case offer => exact answer_cases (answerAt_within (decide_eq_true hn) s t (Machine.exportSend · n j))
  case link =>
    have run : exec (.uplinkLinkChange t n up an) s = answer (uplLink (s.reach t) n up an) :=
      answerAt_within (decide_eq_true hn) s t (uplLink · n up an)
    rw [run]
    exact ⟨fun hu hs => congrArg answer (uplLink_comes hu hs), fun hu hs => congrArg answer (uplLink_goes hu hs),
      fun h3 h4 => congrArg answer (uplLink_stays h3 h4)⟩

end Sys2Proof.Proofs
end

section
namespace Sys2Proof.Proofs

open Sys2Proof.Machine Sys2Proof.Laws

/-! What the management accesses of an uplink, of the I2C target and of the timebase do, case by case (R554 to R559, R565, log entries 48
and 121) -/

section
variable {s : State} {n : Nat}

theorem mgmtStage_serves {off : Nat} {bs : List Byte} (h : mgmtHears s n = true) :
    mgmtStage s n off bs =
      (let v := s.bump .upl n UPL_CNT_MGMT_REQ
       if v.rbit .upl n UPL_MGMT 0 = false ∨ off % 8 ≠ 0 ∨ bs.length % 8 ≠ 0 ∨ 1400 < bs.length ∨ 0x400000 < off + bs.length then
         mgmtDenied v n
       else if mantleRuns v = false then respond v n [b8 cAbsent]
       else respond (v.modMantle fun m => { m with staging := memWrite m.staging off bs }) n [b8 cDone]) :=
  if_neg (ne_false_of_eq_true h)

theorem uplRead_serves {addr count : Nat} (h : mgmtHears s n = true) :
    uplRead s n addr count =
      (let v := s.bump .upl n UPL_CNT_MGMT_REQ
       let sec := v.uptime / 1000000000
       let used := if (v.upl n).readSec = sec then (v.upl n).readCount else 0
       if v.rbit .upl n UPL_MGMT 1 = false ∨ v.fld .upl n UPL_MGMT 15 8 ≤ used ∨ count = 0 ∨ 64 < count ∨ addr % 4 ≠ 0 then
         mgmtDenied v n
       else
         let x := openReads count (v.modUpl n fun y => { y with readSec := sec, readCount := used + 1 }) addr
         let code := if x.2.any fun e => decide (e.1 = cDenied) then cDenied
           else if x.2.any fun e => decide (e.1 = cAbsent) then cAbsent else cDone
         respond x.1 n (b8 code :: x.2.flatMap fun e => leBytes 4 e.2.toNat)) :=
  if_neg (ne_false_of_eq_true h)

end

section
variable {s : State} {port off len : Nat}

theorem submitRequest_uplink (hp : port < 4) :
    submitRequest s port off len = if mgmtHears s port then takeRequest (s.bump .upl port UPL_CNT_MGMT_REQ) (400 + port) off len else s :=
  (if_neg (by omega)).trans (if_pos hp)

theorem submitRequest_nowhere (hp : 4 ≤ port) (hi : port ≠ 410) : submitRequest s port off len = s :=
  (if_neg hi).trans (if_neg (Nat.not_lt.mpr hp))

end

section
variable {s : State} {addr : Word} (h : i2cBusy s = false)
include h

/-- An address that is not a word's is denied. -/
theorem rdAddrWrite_denies (ha : addr.toNat % 4 ≠ 0) :
    Machine.rdAddrWrite s addr = filePut (filePut s 0x04 (leBytes 4 addr.toNat)) 0x08 (leBytes 4 0 ++ [b8 cDenied]) :=
  (if_neg (ne_true_of_eq_false h)).trans (if_pos ha)

theorem rdAddrWrite_reads (ha : addr.toNat % 4 = 0) :
    Machine.rdAddrWrite s addr =
      (let x := openRead (filePut s 0x04 (leBytes 4 addr.toNat)) addr.toNat
       filePut x.1 0x08 (leBytes 4 x.2.2.toNat ++ [b8 x.2.1])) :=
  (if_neg (ne_true_of_eq_false h)).trans (if_neg (not_not.mpr ha))

end

/-- A read of the low half of the seconds latches the rest of the time (R565). -/
theorem ctlRead_secLo {s : State} {addr : Nat} {d : RegDesc} (hn : named addr = some (.heath, 0, d, 0)) (ho : d.off = HEATH_TB_SEC_LO)
    (hg : gate s .heath 0 (d.off + d.stride * 0) addr = .open_) : (ctlRead s addr).1 = tbLatch s := by
  rw [ctlRead, hn]
  dsimp only
  rw [hg]
  exact if_pos ho

/-- Settles O52: each command does its function's work at its instant, and the function's cases are those of the statement. -/
theorem managementAccess : Obligations.ManagementAccess := by
  refine ⟨fun s n off bs hn => ?stage, fun s t n addr count hn => ?read, fun s t port off len => ?submit, fun s addr => ?address,
    fun s off bs => ?bytes, fun s t off len => ?length, fun s t req d hn ho hg => ?time⟩
  case stage =>
    have run : exec (.writeStaging n off bs) s = answer (mgmtStage s n off bs) := congrArg answer (if_pos (decide_eq_true hn))
    rw [run]
    exact ⟨fun h => congrArg answer (if_pos h), fun h => congrArg answer (mgmtStage_serves h)⟩
  case read =>
    have run : exec (.read t n addr count) s = answer (uplRead (s.reach t) n addr count) :=
      answerAt_within (decide_eq_true hn) s t (uplRead · n addr count)
    rw [run]
    exact ⟨fun h => congrArg answer (if_pos h), fun h => congrArg answer (uplRead_serves h)⟩
  case submit =>
    have run : exec (.submit t port off len) s = answer (submitRequest (s.reach t) port off len) := rfl
    rw [run]
    refine ⟨fun hi => ?_, fun hp hm => ?_, fun hp hm => ?_, fun hp hi => congrArg answer (submitRequest_nowhere hp hi)⟩
    · exact congrArg answer (if_pos hi)
    · exact congrArg answer ((submitRequest_uplink hp).trans (if_pos hm))
    · exact congrArg answer ((submitRequest_uplink hp).trans (if_neg (ne_true_of_eq_false hm)))
  case address =>
    have run : exec (.rdAddrWrite addr) s = answer (Machine.rdAddrWrite s addr) := rfl
    rw [run]
    exact ⟨fun h => congrArg answer (if_pos h), fun h ha => congrArg answer (rdAddrWrite_denies h ha),
      fun h ha => congrArg answer (rdAddrWrite_reads h ha)⟩
  case bytes => rfl
  case length => rfl
  case time =>
    have run : exec (.tbSecLoRead t req) s = answer (ctlRead (s.reach t) (regAddr .heath 0 HEATH_TB_SEC_LO)).1 := rfl
    exact run.trans (congrArg answer (ctlRead_secLo hn ho hg))

end Sys2Proof.Proofs
end
